-- ==== Sys2Proof/Word.lean ====
section
/-! DEFINITION. The word and byte types, little- and big-endian byte order (R8, R9, R10) and the plainest
arithmetic on them. -/

namespace Sys2Proof

/-- A register or general register value: 64 bits (R11, R81). -/
abbrev Word := BitVec 64
/-- A byte. -/
abbrev Byte := BitVec 8

/-- The 32-bit immediate, sign-extended to 64 bits (R91). -/
def sext32 (v : BitVec 32) : Word := v.signExtend 64
/-- The 32-bit immediate, zero-extended to 64 bits (R93). -/
def zext32 (v : BitVec 32) : Word := v.zeroExtend 64

/-- Bit `i` of a number. -/
def bit (v i : Nat) : Nat := v / 2 ^ i % 2

/-- Bits [hi:lo] of a number, both ends included (R8). -/
def bits (v hi lo : Nat) : Nat := v / 2 ^ lo % 2 ^ (hi + 1 - lo)

/-- `v` with bits [hi:lo] replaced by `x`. -/
def setBits (v hi lo x : Nat) : Nat :=
  v / 2 ^ (hi + 1) * 2 ^ (hi + 1) + x % 2 ^ (hi + 1 - lo) * 2 ^ lo + v % 2 ^ lo

/-- The `n` bytes of a value, least significant first (R9). -/
def leBytes : Nat → Nat → List Byte
  | 0, _ => []
  | n + 1, v => BitVec.ofNat 8 v :: leBytes n (v / 256)

/-- The value of bytes, least significant first (R9). -/
def leNat : List Byte → Nat
  | [] => 0
  | b :: bs => b.toNat + 256 * leNat bs

/-- The `n` bytes of a value, most significant first (R10). -/
def beBytes (n v : Nat) : List Byte := (leBytes n v).reverse

/-- The value of bytes, most significant first (R10). -/
def beNat (bs : List Byte) : Nat := leNat bs.reverse

/-- `n` zero bytes. -/
def zeros (n : Nat) : List Byte := List.replicate n 0

/-- `n` bytes of a list from offset `o`; bytes past its end read 0. -/
def slice (bs : List Byte) (o n : Nat) : List Byte :=
  let t := (bs.drop o).take n
  t ++ zeros (n - t.length)

/-- The little-endian value of `n` bytes at offset `o` of a list. -/
def fieldAt (bs : List Byte) (o n : Nat) : Nat := leNat (slice bs o n)

/-- A value of `w` bits read as two's complement. -/
def signedOf (w v : Nat) : Int :=
  let u := v % 2 ^ w
  if 2 ^ (w - 1) ≤ u then (u : Int) - (2 ^ w : Nat) else u

/-- The value a map (a list of pairs sorted by key) holds at `k`, or `dflt`. -/
def mget {α : Type} (m : List (Nat × α)) (dflt : α) (k : Nat) : α :=
  match m with
  | [] => dflt
  | (i, v) :: r => if i = k then v else mget r dflt k

/-- The map with `v` at key `k`. -/
def mset {α : Type} (m : List (Nat × α)) (k : Nat) (v : α) : List (Nat × α) :=
  match m with
  | [] => [(k, v)]
  | (i, w) :: r => if k < i then (k, v) :: (i, w) :: r else if i = k then (k, v) :: r else (i, w) :: mset r k v

/-- The map with nothing at key `k`. -/
def mdel {α : Type} (m : List (Nat × α)) (k : Nat) : List (Nat × α) := m.filter (fun e => e.1 != k)

/-- A list with element `i` replaced; unchanged where it has no such element. -/
def lset {α : Type} : List α → Nat → α → List α
  | [], _, _ => []
  | _ :: r, 0, v => v :: r
  | x :: r, i + 1, v => x :: lset r i v

/-- The quotient rounded up. -/
def ceilDiv (a b : Nat) : Nat := (a + b - 1) / b

end Sys2Proof
end

