-- ==== Sys2Proof/Types.lean ====
section
/-! DEFINITION. The operand types of the commands: who asks, which tile, strand, register, port or context is
meant, and the contents of the messages a command brings. Syntax.lean holds the one inductive of the commands. -/

namespace Sys2Proof

/-- Logical tile number (R2). -/
abbrev TileId := Fin 256
/-- A router, by the physical identifier of its position (R17); identifiers 68 to 127 of a die are never used. -/
abbrev RouterId := Fin 512
/-- Strand number s0 to s7 (R81). -/
abbrev StrandId := Fin 8
/-- Frond number (R82). -/
abbrev FrondId := Fin 8
/-- General register g0 to g31 (R81). -/
abbrev GReg := Fin 32
/-- Predicate register p0 to p7 (R81). -/
abbrev PReg := Fin 8
/-- Partition number; 0 marks no partition (R28). -/
abbrev PartId := Fin 16
/-- Nopra context number (R413). -/
abbrev CtxId := Fin 4096
/-- Ethernet port: 0 H, 1 to 16 S0 to S15, 17 V (TIME_CTRL.PTP_PORT). -/
abbrev PortId := Fin 18
/-- Descriptor slot d0 to d63 (R110). -/
abbrev DSlot := Fin 64
/-- The 32-bit immediate field of an instruction (R87). -/
abbrev Imm := BitVec 32

/-- The credential an access carries (R3, R5). `dmc` is the management controller's own access (R38). -/
inductive Cred where
  | none
  | owner
  | tenant (p : PartId)
  | dmc
  deriving DecidableEq, Repr

/-- The second operand b of an ALU or compare instruction: a register (OP 0x01, 0x03) or IMM (OP 0x02, 0x04). -/
inductive Opnd where
  | reg (r : GReg)
  | imm (v : Imm)
  deriving DecidableEq, Repr

/-- Which strand issues an instruction, and the guard of R88: it executes if p[PRED] XOR PN is 1. -/
structure Iss where
  tile   : TileId
  strand : StrandId
  pred   : PReg
  pn     : Bool
  deriving DecidableEq, Repr

/-- What a memory read found under its check bits: nothing wrong, a corrected single-bit error, or an
uncorrectable error (R259, R490). The error is the environment's, so the command brings it. -/
inductive Ecc where
  | ok | corrected | uncorrectable
  deriving DecidableEq, Repr

/-- The fields of a macro-instruction other than OP, PRED and PN (R104), and what the check bits say of the words that its issue
reads or merges: its chain words, its strand's stores, its descriptors (R259). -/
structure Mac where
  da : DSlot
  db : DSlot
  dc : DSlot
  dd : DSlot
  k : Fin 4
  spec : BitVec 28
  ecc : Ecc
  deriving DecidableEq, Repr

/-- The engines of a tile (R105). -/
inductive EngineId where
  | mx | vx | dma0 | dma1 | fc
  deriving DecidableEq, Repr

/-- An issue of an instruction that reads check bits as it runs, and what they say of the words it reads (R259). -/
structure IssRead extends Iss where
  ecc : Ecc
  deriving DecidableEq, Repr
/-- A queue of a tile, and what the check bits say of the entry read (R259, R281). -/
structure QueueRead where
  q : Fin 64
  ecc : Ecc
  deriving DecidableEq, Repr
/-- A tile, and what the check bits say of the words that one of its engines reads or merges there (R259). -/
structure TileRead where
  tile : TileId
  ecc : Ecc
  deriving DecidableEq, Repr
/-- A DMA engine, 0 or 1, and what the check bits say of the line read (R259, R382). -/
structure EngineRead where
  eng : Fin 2
  ecc : Ecc
  deriving DecidableEq, Repr
/-- The register or memory word at an address, and the bytes of the access (R11). -/
structure RegSpan where
  addr : Nat
  width : Nat
  deriving DecidableEq, Repr

/-- A router's five inputs and outputs, in the order of R39. -/
inductive Dir where
  | n | e | s | w | l
  deriving DecidableEq, Repr

/-- The lanes and classes of a channel, in the order of MESH_Rn_FLITS (R312, R332). -/
inductive FClass where
  | hitch | c | m | q | g | t
  deriving DecidableEq, Repr

/-- The scratchpad ports, numbered as R232 numbers them. -/
inductive SpPort where
  | mxA | mxW | mxO | vxI0a | vxI0b | vxI1a | vxI1b | vxOa | vxOb | dmaIn | dmaOut | meshIn | meshOut
  | core | fill | scrub
  deriving DecidableEq, Repr

/-- The streams of a partition (R375) and the borrowers of idle slots (R376). -/
inductive StreamId where
  | read | write | remote | sweep | patrol
  deriving DecidableEq, Repr

/-- An IEEE 1588 event message received on a port (R406): whether it is a Sync or the Follow_Up of one, the low 32
bits of its origin seconds, the fraction of a cycle of its timestamp, and the frame from its destination address. -/
structure PtpEvent where
  sync : Bool
  twoStep : Bool
  followUp : Bool
  origin : BitVec 32
  frac : Nat
  frame : List Byte
  deriving DecidableEq, Repr

/-- What an Ethernet frame carries (R402). -/
inductive FrameKind where
  | nopra | ptp | lldp | fragment | other
  deriving DecidableEq, Repr

/-- A received Ethernet frame as FRAME_RECEIVE sees it (R402 to R405): whether it came under MACsec, whether its
ICV verified, its size and the FEC codewords corrected and uncorrectable in it; under MACsec, the number of its association and its
whole packet number (R405). -/
structure FrameRx where
  kind : FrameKind
  macsec : Bool
  icvOk : Bool
  bytes : Nat
  fecCorrected : Nat
  fecBad : Nat
  an : Nat
  pn : Nat
  deriving DecidableEq, Repr

/-- What a receiver finds of a UDP checksum (R409): it is right, wrong, or 0. -/
inductive UdpSum where
  | good | bad | zero
  deriving DecidableEq, Repr

/-- The header of a received Nopra message (R410) and what the receiver finds of it: the port it came on, the destination port and
checksum of its datagram (R409), whether its tag verifies (R411), and the address it came from (R436). `reserved` says that its
TYPE is a reserved code instead of the command's own (R412); `otherOp` gives a SEC_CALL an OP that no operation has, instead of its
own (R454). -/
structure NHdr where
  port : PortId
  dctx : CtxId
  sctx : Nat
  version : Nat
  seqv : Bool
  ackv : Bool
  nak : Bool
  incarn : Nat
  txc : Nat
  seq : Nat
  ack : Nat
  authOk : Bool
  len : Nat
  src : Nat
  dport : Nat
  sum : UdpSum
  reserved : Bool
  otherOp : Option Nat
  deriving DecidableEq, Repr

/-- The payload of a REQ (R423, R429). `deadline` is device time in cycles; `tokens` are the inline tokens. -/
structure ReqMsg where
  tag : Word
  part : PartId
  cls : Nat
  ref : Bool
  lin : Nat
  lout : Nat
  deadline : Option Nat
  tokens : List (BitVec 32)
  addr : Nat
  deriving DecidableEq, Repr

/-- The payload of an OPEN (R423); a host's carries EK (R428). -/
structure OpenMsg where
  incarn : Nat
  versions : Nat
  ek : Option (List Byte)
  deriving DecidableEq, Repr

/-- A queue item (R424). -/
structure QItem where
  dtile : TileId
  queue : Fin 64
  epoch : Nat
  user : Nat
  stile : Nat
  sroute : Nat
  dfrond : FrondId
  sfrond : FrondId
  light : Bool
  len : Nat
  sstrand : Nat
  data : List Byte
  deriving DecidableEq, Repr

/-- A splice item (R424): 64 FP32 values. -/
structure SItem where
  dtile : TileId
  splice : Fin 16
  seq : Nat
  weight : Nat
  stile : Nat
  sroute : Nat
  sfrond : FrondId
  values : List Nat
  deriving DecidableEq, Repr

/-- A hitch item (R424). -/
structure HItem where
  dtile : TileId
  hitch : Fin 32
  count : Nat
  deriving DecidableEq, Repr

/-- A credit item (R424). KIND: 1 CREDIT, 2 REVOKED, 3 CLOSE, 4 STALE, 5 REOPEN, 6 STALE_REOPEN. -/
structure CItem where
  wtile : TileId
  wroute : Fin 128
  kind : Nat
  wfrond : FrondId
  count : Nat
  epochA : Nat
  epochB : Nat
  deriving DecidableEq, Repr

/-- The body of a SECRET_PUT (R454, R458). `secret` is what opening SEALED under the decapsulated key gives, none
when its tag fails. -/
structure SecretMsg where
  part : PartId
  kind : Nat
  index : Nat
  ekSerial : Nat
  secret : Option (List Byte)
  deriving DecidableEq, Repr

/-- A security call (R454): its operation and body; `other` is a call with an OP that no operation has. `sigOk` says whether the
signature in it verifies. -/
inductive SecOp where
  | challenge
  | bind (role : Nat) (part : PartId) (pk : List Byte) (sigOk : Bool)
  | attest (part : PartId) (nonce : List Byte)
  | getCert (role : Nat)
  | getDigests (part : PartId) (first : Nat)
  | kemGet (part : PartId)
  | secretPut (m : SecretMsg)
  | enroll (kind auth : Nat) (digest pk : List Byte) (sigOk : Bool)
  | commitSvn
  | flashErase (offset count : Nat)
  | flashWrite (offset : Nat) (data : List Byte)
  | other (op : Nat)
  deriving DecidableEq, Repr

/-- A fault found by an array check (R511). -/
inductive ArrayFault where
  | row (i : Nat)
  | col (i : Nat)
  | lane (i : Nat)
  deriving DecidableEq, Repr

/-- What the SPD hub says of a module (R385, R529, R532): its type (1 RDIMM, 2 MRDIMM, 3 any that is not supported: another type, no ECC, x16
devices, more than 256 GiB), width (0 x4, 1 x8), capacity in GiB, highest rate in MT/s, manufacturer, serial number and part number. -/
structure ModRx where
  type : Nat
  width : Nat
  gib : Nat
  rate : Nat
  maker : Nat
  serial : Nat
  part : List Byte
  deriving DecidableEq, Repr

/-- What the SPD hubs and training say of a DDR5 channel (R385, R386): the modules in its two slots, whether every SPD hub could be read,
and whether training passed. -/
structure DdrRx where
  slot0 : Option ModRx
  slot1 : Option ModRx
  spd : Bool
  ok : Bool
  deriving DecidableEq, Repr

/-- The results of memory training (R399): the stacks that passed and the eight channels. -/
structure TrainResult where
  hbm : BitVec 12
  ddr : List DdrRx
  deriving DecidableEq, Repr

/-- What a survey measures that the device does not hold already (R529, R532): 32 sense points (mean, minimum, maximum), the stack
identifications, and for each module slot whether its SPD hub answered; none, or false, for an item that could not be read. -/
structure SurveyRx where
  supplies : List (Option (Nat × Nat × Nat))
  hbm : List (Option (List Byte))
  dimms : List Bool
  deriving DecidableEq, Repr

/-- A PMBus reading of a rail (R539): VIN in 10 mV, VOUT in mV, IOUT in 0.1 A, temperature, STATUS_WORD. -/
structure RailRx where
  vin : Nat
  vout : Nat
  iout : Nat
  temp : Nat
  status : Nat
  deriving DecidableEq, Repr

end Sys2Proof
end

