-- ==== Sys2Proof/Syntax.lean ====
section
/-! DEFINITION. The commands of the device: one constructor per row of the spec's table, in its order, each with
the operands its rule gives it. -/

namespace Sys2Proof

/-- A command: an operation given to the device or an event that befalls it. -/
inductive Instr where
  /-- REGISTER_WRITE (R12): A write to a register that has no row of its own takes effect field by field under the
  access codes, reserved-field, sealing and credential rules. -/
  | registerWrite (cred : Cred) (addr : Nat) (width : Nat) (value : Word)
  /-- READ_CLEAR (R15): A read of an RC field returns its value and clears it in the same step. -/
  | readClear (cred : Cred) (addr : RegSpan)
  /-- DUTY_MAP_WRITE (R32): A write of DMC_DUTY_MAP records pending mode changes, or refuses those whose
  precondition fails. -/
  | dutyMapWrite (cred : Cred) (value : Word)
  /-- DUTY_CHANGE_EFFECT (R32): A pending duty-map change takes effect at its point and clears its PENDING bit. -/
  | dutyChangeEffect (field : Fin 12)
  /-- TIME_SET (R45): A write of TIME_SET with ARM arms a change of the second count for the next cycle 0. -/
  | timeSet (cred : Cred) (value : Word)
  /-- TIME_SET_APPLY (R45): At the next cycle 0 an armed TIME_SET is applied from SECOND or from PTP, or it is
  refused. -/
  | timeSetApply 
  /-- TIME_CTRL_WRITE (R55): A write of TIME_CTRL updates compensation and PTP settings, and clears PTP_LOCK when
  PTP_PORT changes. -/
  | timeCtrlWrite (cred : Cred) (value : Word)
  /-- TIME_STEER_WRITE (R54): Under host steering, a write of TIME_STEER is clamped if needed and applied at the
  next cycle 0. -/
  | timeSteerWrite (cred : Cred) (value : Word)
  /-- PPS_EDGE (R49): A rising edge on PPS_IN is captured inside the window, or ignored as spurious, and drives the
  discipline state. -/
  | ppsEdge (offset : Int)
  /-- PPS_MISSED (R49): A capture window that closes without an edge counts a missing pulse and may take the
  discipline to HOLDOVER or FREE. -/
  | ppsMissed 
  /-- SECOND_BOUNDARY (R48): At each cycle 0 of device time the second count advances and ERR_BOUND, steering and
  per-second checks are updated. -/
  | secondBoundary 
  /-- PPS_OUT_FALL (R568): PPS_OUT falls 105,000 cycles after it rose. -/
  | ppsOutFall 
  /-- TIME_EXHAUSTED (R47): At the last representable time the count stops, QUALITY reads EXHAUSTED and admission
  rejects every request. -/
  | timeExhausted 
  /-- PTP_SYNC_TIMEOUT (R55): When no Sync has arrived for 2 seconds the device clears PTP_LOCK and sets PTP_UNLOCK.
  -/
  | ptpSyncTimeout 
  /-- PTP_EVENT_RX (R406): A received IEEE 1588 event message is timestamped and relayed to the host as PTP_RX. -/
  | ptpEventRx (port : PortId) (ev : PtpEvent)
  /-- PEER_DELAY_REQ (R406): A received peer-delay request is answered by the port for cable measurement. -/
  | peerDelayReq (port : PortId) (frame : List Byte)
  /-- REQ (R60): A REQ message from port H is timestamped, checked and passed to admission. -/
  | req (h : NHdr) (m : ReqMsg)
  /-- PROMISE_EXPIRY (R71): A promise that passes without delivery produces a missed-promise record. -/
  | promiseExpiry (part : PartId) (tag : Word)
  /-- ADM_CTRL_WRITE (R80): A write of ADM_Pp_CTRL sets GUARD, UNCRED, HOLD and ENABLE, ignoring ENABLE unless the
  partition can take in. -/
  | admCtrlWrite (cred : Cred) (part : PartId) (value : Word)
  /-- HOST_SCHEDULE_VALID (R75): Writing VALID of a host schedule entry checks it and sets REFUSED if it breaks the
  bounds. -/
  | hostScheduleValid (cred : Cred) (part : PartId) (entry : Fin 256) (value : Word)
  /-- HOST_SCHEDULE_EXPIRY (R76): An entry whose START passes unclaimed is cleared to invalid. -/
  | hostScheduleExpiry (part : PartId) (entry : Fin 256)
  /-- ADD (R91): Adds two operands modulo 2^64 into rd. -/
  | add (x : Iss) (rd ra : GReg) (b : Opnd)
  /-- SUB (R91): Subtracts b from ga modulo 2^64 into rd. -/
  | sub (x : Iss) (rd ra : GReg) (b : Opnd)
  /-- AND (R91): Bitwise AND into rd. -/
  | and_ (x : Iss) (rd ra : GReg) (b : Opnd)
  /-- OR (R91): Bitwise OR into rd. -/
  | or_ (x : Iss) (rd ra : GReg) (b : Opnd)
  /-- XOR (R91): Bitwise XOR into rd. -/
  | xor_ (x : Iss) (rd ra : GReg) (b : Opnd)
  /-- ANDN (R91): ga AND NOT b into rd. -/
  | andn (x : Iss) (rd ra : GReg) (b : Opnd)
  /-- SHL (R91): Shift left by b[5:0] into rd. -/
  | shl (x : Iss) (rd ra : GReg) (b : Opnd)
  /-- SHR (R91): Logical shift right by b[5:0] into rd. -/
  | shr (x : Iss) (rd ra : GReg) (b : Opnd)
  /-- SAR (R91): Arithmetic shift right by b[5:0] into rd. -/
  | sar (x : Iss) (rd ra : GReg) (b : Opnd)
  /-- MUL (R91): Low 64 bits of the product into rd. -/
  | mul (x : Iss) (rd ra : GReg) (b : Opnd)
  /-- MULH (R91): High 64 bits of the signed product into rd. -/
  | mulh (x : Iss) (rd ra : GReg) (b : Opnd)
  /-- MULHU (R91): High 64 bits of the unsigned product into rd. -/
  | mulhu (x : Iss) (rd ra : GReg) (b : Opnd)
  /-- MIN (R91): Signed minimum into rd. -/
  | min_ (x : Iss) (rd ra : GReg) (b : Opnd)
  /-- MAX (R91): Signed maximum into rd. -/
  | max_ (x : Iss) (rd ra : GReg) (b : Opnd)
  /-- MINU (R91): Unsigned minimum into rd. -/
  | minu (x : Iss) (rd ra : GReg) (b : Opnd)
  /-- MAXU (R91): Unsigned maximum into rd. -/
  | maxu (x : Iss) (rd ra : GReg) (b : Opnd)
  /-- CLZ (R91): Count of leading zeros of ga into rd. -/
  | clz (x : Iss) (rd ra : GReg) (b : Opnd)
  /-- POPC (R91): Count of set bits of ga into rd. -/
  | popc (x : Iss) (rd ra : GReg) (b : Opnd)
  /-- SEL (R91): Selects ga or gb by a predicate into rd. -/
  | sel (x : Iss) (rd ra rb : GReg) (p : PReg)
  /-- CMP_EQ (R92): Sets pd if the operands are equal. -/
  | cmpEq (x : Iss) (pd : PReg) (ra : GReg) (b : Opnd)
  /-- CMP_NE (R92): Sets pd if the operands differ. -/
  | cmpNe (x : Iss) (pd : PReg) (ra : GReg) (b : Opnd)
  /-- CMP_LT (R92): Sets pd on signed less than. -/
  | cmpLt (x : Iss) (pd : PReg) (ra : GReg) (b : Opnd)
  /-- CMP_LTU (R92): Sets pd on unsigned less than. -/
  | cmpLtu (x : Iss) (pd : PReg) (ra : GReg) (b : Opnd)
  /-- CMP_GE (R92): Sets pd on signed greater or equal. -/
  | cmpGe (x : Iss) (pd : PReg) (ra : GReg) (b : Opnd)
  /-- CMP_GEU (R92): Sets pd on unsigned greater or equal. -/
  | cmpGeu (x : Iss) (pd : PReg) (ra : GReg) (b : Opnd)
  /-- PAND (R93): pd := pa AND pb. -/
  | pand (x : Iss) (pd pa pb : PReg)
  /-- POR (R93): pd := pa OR pb. -/
  | por (x : Iss) (pd pa pb : PReg)
  /-- PXOR (R93): pd := pa XOR pb. -/
  | pxor (x : Iss) (pd pa pb : PReg)
  /-- PANDN (R93): pd := pa AND NOT pb. -/
  | pandn (x : Iss) (pd pa pb : PReg)
  /-- PTST (R93): pd := (ga AND IMM) is non-zero. -/
  | ptst (x : Iss) (pd : PReg) (ra : GReg) (imm : Imm)
  /-- PGET (R93): Copies p7 to p0 into rd. -/
  | pget (x : Iss) (rd : GReg)
  /-- LI (R93): Loads IMM sign-extended into rd. -/
  | li (x : Iss) (rd : GReg) (imm : Imm)
  /-- LIU (R93): Loads IMM zero-extended into rd. -/
  | liu (x : Iss) (rd : GReg) (imm : Imm)
  /-- LIH (R93): Places IMM in the high 32 bits of rd over the low half of ga. -/
  | lih (x : Iss) (rd ra : GReg) (imm : Imm)
  /-- BR (R94): Branches PC by IMM, or raises PC_RANGE. -/
  | br (x : Iss) (imm : Imm)
  /-- JL (R94): Links PC + 1 into rd and branches by IMM. -/
  | jl (x : Iss) (rd : GReg) (imm : Imm)
  /-- JLR (R94): Links PC + 1 into rd and jumps to ga + IMM. -/
  | jlr (x : Iss) (rd ra : GReg) (imm : Imm)
  /-- LD_B (R96): Loads 8 bits from the tile window, sign- or zero-extended. -/
  | ldB (x : Iss) (rd ra : GReg) (imm : Imm) (zext : Bool)
  /-- LD_H (R96): Loads 16 bits from the tile window, sign- or zero-extended. -/
  | ldH (x : Iss) (rd ra : GReg) (imm : Imm) (zext : Bool)
  /-- LD_W (R96): Loads 32 bits from the tile window, sign- or zero-extended. -/
  | ldW (x : Iss) (rd ra : GReg) (imm : Imm) (zext : Bool)
  /-- LD_D (R96): Loads 64 bits from the tile window. -/
  | ldD (x : Iss) (rd ra : GReg) (imm : Imm)
  /-- ST_B (R96): Puts an 8-bit store into the store buffer. -/
  | stB (x : Iss) (ra rb : GReg) (imm : Imm)
  /-- ST_H (R96): Puts a 16-bit store into the store buffer. -/
  | stH (x : Iss) (ra rb : GReg) (imm : Imm)
  /-- ST_W (R96): Puts a 32-bit store into the store buffer. -/
  | stW (x : Iss) (ra rb : GReg) (imm : Imm)
  /-- ST_D (R96): Puts a 64-bit store into the store buffer. -/
  | stD (x : Iss) (ra rb : GReg) (imm : Imm)
  /-- LOAD_RETURN (R95): A strand load's data returns after its region's latency and the strand's interlock ends. -/
  | loadReturn (tile : TileId) (strand : StrandId) (rd : GReg) (ecc : Ecc)
  /-- STORE_BUFFER_WRITE (R97): The store buffer writes a strand's oldest store to its bytes, freeing an entry and
  ending STORE or FENCE waits. -/
  | storeBufferWrite (tile : TileId) (strand : StrandId) (ecc : Ecc)
  /-- ILLEGAL (R89): A reserved or malformed instruction word raises trap ILLEGAL. -/
  | illegal (tile : TileId) (strand : StrandId) (word : Word)
  /-- QU_SEND (R100): Sends a 64-byte queue entry, waiting for credit. -/
  | quSend (x : IssRead) (rd ra rb : GReg)
  /-- QU_SENDT (R100): Sends a queue entry, waiting at most IMM cycles for credit. -/
  | quSendt (x : IssRead) (rd ra rb : GReg) (imm : Imm)
  /-- QU_SENDN (R100): Sends a queue entry without waiting, or returns FULL. -/
  | quSendn (x : IssRead) (rd ra rb : GReg)
  /-- QU_SENDL (R100): Sends a light-path entry of 1 to 56 bytes in class C. -/
  | quSendl (x : IssRead) (rd ra rb : GReg) (imm : Imm)
  /-- QU_RECV (R278): Moves the head entry of the active frond to scratchpad and returns its credit, or returns
  EMPTY. -/
  | quRecv (x : IssRead) (rd ra : GReg) (q : Fin 64)
  /-- QU_POLL (R279): Waits until the queue holds an entry or is closed or stale, and returns the status word. -/
  | quPoll (x : Iss) (rd : GReg) (q : Fin 64)
  /-- QU_STAT (R279): Returns the queue status word without waiting. -/
  | quStat (x : Iss) (rd : GReg) (q : Fin 64)
  /-- QU_CLOSE (R284): Marks the queue closed for the active frond, discards its entries and sends close notices. -/
  | quClose (x : Iss) (q : Fin 64)
  /-- QU_SPC (R100): Sends a 256-byte splice contribution, waiting for credit. -/
  | quSpc (x : IssRead) (rd ra rb : GReg)
  /-- QU_SPRD (R293): Moves the completed head splice entry to scratchpad and sends credits, or returns EMPTY. -/
  | quSprd (x : IssRead) (rd ra : GReg) (s : Fin 16)
  /-- QU_TADD (R300): Sends a fetch-and-add to a tally and waits for the previous value. -/
  | quTadd (x : Iss) (rd ra rb : GReg)
  /-- QU_TSET (R300): Sets a tally's value on its home tile. -/
  | quTset (x : Iss) (rd ra rb : GReg)
  /-- SEND_TIMEOUT (R276): A qu.sendt that has waited IMM cycles without credit completes TIMEOUT with nothing sent.
  -/
  | sendTimeout (tile : TileId) (strand : StrandId)
  /-- HI_ARM (R298): Arms a hitch with EXPECT and records the strand's seen generation. -/
  | hiArm (x : Iss) (rd ra : GReg) (h : BitVec 8)
  /-- HI_SIG (R101): Sends one hitch token along a route in class C. -/
  | hiSig (x : Iss) (rd rb : GReg)
  /-- HI_WAIT (R298): Waits until the hitch's generation differs from the strand's seen generation. -/
  | hiWait (x : Iss) (rd : GReg) (h : BitVec 8)
  /-- HI_GEN (R298): Returns the hitch's generation and updates the seen generation. -/
  | hiGen (x : Iss) (rd : GReg) (h : BitVec 8)
  /-- TM_NOW (R102): Returns the device time of the issue cycle. -/
  | tmNow (x : Iss) (rd : GReg)
  /-- TM_CYC (R102): Returns cycles since the tile's last reset. -/
  | tmCyc (x : Iss) (rd : GReg)
  /-- TM_ADD (R102): Adds cycles to a packed device time with carry into seconds. -/
  | tmAdd (x : Iss) (rd ra rb : GReg)
  /-- TM_AT (R57): Waits until a target device time, or completes at once if it is past or beyond the last
  representable time. -/
  | tmAt (x : Iss) (rd ra : GReg)
  /-- TM_AT_EXPIRY (R57): The target time of a waiting tm.at is reached and the strand resumes within 4 cycles. -/
  | tmAtExpiry (tile : TileId) (strand : StrandId)
  /-- TM_WAIT (R102): Waits a number of cycles from issue. -/
  | tmWait (x : Iss) (ra : GReg) (imm : Imm)
  /-- TM_WAIT_EXPIRY (R102): A tm.wait interval ends and the strand resumes within 4 cycles. -/
  | tmWaitExpiry (tile : TileId) (strand : StrandId)
  /-- SY_HALT (R103): The strand enters HALT. -/
  | syHalt (x : Iss)
  /-- SY_YIELD (R103): The strand is not ready for the next 8 cycles. -/
  | syYield (x : Iss)
  /-- SY_YIELD_EXPIRY (R103): The 8 cycles of a sy.yield pass and the strand is ready again. -/
  | syYieldExpiry (tile : TileId) (strand : StrandId)
  /-- SY_FENCE (R98): Waits until all the strand's stores are written. -/
  | syFence (x : Iss)
  /-- SY_WAIT (R103): Waits until a completion counter falls to IMM and returns and clears its error field. -/
  | syWait (x : Iss) (rd : GReg) (k : Fin 4) (imm : Imm)
  /-- SY_START (R103): Starts another strand at an instruction if it is IDLE or HALT, else BUSY. -/
  | syStart (x : Iss) (rd ra : GReg) (imm : Imm)
  /-- SY_STOP (R103): Puts another strand in HALT if it is READY, WAIT or HALT, else BUSY. -/
  | syStop (x : Iss) (rd ra : GReg)
  /-- SY_TRAP (R103): Raises trap SOFT with TVAL IMM. -/
  | syTrap (x : Iss) (imm : Imm)
  /-- SY_RTE (R103): Leaves the trap handler, resuming at EPC or EPC + 1. -/
  | syRte (x : Iss) (imm : Imm)
  /-- SY_CSR (R103): Returns a core value selected by IMM. -/
  | syCsr (x : Iss) (rd : GReg) (imm : Imm)
  /-- SY_FAULT (R103): Raises trap PROGRAM, which is never handled. -/
  | syFault (x : Iss) (imm : Imm)
  /-- SY_KSTAT (R103): Returns a completion counter's count and error without waiting. -/
  | syKstat (x : Iss) (rd : GReg) (k : Fin 4)
  /-- HALT_REQ (R86): Setting or clearing TILE_CORE_CTRL.HALT_REQ moves every strand into or out of DEBUG. -/
  | haltReq (cred : Cred) (tile : TileId) (set : Bool)
  /-- STEP (R86): Writing TILE_CORE_CTRL.STEP lets one DEBUG strand issue one instruction. -/
  | step_ (cred : Cred) (tile : TileId) (strand : StrandId)
  /-- GPR_WRITE (R122): An owner write of a general register of a DEBUG strand is applied, otherwise DENIED. -/
  | gprWrite (cred : Cred) (tile : TileId) (strand : StrandId) (r : GReg) (value : Word)
  /-- MM_MM (R134): Issues a matrix product into the matrix engine's queue after the descriptor checks. -/
  | mmMm (x : Iss) (m : Mac)
  /-- MM_ZERO (R148): Issues an accumulator clear of DA. -/
  | mmZero (x : Iss) (m : Mac)
  /-- MM_OUT (R148): Issues a conversion of accumulator DA to scratchpad DC. -/
  | mmOut (x : Iss) (m : Mac)
  /-- MM_SPL (R148): Issues sending of accumulator DA as splice contributions. -/
  | mmSpl (x : Iss) (m : Mac)
  /-- MM_F2 (R185): Issues a fused two-product macro-instruction with a row function. -/
  | mmF2 (x : Iss) (m : Mac)
  /-- MM_ATT (R191): Issues an attention macro-instruction over key blocks. -/
  | mmAtt (x : Iss) (m : Mac)
  /-- MM_WG (R197): Issues a weight-gradient product with transposed streaming of DA. -/
  | mmWg (x : Iss) (m : Mac)
  /-- VX_RUN (R205): Issues a vector chain with its chain words into the vector engine's queue. -/
  | vxRun (x : Iss) (m : Mac)
  /-- VX_CLOSE (R223): Issues a close of a scale record's pass. -/
  | vxClose (x : Iss) (m : Mac)
  /-- VX_OPT (R224): Issues an optimiser update of weights and moments. -/
  | vxOpt (x : Iss) (m : Mac)
  /-- DM_GET (R382): Issues a DMA read from a device address into scratchpad. -/
  | dmGet (x : Iss) (m : Mac)
  /-- DM_PUT (R382): Issues a DMA write from scratchpad to a device address. -/
  | dmPut (x : Iss) (m : Mac)
  /-- DM_MPUT (R382): Issues a multicast DMA write to every leaf of a tree. -/
  | dmMput (x : Iss) (m : Mac)
  /-- DM_MCOPY (R382): Issues a memory-to-memory copy through the hubs. -/
  | dmMcopy (x : Iss) (m : Mac)
  /-- SP_FILL (R256): Issues a fill of DC with zeros or a pattern. -/
  | spFill (x : Iss) (m : Mac)
  /-- SP_COPY (R256): Issues a bit-exact copy from DA to DC. -/
  | spCopy (x : Iss) (m : Mac)
  /-- SP_BFILL (R252): Fills n lines of a bight, or completes with BIGHT. -/
  | spBfill (x : Iss) (m : Mac)
  /-- SP_BDRAIN (R252): Drains n lines of a bight, or completes with BIGHT. -/
  | spBdrain (x : Iss) (m : Mac)
  /-- SP_BRESET (R252): Resets a bight's positions and count. -/
  | spBreset (x : Iss) (m : Mac)
  /-- MACRO_START (R107): An engine starts the next queued macro-instruction once the one before it and any hazard
  or bight claim allow. -/
  | macroStart (tile : TileRead) (engine : EngineId)
  /-- MACRO_COMPLETE (R108): An engine completes a macro-instruction, decrementing its counter and recording any
  error status. -/
  | macroComplete (tile : TileRead) (engine : EngineId)
  /-- ENGINE_LINE_ACCESS (R235): A scratchpad port makes a line access in the cycle the wheel connects it to the
  line's bank. -/
  | engineLineAccess (tile : TileId) (port : SpPort) (ecc : Ecc)
  /-- MX_WRITE_OUT (R140): Write-out of a logical tile starts once its last accumulator update is written. -/
  | mxWriteOut (tile : TileRead)
  /-- SPLICE_CONTRIBUTION_SEND (R147): The matrix engine sends a splice contribution line once its credit arrives.
  -/
  | spliceContributionSend (tile : TileRead)
  /-- FUNCTION_PASS (R190): The function unit runs a row function over an A tile or key block once its inputs and
  bight room are ready. -/
  | functionPass (tile : TileId) (ecc : Ecc)
  /-- DUTY_FRAME_BOUNDARY (R126): At each 16-cycle frame boundary the array takes up any new matrix issue duty. -/
  | dutyFrameBoundary 
  /-- ARRAY_REPAIR (R150): A row or column repair takes effect once the matrix engine is idle. -/
  | arrayRepair (tile : TileId)
  /-- SP_POWER_REQ (R240): A write of TILE_SP_POWER.REQ starts quarter power transitions. -/
  | spPowerReq (cred : Cred) (tile : TileId) (value : Word)
  /-- SP_QUARTER_QUIESCED (R240): A quarter leaving ON has no access in flight and begins to lower its supply. -/
  | spQuarterQuiesced (tile : TileId) (quarter : Fin 4)
  /-- SP_POWER_TRANSITION_DONE (R240): A quarter finishes its power transition and takes its new state. -/
  | spPowerTransitionDone (tile : TileId) (quarter : Fin 4)
  /-- SCRUB_ACCESS (R492): A tile's scrub engine reads, corrects and rewrites one word or line every INTERVAL
  cycles. -/
  | scrubAccess (tile : TileId) (ecc : Ecc)
  /-- CREDIT_ARRIVE (R276): A credit reaches a route, ending the oldest credit wait on it. -/
  | creditArrive (tile : TileId)
  /-- QUEUE_ENTRY_ARRIVE (R277): A queue entry reaches its queue and takes a slot, or is discarded as closed, stale
  or retired. -/
  | queueEntryArrive (tile : TileId)
  /-- EXTENSION_SPILL (R281): An arrived entry moves to the queue extension and its credit is returned. -/
  | extensionSpill (tile : TileId) (q : QueueRead)
  /-- EXTENSION_REFILL (R282): The oldest extension entry of the active frond moves back into a hardware slot. -/
  | extensionRefill (tile : TileId) (q : QueueRead)
  /-- CLOSE_NOTICE (R284): A close notice reaches a route, which becomes CLOSED and ends its waits. -/
  | closeNotice (tile : TileId)
  /-- STALE_NOTICE (R285): A stale notice reaches a route, which becomes STALE and ends its waits. -/
  | staleNotice (tile : TileId)
  /-- REOPEN_NOTICE (R286): A reopen reaches a route, restoring its grant and epoch and making it OPEN. -/
  | reopenNotice (tile : TileId)
  /-- REVOKED_CREDIT (R287): A revoked credit reaches a route, which becomes REVOKED. -/
  | revokedCredit (tile : TileId)
  /-- STALL_PROBE (R288): A send that has waited STALL_LIMIT cycles sends a stall probe to its destination tile. -/
  | stallProbe (tile : TileId) (waiter : Option StrandId)
  /-- STALL_PROBE_ARRIVE (R288): A stall probe is checked for a mutual or reconvergence stall, or counted. -/
  | stallProbeArrive (tile : TileId)
  /-- SPLICE_CONTRIBUTION_ARRIVE (R292): A contribution is added exactly into its splice entry, or discarded and
  counted. -/
  | spliceContributionArrive (tile : TileId)
  /-- SPLICE_ENTRY_COMPLETE (R295): A splice entry whose weights reach CNT is rounded once and becomes readable. -/
  | spliceEntryComplete (tile : TileId) (s : Fin 16)
  /-- HITCH_TOKEN_ARRIVE (R297): Hitch tokens add to COUNT and complete a generation when COUNT reaches EXPECT. -/
  | hitchTokenArrive (tile : TileId)
  /-- TALLY_OP_ARRIVE (R301): The home tile serves tally operations in port order and returns replies. -/
  | tallyOpArrive (tile : TileId)
  /-- TALLY_REPLY_ARRIVE (R300): A tally reply reaches the requesting strand and writes rd. -/
  | tallyReplyArrive (tile : TileId)
  /-- FLIT_RECEIVE (R321): A flit arrives at a router input, is CRC-checked and buffered or delivered. -/
  | flitReceive (r : RouterId) (dir : Dir) (cls : FClass) (crcOk : Bool)
  /-- FLIT_FORWARD (R317): A router output sends its next flit by class priority and weighted rounds. -/
  | flitForward (r : RouterId) (dir : Dir) (cls : FClass)
  /-- FLIT_REPLAY (R321): A channel replays a flit that failed its CRC. -/
  | flitReplay (r : RouterId) (dir : Dir) (cls : FClass) (crcOk : Bool)
  /-- REDUCTION_COMBINE (R326): A reduction entry holding a contribution from every input adds them and sends one.
  -/
  | reductionCombine (r : RouterId) (splice : TileId × Fin 16)
  /-- REGION_LOAD (R348): PART_Pp_RCMD.LOAD holds the region and starts checking an image, or is refused LOAD_BUSY.
  -/
  | regionLoad (cred : Cred) (part : PartId) (value : Word)
  /-- REGION_ABORT (R348): PART_Pp_RCMD.ABORT ends a load in progress with LOAD_ABORTED. -/
  | regionAbort (cred : Cred) (part : PartId)
  /-- REGION_CHECK_DONE (R345): Header, section table and claims are checked, and the region is cleared for loading
  or sent to CLEARING. -/
  | regionCheckDone (part : PartId)
  /-- IMAGE_SECTION_WRITE (R336): A section of the image is written into the region's tiles as its bytes arrive. -/
  | imageSectionWrite (part : PartId)
  /-- REGION_VERIFY (R351): After the last section, the device verifies digests and configuration and records them,
  or clears the region. -/
  | regionVerify (part : PartId)
  /-- REGION_CLEAR_DONE (R348): The clear of a failed load completes and the region becomes EMPTY. -/
  | regionClearDone (part : PartId)
  /-- LOAD_STREAM_TIMEOUT (R346): No image byte arrives for 105,000,000 cycles and the load ends LOAD_TRUNCATED. -/
  | loadStreamTimeout (part : PartId)
  /-- REGION_GO (R352): PART_Pp_RCMD.GO schedules a LOADED region to leave the hold at RSTART. -/
  | regionGo (cred : Cred) (part : PartId)
  /-- REGION_START (R352): At RSTART the region's tiles leave the hold and frond 0 starts. -/
  | regionStart (part : PartId)
  /-- FOLD_INSTANT (R354): A fold step falls due and its tiles begin the switch to its frond. -/
  | foldInstant (part : PartId) (step : Option (Fin 256))
  /-- FOLD_OLD_DRAINED (R355): Under RETIRE no entry of the old frond remains and the switch moves to WAIT. -/
  | foldOldDrained (tile : TileId)
  /-- FOLD_SWITCH_BEGIN (R355): The old frond's counters are zero and nothing is in flight, so the 16-cycle switch
  begins. -/
  | foldSwitchBegin (tile : TileId)
  /-- FOLD_SWITCH_END (R356): The switch ends and the new frond becomes active, retiring or discarding the old as
  the mode says. -/
  | foldSwitchEnd (tile : TileId)
  /-- SWITCH_COMMAND (R358): PART_Pp_SWITCH.GO schedules an unplanned switch at SWTIME, or is refused. -/
  | switchCommand (cred : Cred) (part : PartId) (value : Word)
  /-- DRAIN_START (R359): PART_Pp_DRAIN.START begins a drain of a RUNNING region in the chosen mode. -/
  | drainStart (cred : Cred) (part : PartId) (value : Word)
  /-- DRAIN_COMPLETE (R361): Every tile is empty and no traffic remains, so the region becomes DRAINED. -/
  | drainComplete (part : PartId)
  /-- DRAIN_LIMIT (R361): A drain reaches LIMIT, ends STUCK and writes DRAIN_STUCK. -/
  | drainLimit (part : PartId)
  /-- RESUME (R363): PART_Pp_DRAIN.RESUME returns a DRAINED region to RUNNING, or is refused. -/
  | resume (cred : Cred) (part : PartId)
  /-- RESTART (R363): PART_Pp_DRAIN.RESTART performs a recovery restart of a DRAINED region, or is refused. -/
  | restart (cred : Cred) (part : PartId) (reopen : Bool)
  /-- HBM_ILV_WRITE (R371): A write of HBM_CFG.ILV changes the interleave only while no partition holds an HBM
  range. -/
  | hbmIlvWrite (cred : Cred) (value : Word)
  /-- MEM_SPLIT_WRITE (R375): A write of MEM_Pp_SPLIT sets stream shares, or is refused if they exceed 64. -/
  | memSplitWrite (cred : Cred) (part : PartId) (value : Word)
  /-- MEM_RANGE_WRITE (R390): A write of MEM_Pp_RANGE assigns pages to the partition, or is refused on overlap. -/
  | memRangeWrite (cred : Cred) (part : PartId) (k : Fin 8) (value : Word)
  /-- DMA_LINE_ISSUE (R380): A DMA engine issues one line access of its current transfer. -/
  | dmaLineIssue (tile : TileId) (eng : Fin 2) (ecc : Ecc)
  /-- DMA_LINE_COMPLETE (R384): A DMA line access returns its data or acknowledgement at the drop. -/
  | dmaLineComplete (tile : TileId) (eng : EngineRead)
  /-- CHANNEL_SLOT (R374): A memory channel slot serves its owner's access or a borrowed access. -/
  | channelSlot (chan : Fin 392) (owner : Option (PartId × StreamId)) (ecc : Ecc)
  /-- REFRESH (R379): A bank refresh completes and releases any access waiting on it. -/
  | refresh (chan : Fin 392)
  /-- KEY_ROTATE (R391): MEM_Pp_KEY.ROTATE begins a key rotation, or is refused. -/
  | keyRotate (cred : Cred) (part : PartId)
  /-- SWEEP_PAGE (R393): Under host-assisted sweep, a write of MEM_Pp_SWEEP starts sweeping a page, or is refused.
  -/
  | sweepPage (cred : Cred) (part : PartId) (value : Word)
  /-- KEY_SWEEP_LINE (R392): The hub re-encrypts one line of the moving page in borrowed slots and advances LINE. -/
  | keySweepLine (part : PartId) (ecc : Ecc)
  /-- KEY_RETIRE (R391): Once no access uses the old key, it is zeroed and rotation returns to IDLE. -/
  | keyRetire (part : PartId)
  /-- ROW_COPY (R398): A failing row is copied into its buffer in borrowed slots. -/
  | rowCopy (unit : Fin 20) (row : Nat)
  /-- TRAIN_STEP (R399): Under host-assisted training, GO runs the selected training step and reports its result. -/
  | trainStep (cred : Cred) (unit : Fin 20) (value : Word) (pass : Bool) (result : Nat)
  /-- TRAIN_DONE (R399): Under host-assisted training, DONE puts the stack or channel in service. -/
  | trainDone (cred : Cred) (unit : Fin 20)
  /-- PORT_ENABLE (R404): Setting ETH_Pn_CTRL.EN starts training of the port. -/
  | portEnable (cred : Cred) (port : PortId) (value : Word)
  /-- PORT_DISABLE (R404): Clearing ETH_Pn_CTRL.EN stops the port. -/
  | portDisable (cred : Cred) (port : PortId) (value : Word)
  /-- PORT_TRAINED (R404): All four lanes train and FEC aligns, and the port becomes LINKED. -/
  | portTrained (port : PortId)
  /-- TRAINING_TIMEOUT (R404): Training fails for 2 s and restarts. -/
  | trainingTimeout (port : PortId)
  /-- CABLE_MEASURED (R408): Peer-delay exchanges finish or time out, ETH_Pn_CABLE is written and the port is UP. -/
  | cableMeasured (port : PortId) (delayPs : Option Nat)
  /-- LINK_LOSS (R404): Lane alignment is lost or FEC fails too often, and the port retrains. -/
  | linkLoss (port : PortId)
  /-- PORT_FAILOVER (R436): Contexts of a failed scale-out port move to port V. -/
  | portFailover (port : PortId)
  /-- FAILOVER_FORCE (R436): ETH_FAILOVER.FORCE moves TARGET's contexts to V. -/
  | failoverForce (cred : Cred) (target : PortId)
  /-- FAILBACK (R436): ETH_FAILOVER.FAILBACK moves contexts back at the next frame boundary. -/
  | failback (cred : Cred)
  /-- FRAME_RECEIVE (R402): A received Ethernet frame is checked by MACsec and type, and passed on or dropped. -/
  | frameReceive (port : PortId) (f : FrameRx)
  /-- LLDP_TX (R407): Every LLDP_S seconds the port sends an LLDPDU. -/
  | lldpTx (port : PortId)
  /-- LLDPDU (R407): A received LLDPDU's chassis and port IDs are kept for the survey. -/
  | lldpdu (port : PortId) (chassis portId : List Byte) (ttl : Nat)
  /-- PORT_TRANSMIT (R420): A port starts its next message in or outside windows as the schedule allows. -/
  | portTransmit (port : PortId)
  /-- SPAN_FRAME_BOUNDARY (R419): A span frame starts and port changes waiting for it take effect. -/
  | spanFrameBoundary 
  /-- OPEN (R414): A received OPEN opens a context in a new incarnation, or is answered STALE_INCARN or BUSY. -/
  | openRx (h : NHdr) (m : OpenMsg)
  /-- OPEN_ACK (R414): A received OPEN_ACK opens an OPENING context or closes it. -/
  | openAck (h : NHdr) (incarn : Nat) (status : Byte)
  /-- CLOSE (R414): A received CLOSE closes the context. -/
  | closeRx (h : NHdr) (reason : Byte)
  /-- ACK (R416): A received acknowledgement releases acknowledged messages. -/
  | ackRx (h : NHdr)
  /-- CAPS (R435): A received CAPS is recorded, or the context is closed for lack of a common version. -/
  | capsRx (h : NHdr) (body : List Byte)
  /-- QENTRY (R424): A received QENTRY delivers its queue items to tiles in sequence order. -/
  | qentryRx (h : NHdr) (items : List QItem)
  /-- CONTRIB (R426): A received CONTRIB delivers splice items to their splices. -/
  | contribRx (h : NHdr) (items : List SItem)
  /-- HITCH (R426): A received HITCH delivers hitch tokens to their tiles. -/
  | hitchRx (h : NHdr) (items : List HItem)
  /-- CREDIT (R425): A received CREDIT delivers credit, close, stale and reopen items to writing routes. -/
  | creditRx (h : NHdr) (items : List CItem)
  /-- MREAD (R427): A received MREAD reads memory on the REMOTE stream and answers with MDATA. -/
  | mread (h : NHdr) (addr bytes tag : Nat)
  /-- MWRITE (R427): A received MWRITE writes memory on the REMOTE stream and answers with MACK. -/
  | mwrite (h : NHdr) (addr tag : Nat) (data : List Byte)
  /-- CANCEL (R430): A received CANCEL withdraws an admitted request. -/
  | cancel (h : NHdr) (tag : Word)
  /-- REG_READ (R432): A received REG_READ reads COUNT registers under its credential and answers REG_RESP. -/
  | regRead (h : NHdr) (tag count addr : Nat) (ecc : Ecc)
  /-- REG_WRITE (R432): A received REG_WRITE writes COUNT registers, stopping at the first failure, and answers
  REG_RESP. -/
  | regWrite (h : NHdr) (tag addr : Nat) (values : List Word)
  /-- LOAD_DATA (R433): A received LOAD_DATA carries image bytes for a region or boot stream at the expected offset.
  -/
  | loadData (h : NHdr) (part : PartId) (offset : Nat) (bytes : List Byte)
  /-- LOAD_END (R433): A received LOAD_END ends an image stream, truncating it if early. -/
  | loadEnd (h : NHdr) (part : PartId)
  /-- PULL (R434): A received PULL is answered with waiting records or the latest telemetry set. -/
  | pull (h : NHdr) (kind max : Nat)
  /-- PTP_TX (R434): A received PTP_TX sends its frame and returns its egress timestamp as PTP_TXTS. -/
  | ptpTx (h : NHdr) (port : PortId) (tag : Nat) (frame : List Byte)
  /-- RESULT_ENTRY (R431): A result entry reaches the RESULT context and is packed into RES messages or discarded.
  -/
  | resultEntry (ctx : CtxId) (tile : TileId)
  /-- REMOTE_ITEM_ENQUEUE (R424): A remote send, contribution, token or credit reaches its I/O endpoint and is
  packed into a message. -/
  | remoteItemEnqueue (tile : TileId)
  /-- CONTEXT_OPEN (R414): NOP_CTXc_STATE.OPEN sends OPEN and moves the context to OPENING. -/
  | contextOpen (cred : Cred) (ctx : CtxId)
  /-- CONTEXT_CLOSE (R414): NOP_CTXc_STATE.CLOSE closes the context. -/
  | contextClose (cred : Cred) (ctx : CtxId)
  /-- OPEN_TIMEOUT (R414): An OPENING context that gets no OPEN_ACK in 10,500,000 cycles closes. -/
  | openTimeout (ctx : CtxId)
  /-- RTO_EXPIRY (R417): The oldest unacknowledged message waits RTO and is retransmitted, reported, or exhausts the
  budget. -/
  | rtoExpiry (ctx : CtxId) (ue : Bool)
  /-- HOST_IDLE_TIMEOUT (R428): A HOST context without an accepted message for 60 s is closed. -/
  | hostIdleTimeout (ctx : CtxId)
  /-- RECOVER_RETRANSMIT (R418): NOP_RECOVER action 1 retransmits from the oldest unacknowledged message. -/
  | recoverRetransmit (cred : Cred) (ctx : CtxId)
  /-- RECOVER_EXHAUST (R418): NOP_RECOVER action 2 declares the context's budget exhausted. -/
  | recoverExhaust (cred : Cred) (ctx : CtxId)
  /-- CREATE (R442): PART_Pp_CMD.CREATE assigns the rectangle and generates keys, or is refused. -/
  | create (cred : Cred) (part : PartId)
  /-- SEAL (R444): PART_Pp_CMD.SEAL fixes the configuration and computes CONFIG_DIGEST, or is refused. -/
  | seal (cred : Cred) (part : PartId)
  /-- TEARDOWN (R446): PART_Pp_CMD.TEARDOWN starts clearing the partition's tiles, memory, contexts and registers.
  -/
  | teardown (cred : Cred) (part : PartId)
  /-- TILE_CLEAR_DONE (R261): A tile finishes its teardown clear and its partition number becomes 0. -/
  | tileClearDone (tile : TileId) (ok : Bool)
  /-- TEARDOWN_COMPLETE (R441): The last tile is clear and the partition enters FREE. -/
  | teardownComplete (part : PartId)
  /-- CHALLENGE (R454): SEC_CALL CHALLENGE returns a fresh nonce for the context. -/
  | challenge (h : NHdr) (tag : Nat) (ue : Bool)
  /-- BIND (R455): SEC_CALL BIND gives the context an owner or tenant credential if the signature verifies. -/
  | bind_ (h : NHdr) (tag : Nat) (role : Nat) (part : PartId) (pk : List Byte) (sigOk : Bool) (ue : Bool)
  /-- ATTEST (R459): SEC_CALL ATTEST returns a signed attestation report. -/
  | attest (h : NHdr) (tag : Nat) (part : PartId) (nonce : List Byte) (ue : Bool)
  /-- GET_CERT (R454): SEC_CALL GET_CERT returns a stored or issued certificate. -/
  | getCert (h : NHdr) (tag role : Nat) (ue : Bool)
  /-- GET_DIGESTS (R460): SEC_CALL GET_DIGESTS returns weight-digest entries. -/
  | getDigests (h : NHdr) (tag : Nat) (part : PartId) (first : Nat) (ue : Bool)
  /-- KEM_GET (R457): SEC_CALL KEM_GET returns the partition's current signed encapsulation key. -/
  | kemGet (h : NHdr) (tag : Nat) (part : PartId) (ue : Bool)
  /-- SECRET_PUT (R458): SEC_CALL SECRET_PUT decapsulates and installs a memory, context or MACsec secret and
  replaces the key pair. -/
  | secretPut (h : NHdr) (tag : Nat) (m : SecretMsg) (ue : Bool)
  /-- ENROLL (R456): SEC_CALL ENROLL programs the next owner credential or image key fuse slot. -/
  | enroll (h : NHdr) (tag kind auth : Nat) (digest pk : List Byte) (sigOk : Bool) (ue : Bool)
  /-- COMMIT_SVN (R467): SEC_CALL COMMIT_SVN raises the anti-rollback counter to the running image's SVN. -/
  | commitSvn (h : NHdr) (tag : Nat) (ue : Bool)
  /-- FLASH_ERASE (R461): SEC_CALL FLASH_ERASE erases boot flash sectors outside the certificate store. -/
  | flashErase (h : NHdr) (tag offset count : Nat) (ue : Bool)
  /-- FLASH_WRITE (R461): SEC_CALL FLASH_WRITE writes bytes to the boot flash outside the certificate store. -/
  | flashWrite (h : NHdr) (tag offset : Nat) (data : List Byte) (ue : Bool)
  /-- SEC_RESTART_DONE (R498): SEC finishes its restart and serves calls again. -/
  | secRestartDone 
  /-- BOOT_IMAGE_READ (R465): The whole boot image has been read from flash or stream and goes to verification. -/
  | bootImageRead 
  /-- BOOT_VERIFY (R466): The boot image's digest, signer and signature are checked and the alias key is derived, or
  boot returns to WAIT_HOST. -/
  | bootVerify (sigOk : Bool)
  /-- BOOT_APPLY (R465): Each frame is applied and the DMC starts, or a refused frame returns boot to WAIT_HOST. -/
  | bootApply (refused : Option (Fin 64))
  /-- METER_RESET (R474): VDD_MTR rises and the meter resets, checks its ROM and calibration, and starts a new
  chain. -/
  | meterReset (chain : List Byte) (romOk calOk : Bool)
  /-- METER_WATCHDOG (R474): The meter's own watchdog expires and resets the meter. -/
  | meterWatchdog (chain : List Byte) (romOk calOk : Bool)
  /-- METER_SAMPLE (R477): Each microsecond the meter samples each rail and integrates its energy. -/
  | meterSample (rails : List (Nat × Nat))
  /-- METER_SEAL_CHECK (R476): Once per meter second the meter checks each sense strip and drops MTR_SEAL_OK on
  failure. -/
  | meterSealCheck (failed : BitVec 10)
  /-- METER_INTERVAL_CLOSE (R479): At each INTERVAL boundary the meter snapshots counters, closes and signs a record
  and opens the next. -/
  | meterIntervalClose 
  /-- METER_RECORD_DELIVER (R486): The delivery logic sends the next undelivered meter record to the push context.
  -/
  | meterRecordDeliver 
  /-- WALKER_HEARTBEAT (R494): Every 1,024 cycles a walker sends its partner a heartbeat, and a faulty partner is
  reset. -/
  | walkerHeartbeat (die : Fin 4) (b : Bool) (configOk : Bool)
  /-- WALKER_HEARTBEAT_TIMEOUT (R494): A partner silent or stuck for 4,096 cycles is reset from defaults and a
  SCRUBBER record is written. -/
  | walkerHeartbeatTimeout (die : Fin 4) (b : Bool) (stuck : Bool)
  /-- SCRUB_COMMAND (R496): FLT_SCRUB_CMD.GO starts a host-named scrub range. -/
  | scrubCommand (cred : Cred) (value : Word)
  /-- FENCE_NOTICE (R504): A fence notice reaches a tile, which revokes the fenced tile's leases there. -/
  | fenceNotice (tile : TileId)
  /-- FENCE_CMD (R500): SPR_CMD with KIND FENCE fences a tile in the next cycle. -/
  | fenceCmd (cred : Cred) (tile : TileId)
  /-- SPARE_CMD_TILE (R507): SPR_CMD KIND 1 starts a tile shift for a tile. -/
  | spareCmdTile (cred : Cred) (tile : TileId)
  /-- SPARE_CMD_ARRAY (R511): SPR_CMD KIND 2 maps out an array row or column. -/
  | spareCmdArray (cred : Cred) (tile : TileId)
  /-- SPARE_CMD_LINE (R512): SPR_CMD KIND 3 moves a scratchpad line to a spare line. -/
  | spareCmdLine (cred : Cred) (tile : TileId) (line : Nat)
  /-- SPARE_CMD_LANE (R512): SPR_CMD KIND 4 replaces a die-crossing lane with its spare. -/
  | spareCmdLane (cred : Cred) (link : Fin 32)
  /-- SPARE_CMD_HBM_LANE (R398): SPR_CMD KIND 5 replaces an HBM lane with a spare lane. -/
  | spareCmdHbmLane (cred : Cred) (stack : Fin 12)
  /-- SPARE_CMD_ROW (R398): SPR_CMD KIND 6 spares an HBM or DDR5 row. -/
  | spareCmdRow (cred : Cred) (unit : Fin 20) (row : Nat)
  /-- SPARE_CMD_PORT (R436): SPR_CMD KIND 7 brings in the reserve port. -/
  | spareCmdPort (cred : Cred) (port : PortId)
  /-- SHIFT_RESUME (R507): A DEFERRED shift finds R309 holding and moves to QUIET. -/
  | shiftResume 
  /-- SHIFT_QUIET_DONE (R507): The segment is quiet and empty with no outstanding requests, and copying begins. -/
  | shiftQuietDone 
  /-- SHIFT_QUIET_TIMEOUT (R507): The segment does not empty within LIMIT cycles, HOLD is cleared and the shift is
  DEFERRED. -/
  | shiftQuietTimeout 
  /-- SHIFT_COPY_DONE (R508): Every moved tile's state is copied and the shift switches. -/
  | shiftCopyDone (badTile : Option TileId)
  /-- SHIFT_SWITCH_DONE (R507): Routers take the new positions, fuses are blown, HOLD is cleared and the shift ends.
  -/
  | shiftSwitchDone 
  /-- LANE_REPAIR (R512): A die-crossing lane is replaced by its spare at the next flit boundary. -/
  | laneRepair (link : Fin 32)
  /-- ARRAY_CHECK (R511): An idle matrix engine tests its array and lanes and maps out or fences on a fault. -/
  | arrayCheck (tile : TileId) (fault : Option ArrayFault)
  /-- AGEING_MEASURE (R514): Once per second each tile's ageing margin is measured and advised or fenced if low. -/
  | ageingMeasure (phys : Fin 512) (margin : Nat)
  /-- FAULT_PULSE_END (R517): 1 ms after a severity 3 or 4 record, FAULT_N is released unless held. -/
  | faultPulseEnd 
  /-- RESET_N_ASSERT (R524): RESET_N low for 10 µs puts every block but the meter in device reset. -/
  | resetNAssert 
  /-- RESET_N_RELEASE (R522): The rising edge of RESET_N with PWR_GOOD high ends reset, samples straps and starts
  the ROM stage. -/
  | resetNRelease (straps : BitVec 4)
  /-- PWR_GOOD_FALL (R523): PWR_GOOD falling while RESET_N is high puts the device in reset within 1 µs. -/
  | pwrGoodFall 
  /-- ROM_STAGE_DONE (R527): The ROM stage ends and boot begins. -/
  | romStageDone (flashOk : Bool)
  /-- TRAINING_STAGE_DONE (R527): Memory training ends and the start-up survey begins. -/
  | trainingStageDone (t : TrainResult)
  /-- SURVEY_GO (R530): SRV_CTRL.GO starts a survey, or is refused. -/
  | surveyGo (cred : Cred)
  /-- SURVEY_DONE (R532): A survey ends and writes the inventory and partner records. -/
  | surveyDone (r : SurveyRx)
  /-- SECOND_SURVEY (R528): Five seconds after READY the device runs a second survey. -/
  | secondSurvey 
  /-- SPD_READ (R531): SRV_SPD_CMD.GO reads 64 SPD bytes from a module. -/
  | spdRead (cred : Cred) (value : Word)
  /-- SPD_READ_DONE (R531): The SPD read ends and sets DONE or ERR. -/
  | spdReadDone (data : Option (List Byte))
  /-- ENVELOPE_REQ (R536): A write of PWR_ENVELOPE sets REQ and recomputes ADMIT and ARRAY. -/
  | envelopeReq (cred : Cred) (value : Word)
  /-- POWER_AVERAGE (R537): Each 100 ms average of package power is compared with the limit and may lower CAP. -/
  | powerAverage (mw : Nat)
  /-- CAP_RISE (R537): After 10 s in NORMAL and below 90 % of the next limit, CAP rises one mode. -/
  | capRise 
  /-- AVS_ADJUST (R538): A margin measurement raises, lowers or holds the VDD_CORE request over AVSBus. -/
  | avsAdjust 
  /-- PMBUS_POLL (R539): Every 10 ms the device reads each regulator rail over PMBus. -/
  | pmbusPoll (rail : Fin 10) (r : RailRx)
  /-- REGULATOR_TIMEOUT (R539): A rail that does not answer for 100 ms produces a THERMAL EVENT 5 record. -/
  | regulatorTimeout (rail : Fin 10)
  /-- THERMAL_SAMPLE (R540): Every 1 ms each sensor is read and thermal states are entered or left. -/
  | thermalSample (temps : List (Nat × Int))
  /-- WARN_STEP (R541): Each further second in WARN with AUTO set lowers CAP one more mode. -/
  | warnStep 
  /-- TELEMETRY_COMPOSE (R545): Every PERIOD ms the telemetry sets are composed and pushed if so chosen. -/
  | telemetryCompose 
  /-- I3C_PRIVATE_WRITE (R546): A 2-byte I3C private write sets the telemetry read index. -/
  | i3cPrivateWrite (bytes : List Byte)
  /-- I3C_PRIVATE_READ (R546): An I3C private read latches and returns telemetry bytes from the index. -/
  | i3cPrivateRead (n : Nat)
  /-- ENTDAA (R546): I3C common command ENTDAA assigns a dynamic address. -/
  | entdaa (addr : BitVec 7)
  /-- SETDASA (R546): I3C common command SETDASA sets the dynamic address from the static one. -/
  | setdasa (addr : BitVec 7)
  /-- RSTDAA (R546): I3C common command RSTDAA resets the dynamic address. -/
  | rstdaa 
  /-- GETPID (R546): I3C common command GETPID returns the provisional ID. -/
  | getpid 
  /-- GETBCR (R546): I3C common command GETBCR returns the bus characteristics register. -/
  | getbcr 
  /-- GETDCR (R546): I3C common command GETDCR returns the device characteristics register. -/
  | getdcr 
  /-- ENEC (R546): I3C common command ENEC enables in-band interrupts. -/
  | enec 
  /-- DISEC (R546): I3C common command DISEC disables in-band interrupts. -/
  | disec 
  /-- DMC_RESTART (R547): DMC_CTRL.RESTART restarts the DMC firmware. -/
  | dmcRestart (cred : Cred)
  /-- DMC_WATCHDOG (R547): The DMC watchdog sees no service for 1 s and restarts the DMC. -/
  | dmcWatchdog (ue : Bool)
  /-- DMC_RESTART_DONE (R547): The DMC runs again and waiting pushes and PULL answers resume. -/
  | dmcRestartDone 
  /-- JTAG_BYPASS (R571): TAP instruction BYPASS selects the bypass register. -/
  | jtagBypass 
  /-- JTAG_IDCODE (R571): TAP instruction IDCODE selects the identification register. -/
  | jtagIdcode 
  /-- JTAG_SAMPLE_PRELOAD (R571): TAP instruction SAMPLE/PRELOAD captures or preloads the boundary-scan chain. -/
  | jtagSamplePreload (preload : List Bool)
  /-- JTAG_EXTEST (R571): TAP instruction EXTEST drives the boundary-scan chain onto the lands. -/
  | jtagExtest 
  /-- VDD_MTR_FALL (R484): VDD_MTR falls: the meter stops measuring and keeps no chain, and MTR_SEAL_OK reads low
  until the rail returns and the meter resets. -/
  | vddMtrFall 
  /-- BOOT_STREAM_TIMEOUT (R466): In RECEIVING, no boot image byte arrives for 105,000,000 cycles; the stream is
  truncated, BOOT_TRUNCATED is recorded and boot returns to WAIT_HOST. -/
  | bootStreamTimeout 
  deriving DecidableEq, Repr

end Sys2Proof
end

