-- ==== Sys2Proof/Decode.lean ====
section
/-! DEFINITION. The command that a word spells by the bits of spec/opcode_table.json. No row of the table gives any
bits (every row's list of fields is empty), so no word spells a command. -/

namespace Sys2Proof

/-- The command a word of `nbits` bits spells by the opcode table: none, since the table gives no row any bits. -/
def decodeTableWord (_nbits _w : Nat) : Option Instr := none

end Sys2Proof
end

