-- ==== Sys2Proof/Machine/Lands.lean ====
section
/-! DEFINITION. The land map of the package (R553 to R556, R558, R560, R562): which region a land lies in, and which net or
signal it carries. No command changes it. -/

namespace Sys2Proof.Machine

/-- A region of the land field (R554). -/
inductive LandRegion where
  | northIo | westHbm | core | eastHbm | southIo
  deriving DecidableEq, Repr

/-- A pair's true or complement signal. -/
inductive Leg where
  | dp | dn
  deriving DecidableEq, Repr
/-- A signal of one DDR5 subchannel (R560). -/
inductive DdrPin where
  | dq (k : Nat)
  | ca (k : Nat)
  | dqs (k : Nat) (leg : Leg)
  | cs (k : Nat)
  | ck (k : Nat) (leg : Leg)
  | par
  deriving DecidableEq, Repr
/-- A singular signal of the device (R562). -/
inductive Singular where
  | refclkDp | refclkDn | ppsIn | ppsOut | resetN | pwrGood | thermtripN | faultN
  | flashClk | flashCsN | flashIo (k : Nat) | strap (k : Nat)
  | jtagTck | jtagTms | jtagTdi | jtagTdo | jtagTrstN | telScl | telSda | pmbScl | pmbSda | pmbAlertN
  | avsClk | avsMdata | avsSdata | spdScl (k : Nat) | spdSda (k : Nat) | senseP | senseN | mtrSealOk
  deriving DecidableEq, Repr
/-- What a land carries. -/
inductive LandNet where
  | vss | vddCore | vddSram | vppHbm | vddHbmQ | vddHbmC | serdes075 | serdes090 | serdes120 | vddIo | vddMtr
  | ethTx (port lane : Nat) (leg : Leg)
  | ethRx (port lane : Nat) (leg : Leg)
  | ddr (ch : Nat) (sub : Bool) (pin : DdrPin)
  | ddrAlertN (ch : Nat)
  | ddrDrstN (ch : Nat)
  | one (sig : Singular)
  deriving DecidableEq, Repr

/-- Region of land (c, r); none outside the 120 by 120 field (R554). -/
def landRegion (c r : Nat) : Option LandRegion :=
  if c < 1 || 120 < c || r < 1 || 120 < r then none
  else if r ≤ 24 then some .northIo
  else if 97 ≤ r then some .southIo
  else if c ≤ 12 then some .westHbm
  else if 109 ≤ c then some .eastHbm
  else some .core

/-- Centre of a land from the body centre, in hundredths of a millimetre: east, then south (R553). -/
def landPlace (c r : Nat) : Int × Int := (45 * (2 * (c : Int) - 121), 45 * (2 * (r : Int) - 121))

/-- The leg of an even or odd place in a pair. -/
def legOf (k : Nat) : Leg := if k % 2 = 0 then .dp else .dn

/-- A land of the core field (R555). -/
def coreLand (c r : Nat) : LandNet :=
  if (c + r) % 2 = 0 then .vss else if r ≤ 27 || 94 ≤ r then .vddSram else .vddCore
/-- A land of an HBM band, by its row within the block of 12 (R556). -/
def hbmLand (c r : Nat) : LandNet :=
  let k := (r - 25) % 12
  if (c + r) % 2 = 0 then .vss else if k = 0 then .vppHbm else if k ≤ 4 then .vddHbmQ else .vddHbmC
/-- Stack served by a land of an HBM band (R556). -/
def hbmLandStack (c r : Nat) : Nat := (r - 25) / 12 + (if c ≤ 12 then 0 else 6)

/-- Land (a, b) of the block of port n (R558). -/
def ethLand (n a b : Nat) : LandNet :=
  if b = 2 then .ethTx n ((a - 1) / 2) (legOf (a - 1))
  else if b = 5 then .ethRx n ((a - 1) / 2) (legOf (a - 1))
  else if b = 7 then (if a ≤ 3 then .serdes075 else if a ≤ 5 then .serdes090 else if a ≤ 7 then .serdes120 else .vss)
  else .vss

/-- Clock signal k of a subchannel: its pairs, each with both legs (R560). -/
def ddrCk (k : Nat) : DdrPin := .ck (k / 2) (legOf k)
/-- Index i of a DDR5 channel's block (R560). -/
def ddrIndex (ch i : Nat) : LandNet :=
  if i < 40 then .ddr ch false (.dq i)
  else if i < 54 then .ddr ch false (.ca (i - 40))
  else if i < 74 then .ddr ch false (.dqs ((i - 54) / 2) (legOf (i - 54)))
  else if i < 78 then .ddr ch false (.cs (i - 74))
  else if i < 82 then .ddr ch false (ddrCk (i - 78))
  else if i < 83 then .ddr ch false .par
  else if i < 123 then .ddr ch true (.dq (i - 83))
  else if i < 143 then .ddr ch true (.dqs ((i - 123) / 2) (legOf (i - 123)))
  else if i < 157 then .ddr ch true (.ca (i - 143))
  else if i < 161 then .ddr ch true (.cs (i - 157))
  else if i < 165 then .ddr ch true (ddrCk (i - 161))
  else if i < 166 then .ddr ch true .par
  else if i < 167 then .ddrAlertN ch
  else if i < 168 then .ddrDrstN ch
  else if i < 200 then .serdes120
  else .vss
/-- Land (a, b) of the block of a DDR5 channel (R560). -/
def ddrLand (ch a b : Nat) : LandNet :=
  if (a + b) % 2 = 0 then .vss else ddrIndex ch ((b - 1) * 15 + (if b % 2 = 1 then (a - 2) / 2 else (a - 1) / 2))

/-- The lands of the singular signals (R562). -/
def singularLands : List ((Nat × Nat) × Singular) :=
  [((2, 2), .refclkDp), ((3, 2), .refclkDn), ((5, 2), .ppsIn), ((7, 2), .ppsOut), ((9, 2), .resetN), ((11, 2), .pwrGood),
   ((13, 2), .thermtripN), ((15, 2), .faultN), ((2, 4), .flashClk), ((4, 4), .flashCsN), ((6, 4), .flashIo 0), ((8, 4), .flashIo 1),
   ((10, 4), .flashIo 2), ((12, 4), .flashIo 3), ((14, 4), .strap 0), ((16, 4), .strap 1), ((18, 4), .strap 2), ((20, 4), .strap 3)] ++
  [((2, 6), .jtagTck), ((4, 6), .jtagTms), ((6, 6), .jtagTdi), ((8, 6), .jtagTdo), ((10, 6), .jtagTrstN), ((12, 6), .telScl),
   ((14, 6), .telSda), ((16, 6), .pmbScl), ((18, 6), .pmbSda), ((20, 6), .pmbAlertN), ((2, 8), .avsClk), ((4, 8), .avsMdata),
   ((6, 8), .avsSdata), ((8, 8), .spdScl 0), ((10, 8), .spdSda 0), ((12, 8), .senseP), ((14, 8), .senseN), ((10, 119), .mtrSealOk),
   ((12, 119), .spdScl 1), ((14, 119), .spdSda 1)]
/-- The cells of the boundary-scan chain (R562, R571): every land of types A to D but THERMTRIP_N. DESIGN CHOICE (log 33): the first cell
is that of the first land of R562's table, and so on. -/
def scanCells : List Singular :=
  (singularLands.map (·.2)).filter fun x =>
    !([.refclkDp, .refclkDn, .thermtripN, .senseP, .senseN, .mtrSealOk] : List Singular).contains x
/-- The device drives the land, always or at times (R562). -/
def landOut : Singular → Bool
  | .ppsOut | .faultN | .flashClk | .flashCsN | .flashIo _ | .jtagTdo | .telScl | .telSda | .pmbScl | .pmbSda | .avsClk | .avsMdata
  | .spdScl _ | .spdSda _ | .thermtripN | .mtrSealOk => true
  | _ => false
/-- A land of rows 1 to 8 or 113 to 120 in columns 1 to 24 (R562). -/
def singularLand (c r : Nat) : LandNet :=
  match singularLands.find? fun e => e.1 == (c, r) with
  | some e => .one e.2
  | none => if r = 119 && [2, 4, 6, 8].contains c then .vddMtr else .vss

/-- What land (c, r) carries; none outside the field (R555, R556, R558, R560, R562). -/
def landNet (c r : Nat) : Option LandNet :=
  match landRegion c r with
  | none => none
  | some .core => some (coreLand c r)
  | some .westHbm => some (hbmLand c r)
  | some .eastHbm => some (hbmLand c r)
  | some reg =>
    let north := reg == .northIo
    let depth := if north then r else 121 - r
    if 9 ≤ depth then
      some (ddrLand ((if north then 0 else 4) + (c - 1) / 30) ((c - 1) % 30 + 1) (depth - 8))
    else if c ≤ 24 then some (singularLand c r)
    else if 97 ≤ c then some (if (c + r) % 2 = 1 then .vddIo else .vss)
    else some (ethLand ((if north then 0 else 9) + (c - 25) / 8) ((c - 25) % 8 + 1) depth)

end Sys2Proof.Machine
end

