-- ==== Sys2Proof/Machine/Sha3.lean ====
section
/-! DEFINITION. SHA3-512 (FIPS 202), the digest of region images, configurations, boot frames, certificates and meter
records (R335, R448, R463, R483). A state is 25 lanes of 64 bits, lane x + 5y. -/

namespace Sys2Proof.Machine

/-- Lane i of a state. -/
def kLane (a : List Word) (i : Nat) : Word := a.getD i 0

/-- The lanes that the walk of rho visits from lane (x, y), with the offset each gets: at step t the triangular number of t + 1. -/
def rhoWalk : Nat → Nat → Nat → Nat → List (Nat × Nat)
  | 0, _, _, _ => []
  | n + 1, t, x, y => (x + 5 * y, (t + 1) * (t + 2) / 2 % 64) :: rhoWalk n (t + 1) y ((2 * x + 3 * y) % 5)

/-- The offsets of rho by lane: lane (0, 0) stays, the walk begins at lane (1, 0). -/
def kRho : List Nat :=
  let w := rhoWalk 24 0 1 0
  (List.range 25).map fun i => ((w.find? fun e => e.1 == i).map (·.2)).getD 0

/-- One step of the shift register behind iota: x^8 + x^6 + x^5 + x^4 + 1. -/
def iotaNext (r : Nat) : Nat := if 128 ≤ r then (2 * r) ^^^ 0x171 else 2 * r

/-- The seven bits that a round's constant takes from the register, bit j at place 2^j − 1, and the register after them. -/
def iotaRound : Nat → Nat → Nat → Nat × Nat
  | 0, _, r => (0, r)
  | n + 1, j, r =>
    let rest := iotaRound n (j + 1) (iotaNext r)
    ((r % 2) * 2 ^ (2 ^ j - 1) + rest.1, rest.2)

/-- The constants of `n` rounds from a register. -/
def iotaAll : Nat → Nat → List Word
  | 0, _ => []
  | n + 1, r => let c := iotaRound 7 0 r; BitVec.ofNat 64 c.1 :: iotaAll n c.2

/-- The constants of the 24 rounds. -/
def kRc : List Word := iotaAll 24 1

/-- One round: theta, rho and pi, chi, iota. -/
def kRound (rho : List Nat) (a : List Word) (rc : Word) : List Word :=
  let c := (List.range 5).map fun x =>
    kLane a x ^^^ kLane a (x + 5) ^^^ kLane a (x + 10) ^^^ kLane a (x + 15) ^^^ kLane a (x + 20)
  let e := (List.range 5).map fun x => kLane c ((x + 4) % 5) ^^^ (kLane c ((x + 1) % 5)).rotateLeft 1
  let a := (List.range 25).map fun i => kLane a i ^^^ kLane e (i % 5)
  -- lane (x, y) of pi's result comes from lane (x + 3y, x)
  let b := (List.range 25).map fun i =>
    let j := (i % 5 + 3 * (i / 5)) % 5 + 5 * (i % 5)
    (kLane a j).rotateLeft (rho.getD j 0)
  let r := (List.range 25).map fun i =>
    kLane b i ^^^ (~~~ kLane b (i / 5 * 5 + (i + 1) % 5) &&& kLane b (i / 5 * 5 + (i + 2) % 5))
  match r with
  | [] => []
  | x :: xs => (x ^^^ rc) :: xs

/-- The permutation of 24 rounds. -/
def kPerm (a : List Word) : List Word := let rho := kRho; kRc.foldl (kRound rho) a

/-- A 64-bit lane read from 8 bytes. -/
def kLaneOf (bs : List Byte) (i : Nat) : Word := BitVec.ofNat 64 (fieldAt bs (8 * i) 8)

/-- Adds a block of 72 bytes to the first nine lanes and permutes. -/
def kAbsorb (a : List Word) (block : List Byte) : List Word :=
  kPerm ((List.range 25).map fun i => if i < 9 then kLane a i ^^^ kLaneOf block i else kLane a i)

/-- Absorbs up to `n` blocks of 72 bytes. -/
def kBlocks : Nat → List Word → List Byte → List Word
  | 0, a, _ => a
  | n + 1, a, bs => kBlocks n (kAbsorb a (bs.take 72)) (bs.drop 72)

/-- The padded message: the suffix 01 and pad10*1 to a multiple of 72 bytes. -/
def kPad (bs : List Byte) : List Byte :=
  let r := 72 - bs.length % 72
  bs ++ (if r = 1 then [0x86] else 0x06 :: zeros (r - 2) ++ [0x80])

/-- SHA3-512: 64 bytes. -/
def sha3 (bs : List Byte) : List Byte :=
  let p := kPad bs
  let a := kBlocks (p.length / 72) (List.replicate 25 0) p
  (List.range 64).map fun i => BitVec.ofNat 8 ((kLane a (i / 8)).toNat / 2 ^ (8 * (i % 8)))

end Sys2Proof.Machine
end

