-- ==== Sys2Proof/Machine/Crypto.lean ====
section
/-! DEFINITION. AES-256 (FIPS 197) in the two modes that the spec names: XTS for the lines of memory (IEEE 1619, R388), and GCM for
Nopra messages and MACsec frames (R405, R411). A block is 16 bytes, byte 4c + r in column c and row r. The spec cites the
standards: what is taken from them is PRESUMED (log 33). -/

namespace Sys2Proof.Machine

/-! ## Bytes as elements of GF(2^8) -/

/-- Product by x, modulo x^8 + x^4 + x^3 + x + 1. -/
def gfTwice (a : Byte) : Byte := if 128 ≤ a.toNat then (a <<< 1) ^^^ 0x1B else a <<< 1
/-- Product of two bytes, over the low `n` bits of the second. -/
def gfMul : Nat → Byte → Byte → Byte
  | 0, _, _ => 0
  | n + 1, a, b => (if b.toNat % 2 = 1 then a else 0) ^^^ gfMul n (gfTwice a) (b >>> 1)
/-- The power 2^(n+1) − 2 of a byte: for n = 7 its inverse, and 0 for 0. -/
def gfInv : Nat → Byte → Byte → Byte
  | 0, _, r => r
  | n + 1, a, r => let q := gfMul 8 a a; gfInv n q (gfMul 8 r q)
/-- SubBytes of one byte: the inverse, then the affine map. -/
def aesSub (a : Byte) : Byte :=
  let x := gfInv 7 a 1
  x ^^^ x.rotateLeft 1 ^^^ x.rotateLeft 2 ^^^ x.rotateLeft 3 ^^^ x.rotateLeft 4 ^^^ 0x63
/-- Its inverse. -/
def aesUnsub (a : Byte) : Byte := gfInv 7 (a.rotateLeft 1 ^^^ a.rotateLeft 3 ^^^ a.rotateLeft 6 ^^^ 0x05) 1

/-- Bytes added bit by bit. -/
def xorBytes (a b : List Byte) : List Byte := a.zipWith (· ^^^ ·) b

/-! ## The block cipher -/

/-- The words of the key schedule after the first 8, four bytes each: `n` more, the latest first. -/
def aesWords : Nat → Nat → List (List Byte) → List (List Byte)
  | 0, _, ws => ws
  | n + 1, i, ws =>
    let t := ws.headD []
    let g :=
      if i % 8 = 0 then xorBytes ((t.drop 1 ++ t.take 1).map aesSub) [(List.range (i / 8 - 1)).foldl (fun r _ => gfTwice r) 1, 0, 0, 0]
      else if i % 8 = 4 then t.map aesSub
      else t
    aesWords n (i + 1) (xorBytes (ws.getD 7 []) g :: ws)
/-- The 15 round keys of a 32-byte key. -/
def aesKeys (key : List Byte) : List (List Byte) :=
  let ws := (aesWords 52 8 ((List.range 8).map fun i => slice key (4 * i) 4).reverse).reverse
  (List.range 15).map fun r => (List.range 4).flatMap fun c => ws.getD (4 * r + c) []

/-- MixColumns of a column with a row of coefficients. -/
def aesMix (m : List Byte) (b : List Byte) : List Byte :=
  (List.range 16).map fun i =>
    (List.range 4).foldl (fun s j => s ^^^ gfMul 8 (b.getD (i / 4 * 4 + j) 0) (m.getD ((j + 4 - i % 4) % 4) 0)) 0
/-- ShiftRows: row r moves r columns to the left, or to the right with `k` 3. -/
def aesShift (k : Nat) (b : List Byte) : List Byte :=
  (List.range 16).map fun i => b.getD ((i + 4 * k * (i % 4)) % 16) 0
/-- One block encrypted under the round keys. -/
def aesBlock (ks : List (List Byte)) (b : List Byte) : List Byte :=
  let s := ((List.range 13).foldl (fun s r => xorBytes (aesMix [2, 3, 1, 1] (aesShift 1 (s.map aesSub))) (ks.getD (r + 1) []))
    (xorBytes b (ks.getD 0 [])))
  xorBytes (aesShift 1 (s.map aesSub)) (ks.getD 14 [])
/-- One block decrypted. -/
def aesUnblock (ks : List (List Byte)) (b : List Byte) : List Byte :=
  let s := (List.range 13).foldl (fun s r => aesMix [14, 11, 13, 9] (xorBytes ((aesShift 3 s).map aesUnsub) (ks.getD (13 - r) [])))
    (xorBytes b (ks.getD 14 []))
  xorBytes ((aesShift 3 s).map aesUnsub) (ks.getD 0 [])

/-! ## XTS (R388) -/

/-- A tweak value for the next block: its product by x, modulo x^128 + x^7 + x^2 + x + 1. -/
def xtsNext (t : Nat) : Nat := if 2 ^ 127 ≤ t then (2 * t % 2 ^ 128) ^^^ 0x87 else 2 * t
/-- Blocks of a data unit under a cipher of one block, from a tweak value. -/
def xtsRun (f : List Byte → List Byte) : Nat → Nat → List Byte → List Byte
  | 0, _, _ => []
  | n + 1, t, bs =>
    let m := leBytes 16 t
    xorBytes (f (xorBytes (bs.take 16) m)) m ++ xtsRun f n (xtsNext t) (bs.drop 16)
/-- The tweak value of the first block of data unit `unit` under a pair of keys. -/
def xtsTweak (pair : List Byte) (unit : Nat) : Nat := leNat (aesBlock (aesKeys (slice pair 32 32)) (leBytes 16 unit))
/-- A line of 256 bytes encrypted under a pair of keys, its tweak the line's number. -/
def xtsSeal (pair : List Byte) (unit : Nat) (bs : List Byte) : List Byte :=
  let ks := aesKeys (slice pair 0 32)
  xtsRun (aesBlock ks) 16 (xtsTweak pair unit) bs
/-- A line decrypted. -/
def xtsOpen (pair : List Byte) (unit : Nat) (bs : List Byte) : List Byte :=
  let ks := aesKeys (slice pair 0 32)
  xtsRun (aesUnblock ks) 16 (xtsTweak pair unit) bs

/-! ## GCM (R405, R411) -/

/-- Product of two blocks as numbers, the first byte highest: bits of `x` from the highest of `n`, with x^128 + x^7 + x^2 + x + 1. -/
def ghashMul : Nat → Nat → Nat → Nat
  | 0, _, _ => 0
  | n + 1, x, v => (if x / 2 ^ n % 2 = 1 then v else 0) ^^^ ghashMul n x (if v % 2 = 1 then v / 2 ^^^ 0xE1 * 2 ^ 120 else v / 2)
/-- A big-endian number. -/
def beNat (bs : List Byte) : Nat := leNat bs.reverse
/-- GHASH of `n` blocks under the hash key h. -/
def ghash (h : Nat) : Nat → Nat → List Byte → Nat
  | 0, y, _ => y
  | n + 1, y, bs => ghash h n (ghashMul 128 (y ^^^ beNat (bs.take 16)) h) (bs.drop 16)
/-- Bytes padded with zeros to whole blocks. -/
def pad16 (bs : List Byte) : List Byte := bs ++ zeros ((16 - bs.length % 16) % 16)
/-- Bytes encrypted under a 32-byte key and a nonce of 12 bytes, and the tag of 16 bytes over them and the additional data. -/
def gcmSeal (key nonce aad text : List Byte) : List Byte :=
  let ks := aesKeys key
  let n := (text.length + 15) / 16
  let stream := (List.range n).flatMap fun i => aesBlock ks (nonce ++ beBytes 4 (i + 2))
  let c := xorBytes text stream
  let all := pad16 aad ++ pad16 c ++ beBytes 8 (8 * aad.length) ++ beBytes 8 (8 * c.length)
  let s := ghash (beNat (aesBlock ks (zeros 16))) (all.length / 16) 0 all
  c ++ xorBytes (beBytes 16 s) (aesBlock ks (nonce ++ beBytes 4 1))

end Sys2Proof.Machine
end

