-- ==== Sys2Proof/Config.lean ====
section
/-! DEFINITION. The free values: what the spec leaves open or what no register or agent of the device can compute
(signatures, ciphertexts, random numbers). Each is an opaque constant, so nothing can be proved of its value (log 1).
-/

namespace Sys2Proof.Config

/-- A byte of the arrays of HBM or DDR5 that nothing has written: which ciphertext stands there at power-up (R388, R390); and one of
a line read with a zeroed key slot. The serial of the key, 0 for none, and the byte's place. -/
opaque freeByte : Nat → Nat → Byte
/-- The row of its unit that a memory line lies in: the rows of a stack or module are not laid out (R398, R506). -/
opaque memRow : Nat → Nat

/-- The line of a channel in which a row copy meets an error, by the counter: the rows are not laid out (R398). -/
opaque rowLine : Nat → Nat
/-- What stands in each of the 256 lines of tile registers and router state that a walker reads, modulo 3: tile registers, strand contexts,
or route table, tree and reduction entries and router configuration: their order is not laid out (R489, R492). -/
opaque sideLine : Nat → Nat

/-- Whether a waiting access of a channel waited for the refresh that ends, by the counter: which bank a refresh takes
and which bank an access uses are open (R379). -/
opaque refreshHeld : Nat → Bool

/-- CAUSE and TVAL of a waiter that R289 and R364 handle as under R116: the spec names no cause for it. -/
opaque stallTrap : Nat → Nat
/-- What a sense point measures over a millisecond: mean, minimum, maximum (R529, R552). -/
opaque senseSample : Nat → Nat → Nat × Nat × Nat
/-- Whether a training step that a register write starts passes, and its result, by the counter (R399, R400). -/
opaque trainStepOk : Nat → Bool
opaque trainStepResult : Nat → Nat
/-- The failing lane of a channel, by the counter: which lane a replay or a LINK record names is not stated (R502, R506). -/
opaque failingLane : Nat → Nat
/-- Which of the lines that a step, or an issue, reads or merges an error of the command lies in, by the counter (R259). -/
opaque eccLine : Nat → Nat
/-- The word of a line, modulo 32, that an access to the whole line found in error, by the counter (R259, R506). -/
opaque eccWord : Nat → Nat
/-- The byte offset in a tile's window of an uncorrectable word that a sparing copy meets, by the counter (R498, R507). -/
opaque copyError : Nat → Nat
/-- The upsets of the three voted flops of a walker's configuration since its latest heartbeat, by the counter: how often a vote found a
disagreement, and the flops' values where two of a bit were upset together (R493, R494). -/
opaque walkerVotes : Nat → Nat
opaque walkerUpset : Nat → Nat × Nat × Nat
/-- The tile of a remote grant's writer before its first item has come: a grant names a context, a route entry and a
frond only (R339, R424): context and route entry. -/
opaque grantTile : Nat → Nat → Nat
/-- DFROND of a remote grant's route before its first item has come: the grant does not hold it (R284, R339): context, route
entry and frond. -/
opaque grantFrond : Nat → Nat → Nat → Nat
/-- The level on a land that no rule of the model follows, by the counter and its place in the boundary-scan chain (R571). -/
opaque landLevel : Nat → Nat → Bool
/-- How often a line on the rails and the ring is sent again because its CRC failed (R489), by the counter. -/
opaque sideReplays : Nat → Nat
/-- Header fields that no rule gives, by the counter: 0 ECN, 1 flow label, 2 hop limit, 3 IPv4 identification, 4 IPv4
don't-fragment flag, 5 SCTX and source port of a refusing OPEN_ACK, which comes from no context, 6 ES of
a SecTAG (R403, R405, R409, R410). -/
opaque headerField : Nat → Nat → Nat
/-- MAC address of the next hop from a port to an IP address, which no rule says how the device finds (R403). -/
opaque nextHop : Nat → Nat → Nat
/-- A byte of the secret that a host's OPEN and its OPEN_ACK share, by the counter (R428). -/
opaque sharedByte : Nat → Nat → Byte
/-- A byte of the ML-DSA-87 public key that a seed generates (R451). -/
opaque dsaKeyByte : List Byte → Nat → Byte
/-- TYPE and payload of the message that answers LOAD_DATA with BUSY, by OFFSET: no type of the table is its reply (R423, R468). -/
opaque loadBusyType : Nat
opaque loadBusyBytes : Nat → List Byte
/-- A byte of a signature or certificate: which signer, and what is signed (R451, R452, R459, R478). -/
opaque signByte : Nat → List Byte → Nat → Byte
/-- A byte of a public key: which key and which byte (R451, R457, R473). -/
opaque keyByte : Nat → List Byte → Nat → Byte
/-- A random byte: the draw and the byte (R454, R457, R484). -/
opaque randomByte : Nat → Nat → Byte
/-- LEN and CRC of the captured header of a flit whose payload the spec does not lay out (R318): class, type, byte. -/
opaque flitByte : Nat → Nat → Nat → Byte
/-- The 48-bit provisional identifier that GETPID returns, its device part (R546). -/
opaque i3cPid : Nat → Byte
/-- The byte GETBCR returns (R546). -/
opaque i3cBcr : Byte
/-- The byte GETDCR returns (R546). -/
opaque i3cDcr : Byte

/-- Die ([6:4]) and rail ([3:0]) of a supply sense point, fixed in the device (SRV_SENSE, R552). -/
opaque sensePoint : Nat → Byte

/-- The steering value that the PPS loop takes from an edge's offset, in ppb before its limits (R51): old value, offset. -/
opaque steerAdjust : Int → Int → Int

/-- The exponent of the power-of-two scale that a close chooses from a history entry, FP32 bits, that is negative or NaN: ceil_log2
is stated for no such value (R177). -/
opaque closeExp : Nat → BitVec 8

/-- vx.split returns piece 1 of the split into two pieces, rounded to nearest, and not of that into three (R168, R217). -/
opaque splitNearest : Bool

/-- The hexadecimal digits of an LLDP chassis ID are capitals (R407). -/
opaque hexUpper : Bool
/-- The frame that answers a peer-delay request, which IEEE 1588 lays out (R406): the request and its time of arrival. -/
opaque pdelayResp : List Byte → Nat → List Byte
/-- FRAC of an egress timestamp in units of 1/64 cycle, by the counter (R406). -/
opaque txFrac : Nat → BitVec 6
/-- REASON of a context whose OPEN was answered with a status other than VERSION: R439's codes name none (R414). -/
opaque openReason : Byte → BitVec 4
/-- A byte of the ciphertext CT that answers a host's OPEN: the counter and the byte (R428). -/
opaque ctByte : Nat → Nat → Byte

/-- Spare lanes of a stack that its training found good: no register or message tells them (R398, R506). -/
opaque hbmSpares : Nat → Nat
/-- The PMBus address that a power defaults frame gives a rail, 0 for none: the frame's layout is not given (R463, R539). -/
opaque pmbusAddr : List Byte → Nat → BitVec 8
/-- A byte of a fault record that the spec does not state: the counter and the byte. BANK and READER of a MEM_UE record of
the memories of DMC and SEC (R498, R502); SOURCE, INDEX, temperature and threshold of a THERMAL record that no single
sensor causes (R537, R540, R543). -/
opaque recordByte : Nat → Nat → Byte
/-- Bytes of an erase sector of the boot flash, which its SFDP tables tell (R454, R461). -/
opaque flashSector : Nat

/-- A byte of a digest that a ROM holds: which digest and which byte (R451, R456, R464, R473). -/
opaque romByte : Nat → Nat → Byte
/-- A port that a port defaults frame enables, and a context that it makes a HOST slot: the frame's layout is not given
(R463, R527). -/
opaque portDefault : List Byte → Nat → Bool
opaque hostDefault : List Byte → Nat → Bool
/-- A byte of the flash written while it is not erased: its old and its new value (R454). -/
opaque flashMix : Byte → Byte → Byte

end Sys2Proof.Config
end

