-- ==== Sys2Proof/Machine/State.lean ====
section
/-! DEFINITION. The state of the device as plain data: everything the spec gives the block, the meter, and the queue
of commands that wait. Registers of control space stand in `Dev.regs` by address (Regs.lean says where each is and
what it resets to); everything a register table does not hold has a field of its own here. A field whose type is a
list of pairs is a map sorted by key (Word.lean's `mget` and `mset`). -/

namespace Sys2Proof.Machine

/-- Strand states (R86). DEBUG is not stored: a strand shows DEBUG while HALT_REQ holds it. -/
inductive StrandSt where
  | idle | ready | wait | halt | fault
  deriving DecidableEq, Repr

/-- Wait reasons, in the code order of TILE_Sn_STATUS.WAIT (R121). -/
inductive WaitReason where
  | none | poll | send | tally | hitch | time | completion | engine | fence | store | switch
  deriving DecidableEq, Repr

/-- The credit sends that can wait (R276). -/
inductive SendKind where
  | full | light | splice
  deriving DecidableEq, Repr

/-- The macro-instructions (R90, R134, R148, R182, R205, R223, R224, R255, R382). -/
inductive MacroKind where
  | mmMm | mmZero | mmOut | mmSpl | mmF2 | mmAtt | mmWg | vxRun | vxClose | vxOpt | dmGet | dmPut | dmMput | dmMcopy | spFill | spCopy | spBfill | spBdrain | spBreset
  deriving DecidableEq, Repr

/-- Route states (R269). -/
inductive RouteSt where
  | open_ | closed | stale | revoked
  deriving DecidableEq, Repr

/-- States of a tile's frond switch (R355). -/
inductive FoldSt where
  | run | drainOld | wait | switch
  deriving DecidableEq, Repr

/-- Fold modes (R344). -/
inductive FoldMode where
  | park | retire | forced
  deriving DecidableEq, Repr

/-- What a waiting strand waits for, with what it needs to go on (R85, R86). -/
inductive WaitOp where
  | none
  /-- a send on a route entry: payload, bytes, route, user value, and the time limit of qu.sendt (R276) -/
  | send (kind : SendKind) (rd : Nat) (data : List Byte) (len : Nat) (route : Nat) (user : Nat) (limit : Option Nat)
  /-- qu.poll of a queue at the epoch it began in (R279) -/
  | poll (rd q epoch : Nat)
  /-- a tally reply (R300); `isSet` tells qu.tset from qu.tadd, `home` is the home tile -/
  | tally (rd : Nat) (isSet : Bool) (home : Nat)
  /-- hi.wait (R298) -/
  | hitch (rd h : Nat)
  /-- tm.at: the target as device time in cycles (R57) -/
  | timeAt (rd : Nat) (target : Nat)
  /-- tm.wait: the tick at which it ends (R102) -/
  | timeFor (until_ : Nat)
  /-- sy.wait (R103) -/
  | completion (rd k imm : Nat)
  /-- a macro-instruction that found its engine's queue full (R105) -/
  | engine (kind : MacroKind) (mac : Mac) (chain : List Word)
  /-- sy.fence (R98) -/
  | fence
  /-- a store that found the store buffer full (R97) -/
  | store (off width : Nat) (value : Word)
  deriving DecidableEq, Repr

/-- Who waits for credit on a route: a strand, or the matrix engine (R276). -/
inductive Waiter where
  | engine
  | strand (s : Nat)
  deriving DecidableEq, Repr

/-- Where a credit goes back to: the writer's tile, frond and route entry; a remote context with the writer's tile,
frond and route entry there; the host endpoint (R429); or nowhere, for an entry that holds no credit (R274, R282). -/
inductive CreditRef where
  | none_
  | local_ (tile frond entry : Nat)
  | remote (ctx tile frond entry : Nat)
  | host (part : Nat)
  deriving DecidableEq, Repr

/-- Power states of a scratchpad quarter (R239, R240). `leaving` waits for the accesses in flight and `changing`
changes the supply; both name the state they lead to, and say whether the change began in OFF. -/
inductive QPower where
  | off | retain | on
  | leaving (target : Nat)
  | changing (target : Nat) (fromOff : Bool)
  deriving DecidableEq, Repr

/-- A store in a strand's store buffer (R97). -/
structure StoreEntry where
  /-- tile-window offset (R97). -/
  off : Nat
  /-- bytes (R96). -/
  width : Nat
  /-- the value (R96). -/
  value : Word
  /-- order against the strand's loads (R97). -/
  seq : Nat
  deriving DecidableEq, Repr

/-- Its value at reset. -/
def StoreEntry.init : StoreEntry where
  off := 0
  width := 0
  value := 0
  seq := 0

/-- A load whose data has not returned (R95). -/
structure LoadEntry where
  /-- destination register (R95). -/
  rd : Nat
  /-- tile-window offset (R95). -/
  off : Nat
  /-- bytes (R96). -/
  width : Nat
  /-- sign extension (R96). -/
  signed : Bool
  /-- order against the strand's stores (R97). -/
  seq : Nat
  /-- its bytes, taken before a later store of the strand was written (R97). -/
  got : Option (List Byte)
  deriving DecidableEq, Repr

/-- Its value at reset. -/
def LoadEntry.init : LoadEntry where
  rd := 0
  off := 0
  width := 0
  signed := false
  seq := 0
  got := none

/-- A completion counter (R81, R108, R109). -/
structure KCnt where
  /-- macro-instructions not completed, 8 bits shown (R108). -/
  cnt : Nat
  /-- error field (R109). -/
  err : Byte
  deriving DecidableEq, Repr

/-- Its value at reset. -/
def KCnt.init : KCnt where
  cnt := 0
  err := 0

/-- One strand of one frond's context (R81, R82, R86). -/
structure Strand where
  /-- strand state (R86). -/
  st : StrandSt
  /-- wait reason (R86). -/
  wait : WaitReason
  /-- what the wait needs to go on (R85). -/
  op : WaitOp
  /-- tally requests in flight from before the strand was stopped: destination register, home tile (R86) -/
  late : List (Nat × Nat)
  /-- tick at which the wait began (R276). -/
  waitFrom : Nat
  /-- stall probes sent in this wait (R288). -/
  probed : Nat
  /-- program counter (R81). -/
  pc : BitVec 13
  /-- the instruction at 8,191 began a wait: execution runs on past it once the strand goes on (R94) -/
  atEnd : Bool
  /-- g0 to g31 of 64 bits (R81). -/
  g : List Word
  /-- p7 to p0 (R81). -/
  p : BitVec 8
  /-- K0 to K3 (R81). -/
  k : List KCnt
  /-- LAST_STATUS (R99). -/
  last : Byte
  /-- INTRAP (R115). -/
  inTrap : Bool
  /-- CAUSE (R114). -/
  cause : Byte
  /-- EPC (R115). -/
  epc : BitVec 13
  /-- TVAL (R114). -/
  tval : Word
  /-- store buffer, at most 4, oldest first (R97). -/
  stores : List StoreEntry
  /-- loads in flight (R95). -/
  loads : List LoadEntry
  /-- next load or store number (R97). -/
  seq : Nat
  /-- generation last seen of each hitch, 16 bits (R296). -/
  seen : List (Nat × Nat)
  /-- within the 8 cycles of sy.yield (R103). -/
  yielding : Bool
  /-- tick at which they end (R103). -/
  yieldUntil : Nat
  /-- its latest instruction may keep it from issuing until its tile has issued, and the tick has reached, these counts (R83, R91, R94, R106) -/
  slow : Nat × Nat
  deriving DecidableEq, Repr

/-- Its value at reset. -/
def Strand.init : Strand where
  st := .idle
  wait := .none
  op := .none
  late := []
  waitFrom := 0
  probed := 0
  pc := 0
  atEnd := false
  g := (List.replicate 32 0)
  p := 1
  k := (List.replicate 4 KCnt.init)
  last := 0
  inTrap := false
  cause := 0
  epc := 0
  tval := 0
  stores := []
  loads := []
  seq := 0
  seen := []
  yielding := false
  yieldUntil := 0
  slow := (0, 0)

/-- A bight of a frond (R246, R247, R251, R252). -/
structure Bight where
  /-- configured (R246). -/
  valid : Bool
  /-- BASE line, 17 bits (R246). -/
  base : Nat
  /-- LINES, 1 to 16,384 (R246). -/
  lines : Nat
  /-- fill position F (R247). -/
  fill : Nat
  /-- drain position D (R247). -/
  drain : Nat
  /-- FULLCNT (R247). -/
  full : Nat
  /-- a strand has broken the claim of the producer side (R252) -/
  pBroken : Bool
  /-- a strand has broken the claim of the consumer side (R252) -/
  cBroken : Bool
  /-- engine that claims the producer side (R251). -/
  pclaim : Option EngineId
  /-- engine that claims the consumer side (R251). -/
  cclaim : Option EngineId
  deriving DecidableEq, Repr

/-- Its value at reset. -/
def Bight.init : Bight where
  valid := false
  base := 0
  lines := 0
  fill := 0
  drain := 0
  full := 0
  pBroken := false
  cBroken := false
  pclaim := none
  cclaim := none

/-- A frond's configuration and life on one tile (R82, R337, R355, R356, R86). -/
structure Frond where
  /-- image present (R121). -/
  loaded : Bool
  /-- program class, 4 bits (R118). -/
  cls : Nat
  /-- strands started when the frond first runs (R82). -/
  startMask : BitVec 8
  /-- a trap entry exists (R115). -/
  trapValid : Bool
  /-- TRAP_ENTRY (R115). -/
  trapEntry : BitVec 13
  /-- entry points of s0 to s7, 13 bits each (R337). -/
  entries : List Nat
  /-- has run since it was loaded or retired (R355). -/
  ran : Bool
  /-- stopped (R86). -/
  stopped : Bool
  /-- retired (R356). -/
  retired : Bool
  /-- generation, 8 bits (R356). -/
  gen : Nat
  deriving DecidableEq, Repr

/-- Its value at reset. -/
def Frond.init : Frond where
  loaded := false
  cls := 0
  startMask := 0
  trapValid := false
  trapEntry := 0
  entries := (List.replicate 8 0)
  ran := false
  stopped := false
  retired := false
  gen := 0

/-- A route-table entry (R267, R338). -/
structure Route where
  /-- TYPE, 3 bits (R267). -/
  type : Nat
  /-- MCAST (R267). -/
  mcast : Bool
  /-- REMOTE (R267). -/
  remote : Bool
  /-- INDEX, 6 bits (R267). -/
  index : Nat
  /-- DFROND, 3 bits (R267). -/
  dfrond : Nat
  /-- GRANT, 6 bits (R267). -/
  grant : Nat
  /-- CREDIT, per destination tile (one entry for a unicast route) (R267). -/
  held : List (Nat × Nat)
  /-- EPOCH, 16 bits (R267). -/
  epoch : Nat
  /-- SEQ, 16 bits (R291). -/
  seq : Nat
  /-- STATE (R269). -/
  st : RouteSt
  /-- DEST, 16 bits (R267). -/
  dest : Nat
  /-- PEER, 12 bits (R267). -/
  peer : Nat
  /-- senders waiting for credit, in the order they began (R276). -/
  waiters : List Waiter
  deriving DecidableEq, Repr

/-- Its value at reset. -/
def Route.init : Route where
  type := 0
  mcast := false
  remote := false
  index := 0
  dfrond := 0
  grant := 0
  held := []
  epoch := 0
  seq := 0
  st := .open_
  dest := 0
  peer := 0
  waiters := []

/-- A grant of a queue or splice (R273, R339, R340). -/
structure Grant where
  /-- the writer's route (R339). -/
  writer : CreditRef
  /-- CREDITS (R339). -/
  credits : Nat
  /-- frond tag of the latest item taken under a remote grant; a local route's own table tells it (R284). -/
  dfrond : Option Nat
  /-- withdrawn by a fence (R287). -/
  withdrawn : Bool
  /-- the current epoch was announced to this remote grant (R425). -/
  announced : Bool
  /-- a splice grant revoked by a reopened context (R415). -/
  revoked : Bool
  deriving DecidableEq, Repr

/-- Its value at reset. -/
def Grant.init : Grant where
  writer := .none_
  credits := 0
  dfrond := none
  withdrawn := false
  announced := false
  revoked := false

/-- A queue entry in a hardware slot (R270, R271). -/
structure SlotEntry where
  /-- slot 0 to 15 (R270). -/
  slot : Nat
  /-- tag (R271). -/
  tag : Word
  /-- frond tag (R271). -/
  frond : Nat
  /-- route whose credit it holds (R274). -/
  credit : CreditRef
  /-- came back from the extension (R282). -/
  fromExt : Bool
  /-- to be moved to the extension (R281). -/
  spill : Bool
  /-- its number in the order of arrival at the queue (R272) -/
  no : Nat
  deriving DecidableEq, Repr

/-- Its value at reset. -/
def SlotEntry.init : SlotEntry where
  slot := 0
  tag := 0
  frond := 0
  credit := .none_
  fromExt := false
  spill := false
  no := 0

/-- A queue entry in the extension (R281). -/
structure ExtEntry where
  /-- ring position, entries from EXT_BASE (R281). -/
  pos : Nat
  /-- tag (R281). -/
  tag : Word
  /-- frond tag (R281). -/
  frond : Nat
  /-- its number in the order of arrival at the queue (R272) -/
  no : Nat
  deriving DecidableEq, Repr

/-- Its value at reset. -/
def ExtEntry.init : ExtEntry where
  pos := 0
  tag := 0
  frond := 0
  no := 0

/-- A queue (R270 to R287). Entries stand oldest first. -/
structure Queue where
  /-- configured by the image (R273). -/
  configured : Bool
  /-- READERS (R273). -/
  readers : BitVec 8
  /-- EXT_BASE, 17 bits (R281). -/
  extBase : Nat
  /-- EXT_LEN, 0 to 4,096 (R281). -/
  extLen : Nat
  /-- SPILL_AT, 4 bits (R281). -/
  spillAt : Nat
  /-- grant list (R273). -/
  grants : List Grant
  /-- entries in the 16 hardware slots (R270). -/
  slots : List SlotEntry
  /-- entries in the extension (R281). -/
  ext : List ExtEntry
  /-- closed marks by frond (R284). -/
  closed : BitVec 8
  /-- epoch, 16 bits (R285). -/
  epoch : Nat
  /-- tick of the latest receive from it, by frond (R364). -/
  lastRecv : List (Nat × Nat)
  /-- number of the next entry to arrive (R272) -/
  nextNo : Nat
  deriving DecidableEq, Repr

/-- Its value at reset. -/
def Queue.init : Queue where
  configured := false
  readers := 0
  extBase := 0
  extLen := 0
  spillAt := 0
  grants := []
  slots := []
  ext := []
  closed := 0
  epoch := 0
  lastRecv := []
  nextNo := 0

/-- One exact sum of a splice entry, in units of 2^-149 (R292). -/
structure ExactSum where
  /-- exact sum of the finite contributions (R292). -/
  sum : Int
  /-- a NaN was among them (R292). -/
  nan : Bool
  /-- +infinity was among them (R292). -/
  pinf : Bool
  /-- -infinity was among them (R292). -/
  ninf : Bool
  /-- every contribution was -0.0 (R292). -/
  allNegZero : Bool
  deriving DecidableEq, Repr

/-- Its value at reset. -/
def ExactSum.init : ExactSum where
  sum := 0
  nan := false
  pinf := false
  ninf := false
  allNegZero := true

/-- A splice entry that holds weight (R290 to R295). -/
structure SpliceEntry where
  /-- weights received, 10 bits (R292). -/
  weight : Nat
  /-- 64 exact sums (R292). -/
  sums : List ExactSum
  /-- complete and rounded (R295). -/
  done : Bool
  /-- contributions accepted (tile numbers of their writers), for the revocation count (R294). -/
  credits : List Nat
  deriving DecidableEq, Repr

/-- Its value at reset. -/
def SpliceEntry.init : SpliceEntry where
  weight := 0
  sums := []
  done := false
  credits := []

/-- A splice (R290 to R295); entries keyed by sequence number. -/
structure Splice where
  /-- configured (R290). -/
  valid : Bool
  /-- FROND (R290). -/
  frond : Nat
  /-- CNT, 10 bits (R290). -/
  cnt : Nat
  /-- credit tree, 16 bits (R290). -/
  ctree : Nat
  /-- reduces in the network (R326). -/
  reduce : Bool
  /-- remote grants (R340). -/
  remotes : List Grant
  /-- sequence number of the head, 16 bits (R293). -/
  head : Nat
  /-- OVER (R294). -/
  overs : Bool
  /-- contributions discarded outside the window or beyond CNT (R294): no register shows the count -/
  dropped : Nat
  /-- the 32 entries (R290). -/
  entries : List (Nat × SpliceEntry)
  deriving DecidableEq, Repr

/-- Its value at reset. -/
def Splice.init : Splice where
  valid := false
  frond := 0
  cnt := 0
  ctree := 0
  reduce := false
  remotes := []
  head := 0
  overs := false
  dropped := 0
  entries := []

/-- A hitch (R296 to R299). -/
structure Hitch where
  /-- EXPECT, 16 bits (R296). -/
  expect : Nat
  /-- COUNT, 17 bits (R296). -/
  count : Nat
  /-- GEN, 16 bits (R296). -/
  gen : Nat
  /-- REVOKED (R299). -/
  revoked : Bool
  deriving DecidableEq, Repr

/-- Its value at reset. -/
def Hitch.init : Hitch where
  expect := 0
  count := 0
  gen := 0
  revoked := false

/-- A descriptor as copied at issue (R106, R110). -/
structure Desc where
  /-- slot it came from (R104). -/
  slot : Nat
  /-- BASE[47:0] (R110). -/
  base : Nat
  /-- EXT0 (R110). -/
  ext0 : Nat
  /-- EXT1 (R110). -/
  ext1 : Nat
  /-- EXT2 (R110). -/
  ext2 : Nat
  /-- EXT3 (R110). -/
  ext3 : Nat
  /-- STR1, signed (R110). -/
  str1 : Int
  /-- STR2 (R110). -/
  str2 : Int
  /-- STR3 (R110). -/
  str3 : Int
  /-- TM (R110). -/
  tm : Nat
  /-- TN (R110). -/
  tn : Nat
  /-- FMT[3:0] (R110). -/
  fmt : Nat
  /-- FMT[7:4] (R110). -/
  smode : Nat
  /-- MASK_MODE (R110). -/
  mmode : Nat
  /-- BIGHT (R110). -/
  bight : Nat
  /-- FLAGS.SPACE (R110). -/
  space : Bool
  /-- FLAGS.TRANSPOSE (R110). -/
  transpose : Bool
  /-- FLAGS[7:2] (R110). -/
  flagsHi : Nat
  /-- BASE[63:48] (R110). -/
  baseHi : Nat
  /-- MASK_PARAM, signed (R110). -/
  mparam : Int
  /-- SCALE_PTR (R110). -/
  sptr : Nat
  /-- MASK_PTR (R110). -/
  mptr : Nat
  deriving DecidableEq, Repr

/-- Its value at reset. -/
def Desc.init : Desc where
  slot := 0
  base := 0
  ext0 := 0
  ext1 := 0
  ext2 := 0
  ext3 := 0
  str1 := 0
  str2 := 0
  str3 := 0
  tm := 0
  tn := 0
  fmt := 0
  smode := 0
  mmode := 0
  bight := 0
  space := false
  transpose := false
  flagsHi := 0
  baseHi := 0
  mparam := 0
  sptr := 0
  mptr := 0

/-- A macro-instruction in an engine's queue (R106). -/
structure Macro where
  /-- which (R104). -/
  kind : MacroKind
  /-- frond of the issuing strand (R109). -/
  frond : Nat
  /-- issuing strand (R108). -/
  strand : Nat
  /-- completion counter (R104). -/
  k : Nat
  /-- SPEC (R104). -/
  spec : Nat
  /-- descriptor copied from DA (R106). -/
  da : Desc
  /-- from DB (R106). -/
  db : Desc
  /-- from DC (R106). -/
  dc : Desc
  /-- from DD (R106). -/
  dd : Desc
  /-- function or parameter record copied from FS (R184). -/
  record : List Byte
  /-- chain words (R206). -/
  chain : List Word
  deriving DecidableEq, Repr

/-- Its value at reset. -/
def Macro.init : Macro where
  kind := .mmMm
  frond := 0
  strand := 0
  k := 0
  spec := 0
  da := Desc.init
  db := Desc.init
  dc := Desc.init
  dd := Desc.init
  record := []
  chain := []

/-- One step of an engine's walk, with the indices its chapter gives it. What each does is in the engines'
files. -/
inductive Micro where
  /-- mm.att: the start of a query tile: its statistics and its O (R193, R194) -/
  | begin_ (b tm : Nat)
  /-- read one stationary line into the block (R131, R145): which product, batch, K chunk, A tile or key block, tile
  column, block, line and walk position; line 0 empties the block -/
  | load (second : Bool) (b kc at_ tn nb r pos : Nat)
  /-- stream one row (R132, R138): which product, batch, K chunk, A tile or key block, tile row, tile column, block, row
  within the tile, walk position -/
  | stream (second : Bool) (b kc at_ tm tn nb row pos : Nat)
  /-- one row of a write-out (R140) -/
  | out (b tm tn pos row : Nat)
  /-- one splice contribution: its line j of a row (R147) -/
  | splice (b tm tn pos row j : Nat)
  /-- one line of a transposed fill of mm.wg (R198): group, stored row and walk position -/
  | fill (b kc grp r pos : Nat)
  /-- one row of a function pass (R187, R193): A tile or key block, row, walk position -/
  | func (b tm at_ row pos : Nat)
  /-- the final pass of mm.att for one row (R193, R195) -/
  | final (b tm row : Nat)
  /-- one row of an accumulator clear (R148) -/
  | zero (b row : Nat)
  /-- one beat of a vector chain (R201); `last` marks the row's last beat -/
  | beat (i3 i2 i1 bt : Nat) (last : Bool)
  /-- vx.close's read and write of the record (R223) -/
  | close
  /-- one beat of vx.opt (R225) -/
  | opt (i3 i2 i1 bt : Nat)
  /-- sp.fill and sp.copy: the elements [c, c + len) of a row, within one line of each side (R256, R258) -/
  | fillRow (i3 i2 i1 c len : Nat)
  | copyRow (i3 i2 i1 c len : Nat)
  /-- sp.bfill, sp.bdrain, sp.breset (R252) -/
  | bightOp
  /-- a run of bytes of a DMA transfer within one line of each side (R380) -/
  | dma (src dst len : Nat)
  deriving DecidableEq, Repr

/-- A line access that a DMA engine has issued (R380, R384). -/
structure DmaAccess where
  /-- number within the engine (R380). -/
  id : Nat
  /-- source byte address or offset (R382). -/
  src : Nat
  /-- destination byte address or offset (R382). -/
  dst : Nat
  /-- bytes (R382). -/
  len : Nat
  /-- data returned (R384). -/
  data : Option (List Byte)
  /-- answers still to come (one for each leaf of a multicast write) (R384). -/
  left : Nat
  /-- served at its destination (R384). -/
  done : Bool
  /-- status it met (R384). -/
  status : Byte
  deriving DecidableEq, Repr

/-- Its value at reset. -/
def DmaAccess.init : DmaAccess where
  id := 0
  src := 0
  dst := 0
  len := 0
  data := none
  left := 1
  done := false
  status := 0

/-- A byte range that a step touches: the bight it goes through (0 for none), where it begins there or in the tile
window, and its bytes (R248). -/
structure Rng where
  /-- bight (R248). -/
  h : Nat
  /-- stream address, or window offset (R111). -/
  at_ : Int
  /-- bytes (R111). -/
  len : Nat
  deriving DecidableEq, Repr

/-- How far a unit of an engine has come with the step it is at (R234, R249). -/
structure Prog where
  /-- pieces it has read (R249). -/
  read : Nat
  /-- the bytes read: window offset and bytes (R149). -/
  got : List (Nat × List Byte)
  /-- what it has still to write, once the step is computed (R249). -/
  due : Option (List (Rng × List Byte))
  deriving DecidableEq, Repr

/-- Its value at reset. -/
def Prog.init : Prog where
  read := 0
  got := []
  due := none

/-- A macro-instruction in execution. -/
structure Run where
  /-- the macro-instruction (R107). -/
  macro_ : Macro
  /-- what remains of its walk (R138). -/
  plan : List Micro
  /-- stationary block: lines of element codes with their scales (R131). -/
  block : List (List Nat)
  /-- FP32 scales of the columns of the stationary block, read with it (R149, R158) -/
  scales : List Nat
  /-- transpose buffer of mm.wg (R198). -/
  fills : List (List Nat)
  /-- lane values of row reductions, FP32 bits, by chain word (R213). -/
  lanes : List (Nat × List Nat)
  /-- broadcast values by input, FP32 bits (R203); the pattern of sp.fill (R256) -/
  cast : List (Nat × List Nat)
  /-- row of the product, mx and l of mm.att, FP32 bits (R193). -/
  stats : List (Nat × Nat × Nat)
  /-- alpha of a row for the passes not yet used: 2 * row + walk position mod 2, FP32 bits (R193, R195). -/
  alphas : List (Nat × Nat)
  /-- bight, F0 and D0 (R248). -/
  starts : List (Nat × Nat × Nat)
  /-- lines filled, by bight (R249). -/
  filled : List (Nat × Nat)
  /-- lines drained, by bight (R249). -/
  drained : List (Nat × Nat)
  /-- one past the highest stream line written, by bight (R249). -/
  wtop : List (Nat × Nat)
  /-- one past the highest stream line read, by bight (R249). -/
  rtop : List (Nat × Nat)
  /-- the line that each read stream read last: stream, line, the bytes it gave (R132, R235) -/
  bufs : List (Nat × Nat × List Host.Cell)
  /-- steps under way, by unit (R190, R195) -/
  progs : List (Nat × Prog)
  /-- the bytes of its bights stand as the step under way holds them, not in their ring slots (R248, R249) -/
  virt : Bool
  /-- scratchpad line that the write stream accessed last (R235). -/
  lastWr : Option Nat
  /-- AMAX read at the start, and the largest finite magnitude seen, FP32 bits (R176). -/
  amax : Nat
  /-- a NaN or infinity was seen (R176). -/
  nonfinite : Bool
  /-- SATCOUNT read at the start (R176). -/
  sat : Nat
  /-- values clamped (R176) -/
  clamps : Nat
  /-- FLAGS read at the start (R176) -/
  flags : Nat
  /-- SCALE read at the start, FP32 bits (R176). -/
  scale : Nat
  /-- SEED read at the start (R176). -/
  seed : Word
  /-- STEP read at the start (R176). -/
  step : Nat
  /-- STEP to write back (R176) -/
  recStep : Nat
  /-- line accesses in flight, oldest first (R380). -/
  flight : List DmaAccess
  /-- tick of the start (R107). -/
  started : Nat
  /-- tick at which its present wait for credit began (R288). -/
  waitFrom : Nat
  /-- stall probes sent in this wait (R288). -/
  probed : Nat
  /-- status of an early completion, 0 for none (R109). -/
  err : Byte
  deriving DecidableEq, Repr

/-- Its value at reset. -/
def Run.init : Run where
  macro_ := Macro.init
  plan := []
  block := []
  scales := []
  fills := []
  lanes := []
  cast := []
  stats := []
  alphas := []
  starts := []
  filled := []
  drained := []
  wtop := []
  rtop := []
  bufs := []
  progs := []
  virt := false
  lastWr := none
  amax := 0
  nonfinite := false
  sat := 0
  clamps := 0
  flags := 0
  scale := 0
  seed := 0
  step := 0
  recStep := 0
  flight := []
  started := 0
  waitFrom := 0
  probed := 0
  err := 0

/-- An engine: its issue queue (R105), oldest first, and what it runs. -/
structure Engine where
  /-- issue queue (R105). -/
  queue : List Macro
  /-- macro-instruction in execution (a DMA engine may hold several transfers, R380) (R107). -/
  run : List Run
  /-- number of the next line access (R380). -/
  nextId : Nat
  deriving DecidableEq, Repr

/-- Its value at reset. -/
def Engine.init : Engine where
  queue := []
  run := []
  nextId := 0

/-- What a flit carries (R312, R319, R320). `frond` and `entryNo` name the route entry a notice goes to, or
the sender's; of an entry, `entryNo` is the sender's frond * 128 + route entry, since its frond tag is its route's DFROND
(R267). -/
inductive FlitBody where
  | hitch (index count : Nat)
  | credit (frond entryNo n : Nat)
  | revoked (frond entryNo : Nat)
  | closeN (frond entryNo : Nat)
  | staleN (frond entryNo : Nat)
  | reopenN (frond entryNo credits epoch : Nat)
  | tally (isSet : Bool) (index : Nat) (value : Word) (strand : Nat)
  | tallyReply (value : Word) (status : Byte) (strand : Nat)
  | entry (light : Bool) (q len epoch entryNo : Nat) (data : List Byte)
  | probe (waiter q : Nat) (myTile entryNo : Nat)
  | fence (tile : Nat)
  | spliceCredit (splice : Nat)
  | contrib (index seq weight entryNo : Nat) (values : List Nat)
  | read (addr len engine id : Nat)
  | readData (engine id : Nat) (data : List Byte) (status : Byte)
  | write (addr engine id : Nat) (data : List Byte)
  deriving DecidableEq, Repr

/-- A flit (R318, R320). -/
structure Flit where
  /-- class (R312). -/
  cls : FClass
  /-- PART, set by hardware (R328). -/
  part : Nat
  /-- frond tag (R318). -/
  frond : Nat
  /-- sender's logical tile number (R318). -/
  src : Nat
  /-- sending strand (R318). -/
  sstr : Nat
  /-- MCAST (R318). -/
  mcast : Bool
  /-- logical tile or tree number (R318). -/
  dest : Nat
  /-- logical tiles this copy still has to reach (R324). -/
  dests : List Nat
  /-- USER (R318). -/
  user : Nat
  /-- INDEX of its header: queue, splice, hitch or tally number (R318) -/
  index : Nat
  /-- SEQ of its header: splice sequence number or queue EPOCH (R318) -/
  seq : Nat
  /-- tick of injection (R315). -/
  injected : Nat
  /-- writers of the contributions that routers added into it, beside its own: tile, frond, route entry (R326, R356) -/
  also : List (Nat × Nat × Nat)
  /-- type and payload (R319). -/
  body : FlitBody
  deriving DecidableEq, Repr

/-- Its value at reset. -/
def Flit.init : Flit where
  cls := .c
  part := 0
  frond := 0
  src := 0
  sstr := 0
  mcast := false
  dest := 0
  dests := []
  user := 0
  index := 0
  seq := 0
  injected := 0
  also := []
  body := .hitch 0 0

/-- A reduction entry of a router (R326). -/
structure Reduction where
  /-- inputs of its set (R326). -/
  inputs : List Dir
  /-- contributions held, oldest first (R326). -/
  bufs : List (Dir × Flit)
  /-- revoked (R327). -/
  revoked : Bool
  deriving DecidableEq, Repr

/-- Its value at reset. -/
def Reduction.init : Reduction where
  inputs := []
  bufs := []
  revoked := false

/-- One lane of one outgoing channel (R304, R321, R322). -/
structure Lane where
  /-- flits under way (R304). -/
  fly : List Flit
  /-- the last 16 flits, newest first (R321). -/
  kept : List Flit
  /-- the flit at the head failed its CRC and waits for its replay (R321). -/
  wait : Bool
  /-- replays in a row of the flit that fails (R322). -/
  replays : Nat
  deriving DecidableEq, Repr

/-- Its value at reset. -/
def Lane.init : Lane where
  fly := []
  kept := []
  wait := false
  replays := 0

/-- An outgoing channel of a router (R304, R321, R322). -/
structure Chan where
  /-- hitch and general C sub-lanes and data path, by lane (R304). -/
  lanes : List (Nat × Lane)
  /-- failed (R322). -/
  failed : Bool
  /-- LINK_CORRECTED written in this second (R321). -/
  logged : Bool
  /-- replays this second (R321). -/
  count : Nat
  /-- SEQ of its latest LINK_CORRECTED record (R321, R322) -/
  lastRec : Nat
  deriving DecidableEq, Repr

/-- Its value at reset. -/
def Chan.init : Chan where
  lanes := []
  failed := false
  logged := false
  count := 0
  lastRec := 0

/-- A router (R304 to R327). -/
structure Router where
  /-- buffered flits by input code * 8 + class code (R315). -/
  inq : List (Nat × List Flit)
  /-- outgoing channels by direction (R304). -/
  outs : List (Nat × Chan)
  /-- input last served by output code * 8 + class code, plus 1 (R317). -/
  turn : List (Nat × Nat)
  /-- Q, G and T flits sent in the present round, by output (R317). -/
  round : List (Nat × (Nat × Nat × Nat))
  /-- reduction entries by splice tile * 16 + splice (R326). -/
  reds : List (Nat × Reduction)
  deriving DecidableEq, Repr

/-- Its value at reset. -/
def Router.init : Router where
  inq := []
  outs := []
  turn := []
  round := []
  reds := []

/-- An item for a remote context that waits to be packed (R424). -/
inductive RemoteItem where
  | queue (dtile q epoch user stile sroute dfrond sfrond : Nat) (light : Bool) (len sstrand : Nat) (data : List Byte)
  | splice (dtile s seq weight stile sroute sfrond : Nat) (values : List Nat)
  | hitch (dtile h : Nat) (parts : List (Nat × Nat))
  | credit (src wtile wroute kind wfrond count epochA epochB : Nat)
  deriving DecidableEq, Repr

/-- A switch asked of a tile (R355, R357). -/
structure FoldReq where
  /-- step of the plan, or none for a command switch (R354). -/
  step : Option Nat
  /-- frond that becomes active (R344). -/
  frond : Nat
  /-- mode (R344). -/
  mode : FoldMode
  /-- device time of the instant (R354). -/
  instant : Nat
  deriving DecidableEq, Repr

/-- Its value at reset. -/
def FoldReq.init : FoldReq where
  step := none
  frond := 0
  mode := .park
  instant := 0

/-- A retained range (R243, R342). -/
structure Retained where
  /-- first line (R243). -/
  start : Nat
  /-- lines (R243). -/
  count : Nat
  /-- weight digest (R342). -/
  digest : List Byte
  deriving DecidableEq, Repr

/-- Its value at reset. -/
def Retained.init : Retained where
  start := 0
  count := 0
  digest := []

/-- A tile: core, engines, memories, messaging objects, router, power and fold state. A map is a list sorted by key; a key that is not listed has the default value. -/
structure Tile where
  /-- owning partition (R28). -/
  part : Nat
  /-- held by a region load (R349). -/
  held : Bool
  /-- teardown clear under way (R261). -/
  clearing : Bool
  /-- fenced (R504). -/
  fenced : Bool
  /-- active frond (R352). -/
  active : Option Nat
  /-- eight fronds (R82). -/
  fronds : List (Nat × Frond)
  /-- contexts, by frond * 8 + strand (R82). -/
  strands : List (Nat × Strand)
  /-- TILE_CORE_CTRL.HALT_REQ (R86). -/
  haltReq : Bool
  /-- strand allowed one instruction by STEP (R86). -/
  stepping : Option Nat
  /-- strand that issued last (R83). -/
  lastIssued : Nat
  /-- tick of the tile's last reset (R102). -/
  resetTick : Nat
  /-- 24 MiB of scratchpad, bytes (R229). -/
  scratch : List Host.Cell
  /-- 1 MiB of accumulator memory, bytes (R133). -/
  acc : List Host.Cell
  /-- 512 KiB of frond store, bytes (R21). -/
  fstore : List Host.Cell
  /-- 64 KiB of queue slots, bytes (R270). -/
  qmem : List Host.Cell
  /-- 128 KiB of splice entries as read, bytes (R290). -/
  smem : List Host.Cell
  /-- 4 KiB descriptor table, bytes (R110). -/
  desc : List Host.Cell
  /-- window offsets of 64-bit words that hold an uncorrectable error (R497). -/
  bad : List Nat
  /-- lines with a corrected error that SCRUB has still to rewrite (R259). -/
  ceLines : List Nat
  /-- corrected errors in the current second (R490). -/
  ceSecond : Nat
  /-- by frond * 16 + handle (R246). -/
  bights : List (Nat × Bight)
  /-- by frond * 128 + entry (R267). -/
  routes : List (Nat × Route)
  /-- q0 to q63 (R270). -/
  queues : List (Nat × Queue)
  /-- s0 to s15 (R290). -/
  splices : List (Nat × Splice)
  /-- h0 to h31 (R296). -/
  hitches : List (Nat × Hitch)
  /-- t0 to t15 (R300). -/
  tallies : List (Nat × Word)
  /-- matrix engine (R105). -/
  mx : Engine
  /-- vector engine (R105). -/
  vx : Engine
  /-- DMA engine 0 (R380). -/
  dma0 : Engine
  /-- DMA engine 1 (R380). -/
  dma1 : Engine
  /-- fill/copy unit (R105). -/
  fc : Engine
  /-- power state of quarter 0 (R239). -/
  q0 : QPower
  /-- quarter 1 (R239). -/
  q1 : QPower
  /-- quarter 2 (R239). -/
  q2 : QPower
  /-- quarter 3 (R239). -/
  q3 : QPower
  /-- bank map of the tile's region (R231). -/
  hashed : Bool
  /-- retained ranges, at most four (R243). -/
  retained : List Retained
  /-- items for remote contexts on their way to the I/O die: context and item, oldest first (R424). -/
  railOut : List (Nat × RemoteItem)
  /-- delivered at the local port and not yet taken up, oldest first (R305). -/
  arrivals : List Flit
  /-- flits that wait for room in the local input of their router, oldest first (R315, R317, R326) -/
  outbox : List Flit
  /-- state of the frond switch (R355). -/
  foldSt : FoldSt
  /-- the switch under way (R355). -/
  foldReq : Option FoldReq
  /-- later switches that wait for it (R357). -/
  foldWait : List FoldReq
  /-- tick at which the 16-cycle switch began (R355). -/
  switchAt : Nat
  /-- FOLD_OVERRUN already written since the region load (R357). -/
  overrunLogged : Bool
  /-- latest fold step begun (R367). -/
  foldStep : Nat
  /-- OVERRUNS, 16 bits (R357). -/
  overruns : Nat
  /-- line to spare line of its bank (R260). -/
  lineRepairs : List (Nat × Nat)
  /-- scratchpad words corrected in this scrub pass, by offset / 8 (R506). -/
  twice : List Nat
  /-- lines that held an uncorrectable word when a whole-line write replaced them (R499). -/
  repairDue : List Nat
  /-- lines with a word corrected twice in a pass, moved at their next scrub slot (R506, R512). -/
  scrubDue : List Nat
  /-- scrub position within the tile (R492). -/
  scrubPos : Nat
  /-- array rows mapped out (R150). -/
  badRows : List Nat
  /-- array columns mapped out (R150). -/
  badCols : List Nat
  /-- rows and columns that TILE_MX_REPAIR shows; a shift does not change it (R18, R151). -/
  mxShown : List Nat × List Nat
  /-- array repairs that wait for an idle engine: is a row, index (R150). -/
  repairWait : List (Bool × Nat)
  /-- device time of the last good array check (R511). -/
  lastCheck : Nat
  /-- tick at which the matrix engine last became idle (R511). -/
  mxIdle : Nat
  deriving DecidableEq, Repr

/-- Its value at reset. -/
def Tile.init : Tile where
  part := 0
  held := false
  clearing := false
  fenced := false
  active := none
  fronds := []
  strands := []
  haltReq := false
  stepping := none
  lastIssued := 7
  resetTick := 0
  scratch := []
  acc := []
  fstore := []
  qmem := []
  smem := []
  desc := []
  bad := []
  ceLines := []
  ceSecond := 0
  bights := []
  routes := []
  queues := []
  splices := []
  hitches := []
  tallies := []
  mx := Engine.init
  vx := Engine.init
  dma0 := Engine.init
  dma1 := Engine.init
  fc := Engine.init
  q0 := .on
  q1 := .on
  q2 := .on
  q3 := .on
  hashed := false
  retained := []
  railOut := []
  arrivals := []
  outbox := []
  foldSt := .run
  foldReq := none
  foldWait := []
  switchAt := 0
  overrunLogged := false
  foldStep := 0
  overruns := 0
  lineRepairs := []
  twice := []
  repairDue := []
  scrubDue := []
  scrubPos := 0
  badRows := []
  badCols := []
  mxShown := ([], [])
  repairWait := []
  lastCheck := 0
  mxIdle := 0

/-- A multicast tree of a region (R323, R341). -/
structure Tree where
  /-- partition (R323). -/
  part : Nat
  /-- tree number in the image (R341). -/
  img : Nat
  /-- root tile (R323). -/
  root : Nat
  /-- leaf tiles (R323). -/
  leaves : List Nat
  deriving DecidableEq, Repr

/-- Its value at reset. -/
def Tree.init : Tree where
  part := 0
  img := 0
  root := 0
  leaves := []

/-- The latest Sync received on a port (R55). -/
structure SyncRec where
  /-- device time of arrival (R55). -/
  at_ : Nat
  /-- low 32 bits of the origin seconds; none until the Follow_Up of a two-step Sync (R55). -/
  origin : Option Nat
  deriving DecidableEq, Repr

/-- Its value at reset. -/
def SyncRec.init : SyncRec where
  at_ := 0
  origin := none

/-- Time discipline beyond its registers (R48 to R56). -/
structure TimeUnit where
  /-- the second count has stopped (R47). -/
  exhausted : Bool
  /-- a TIME_SET was applied since reset (R53). -/
  setEver : Bool
  /-- consecutive edges within 2 cycles (R51). -/
  inRow : Nat
  /-- offset still to be slewed, cycles (R50). -/
  slew : Int
  /-- the offset was measured against the cycle 0 still to come (R49, R50) -/
  slewAhead : Bool
  /-- 1 + the second whose window was decided last, by an edge or by its close (R49). -/
  edgeFor : Nat
  /-- steering was handed to the host in this second (R51). -/
  handover : Bool
  /-- TIME_STEER value for the next cycle 0, ppb (R54). -/
  steerNext : Option Int
  /-- TIME_STEER written in this second (R51). -/
  steered : Bool
  /-- latest Sync by port (R55). -/
  syncs : List (Nat × SyncRec)
  /-- level of PPS_OUT (R568). -/
  ppsOut : Bool
  /-- tick at which PPS_OUT rose (R568). -/
  ppsRose : Nat
  /-- cycles by which the cycle count was restarted since reset (the count is not restarted in service) (R50). -/
  clk : Nat
  deriving DecidableEq, Repr

/-- Its value at reset. -/
def TimeUnit.init : TimeUnit where
  exhausted := false
  setEver := false
  inRow := 0
  slew := 0
  slewAhead := false
  edgeFor := 0
  handover := false
  steerNext := none
  steered := false
  syncs := []
  ppsOut := false
  ppsRose := 0
  clk := 0

/-- An admitted request (R60 to R66, R429 to R431). -/
structure Request where
  /-- REQ_TAG (R73). -/
  tag : Word
  /-- host context (R429). -/
  ctx : Nat
  /-- incarnation of its context as the REQ came (R431). -/
  incarn : Nat
  /-- partition (R60). -/
  part : Nat
  /-- class (R62). -/
  cls : Nat
  /-- Lin (R66). -/
  lin : Nat
  /-- Lout (R66). -/
  lout : Nat
  /-- arrival time (R60). -/
  arrival : Nat
  /-- s (R63). -/
  start : Nat
  /-- promise, none for best-effort (R63). -/
  promise : Option Nat
  /-- envelope mode used for e (R69). -/
  env : Nat
  /-- lane claimed (R64). -/
  lane : Nat
  /-- computed promise, from which its lane counts as free (R63, R70) -/
  claim : Nat
  /-- header and token entries not yet in the entry queue (R429). -/
  tokens : List (List Byte)
  /-- its first token has entered (R359). -/
  entered : Bool
  /-- a missed-promise record was written (R71). -/
  late : Bool
  /-- SEQ + 1 of the latest hardware fault record in its path since arrival (R72). -/
  faulted : Nat
  /-- SEQ + 1 of the latest LINK_CORRECTED record of a channel in its path that has replayed since arrival (R322) -/
  replayed : Nat
  /-- SEQ + 1 of the latest record of its partition since arrival of a class that is not a hardware fault (R72). -/
  soft : Nat
  /-- context whose budget was exhausted (R72). -/
  budget : Option Nat
  /-- cancelled (R430). -/
  cancelled : Bool
  /-- tokens generated so far (R66). -/
  got : Nat
  /-- next PIECE (R423). -/
  piece : Nat
  /-- result tokens not yet in a RES message (R431). -/
  outTokens : List Byte
  /-- its LAST entry has come (R431). -/
  last : Bool
  deriving DecidableEq, Repr

/-- Its value at reset. -/
def Request.init : Request where
  tag := 0
  ctx := 0
  incarn := 0
  part := 0
  cls := 0
  lin := 0
  lout := 0
  arrival := 0
  start := 0
  promise := none
  env := 0
  lane := 0
  claim := 0
  tokens := []
  entered := false
  late := false
  faulted := 0
  replayed := 0
  soft := 0
  budget := none
  cancelled := false
  got := 0
  piece := 0
  outTokens := []
  last := false

/-- Lanes and last start of a class of a partition (R63). -/
structure Lanes where
  /-- earliest free time of each lane (R63). -/
  free : List Nat
  /-- last_start (R63). -/
  last : Option Nat
  deriving DecidableEq, Repr

/-- Its value at reset. -/
def Lanes.init : Lanes where
  free := []
  last := none

/-- A class entry of a timing table (R62, R343). -/
structure TimingClass where
  /-- CLASS (R343). -/
  cls : Nat
  /-- UNBOUNDED (R343). -/
  unbounded : Bool
  /-- LANES (R343). -/
  lanes : Nat
  /-- LIN_MAX (R343). -/
  linMax : Nat
  /-- LOUT_MAX (R343). -/
  loutMax : Nat
  /-- F0 (R343). -/
  f0 : Nat
  /-- FIN (R343). -/
  fin : Nat
  /-- FOUT (R343). -/
  fout : Nat
  /-- M0 (R343). -/
  m0 : Nat
  /-- MIN (R343). -/
  min_ : Nat
  /-- MOUT (R343). -/
  mout : Nat
  /-- IF (R343). -/
  ifx : Nat
  /-- IM (R343). -/
  im : Nat
  deriving DecidableEq, Repr

/-- Its value at reset. -/
def TimingClass.init : TimingClass where
  cls := 0
  unbounded := false
  lanes := 0
  linMax := 0
  loutMax := 0
  f0 := 0
  fin := 0
  fout := 0
  m0 := 0
  min_ := 0
  mout := 0
  ifx := 0
  im := 0

/-- A step of a fold plan (R344). -/
structure FoldStep where
  /-- OFFSET (R344). -/
  offset : Nat
  /-- X0 (R344). -/
  x0 : Nat
  /-- Y0 (R344). -/
  y0 : Nat
  /-- X1 (R344). -/
  x1 : Nat
  /-- Y1 (R344). -/
  y1 : Nat
  /-- FROND (R344). -/
  frond : Nat
  /-- MODE (R344). -/
  mode : Nat
  /-- device time of its next instant (R354). -/
  due : Nat
  deriving DecidableEq, Repr

/-- Its value at reset. -/
def FoldStep.init : FoldStep where
  offset := 0
  x0 := 0
  y0 := 0
  x1 := 0
  y1 := 0
  frond := 0
  mode := 0
  due := 0

/-- A partition's region beyond its registers (R333 to R363). -/
structure Region where
  /-- image bytes received, or read from memory (R333). -/
  img : List Byte
  /-- SOURCE is STREAM (R333). -/
  stream : Bool
  /-- image address under MEMORY (R333). -/
  addr : Nat
  /-- bytes available under MEMORY (R333). -/
  avail : Nat
  /-- LOAD_END received (R346). -/
  ended : Bool
  /-- tick of the latest image byte (R346). -/
  lastByte : Nat
  /-- next section to be written (R336). -/
  sect : Nat
  /-- claimed ranges by tile (R342). -/
  claims : List (Nat × Retained)
  /-- retained ranges of the new image by tile (R342). -/
  newRetained : List (Nat × Retained)
  /-- weight-digest entries of 68 bytes (R460). -/
  digests : List (List Byte)
  /-- image tree number to device tree number (R341). -/
  trees : List (Nat × Nat)
  /-- timing table (R343). -/
  classes : List TimingClass
  /-- TFLAGS.DETOUR (R343). -/
  detour : Bool
  /-- a timing table is loaded (R343). -/
  timed : Bool
  /-- best-effort until the next region load (R510). -/
  bestEffort : Bool
  /-- loaded with the hashed map (R70). -/
  hashed : Bool
  /-- fold plan (R344). -/
  steps : List FoldStep
  /-- PERIOD (R344). -/
  period : Nat
  /-- fold anchor (R352). -/
  anchor : Nat
  /-- credits the host endpoint holds for the entry queue (R429). -/
  hostCredit : Nat
  /-- GO given, with its start time (R352). -/
  goAt : Option Nat
  /-- SPAN_ID (R334). -/
  spanId : Word
  /-- DEVICE_INDEX (R334). -/
  devIndex : Nat
  /-- mode of the drain under way (R359). -/
  drainMode : Nat
  /-- tick at which the drain began (R361). -/
  drainAt : Nat
  /-- command switches not yet due (R358). -/
  switches : List FoldStep
  /-- TILING_WALK effective as 1 during the load (R351). -/
  hwDuty : Bool
  /-- a check has failed and CLEARING follows (R348). -/
  failed : Bool
  /-- lanes and last start by class (R63). -/
  lanes : List (Nat × Lanes)
  deriving DecidableEq, Repr

/-- Its value at reset. -/
def Region.init : Region where
  img := []
  stream := false
  addr := 0
  avail := 0
  ended := false
  lastByte := 0
  sect := 0
  claims := []
  newRetained := []
  digests := []
  trees := []
  classes := []
  detour := false
  timed := false
  bestEffort := false
  hashed := false
  steps := []
  period := 0
  anchor := 0
  hostCredit := 0
  goAt := none
  spanId := 0
  devIndex := 0
  drainMode := 0
  drainAt := 0
  switches := []
  hwDuty := false
  failed := false
  lanes := []

/-- A key slot of a partition (R388, R391): which key it holds, whose bytes are in `MemUnit.keys` or the device's own draw. -/
structure KeySlot where
  /-- which key, 0 for a zeroed slot (R391). -/
  serial : Nat
  deriving DecidableEq, Repr

/-- Its value at reset. -/
def KeySlot.init : KeySlot where
  serial := 0

/-- A partition beyond its registers (R440 to R458). -/
structure Part where
  /-- EK_SERIAL (R457). -/
  ekSerial : Nat
  /-- which key pair (R457). -/
  ek : Nat
  /-- key of the current generation (R391). -/
  curKey : KeySlot
  /-- key of the old generation (R391). -/
  oldKey : KeySlot
  /-- key waiting in the free slot (R391). -/
  newKey : KeySlot
  /-- creations (R483). -/
  pinst : Nat
  /-- tick at which teardown began (R446). -/
  clearAt : Nat
  /-- plaintext of the line being swept (R392). -/
  sweepBuf : Option (List Byte)
  /-- slots given to the sweep of the line at the sweep pointer (R376, R392) -/
  sweepSlots : Nat
  /-- pages still in the old generation, ascending (R392). -/
  movedOld : List Nat
  /-- tick at which RETIRING began (R391). -/
  retireAt : Nat
  deriving DecidableEq, Repr

/-- Its value at reset. -/
def Part.init : Part where
  ekSerial := 1
  ek := 0
  curKey := KeySlot.init
  oldKey := KeySlot.init
  newKey := KeySlot.init
  pinst := 0
  clearAt := 0
  sweepBuf := none
  sweepSlots := 0
  movedOld := []
  retireAt := 0

/-- Who asked for a memory access and gets its completion: a line of a DMA transfer, a part of a remote access, a region load for a tile or
for none (R333), or an access whose command has had its effect and that only takes its slots (R375). -/
inductive Requester where
  | dma (tile eng id : Nat)
  | remote (ctx op idx : Nat)
  | load (tile : Option Nat)
  | served
  | none_
  deriving DecidableEq, Repr

/-- An access that waits at a memory channel (R374 to R379). -/
structure MemAccess where
  /-- partition (R374). -/
  part : Nat
  /-- stream (R375). -/
  stream : StreamId
  /-- write (R375). -/
  isWrite : Bool
  /-- device address of the first byte (R370). -/
  addr : Nat
  /-- bytes within one line (R382). -/
  len : Nat
  /-- bytes to write (R382). -/
  data : List Byte
  /-- requester (R384). -/
  who : Requester
  /-- 64-byte accesses still to be made (R378). -/
  left : Nat
  /-- waits for a refresh (R379). -/
  refresh : Bool
  /-- its data have come, so that a slot may serve it (R382, R384). -/
  ready : Bool
  /-- frond of the transfer (R397). -/
  frond : Nat
  /-- strand of the transfer (R502). -/
  strand : Nat
  /-- source address of the write of a copy between memories (R382). -/
  copyOf : Option Nat
  deriving DecidableEq, Repr

/-- Its value at reset. -/
def MemAccess.init : MemAccess where
  part := 0
  stream := .read
  isWrite := false
  addr := 0
  len := 0
  data := []
  who := .none_
  left := 4
  refresh := false
  ready := true
  frond := 0
  strand := 0
  copyOf := none

/-- A memory channel (R374). -/
structure MemChan where
  /-- accesses waiting, oldest first (R374). -/
  queue : List MemAccess
  /-- owners of the slot positions of a frame that have been chosen, in order: partition and stream, none for a position nobody owns (R374) -/
  frame : List (Option (Nat × StreamId))
  /-- position of the next slot in the frame (R374) -/
  pos : Nat
  deriving DecidableEq, Repr

/-- Its value at reset. -/
def MemChan.init : MemChan where
  queue := []
  frame := []
  pos := 0

/-- HBM and DDR5 (R368 to R399). Cells hold plaintext by device address; with the key and tweak
under which each line was written, in `lineKey`, they stand for the ciphertext that the arrays hold. -/
structure MemUnit where
  /-- bytes (R388). -/
  cells : List Host.Cell
  /-- serial of the key under which each line was written, and the line number that was its tweak (R388). -/
  lineKey : List (Nat × (Nat × Nat))
  /-- lines that hold an uncorrectable error (R497). -/
  bad : List Nat
  /-- channels: stack * 32 + channel for HBM, 384 + channel for DDR5 (R374). -/
  chans : List (Nat × MemChan)
  /-- next key serial (R388). -/
  nextKey : Nat
  /-- pairs of AES-256 keys that were delivered, by serial, 64 bytes each (R388, R458). -/
  keys : List (Nat × List Byte)
  /-- GEN bit of each page: pages of HBM from 0, of DDR5 from 2^22 (R389). -/
  pageGen : List (Nat × Nat)
  /-- rows being copied into a buffer: unit, row (R398). -/
  rowCopy : List (Nat × Nat)
  /-- rows in buffers: unit, row (R398). -/
  rowBufs : List (Nat × Nat)
  /-- corrected errors of rows in this patrol pass: unit, row, count (R506). -/
  rowCe : List (Nat × Nat × Nat)
  /-- corrected errors of each unit in the current second (R490). -/
  ceSecond : List (Nat × Nat)
  /-- replays of a tile's rail and ring lines in this second, and SEQ of the record of them (R489). -/
  sideReplays : List (Nat × (Nat × Nat))
  /-- stacks and channels advised (R516). -/
  advised : List Nat
  /-- units that have passed training (R399). -/
  trained : List Nat
  /-- modules by slot, channel * 2 + slot, as their SPD hubs told at training (R385, R529). -/
  dimms : List (Nat × ModRx)
  /-- why a DDR5 channel is left unused: channel, REASON (R385, R532). -/
  ddrWhy : List (Nat × Nat)
  /-- accesses that the patrol pass has made in each channel (R495). -/
  patrolPos : List (Nat × Nat)
  /-- second in which each unit's patrol pass began (R495). -/
  patrolFrom : List (Nat × Nat)
  /-- corrected lines whose rewrite takes the next borrowed slot: channel, address (R495). -/
  patrolFix : List (Nat × Nat)
  /-- HBM lanes waiting for the next frame boundary: stack, count (R398). -/
  replaced : List (Nat × Nat)
  /-- rows under copy that have been given a slot: unit, row (R376, R398) -/
  rowGiven : List (Nat × Nat)
  /-- partition and channel of a row under copy (R376, R398). -/
  rowHome : List ((Nat × Nat) × (Nat × Nat))
  /-- lane slots of a rail and direction (2 * rail, plus 1 toward the tiles) taken in a cycle: the cycle and their number (R372). -/
  railUsed : List (Nat × (Nat × Nat))
  deriving DecidableEq, Repr

/-- Its value at reset. -/
def MemUnit.init : MemUnit where
  cells := []
  lineKey := []
  bad := []
  chans := []
  nextKey := 1
  keys := []
  pageGen := []
  rowCopy := []
  rowBufs := []
  rowCe := []
  ceSecond := []
  sideReplays := []
  advised := []
  trained := []
  dimms := []
  ddrWhy := []
  patrolPos := []
  patrolFrom := []
  patrolFix := []
  replaced := []
  rowGiven := []
  rowHome := []
  railUsed := []

/-- A Nopra message to be sent or not yet acknowledged (R409, R416). -/
structure TxMsg where
  /-- TYPE (R423). -/
  type : Nat
  /-- partition it belongs to, 0 for none (R420). -/
  part : Nat
  /-- context (R410). -/
  ctx : Nat
  /-- payload (R423). -/
  payload : List Byte
  /-- sequenced (R423). -/
  seqd : Bool
  /-- SEQ once sent (R416). -/
  seq : Nat
  /-- transmissions so far (R417). -/
  tries : Nat
  /-- tick of its latest transmission (R417). -/
  sentAt : Nat
  /-- the final RES of a request (R64). -/
  last : Bool
  /-- its REQ_TAG (R64). -/
  tag : Word
  /-- SEQ of the meter record it carries (R486). -/
  record : Option Nat
  /-- its number in the order of queueing (R420). -/
  no : Nat
  /-- to be sent again (R417). -/
  again : Bool
  /-- expiries of its timeout told to the host since its latest transmission (R418). -/
  told : Nat
  /-- INCARN as sent (R410). -/
  incarn : Nat
  /-- TXC as sent (R410). -/
  txc : Nat
  /-- ACK as sent (R410). -/
  ack : Nat
  /-- NAK as sent (R410). -/
  nak : Bool
  /-- ACKV as sent (R410). -/
  ackv : Bool
  /-- address and context of the host that a refusing OPEN_ACK answers (R428). -/
  replyTo : Option (Nat × Nat)
  deriving DecidableEq, Repr

/-- Its value at reset. -/
def TxMsg.init : TxMsg where
  type := 0
  part := 0
  ctx := 0
  payload := []
  seqd := false
  seq := 0
  tries := 0
  sentAt := 0
  last := false
  tag := 0
  record := none
  no := 0
  again := false
  told := 0
  incarn := 0
  txc := 0
  ack := 0
  nak := false
  ackv := false
  replyTo := none

/-- A remote memory access under way (R427). -/
structure RemoteOp where
  /-- number within the context (R427). -/
  op : Nat
  /-- TAG (R427). -/
  tag : Nat
  /-- MREAD, or MWRITE (R427). -/
  isRead : Bool
  /-- its line accesses by index, with the data of those done (R427). -/
  parts : List (Nat × Option (List Byte))
  /-- first status met (R427). -/
  status : Byte
  /-- partition whose memory it reaches (R427). -/
  part : Nat
  /-- ADDR (R427). -/
  addr : Nat
  /-- bytes (R427). -/
  len : Nat
  /-- bytes to write (R427). -/
  data : List Byte
  /-- its line accesses wait at their channels (R427). -/
  issued : Bool
  deriving DecidableEq, Repr

/-- Its value at reset. -/
def RemoteOp.init : RemoteOp where
  op := 0
  tag := 0
  isRead := false
  parts := []
  status := 0
  part := 0
  addr := 0
  len := 0
  data := []
  issued := false

/-- A Nopra context beyond its registers (R413 to R418, R428, R455). -/
structure Ctx where
  /-- bound credential (R455). -/
  cred : Cred
  /-- keys are installed (R458). -/
  keyed : Bool
  /-- largest incarnation used with the current keys (R414). -/
  incarnMax : Nat
  /-- incarnation of the present OPEN (R414). -/
  peerIncarn : Nat
  /-- encapsulation key of the OPEN (R428). -/
  ek : List Byte
  /-- latest CHALLENGE not used by a BIND (R455). -/
  challenge : Option (List Byte)
  /-- digest of the key bound (R455). -/
  tkey : List Byte
  /-- transmit key, 32 bytes, none without keys (R411, R428, R458). -/
  txKey : List Byte
  /-- receive key (R411, R428, R458). -/
  rxKey : List Byte
  /-- TXC (R410). -/
  txc : Nat
  /-- messages waiting for a transmit opportunity (R416). -/
  txq : List TxMsg
  /-- sent and not acknowledged, oldest first (R416). -/
  unacked : List TxMsg
  /-- holds unacknowledged arrivals: number in the order of queueing of the acknowledgement (R416). -/
  ackDue : Option Nat
  /-- a NAK is to be sent (R416). -/
  nakDue : Bool
  /-- expected value a NAK was sent for (R416). -/
  nakFor : Option Nat
  /-- items ready for packing, oldest first, with their numbers in the order of queueing (R424). -/
  items : List (Nat × RemoteItem)
  /-- latest CAPS received (R435). -/
  caps : Option (List Byte)
  /-- device time of the latest accepted message (R428). -/
  lastRx : Nat
  /-- tick at which OPENING began (R414). -/
  openedAt : Nat
  /-- port before a failover (R436). -/
  homePort : Option Nat
  /-- PORT that takes effect at the next frame boundary (R413). -/
  newPort : Option Nat
  /-- messages that waited for a limit (R416). -/
  waited : Nat
  /-- numbers of those that wait and are counted (R416). -/
  waits : List Nat
  /-- remote memory accesses under way (R427). -/
  ops : List RemoteOp
  /-- number of the next one (R427). -/
  nextOp : Nat
  deriving DecidableEq, Repr

/-- Its value at reset. -/
def Ctx.init : Ctx where
  cred := .none
  keyed := false
  incarnMax := 0
  peerIncarn := 0
  ek := []
  challenge := none
  tkey := []
  txKey := []
  rxKey := []
  txc := 0
  txq := []
  unacked := []
  ackDue := none
  nakDue := false
  nakFor := none
  items := []
  caps := none
  lastRx := 0
  openedAt := 0
  homePort := none
  newPort := none
  waited := 0
  waits := []
  ops := []
  nextOp := 0

/-- A MACsec secure association (R405, R458). -/
structure Sa where
  /-- AN (R458). -/
  an : Nat
  /-- direction (R458). -/
  rx : Bool
  /-- SAK, 32 bytes (R405, R458). -/
  sak : List Byte
  /-- salt, 12 bytes (R405, R458). -/
  salt : List Byte
  /-- SSCI (R405, R458). -/
  ssci : Nat
  /-- packet number of the next frame to send, or the lowest that a received frame may have (R405). -/
  next : Nat
  deriving DecidableEq, Repr

/-- Its value at reset. -/
def Sa.init : Sa where
  an := 0
  rx := false
  sak := []
  salt := []
  ssci := 0
  next := 1

/-- An Ethernet port beyond its registers (R401 to R408). -/
structure Port where
  /-- associations installed (R405). -/
  sas : List Sa
  /-- chassis ID of the latest LLDPDU (R407). -/
  chassis : List Byte
  /-- its port ID (R407). -/
  portId : List Byte
  /-- device time at which it came (R407). -/
  lldpAt : Option Nat
  /-- its TTL, seconds (R407). -/
  lldpTtl : Nat
  /-- tick at which training began (R404). -/
  trainAt : Nat
  /-- tick at which measuring began (R404). -/
  measureAt : Nat
  /-- messages for open time without a context (PTP frames, LLDPDUs) (R420). -/
  openq : List TxMsg
  /-- message sent last (R420). -/
  last : Option TxMsg
  /-- bytes of the frame sent last, from its destination address, under MACsec where the port has an association to send under (R10, R405, R410). -/
  wire : List Byte
  /-- device time of the latest LLDPDU sent (R407). -/
  lldpSent : Nat
  /-- uncorrectable FEC codewords in this second (R404). -/
  fecSecond : Nat
  /-- tick at which the message sent last ends (R421). -/
  busyUntil : Nat
  /-- left UP, and its contexts have not moved yet (R436). -/
  lost : Bool
  deriving DecidableEq, Repr

/-- Its value at reset. -/
def Port.init : Port where
  sas := []
  chassis := []
  portId := []
  lldpAt := none
  lldpTtl := 0
  trainAt := 0
  measureAt := 0
  openq := []
  last := none
  wire := []
  lldpSent := 0
  fecSecond := 0
  busyUntil := 0
  lost := false

/-- A record that waits for delivery (R434). -/
structure PushRec where
  /-- KIND (R423). -/
  kind : Nat
  /-- the record (R434). -/
  bytes : List Byte
  deriving DecidableEq, Repr

/-- Its value at reset. -/
def PushRec.init : PushRec where
  kind := 0
  bytes := []

/-- Nopra beyond contexts and ports (R419, R430 to R434). -/
structure NopUnit where
  /-- records not yet delivered, oldest first (R434). -/
  pushq : List PushRec
  /-- next number in the order of queueing (R420). -/
  nextNo : Nat
  /-- SEQ of the next meter record to deliver (R486). -/
  meterNext : Nat
  /-- meter records in delivery: sent and not yet acknowledged (R486). -/
  meterSent : List Nat
  /-- RES payload bytes sent on port H, by partition (R481). -/
  resBytes : List (Nat × Nat)
  /-- PULLs that wait for the DMC: context, KIND, MAX (R547). -/
  pulls : List (Nat × Nat × Nat)
  deriving DecidableEq, Repr

/-- Its value at reset. -/
def NopUnit.init : NopUnit where
  pushq := []
  nextNo := 1
  meterNext := 0
  meterSent := []
  resBytes := []
  pulls := []

/-- A security call that waits (R453). -/
structure Waiting where
  /-- context (R453). -/
  ctx : Nat
  /-- TAG (R453). -/
  tag : Nat
  /-- the call (R454). -/
  op : SecOp
  deriving DecidableEq, Repr

/-- Its value at reset. -/
def Waiting.init : Waiting where
  ctx := 0
  tag := 0
  op := .challenge

/-- The security engine (R449 to R469). -/
structure Sec where
  /-- calls waiting (R453). -/
  calls : List Waiting
  /-- SEC is restarting (R498). -/
  restarting : Bool
  /-- boot image bytes received (R465). -/
  bootImg : List Byte
  /-- context that streams it (R468). -/
  bootCtx : Option Nat
  /-- tick of the latest boot image byte (R466). -/
  bootLast : Nat
  /-- the whole image has been read (R465). -/
  bootDone : Bool
  /-- digest the alias key is derived from (R451). -/
  aliasDigest : List Byte
  /-- SVN the alias key is derived from (R451). -/
  aliasSvn : Nat
  /-- DMC firmware frame (R459). -/
  dmcFrame : List Byte
  /-- tile boot code frame (R459). -/
  tileFrame : List Byte
  /-- power defaults frame (R539). -/
  powerFrame : List Byte
  /-- nonces and key pairs drawn (R454). -/
  nonces : Nat
  deriving DecidableEq, Repr

/-- Its value at reset. -/
def Sec.init : Sec where
  calls := []
  restarting := false
  bootImg := []
  bootCtx := none
  bootLast := 0
  bootDone := false
  aliasDigest := []
  aliasSvn := 0
  dmcFrame := []
  tileFrame := []
  powerFrame := []
  nonces := 0

/-- Fuses and boot flash: they outlive every reset (R449, R456, R461, R467, R473, R505, R520). -/
structure Fuses where
  /-- LOT of each die, 8 bytes (R449). -/
  lots : List (List Byte)
  /-- WAFER, DIE_X, DIE_Y of each die (R449). -/
  pos : List (Nat × Nat × Nat)
  /-- SERIAL, 12 bytes (R449). -/
  serial : List Byte
  /-- UDS, 32 bytes (R451). -/
  uds : List Byte
  /-- TILE_ID.STEPPING (R121). -/
  stepping : Nat
  /-- 0 PX256-M48, 1 PX256-M36 (R575). -/
  build : Nat
  /-- anti-rollback counter, bits blown (R467). -/
  svn : Nat
  /-- owner credential digests programmed, oldest first (R456). -/
  owners : List (List Byte)
  /-- owner image key digests programmed (R456). -/
  imgKeys : List (List Byte)
  /-- meter INTERVAL, seconds (R479). -/
  interval : Nat
  /-- METER_VERSION (R473). -/
  meterVersion : Nat
  /-- activity weights, femtojoules (R482). -/
  weights : List Nat
  /-- physical tiles retired (R505). -/
  retired : List Nat
  /-- spare used: physical spare, faulty physical tile (R505). -/
  spares : List (Nat × Nat)
  /-- lane groups of die crossings whose spare lane is in use (R505, R512). -/
  laneSpares : List Nat
  /-- HBM lanes repaired: stack, count (R398, R505). -/
  hbmLanes : List (Nat × Nat)
  /-- DDR5 channels that have been in use (R513). -/
  ddrSeen : List Nat
  /-- array repairs by physical tile: rows, columns (R151). -/
  mxRepairs : List (Nat × List Nat × List Nat)
  /-- scratchpad line repairs by physical tile (R505). -/
  lineSpares : List (Nat × List (Nat × Nat))
  /-- boot flash bytes (unlisted 0xFF erased reads 0) (R461). -/
  flash : List Host.Cell
  /-- bytes of the flash by SFDP, 0 for no SFDP (R461). -/
  flashSize : Nat
  deriving DecidableEq, Repr

/-- Its value at reset. -/
def Fuses.init : Fuses where
  lots := (List.replicate 6 (List.replicate 8 0x41))
  pos := (List.replicate 6 (1, 0, 0))
  serial := (List.replicate 12 0x41)
  uds := (zeros 32)
  stepping := 0
  build := 0
  svn := 0
  owners := []
  imgKeys := []
  interval := 60
  meterVersion := 1
  weights := (List.replicate 12 1)
  retired := []
  spares := []
  laneSpares := []
  hbmLanes := []
  ddrSeen := []
  mxRepairs := []
  lineSpares := []
  flash := []
  flashSize := 67174400

/-- A tile shift (R507). -/
structure Shift where
  /-- logical tile (R507). -/
  target : Nat
  /-- for a fenced tile (R507). -/
  fenced : Bool
  /-- QUIET set HOLD (R507). -/
  setHold : Bool
  /-- tick at which the present state began (R507). -/
  since : Nat
  /-- tick at which OUTSTANDING was 0 (R507). -/
  zeroAt : Option Nat
  /-- tick at which the shift began (R507). -/
  began : Nat
  /-- it was DEFERRED (R507). -/
  deferred : Bool
  /-- region state when COPY began (R507). -/
  copyFrom : Nat
  /-- partition that last kept it DEFERRED (R502, R507). -/
  blocking : Nat
  deriving DecidableEq, Repr

/-- Its value at reset. -/
def Shift.init : Shift where
  target := 0
  fenced := false
  setHold := false
  since := 0
  zeroAt := none
  began := 0
  deferred := false
  copyFrom := 0
  blocking := 0

/-- Sparing beyond its registers (R506 to R516). -/
structure SpareUnit where
  /-- the shift under way or deferred (R507). -/
  shift : Option Shift
  /-- actions waiting: KIND, target, line (R507). -/
  needs : List (Nat × Nat × Nat)
  /-- physical position of each shifted logical tile (R307). -/
  phys : List (Nat × Nat)
  /-- spare lanes used of each 16-lane group: crossing * 128 + direction * 64 + group (R506). -/
  lanesUsed : List (Nat × Nat)
  /-- lanes of die crossings whose repair waits: (crossing * 2 + direction) * 1,024 + lane (R512). -/
  laneWait : List Nat
  /-- replays this second of each lane of a die crossing (R506). -/
  laneReplays : List (Nat × Nat)
  /-- array faults not yet mapped out: tile, is a row, index (R511). -/
  arrayFaults : List (Nat × Bool × Nat)
  /-- sparing actions that the meter takes a snapshot for (R480). -/
  switches : Nat
  /-- channels that failed since power-up: router * 8 + direction (R513). -/
  failedChans : List Nat
  /-- fences ordered by the owner for the next cycle (R500). -/
  fenceNext : List Nat
  deriving DecidableEq, Repr

/-- Its value at reset. -/
def SpareUnit.init : SpareUnit where
  shift := none
  needs := []
  phys := []
  lanesUsed := []
  laneWait := []
  laneReplays := []
  arrayFaults := []
  switches := 0
  failedChans := []
  fenceNext := []

/-- A scrub walker (R491, R494). -/
structure Walker where
  /-- logical tile being scrubbed (R494). -/
  pos : Nat
  /-- INTERVAL in use, in its three voted flops (R493, R494). -/
  flops : Nat × Nat × Nat
  /-- tick of its latest heartbeat (R494). -/
  beatAt : Nat
  /-- resets within the present second (R494). -/
  resetsSecond : Nat
  /-- position advanced since the last check (R494). -/
  moved : Bool
  deriving DecidableEq, Repr

/-- Its value at reset. -/
def Walker.init : Walker where
  pos := 0
  flops := (64, 64, 64)
  beatAt := 0
  resetsSecond := 0
  moved := false

/-- Walkers and host-named scrubbing (R491 to R496). -/
structure ScrubUnit where
  /-- two walkers for each die (R491). -/
  walkers : List (Nat × Walker)
  /-- host command under way: tier, tile, next, left (R496). -/
  cmd : Option (Nat × Nat × Nat × Nat)
  deriving DecidableEq, Repr

/-- Its value at reset. -/
def ScrubUnit.init : ScrubUnit where
  walkers := []
  cmd := none

/-- Power and thermal control beyond its registers (R535 to R543). -/
structure PowerUnit where
  /-- latest 100 ms average of package power, mW (R537). -/
  avg : Nat
  /-- sums over the rails of VOUT × IOUT in the last 100 ms: tick, mW (R537). -/
  samples : List (Nat × Nat)
  /-- tick since which the conditions of a CAP rise hold (R537). -/
  coolSince : Option Nat
  /-- tick of entry to the thermal state or of its last WARN step (R541). -/
  stateSince : Nat
  /-- consecutive readings at or above WARN, HOLD and CRITICAL, by sensor (R540). -/
  hot : List (Nat × Nat × Nat × Nat)
  /-- consecutive readings at 105 or more, by sensor (R542). -/
  trip : List (Nat × Nat)
  /-- consecutive samples with every sensor 3 below the threshold of the present state (R540). -/
  below : Nat
  /-- latest reading by sensor: physical tiles by identifier, stacks from 512, I/O dies from 524 (R540). -/
  temps : List (Nat × Nat)
  /-- latest margin by physical tile, ps (R514). -/
  margins : List (Nat × Nat)
  /-- positions with an AGEING record (R514). -/
  aged : List Nat
  /-- tick of the latest AVS change (R538). -/
  avsAt : Nat
  /-- latest reading of each rail (R539). -/
  rails : List (Nat × RailRx)
  /-- tick of the latest answer of each rail (R539). -/
  railAt : List (Nat × Nat)
  /-- mode CAP had at its last power-limit step (R549). -/
  capStep : Nat
  /-- matrix issue duty taken up at the last frame boundary, sixteenths (R126) -/
  frameDuty : Nat
  /-- tick of the latest telemetry composition (R545). -/
  telemAt : Nat
  /-- rails whose silence a record has told (R539). -/
  railTold : List Nat
  /-- tick at which the FAULT_N pulse ends (R517). -/
  faultUntil : Nat
  /-- records of severity 3 or 4 since reset (R544). -/
  sev34 : Nat
  deriving DecidableEq, Repr

/-- Its value at reset. -/
def PowerUnit.init : PowerUnit where
  avg := 0
  samples := []
  coolSince := none
  stateSince := 0
  hot := []
  trip := []
  below := 0
  temps := []
  margins := []
  aged := []
  avsAt := 0
  rails := []
  railAt := []
  capStep := 0
  frameDuty := 16
  telemAt := 0
  railTold := []
  faultUntil := 0
  sev34 := 0

/-- Survey results (R529 to R534). -/
structure SurveyUnit where
  /-- latest base record (R532). -/
  inv : List Byte
  /-- its partner records (R533). -/
  partners : List (List Byte)
  /-- the survey under way is the start-up survey (R532). -/
  startup : Bool
  /-- surveys since reset (R532). -/
  count : Nat
  /-- tick at which it began (R530). -/
  since : Nat
  /-- the second survey has run (R528). -/
  second : Bool
  /-- sense points: mean, minimum, maximum (R529). -/
  supplies : List (Nat × Nat × Nat)
  /-- tick at which the survey sampled them (R529, R552). -/
  sensedAt : Nat
  /-- an SPD read is under way (R531). -/
  spdBusy : Bool
  deriving DecidableEq, Repr

/-- Its value at reset. -/
def SurveyUnit.init : SurveyUnit where
  inv := []
  partners := []
  startup := false
  count := 0
  since := 0
  second := false
  supplies := []
  sensedAt := 0
  spdBusy := false

/-- The telemetry target (R546). -/
structure I3c where
  /-- static address (R526). -/
  static : Nat
  /-- dynamic address (R546). -/
  dyn : Option Nat
  /-- in-band interrupts enabled (R546). -/
  ibiOn : Bool
  /-- in-band interrupts raised, newest first (R546). -/
  ibis : List Byte
  /-- read index, 16 bits (R546). -/
  index : Nat
  /-- bytes returned by the latest read or common command (R546). -/
  out : List Byte
  /-- latest composition of set 1 (R544). -/
  set1 : List Byte
  /-- latest composition of set 2 (R544). -/
  set2 : List Byte
  /-- compositions since reset (R544). -/
  seq1 : Nat
  deriving DecidableEq, Repr

/-- Its value at reset. -/
def I3c.init : I3c where
  static := 0x50
  dyn := none
  ibiOn := false
  ibis := []
  index := 0
  out := []
  set1 := []
  set2 := []
  seq1 := 0

/-- The TAP (R571). -/
structure Jtag where
  /-- instruction register (R571). -/
  ir : BitVec 4
  /-- boundary-scan chain (R571). -/
  chain : List Bool
  /-- levels of the lands as the latest SAMPLE captured them, in the order of the chain (R571). -/
  sample : List Bool
  /-- IDCODE (R571). -/
  idcode : BitVec 32
  /-- the chain drives the lands (R571). -/
  driving : Bool
  deriving DecidableEq, Repr

/-- Its value at reset. -/
def Jtag.init : Jtag where
  ir := 0xF
  chain := []
  sample := []
  idcode := 0x02560C3D
  driving := false

/-- Lands the device reads or drives (R562). -/
structure Pins where
  /-- RESET_N (R522). -/
  resetN : Bool
  /-- PWR_GOOD (R522). -/
  pwrGood : Bool
  /-- STRAP[3:0] (R526). -/
  straps : BitVec 4
  /-- FAULT_N level (R517). -/
  faultN : Bool
  /-- THERMTRIP_N level (R542). -/
  thermtripN : Bool
  deriving DecidableEq, Repr

/-- Its value at reset. -/
def Pins.init : Pins where
  resetN := true
  pwrGood := true
  straps := 0
  faultN := true
  thermtripN := true

/-- The completion of the latest access that a command made directly (R22, R23). -/
structure Bus where
  /-- status (R422). -/
  status : Byte
  /-- value read (R12). -/
  value : Word
  deriving DecidableEq, Repr

/-- Its value at reset. -/
def Bus.init : Bus where
  status := 0
  value := 0

/-- The device but for its meter. -/
structure Dev where
  /-- held in device reset (R524). -/
  inReset : Bool
  /-- every clock stopped (R542). -/
  stopped : Bool
  /-- array cycles since the end of reset (R102). -/
  tick : Nat
  /-- the model's own counter of free values (log 1). -/
  free : Nat
  /-- device time, second * 1,050,000,000 + cycle (R43). -/
  now : Nat
  /-- fields of the registers of control space that were written since reset, by address * 64 + lowest bit (Regs.lean); a field not listed has its reset value (R11). -/
  regs : List (Nat × Nat)
  /-- the model's own: completion of the latest direct access (R12). -/
  bus : Bus
  /-- time discipline (R48). -/
  time : TimeUnit
  /-- admitted requests, oldest first (R64). -/
  reqs : List Request
  /-- host schedule entries claimed (true) or refused (false), by partition * 256 + entry (R74). -/
  sched : List (Nat × Bool)
  /-- ADM_MISS_LOG, 64 records (R79). -/
  missLog : List (Nat × List Byte)
  /-- FLT_LOG, 256 records (R503). -/
  fltLog : List (Nat × List Byte)
  /-- 256 logical tiles (R2). -/
  tiles : List (Nat × Tile)
  /-- routers by physical identifier (R17) of their position (R304). -/
  routers : List (Nat × Router)
  /-- multicast trees, 4,096 (R323). -/
  trees : List (Nat × Tree)
  /-- regions by partition (R348). -/
  regions : List (Nat × Region)
  /-- partitions; 0 holds the device's own key pair (R440). -/
  parts : List (Nat × Part)
  /-- HBM and DDR5 (R368). -/
  mem : MemUnit
  /-- 18 ports (R401). -/
  ports : List (Nat × Port)
  /-- 4,096 contexts (R413). -/
  ctxs : List (Nat × Ctx)
  /-- Nopra (R434). -/
  nop : NopUnit
  /-- security engine (R453). -/
  sec : Sec
  /-- fuses and flash (R520). -/
  fuses : Fuses
  /-- sparing (R507). -/
  spare : SpareUnit
  /-- scrubbing (R491). -/
  scrub : ScrubUnit
  /-- power (R536). -/
  power : PowerUnit
  /-- survey (R529). -/
  survey : SurveyUnit
  /-- telemetry target (R546). -/
  i3c : I3c
  /-- TAP (R571). -/
  jtag : Jtag
  /-- lands (R562). -/
  pins : Pins
  /-- DMC_DUTY_MAP.BOOT_FETCH as it stood when RESET_N fell with the rails up (R465). -/
  bootFetch : Option Bool
  /-- device times of the DMC restarts within 60 s (R548). -/
  dmcTimes : List Nat
  /-- duty-map changes not yet in effect: field, new mode (R32). -/
  dmcPend : List (Nat × Bool)
  deriving DecidableEq, Repr

/-- Its value at reset. -/
def Dev.init : Dev where
  inReset := false
  stopped := false
  tick := 0
  free := 0
  now := 0
  regs := []
  bus := Bus.init
  time := TimeUnit.init
  reqs := []
  sched := []
  missLog := []
  fltLog := []
  tiles := []
  routers := []
  trees := []
  regions := []
  parts := []
  mem := MemUnit.init
  ports := []
  ctxs := []
  nop := NopUnit.init
  sec := Sec.init
  fuses := Fuses.init
  spare := SpareUnit.init
  scrub := ScrubUnit.init
  power := PowerUnit.init
  survey := SurveyUnit.init
  i3c := I3c.init
  jtag := Jtag.init
  pins := Pins.init
  bootFetch := none
  dmcTimes := []
  dmcPend := []

/-- The work counts of one line (R481). -/
structure Counts where
  /-- MACS 0 to 4 (R481). -/
  macs : List Nat
  /-- LANEOPS (R481). -/
  laneops : Nat
  /-- MEM 0 to 2 (R481). -/
  mem : List Nat
  /-- RES_BYTES (R481). -/
  res : Nat
  /-- tile-ticks (R480). -/
  ticks : Nat
  deriving DecidableEq, Repr

/-- Its value at reset. -/
def Counts.init : Counts where
  macs := [0, 0, 0, 0, 0]
  laneops := 0
  mem := [0, 0, 0]
  res := 0
  ticks := 0

/-- A line of a meter record (R483). -/
structure MLine where
  /-- PART (R483). -/
  part : Nat
  /-- PSTATE (R483). -/
  pstate : Nat
  /-- TILES (R483). -/
  tiles : Nat
  /-- PINST (R483). -/
  pinst : Nat
  /-- APPORTIONED_MJ (R482). -/
  app : Nat
  /-- work counts (R481). -/
  counts : Counts
  deriving DecidableEq, Repr

/-- Its value at reset. -/
def MLine.init : MLine where
  part := 0
  pstate := 0
  tiles := 0
  pinst := 0
  app := 0
  counts := Counts.init

/-- A meter record (R483). -/
structure MRec where
  /-- FLAGS (R483). -/
  flags : Nat
  /-- CHAIN_ID (R483). -/
  chain : List Byte
  /-- SEQ (R483). -/
  seq : Nat
  /-- METER_VERSION (R483). -/
  version : Nat
  /-- INTERVAL (R483). -/
  interval : Nat
  /-- START (R483). -/
  start : Nat
  /-- END (R483). -/
  end_ : Nat
  /-- PREV (R483). -/
  prev : List Byte
  /-- TOTAL_MJ (R483). -/
  total : Nat
  /-- CUM_MJ (R483). -/
  cum : Nat
  /-- RAIL_MJ (R483). -/
  rails : List Nat
  /-- LINES (R483). -/
  lines : List MLine
  deriving DecidableEq, Repr

/-- Its value at reset. -/
def MRec.init : MRec where
  flags := 0
  chain := []
  seq := 0
  version := 0
  interval := 0
  start := 0
  end_ := 0
  prev := []
  total := 0
  cum := 0
  rails := []
  lines := []

/-- The meter (R473 to R488). -/
structure Meter where
  /-- VDD_MTR is up and the meter runs (R474). -/
  powered : Bool
  /-- ROM digest passed (R476). -/
  romOk : Bool
  /-- calibration fuses passed (R476). -/
  calOk : Bool
  /-- strips that failed (R476). -/
  strips : BitVec 10
  /-- CHAIN_ID, 32 bytes (R484). -/
  chain : List Byte
  /-- samples since the meter's reset (1 us each) (R477). -/
  samples : Nat
  /-- SEQ of the next record (R484). -/
  nextSeq : Nat
  /-- the last 256 records by slot (R484). -/
  records : List (Nat × MRec)
  /-- CUM_MJ of the chain (R483). -/
  cum : Nat
  /-- START of the open record, ticks (R483). -/
  start : Nat
  /-- energy of each rail since the last record close, microjoules (R477). -/
  acc : List Nat
  /-- part below one microjoule of each rail, picojoules (R477). -/
  frac : List Nat
  /-- energy of each rail since the meter's reset, microjoules (R488). -/
  total : List Nat
  /-- energy of each rail in the present meter second, microjoules (R488). -/
  second : List Nat
  /-- mean power of each rail over the last meter second, mW (R488). -/
  power : List Nat
  /-- counters at the last snapshot, by activity key (R480). -/
  snap : List (Nat × Nat)
  /-- activity charged to each line of the open record (R480). -/
  counts : List Counts
  /-- ticks up to which tile-ticks were charged (R480). -/
  tickMark : Nat
  /-- PINST of each partition (R483). -/
  pinst : List Nat
  /-- RESET_N asserted within the open record (R475). -/
  devReset : Bool
  /-- no record of the chain has closed (R483). -/
  first : Bool
  /-- the latest record carries RANGE (R488). -/
  range : Bool
  /-- tick of the device in which the latest record closed, so that points of one cycle close one record (R479) -/
  closedAt : Option Nat
  deriving DecidableEq, Repr

/-- Its value at reset. -/
def Meter.init : Meter where
  powered := true
  romOk := true
  calOk := true
  strips := 0
  chain := []
  samples := 0
  nextSeq := 0
  records := []
  cum := 0
  start := 0
  acc := (List.replicate 10 0)
  frac := (List.replicate 10 0)
  total := (List.replicate 10 0)
  second := (List.replicate 10 0)
  power := (List.replicate 10 0)
  snap := []
  counts := (List.replicate 16 Counts.init)
  tickMark := 0
  pinst := (List.replicate 16 0)
  devReset := false
  first := true
  range := false
  closedAt := none
/-- The machine: the device, its meter (which keeps its own supply and clock, R474), and the commands that wait,
first in, first out. -/
structure State where
  /-- the device but for its meter -/
  dev : Dev
  /-- the meter -/
  mtr : Meter
  /-- commands waiting, oldest first -/
  pending : List Instr
  deriving DecidableEq, Repr

/-- Faults of the model. The spec gives every command an effect, so no command ends in one and there is none. -/
inductive Fault
  deriving DecidableEq, Repr

/-- Refusals of the model. -/
inductive Refusal where
  /-- raised by the dispatcher for a command that has no meaning in the model yet; safe: nothing is claimed of it -/
  | notModelled (mnemonic : String)
  deriving DecidableEq, Repr

/-- The machine right after RESET_N was released: no tile boot code, owner or partition is in force, and the stage
of the ROM is the first of start-up (R520, R522, R524). No program is in it: programs come over Nopra as a boot
image and region images (log 4). -/
def State.reset : State := ⟨Dev.init, Meter.init, []⟩

end Sys2Proof.Machine
end

