-- ==== Sys2Proof/Machine/Regs.lean ====
section
/-! DEFINITION. The registers of control space: where each stands, its fields, their access codes and reset values
(R11, R12, R24, and the register tables of the chapters). A field is named by its address and bits; `RF` also carries
its reset value, which the register map of `Dev` reads as where nothing is listed. -/

namespace Sys2Proof.Machine

/-- Access codes (R12). -/
inductive Acc where
  | ro | rw | w1c | w1s | wo | rc | rwl
  deriving DecidableEq, Repr

/-- A register field: the address of its register, its bits [hi:lo] and its reset value. -/
structure RF where
  addr : Nat
  hi : Nat
  lo : Nat
  rst : Nat
  deriving DecidableEq, Repr

/-- A field of a register table: bits, access code and reset value. -/
structure Fld where
  hi : Nat
  lo : Nat
  acc : Acc
  rst : Nat
  deriving DecidableEq, Repr

/-- One index of a register's address: lowest and highest value and the stride. -/
structure Dim where
  lo : Nat
  hi : Nat
  stride : Nat
  deriving DecidableEq, Repr

/-- Whose register it is (R14, R23, R576): the device's, partition p's (first index p), a context's (first index),
a tile's (first index) or the meter's (R488). -/
inductive Own where
  | dev | part | ctx | tile | mtr
  deriving DecidableEq, Repr

/-- A register table: base address, indices, owner, whether any host may read it without a credential (R3), and its
fields, reserved ones left out. -/
structure RegSpec where
  base : Nat
  dims : List Dim
  own : Own
  free : Bool
  fields : List Fld
  deriving DecidableEq, Repr

/-- The field's bits in its register. -/
def RF.width (f : RF) : Nat := f.hi + 1 - f.lo
/-- Its key in the register map: the register's address and the field's lowest bit. -/
def RF.key (f : RF) : Nat := f.addr * 64 + f.lo

/-- DMC_DUTY_MAP (R31). -/
def DMC_DUTY_MAP : Nat := 0xFF0000000040
/-- DMC_DUTY_MAP.METER_DELIVERY [11:11]. -/
def DMC_DUTY_MAP_METER_DELIVERY : RF := ⟨DMC_DUTY_MAP, 11, 11, 0⟩
/-- DMC_DUTY_MAP.TELEMETRY [10:10]. -/
def DMC_DUTY_MAP_TELEMETRY : RF := ⟨DMC_DUTY_MAP, 10, 10, 0⟩
/-- DMC_DUTY_MAP.SURVEY [9:9]. -/
def DMC_DUTY_MAP_SURVEY : RF := ⟨DMC_DUTY_MAP, 9, 9, 0⟩
/-- DMC_DUTY_MAP.TIME_DISCIPLINE [8:8]. -/
def DMC_DUTY_MAP_TIME_DISCIPLINE : RF := ⟨DMC_DUTY_MAP, 8, 8, 0⟩
/-- DMC_DUTY_MAP.KEY_SWEEP [7:7]. -/
def DMC_DUTY_MAP_KEY_SWEEP : RF := ⟨DMC_DUTY_MAP, 7, 7, 0⟩
/-- DMC_DUTY_MAP.NOPRA_RECOVERY [6:6]. -/
def DMC_DUTY_MAP_NOPRA_RECOVERY : RF := ⟨DMC_DUTY_MAP, 6, 6, 0⟩
/-- DMC_DUTY_MAP.MEM_TRAINING [5:5]. -/
def DMC_DUTY_MAP_MEM_TRAINING : RF := ⟨DMC_DUTY_MAP, 5, 5, 0⟩
/-- DMC_DUTY_MAP.SPARING [4:4]. -/
def DMC_DUTY_MAP_SPARING : RF := ⟨DMC_DUTY_MAP, 4, 4, 0⟩
/-- DMC_DUTY_MAP.SCRUB [3:3]. -/
def DMC_DUTY_MAP_SCRUB : RF := ⟨DMC_DUTY_MAP, 3, 3, 0⟩
/-- DMC_DUTY_MAP.TILING_WALK [2:2]. -/
def DMC_DUTY_MAP_TILING_WALK : RF := ⟨DMC_DUTY_MAP, 2, 2, 0⟩
/-- DMC_DUTY_MAP.ADMISSION [1:1]. -/
def DMC_DUTY_MAP_ADMISSION : RF := ⟨DMC_DUTY_MAP, 1, 1, 0⟩
/-- DMC_DUTY_MAP.BOOT_FETCH [0:0]. -/
def DMC_DUTY_MAP_BOOT_FETCH : RF := ⟨DMC_DUTY_MAP, 0, 0, 0⟩
/-- DMC_DUTY_STATE (R34). -/
def DMC_DUTY_STATE : Nat := 0xFF0000000048
/-- DMC_DUTY_STATE.REASON [51:48]. -/
def DMC_DUTY_STATE_REASON : RF := ⟨DMC_DUTY_STATE, 51, 48, 0⟩
/-- DMC_DUTY_STATE.REFUSED [43:32]. -/
def DMC_DUTY_STATE_REFUSED : RF := ⟨DMC_DUTY_STATE, 43, 32, 0⟩
/-- DMC_DUTY_STATE.PENDING [27:16]. -/
def DMC_DUTY_STATE_PENDING : RF := ⟨DMC_DUTY_STATE, 27, 16, 0⟩
/-- DMC_DUTY_STATE.EFFECTIVE [11:0]. -/
def DMC_DUTY_STATE_EFFECTIVE : RF := ⟨DMC_DUTY_STATE, 11, 0, 0⟩
/-- TIME_NOW (R78). -/
def TIME_NOW : Nat := 0xFF0100000000
/-- TIME_NOW.SECOND [63:32]. -/
def TIME_NOW_SECOND : RF := ⟨TIME_NOW, 63, 32, 0⟩
/-- TIME_NOW.CYCLE [29:0]. -/
def TIME_NOW_CYCLE : RF := ⟨TIME_NOW, 29, 0, 0⟩
/-- TIME_SET (R78). -/
def TIME_SET : Nat := 0xFF0100000008
/-- TIME_SET.SECOND [63:32]. -/
def TIME_SET_SECOND : RF := ⟨TIME_SET, 63, 32, 0⟩
/-- TIME_SET.SOURCE [2:1]. -/
def TIME_SET_SOURCE : RF := ⟨TIME_SET, 2, 1, 0⟩
/-- TIME_SET.ARM [0:0]. -/
def TIME_SET_ARM : RF := ⟨TIME_SET, 0, 0, 0⟩
/-- TIME_CTRL (R78). -/
def TIME_CTRL : Nat := 0xFF0100000010
/-- TIME_CTRL.HOLD_PPB [47:32]. -/
def TIME_CTRL_HOLD_PPB : RF := ⟨TIME_CTRL, 47, 32, 500⟩
/-- TIME_CTRL.PPS_COMP [31:16]. -/
def TIME_CTRL_PPS_COMP : RF := ⟨TIME_CTRL, 31, 16, 0⟩
/-- TIME_CTRL.PTP_PORT [10:6]. -/
def TIME_CTRL_PTP_PORT : RF := ⟨TIME_CTRL, 10, 6, 0⟩
/-- TIME_CTRL.PPS_OUT_EN [5:5]. -/
def TIME_CTRL_PPS_OUT_EN : RF := ⟨TIME_CTRL, 5, 5, 1⟩
/-- TIME_CTRL.PTP_LOCK [4:4]. -/
def TIME_CTRL_PTP_LOCK : RF := ⟨TIME_CTRL, 4, 4, 0⟩
/-- TIME_STATUS (R78). -/
def TIME_STATUS : Nat := 0xFF0100000018
/-- TIME_STATUS.ERR_BOUND [63:32]. -/
def TIME_STATUS_ERR_BOUND : RF := ⟨TIME_STATUS, 63, 32, 0⟩
/-- TIME_STATUS.LAST_OFFSET [31:16]. -/
def TIME_STATUS_LAST_OFFSET : RF := ⟨TIME_STATUS, 31, 16, 0⟩
/-- TIME_STATUS.QUALITY [11:8]. -/
def TIME_STATUS_QUALITY : RF := ⟨TIME_STATUS, 11, 8, 0⟩
/-- TIME_STATUS.STATE [5:4]. -/
def TIME_STATUS_STATE : RF := ⟨TIME_STATUS, 5, 4, 0⟩
/-- TIME_STATUS.MISSED [1:0]. -/
def TIME_STATUS_MISSED : RF := ⟨TIME_STATUS, 1, 0, 0⟩
/-- TIME_STEER (R78). -/
def TIME_STEER : Nat := 0xFF0100000020
/-- TIME_STEER.STEER [31:0]. -/
def TIME_STEER_STEER : RF := ⟨TIME_STEER, 31, 0, 0⟩
/-- TIME_EVENTS (R78). -/
def TIME_EVENTS : Nat := 0xFF0100000028
/-- TIME_EVENTS.PTP_UNLOCK [8:8]. -/
def TIME_EVENTS_PTP_UNLOCK : RF := ⟨TIME_EVENTS, 8, 8, 0⟩
/-- TIME_EVENTS.EXHAUST_WARN [7:7]. -/
def TIME_EVENTS_EXHAUST_WARN : RF := ⟨TIME_EVENTS, 7, 7, 0⟩
/-- TIME_EVENTS.STEER_CLAMPED [6:6]. -/
def TIME_EVENTS_STEER_CLAMPED : RF := ⟨TIME_EVENTS, 6, 6, 0⟩
/-- TIME_EVENTS.SET_REFUSED [5:5]. -/
def TIME_EVENTS_SET_REFUSED : RF := ⟨TIME_EVENTS, 5, 5, 0⟩
/-- TIME_EVENTS.SET_APPLIED [4:4]. -/
def TIME_EVENTS_SET_APPLIED : RF := ⟨TIME_EVENTS, 4, 4, 0⟩
/-- TIME_EVENTS.LOCK [3:3]. -/
def TIME_EVENTS_LOCK : RF := ⟨TIME_EVENTS, 3, 3, 0⟩
/-- TIME_EVENTS.HOLDOVER [2:2]. -/
def TIME_EVENTS_HOLDOVER : RF := ⟨TIME_EVENTS, 2, 2, 0⟩
/-- TIME_EVENTS.PPS_SPURIOUS [1:1]. -/
def TIME_EVENTS_PPS_SPURIOUS : RF := ⟨TIME_EVENTS, 1, 1, 0⟩
/-- TIME_EVENTS.PPS_MISSED [0:0]. -/
def TIME_EVENTS_PPS_MISSED : RF := ⟨TIME_EVENTS, 0, 0, 0⟩
/-- TIME_HOLD (R78). -/
def TIME_HOLD : Nat := 0xFF0100000030
/-- TIME_HOLD.HOLD_SECONDS [31:0]. -/
def TIME_HOLD_HOLD_SECONDS : RF := ⟨TIME_HOLD, 31, 0, 0⟩
/-- ADM_STATUS (R78). -/
def ADM_STATUS : Nat := 0xFF0200000000
/-- ADM_STATUS.DECISION_MAX [15:0]. -/
def ADM_STATUS_DECISION_MAX : RF := ⟨ADM_STATUS, 15, 0, 0⟩
/-- ADM_MISS_SEQ (R78). -/
def ADM_MISS_SEQ : Nat := 0xFF0200000008
/-- ADM_MISS_SEQ.SEQ [31:0]. -/
def ADM_MISS_SEQ_SEQ : RF := ⟨ADM_MISS_SEQ, 31, 0, 0⟩
/-- ADM_P_CTRL (R80). -/
def ADM_P_CTRL (p : Nat) : Nat := 0xFF0200010000 + p * 0x100
/-- ADM_P_CTRL.GUARD [47:16]. -/
def ADM_P_CTRL_GUARD (p : Nat) : RF := ⟨ADM_P_CTRL p, 47, 16, 0⟩
/-- ADM_P_CTRL.UNCRED [2:2]. -/
def ADM_P_CTRL_UNCRED (p : Nat) : RF := ⟨ADM_P_CTRL p, 2, 2, 0⟩
/-- ADM_P_CTRL.HOLD [1:1]. -/
def ADM_P_CTRL_HOLD (p : Nat) : RF := ⟨ADM_P_CTRL p, 1, 1, 0⟩
/-- ADM_P_CTRL.ENABLE [0:0]. -/
def ADM_P_CTRL_ENABLE (p : Nat) : RF := ⟨ADM_P_CTRL p, 0, 0, 0⟩
/-- ADM_P_STATUS (R80). -/
def ADM_P_STATUS (p : Nat) : Nat := 0xFF0200010008 + p * 0x100
/-- ADM_P_STATUS.OUTSTANDING [63:32]. -/
def ADM_P_STATUS_OUTSTANDING (p : Nat) : RF := ⟨ADM_P_STATUS p, 63, 32, 0⟩
/-- ADM_P_STATUS.HOST_SCHEDULE [7:7]. -/
def ADM_P_STATUS_HOST_SCHEDULE (p : Nat) : RF := ⟨ADM_P_STATUS p, 7, 7, 0⟩
/-- ADM_P_STATUS.LAST_REJECT [3:0]. -/
def ADM_P_STATUS_LAST_REJECT (p : Nat) : RF := ⟨ADM_P_STATUS p, 3, 0, 0⟩
/-- ADM_P_ADMITTED (R80). -/
def ADM_P_ADMITTED (p : Nat) : Nat := 0xFF0200010010 + p * 0x100
/-- ADM_P_ADMITTED.COUNT [31:0]. -/
def ADM_P_ADMITTED_COUNT (p : Nat) : RF := ⟨ADM_P_ADMITTED p, 31, 0, 0⟩
/-- ADM_P_REJECTED (R80). -/
def ADM_P_REJECTED (p : Nat) : Nat := 0xFF0200010018 + p * 0x100
/-- ADM_P_REJECTED.COUNT [31:0]. -/
def ADM_P_REJECTED_COUNT (p : Nat) : RF := ⟨ADM_P_REJECTED p, 31, 0, 0⟩
/-- ADM_P_MISSED (R80). -/
def ADM_P_MISSED (p : Nat) : Nat := 0xFF0200010020 + p * 0x100
/-- ADM_P_MISSED.COUNT [31:0]. -/
def ADM_P_MISSED_COUNT (p : Nat) : RF := ⟨ADM_P_MISSED p, 31, 0, 0⟩
/-- TILE_ID (R121). -/
def TILE_ID (t : Nat) : Nat := 0xFF0600000000 + t * 0x10000
/-- TILE_ID.STRANDS [55:48]. -/
def TILE_ID_STRANDS (t : Nat) : RF := ⟨TILE_ID t, 55, 48, 8⟩
/-- TILE_ID.ARRAY_ROWS [47:40]. -/
def TILE_ID_ARRAY_ROWS (t : Nat) : RF := ⟨TILE_ID t, 47, 40, 128⟩
/-- TILE_ID.ARRAY_COLS [39:32]. -/
def TILE_ID_ARRAY_COLS (t : Nat) : RF := ⟨TILE_ID t, 39, 32, 128⟩
/-- TILE_ID.STEPPING [31:24]. -/
def TILE_ID_STEPPING (t : Nat) : RF := ⟨TILE_ID t, 31, 24, 0⟩
/-- TILE_ID.PARTITION [19:16]. -/
def TILE_ID_PARTITION (t : Nat) : RF := ⟨TILE_ID t, 19, 16, 0⟩
/-- TILE_ID.Y [15:12]. -/
def TILE_ID_Y (t : Nat) : RF := ⟨TILE_ID t, 15, 12, 0⟩
/-- TILE_ID.X [11:8]. -/
def TILE_ID_X (t : Nat) : RF := ⟨TILE_ID t, 11, 8, 0⟩
/-- TILE_ID.TILE [7:0]. -/
def TILE_ID_TILE (t : Nat) : RF := ⟨TILE_ID t, 7, 0, 0⟩
/-- TILE_CORE_CTRL (R121). -/
def TILE_CORE_CTRL (t : Nat) : Nat := 0xFF0600000008 + t * 0x10000
/-- TILE_CORE_CTRL.STEP_STRAND [10:8]. -/
def TILE_CORE_CTRL_STEP_STRAND (t : Nat) : RF := ⟨TILE_CORE_CTRL t, 10, 8, 0⟩
/-- TILE_CORE_CTRL.FAULT_POLICY [2:2]. -/
def TILE_CORE_CTRL_FAULT_POLICY (t : Nat) : RF := ⟨TILE_CORE_CTRL t, 2, 2, 0⟩
/-- TILE_CORE_CTRL.STEP [1:1]. -/
def TILE_CORE_CTRL_STEP (t : Nat) : RF := ⟨TILE_CORE_CTRL t, 1, 1, 0⟩
/-- TILE_CORE_CTRL.HALT_REQ [0:0]. -/
def TILE_CORE_CTRL_HALT_REQ (t : Nat) : RF := ⟨TILE_CORE_CTRL t, 0, 0, 0⟩
/-- TILE_STRAND_STATE (R121). -/
def TILE_STRAND_STATE (t : Nat) : Nat := 0xFF0600000010 + t * 0x10000
/-- TILE_STRAND_STATE.INTRAP [39:32]. -/
def TILE_STRAND_STATE_INTRAP (t : Nat) : RF := ⟨TILE_STRAND_STATE t, 39, 32, 0⟩
/-- TILE_STRAND_STATE.STATE [31:0]. -/
def TILE_STRAND_STATE_STATE (t : Nat) : RF := ⟨TILE_STRAND_STATE t, 31, 0, 0⟩
/-- TILE_FROND_STATE (R121). -/
def TILE_FROND_STATE (t : Nat) : Nat := 0xFF0600000018 + t * 0x10000
/-- TILE_FROND_STATE.STOPPED [23:16]. -/
def TILE_FROND_STATE_STOPPED (t : Nat) : RF := ⟨TILE_FROND_STATE t, 23, 16, 0⟩
/-- TILE_FROND_STATE.LOADED [15:8]. -/
def TILE_FROND_STATE_LOADED (t : Nat) : RF := ⟨TILE_FROND_STATE t, 15, 8, 0⟩
/-- TILE_FROND_STATE.SWITCHING [4:4]. -/
def TILE_FROND_STATE_SWITCHING (t : Nat) : RF := ⟨TILE_FROND_STATE t, 4, 4, 0⟩
/-- TILE_FROND_STATE.ACTIVE [2:0]. -/
def TILE_FROND_STATE_ACTIVE (t : Nat) : RF := ⟨TILE_FROND_STATE t, 2, 0, 0⟩
/-- TILE_ISSUE_COUNT (R121). -/
def TILE_ISSUE_COUNT (t : Nat) : Nat := 0xFF0600000020 + t * 0x10000
/-- TILE_ISSUE_COUNT.COUNT [63:0]. -/
def TILE_ISSUE_COUNT_V (t : Nat) : RF := ⟨TILE_ISSUE_COUNT t, 63, 0, 0⟩
/-- TILE_IDLE_COUNT (R121). -/
def TILE_IDLE_COUNT (t : Nat) : Nat := 0xFF0600000028 + t * 0x10000
/-- TILE_IDLE_COUNT.COUNT [63:0]. -/
def TILE_IDLE_COUNT_V (t : Nat) : RF := ⟨TILE_IDLE_COUNT t, 63, 0, 0⟩
/-- TILE_FROND_CFG (R121). -/
def TILE_FROND_CFG (t f : Nat) : Nat := 0xFF0600000040 + t * 0x10000 + f * 0x8
/-- TILE_FROND_CFG.START_MASK [31:24]. -/
def TILE_FROND_CFG_START_MASK (t f : Nat) : RF := ⟨TILE_FROND_CFG t f, 31, 24, 0⟩
/-- TILE_FROND_CFG.CLASS [19:16]. -/
def TILE_FROND_CFG_CLASS (t f : Nat) : RF := ⟨TILE_FROND_CFG t f, 19, 16, 0⟩
/-- TILE_FROND_CFG.LOADED [15:15]. -/
def TILE_FROND_CFG_LOADED (t f : Nat) : RF := ⟨TILE_FROND_CFG t f, 15, 15, 0⟩
/-- TILE_FROND_CFG.TRAP_VALID [13:13]. -/
def TILE_FROND_CFG_TRAP_VALID (t f : Nat) : RF := ⟨TILE_FROND_CFG t f, 13, 13, 0⟩
/-- TILE_FROND_CFG.TRAP_ENTRY [12:0]. -/
def TILE_FROND_CFG_TRAP_ENTRY (t f : Nat) : RF := ⟨TILE_FROND_CFG t f, 12, 0, 0⟩
/-- TILE_S_STATUS (R121). -/
def TILE_S_STATUS (t n : Nat) : Nat := 0xFF0600000100 + t * 0x10000 + n * 0x40
/-- TILE_S_STATUS.PC [44:32]. -/
def TILE_S_STATUS_PC (t n : Nat) : RF := ⟨TILE_S_STATUS t n, 44, 32, 0⟩
/-- TILE_S_STATUS.LAST_STATUS [31:24]. -/
def TILE_S_STATUS_LAST_STATUS (t n : Nat) : RF := ⟨TILE_S_STATUS t n, 31, 24, 0⟩
/-- TILE_S_STATUS.WAIT [19:16]. -/
def TILE_S_STATUS_WAIT (t n : Nat) : RF := ⟨TILE_S_STATUS t n, 19, 16, 0⟩
/-- TILE_S_STATUS.INTRAP [7:7]. -/
def TILE_S_STATUS_INTRAP (t n : Nat) : RF := ⟨TILE_S_STATUS t n, 7, 7, 0⟩
/-- TILE_S_STATUS.STATE [3:0]. -/
def TILE_S_STATUS_STATE (t n : Nat) : RF := ⟨TILE_S_STATUS t n, 3, 0, 0⟩
/-- TILE_S_TRAP (R121). -/
def TILE_S_TRAP (t n : Nat) : Nat := 0xFF0600000108 + t * 0x10000 + n * 0x40
/-- TILE_S_TRAP.EPC [44:32]. -/
def TILE_S_TRAP_EPC (t n : Nat) : RF := ⟨TILE_S_TRAP t n, 44, 32, 0⟩
/-- TILE_S_TRAP.CAUSE [7:0]. -/
def TILE_S_TRAP_CAUSE (t n : Nat) : RF := ⟨TILE_S_TRAP t n, 7, 0, 0⟩
/-- TILE_S_TVAL (R121). -/
def TILE_S_TVAL (t n : Nat) : Nat := 0xFF0600000110 + t * 0x10000 + n * 0x40
/-- TILE_S_TVAL.TVAL [63:0]. -/
def TILE_S_TVAL_V (t n : Nat) : RF := ⟨TILE_S_TVAL t n, 63, 0, 0⟩
/-- TILE_S_KCNT (R121). -/
def TILE_S_KCNT (t n : Nat) : Nat := 0xFF0600000118 + t * 0x10000 + n * 0x40
/-- TILE_S_KCNT.ERR [63:32]. -/
def TILE_S_KCNT_ERR (t n : Nat) : RF := ⟨TILE_S_KCNT t n, 63, 32, 0⟩
/-- TILE_S_KCNT.CNT [31:0]. -/
def TILE_S_KCNT_CNT (t n : Nat) : RF := ⟨TILE_S_KCNT t n, 31, 0, 0⟩
/-- TILE_S_PRED (R121). -/
def TILE_S_PRED (t n : Nat) : Nat := 0xFF0600000120 + t * 0x10000 + n * 0x40
/-- TILE_S_PRED.P [7:0]. -/
def TILE_S_PRED_P (t n : Nat) : RF := ⟨TILE_S_PRED t n, 7, 0, 1⟩
/-- TILE_MX_STATUS (R151). -/
def TILE_MX_STATUS (t : Nat) : Nat := 0xFF0600002000 + t * 0x10000
/-- TILE_MX_STATUS.LAST_ERR [39:32]. -/
def TILE_MX_STATUS_LAST_ERR (t : Nat) : RF := ⟨TILE_MX_STATUS t, 39, 32, 0⟩
/-- TILE_MX_STATUS.PHASE [11:8]. -/
def TILE_MX_STATUS_PHASE (t : Nat) : RF := ⟨TILE_MX_STATUS t, 11, 8, 0⟩
/-- TILE_MX_STATUS.HELD [4:4]. -/
def TILE_MX_STATUS_HELD (t : Nat) : RF := ⟨TILE_MX_STATUS t, 4, 4, 0⟩
/-- TILE_MX_STATUS.QUEUED [2:0]. -/
def TILE_MX_STATUS_QUEUED (t : Nat) : RF := ⟨TILE_MX_STATUS t, 2, 0, 0⟩
/-- TILE_MX_ARRAY (R151). -/
def TILE_MX_ARRAY (t : Nat) : Nat := 0xFF0600002008 + t * 0x10000
/-- TILE_MX_ARRAY.COUNT [63:0]. -/
def TILE_MX_ARRAY_V (t : Nat) : RF := ⟨TILE_MX_ARRAY t, 63, 0, 0⟩
/-- TILE_MX_LOAD (R151). -/
def TILE_MX_LOAD (t : Nat) : Nat := 0xFF0600002010 + t * 0x10000
/-- TILE_MX_LOAD.COUNT [63:0]. -/
def TILE_MX_LOAD_V (t : Nat) : RF := ⟨TILE_MX_LOAD t, 63, 0, 0⟩
/-- TILE_MX_HELD (R151). -/
def TILE_MX_HELD (t : Nat) : Nat := 0xFF0600002018 + t * 0x10000
/-- TILE_MX_HELD.COUNT [63:0]. -/
def TILE_MX_HELD_V (t : Nat) : RF := ⟨TILE_MX_HELD t, 63, 0, 0⟩
/-- TILE_MX_PORTWAIT (R151). -/
def TILE_MX_PORTWAIT (t : Nat) : Nat := 0xFF0600002020 + t * 0x10000
/-- TILE_MX_PORTWAIT.COUNT [63:0]. -/
def TILE_MX_PORTWAIT_V (t : Nat) : RF := ⟨TILE_MX_PORTWAIT t, 63, 0, 0⟩
/-- TILE_MX_MACS (R151). -/
def TILE_MX_MACS (t c : Nat) : Nat := 0xFF0600002040 + t * 0x10000 + c * 0x8
/-- TILE_MX_MACS.COUNT [63:0]. -/
def TILE_MX_MACS_V (t c : Nat) : RF := ⟨TILE_MX_MACS t c, 63, 0, 0⟩
/-- TILE_MX_REPAIR (R151). -/
def TILE_MX_REPAIR (t : Nat) : Nat := 0xFF0600002080 + t * 0x10000
/-- TILE_MX_REPAIR.BADCOL1_V [35:35]. -/
def TILE_MX_REPAIR_BADCOL1_V (t : Nat) : RF := ⟨TILE_MX_REPAIR t, 35, 35, 0⟩
/-- TILE_MX_REPAIR.BADCOL0_V [34:34]. -/
def TILE_MX_REPAIR_BADCOL0_V (t : Nat) : RF := ⟨TILE_MX_REPAIR t, 34, 34, 0⟩
/-- TILE_MX_REPAIR.BADROW1_V [33:33]. -/
def TILE_MX_REPAIR_BADROW1_V (t : Nat) : RF := ⟨TILE_MX_REPAIR t, 33, 33, 0⟩
/-- TILE_MX_REPAIR.BADROW0_V [32:32]. -/
def TILE_MX_REPAIR_BADROW0_V (t : Nat) : RF := ⟨TILE_MX_REPAIR t, 32, 32, 0⟩
/-- TILE_MX_REPAIR.BADCOL1 [31:24]. -/
def TILE_MX_REPAIR_BADCOL1 (t : Nat) : RF := ⟨TILE_MX_REPAIR t, 31, 24, 0⟩
/-- TILE_MX_REPAIR.BADCOL0 [23:16]. -/
def TILE_MX_REPAIR_BADCOL0 (t : Nat) : RF := ⟨TILE_MX_REPAIR t, 23, 16, 0⟩
/-- TILE_MX_REPAIR.BADROW1 [15:8]. -/
def TILE_MX_REPAIR_BADROW1 (t : Nat) : RF := ⟨TILE_MX_REPAIR t, 15, 8, 0⟩
/-- TILE_MX_REPAIR.BADROW0 [7:0]. -/
def TILE_MX_REPAIR_BADROW0 (t : Nat) : RF := ⟨TILE_MX_REPAIR t, 7, 0, 0⟩
/-- TILE_MX_FUNC (R200). -/
def TILE_MX_FUNC (t : Nat) : Nat := 0xFF0600002028 + t * 0x10000
/-- TILE_MX_FUNC.COUNT [63:0]. -/
def TILE_MX_FUNC_V (t : Nat) : RF := ⟨TILE_MX_FUNC t, 63, 0, 0⟩
/-- TILE_MX_FWAIT (R200). -/
def TILE_MX_FWAIT (t : Nat) : Nat := 0xFF0600002030 + t * 0x10000
/-- TILE_MX_FWAIT.COUNT [63:0]. -/
def TILE_MX_FWAIT_V (t : Nat) : RF := ⟨TILE_MX_FWAIT t, 63, 0, 0⟩
/-- TILE_VX_STATUS (R228). -/
def TILE_VX_STATUS (t : Nat) : Nat := 0xFF0600002100 + t * 0x10000
/-- TILE_VX_STATUS.LAST_ERR [39:32]. -/
def TILE_VX_STATUS_LAST_ERR (t : Nat) : RF := ⟨TILE_VX_STATUS t, 39, 32, 0⟩
/-- TILE_VX_STATUS.PHASE [11:8]. -/
def TILE_VX_STATUS_PHASE (t : Nat) : RF := ⟨TILE_VX_STATUS t, 11, 8, 0⟩
/-- TILE_VX_STATUS.QUEUED [2:0]. -/
def TILE_VX_STATUS_QUEUED (t : Nat) : RF := ⟨TILE_VX_STATUS t, 2, 0, 0⟩
/-- TILE_VX_BEATS (R228). -/
def TILE_VX_BEATS (t : Nat) : Nat := 0xFF0600002108 + t * 0x10000
/-- TILE_VX_BEATS.COUNT [63:0]. -/
def TILE_VX_BEATS_V (t : Nat) : RF := ⟨TILE_VX_BEATS t, 63, 0, 0⟩
/-- TILE_VX_SPECIAL (R228). -/
def TILE_VX_SPECIAL (t : Nat) : Nat := 0xFF0600002110 + t * 0x10000
/-- TILE_VX_SPECIAL.COUNT [63:0]. -/
def TILE_VX_SPECIAL_V (t : Nat) : RF := ⟨TILE_VX_SPECIAL t, 63, 0, 0⟩
/-- TILE_VX_PORTWAIT (R228). -/
def TILE_VX_PORTWAIT (t : Nat) : Nat := 0xFF0600002118 + t * 0x10000
/-- TILE_VX_PORTWAIT.COUNT [63:0]. -/
def TILE_VX_PORTWAIT_V (t : Nat) : RF := ⟨TILE_VX_PORTWAIT t, 63, 0, 0⟩
/-- TILE_VX_HAZWAIT (R228). -/
def TILE_VX_HAZWAIT (t : Nat) : Nat := 0xFF0600002120 + t * 0x10000
/-- TILE_VX_HAZWAIT.COUNT [63:0]. -/
def TILE_VX_HAZWAIT_V (t : Nat) : RF := ⟨TILE_VX_HAZWAIT t, 63, 0, 0⟩
/-- TILE_VX_LANEOPS (R228). -/
def TILE_VX_LANEOPS (t : Nat) : Nat := 0xFF0600002128 + t * 0x10000
/-- TILE_VX_LANEOPS.COUNT [63:0]. -/
def TILE_VX_LANEOPS_V (t : Nat) : RF := ⟨TILE_VX_LANEOPS t, 63, 0, 0⟩
/-- TILE_SP_STATUS (R265). -/
def TILE_SP_STATUS (t : Nat) : Nat := 0xFF0600002200 + t * 0x10000
/-- TILE_SP_STATUS.LAST_ERR [39:32]. -/
def TILE_SP_STATUS_LAST_ERR (t : Nat) : RF := ⟨TILE_SP_STATUS t, 39, 32, 0⟩
/-- TILE_SP_STATUS.QPOWER [23:16]. -/
def TILE_SP_STATUS_QPOWER (t : Nat) : RF := ⟨TILE_SP_STATUS t, 23, 16, 170⟩
/-- TILE_SP_STATUS.PHASE [11:8]. -/
def TILE_SP_STATUS_PHASE (t : Nat) : RF := ⟨TILE_SP_STATUS t, 11, 8, 0⟩
/-- TILE_SP_STATUS.MAP [4:4]. -/
def TILE_SP_STATUS_MAP (t : Nat) : RF := ⟨TILE_SP_STATUS t, 4, 4, 0⟩
/-- TILE_SP_STATUS.QUEUED [2:0]. -/
def TILE_SP_STATUS_QUEUED (t : Nat) : RF := ⟨TILE_SP_STATUS t, 2, 0, 0⟩
/-- TILE_SP_POWER (R265). -/
def TILE_SP_POWER (t : Nat) : Nat := 0xFF0600002208 + t * 0x10000
/-- TILE_SP_POWER.REQ [7:0]. -/
def TILE_SP_POWER_REQ (t : Nat) : RF := ⟨TILE_SP_POWER t, 7, 0, 170⟩
/-- TILE_SP_RET (R265). -/
def TILE_SP_RET (t k : Nat) : Nat := 0xFF0600002210 + t * 0x10000 + k * 0x8
/-- TILE_SP_RET.VALID [63:63]. -/
def TILE_SP_RET_VALID (t k : Nat) : RF := ⟨TILE_SP_RET t k, 63, 63, 0⟩
/-- TILE_SP_RET.COUNT [48:32]. -/
def TILE_SP_RET_COUNT (t k : Nat) : RF := ⟨TILE_SP_RET t k, 48, 32, 0⟩
/-- TILE_SP_RET.START [16:0]. -/
def TILE_SP_RET_START (t k : Nat) : RF := ⟨TILE_SP_RET t k, 16, 0, 0⟩
/-- TILE_SP_ECC (R265). -/
def TILE_SP_ECC (t : Nat) : Nat := 0xFF0600002230 + t * 0x10000
/-- TILE_SP_ECC.CE_COUNT [63:32]. -/
def TILE_SP_ECC_CE_COUNT (t : Nat) : RF := ⟨TILE_SP_ECC t, 63, 32, 0⟩
/-- TILE_SP_ECC.CE_LINE [16:0]. -/
def TILE_SP_ECC_CE_LINE (t : Nat) : RF := ⟨TILE_SP_ECC t, 16, 0, 0⟩
/-- TILE_SP_LINES (R265). -/
def TILE_SP_LINES (t : Nat) : Nat := 0xFF0600002238 + t * 0x10000
/-- TILE_SP_LINES.COUNT [63:0]. -/
def TILE_SP_LINES_V (t : Nat) : RF := ⟨TILE_SP_LINES t, 63, 0, 0⟩
/-- TILE_SP_RAWHIT (R265). -/
def TILE_SP_RAWHIT (t : Nat) : Nat := 0xFF0600002240 + t * 0x10000
/-- TILE_SP_RAWHIT.COUNT [63:0]. -/
def TILE_SP_RAWHIT_V (t : Nat) : RF := ⟨TILE_SP_RAWHIT t, 63, 0, 0⟩
/-- TILE_SP_FILLWAIT (R265). -/
def TILE_SP_FILLWAIT (t : Nat) : Nat := 0xFF0600002248 + t * 0x10000
/-- TILE_SP_FILLWAIT.COUNT [63:0]. -/
def TILE_SP_FILLWAIT_V (t : Nat) : RF := ⟨TILE_SP_FILLWAIT t, 63, 0, 0⟩
/-- TILE_SP_BCFG (R265). -/
def TILE_SP_BCFG (t h : Nat) : Nat := 0xFF0600002280 + t * 0x10000 + h * 0x8
/-- TILE_SP_BCFG.VALID [63:63]. -/
def TILE_SP_BCFG_VALID (t h : Nat) : RF := ⟨TILE_SP_BCFG t h, 63, 63, 0⟩
/-- TILE_SP_BCFG.LINES [47:32]. -/
def TILE_SP_BCFG_LINES (t h : Nat) : RF := ⟨TILE_SP_BCFG t h, 47, 32, 0⟩
/-- TILE_SP_BCFG.BASE [16:0]. -/
def TILE_SP_BCFG_BASE (t h : Nat) : RF := ⟨TILE_SP_BCFG t h, 16, 0, 0⟩
/-- TILE_SP_BSTATE (R265). -/
def TILE_SP_BSTATE (t h : Nat) : Nat := 0xFF0600002300 + t * 0x10000 + h * 0x8
/-- TILE_SP_BSTATE.BROKEN [63:63]. -/
def TILE_SP_BSTATE_BROKEN (t h : Nat) : RF := ⟨TILE_SP_BSTATE t h, 63, 63, 0⟩
/-- TILE_SP_BSTATE.CCLAIM [62:62]. -/
def TILE_SP_BSTATE_CCLAIM (t h : Nat) : RF := ⟨TILE_SP_BSTATE t h, 62, 62, 0⟩
/-- TILE_SP_BSTATE.PCLAIM [61:61]. -/
def TILE_SP_BSTATE_PCLAIM (t h : Nat) : RF := ⟨TILE_SP_BSTATE t h, 61, 61, 0⟩
/-- TILE_SP_BSTATE.FULLCNT [46:32]. -/
def TILE_SP_BSTATE_FULLCNT (t h : Nat) : RF := ⟨TILE_SP_BSTATE t h, 46, 32, 0⟩
/-- TILE_SP_BSTATE.FILL [29:16]. -/
def TILE_SP_BSTATE_FILL (t h : Nat) : RF := ⟨TILE_SP_BSTATE t h, 29, 16, 0⟩
/-- TILE_SP_BSTATE.DRAIN [13:0]. -/
def TILE_SP_BSTATE_DRAIN (t h : Nat) : RF := ⟨TILE_SP_BSTATE t h, 13, 0, 0⟩
/-- TILE_MSG_CFG (R303). -/
def TILE_MSG_CFG (t : Nat) : Nat := 0xFF0600002400 + t * 0x10000
/-- TILE_MSG_CFG.STALL_LIMIT [31:0]. -/
def TILE_MSG_CFG_STALL_LIMIT (t : Nat) : RF := ⟨TILE_MSG_CFG t, 31, 0, 0⟩
/-- TILE_MSG_COUNT (R303). -/
def TILE_MSG_COUNT (t c : Nat) : Nat := 0xFF0600002408 + t * 0x10000 + c * 0x8
/-- TILE_MSG_COUNT.COUNT [63:0]. -/
def TILE_MSG_COUNT_V (t c : Nat) : RF := ⟨TILE_MSG_COUNT t c, 63, 0, 0⟩
/-- TILE_Q_STATE (R303). -/
def TILE_Q_STATE (t q : Nat) : Nat := 0xFF0600002800 + t * 0x10000 + q * 0x10
/-- TILE_Q_STATE.EPOCH [63:48]. -/
def TILE_Q_STATE_EPOCH (t q : Nat) : RF := ⟨TILE_Q_STATE t q, 63, 48, 0⟩
/-- TILE_Q_STATE.EXT [44:32]. -/
def TILE_Q_STATE_EXT (t q : Nat) : RF := ⟨TILE_Q_STATE t q, 44, 32, 0⟩
/-- TILE_Q_STATE.FRONDS [31:24]. -/
def TILE_Q_STATE_FRONDS (t q : Nat) : RF := ⟨TILE_Q_STATE t q, 31, 24, 0⟩
/-- TILE_Q_STATE.HW [20:16]. -/
def TILE_Q_STATE_HW (t q : Nat) : RF := ⟨TILE_Q_STATE t q, 20, 16, 0⟩
/-- TILE_Q_STATE.HEAD [11:8]. -/
def TILE_Q_STATE_HEAD (t q : Nat) : RF := ⟨TILE_Q_STATE t q, 11, 8, 0⟩
/-- TILE_Q_STATE.CLOSED [7:0]. -/
def TILE_Q_STATE_CLOSED (t q : Nat) : RF := ⟨TILE_Q_STATE t q, 7, 0, 0⟩
/-- TILE_Q_CFG (R303). -/
def TILE_Q_CFG (t q : Nat) : Nat := 0xFF0600002808 + t * 0x10000 + q * 0x10
/-- TILE_Q_CFG.EXT_EN [63:63]. -/
def TILE_Q_CFG_EXT_EN (t q : Nat) : RF := ⟨TILE_Q_CFG t q, 63, 63, 0⟩
/-- TILE_Q_CFG.EXT_LEN [60:48]. -/
def TILE_Q_CFG_EXT_LEN (t q : Nat) : RF := ⟨TILE_Q_CFG t q, 60, 48, 0⟩
/-- TILE_Q_CFG.EXT_BASE [40:24]. -/
def TILE_Q_CFG_EXT_BASE (t q : Nat) : RF := ⟨TILE_Q_CFG t q, 40, 24, 0⟩
/-- TILE_Q_CFG.SPILL_AT [23:20]. -/
def TILE_Q_CFG_SPILL_AT (t q : Nat) : RF := ⟨TILE_Q_CFG t q, 23, 20, 0⟩
/-- TILE_Q_CFG.READERS [15:8]. -/
def TILE_Q_CFG_READERS (t q : Nat) : RF := ⟨TILE_Q_CFG t q, 15, 8, 0⟩
/-- TILE_Q_CFG.GRANTED [4:0]. -/
def TILE_Q_CFG_GRANTED (t q : Nat) : RF := ⟨TILE_Q_CFG t q, 4, 0, 0⟩
/-- TILE_SPL_STATE (R303). -/
def TILE_SPL_STATE (t s : Nat) : Nat := 0xFF0600002C00 + t * 0x10000 + s * 0x10
/-- TILE_SPL_STATE.OVER [63:63]. -/
def TILE_SPL_STATE_OVER (t s : Nat) : RF := ⟨TILE_SPL_STATE t s, 63, 63, 0⟩
/-- TILE_SPL_STATE.HEAD [47:32]. -/
def TILE_SPL_STATE_HEAD (t s : Nat) : RF := ⟨TILE_SPL_STATE t s, 47, 32, 0⟩
/-- TILE_SPL_STATE.HEADW [25:16]. -/
def TILE_SPL_STATE_HEADW (t s : Nat) : RF := ⟨TILE_SPL_STATE t s, 25, 16, 0⟩
/-- TILE_SPL_STATE.COMPLETE [5:0]. -/
def TILE_SPL_STATE_COMPLETE (t s : Nat) : RF := ⟨TILE_SPL_STATE t s, 5, 0, 0⟩
/-- TILE_SPL_CFG (R303). -/
def TILE_SPL_CFG (t s : Nat) : Nat := 0xFF0600002C08 + t * 0x10000 + s * 0x10
/-- TILE_SPL_CFG.VALID [63:63]. -/
def TILE_SPL_CFG_VALID (t s : Nat) : RF := ⟨TILE_SPL_CFG t s, 63, 63, 0⟩
/-- TILE_SPL_CFG.FROND [50:48]. -/
def TILE_SPL_CFG_FROND (t s : Nat) : RF := ⟨TILE_SPL_CFG t s, 50, 48, 0⟩
/-- TILE_SPL_CFG.CNT [41:32]. -/
def TILE_SPL_CFG_CNT (t s : Nat) : RF := ⟨TILE_SPL_CFG t s, 41, 32, 0⟩
/-- TILE_SPL_CFG.CTREE [15:0]. -/
def TILE_SPL_CFG_CTREE (t s : Nat) : RF := ⟨TILE_SPL_CFG t s, 15, 0, 0⟩
/-- TILE_TALLY (R303). -/
def TILE_TALLY (t y : Nat) : Nat := 0xFF0600002D00 + t * 0x10000 + y * 0x8
/-- TILE_TALLY.VALUE [63:0]. -/
def TILE_TALLY_V (t y : Nat) : RF := ⟨TILE_TALLY t y, 63, 0, 0⟩
/-- TILE_HITCH (R303). -/
def TILE_HITCH (t h : Nat) : Nat := 0xFF0600002E00 + t * 0x10000 + h * 0x8
/-- TILE_HITCH.GEN [63:48]. -/
def TILE_HITCH_GEN (t h : Nat) : RF := ⟨TILE_HITCH t h, 63, 48, 0⟩
/-- TILE_HITCH.EXPECT [47:32]. -/
def TILE_HITCH_EXPECT (t h : Nat) : RF := ⟨TILE_HITCH t h, 47, 32, 0⟩
/-- TILE_HITCH.REVOKED [31:31]. -/
def TILE_HITCH_REVOKED (t h : Nat) : RF := ⟨TILE_HITCH t h, 31, 31, 0⟩
/-- TILE_HITCH.COUNT [16:0]. -/
def TILE_HITCH_COUNT (t h : Nat) : RF := ⟨TILE_HITCH t h, 16, 0, 0⟩
/-- TILE_ROUTE_A (R303). -/
def TILE_ROUTE_A (t r : Nat) : Nat := 0xFF0600003000 + t * 0x10000 + r * 0x10
/-- TILE_ROUTE_A.TYPE [63:61]. -/
def TILE_ROUTE_A_TYPE (t r : Nat) : RF := ⟨TILE_ROUTE_A t r, 63, 61, 0⟩
/-- TILE_ROUTE_A.STATE [60:59]. -/
def TILE_ROUTE_A_STATE (t r : Nat) : RF := ⟨TILE_ROUTE_A t r, 60, 59, 0⟩
/-- TILE_ROUTE_A.REMOTE [58:58]. -/
def TILE_ROUTE_A_REMOTE (t r : Nat) : RF := ⟨TILE_ROUTE_A t r, 58, 58, 0⟩
/-- TILE_ROUTE_A.MCAST [57:57]. -/
def TILE_ROUTE_A_MCAST (t r : Nat) : RF := ⟨TILE_ROUTE_A t r, 57, 57, 0⟩
/-- TILE_ROUTE_A.DFROND [56:54]. -/
def TILE_ROUTE_A_DFROND (t r : Nat) : RF := ⟨TILE_ROUTE_A t r, 56, 54, 0⟩
/-- TILE_ROUTE_A.INDEX [51:46]. -/
def TILE_ROUTE_A_INDEX (t r : Nat) : RF := ⟨TILE_ROUTE_A t r, 51, 46, 0⟩
/-- TILE_ROUTE_A.PEER [43:32]. -/
def TILE_ROUTE_A_PEER (t r : Nat) : RF := ⟨TILE_ROUTE_A t r, 43, 32, 0⟩
/-- TILE_ROUTE_A.EPOCH [31:16]. -/
def TILE_ROUTE_A_EPOCH (t r : Nat) : RF := ⟨TILE_ROUTE_A t r, 31, 16, 0⟩
/-- TILE_ROUTE_A.DEST [15:0]. -/
def TILE_ROUTE_A_DEST (t r : Nat) : RF := ⟨TILE_ROUTE_A t r, 15, 0, 0⟩
/-- TILE_ROUTE_B (R303). -/
def TILE_ROUTE_B (t r : Nat) : Nat := 0xFF0600003008 + t * 0x10000 + r * 0x10
/-- TILE_ROUTE_B.SEQ [31:16]. -/
def TILE_ROUTE_B_SEQ (t r : Nat) : RF := ⟨TILE_ROUTE_B t r, 31, 16, 0⟩
/-- TILE_ROUTE_B.GRANT [13:8]. -/
def TILE_ROUTE_B_GRANT (t r : Nat) : RF := ⟨TILE_ROUTE_B t r, 13, 8, 0⟩
/-- TILE_ROUTE_B.CREDIT [5:0]. -/
def TILE_ROUTE_B_CREDIT (t r : Nat) : RF := ⟨TILE_ROUTE_B t r, 5, 0, 0⟩
/-- TILE_Q_TAG (R303). -/
def TILE_Q_TAG (t q j : Nat) : Nat := 0xFF0600004000 + t * 0x10000 + q * 0x80 + j * 0x8
/-- TILE_Q_TAG.TAG [63:0]. -/
def TILE_Q_TAG_V (t q j : Nat) : RF := ⟨TILE_Q_TAG t q j, 63, 0, 0⟩
/-- MESH_CAP_LO (R332). -/
def MESH_CAP_LO : Nat := 0xFF0400000000
/-- MESH_CAP_LO.HDR [63:0]. -/
def MESH_CAP_LO_V : RF := ⟨MESH_CAP_LO, 63, 0, 0⟩
/-- MESH_CAP_HI (R332). -/
def MESH_CAP_HI : Nat := 0xFF0400000008
/-- MESH_CAP_HI.HDR [63:0]. -/
def MESH_CAP_HI_V : RF := ⟨MESH_CAP_HI, 63, 0, 0⟩
/-- MESH_CAP_INFO (R332). -/
def MESH_CAP_INFO : Nat := 0xFF0400000010
/-- MESH_CAP_INFO.COUNT [47:16]. -/
def MESH_CAP_INFO_COUNT : RF := ⟨MESH_CAP_INFO, 47, 16, 0⟩
/-- MESH_CAP_INFO.ROUTER [15:8]. -/
def MESH_CAP_INFO_ROUTER : RF := ⟨MESH_CAP_INFO, 15, 8, 0⟩
/-- MESH_CAP_INFO.PART [3:0]. -/
def MESH_CAP_INFO_PART : RF := ⟨MESH_CAP_INFO, 3, 0, 0⟩
/-- MESH_XLINK (R332). -/
def MESH_XLINK (k : Nat) : Nat := 0xFF0400000800 + k * 0x8
/-- MESH_XLINK.REPLAYS [63:32]. -/
def MESH_XLINK_REPLAYS (k : Nat) : RF := ⟨MESH_XLINK k, 63, 32, 0⟩
/-- MESH_XLINK.SPARES_USED [15:8]. -/
def MESH_XLINK_SPARES_USED (k : Nat) : RF := ⟨MESH_XLINK k, 15, 8, 0⟩
/-- MESH_XLINK.FAILED_REV [1:1]. -/
def MESH_XLINK_FAILED_REV (k : Nat) : RF := ⟨MESH_XLINK k, 1, 1, 0⟩
/-- MESH_XLINK.FAILED_FWD [0:0]. -/
def MESH_XLINK_FAILED_FWD (k : Nat) : RF := ⟨MESH_XLINK k, 0, 0, 0⟩
/-- MESH_P_CFG (R332). -/
def MESH_P_CFG (p : Nat) : Nat := 0xFF0400001000 + p * 0x20
/-- MESH_P_CFG.MSLOT [63:48]. -/
def MESH_P_CFG_MSLOT (p : Nat) : RF := ⟨MESH_P_CFG p, 63, 48, 257⟩
/-- MESH_P_CFG.WT [43:40]. -/
def MESH_P_CFG_WT (p : Nat) : RF := ⟨MESH_P_CFG p, 43, 40, 8⟩
/-- MESH_P_CFG.WG [39:36]. -/
def MESH_P_CFG_WG (p : Nat) : RF := ⟨MESH_P_CFG p, 39, 36, 4⟩
/-- MESH_P_CFG.WQ [35:32]. -/
def MESH_P_CFG_WQ (p : Nat) : RF := ⟨MESH_P_CFG p, 35, 32, 4⟩
/-- MESH_P_BOUND (R332). -/
def MESH_P_BOUND (p : Nat) : Nat := 0xFF0400001008 + p * 0x20
/-- MESH_P_BOUND.NSHARE_MAX [47:32]. -/
def MESH_P_BOUND_NSHARE_MAX (p : Nat) : RF := ⟨MESH_P_BOUND p, 47, 32, 0⟩
/-- MESH_P_BOUND.CBOUND [15:0]. -/
def MESH_P_BOUND_CBOUND (p : Nat) : RF := ⟨MESH_P_BOUND p, 15, 0, 42⟩
/-- MESH_R_STATUS (R332). -/
def MESH_R_STATUS (n : Nat) : Nat := 0xFF0400010000 + n * 0x100
/-- MESH_R_STATUS.PHYS [56:48]. -/
def MESH_R_STATUS_PHYS (n : Nat) : RF := ⟨MESH_R_STATUS n, 56, 48, 0⟩
/-- MESH_R_STATUS.PART [39:36]. -/
def MESH_R_STATUS_PART (n : Nat) : RF := ⟨MESH_R_STATUS n, 39, 36, 0⟩
/-- MESH_R_STATUS.SHIFTED [33:33]. -/
def MESH_R_STATUS_SHIFTED (n : Nat) : RF := ⟨MESH_R_STATUS n, 33, 33, 0⟩
/-- MESH_R_STATUS.FENCED [32:32]. -/
def MESH_R_STATUS_FENCED (n : Nat) : RF := ⟨MESH_R_STATUS n, 32, 32, 0⟩
/-- MESH_R_STATUS.REDUCE [22:16]. -/
def MESH_R_STATUS_REDUCE (n : Nat) : RF := ⟨MESH_R_STATUS n, 22, 16, 0⟩
/-- MESH_R_STATUS.TREES [8:0]. -/
def MESH_R_STATUS_TREES (n : Nat) : RF := ⟨MESH_R_STATUS n, 8, 0, 0⟩
/-- MESH_R_FLITS (R332). -/
def MESH_R_FLITS (n c : Nat) : Nat := 0xFF0400010008 + n * 0x100 + c * 0x8
/-- MESH_R_FLITS.COUNT [63:0]. -/
def MESH_R_FLITS_V (n c : Nat) : RF := ⟨MESH_R_FLITS n c, 63, 0, 0⟩
/-- MESH_R_WAIT (R332). -/
def MESH_R_WAIT (n c : Nat) : Nat := 0xFF0400010038 + n * 0x100 + c * 0x8
/-- MESH_R_WAIT.COUNT [63:0]. -/
def MESH_R_WAIT_V (n c : Nat) : RF := ⟨MESH_R_WAIT n c, 63, 0, 0⟩
/-- MESH_R_ERR (R332). -/
def MESH_R_ERR (n : Nat) : Nat := 0xFF0400010068 + n * 0x100
/-- MESH_R_ERR.CRC [63:32]. -/
def MESH_R_ERR_CRC (n : Nat) : RF := ⟨MESH_R_ERR n, 63, 32, 0⟩
/-- MESH_R_ERR.REPLAYS [31:0]. -/
def MESH_R_ERR_REPLAYS (n : Nat) : RF := ⟨MESH_R_ERR n, 31, 0, 0⟩
/-- MESH_R_DROP (R332). -/
def MESH_R_DROP (n : Nat) : Nat := 0xFF0400010070 + n * 0x100
/-- MESH_R_DROP.DENY [63:32]. -/
def MESH_R_DROP_DENY (n : Nat) : RF := ⟨MESH_R_DROP n, 63, 32, 0⟩
/-- MESH_R_DROP.FENCE [31:0]. -/
def MESH_R_DROP_FENCE (n : Nat) : RF := ⟨MESH_R_DROP n, 31, 0, 0⟩
/-- PART_P_RCMD (R366). -/
def PART_P_RCMD (p : Nat) : Nat := 0xFF0300020000 + p * 0x100
/-- PART_P_RCMD.GO [5:5]. -/
def PART_P_RCMD_GO (p : Nat) : RF := ⟨PART_P_RCMD p, 5, 5, 0⟩
/-- PART_P_RCMD.EXPECT [4:4]. -/
def PART_P_RCMD_EXPECT (p : Nat) : RF := ⟨PART_P_RCMD p, 4, 4, 0⟩
/-- PART_P_RCMD.SOURCE [3:2]. -/
def PART_P_RCMD_SOURCE (p : Nat) : RF := ⟨PART_P_RCMD p, 3, 2, 0⟩
/-- PART_P_RCMD.ABORT [1:1]. -/
def PART_P_RCMD_ABORT (p : Nat) : RF := ⟨PART_P_RCMD p, 1, 1, 0⟩
/-- PART_P_RCMD.LOAD [0:0]. -/
def PART_P_RCMD_LOAD (p : Nat) : RF := ⟨PART_P_RCMD p, 0, 0, 0⟩
/-- PART_P_RADDR (R366). -/
def PART_P_RADDR (p : Nat) : Nat := 0xFF0300020008 + p * 0x100
/-- PART_P_RADDR.ADDR [47:0]. -/
def PART_P_RADDR_ADDR (p : Nat) : RF := ⟨PART_P_RADDR p, 47, 0, 0⟩
/-- PART_P_RSIZE (R366). -/
def PART_P_RSIZE (p : Nat) : Nat := 0xFF0300020010 + p * 0x100
/-- PART_P_RSIZE.SIZE [39:0]. -/
def PART_P_RSIZE_SIZE (p : Nat) : RF := ⟨PART_P_RSIZE p, 39, 0, 0⟩
/-- PART_P_RSTART (R366). -/
def PART_P_RSTART (p : Nat) : Nat := 0xFF0300020018 + p * 0x100
/-- PART_P_RSTART.SECOND [63:32]. -/
def PART_P_RSTART_SECOND (p : Nat) : RF := ⟨PART_P_RSTART p, 63, 32, 0⟩
/-- PART_P_RSTART.CYCLE [31:0]. -/
def PART_P_RSTART_CYCLE (p : Nat) : RF := ⟨PART_P_RSTART p, 31, 0, 0⟩
/-- PART_P_RSTATUS (R366). -/
def PART_P_RSTATUS (p : Nat) : Nat := 0xFF0300020020 + p * 0x100
/-- PART_P_RSTATUS.SECTION [63:48]. -/
def PART_P_RSTATUS_SECTION (p : Nat) : RF := ⟨PART_P_RSTATUS p, 63, 48, 0⟩
/-- PART_P_RSTATUS.CHECK [47:40]. -/
def PART_P_RSTATUS_CHECK (p : Nat) : RF := ⟨PART_P_RSTATUS p, 47, 40, 0⟩
/-- PART_P_RSTATUS.RESULT [39:32]. -/
def PART_P_RSTATUS_RESULT (p : Nat) : RF := ⟨PART_P_RSTATUS p, 39, 32, 0⟩
/-- PART_P_RSTATUS.HOSTWALK [15:15]. -/
def PART_P_RSTATUS_HOSTWALK (p : Nat) : RF := ⟨PART_P_RSTATUS p, 15, 15, 0⟩
/-- PART_P_RSTATUS.FAULTED [14:14]. -/
def PART_P_RSTATUS_FAULTED (p : Nat) : RF := ⟨PART_P_RSTATUS p, 14, 14, 0⟩
/-- PART_P_RSTATUS.STUCK [13:13]. -/
def PART_P_RSTATUS_STUCK (p : Nat) : RF := ⟨PART_P_RSTATUS p, 13, 13, 0⟩
/-- PART_P_RSTATUS.REFUSED [12:12]. -/
def PART_P_RSTATUS_REFUSED (p : Nat) : RF := ⟨PART_P_RSTATUS p, 12, 12, 0⟩
/-- PART_P_RSTATUS.STATE [3:0]. -/
def PART_P_RSTATUS_STATE (p : Nat) : RF := ⟨PART_P_RSTATUS p, 3, 0, 0⟩
/-- PART_P_DRAIN (R366). -/
def PART_P_DRAIN (p : Nat) : Nat := 0xFF0300020028 + p * 0x100
/-- PART_P_DRAIN.LIMIT [63:32]. -/
def PART_P_DRAIN_LIMIT (p : Nat) : RF := ⟨PART_P_DRAIN p, 63, 32, 1050000⟩
/-- PART_P_DRAIN.MODE [5:4]. -/
def PART_P_DRAIN_MODE (p : Nat) : RF := ⟨PART_P_DRAIN p, 5, 4, 0⟩
/-- PART_P_DRAIN.REOPEN [3:3]. -/
def PART_P_DRAIN_REOPEN (p : Nat) : RF := ⟨PART_P_DRAIN p, 3, 3, 0⟩
/-- PART_P_DRAIN.RESTART [2:2]. -/
def PART_P_DRAIN_RESTART (p : Nat) : RF := ⟨PART_P_DRAIN p, 2, 2, 0⟩
/-- PART_P_DRAIN.RESUME [1:1]. -/
def PART_P_DRAIN_RESUME (p : Nat) : RF := ⟨PART_P_DRAIN p, 1, 1, 0⟩
/-- PART_P_DRAIN.START [0:0]. -/
def PART_P_DRAIN_START (p : Nat) : RF := ⟨PART_P_DRAIN p, 0, 0, 0⟩
/-- PART_P_DSTATUS (R366). -/
def PART_P_DSTATUS (p : Nat) : Nat := 0xFF0300020030 + p * 0x100
/-- PART_P_DSTATUS.FIRST_STUCK [55:48]. -/
def PART_P_DSTATUS_FIRST_STUCK (p : Nat) : RF := ⟨PART_P_DSTATUS p, 55, 48, 0⟩
/-- PART_P_DSTATUS.NOT_EMPTY [40:32]. -/
def PART_P_DSTATUS_NOT_EMPTY (p : Nat) : RF := ⟨PART_P_DSTATUS p, 40, 32, 0⟩
/-- PART_P_DSTATUS.CYCLES [31:0]. -/
def PART_P_DSTATUS_CYCLES (p : Nat) : RF := ⟨PART_P_DSTATUS p, 31, 0, 0⟩
/-- PART_P_SWITCH (R366). -/
def PART_P_SWITCH (p : Nat) : Nat := 0xFF0300020040 + p * 0x100
/-- PART_P_SWITCH.RECT [31:16]. -/
def PART_P_SWITCH_RECT (p : Nat) : RF := ⟨PART_P_SWITCH p, 31, 16, 0⟩
/-- PART_P_SWITCH.FROND [10:8]. -/
def PART_P_SWITCH_FROND (p : Nat) : RF := ⟨PART_P_SWITCH p, 10, 8, 0⟩
/-- PART_P_SWITCH.MODE [5:4]. -/
def PART_P_SWITCH_MODE (p : Nat) : RF := ⟨PART_P_SWITCH p, 5, 4, 0⟩
/-- PART_P_SWITCH.REFUSED [1:1]. -/
def PART_P_SWITCH_REFUSED (p : Nat) : RF := ⟨PART_P_SWITCH p, 1, 1, 0⟩
/-- PART_P_SWITCH.GO [0:0]. -/
def PART_P_SWITCH_GO (p : Nat) : RF := ⟨PART_P_SWITCH p, 0, 0, 0⟩
/-- PART_P_SWTIME (R366). -/
def PART_P_SWTIME (p : Nat) : Nat := 0xFF0300020048 + p * 0x100
/-- PART_P_SWTIME.TIME [63:0]. -/
def PART_P_SWTIME_V (p : Nat) : RF := ⟨PART_P_SWTIME p, 63, 0, 0⟩
/-- PART_P_RDIGEST (R366). -/
def PART_P_RDIGEST (p k : Nat) : Nat := 0xFF0300020080 + p * 0x100 + k * 0x8
/-- PART_P_RDIGEST.BYTES [63:0]. -/
def PART_P_RDIGEST_V (p k : Nat) : RF := ⟨PART_P_RDIGEST p k, 63, 0, 0⟩
/-- PART_P_RDIGEST_EXP (R366). -/
def PART_P_RDIGEST_EXP (p k : Nat) : Nat := 0xFF03000200C0 + p * 0x100 + k * 0x8
/-- PART_P_RDIGEST_EXP.BYTES [63:0]. -/
def PART_P_RDIGEST_EXP_V (p k : Nat) : RF := ⟨PART_P_RDIGEST_EXP p k, 63, 0, 0⟩
/-- TILE_FOLD_STATE (R367). -/
def TILE_FOLD_STATE (t : Nat) : Nat := 0xFF0600006000 + t * 0x10000
/-- TILE_FOLD_STATE.OVERRUNS [63:48]. -/
def TILE_FOLD_STATE_OVERRUNS (t : Nat) : RF := ⟨TILE_FOLD_STATE t, 63, 48, 0⟩
/-- TILE_FOLD_STATE.RETIRED [47:40]. -/
def TILE_FOLD_STATE_RETIRED (t : Nat) : RF := ⟨TILE_FOLD_STATE t, 47, 40, 0⟩
/-- TILE_FOLD_STATE.EMPTY [39:32]. -/
def TILE_FOLD_STATE_EMPTY (t : Nat) : RF := ⟨TILE_FOLD_STATE t, 39, 32, 0⟩
/-- TILE_FOLD_STATE.STEP [31:24]. -/
def TILE_FOLD_STATE_STEP (t : Nat) : RF := ⟨TILE_FOLD_STATE t, 31, 24, 0⟩
/-- TILE_FOLD_STATE.STATE [19:16]. -/
def TILE_FOLD_STATE_STATE (t : Nat) : RF := ⟨TILE_FOLD_STATE t, 19, 16, 0⟩
/-- TILE_FOLD_STATE.PENDING [10:8]. -/
def TILE_FOLD_STATE_PENDING (t : Nat) : RF := ⟨TILE_FOLD_STATE t, 10, 8, 0⟩
/-- TILE_FOLD_STATE.TILE_EMPTY [0:0]. -/
def TILE_FOLD_STATE_TILE_EMPTY (t : Nat) : RF := ⟨TILE_FOLD_STATE t, 0, 0, 0⟩
/-- TILE_FOLD_SWITCHES (R367). -/
def TILE_FOLD_SWITCHES (t : Nat) : Nat := 0xFF0600006008 + t * 0x10000
/-- TILE_FOLD_SWITCHES.COUNT [63:0]. -/
def TILE_FOLD_SWITCHES_V (t : Nat) : RF := ⟨TILE_FOLD_SWITCHES t, 63, 0, 0⟩
/-- TILE_FOLD_LATE (R367). -/
def TILE_FOLD_LATE (t : Nat) : Nat := 0xFF0600006010 + t * 0x10000
/-- TILE_FOLD_LATE.COUNT [63:0]. -/
def TILE_FOLD_LATE_V (t : Nat) : RF := ⟨TILE_FOLD_LATE t, 63, 0, 0⟩
/-- TILE_FOLD_DISCARD (R367). -/
def TILE_FOLD_DISCARD (t : Nat) : Nat := 0xFF0600006018 + t * 0x10000
/-- TILE_FOLD_DISCARD.COUNT [63:0]. -/
def TILE_FOLD_DISCARD_V (t : Nat) : RF := ⟨TILE_FOLD_DISCARD t, 63, 0, 0⟩
/-- TILE_FOLD_GEN (R367). -/
def TILE_FOLD_GEN (t : Nat) : Nat := 0xFF0600006020 + t * 0x10000
/-- TILE_FOLD_GEN.GEN [63:0]. -/
def TILE_FOLD_GEN_V (t : Nat) : RF := ⟨TILE_FOLD_GEN t, 63, 0, 0⟩
/-- HBM_CFG (R400). -/
def HBM_CFG : Nat := 0xFF0900000000
/-- HBM_CFG.STACK_GIB [39:32]. -/
def HBM_CFG_STACK_GIB : RF := ⟨HBM_CFG, 39, 32, 0⟩
/-- HBM_CFG.ILV [13:12]. -/
def HBM_CFG_ILV : RF := ⟨HBM_CFG, 13, 12, 0⟩
/-- HBM_CFG.READY [11:0]. -/
def HBM_CFG_READY : RF := ⟨HBM_CFG, 11, 0, 0⟩
/-- HBM_S_STATUS (R400). -/
def HBM_S_STATUS (n : Nat) : Nat := 0xFF0900001000 + n * 0x40
/-- HBM_S_STATUS.TEMP [63:56]. -/
def HBM_S_STATUS_TEMP (n : Nat) : RF := ⟨HBM_S_STATUS n, 63, 56, 0⟩
/-- HBM_S_STATUS.REFRATE [48:48]. -/
def HBM_S_STATUS_REFRATE (n : Nat) : RF := ⟨HBM_S_STATUS n, 48, 48, 0⟩
/-- HBM_S_STATUS.ROWBUF [42:40]. -/
def HBM_S_STATUS_ROWBUF (n : Nat) : RF := ⟨HBM_S_STATUS n, 42, 40, 0⟩
/-- HBM_S_STATUS.LANES [35:32]. -/
def HBM_S_STATUS_LANES (n : Nat) : RF := ⟨HBM_S_STATUS n, 35, 32, 0⟩
/-- HBM_S_STATUS.STATE [3:0]. -/
def HBM_S_STATUS_STATE (n : Nat) : RF := ⟨HBM_S_STATUS n, 3, 0, 0⟩
/-- HBM_S_ERR (R400). -/
def HBM_S_ERR (n : Nat) : Nat := 0xFF0900001008 + n * 0x40
/-- HBM_S_ERR.CE [63:32]. -/
def HBM_S_ERR_CE (n : Nat) : RF := ⟨HBM_S_ERR n, 63, 32, 0⟩
/-- HBM_S_ERR.UE [15:0]. -/
def HBM_S_ERR_UE (n : Nat) : RF := ⟨HBM_S_ERR n, 15, 0, 0⟩
/-- DDR_C_ERR (R400). -/
def DDR_C_ERR (n : Nat) : Nat := 0xFF0A00001008 + n * 0x40
/-- DDR_C_ERR.CE [63:32]. -/
def DDR_C_ERR_CE (n : Nat) : RF := ⟨DDR_C_ERR n, 63, 32, 0⟩
/-- DDR_C_ERR.UE [15:0]. -/
def DDR_C_ERR_UE (n : Nat) : RF := ⟨DDR_C_ERR n, 15, 0, 0⟩
/-- HBM_S_REFWAIT (R400). -/
def HBM_S_REFWAIT (n : Nat) : Nat := 0xFF0900001010 + n * 0x40
/-- HBM_S_REFWAIT.COUNT [63:0]. -/
def HBM_S_REFWAIT_V (n : Nat) : RF := ⟨HBM_S_REFWAIT n, 63, 0, 0⟩
/-- DDR_C_REFWAIT (R400). -/
def DDR_C_REFWAIT (n : Nat) : Nat := 0xFF0A00001010 + n * 0x40
/-- DDR_C_REFWAIT.COUNT [63:0]. -/
def DDR_C_REFWAIT_V (n : Nat) : RF := ⟨DDR_C_REFWAIT n, 63, 0, 0⟩
/-- HBM_S_TRAIN (R400). -/
def HBM_S_TRAIN (n : Nat) : Nat := 0xFF0900001018 + n * 0x40
/-- HBM_S_TRAIN.RESULT [63:32]. -/
def HBM_S_TRAIN_RESULT (n : Nat) : RF := ⟨HBM_S_TRAIN n, 63, 32, 0⟩
/-- HBM_S_TRAIN.CHAN [15:11]. -/
def HBM_S_TRAIN_CHAN (n : Nat) : RF := ⟨HBM_S_TRAIN n, 15, 11, 0⟩
/-- HBM_S_TRAIN.STEP [10:8]. -/
def HBM_S_TRAIN_STEP (n : Nat) : RF := ⟨HBM_S_TRAIN n, 10, 8, 0⟩
/-- HBM_S_TRAIN.DONE [2:2]. -/
def HBM_S_TRAIN_DONE (n : Nat) : RF := ⟨HBM_S_TRAIN n, 2, 2, 0⟩
/-- HBM_S_TRAIN.PASS [1:1]. -/
def HBM_S_TRAIN_PASS (n : Nat) : RF := ⟨HBM_S_TRAIN n, 1, 1, 0⟩
/-- HBM_S_TRAIN.GO [0:0]. -/
def HBM_S_TRAIN_GO (n : Nat) : RF := ⟨HBM_S_TRAIN n, 0, 0, 0⟩
/-- DDR_C_TRAIN (R400). -/
def DDR_C_TRAIN (n : Nat) : Nat := 0xFF0A00001018 + n * 0x40
/-- DDR_C_TRAIN.RESULT [63:32]. -/
def DDR_C_TRAIN_RESULT (n : Nat) : RF := ⟨DDR_C_TRAIN n, 63, 32, 0⟩
/-- DDR_C_TRAIN.CHAN [15:11]. -/
def DDR_C_TRAIN_CHAN (n : Nat) : RF := ⟨DDR_C_TRAIN n, 15, 11, 0⟩
/-- DDR_C_TRAIN.STEP [10:8]. -/
def DDR_C_TRAIN_STEP (n : Nat) : RF := ⟨DDR_C_TRAIN n, 10, 8, 0⟩
/-- DDR_C_TRAIN.DONE [2:2]. -/
def DDR_C_TRAIN_DONE (n : Nat) : RF := ⟨DDR_C_TRAIN n, 2, 2, 0⟩
/-- DDR_C_TRAIN.PASS [1:1]. -/
def DDR_C_TRAIN_PASS (n : Nat) : RF := ⟨DDR_C_TRAIN n, 1, 1, 0⟩
/-- DDR_C_TRAIN.GO [0:0]. -/
def DDR_C_TRAIN_GO (n : Nat) : RF := ⟨DDR_C_TRAIN n, 0, 0, 0⟩
/-- DDR_CFG (R400). -/
def DDR_CFG : Nat := 0xFF0A00000000
/-- DDR_CFG.MTS [63:48]. -/
def DDR_CFG_MTS : RF := ⟨DDR_CFG, 63, 48, 0⟩
/-- DDR_CFG.USED [15:8]. -/
def DDR_CFG_USED : RF := ⟨DDR_CFG, 15, 8, 0⟩
/-- DDR_CFG.PRESENT [7:0]. -/
def DDR_CFG_PRESENT : RF := ⟨DDR_CFG, 7, 0, 0⟩
/-- DDR_C_STATUS (R400). -/
def DDR_C_STATUS (n : Nat) : Nat := 0xFF0A00001000 + n * 0x40
/-- DDR_C_STATUS.GIB [63:48]. -/
def DDR_C_STATUS_GIB (n : Nat) : RF := ⟨DDR_C_STATUS n, 63, 48, 0⟩
/-- DDR_C_STATUS.TYPE [41:40]. -/
def DDR_C_STATUS_TYPE (n : Nat) : RF := ⟨DDR_C_STATUS n, 41, 40, 0⟩
/-- DDR_C_STATUS.DPC [39:38]. -/
def DDR_C_STATUS_DPC (n : Nat) : RF := ⟨DDR_C_STATUS n, 39, 38, 0⟩
/-- DDR_C_STATUS.WIDTH [37:37]. -/
def DDR_C_STATUS_WIDTH (n : Nat) : RF := ⟨DDR_C_STATUS n, 37, 37, 0⟩
/-- DDR_C_STATUS.ROWBUF [34:32]. -/
def DDR_C_STATUS_ROWBUF (n : Nat) : RF := ⟨DDR_C_STATUS n, 34, 32, 0⟩
/-- DDR_C_STATUS.STATE [3:0]. -/
def DDR_C_STATUS_STATE (n : Nat) : RF := ⟨DDR_C_STATUS n, 3, 0, 0⟩
/-- RHZ_RAIL_COUNT (R400). -/
def RHZ_RAIL_COUNT (r c : Nat) : Nat := 0xFF0500000000 + r * 0x20 + c * 0x8
/-- RHZ_RAIL_COUNT.COUNT [63:0]. -/
def RHZ_RAIL_COUNT_V (r c : Nat) : RF := ⟨RHZ_RAIL_COUNT r c, 63, 0, 0⟩
/-- RHZ_HOP (R400). -/
def RHZ_HOP (k : Nat) : Nat := 0xFF0500001000 + k * 0x8
/-- RHZ_HOP.COUNT [63:0]. -/
def RHZ_HOP_V (k : Nat) : RF := ⟨RHZ_HOP k, 63, 0, 0⟩
/-- MEM_CFG_STATUS (R400). -/
def MEM_CFG_STATUS : Nat := 0xFF0B00000000
/-- MEM_CFG_STATUS.RANGE_REFUSED [9:9]. -/
def MEM_CFG_STATUS_RANGE_REFUSED : RF := ⟨MEM_CFG_STATUS, 9, 9, 0⟩
/-- MEM_CFG_STATUS.SPLIT_REFUSED [8:8]. -/
def MEM_CFG_STATUS_SPLIT_REFUSED : RF := ⟨MEM_CFG_STATUS, 8, 8, 0⟩
/-- MEM_CFG_STATUS.TOTAL [7:0]. -/
def MEM_CFG_STATUS_TOTAL : RF := ⟨MEM_CFG_STATUS, 7, 0, 0⟩
/-- MEM_PKT_HBM (R400). -/
def MEM_PKT_HBM (m : Nat) : Nat := 0xFF0B01000000 + m * 0x8
/-- MEM_PKT_HBM.ENTRIES [63:0]. -/
def MEM_PKT_HBM_V (m : Nat) : RF := ⟨MEM_PKT_HBM m, 63, 0, 0⟩
/-- MEM_PKT_DDR (R400). -/
def MEM_PKT_DDR (m : Nat) : Nat := 0xFF0B02000000 + m * 0x8
/-- MEM_PKT_DDR.ENTRIES [63:0]. -/
def MEM_PKT_DDR_V (m : Nat) : RF := ⟨MEM_PKT_DDR m, 63, 0, 0⟩
/-- MEM_P_SPLIT (R400). -/
def MEM_P_SPLIT (p : Nat) : Nat := 0xFF0B00010000 + p * 0x100
/-- MEM_P_SPLIT.REMOTE [23:16]. -/
def MEM_P_SPLIT_REMOTE (p : Nat) : RF := ⟨MEM_P_SPLIT p, 23, 16, 0⟩
/-- MEM_P_SPLIT.WRITE [15:8]. -/
def MEM_P_SPLIT_WRITE (p : Nat) : RF := ⟨MEM_P_SPLIT p, 15, 8, 0⟩
/-- MEM_P_SPLIT.READ [7:0]. -/
def MEM_P_SPLIT_READ (p : Nat) : RF := ⟨MEM_P_SPLIT p, 7, 0, 0⟩
/-- MEM_P_RANGE (R400). -/
def MEM_P_RANGE (p k : Nat) : Nat := 0xFF0B00010008 + p * 0x100 + k * 0x8
/-- MEM_P_RANGE.VALID [63:63]. -/
def MEM_P_RANGE_VALID (p k : Nat) : RF := ⟨MEM_P_RANGE p k, 63, 63, 0⟩
/-- MEM_P_RANGE.TIER [62:62]. -/
def MEM_P_RANGE_TIER (p k : Nat) : RF := ⟨MEM_P_RANGE p k, 62, 62, 0⟩
/-- MEM_P_RANGE.COUNT [53:32]. -/
def MEM_P_RANGE_COUNT (p k : Nat) : RF := ⟨MEM_P_RANGE p k, 53, 32, 0⟩
/-- MEM_P_RANGE.BASE [21:0]. -/
def MEM_P_RANGE_BASE (p k : Nat) : RF := ⟨MEM_P_RANGE p k, 21, 0, 0⟩
/-- MEM_P_KEY (R400). -/
def MEM_P_KEY (p : Nat) : Nat := 0xFF0B00010048 + p * 0x100
/-- MEM_P_KEY.GEN [63:48]. -/
def MEM_P_KEY_GEN (p : Nat) : RF := ⟨MEM_P_KEY p, 63, 48, 0⟩
/-- MEM_P_KEY.STATE [27:24]. -/
def MEM_P_KEY_STATE (p : Nat) : RF := ⟨MEM_P_KEY p, 27, 24, 0⟩
/-- MEM_P_KEY.NEWKEY [2:2]. -/
def MEM_P_KEY_NEWKEY (p : Nat) : RF := ⟨MEM_P_KEY p, 2, 2, 0⟩
/-- MEM_P_KEY.REFUSED [1:1]. -/
def MEM_P_KEY_REFUSED (p : Nat) : RF := ⟨MEM_P_KEY p, 1, 1, 0⟩
/-- MEM_P_KEY.ROTATE [0:0]. -/
def MEM_P_KEY_ROTATE (p : Nat) : RF := ⟨MEM_P_KEY p, 0, 0, 0⟩
/-- MEM_P_SWEEP (R400). -/
def MEM_P_SWEEP (p : Nat) : Nat := 0xFF0B00010050 + p * 0x100
/-- MEM_P_SWEEP.TIER [22:22]. -/
def MEM_P_SWEEP_TIER (p : Nat) : RF := ⟨MEM_P_SWEEP p, 22, 22, 0⟩
/-- MEM_P_SWEEP.PAGE [21:0]. -/
def MEM_P_SWEEP_PAGE (p : Nat) : RF := ⟨MEM_P_SWEEP p, 21, 0, 0⟩
/-- MEM_P_SWSTAT (R400). -/
def MEM_P_SWSTAT (p : Nat) : Nat := 0xFF0B00010058 + p * 0x100
/-- MEM_P_SWSTAT.OLDPAGES [63:40]. -/
def MEM_P_SWSTAT_OLDPAGES (p : Nat) : RF := ⟨MEM_P_SWSTAT p, 63, 40, 0⟩
/-- MEM_P_SWSTAT.REFUSED [39:39]. -/
def MEM_P_SWSTAT_REFUSED (p : Nat) : RF := ⟨MEM_P_SWSTAT p, 39, 39, 0⟩
/-- MEM_P_SWSTAT.STALLED [38:38]. -/
def MEM_P_SWSTAT_STALLED (p : Nat) : RF := ⟨MEM_P_SWSTAT p, 38, 38, 0⟩
/-- MEM_P_SWSTAT.MOVING [37:37]. -/
def MEM_P_SWSTAT_MOVING (p : Nat) : RF := ⟨MEM_P_SWSTAT p, 37, 37, 0⟩
/-- MEM_P_SWSTAT.TIER [36:36]. -/
def MEM_P_SWSTAT_TIER (p : Nat) : RF := ⟨MEM_P_SWSTAT p, 36, 36, 0⟩
/-- MEM_P_SWSTAT.PAGE [35:14]. -/
def MEM_P_SWSTAT_PAGE (p : Nat) : RF := ⟨MEM_P_SWSTAT p, 35, 14, 0⟩
/-- MEM_P_SWSTAT.LINE [12:0]. -/
def MEM_P_SWSTAT_LINE (p : Nat) : RF := ⟨MEM_P_SWSTAT p, 12, 0, 0⟩
/-- MEM_P_BYTES (R400). -/
def MEM_P_BYTES (p c : Nat) : Nat := 0xFF0B00010080 + p * 0x100 + c * 0x8
/-- MEM_P_BYTES.COUNT [63:0]. -/
def MEM_P_BYTES_V (p c : Nat) : RF := ⟨MEM_P_BYTES p c, 63, 0, 0⟩
/-- ETH_P_CTRL (R438). -/
def ETH_P_CTRL (n : Nat) : Nat := 0xFF0C00000000 + n * 0x100
/-- ETH_P_CTRL.VF [63:56]. -/
def ETH_P_CTRL_VF (n : Nat) : RF := ⟨ETH_P_CTRL n, 63, 56, 179⟩
/-- ETH_P_CTRL.LLDP_S [55:48]. -/
def ETH_P_CTRL_LLDP_S (n : Nat) : RF := ⟨ETH_P_CTRL n, 55, 48, 30⟩
/-- ETH_P_CTRL.MTU [47:32]. -/
def ETH_P_CTRL_MTU (n : Nat) : RF := ⟨ETH_P_CTRL n, 47, 32, 9000⟩
/-- ETH_P_CTRL.XPN [7:7]. -/
def ETH_P_CTRL_XPN (n : Nat) : RF := ⟨ETH_P_CTRL n, 7, 7, 1⟩
/-- ETH_P_CTRL.PTP_EN [6:6]. -/
def ETH_P_CTRL_PTP_EN (n : Nat) : RF := ⟨ETH_P_CTRL n, 6, 6, 1⟩
/-- ETH_P_CTRL.MACSEC_REQ [5:5]. -/
def ETH_P_CTRL_MACSEC_REQ (n : Nat) : RF := ⟨ETH_P_CTRL n, 5, 5, 1⟩
/-- ETH_P_CTRL.IPV [4:4]. -/
def ETH_P_CTRL_IPV (n : Nat) : RF := ⟨ETH_P_CTRL n, 4, 4, 0⟩
/-- ETH_P_CTRL.MEDIUM [3:2]. -/
def ETH_P_CTRL_MEDIUM (n : Nat) : RF := ⟨ETH_P_CTRL n, 3, 2, 0⟩
/-- ETH_P_CTRL.EN [0:0]. -/
def ETH_P_CTRL_EN (n : Nat) : RF := ⟨ETH_P_CTRL n, 0, 0, 0⟩
/-- ETH_P_STATUS (R438). -/
def ETH_P_STATUS (n : Nat) : Nat := 0xFF0C00000008 + n * 0x100
/-- ETH_P_STATUS.RETRAINS [63:32]. -/
def ETH_P_STATUS_RETRAINS (n : Nat) : RF := ⟨ETH_P_STATUS n, 63, 32, 0⟩
/-- ETH_P_STATUS.PARTNER [16:16]. -/
def ETH_P_STATUS_PARTNER (n : Nat) : RF := ⟨ETH_P_STATUS n, 16, 16, 0⟩
/-- ETH_P_STATUS.LANES [11:8]. -/
def ETH_P_STATUS_LANES (n : Nat) : RF := ⟨ETH_P_STATUS n, 11, 8, 0⟩
/-- ETH_P_STATUS.STATE [3:0]. -/
def ETH_P_STATUS_STATE (n : Nat) : RF := ⟨ETH_P_STATUS n, 3, 0, 0⟩
/-- ETH_P_MAC (R438). -/
def ETH_P_MAC (n : Nat) : Nat := 0xFF0C00000010 + n * 0x100
/-- ETH_P_MAC.MAC [47:0]. -/
def ETH_P_MAC_MAC (n : Nat) : RF := ⟨ETH_P_MAC n, 47, 0, 0⟩
/-- ETH_P_IP0 (R438). -/
def ETH_P_IP0 (n : Nat) : Nat := 0xFF0C00000018 + n * 0x100
/-- ETH_P_IP0.ADDR [63:0]. -/
def ETH_P_IP0_V (n : Nat) : RF := ⟨ETH_P_IP0 n, 63, 0, 0⟩
/-- ETH_P_IP1 (R438). -/
def ETH_P_IP1 (n : Nat) : Nat := 0xFF0C00000020 + n * 0x100
/-- ETH_P_IP1.ADDR [63:0]. -/
def ETH_P_IP1_V (n : Nat) : RF := ⟨ETH_P_IP1 n, 63, 0, 0⟩
/-- ETH_P_CABLE (R438). -/
def ETH_P_CABLE (n : Nat) : Nat := 0xFF0C00000028 + n * 0x100
/-- ETH_P_CABLE.VALID [63:63]. -/
def ETH_P_CABLE_VALID (n : Nat) : RF := ⟨ETH_P_CABLE n, 63, 63, 0⟩
/-- ETH_P_CABLE.LENGTH [47:32]. -/
def ETH_P_CABLE_LENGTH (n : Nat) : RF := ⟨ETH_P_CABLE n, 47, 32, 0⟩
/-- ETH_P_CABLE.DELAY [31:0]. -/
def ETH_P_CABLE_DELAY (n : Nat) : RF := ⟨ETH_P_CABLE n, 31, 0, 0⟩
/-- ETH_P_COUNT (R438). -/
def ETH_P_COUNT (n c : Nat) : Nat := 0xFF0C00000040 + n * 0x100 + c * 0x8
/-- ETH_P_COUNT.COUNT [63:0]. -/
def ETH_P_COUNT_V (n c : Nat) : RF := ⟨ETH_P_COUNT n c, 63, 0, 0⟩
/-- ETH_FAILOVER (R438). -/
def ETH_FAILOVER : Nat := 0xFF0C00002000
/-- ETH_FAILOVER.SERVING [20:16]. -/
def ETH_FAILOVER_SERVING : RF := ⟨ETH_FAILOVER, 20, 16, 31⟩
/-- ETH_FAILOVER.TARGET [12:8]. -/
def ETH_FAILOVER_TARGET : RF := ⟨ETH_FAILOVER, 12, 8, 31⟩
/-- ETH_FAILOVER.FAILBACK [2:2]. -/
def ETH_FAILOVER_FAILBACK : RF := ⟨ETH_FAILOVER, 2, 2, 0⟩
/-- ETH_FAILOVER.FORCE [1:1]. -/
def ETH_FAILOVER_FORCE : RF := ⟨ETH_FAILOVER, 1, 1, 0⟩
/-- ETH_FAILOVER.AUTO [0:0]. -/
def ETH_FAILOVER_AUTO : RF := ⟨ETH_FAILOVER, 0, 0, 1⟩
/-- NOP_CFG (R439). -/
def NOP_CFG : Nat := 0xFF0D00000000
/-- NOP_CFG.FRAME [52:32]. -/
def NOP_CFG_FRAME : RF := ⟨NOP_CFG, 52, 32, 10500⟩
/-- NOP_CFG.DSCP [31:26]. -/
def NOP_CFG_DSCP : RF := ⟨NOP_CFG, 31, 26, 0⟩
/-- NOP_CFG.VERSION [23:16]. -/
def NOP_CFG_VERSION : RF := ⟨NOP_CFG, 23, 16, 1⟩
/-- NOP_CFG.UDP [15:0]. -/
def NOP_CFG_UDP : RF := ⟨NOP_CFG, 15, 0, 49531⟩
/-- NOP_RECOVER (R439). -/
def NOP_RECOVER : Nat := 0xFF0D00000008
/-- NOP_RECOVER.CTX [43:32]. -/
def NOP_RECOVER_CTX : RF := ⟨NOP_RECOVER, 43, 32, 0⟩
/-- NOP_RECOVER.ACTION [1:0]. -/
def NOP_RECOVER_ACTION : RF := ⟨NOP_RECOVER, 1, 0, 0⟩
/-- NOP_PUSH (R439). -/
def NOP_PUSH : Nat := 0xFF0D00000010
/-- NOP_PUSH.VALID [63:63]. -/
def NOP_PUSH_VALID : RF := ⟨NOP_PUSH, 63, 63, 0⟩
/-- NOP_PUSH.CTX [11:0]. -/
def NOP_PUSH_CTX : RF := ⟨NOP_PUSH, 11, 0, 0⟩
/-- NOP_P_WIN (R439). -/
def NOP_P_WIN (n w : Nat) : Nat := 0xFF0D00001000 + n * 0x200 + w * 0x8
/-- NOP_P_WIN.VALID [63:63]. -/
def NOP_P_WIN_VALID (n w : Nat) : RF := ⟨NOP_P_WIN n w, 63, 63, 0⟩
/-- NOP_P_WIN.PART [59:56]. -/
def NOP_P_WIN_PART (n w : Nat) : RF := ⟨NOP_P_WIN n w, 59, 56, 0⟩
/-- NOP_P_WIN.LEN [52:32]. -/
def NOP_P_WIN_LEN (n w : Nat) : RF := ⟨NOP_P_WIN n w, 52, 32, 0⟩
/-- NOP_P_WIN.START [20:0]. -/
def NOP_P_WIN_START (n w : Nat) : RF := ⟨NOP_P_WIN n w, 20, 0, 0⟩
/-- NOP_P_ENTRY (R439). -/
def NOP_P_ENTRY (p : Nat) : Nat := 0xFF0D00010000 + p * 0x100
/-- NOP_P_ENTRY.VALID [63:63]. -/
def NOP_P_ENTRY_VALID (p : Nat) : RF := ⟨NOP_P_ENTRY p, 63, 63, 0⟩
/-- NOP_P_ENTRY.TILE [23:16]. -/
def NOP_P_ENTRY_TILE (p : Nat) : RF := ⟨NOP_P_ENTRY p, 23, 16, 0⟩
/-- NOP_P_ENTRY.FROND [10:8]. -/
def NOP_P_ENTRY_FROND (p : Nat) : RF := ⟨NOP_P_ENTRY p, 10, 8, 0⟩
/-- NOP_P_ENTRY.QUEUE [5:0]. -/
def NOP_P_ENTRY_QUEUE (p : Nat) : RF := ⟨NOP_P_ENTRY p, 5, 0, 0⟩
/-- NOP_CTX_CFG (R439). -/
def NOP_CTX_CFG (c : Nat) : Nat := 0xFF0D00100000 + c * 0x40
/-- NOP_CTX_CFG.KIND [63:62]. -/
def NOP_CTX_CFG_KIND (c : Nat) : RF := ⟨NOP_CTX_CFG c, 63, 62, 0⟩
/-- NOP_CTX_CFG.PART [59:56]. -/
def NOP_CTX_CFG_PART (c : Nat) : RF := ⟨NOP_CTX_CFG c, 59, 56, 0⟩
/-- NOP_CTX_CFG.RETRY_MAX [55:52]. -/
def NOP_CTX_CFG_RETRY_MAX (c : Nat) : RF := ⟨NOP_CTX_CFG c, 55, 52, 3⟩
/-- NOP_CTX_CFG.PORT [51:47]. -/
def NOP_CTX_CFG_PORT (c : Nat) : RF := ⟨NOP_CTX_CFG c, 51, 47, 1⟩
/-- NOP_CTX_CFG.RCTX [43:32]. -/
def NOP_CTX_CFG_RCTX (c : Nat) : RF := ⟨NOP_CTX_CFG c, 43, 32, 0⟩
/-- NOP_CTX_CFG.RTO [31:0]. -/
def NOP_CTX_CFG_RTO (c : Nat) : RF := ⟨NOP_CTX_CFG c, 31, 0, 21000⟩
/-- NOP_CTX_ADDR0 (R439). -/
def NOP_CTX_ADDR0 (c : Nat) : Nat := 0xFF0D00100008 + c * 0x40
/-- NOP_CTX_ADDR0.ADDR [63:0]. -/
def NOP_CTX_ADDR0_V (c : Nat) : RF := ⟨NOP_CTX_ADDR0 c, 63, 0, 0⟩
/-- NOP_CTX_ADDR1 (R439). -/
def NOP_CTX_ADDR1 (c : Nat) : Nat := 0xFF0D00100010 + c * 0x40
/-- NOP_CTX_ADDR1.ADDR [63:0]. -/
def NOP_CTX_ADDR1_V (c : Nat) : RF := ⟨NOP_CTX_ADDR1 c, 63, 0, 0⟩
/-- NOP_CTX_STATE (R439). -/
def NOP_CTX_STATE (c : Nat) : Nat := 0xFF0D00100018 + c * 0x40
/-- NOP_CTX_STATE.INCARN [63:32]. -/
def NOP_CTX_STATE_INCARN (c : Nat) : RF := ⟨NOP_CTX_STATE c, 63, 32, 0⟩
/-- NOP_CTX_STATE.UNACKED [23:16]. -/
def NOP_CTX_STATE_UNACKED (c : Nat) : RF := ⟨NOP_CTX_STATE c, 23, 16, 0⟩
/-- NOP_CTX_STATE.REASON [11:8]. -/
def NOP_CTX_STATE_REASON (c : Nat) : RF := ⟨NOP_CTX_STATE c, 11, 8, 0⟩
/-- NOP_CTX_STATE.OPEN [7:7]. -/
def NOP_CTX_STATE_OPEN (c : Nat) : RF := ⟨NOP_CTX_STATE c, 7, 7, 0⟩
/-- NOP_CTX_STATE.CLOSE [6:6]. -/
def NOP_CTX_STATE_CLOSE (c : Nat) : RF := ⟨NOP_CTX_STATE c, 6, 6, 0⟩
/-- NOP_CTX_STATE.STATE [3:0]. -/
def NOP_CTX_STATE_STATE (c : Nat) : RF := ⟨NOP_CTX_STATE c, 3, 0, 0⟩
/-- NOP_CTX_SEQ (R439). -/
def NOP_CTX_SEQ (c : Nat) : Nat := 0xFF0D00100020 + c * 0x40
/-- NOP_CTX_SEQ.NEXT_TX [63:32]. -/
def NOP_CTX_SEQ_NEXT_TX (c : Nat) : RF := ⟨NOP_CTX_SEQ c, 63, 32, 0⟩
/-- NOP_CTX_SEQ.NEXT_RX [31:0]. -/
def NOP_CTX_SEQ_NEXT_RX (c : Nat) : RF := ⟨NOP_CTX_SEQ c, 31, 0, 0⟩
/-- NOP_CTX_COUNT (R439). -/
def NOP_CTX_COUNT (c k : Nat) : Nat := 0xFF0D00100028 + c * 0x40 + k * 0x8
/-- NOP_CTX_COUNT.COUNT [63:0]. -/
def NOP_CTX_COUNT_V (c k : Nat) : RF := ⟨NOP_CTX_COUNT c k, 63, 0, 0⟩
/-- PART_STATUS (R471). -/
def PART_STATUS : Nat := 0xFF0300000000
/-- PART_STATUS.CLEARING [47:32]. -/
def PART_STATUS_CLEARING : RF := ⟨PART_STATUS, 47, 32, 0⟩
/-- PART_STATUS.SEALED [31:16]. -/
def PART_STATUS_SEALED : RF := ⟨PART_STATUS, 31, 16, 0⟩
/-- PART_STATUS.OPEN [15:0]. -/
def PART_STATUS_OPEN : RF := ⟨PART_STATUS, 15, 0, 0⟩
/-- PART_TILEMAP (R471). -/
def PART_TILEMAP (k : Nat) : Nat := 0xFF0300000100 + k * 0x8
/-- PART_TILEMAP.PARTS [63:0]. -/
def PART_TILEMAP_V (k : Nat) : RF := ⟨PART_TILEMAP k, 63, 0, 0⟩
/-- PART_P_CFG (R471). -/
def PART_P_CFG (p : Nat) : Nat := 0xFF0300010000 + p * 0x100
/-- PART_P_CFG.STALL_LIMIT [63:32]. -/
def PART_P_CFG_STALL_LIMIT (p : Nat) : RF := ⟨PART_P_CFG p, 63, 32, 1050000⟩
/-- PART_P_CFG.RECT [31:16]. -/
def PART_P_CFG_RECT (p : Nat) : RF := ⟨PART_P_CFG p, 31, 16, 0⟩
/-- PART_P_CFG.RETENTION [9:8]. -/
def PART_P_CFG_RETENTION (p : Nat) : RF := ⟨PART_P_CFG p, 9, 8, 0⟩
/-- PART_P_CFG.MAP [4:4]. -/
def PART_P_CFG_MAP (p : Nat) : RF := ⟨PART_P_CFG p, 4, 4, 0⟩
/-- PART_P_CMD (R471). -/
def PART_P_CMD (p : Nat) : Nat := 0xFF0300010008 + p * 0x100
/-- PART_P_CMD.TEARDOWN [2:2]. -/
def PART_P_CMD_TEARDOWN (p : Nat) : RF := ⟨PART_P_CMD p, 2, 2, 0⟩
/-- PART_P_CMD.SEAL [1:1]. -/
def PART_P_CMD_SEAL (p : Nat) : RF := ⟨PART_P_CMD p, 1, 1, 0⟩
/-- PART_P_CMD.CREATE [0:0]. -/
def PART_P_CMD_CREATE (p : Nat) : RF := ⟨PART_P_CMD p, 0, 0, 0⟩
/-- PART_P_STATE (R471). -/
def PART_P_STATE (p : Nat) : Nat := 0xFF0300010010 + p * 0x100
/-- PART_P_STATE.EXPOSURES [63:32]. -/
def PART_P_STATE_EXPOSURES (p : Nat) : RF := ⟨PART_P_STATE p, 63, 32, 0⟩
/-- PART_P_STATE.REASON [23:20]. -/
def PART_P_STATE_REASON (p : Nat) : RF := ⟨PART_P_STATE p, 23, 20, 0⟩
/-- PART_P_STATE.REFUSED [16:16]. -/
def PART_P_STATE_REFUSED (p : Nat) : RF := ⟨PART_P_STATE p, 16, 16, 0⟩
/-- PART_P_STATE.OWNER_KEY [9:9]. -/
def PART_P_STATE_OWNER_KEY (p : Nat) : RF := ⟨PART_P_STATE p, 9, 9, 0⟩
/-- PART_P_STATE.EXPOSED [8:8]. -/
def PART_P_STATE_EXPOSED (p : Nat) : RF := ⟨PART_P_STATE p, 8, 8, 0⟩
/-- PART_P_STATE.STATE [3:0]. -/
def PART_P_STATE_STATE (p : Nat) : RF := ⟨PART_P_STATE p, 3, 0, 0⟩
/-- PART_P_EXPTIME (R471). -/
def PART_P_EXPTIME (p : Nat) : Nat := 0xFF0300010018 + p * 0x100
/-- PART_P_EXPTIME.TIME [63:0]. -/
def PART_P_EXPTIME_V (p : Nat) : RF := ⟨PART_P_EXPTIME p, 63, 0, 18446744073709551615⟩
/-- PART_P_TKEY (R471). -/
def PART_P_TKEY (p k : Nat) : Nat := 0xFF0300010040 + p * 0x100 + k * 0x8
/-- PART_P_TKEY.BYTES [63:0]. -/
def PART_P_TKEY_V (p k : Nat) : RF := ⟨PART_P_TKEY p k, 63, 0, 0⟩
/-- PART_P_CDIGEST (R471). -/
def PART_P_CDIGEST (p k : Nat) : Nat := 0xFF0300010080 + p * 0x100 + k * 0x8
/-- PART_P_CDIGEST.BYTES [63:0]. -/
def PART_P_CDIGEST_V (p k : Nat) : RF := ⟨PART_P_CDIGEST p k, 63, 0, 0⟩
/-- SEC_BOOT_STATUS (R472). -/
def SEC_BOOT_STATUS : Nat := 0xFF0E00000000
/-- SEC_BOOT_STATUS.ATTEMPTS [47:32]. -/
def SEC_BOOT_STATUS_ATTEMPTS : RF := ⟨SEC_BOOT_STATUS, 47, 32, 0⟩
/-- SEC_BOOT_STATUS.FRAME [31:24]. -/
def SEC_BOOT_STATUS_FRAME : RF := ⟨SEC_BOOT_STATUS, 31, 24, 0⟩
/-- SEC_BOOT_STATUS.RESULT [23:16]. -/
def SEC_BOOT_STATUS_RESULT : RF := ⟨SEC_BOOT_STATUS, 23, 16, 0⟩
/-- SEC_BOOT_STATUS.SIGNER [9:9]. -/
def SEC_BOOT_STATUS_SIGNER : RF := ⟨SEC_BOOT_STATUS, 9, 9, 0⟩
/-- SEC_BOOT_STATUS.SOURCE [8:8]. -/
def SEC_BOOT_STATUS_SOURCE : RF := ⟨SEC_BOOT_STATUS, 8, 8, 0⟩
/-- SEC_BOOT_STATUS.STATE [3:0]. -/
def SEC_BOOT_STATUS_STATE : RF := ⟨SEC_BOOT_STATUS, 3, 0, 0⟩
/-- SEC_SVN (R472). -/
def SEC_SVN : Nat := 0xFF0E00000008
/-- SEC_SVN.IMAGE_SVN [63:32]. -/
def SEC_SVN_IMAGE_SVN : RF := ⟨SEC_SVN, 63, 32, 0⟩
/-- SEC_SVN.COUNTER [6:0]. -/
def SEC_SVN_COUNTER : RF := ⟨SEC_SVN, 6, 0, 0⟩
/-- SEC_OWNER (R472). -/
def SEC_OWNER : Nat := 0xFF0E00000010
/-- SEC_OWNER.IMGKEY_SLOTS [15:12]. -/
def SEC_OWNER_IMGKEY_SLOTS : RF := ⟨SEC_OWNER, 15, 12, 0⟩
/-- SEC_OWNER.OWNER_SLOTS [11:8]. -/
def SEC_OWNER_OWNER_SLOTS : RF := ⟨SEC_OWNER, 11, 8, 0⟩
/-- SEC_OWNER.QUEUED [5:0]. -/
def SEC_OWNER_QUEUED : RF := ⟨SEC_OWNER, 5, 0, 0⟩
/-- SEC_DIE_LOT (R472). -/
def SEC_DIE_LOT (d : Nat) : Nat := 0xFF0E00000100 + d * 0x10
/-- SEC_DIE_LOT.LOT [63:0]. -/
def SEC_DIE_LOT_V (d : Nat) : RF := ⟨SEC_DIE_LOT d, 63, 0, 0⟩
/-- SEC_DIE_POS (R472). -/
def SEC_DIE_POS (d : Nat) : Nat := 0xFF0E00000108 + d * 0x10
/-- SEC_DIE_POS.DIE_Y [23:16]. -/
def SEC_DIE_POS_DIE_Y (d : Nat) : RF := ⟨SEC_DIE_POS d, 23, 16, 0⟩
/-- SEC_DIE_POS.DIE_X [15:8]. -/
def SEC_DIE_POS_DIE_X (d : Nat) : RF := ⟨SEC_DIE_POS d, 15, 8, 0⟩
/-- SEC_DIE_POS.WAFER [7:0]. -/
def SEC_DIE_POS_WAFER (d : Nat) : RF := ⟨SEC_DIE_POS d, 7, 0, 0⟩
/-- SEC_SERIAL (R472). -/
def SEC_SERIAL (k : Nat) : Nat := 0xFF0E00000180 + k * 0x8
/-- SEC_SERIAL.BYTES [63:0]. -/
def SEC_SERIAL_V (k : Nat) : RF := ⟨SEC_SERIAL k, 63, 0, 0⟩
/-- SEC_DEVICE_ID (R472). -/
def SEC_DEVICE_ID (k : Nat) : Nat := 0xFF0E00000200 + k * 0x8
/-- SEC_DEVICE_ID.BYTES [63:0]. -/
def SEC_DEVICE_ID_V (k : Nat) : RF := ⟨SEC_DEVICE_ID k, 63, 0, 0⟩
/-- SEC_IMAGE_DIGEST (R472). -/
def SEC_IMAGE_DIGEST (k : Nat) : Nat := 0xFF0E00000240 + k * 0x8
/-- SEC_IMAGE_DIGEST.BYTES [63:0]. -/
def SEC_IMAGE_DIGEST_V (k : Nat) : RF := ⟨SEC_IMAGE_DIGEST k, 63, 0, 0⟩
/-- SEC_DMC_DIGEST (R472). -/
def SEC_DMC_DIGEST (k : Nat) : Nat := 0xFF0E00000280 + k * 0x8
/-- SEC_DMC_DIGEST.BYTES [63:0]. -/
def SEC_DMC_DIGEST_V (k : Nat) : RF := ⟨SEC_DMC_DIGEST k, 63, 0, 0⟩
/-- MTR_ID (R488). -/
def MTR_ID : Nat := 0xFF0F00000000
/-- MTR_ID.METER_VERSION [63:32]. -/
def MTR_ID_METER_VERSION : RF := ⟨MTR_ID, 63, 32, 0⟩
/-- MTR_ID.INTERVAL [31:20]. -/
def MTR_ID_INTERVAL : RF := ⟨MTR_ID, 31, 20, 0⟩
/-- MTR_STATUS (R488). -/
def MTR_STATUS : Nat := 0xFF0F00000008
/-- MTR_STATUS.STRIP_FAULT [41:32]. -/
def MTR_STATUS_STRIP_FAULT : RF := ⟨MTR_STATUS, 41, 32, 0⟩
/-- MTR_STATUS.RANGE [3:3]. -/
def MTR_STATUS_RANGE : RF := ⟨MTR_STATUS, 3, 3, 0⟩
/-- MTR_STATUS.CAL_OK [2:2]. -/
def MTR_STATUS_CAL_OK : RF := ⟨MTR_STATUS, 2, 2, 0⟩
/-- MTR_STATUS.ROM_OK [1:1]. -/
def MTR_STATUS_ROM_OK : RF := ⟨MTR_STATUS, 1, 1, 0⟩
/-- MTR_STATUS.SEAL [0:0]. -/
def MTR_STATUS_SEAL : RF := ⟨MTR_STATUS, 0, 0, 0⟩
/-- MTR_NOW (R488). -/
def MTR_NOW : Nat := 0xFF0F00000010
/-- MTR_NOW.VALUE [63:0]. -/
def MTR_NOW_V : RF := ⟨MTR_NOW, 63, 0, 0⟩
/-- MTR_OLDEST (R488). -/
def MTR_OLDEST : Nat := 0xFF0F00000018
/-- MTR_OLDEST.VALUE [63:0]. -/
def MTR_OLDEST_V : RF := ⟨MTR_OLDEST, 63, 0, 0⟩
/-- MTR_NEWEST (R488). -/
def MTR_NEWEST : Nat := 0xFF0F00000020
/-- MTR_NEWEST.VALUE [63:0]. -/
def MTR_NEWEST_V : RF := ⟨MTR_NEWEST, 63, 0, 0⟩
/-- MTR_CHAIN (R488). -/
def MTR_CHAIN (k : Nat) : Nat := 0xFF0F00000040 + k * 0x8
/-- MTR_CHAIN.BYTES [63:0]. -/
def MTR_CHAIN_V (k : Nat) : RF := ⟨MTR_CHAIN k, 63, 0, 0⟩
/-- MTR_RAIL_E (R488). -/
def MTR_RAIL_E (r : Nat) : Nat := 0xFF0F00000080 + r * 0x8
/-- MTR_RAIL_E.VALUE [63:0]. -/
def MTR_RAIL_E_V (r : Nat) : RF := ⟨MTR_RAIL_E r, 63, 0, 0⟩
/-- MTR_RAIL_P (R488). -/
def MTR_RAIL_P (r : Nat) : Nat := 0xFF0F00000100 + r * 0x8
/-- MTR_RAIL_P.VALUE [63:0]. -/
def MTR_RAIL_P_V (r : Nat) : RF := ⟨MTR_RAIL_P r, 63, 0, 0⟩
/-- MTR_WEIGHT (R488). -/
def MTR_WEIGHT (k : Nat) : Nat := 0xFF0F00000180 + k * 0x8
/-- MTR_WEIGHT.FJ [63:0]. -/
def MTR_WEIGHT_V (k : Nat) : RF := ⟨MTR_WEIGHT k, 63, 0, 0⟩
/-- MTR_PKEY (R488). -/
def MTR_PKEY (k : Nat) : Nat := 0xFF0F00001000 + k * 0x8
/-- MTR_PKEY.BYTES [63:0]. -/
def MTR_PKEY_V (k : Nat) : RF := ⟨MTR_PKEY k, 63, 0, 0⟩
/-- MTR_REC (R488). -/
def MTR_REC (s k : Nat) : Nat := 0xFF0F00010000 + s * 0x2000 + k * 0x8
/-- MTR_REC.BYTES [63:0]. -/
def MTR_REC_V (s k : Nat) : RF := ⟨MTR_REC s k, 63, 0, 0⟩
/-- SPR_STATUS (R518). -/
def SPR_STATUS : Nat := 0xFF0700000000
/-- SPR_STATUS.PENDING [63:48]. -/
def SPR_STATUS_PENDING : RF := ⟨SPR_STATUS, 63, 48, 0⟩
/-- SPR_STATUS.REASONS [31:16]. -/
def SPR_STATUS_REASONS : RF := ⟨SPR_STATUS, 31, 16, 0⟩
/-- SPR_STATUS.LEVEL [1:0]. -/
def SPR_STATUS_LEVEL : RF := ⟨SPR_STATUS, 1, 0, 0⟩
/-- SPR_CFG (R518). -/
def SPR_CFG : Nat := 0xFF0700000008
/-- SPR_CFG.CE_LIMIT [63:48]. -/
def SPR_CFG_CE_LIMIT : RF := ⟨SPR_CFG, 63, 48, 1000⟩
/-- SPR_CFG.ADVISE_PS [47:40]. -/
def SPR_CFG_ADVISE_PS : RF := ⟨SPR_CFG, 47, 40, 40⟩
/-- SPR_CFG.FAIL_PS [39:32]. -/
def SPR_CFG_FAIL_PS : RF := ⟨SPR_CFG, 39, 32, 12⟩
/-- SPR_CFG.FAULT_LEVEL [1:0]. -/
def SPR_CFG_FAULT_LEVEL : RF := ⟨SPR_CFG, 1, 0, 2⟩
/-- SPR_CMD (R518). -/
def SPR_CMD : Nat := 0xFF0700000010
/-- SPR_CMD.TARGET [47:32]. -/
def SPR_CMD_TARGET : RF := ⟨SPR_CMD, 47, 32, 0⟩
/-- SPR_CMD.LINE [31:16]. -/
def SPR_CMD_LINE : RF := ⟨SPR_CMD, 31, 16, 0⟩
/-- SPR_CMD.KIND [11:8]. -/
def SPR_CMD_KIND : RF := ⟨SPR_CMD, 11, 8, 0⟩
/-- SPR_CMD.REFUSED [1:1]. -/
def SPR_CMD_REFUSED : RF := ⟨SPR_CMD, 1, 1, 0⟩
/-- SPR_CMD.GO [0:0]. -/
def SPR_CMD_GO : RF := ⟨SPR_CMD, 0, 0, 0⟩
/-- SPR_ACTION (R518). -/
def SPR_ACTION : Nat := 0xFF0700000018
/-- SPR_ACTION.CYCLES [63:32]. -/
def SPR_ACTION_CYCLES : RF := ⟨SPR_ACTION, 63, 32, 0⟩
/-- SPR_ACTION.TARGET [31:24]. -/
def SPR_ACTION_TARGET : RF := ⟨SPR_ACTION, 31, 24, 0⟩
/-- SPR_ACTION.BLOCKING [23:20]. -/
def SPR_ACTION_BLOCKING : RF := ⟨SPR_ACTION, 23, 20, 0⟩
/-- SPR_ACTION.STATE [2:0]. -/
def SPR_ACTION_STATE : RF := ⟨SPR_ACTION, 2, 0, 0⟩
/-- SPR_DIE (R518). -/
def SPR_DIE (d : Nat) : Nat := 0xFF0700000100 + d * 0x8
/-- SPR_DIE.COLUMN [31:16]. -/
def SPR_DIE_COLUMN (d : Nat) : RF := ⟨SPR_DIE d, 31, 16, 0⟩
/-- SPR_DIE.RETIRED [15:8]. -/
def SPR_DIE_RETIRED (d : Nat) : RF := ⟨SPR_DIE d, 15, 8, 0⟩
/-- SPR_DIE.UNUSABLE [3:0]. -/
def SPR_DIE_UNUSABLE (d : Nat) : RF := ⟨SPR_DIE d, 3, 0, 0⟩
/-- SPR_T_HEALTH (R518). -/
def SPR_T_HEALTH (n : Nat) : Nat := 0xFF0700010000 + n * 0x8
/-- SPR_T_HEALTH.FENCE_EPOCH [63:48]. -/
def SPR_T_HEALTH_FENCE_EPOCH (n : Nat) : RF := ⟨SPR_T_HEALTH n, 63, 48, 0⟩
/-- SPR_T_HEALTH.TEMP [47:40]. -/
def SPR_T_HEALTH_TEMP (n : Nat) : RF := ⟨SPR_T_HEALTH n, 47, 40, 0⟩
/-- SPR_T_HEALTH.ADVISED [33:33]. -/
def SPR_T_HEALTH_ADVISED (n : Nat) : RF := ⟨SPR_T_HEALTH n, 33, 33, 0⟩
/-- SPR_T_HEALTH.FENCED [32:32]. -/
def SPR_T_HEALTH_FENCED (n : Nat) : RF := ⟨SPR_T_HEALTH n, 32, 32, 0⟩
/-- SPR_T_HEALTH.MARGIN [15:0]. -/
def SPR_T_HEALTH_MARGIN (n : Nat) : RF := ⟨SPR_T_HEALTH n, 15, 0, 0⟩
/-- FLT_SEQ (R519). -/
def FLT_SEQ : Nat := 0xFF0800000000
/-- FLT_SEQ.SEQ [31:0]. -/
def FLT_SEQ_SEQ : RF := ⟨FLT_SEQ, 31, 0, 0⟩
/-- FLT_COUNT (R519). -/
def FLT_COUNT (c : Nat) : Nat := 0xFF0800000008 + c * 0x8
/-- FLT_COUNT.COUNT [63:0]. -/
def FLT_COUNT_V (c : Nat) : RF := ⟨FLT_COUNT c, 63, 0, 0⟩
/-- FLT_SCRUB_CFG (R519). -/
def FLT_SCRUB_CFG : Nat := 0xFF0800000040
/-- FLT_SCRUB_CFG.INTERVAL [15:0]. -/
def FLT_SCRUB_CFG_INTERVAL : RF := ⟨FLT_SCRUB_CFG, 15, 0, 64⟩
/-- FLT_SCRUB_CMD (R519). -/
def FLT_SCRUB_CMD : Nat := 0xFF0800000048
/-- FLT_SCRUB_CMD.DONE [63:63]. -/
def FLT_SCRUB_CMD_DONE : RF := ⟨FLT_SCRUB_CMD, 63, 63, 0⟩
/-- FLT_SCRUB_CMD.GO [62:62]. -/
def FLT_SCRUB_CMD_GO : RF := ⟨FLT_SCRUB_CMD, 62, 62, 0⟩
/-- FLT_SCRUB_CMD.TIER [61:60]. -/
def FLT_SCRUB_CMD_TIER : RF := ⟨FLT_SCRUB_CMD, 61, 60, 0⟩
/-- FLT_SCRUB_CMD.TILE [59:52]. -/
def FLT_SCRUB_CMD_TILE : RF := ⟨FLT_SCRUB_CMD, 59, 52, 0⟩
/-- FLT_SCRUB_CMD.FIRST [51:26]. -/
def FLT_SCRUB_CMD_FIRST : RF := ⟨FLT_SCRUB_CMD, 51, 26, 0⟩
/-- FLT_SCRUB_CMD.COUNT [25:0]. -/
def FLT_SCRUB_CMD_COUNT : RF := ⟨FLT_SCRUB_CMD, 25, 0, 0⟩
/-- FLT_WALKER (R519). -/
def FLT_WALKER (w : Nat) : Nat := 0xFF0800000100 + w * 0x8
/-- FLT_WALKER.PASSES [63:48]. -/
def FLT_WALKER_PASSES (w : Nat) : RF := ⟨FLT_WALKER w, 63, 48, 0⟩
/-- FLT_WALKER.RESETS [47:40]. -/
def FLT_WALKER_RESETS (w : Nat) : RF := ⟨FLT_WALKER w, 47, 40, 0⟩
/-- FLT_WALKER.VOTES [39:24]. -/
def FLT_WALKER_VOTES (w : Nat) : RF := ⟨FLT_WALKER w, 39, 24, 0⟩
/-- FLT_WALKER.STOPPED [23:23]. -/
def FLT_WALKER_STOPPED (w : Nat) : RF := ⟨FLT_WALKER w, 23, 23, 0⟩
/-- FLT_WALKER.POSITION [7:0]. -/
def FLT_WALKER_POSITION (w : Nat) : RF := ⟨FLT_WALKER w, 7, 0, 0⟩
/-- FLT_PATROL (R519). -/
def FLT_PATROL (k : Nat) : Nat := 0xFF0800000180 + k * 0x8
/-- FLT_PATROL.LAST_PASS [63:32]. -/
def FLT_PATROL_LAST_PASS (k : Nat) : RF := ⟨FLT_PATROL k, 63, 32, 0⟩
/-- FLT_PATROL.PASSES [31:0]. -/
def FLT_PATROL_PASSES (k : Nat) : RF := ⟨FLT_PATROL k, 31, 0, 0⟩
/-- DMC_STATUS (R550). -/
def DMC_STATUS : Nat := 0xFF0000000000
/-- DMC_STATUS.RESTARTS [63:48]. -/
def DMC_STATUS_RESTARTS : RF := ⟨DMC_STATUS, 63, 48, 0⟩
/-- DMC_STATUS.STAGE [34:32]. -/
def DMC_STATUS_STAGE : RF := ⟨DMC_STATUS, 34, 32, 0⟩
/-- DMC_STATUS.STOPPED [2:2]. -/
def DMC_STATUS_STOPPED : RF := ⟨DMC_STATUS, 2, 2, 0⟩
/-- DMC_STATUS.RESTARTING [1:1]. -/
def DMC_STATUS_RESTARTING : RF := ⟨DMC_STATUS, 1, 1, 0⟩
/-- DMC_STATUS.READY [0:0]. -/
def DMC_STATUS_READY : RF := ⟨DMC_STATUS, 0, 0, 0⟩
/-- DMC_CTRL (R550). -/
def DMC_CTRL : Nat := 0xFF0000000008
/-- DMC_CTRL.RESTART [0:0]. -/
def DMC_CTRL_RESTART : RF := ⟨DMC_CTRL, 0, 0, 0⟩
/-- DMC_RESET (R550). -/
def DMC_RESET : Nat := 0xFF0000000010
/-- DMC_RESET.STRAPS [11:8]. -/
def DMC_RESET_STRAPS : RF := ⟨DMC_RESET, 11, 8, 0⟩
/-- DMC_RESET.CAUSE [0:0]. -/
def DMC_RESET_CAUSE : RF := ⟨DMC_RESET, 0, 0, 0⟩
/-- DMC_READY_TIME (R550). -/
def DMC_READY_TIME : Nat := 0xFF0000000018
/-- DMC_READY_TIME.CYCLES [63:0]. -/
def DMC_READY_TIME_V : RF := ⟨DMC_READY_TIME, 63, 0, 0⟩
/-- PWR_ENVELOPE (R551). -/
def PWR_ENVELOPE : Nat := 0xFF1000000000
/-- PWR_ENVELOPE.AUTO [20:20]. -/
def PWR_ENVELOPE_AUTO : RF := ⟨PWR_ENVELOPE, 20, 20, 1⟩
/-- PWR_ENVELOPE.CAP [17:16]. -/
def PWR_ENVELOPE_CAP : RF := ⟨PWR_ENVELOPE, 17, 16, 0⟩
/-- PWR_ENVELOPE.ARRAY [13:12]. -/
def PWR_ENVELOPE_ARRAY : RF := ⟨PWR_ENVELOPE, 13, 12, 0⟩
/-- PWR_ENVELOPE.ADMIT [9:8]. -/
def PWR_ENVELOPE_ADMIT : RF := ⟨PWR_ENVELOPE, 9, 8, 0⟩
/-- PWR_ENVELOPE.PENDING [2:2]. -/
def PWR_ENVELOPE_PENDING : RF := ⟨PWR_ENVELOPE, 2, 2, 0⟩
/-- PWR_ENVELOPE.REQ [1:0]. -/
def PWR_ENVELOPE_REQ : RF := ⟨PWR_ENVELOPE, 1, 0, 0⟩
/-- PWR_THERMAL (R551). -/
def PWR_THERMAL : Nat := 0xFF1000000008
/-- PWR_THERMAL.HBM_HOLD [39:32]. -/
def PWR_THERMAL_HBM_HOLD : RF := ⟨PWR_THERMAL, 39, 32, 92⟩
/-- PWR_THERMAL.HBM_WARN [31:24]. -/
def PWR_THERMAL_HBM_WARN : RF := ⟨PWR_THERMAL, 31, 24, 85⟩
/-- PWR_THERMAL.HOLD [15:8]. -/
def PWR_THERMAL_HOLD : RF := ⟨PWR_THERMAL, 15, 8, 92⟩
/-- PWR_THERMAL.WARN [7:0]. -/
def PWR_THERMAL_WARN : RF := ⟨PWR_THERMAL, 7, 0, 88⟩
/-- PWR_STATUS (R551). -/
def PWR_STATUS : Nat := 0xFF1000000010
/-- PWR_STATUS.TJ_MAX [63:56]. -/
def PWR_STATUS_TJ_MAX : RF := ⟨PWR_STATUS, 63, 56, 0⟩
/-- PWR_STATUS.HOT_TILE [55:47]. -/
def PWR_STATUS_HOT_TILE : RF := ⟨PWR_STATUS, 55, 47, 0⟩
/-- PWR_STATUS.HBM_TMAX [39:32]. -/
def PWR_STATUS_HBM_TMAX : RF := ⟨PWR_STATUS, 39, 32, 0⟩
/-- PWR_STATUS.IO_TMAX [31:24]. -/
def PWR_STATUS_IO_TMAX : RF := ⟨PWR_STATUS, 31, 24, 0⟩
/-- PWR_STATUS.STATE [19:16]. -/
def PWR_STATUS_STATE : RF := ⟨PWR_STATUS, 19, 16, 0⟩
/-- PWR_STATUS.PKG_W [15:0]. -/
def PWR_STATUS_PKG_W : RF := ⟨PWR_STATUS, 15, 0, 0⟩
/-- PWR_AVS (R551). -/
def PWR_AVS : Nat := 0xFF1000000018
/-- PWR_AVS.SET [63:48]. -/
def PWR_AVS_SET : RF := ⟨PWR_AVS, 63, 48, 7200⟩
/-- PWR_AVS.FIXED [47:32]. -/
def PWR_AVS_FIXED : RF := ⟨PWR_AVS, 47, 32, 7200⟩
/-- PWR_AVS.TARGET_PS [15:8]. -/
def PWR_AVS_TARGET_PS : RF := ⟨PWR_AVS, 15, 8, 60⟩
/-- PWR_AVS.EN [0:0]. -/
def PWR_AVS_EN : RF := ⟨PWR_AVS, 0, 0, 1⟩
/-- PWR_TELEM (R551). -/
def PWR_TELEM : Nat := 0xFF1000000020
/-- PWR_TELEM.PERIOD [15:0]. -/
def PWR_TELEM_PERIOD : RF := ⟨PWR_TELEM, 15, 0, 1000⟩
/-- PWR_RAIL (R551). -/
def PWR_RAIL (r : Nat) : Nat := 0xFF1000000100 + r * 0x8
/-- PWR_RAIL.IOUT [63:48]. -/
def PWR_RAIL_IOUT (r : Nat) : RF := ⟨PWR_RAIL r, 63, 48, 0⟩
/-- PWR_RAIL.VOUT [47:32]. -/
def PWR_RAIL_VOUT (r : Nat) : RF := ⟨PWR_RAIL r, 47, 32, 0⟩
/-- PWR_RAIL.TEMP [31:24]. -/
def PWR_RAIL_TEMP (r : Nat) : RF := ⟨PWR_RAIL r, 31, 24, 0⟩
/-- PWR_RAIL.STATUS_WORD [15:0]. -/
def PWR_RAIL_STATUS_WORD (r : Nat) : RF := ⟨PWR_RAIL r, 15, 0, 0⟩
/-- SRV_CTRL (R552). -/
def SRV_CTRL : Nat := 0xFF1100000000
/-- SRV_CTRL.REFUSED [1:1]. -/
def SRV_CTRL_REFUSED : RF := ⟨SRV_CTRL, 1, 1, 0⟩
/-- SRV_CTRL.GO [0:0]. -/
def SRV_CTRL_GO : RF := ⟨SRV_CTRL, 0, 0, 0⟩
/-- SRV_STATUS (R552). -/
def SRV_STATUS : Nat := 0xFF1100000008
/-- SRV_STATUS.SEQ [63:32]. -/
def SRV_STATUS_SEQ : RF := ⟨SRV_STATUS, 63, 32, 0⟩
/-- SRV_STATUS.PEERS [31:16]. -/
def SRV_STATUS_PEERS : RF := ⟨SRV_STATUS, 31, 16, 0⟩
/-- SRV_STATUS.RUNNING [0:0]. -/
def SRV_STATUS_RUNNING : RF := ⟨SRV_STATUS, 0, 0, 0⟩
/-- SRV_SENSE (R552). -/
def SRV_SENSE (k : Nat) : Nat := 0xFF1100000100 + k * 0x8
/-- SRV_SENSE.MAX [63:48]. -/
def SRV_SENSE_MAX (k : Nat) : RF := ⟨SRV_SENSE k, 63, 48, 0⟩
/-- SRV_SENSE.MIN [47:32]. -/
def SRV_SENSE_MIN (k : Nat) : RF := ⟨SRV_SENSE k, 47, 32, 0⟩
/-- SRV_SENSE.MEAN [31:16]. -/
def SRV_SENSE_MEAN (k : Nat) : RF := ⟨SRV_SENSE k, 31, 16, 0⟩
/-- SRV_SENSE.DIE [10:8]. -/
def SRV_SENSE_DIE (k : Nat) : RF := ⟨SRV_SENSE k, 10, 8, 0⟩
/-- SRV_SENSE.RAIL [3:0]. -/
def SRV_SENSE_RAIL (k : Nat) : RF := ⟨SRV_SENSE k, 3, 0, 0⟩
/-- SRV_SPD_CMD (R552). -/
def SRV_SPD_CMD : Nat := 0xFF1100000200
/-- SRV_SPD_CMD.DONE [63:63]. -/
def SRV_SPD_CMD_DONE : RF := ⟨SRV_SPD_CMD, 63, 63, 0⟩
/-- SRV_SPD_CMD.ERR [62:62]. -/
def SRV_SPD_CMD_ERR : RF := ⟨SRV_SPD_CMD, 62, 62, 0⟩
/-- SRV_SPD_CMD.GO [61:61]. -/
def SRV_SPD_CMD_GO : RF := ⟨SRV_SPD_CMD, 61, 61, 0⟩
/-- SRV_SPD_CMD.BLOCK [15:8]. -/
def SRV_SPD_CMD_BLOCK : RF := ⟨SRV_SPD_CMD, 15, 8, 0⟩
/-- SRV_SPD_CMD.CHANNEL [6:4]. -/
def SRV_SPD_CMD_CHANNEL : RF := ⟨SRV_SPD_CMD, 6, 4, 0⟩
/-- SRV_SPD_CMD.SLOT [0:0]. -/
def SRV_SPD_CMD_SLOT : RF := ⟨SRV_SPD_CMD, 0, 0, 0⟩
/-- SRV_SPD_DATA (R552). -/
def SRV_SPD_DATA (k : Nat) : Nat := 0xFF1100000240 + k * 0x8
/-- SRV_SPD_DATA.BYTES [63:0]. -/
def SRV_SPD_DATA_V (k : Nat) : RF := ⟨SRV_SPD_DATA k, 63, 0, 0⟩
/-- SRV_INV (R552). -/
def SRV_INV (k : Nat) : Nat := 0xFF1100010000 + k * 0x8
/-- SRV_INV.BYTES [63:0]. -/
def SRV_INV_V (k : Nat) : RF := ⟨SRV_INV k, 63, 0, 0⟩
/-- SRV_PARTNER (R552). -/
def SRV_PARTNER (j k : Nat) : Nat := 0xFF1100020000 + j * 0x2000 + k * 0x8
/-- SRV_PARTNER.BYTES [63:0]. -/
def SRV_PARTNER_V (j k : Nat) : RF := ⟨SRV_PARTNER j k, 63, 0, 0⟩

end Sys2Proof.Machine
end

