-- ==== Sys2Proof/Machine/Layout.lean ====
section
/-! DEFINITION. The register tables as data: which addresses hold a register and what its fields are. -/

namespace Sys2Proof.Machine

/-- The registers of chapter 1. -/
def layout01 : List RegSpec := [
  -- DMC_DUTY_MAP, R31
  ⟨0xFF0000000040, [], .dev, false, [⟨11, 11, .rw, 0⟩, ⟨10, 10, .rw, 0⟩, ⟨9, 9, .rw, 0⟩, ⟨8, 8, .rw, 0⟩, ⟨7, 7, .rw, 0⟩, ⟨6, 6, .rw, 0⟩, ⟨5, 5, .rw, 0⟩, ⟨4, 4, .rw, 0⟩, ⟨3, 3, .rw, 0⟩, ⟨2, 2, .rw, 0⟩, ⟨1, 1, .rw, 0⟩, ⟨0, 0, .rw, 0⟩]⟩,
  -- DMC_DUTY_STATE, R34
  ⟨0xFF0000000048, [], .dev, false, [⟨51, 48, .ro, 0⟩, ⟨43, 32, .w1c, 0⟩, ⟨27, 16, .ro, 0⟩, ⟨11, 0, .ro, 0⟩]⟩]

/-- The registers of chapter 2. -/
def layout02 : List RegSpec := [
  -- TIME_NOW, R78
  ⟨0xFF0100000000, [], .dev, false, [⟨63, 32, .ro, 0⟩, ⟨29, 0, .ro, 0⟩]⟩,
  -- TIME_SET, R78
  ⟨0xFF0100000008, [], .dev, false, [⟨63, 32, .rw, 0⟩, ⟨2, 1, .rw, 0⟩, ⟨0, 0, .w1s, 0⟩]⟩,
  -- TIME_CTRL, R78
  ⟨0xFF0100000010, [], .dev, false, [⟨47, 32, .rw, 500⟩, ⟨31, 16, .rw, 0⟩, ⟨10, 6, .rw, 0⟩, ⟨5, 5, .rw, 1⟩, ⟨4, 4, .rw, 0⟩]⟩,
  -- TIME_STATUS, R78
  ⟨0xFF0100000018, [], .dev, false, [⟨63, 32, .ro, 0⟩, ⟨31, 16, .ro, 0⟩, ⟨11, 8, .ro, 0⟩, ⟨5, 4, .ro, 0⟩, ⟨1, 0, .ro, 0⟩]⟩,
  -- TIME_STEER, R78
  ⟨0xFF0100000020, [], .dev, false, [⟨31, 0, .rw, 0⟩]⟩,
  -- TIME_EVENTS, R78
  ⟨0xFF0100000028, [], .dev, false, [⟨8, 8, .w1c, 0⟩, ⟨7, 7, .w1c, 0⟩, ⟨6, 6, .w1c, 0⟩, ⟨5, 5, .w1c, 0⟩, ⟨4, 4, .w1c, 0⟩, ⟨3, 3, .w1c, 0⟩, ⟨2, 2, .w1c, 0⟩, ⟨1, 1, .w1c, 0⟩, ⟨0, 0, .w1c, 0⟩]⟩,
  -- TIME_HOLD, R78
  ⟨0xFF0100000030, [], .dev, false, [⟨31, 0, .ro, 0⟩]⟩,
  -- ADM_STATUS, R78
  ⟨0xFF0200000000, [], .dev, false, [⟨15, 0, .ro, 0⟩]⟩,
  -- ADM_MISS_SEQ, R78
  ⟨0xFF0200000008, [], .dev, false, [⟨31, 0, .ro, 0⟩]⟩,
  -- ADM_P_CTRL, R80
  ⟨0xFF0200010000, [⟨1, 15, 0x100⟩], .part, false, [⟨47, 16, .rwl, 0⟩, ⟨2, 2, .rwl, 0⟩, ⟨1, 1, .rw, 0⟩, ⟨0, 0, .rw, 0⟩]⟩,
  -- ADM_P_STATUS, R80
  ⟨0xFF0200010008, [⟨1, 15, 0x100⟩], .part, false, [⟨63, 32, .ro, 0⟩, ⟨7, 7, .ro, 0⟩, ⟨3, 0, .ro, 0⟩]⟩,
  -- ADM_P_ADMITTED, R80
  ⟨0xFF0200010010, [⟨1, 15, 0x100⟩], .part, false, [⟨31, 0, .rc, 0⟩]⟩,
  -- ADM_P_REJECTED, R80
  ⟨0xFF0200010018, [⟨1, 15, 0x100⟩], .part, false, [⟨31, 0, .rc, 0⟩]⟩,
  -- ADM_P_MISSED, R80
  ⟨0xFF0200010020, [⟨1, 15, 0x100⟩], .part, false, [⟨31, 0, .ro, 0⟩]⟩]

/-- The registers of chapter 3. -/
def layout03 : List RegSpec := [
  -- TILE_ID, R121
  ⟨0xFF0600000000, [⟨0, 255, 0x10000⟩], .tile, false, [⟨55, 48, .ro, 8⟩, ⟨47, 40, .ro, 128⟩, ⟨39, 32, .ro, 128⟩, ⟨31, 24, .ro, 0⟩, ⟨19, 16, .ro, 0⟩, ⟨15, 12, .ro, 0⟩, ⟨11, 8, .ro, 0⟩, ⟨7, 0, .ro, 0⟩]⟩,
  -- TILE_CORE_CTRL, R121
  ⟨0xFF0600000008, [⟨0, 255, 0x10000⟩], .tile, false, [⟨10, 8, .rw, 0⟩, ⟨2, 2, .rwl, 0⟩, ⟨1, 1, .w1s, 0⟩, ⟨0, 0, .rw, 0⟩]⟩,
  -- TILE_STRAND_STATE, R121
  ⟨0xFF0600000010, [⟨0, 255, 0x10000⟩], .tile, false, [⟨39, 32, .ro, 0⟩, ⟨31, 0, .ro, 0⟩]⟩,
  -- TILE_FROND_STATE, R121
  ⟨0xFF0600000018, [⟨0, 255, 0x10000⟩], .tile, false, [⟨23, 16, .ro, 0⟩, ⟨15, 8, .ro, 0⟩, ⟨4, 4, .ro, 0⟩, ⟨2, 0, .ro, 0⟩]⟩,
  -- TILE_ISSUE_COUNT, R121
  ⟨0xFF0600000020, [⟨0, 255, 0x10000⟩], .tile, false, [⟨63, 0, .ro, 0⟩]⟩,
  -- TILE_IDLE_COUNT, R121
  ⟨0xFF0600000028, [⟨0, 255, 0x10000⟩], .tile, false, [⟨63, 0, .ro, 0⟩]⟩,
  -- TILE_FROND_CFG, R121
  ⟨0xFF0600000040, [⟨0, 255, 0x10000⟩, ⟨0, 7, 0x8⟩], .tile, false, [⟨31, 24, .ro, 0⟩, ⟨19, 16, .ro, 0⟩, ⟨15, 15, .ro, 0⟩, ⟨13, 13, .ro, 0⟩, ⟨12, 0, .ro, 0⟩]⟩,
  -- TILE_S_STATUS, R121
  ⟨0xFF0600000100, [⟨0, 255, 0x10000⟩, ⟨0, 7, 0x40⟩], .tile, false, [⟨44, 32, .ro, 0⟩, ⟨31, 24, .ro, 0⟩, ⟨19, 16, .ro, 0⟩, ⟨7, 7, .ro, 0⟩, ⟨3, 0, .ro, 0⟩]⟩,
  -- TILE_S_TRAP, R121
  ⟨0xFF0600000108, [⟨0, 255, 0x10000⟩, ⟨0, 7, 0x40⟩], .tile, false, [⟨44, 32, .ro, 0⟩, ⟨7, 0, .ro, 0⟩]⟩,
  -- TILE_S_TVAL, R121
  ⟨0xFF0600000110, [⟨0, 255, 0x10000⟩, ⟨0, 7, 0x40⟩], .tile, false, [⟨63, 0, .ro, 0⟩]⟩,
  -- TILE_S_KCNT, R121
  ⟨0xFF0600000118, [⟨0, 255, 0x10000⟩, ⟨0, 7, 0x40⟩], .tile, false, [⟨63, 32, .ro, 0⟩, ⟨31, 0, .ro, 0⟩]⟩,
  -- TILE_S_PRED, R121
  ⟨0xFF0600000120, [⟨0, 255, 0x10000⟩, ⟨0, 7, 0x40⟩], .tile, false, [⟨7, 0, .ro, 1⟩]⟩]

/-- The registers of chapter 4. -/
def layout04 : List RegSpec := [
  -- TILE_MX_STATUS, R151
  ⟨0xFF0600002000, [⟨0, 255, 0x10000⟩], .tile, false, [⟨39, 32, .ro, 0⟩, ⟨11, 8, .ro, 0⟩, ⟨4, 4, .ro, 0⟩, ⟨2, 0, .ro, 0⟩]⟩,
  -- TILE_MX_ARRAY, R151
  ⟨0xFF0600002008, [⟨0, 255, 0x10000⟩], .tile, false, [⟨63, 0, .ro, 0⟩]⟩,
  -- TILE_MX_LOAD, R151
  ⟨0xFF0600002010, [⟨0, 255, 0x10000⟩], .tile, false, [⟨63, 0, .ro, 0⟩]⟩,
  -- TILE_MX_HELD, R151
  ⟨0xFF0600002018, [⟨0, 255, 0x10000⟩], .tile, false, [⟨63, 0, .ro, 0⟩]⟩,
  -- TILE_MX_PORTWAIT, R151
  ⟨0xFF0600002020, [⟨0, 255, 0x10000⟩], .tile, false, [⟨63, 0, .ro, 0⟩]⟩,
  -- TILE_MX_MACS, R151
  ⟨0xFF0600002040, [⟨0, 255, 0x10000⟩, ⟨0, 4, 0x8⟩], .tile, false, [⟨63, 0, .ro, 0⟩]⟩,
  -- TILE_MX_REPAIR, R151
  ⟨0xFF0600002080, [⟨0, 255, 0x10000⟩], .tile, false, [⟨35, 35, .ro, 0⟩, ⟨34, 34, .ro, 0⟩, ⟨33, 33, .ro, 0⟩, ⟨32, 32, .ro, 0⟩, ⟨31, 24, .ro, 0⟩, ⟨23, 16, .ro, 0⟩, ⟨15, 8, .ro, 0⟩, ⟨7, 0, .ro, 0⟩]⟩]

/-- The registers of chapter 6. -/
def layout06 : List RegSpec := [
  -- TILE_MX_FUNC, R200
  ⟨0xFF0600002028, [⟨0, 255, 0x10000⟩], .tile, false, [⟨63, 0, .ro, 0⟩]⟩,
  -- TILE_MX_FWAIT, R200
  ⟨0xFF0600002030, [⟨0, 255, 0x10000⟩], .tile, false, [⟨63, 0, .ro, 0⟩]⟩]

/-- The registers of chapter 7. -/
def layout07 : List RegSpec := [
  -- TILE_VX_STATUS, R228
  ⟨0xFF0600002100, [⟨0, 255, 0x10000⟩], .tile, false, [⟨39, 32, .ro, 0⟩, ⟨11, 8, .ro, 0⟩, ⟨2, 0, .ro, 0⟩]⟩,
  -- TILE_VX_BEATS, R228
  ⟨0xFF0600002108, [⟨0, 255, 0x10000⟩], .tile, false, [⟨63, 0, .ro, 0⟩]⟩,
  -- TILE_VX_SPECIAL, R228
  ⟨0xFF0600002110, [⟨0, 255, 0x10000⟩], .tile, false, [⟨63, 0, .ro, 0⟩]⟩,
  -- TILE_VX_PORTWAIT, R228
  ⟨0xFF0600002118, [⟨0, 255, 0x10000⟩], .tile, false, [⟨63, 0, .ro, 0⟩]⟩,
  -- TILE_VX_HAZWAIT, R228
  ⟨0xFF0600002120, [⟨0, 255, 0x10000⟩], .tile, false, [⟨63, 0, .ro, 0⟩]⟩,
  -- TILE_VX_LANEOPS, R228
  ⟨0xFF0600002128, [⟨0, 255, 0x10000⟩], .tile, false, [⟨63, 0, .ro, 0⟩]⟩]

/-- The registers of chapter 8. -/
def layout08 : List RegSpec := [
  -- TILE_SP_STATUS, R265
  ⟨0xFF0600002200, [⟨0, 255, 0x10000⟩], .tile, false, [⟨39, 32, .ro, 0⟩, ⟨23, 16, .ro, 170⟩, ⟨11, 8, .ro, 0⟩, ⟨4, 4, .ro, 0⟩, ⟨2, 0, .ro, 0⟩]⟩,
  -- TILE_SP_POWER, R265
  ⟨0xFF0600002208, [⟨0, 255, 0x10000⟩], .tile, false, [⟨7, 0, .rw, 170⟩]⟩,
  -- TILE_SP_RET, R265
  ⟨0xFF0600002210, [⟨0, 255, 0x10000⟩, ⟨0, 3, 0x8⟩], .tile, false, [⟨63, 63, .ro, 0⟩, ⟨48, 32, .ro, 0⟩, ⟨16, 0, .ro, 0⟩]⟩,
  -- TILE_SP_ECC, R265
  ⟨0xFF0600002230, [⟨0, 255, 0x10000⟩], .tile, false, [⟨63, 32, .rc, 0⟩, ⟨16, 0, .ro, 0⟩]⟩,
  -- TILE_SP_LINES, R265
  ⟨0xFF0600002238, [⟨0, 255, 0x10000⟩], .tile, false, [⟨63, 0, .ro, 0⟩]⟩,
  -- TILE_SP_RAWHIT, R265
  ⟨0xFF0600002240, [⟨0, 255, 0x10000⟩], .tile, false, [⟨63, 0, .ro, 0⟩]⟩,
  -- TILE_SP_FILLWAIT, R265
  ⟨0xFF0600002248, [⟨0, 255, 0x10000⟩], .tile, false, [⟨63, 0, .ro, 0⟩]⟩,
  -- TILE_SP_BCFG, R265
  ⟨0xFF0600002280, [⟨0, 255, 0x10000⟩, ⟨1, 15, 0x8⟩], .tile, false, [⟨63, 63, .ro, 0⟩, ⟨47, 32, .ro, 0⟩, ⟨16, 0, .ro, 0⟩]⟩,
  -- TILE_SP_BSTATE, R265
  ⟨0xFF0600002300, [⟨0, 255, 0x10000⟩, ⟨1, 15, 0x8⟩], .tile, false, [⟨63, 63, .ro, 0⟩, ⟨62, 62, .ro, 0⟩, ⟨61, 61, .ro, 0⟩, ⟨46, 32, .ro, 0⟩, ⟨29, 16, .ro, 0⟩, ⟨13, 0, .ro, 0⟩]⟩]

/-- The registers of chapter 9. -/
def layout09 : List RegSpec := [
  -- TILE_MSG_CFG, R303
  ⟨0xFF0600002400, [⟨0, 255, 0x10000⟩], .tile, false, [⟨31, 0, .ro, 0⟩]⟩,
  -- TILE_MSG_COUNT, R303
  ⟨0xFF0600002408, [⟨0, 255, 0x10000⟩, ⟨0, 8, 0x8⟩], .tile, false, [⟨63, 0, .ro, 0⟩]⟩,
  -- TILE_Q_STATE, R303
  ⟨0xFF0600002800, [⟨0, 255, 0x10000⟩, ⟨0, 63, 0x10⟩], .tile, false, [⟨63, 48, .ro, 0⟩, ⟨44, 32, .ro, 0⟩, ⟨31, 24, .ro, 0⟩, ⟨20, 16, .ro, 0⟩, ⟨11, 8, .ro, 0⟩, ⟨7, 0, .ro, 0⟩]⟩,
  -- TILE_Q_CFG, R303
  ⟨0xFF0600002808, [⟨0, 255, 0x10000⟩, ⟨0, 63, 0x10⟩], .tile, false, [⟨63, 63, .ro, 0⟩, ⟨60, 48, .ro, 0⟩, ⟨40, 24, .ro, 0⟩, ⟨23, 20, .ro, 0⟩, ⟨15, 8, .ro, 0⟩, ⟨4, 0, .ro, 0⟩]⟩,
  -- TILE_SPL_STATE, R303
  ⟨0xFF0600002C00, [⟨0, 255, 0x10000⟩, ⟨0, 15, 0x10⟩], .tile, false, [⟨63, 63, .ro, 0⟩, ⟨47, 32, .ro, 0⟩, ⟨25, 16, .ro, 0⟩, ⟨5, 0, .ro, 0⟩]⟩,
  -- TILE_SPL_CFG, R303
  ⟨0xFF0600002C08, [⟨0, 255, 0x10000⟩, ⟨0, 15, 0x10⟩], .tile, false, [⟨63, 63, .ro, 0⟩, ⟨50, 48, .ro, 0⟩, ⟨41, 32, .ro, 0⟩, ⟨15, 0, .ro, 0⟩]⟩,
  -- TILE_TALLY, R303
  ⟨0xFF0600002D00, [⟨0, 255, 0x10000⟩, ⟨0, 15, 0x8⟩], .tile, false, [⟨63, 0, .ro, 0⟩]⟩,
  -- TILE_HITCH, R303
  ⟨0xFF0600002E00, [⟨0, 255, 0x10000⟩, ⟨0, 31, 0x8⟩], .tile, false, [⟨63, 48, .ro, 0⟩, ⟨47, 32, .ro, 0⟩, ⟨31, 31, .ro, 0⟩, ⟨16, 0, .ro, 0⟩]⟩,
  -- TILE_ROUTE_A, R303
  ⟨0xFF0600003000, [⟨0, 255, 0x10000⟩, ⟨0, 127, 0x10⟩], .tile, false, [⟨63, 61, .ro, 0⟩, ⟨60, 59, .ro, 0⟩, ⟨58, 58, .ro, 0⟩, ⟨57, 57, .ro, 0⟩, ⟨56, 54, .ro, 0⟩, ⟨51, 46, .ro, 0⟩, ⟨43, 32, .ro, 0⟩, ⟨31, 16, .ro, 0⟩, ⟨15, 0, .ro, 0⟩]⟩,
  -- TILE_ROUTE_B, R303
  ⟨0xFF0600003008, [⟨0, 255, 0x10000⟩, ⟨0, 127, 0x10⟩], .tile, false, [⟨31, 16, .ro, 0⟩, ⟨13, 8, .ro, 0⟩, ⟨5, 0, .ro, 0⟩]⟩,
  -- TILE_Q_TAG, R303
  ⟨0xFF0600004000, [⟨0, 255, 0x10000⟩, ⟨0, 63, 0x80⟩, ⟨0, 15, 0x8⟩], .tile, false, [⟨63, 0, .ro, 0⟩]⟩]

/-- The registers of chapter 10. -/
def layout10 : List RegSpec := [
  -- MESH_CAP_LO, R332
  ⟨0xFF0400000000, [], .dev, false, [⟨63, 0, .ro, 0⟩]⟩,
  -- MESH_CAP_HI, R332
  ⟨0xFF0400000008, [], .dev, false, [⟨63, 0, .ro, 0⟩]⟩,
  -- MESH_CAP_INFO, R332
  ⟨0xFF0400000010, [], .dev, false, [⟨47, 16, .ro, 0⟩, ⟨15, 8, .ro, 0⟩, ⟨3, 0, .ro, 0⟩]⟩,
  -- MESH_XLINK, R332
  ⟨0xFF0400000800, [⟨0, 31, 0x8⟩], .dev, false, [⟨63, 32, .rc, 0⟩, ⟨15, 8, .ro, 0⟩, ⟨1, 1, .ro, 0⟩, ⟨0, 0, .ro, 0⟩]⟩,
  -- MESH_P_CFG, R332
  ⟨0xFF0400001000, [⟨1, 15, 0x20⟩], .part, false, [⟨63, 48, .rwl, 257⟩, ⟨43, 40, .rwl, 8⟩, ⟨39, 36, .rwl, 4⟩, ⟨35, 32, .rwl, 4⟩]⟩,
  -- MESH_P_BOUND, R332
  ⟨0xFF0400001008, [⟨1, 15, 0x20⟩], .part, false, [⟨47, 32, .ro, 0⟩, ⟨15, 0, .ro, 42⟩]⟩,
  -- MESH_R_STATUS, R332
  ⟨0xFF0400010000, [⟨0, 255, 0x100⟩], .dev, false, [⟨56, 48, .ro, 0⟩, ⟨39, 36, .ro, 0⟩, ⟨33, 33, .ro, 0⟩, ⟨32, 32, .ro, 0⟩, ⟨22, 16, .ro, 0⟩, ⟨8, 0, .ro, 0⟩]⟩,
  -- MESH_R_FLITS, R332
  ⟨0xFF0400010008, [⟨0, 255, 0x100⟩, ⟨0, 5, 0x8⟩], .dev, false, [⟨63, 0, .ro, 0⟩]⟩,
  -- MESH_R_WAIT, R332
  ⟨0xFF0400010038, [⟨0, 255, 0x100⟩, ⟨0, 5, 0x8⟩], .dev, false, [⟨63, 0, .ro, 0⟩]⟩,
  -- MESH_R_ERR, R332
  ⟨0xFF0400010068, [⟨0, 255, 0x100⟩], .dev, false, [⟨63, 32, .rc, 0⟩, ⟨31, 0, .rc, 0⟩]⟩,
  -- MESH_R_DROP, R332
  ⟨0xFF0400010070, [⟨0, 255, 0x100⟩], .dev, false, [⟨63, 32, .ro, 0⟩, ⟨31, 0, .ro, 0⟩]⟩]

/-- The registers of chapter 11. -/
def layout11 : List RegSpec := [
  -- PART_P_RCMD, R366
  ⟨0xFF0300020000, [⟨1, 15, 0x100⟩], .part, false, [⟨5, 5, .w1s, 0⟩, ⟨4, 4, .rw, 0⟩, ⟨3, 2, .rw, 0⟩, ⟨1, 1, .w1s, 0⟩, ⟨0, 0, .w1s, 0⟩]⟩,
  -- PART_P_RADDR, R366
  ⟨0xFF0300020008, [⟨1, 15, 0x100⟩], .part, false, [⟨47, 0, .rw, 0⟩]⟩,
  -- PART_P_RSIZE, R366
  ⟨0xFF0300020010, [⟨1, 15, 0x100⟩], .part, false, [⟨39, 0, .rw, 0⟩]⟩,
  -- PART_P_RSTART, R366
  ⟨0xFF0300020018, [⟨1, 15, 0x100⟩], .part, false, [⟨63, 32, .rw, 0⟩, ⟨31, 0, .rw, 0⟩]⟩,
  -- PART_P_RSTATUS, R366
  ⟨0xFF0300020020, [⟨1, 15, 0x100⟩], .part, false, [⟨63, 48, .ro, 0⟩, ⟨47, 40, .ro, 0⟩, ⟨39, 32, .ro, 0⟩, ⟨15, 15, .ro, 0⟩, ⟨14, 14, .ro, 0⟩, ⟨13, 13, .ro, 0⟩, ⟨12, 12, .w1c, 0⟩, ⟨3, 0, .ro, 0⟩]⟩,
  -- PART_P_DRAIN, R366
  ⟨0xFF0300020028, [⟨1, 15, 0x100⟩], .part, false, [⟨63, 32, .rw, 1050000⟩, ⟨5, 4, .rw, 0⟩, ⟨3, 3, .rw, 0⟩, ⟨2, 2, .w1s, 0⟩, ⟨1, 1, .w1s, 0⟩, ⟨0, 0, .w1s, 0⟩]⟩,
  -- PART_P_DSTATUS, R366
  ⟨0xFF0300020030, [⟨1, 15, 0x100⟩], .part, false, [⟨55, 48, .ro, 0⟩, ⟨40, 32, .ro, 0⟩, ⟨31, 0, .ro, 0⟩]⟩,
  -- PART_P_SWITCH, R366
  ⟨0xFF0300020040, [⟨1, 15, 0x100⟩], .part, false, [⟨31, 16, .rw, 0⟩, ⟨10, 8, .rw, 0⟩, ⟨5, 4, .rw, 0⟩, ⟨1, 1, .w1c, 0⟩, ⟨0, 0, .w1s, 0⟩]⟩,
  -- PART_P_SWTIME, R366
  ⟨0xFF0300020048, [⟨1, 15, 0x100⟩], .part, false, [⟨63, 0, .rw, 0⟩]⟩,
  -- PART_P_RDIGEST, R366
  ⟨0xFF0300020080, [⟨1, 15, 0x100⟩, ⟨0, 7, 0x8⟩], .part, false, [⟨63, 0, .ro, 0⟩]⟩,
  -- PART_P_RDIGEST_EXP, R366
  ⟨0xFF03000200C0, [⟨1, 15, 0x100⟩, ⟨0, 7, 0x8⟩], .part, false, [⟨63, 0, .rw, 0⟩]⟩,
  -- TILE_FOLD_STATE, R367
  ⟨0xFF0600006000, [⟨0, 255, 0x10000⟩], .tile, false, [⟨63, 48, .ro, 0⟩, ⟨47, 40, .ro, 0⟩, ⟨39, 32, .ro, 0⟩, ⟨31, 24, .ro, 0⟩, ⟨19, 16, .ro, 0⟩, ⟨10, 8, .ro, 0⟩, ⟨0, 0, .ro, 0⟩]⟩,
  -- TILE_FOLD_SWITCHES, R367
  ⟨0xFF0600006008, [⟨0, 255, 0x10000⟩], .tile, false, [⟨63, 0, .ro, 0⟩]⟩,
  -- TILE_FOLD_LATE, R367
  ⟨0xFF0600006010, [⟨0, 255, 0x10000⟩], .tile, false, [⟨63, 0, .ro, 0⟩]⟩,
  -- TILE_FOLD_DISCARD, R367
  ⟨0xFF0600006018, [⟨0, 255, 0x10000⟩], .tile, false, [⟨63, 0, .ro, 0⟩]⟩,
  -- TILE_FOLD_GEN, R367
  ⟨0xFF0600006020, [⟨0, 255, 0x10000⟩], .tile, false, [⟨63, 0, .ro, 0⟩]⟩]

/-- The registers of chapter 12. -/
def layout12 : List RegSpec := [
  -- HBM_CFG, R400
  ⟨0xFF0900000000, [], .dev, false, [⟨39, 32, .ro, 0⟩, ⟨13, 12, .rw, 0⟩, ⟨11, 0, .ro, 0⟩]⟩,
  -- HBM_S_STATUS, R400
  ⟨0xFF0900001000, [⟨0, 11, 0x40⟩], .dev, false, [⟨63, 56, .ro, 0⟩, ⟨48, 48, .ro, 0⟩, ⟨42, 40, .ro, 0⟩, ⟨35, 32, .ro, 0⟩, ⟨3, 0, .ro, 0⟩]⟩,
  -- HBM_S_ERR, R400
  ⟨0xFF0900001008, [⟨0, 11, 0x40⟩], .dev, false, [⟨63, 32, .rc, 0⟩, ⟨15, 0, .ro, 0⟩]⟩,
  -- DDR_C_ERR, R400
  ⟨0xFF0A00001008, [⟨0, 7, 0x40⟩], .dev, false, [⟨63, 32, .rc, 0⟩, ⟨15, 0, .ro, 0⟩]⟩,
  -- HBM_S_REFWAIT, R400
  ⟨0xFF0900001010, [⟨0, 11, 0x40⟩], .dev, false, [⟨63, 0, .ro, 0⟩]⟩,
  -- DDR_C_REFWAIT, R400
  ⟨0xFF0A00001010, [⟨0, 7, 0x40⟩], .dev, false, [⟨63, 0, .ro, 0⟩]⟩,
  -- HBM_S_TRAIN, R400
  ⟨0xFF0900001018, [⟨0, 11, 0x40⟩], .dev, false, [⟨63, 32, .ro, 0⟩, ⟨15, 11, .rw, 0⟩, ⟨10, 8, .rw, 0⟩, ⟨2, 2, .w1s, 0⟩, ⟨1, 1, .ro, 0⟩, ⟨0, 0, .w1s, 0⟩]⟩,
  -- DDR_C_TRAIN, R400
  ⟨0xFF0A00001018, [⟨0, 7, 0x40⟩], .dev, false, [⟨63, 32, .ro, 0⟩, ⟨15, 11, .rw, 0⟩, ⟨10, 8, .rw, 0⟩, ⟨2, 2, .w1s, 0⟩, ⟨1, 1, .ro, 0⟩, ⟨0, 0, .w1s, 0⟩]⟩,
  -- DDR_CFG, R400
  ⟨0xFF0A00000000, [], .dev, false, [⟨63, 48, .ro, 0⟩, ⟨15, 8, .ro, 0⟩, ⟨7, 0, .ro, 0⟩]⟩,
  -- DDR_C_STATUS, R400
  ⟨0xFF0A00001000, [⟨0, 7, 0x40⟩], .dev, false, [⟨63, 48, .ro, 0⟩, ⟨41, 40, .ro, 0⟩, ⟨39, 38, .ro, 0⟩, ⟨37, 37, .ro, 0⟩, ⟨34, 32, .ro, 0⟩, ⟨3, 0, .ro, 0⟩]⟩,
  -- RHZ_RAIL_COUNT, R400
  ⟨0xFF0500000000, [⟨0, 31, 0x20⟩, ⟨0, 2, 0x8⟩], .dev, false, [⟨63, 0, .ro, 0⟩]⟩,
  -- RHZ_HOP, R400
  ⟨0xFF0500001000, [⟨0, 7, 0x8⟩], .dev, false, [⟨63, 0, .ro, 0⟩]⟩,
  -- MEM_CFG_STATUS, R400
  ⟨0xFF0B00000000, [], .dev, false, [⟨9, 9, .w1c, 0⟩, ⟨8, 8, .w1c, 0⟩, ⟨7, 0, .ro, 0⟩]⟩,
  -- MEM_PKT_HBM, R400
  ⟨0xFF0B01000000, [⟨0, 36863, 0x8⟩], .dev, false, [⟨63, 0, .ro, 0⟩]⟩,
  -- MEM_PKT_DDR, R400
  ⟨0xFF0B02000000, [⟨0, 262143, 0x8⟩], .dev, false, [⟨63, 0, .ro, 0⟩]⟩,
  -- MEM_P_SPLIT, R400
  ⟨0xFF0B00010000, [⟨1, 15, 0x100⟩], .part, false, [⟨23, 16, .rwl, 0⟩, ⟨15, 8, .rwl, 0⟩, ⟨7, 0, .rwl, 0⟩]⟩,
  -- MEM_P_RANGE, R400
  ⟨0xFF0B00010008, [⟨1, 15, 0x100⟩, ⟨0, 7, 0x8⟩], .part, false, [⟨63, 63, .rwl, 0⟩, ⟨62, 62, .rwl, 0⟩, ⟨53, 32, .rwl, 0⟩, ⟨21, 0, .rwl, 0⟩]⟩,
  -- MEM_P_KEY, R400
  ⟨0xFF0B00010048, [⟨1, 15, 0x100⟩], .part, false, [⟨63, 48, .ro, 0⟩, ⟨27, 24, .ro, 0⟩, ⟨2, 2, .ro, 0⟩, ⟨1, 1, .w1c, 0⟩, ⟨0, 0, .w1s, 0⟩]⟩,
  -- MEM_P_SWEEP, R400
  ⟨0xFF0B00010050, [⟨1, 15, 0x100⟩], .part, false, [⟨22, 22, .wo, 0⟩, ⟨21, 0, .wo, 0⟩]⟩,
  -- MEM_P_SWSTAT, R400
  ⟨0xFF0B00010058, [⟨1, 15, 0x100⟩], .part, false, [⟨63, 40, .ro, 0⟩, ⟨39, 39, .w1c, 0⟩, ⟨38, 38, .ro, 0⟩, ⟨37, 37, .ro, 0⟩, ⟨36, 36, .ro, 0⟩, ⟨35, 14, .ro, 0⟩, ⟨12, 0, .ro, 0⟩]⟩,
  -- MEM_P_BYTES, R400
  ⟨0xFF0B00010080, [⟨1, 15, 0x100⟩, ⟨0, 2, 0x8⟩], .part, false, [⟨63, 0, .ro, 0⟩]⟩]

/-- The registers of chapter 13. -/
def layout13 : List RegSpec := [
  -- ETH_P_CTRL, R438
  ⟨0xFF0C00000000, [⟨0, 17, 0x100⟩], .dev, false, [⟨63, 56, .rw, 179⟩, ⟨55, 48, .rw, 30⟩, ⟨47, 32, .rw, 9000⟩, ⟨7, 7, .rw, 1⟩, ⟨6, 6, .rw, 1⟩, ⟨5, 5, .rw, 1⟩, ⟨4, 4, .rw, 0⟩, ⟨3, 2, .rw, 0⟩, ⟨0, 0, .rw, 0⟩]⟩,
  -- ETH_P_STATUS, R438
  ⟨0xFF0C00000008, [⟨0, 17, 0x100⟩], .dev, false, [⟨63, 32, .ro, 0⟩, ⟨16, 16, .ro, 0⟩, ⟨11, 8, .ro, 0⟩, ⟨3, 0, .ro, 0⟩]⟩,
  -- ETH_P_MAC, R438
  ⟨0xFF0C00000010, [⟨0, 17, 0x100⟩], .dev, false, [⟨47, 0, .rw, 0⟩]⟩,
  -- ETH_P_IP0, R438
  ⟨0xFF0C00000018, [⟨0, 17, 0x100⟩], .dev, false, [⟨63, 0, .rw, 0⟩]⟩,
  -- ETH_P_IP1, R438
  ⟨0xFF0C00000020, [⟨0, 17, 0x100⟩], .dev, false, [⟨63, 0, .rw, 0⟩]⟩,
  -- ETH_P_CABLE, R438
  ⟨0xFF0C00000028, [⟨0, 17, 0x100⟩], .dev, false, [⟨63, 63, .ro, 0⟩, ⟨47, 32, .ro, 0⟩, ⟨31, 0, .ro, 0⟩]⟩,
  -- ETH_P_COUNT, R438
  ⟨0xFF0C00000040, [⟨0, 17, 0x100⟩, ⟨0, 7, 0x8⟩], .dev, false, [⟨63, 0, .ro, 0⟩]⟩,
  -- ETH_FAILOVER, R438
  ⟨0xFF0C00002000, [], .dev, false, [⟨20, 16, .ro, 31⟩, ⟨12, 8, .rw, 31⟩, ⟨2, 2, .w1s, 0⟩, ⟨1, 1, .w1s, 0⟩, ⟨0, 0, .rw, 1⟩]⟩,
  -- NOP_CFG, R439
  ⟨0xFF0D00000000, [], .dev, false, [⟨52, 32, .rw, 10500⟩, ⟨31, 26, .rw, 0⟩, ⟨23, 16, .ro, 1⟩, ⟨15, 0, .rw, 49531⟩]⟩,
  -- NOP_RECOVER, R439
  ⟨0xFF0D00000008, [], .dev, false, [⟨43, 32, .wo, 0⟩, ⟨1, 0, .wo, 0⟩]⟩,
  -- NOP_PUSH, R439
  ⟨0xFF0D00000010, [], .dev, false, [⟨63, 63, .rw, 0⟩, ⟨11, 0, .rw, 0⟩]⟩,
  -- NOP_P_WIN, R439
  ⟨0xFF0D00001000, [⟨0, 17, 0x200⟩, ⟨0, 63, 0x8⟩], .dev, false, [⟨63, 63, .rw, 0⟩, ⟨59, 56, .rw, 0⟩, ⟨52, 32, .rw, 0⟩, ⟨20, 0, .rw, 0⟩]⟩,
  -- NOP_P_ENTRY, R439
  ⟨0xFF0D00010000, [⟨1, 15, 0x100⟩], .part, false, [⟨63, 63, .rwl, 0⟩, ⟨23, 16, .rwl, 0⟩, ⟨10, 8, .rwl, 0⟩, ⟨5, 0, .rwl, 0⟩]⟩,
  -- NOP_CTX_CFG, R439
  ⟨0xFF0D00100000, [⟨0, 4095, 0x40⟩], .ctx, false, [⟨63, 62, .rwl, 0⟩, ⟨59, 56, .rwl, 0⟩, ⟨55, 52, .rwl, 3⟩, ⟨51, 47, .rw, 1⟩, ⟨43, 32, .rwl, 0⟩, ⟨31, 0, .rwl, 21000⟩]⟩,
  -- NOP_CTX_ADDR0, R439
  ⟨0xFF0D00100008, [⟨0, 4095, 0x40⟩], .ctx, false, [⟨63, 0, .rw, 0⟩]⟩,
  -- NOP_CTX_ADDR1, R439
  ⟨0xFF0D00100010, [⟨0, 4095, 0x40⟩], .ctx, false, [⟨63, 0, .rw, 0⟩]⟩,
  -- NOP_CTX_STATE, R439
  ⟨0xFF0D00100018, [⟨0, 4095, 0x40⟩], .ctx, false, [⟨63, 32, .ro, 0⟩, ⟨23, 16, .ro, 0⟩, ⟨11, 8, .ro, 0⟩, ⟨7, 7, .w1s, 0⟩, ⟨6, 6, .w1s, 0⟩, ⟨3, 0, .ro, 0⟩]⟩,
  -- NOP_CTX_SEQ, R439
  ⟨0xFF0D00100020, [⟨0, 4095, 0x40⟩], .ctx, false, [⟨63, 32, .ro, 0⟩, ⟨31, 0, .ro, 0⟩]⟩,
  -- NOP_CTX_COUNT, R439
  ⟨0xFF0D00100028, [⟨0, 4095, 0x40⟩, ⟨0, 2, 0x8⟩], .ctx, false, [⟨63, 0, .ro, 0⟩]⟩]

/-- The registers of chapter 14. -/
def layout14 : List RegSpec := [
  -- PART_STATUS, R471
  ⟨0xFF0300000000, [], .dev, false, [⟨47, 32, .ro, 0⟩, ⟨31, 16, .ro, 0⟩, ⟨15, 0, .ro, 0⟩]⟩,
  -- PART_TILEMAP, R471
  ⟨0xFF0300000100, [⟨0, 15, 0x8⟩], .dev, false, [⟨63, 0, .ro, 0⟩]⟩,
  -- PART_P_CFG, R471
  ⟨0xFF0300010000, [⟨1, 15, 0x100⟩], .part, false, [⟨63, 32, .rwl, 1050000⟩, ⟨31, 16, .rwl, 0⟩, ⟨9, 8, .rwl, 0⟩, ⟨4, 4, .rwl, 0⟩]⟩,
  -- PART_P_CMD, R471
  ⟨0xFF0300010008, [⟨1, 15, 0x100⟩], .part, false, [⟨2, 2, .w1s, 0⟩, ⟨1, 1, .w1s, 0⟩, ⟨0, 0, .w1s, 0⟩]⟩,
  -- PART_P_STATE, R471
  ⟨0xFF0300010010, [⟨1, 15, 0x100⟩], .part, false, [⟨63, 32, .ro, 0⟩, ⟨23, 20, .ro, 0⟩, ⟨16, 16, .w1c, 0⟩, ⟨9, 9, .ro, 0⟩, ⟨8, 8, .ro, 0⟩, ⟨3, 0, .ro, 0⟩]⟩,
  -- PART_P_EXPTIME, R471
  ⟨0xFF0300010018, [⟨1, 15, 0x100⟩], .part, false, [⟨63, 0, .ro, 18446744073709551615⟩]⟩,
  -- PART_P_TKEY, R471
  ⟨0xFF0300010040, [⟨1, 15, 0x100⟩, ⟨0, 7, 0x8⟩], .part, false, [⟨63, 0, .rwl, 0⟩]⟩,
  -- PART_P_CDIGEST, R471
  ⟨0xFF0300010080, [⟨1, 15, 0x100⟩, ⟨0, 7, 0x8⟩], .part, false, [⟨63, 0, .ro, 0⟩]⟩,
  -- SEC_BOOT_STATUS, R472
  ⟨0xFF0E00000000, [], .dev, true, [⟨47, 32, .ro, 0⟩, ⟨31, 24, .ro, 0⟩, ⟨23, 16, .ro, 0⟩, ⟨9, 9, .ro, 0⟩, ⟨8, 8, .ro, 0⟩, ⟨3, 0, .ro, 0⟩]⟩,
  -- SEC_SVN, R472
  ⟨0xFF0E00000008, [], .dev, true, [⟨63, 32, .ro, 0⟩, ⟨6, 0, .ro, 0⟩]⟩,
  -- SEC_OWNER, R472
  ⟨0xFF0E00000010, [], .dev, true, [⟨15, 12, .ro, 0⟩, ⟨11, 8, .ro, 0⟩, ⟨5, 0, .ro, 0⟩]⟩,
  -- SEC_DIE_LOT, R472
  ⟨0xFF0E00000100, [⟨0, 5, 0x10⟩], .dev, true, [⟨63, 0, .ro, 0⟩]⟩,
  -- SEC_DIE_POS, R472
  ⟨0xFF0E00000108, [⟨0, 5, 0x10⟩], .dev, true, [⟨23, 16, .ro, 0⟩, ⟨15, 8, .ro, 0⟩, ⟨7, 0, .ro, 0⟩]⟩,
  -- SEC_SERIAL, R472
  ⟨0xFF0E00000180, [⟨0, 1, 0x8⟩], .dev, true, [⟨63, 0, .ro, 0⟩]⟩,
  -- SEC_DEVICE_ID, R472
  ⟨0xFF0E00000200, [⟨0, 7, 0x8⟩], .dev, true, [⟨63, 0, .ro, 0⟩]⟩,
  -- SEC_IMAGE_DIGEST, R472
  ⟨0xFF0E00000240, [⟨0, 7, 0x8⟩], .dev, true, [⟨63, 0, .ro, 0⟩]⟩,
  -- SEC_DMC_DIGEST, R472
  ⟨0xFF0E00000280, [⟨0, 7, 0x8⟩], .dev, true, [⟨63, 0, .ro, 0⟩]⟩]

/-- The registers of chapter 15. -/
def layout15 : List RegSpec := [
  -- MTR_ID, R488
  ⟨0xFF0F00000000, [], .mtr, true, [⟨63, 32, .ro, 0⟩, ⟨31, 20, .ro, 0⟩]⟩,
  -- MTR_STATUS, R488
  ⟨0xFF0F00000008, [], .mtr, true, [⟨41, 32, .ro, 0⟩, ⟨3, 3, .ro, 0⟩, ⟨2, 2, .ro, 0⟩, ⟨1, 1, .ro, 0⟩, ⟨0, 0, .ro, 0⟩]⟩,
  -- MTR_NOW, R488
  ⟨0xFF0F00000010, [], .mtr, true, [⟨63, 0, .ro, 0⟩]⟩,
  -- MTR_OLDEST, R488
  ⟨0xFF0F00000018, [], .mtr, false, [⟨63, 0, .ro, 0⟩]⟩,
  -- MTR_NEWEST, R488
  ⟨0xFF0F00000020, [], .mtr, false, [⟨63, 0, .ro, 0⟩]⟩,
  -- MTR_CHAIN, R488
  ⟨0xFF0F00000040, [⟨0, 3, 0x8⟩], .mtr, false, [⟨63, 0, .ro, 0⟩]⟩,
  -- MTR_RAIL_E, R488
  ⟨0xFF0F00000080, [⟨0, 9, 0x8⟩], .mtr, false, [⟨63, 0, .ro, 0⟩]⟩,
  -- MTR_RAIL_P, R488
  ⟨0xFF0F00000100, [⟨0, 9, 0x8⟩], .mtr, false, [⟨63, 0, .ro, 0⟩]⟩,
  -- MTR_WEIGHT, R488
  ⟨0xFF0F00000180, [⟨0, 11, 0x8⟩], .mtr, true, [⟨63, 0, .ro, 0⟩]⟩,
  -- MTR_PKEY, R488
  ⟨0xFF0F00001000, [⟨0, 323, 0x8⟩], .mtr, true, [⟨63, 0, .ro, 0⟩]⟩,
  -- MTR_REC, R488
  ⟨0xFF0F00010000, [⟨0, 255, 0x2000⟩, ⟨0, 1023, 0x8⟩], .mtr, false, [⟨63, 0, .ro, 0⟩]⟩]

/-- The registers of chapter 16. -/
def layout16 : List RegSpec := [
  -- SPR_STATUS, R518
  ⟨0xFF0700000000, [], .dev, false, [⟨63, 48, .ro, 0⟩, ⟨31, 16, .ro, 0⟩, ⟨1, 0, .ro, 0⟩]⟩,
  -- SPR_CFG, R518
  ⟨0xFF0700000008, [], .dev, false, [⟨63, 48, .rw, 1000⟩, ⟨47, 40, .rw, 40⟩, ⟨39, 32, .rw, 12⟩, ⟨1, 0, .rw, 2⟩]⟩,
  -- SPR_CMD, R518
  ⟨0xFF0700000010, [], .dev, false, [⟨47, 32, .rw, 0⟩, ⟨31, 16, .rw, 0⟩, ⟨11, 8, .rw, 0⟩, ⟨1, 1, .w1c, 0⟩, ⟨0, 0, .w1s, 0⟩]⟩,
  -- SPR_ACTION, R518
  ⟨0xFF0700000018, [], .dev, false, [⟨63, 32, .ro, 0⟩, ⟨31, 24, .ro, 0⟩, ⟨23, 20, .ro, 0⟩, ⟨2, 0, .ro, 0⟩]⟩,
  -- SPR_DIE, R518
  ⟨0xFF0700000100, [⟨0, 3, 0x8⟩], .dev, false, [⟨31, 16, .ro, 0⟩, ⟨15, 8, .ro, 0⟩, ⟨3, 0, .ro, 0⟩]⟩,
  -- SPR_T_HEALTH, R518
  ⟨0xFF0700010000, [⟨0, 255, 0x8⟩], .dev, false, [⟨63, 48, .ro, 0⟩, ⟨47, 40, .ro, 0⟩, ⟨33, 33, .ro, 0⟩, ⟨32, 32, .ro, 0⟩, ⟨15, 0, .ro, 0⟩]⟩,
  -- FLT_SEQ, R519
  ⟨0xFF0800000000, [], .dev, false, [⟨31, 0, .ro, 0⟩]⟩,
  -- FLT_COUNT, R519
  ⟨0xFF0800000008, [⟨0, 5, 0x8⟩], .dev, false, [⟨63, 0, .rc, 0⟩]⟩,
  -- FLT_SCRUB_CFG, R519
  ⟨0xFF0800000040, [], .dev, false, [⟨15, 0, .rw, 64⟩]⟩,
  -- FLT_SCRUB_CMD, R519
  ⟨0xFF0800000048, [], .dev, false, [⟨63, 63, .ro, 0⟩, ⟨62, 62, .w1s, 0⟩, ⟨61, 60, .rw, 0⟩, ⟨59, 52, .rw, 0⟩, ⟨51, 26, .rw, 0⟩, ⟨25, 0, .rw, 0⟩]⟩,
  -- FLT_WALKER, R519
  ⟨0xFF0800000100, [⟨0, 7, 0x8⟩], .dev, false, [⟨63, 48, .ro, 0⟩, ⟨47, 40, .ro, 0⟩, ⟨39, 24, .ro, 0⟩, ⟨23, 23, .ro, 0⟩, ⟨7, 0, .ro, 0⟩]⟩,
  -- FLT_PATROL, R519
  ⟨0xFF0800000180, [⟨0, 19, 0x8⟩], .dev, false, [⟨63, 32, .ro, 0⟩, ⟨31, 0, .ro, 0⟩]⟩]

/-- The registers of chapter 17. -/
def layout17 : List RegSpec := [
  -- DMC_STATUS, R550
  ⟨0xFF0000000000, [], .dev, true, [⟨63, 48, .ro, 0⟩, ⟨34, 32, .ro, 0⟩, ⟨2, 2, .ro, 0⟩, ⟨1, 1, .ro, 0⟩, ⟨0, 0, .ro, 0⟩]⟩,
  -- DMC_CTRL, R550
  ⟨0xFF0000000008, [], .dev, false, [⟨0, 0, .w1s, 0⟩]⟩,
  -- DMC_RESET, R550
  ⟨0xFF0000000010, [], .dev, false, [⟨11, 8, .ro, 0⟩, ⟨0, 0, .ro, 0⟩]⟩,
  -- DMC_READY_TIME, R550
  ⟨0xFF0000000018, [], .dev, false, [⟨63, 0, .ro, 0⟩]⟩,
  -- PWR_ENVELOPE, R551
  ⟨0xFF1000000000, [], .dev, false, [⟨20, 20, .rw, 1⟩, ⟨17, 16, .ro, 0⟩, ⟨13, 12, .ro, 0⟩, ⟨9, 8, .ro, 0⟩, ⟨2, 2, .ro, 0⟩, ⟨1, 0, .rw, 0⟩]⟩,
  -- PWR_THERMAL, R551
  ⟨0xFF1000000008, [], .dev, false, [⟨39, 32, .rw, 92⟩, ⟨31, 24, .rw, 85⟩, ⟨15, 8, .rw, 92⟩, ⟨7, 0, .rw, 88⟩]⟩,
  -- PWR_STATUS, R551
  ⟨0xFF1000000010, [], .dev, true, [⟨63, 56, .ro, 0⟩, ⟨55, 47, .ro, 0⟩, ⟨39, 32, .ro, 0⟩, ⟨31, 24, .ro, 0⟩, ⟨19, 16, .ro, 0⟩, ⟨15, 0, .ro, 0⟩]⟩,
  -- PWR_AVS, R551
  ⟨0xFF1000000018, [], .dev, false, [⟨63, 48, .ro, 7200⟩, ⟨47, 32, .rw, 7200⟩, ⟨15, 8, .rw, 60⟩, ⟨0, 0, .rw, 1⟩]⟩,
  -- PWR_TELEM, R551
  ⟨0xFF1000000020, [], .dev, false, [⟨15, 0, .rw, 1000⟩]⟩,
  -- PWR_RAIL, R551
  ⟨0xFF1000000100, [⟨0, 9, 0x8⟩], .dev, false, [⟨63, 48, .ro, 0⟩, ⟨47, 32, .ro, 0⟩, ⟨31, 24, .ro, 0⟩, ⟨15, 0, .ro, 0⟩]⟩,
  -- SRV_CTRL, R552
  ⟨0xFF1100000000, [], .dev, false, [⟨1, 1, .w1c, 0⟩, ⟨0, 0, .w1s, 0⟩]⟩,
  -- SRV_STATUS, R552
  ⟨0xFF1100000008, [], .dev, false, [⟨63, 32, .ro, 0⟩, ⟨31, 16, .ro, 0⟩, ⟨0, 0, .ro, 0⟩]⟩,
  -- SRV_SENSE, R552
  ⟨0xFF1100000100, [⟨0, 31, 0x8⟩], .dev, false, [⟨63, 48, .ro, 0⟩, ⟨47, 32, .ro, 0⟩, ⟨31, 16, .ro, 0⟩, ⟨10, 8, .ro, 0⟩, ⟨3, 0, .ro, 0⟩]⟩,
  -- SRV_SPD_CMD, R552
  ⟨0xFF1100000200, [], .dev, false, [⟨63, 63, .ro, 0⟩, ⟨62, 62, .ro, 0⟩, ⟨61, 61, .w1s, 0⟩, ⟨15, 8, .rw, 0⟩, ⟨6, 4, .rw, 0⟩, ⟨0, 0, .rw, 0⟩]⟩,
  -- SRV_SPD_DATA, R552
  ⟨0xFF1100000240, [⟨0, 7, 0x8⟩], .dev, false, [⟨63, 0, .ro, 0⟩]⟩,
  -- SRV_INV, R552
  ⟨0xFF1100010000, [⟨0, 511, 0x8⟩], .dev, false, [⟨63, 0, .ro, 0⟩]⟩,
  -- SRV_PARTNER, R552
  ⟨0xFF1100020000, [⟨0, 51, 0x2000⟩, ⟨0, 1023, 0x8⟩], .dev, false, [⟨63, 0, .ro, 0⟩]⟩]

/-- Every register table. -/
def layout : List RegSpec :=
  layout01 ++ layout02 ++ layout03 ++ layout04 ++ layout06 ++ layout07 ++ layout08 ++ layout09 ++ layout10 ++ layout11 ++ layout12 ++ layout13 ++ layout14 ++ layout15 ++ layout16 ++ layout17

end Sys2Proof.Machine
end

