-- ==== Sys2Proof/Machine/Ops.lean ====
section
/-! DEFINITION. The named operations over the state: register fields, maps, byte memories, tiles and strands, device
time, and the fault log. Every meaning is written over these. -/

namespace Sys2Proof.Machine

/-! ## Register fields -/

/-- The value of a register field. -/
def Dev.get (d : Dev) (f : RF) : Nat := mget d.regs f.rst f.key
/-- Writes a register field; bits beyond its width are dropped. -/
def Dev.set (d : Dev) (f : RF) (v : Nat) : Dev := { d with regs := mset d.regs f.key (v % 2 ^ f.width) }
/-- Writes a one-bit field. -/
def Dev.flag (d : Dev) (f : RF) (b : Bool) : Dev := d.set f (if b then 1 else 0)
/-- A one-bit field as a truth value. -/
def Dev.is (d : Dev) (f : RF) : Bool := d.get f != 0
/-- Adds to a field that wraps. -/
def Dev.addWrap (d : Dev) (f : RF) (n : Nat) : Dev := d.set f (d.get f + n)
/-- Adds to a counter, which does not wrap but stays at its largest value (R151, R303, R332, R367, R439, R518, R519). -/
def Dev.add (d : Dev) (f : RF) (n : Nat) : Dev := d.set f (min (d.get f + n) (2 ^ f.width - 1))
/-- Sets the field to its reset value. -/
def Dev.clearF (d : Dev) (f : RF) : Dev := d.set f f.rst

/-! ## Byte memories: lists of (address, byte), addresses rising, no byte 0 listed; an unlisted byte reads 0 -/

/-- One byte. -/
def cget (m : List Host.Cell) (a : Nat) : Byte := mget m 0 a
/-- Writes one byte, keeping the canonical form. -/
def cset : List Host.Cell → Nat → Byte → List Host.Cell
  | [], a, v => if v = 0 then [] else [(a, v)]
  | (i, w) :: r, a, v =>
    if a < i then (if v = 0 then (i, w) :: r else (a, v) :: (i, w) :: r)
    else if a = i then (if v = 0 then r else (a, v) :: r)
    else (i, w) :: cset r a v
/-- `n` bytes from `a`. -/
def cread (m : List Host.Cell) (a : Nat) : Nat → List Byte
  | 0 => []
  | n + 1 => cget m a :: cread m (a + 1) n
/-- Writes bytes from `a` up. -/
def cwrite (m : List Host.Cell) (a : Nat) : List Byte → List Host.Cell
  | [] => m
  | b :: bs => cwrite (cset m a b) (a + 1) bs
/-- Zeroes the bytes of [lo, hi). -/
def cclear (m : List Host.Cell) (lo hi : Nat) : List Host.Cell := m.filter (fun e => e.1 < lo || hi ≤ e.1)
/-- The canonical form holds. -/
def Memory.wf : List Host.Cell → Bool
  | [] => true
  | [(_, v)] => v != 0
  | (a, v) :: (b, w) :: r => v != 0 && decide (a < b) && Memory.wf ((b, w) :: r)

/-! ## Tiles, fronds, strands and messaging objects -/

/-- Logical tile n. -/
def Dev.tile (d : Dev) (n : Nat) : Tile := mget d.tiles Tile.init n
/-- Changes logical tile n. -/
def Dev.modTile (d : Dev) (n : Nat) (f : Tile → Tile) : Dev := { d with tiles := mset d.tiles n (f (d.tile n)) }
/-- Frond f of a tile. -/
def Tile.frond (t : Tile) (f : Nat) : Frond := mget t.fronds Frond.init f
/-- Changes frond f. -/
def Tile.modFrond (t : Tile) (f : Nat) (g : Frond → Frond) : Tile :=
  { t with fronds := mset t.fronds f (g (t.frond f)) }
/-- The context of strand s of frond f. -/
def Tile.strand (t : Tile) (f s : Nat) : Strand := mget t.strands Strand.init (f * 8 + s)
/-- Changes a strand's context. -/
def Tile.modStrand (t : Tile) (f s : Nat) (g : Strand → Strand) : Tile :=
  { t with strands := mset t.strands (f * 8 + s) (g (t.strand f s)) }
/-- Bight h of frond f. -/
def Tile.bight (t : Tile) (f h : Nat) : Bight := mget t.bights Bight.init (f * 16 + h)
/-- Changes a bight. -/
def Tile.modBight (t : Tile) (f h : Nat) (g : Bight → Bight) : Tile :=
  { t with bights := mset t.bights (f * 16 + h) (g (t.bight f h)) }
/-- Route entry r of frond f. -/
def Tile.route (t : Tile) (f r : Nat) : Route := mget t.routes Route.init (f * 128 + r)
/-- Changes a route entry. -/
def Tile.modRoute (t : Tile) (f r : Nat) (g : Route → Route) : Tile :=
  { t with routes := mset t.routes (f * 128 + r) (g (t.route f r)) }
/-- Queue q. -/
def Tile.queue (t : Tile) (q : Nat) : Queue := mget t.queues Queue.init q
/-- Changes a queue. -/
def Tile.modQueue (t : Tile) (q : Nat) (g : Queue → Queue) : Tile := { t with queues := mset t.queues q (g (t.queue q)) }
/-- Splice s. -/
def Tile.splice (t : Tile) (s : Nat) : Splice := mget t.splices Splice.init s
/-- Changes a splice. -/
def Tile.modSplice (t : Tile) (s : Nat) (g : Splice → Splice) : Tile :=
  { t with splices := mset t.splices s (g (t.splice s)) }
/-- Hitch h. -/
def Tile.hitch (t : Tile) (h : Nat) : Hitch := mget t.hitches Hitch.init h
/-- Changes a hitch. -/
def Tile.modHitch (t : Tile) (h : Nat) (g : Hitch → Hitch) : Tile := { t with hitches := mset t.hitches h (g (t.hitch h)) }
/-- Tally y. -/
def Tile.tally (t : Tile) (y : Nat) : Word := mget t.tallies 0 y
/-- Changes a strand of tile n. -/
def Dev.modStrand (d : Dev) (n f s : Nat) (g : Strand → Strand) : Dev := d.modTile n (fun t => t.modStrand f s g)
/-- Changes a route entry of tile n. -/
def Dev.modRoute (d : Dev) (n f r : Nat) (g : Route → Route) : Dev := d.modTile n (fun t => t.modRoute f r g)
/-- Changes a queue of tile n. -/
def Dev.modQueue (d : Dev) (n q : Nat) (g : Queue → Queue) : Dev := d.modTile n (fun t => t.modQueue q g)

/-- General register r (R81: g0 reads 0). -/
def Strand.reg (s : Strand) (r : Nat) : Word := if r = 0 then 0 else s.g.getD r 0
/-- Writes general register r; a write to g0 is discarded (R81). A load still in flight to r is overtaken: its value
no longer reaches r (R84 gives the later instruction's result). -/
def Strand.setReg (s : Strand) (r : Nat) (v : Word) : Strand :=
  if r = 0 then s
  else { s with g := lset s.g r v, loads := s.loads.map (fun l => if l.rd = r then { l with rd := 0 } else l) }
/-- Predicate p (R81: p0 reads 1). -/
def Strand.predBit (s : Strand) (p : Nat) : Bool := if p = 0 then true else s.p.getLsbD p
/-- Writes predicate p; a write to p0 is discarded (R81). -/
def Strand.setPred (s : Strand) (p : Nat) (b : Bool) : Strand :=
  if p = 0 then s
  else { s with p := BitVec.ofNat 8 (setBits s.p.toNat p p (if b then 1 else 0)) }
/-- Completion counter k. -/
def Strand.kcnt (s : Strand) (k : Nat) : KCnt := s.k.getD k KCnt.init
/-- Changes completion counter k. -/
def Strand.modK (s : Strand) (k : Nat) (g : KCnt → KCnt) : Strand := { s with k := lset s.k k (g (s.kcnt k)) }

/-- Region, partition, port and context records. -/
def Dev.region (d : Dev) (p : Nat) : Region := mget d.regions Region.init p
def Dev.modRegion (d : Dev) (p : Nat) (f : Region → Region) : Dev := { d with regions := mset d.regions p (f (d.region p)) }
def Dev.part (d : Dev) (p : Nat) : Part := mget d.parts Part.init p
def Dev.modPart (d : Dev) (p : Nat) (f : Part → Part) : Dev := { d with parts := mset d.parts p (f (d.part p)) }
def Dev.port (d : Dev) (n : Nat) : Port := mget d.ports Port.init n
def Dev.modPort (d : Dev) (n : Nat) (f : Port → Port) : Dev := { d with ports := mset d.ports n (f (d.port n)) }
def Dev.ctx (d : Dev) (c : Nat) : Ctx := mget d.ctxs Ctx.init c
def Dev.modCtx (d : Dev) (c : Nat) (f : Ctx → Ctx) : Dev := { d with ctxs := mset d.ctxs c (f (d.ctx c)) }

/-! ## Numbers of things -/

/-- The 256 logical tiles. -/
def allTiles : List Nat := List.range 256
/-- The 15 partitions. -/
def allParts : List Nat := (List.range 15).map (· + 1)
/-- x of a logical tile number (R2). -/
def tileX (n : Nat) : Nat := n % 16
/-- y of a logical tile number (R2). -/
def tileY (n : Nat) : Nat := n / 16
/-- Tiles of a rectangle (R28). -/
def rectTiles (x0 y0 x1 y1 : Nat) : List Nat :=
  allTiles.filter (fun n => x0 ≤ tileX n && tileX n ≤ x1 && y0 ≤ tileY n && tileY n ≤ y1)
/-- Compute die of a logical tile's home position. -/
def dieOf (n : Nat) : Nat := (if tileX n < 8 then 0 else 1) + (if tileY n < 8 then 0 else 2)
/-- Physical identifier of a logical tile's home position (R17). -/
def homePhys (n : Nat) : Nat := dieOf n * 128 + tileY n % 8 * 8 + tileX n % 8
/-- Physical identifier of the position that hosts a logical tile (R17, R307). -/
def Dev.physOf (d : Dev) (n : Nat) : Nat := mget d.spare.phys (homePhys n) n
/-- Tiles of partition p. -/
def Dev.tilesOf (d : Dev) (p : Nat) : List Nat := allTiles.filter (fun n => (d.tile n).part == p)
/-- Runs an update for each element of a list. -/
def forAll {α σ : Type} (l : List α) (s : σ) (f : σ → α → σ) : σ := l.foldl f s

/-! ## Partition and region state codes -/

/-- Partition is FREE, OPEN, SEALED or CLEARING (R440). -/
def Dev.partState (d : Dev) (p : Nat) : Nat := d.get (PART_P_STATE_STATE p)
def Dev.sealed (d : Dev) (p : Nat) : Bool := d.partState p == 2
/-- In service: while SEALED (R440). -/
def Dev.inService (d : Dev) (p : Nat) : Bool := d.partState p == 2
def Dev.anyInService (d : Dev) : Bool := allParts.any d.inService
/-- Region state code (R348). -/
def Dev.regionState (d : Dev) (p : Nat) : Nat := d.get (PART_P_RSTATUS_STATE p)
def Dev.setRegionState (d : Dev) (p v : Nat) : Dev := d.set (PART_P_RSTATUS_STATE p) v
/-- Duty-map field k as now in effect (R34). -/
def Dev.duty (d : Dev) (k : Nat) : Bool := bit (d.get DMC_DUTY_STATE_EFFECTIVE) k == 1

/-! ## Device time -/

/-- Cycles in a second (R6). -/
def secLen : Nat := 1050000000
/-- Device time packed as in TIME_NOW (R102). -/
def packTime (t : Nat) : Nat := t / secLen * 2 ^ 32 + t % secLen
/-- A packed time as a number of cycles (R102). -/
def unpackTime (w : Nat) : Nat := w / 2 ^ 32 * secLen + w % 2 ^ 32
/-- "No time" (R44, R102). -/
def noTime : Nat := 2 ^ 64 - 1
/-- The last representable time (R47). -/
def lastTime : Nat := 2 ^ 32 * secLen - 1
/-- A packed time (R102) as a record holds it (R44): the second, then the cycle. -/
def packedBytes (w : Nat) : List Byte := leBytes 4 (w / 2 ^ 32) ++ leBytes 4 (w % 2 ^ 32)
/-- Device time in a record (R44). -/
def timeBytes (t : Nat) : List Byte := leBytes 4 (t / secLen) ++ leBytes 4 (t % secLen)
/-- "No time" in a record (R44). -/
def noTimeBytes : List Byte := List.replicate 8 0xFF
/-- An optional time in a record. -/
def timeBytes? : Option Nat → List Byte
  | some t => timeBytes t
  | none => noTimeBytes
/-- A time read from a record. -/
def timeAtBytes (bs : List Byte) (o : Nat) : Nat := fieldAt bs o 4 * secLen + fieldAt bs (o + 4) 4

/-! ## The fault log (R501 to R503) -/

/-- A fault record as R501 lays it out, but for its SEQ and TIME. -/
structure FltRec where
  cls : Nat
  sev : Nat
  part : Nat := 0
  tile : Option Nat := none
  unit : Nat := 0xFF
  action : Nat := 0
  addr : Option Nat := none
  count : Nat := 1
  related : Option Nat := none
  detail : List Byte := []

/-- The 128 bytes of a fault record (R501). -/
def fltBytes (d : Dev) (r : FltRec) : List Byte :=
  leBytes 2 1 ++ [1, BitVec.ofNat 8 r.cls] ++ leBytes 4 (d.get FLT_SEQ_SEQ) ++ timeBytes d.now ++
  [BitVec.ofNat 8 r.sev, BitVec.ofNat 8 r.part] ++
  (match r.tile with
   | some n => leBytes 2 n ++ leBytes 2 (d.physOf n)
   | none => leBytes 4 0xFFFFFFFF) ++
  [BitVec.ofNat 8 r.unit, BitVec.ofNat 8 r.action] ++
  (match r.addr with
   | some a => leBytes 8 a
   | none => List.replicate 8 0xFF) ++
  leBytes 4 r.count ++
  (match r.related with
   | some q => leBytes 4 q
   | none => List.replicate 4 0xFF) ++
  zeros 24 ++ slice r.detail 0 64

/-- Classes that R72 does not count as hardware faults. -/
def softClass (c : Nat) : Bool := [1, 7, 8, 9, 0x0A].contains c
/-- Classes that are hardware faults (R72, R502): MEM_UE, LINK, MESH_BOUNDARY, FENCE, ARRAY. -/
def hardClass (c : Nat) : Bool := [2, 5, 6, 0x0C, 0x11].contains c
/-- Queues a record for delivery (R434). -/
def Dev.push (d : Dev) (kind : Nat) (bs : List Byte) : Dev :=
  { d with nop := { d.nop with pushq := d.nop.pushq ++ [⟨kind, bs⟩] } }
/-- Cycles in 1 ms (R6). -/
def msLen : Nat := 1050000

/-- A record that summarises repeated corrected events of a second has its COUNT, and the number in DETAIL, brought up to `k`, while it
still stands in FLT_LOG (R502, R503). DESIGN CHOICE (log 32): the record is written at the first event, and its entry follows. -/
def Dev.recount (d : Dev) (q k : Nat) : Dev :=
  let b := mget d.fltLog [] (q % 256)
  if d.get FLT_SEQ_SEQ ≤ q + 256 then
    { d with fltLog := mset d.fltLog (q % 256) (b.take 32 ++ leBytes 4 k ++ (b.drop 36).take 32 ++ leBytes 4 k ++ b.drop 72) }
  else d
/-- Writes a fault record: FLT_LOG, FLT_SEQ, FLT_COUNT, the FAULT_N pulse of severity 3 and 4 (R517), delivery
(R434), and the note R72 needs of it in the partition's admitted requests. -/
def Dev.log (d : Dev) (r : FltRec) : Dev :=
  let q := d.get FLT_SEQ_SEQ
  let bs := fltBytes d r
  let d := { d with fltLog := mset d.fltLog (q % 256) bs }
  let d := (d.set FLT_SEQ_SEQ (q + 1)).add (FLT_COUNT_V r.sev) 1
  let d := d.push 1 bs
  let d := { d with reqs := d.reqs.map (fun x =>
    if x.part = r.part then
      (if softClass r.cls then { x with soft := q + 1 } else if hardClass r.cls && 3 ≤ r.sev then { x with faulted := q + 1 } else x)
    else x) }
  if 3 ≤ r.sev then
    { d with power := { d.power with sev34 := d.power.sev34 + 1, faultUntil := d.tick + msLen },
             pins := { d.pins with faultN := false } }
  else d
/-- SEQ of the latest fault record. -/
def Dev.lastFlt (d : Dev) : Nat := (d.get FLT_SEQ_SEQ + 2 ^ 32 - 1) % 2 ^ 32

/-- Draws from the counter of free values. -/
def Dev.draw (d : Dev) : Dev := { d with free := d.free + 1 }

end Sys2Proof.Machine
end

