-- ==== Sys2Proof/Machine/Meter.lean ====
section
/-! DEFINITION. The meter's own operations (R473 to R488): the counters it snapshots, charging, closing a record, and
what it observes of a command that changes the partition map, spares something or asserts RESET_N. -/

namespace Sys2Proof.Machine

/-- Meter time in ticks: 156.25 ticks of REFCLK_156 to each sample of 1 us (R474, R477). -/
def Meter.ticks (m : Meter) : Nat := m.samples * 625 / 4

/-- Level of MTR_SEAL_OK (R476). -/
def Meter.sealOk (m : Meter) : Bool := m.powered && m.romOk && m.calOk && m.strips == 0

/-! ## Counters -/

/-- Activity counter c of tile n: products by width for c up to 4, lane operations for 5 (R481). -/
def meterTileCounter (d : Dev) (n c : Nat) : Nat :=
  if c < 5 then d.get (TILE_MX_MACS_V n c) else d.get (TILE_VX_LANEOPS_V n)
/-- Key of a tile's counter in the snapshot. -/
def meterTileKey (n c : Nat) : Nat := n * 8 + c
/-- Key of MEM_Pp_BYTES c in the snapshot. -/
def meterMemKey (p c : Nat) : Nat := 4096 + p * 4 + c
/-- Key of a partition's RES bytes in the snapshot. -/
def meterResKey (p : Nat) : Nat := 8192 + p
/-- RES payload bytes of a partition sent on port H since reset. -/
def meterRes (d : Dev) (p : Nat) : Nat := mget d.nop.resBytes 0 p

/-- Events counted since the last snapshot. A counter that a reset cleared starts from zero (R480). -/
def Meter.delta (m : Meter) (key now : Nat) : Nat :=
  let s := mget m.snap 0 key
  if now < s then now else now - s

/-- The counts a snapshot adds to line p (R480, R481); line 0 does no work. -/
def Meter.charge (m : Meter) (d : Dev) (p : Nat) (c : Counts) : Counts :=
  if p = 0 then c
  else
    let ts := d.tilesOf p
    let t (k : Nat) : Nat := (ts.map fun n => m.delta (meterTileKey n k) (meterTileCounter d n k)).sum
    { c with
      macs := (List.range 5).map fun k => c.macs.getD k 0 + t k
      laneops := c.laneops + t 5
      mem := (List.range 3).map fun k => c.mem.getD k 0 + m.delta (meterMemKey p k) (d.get (MEM_P_BYTES_V p k))
      res := c.res + m.delta (meterResKey p) (meterRes d p) }

/-- The counters as they stand, those at 0 left out. -/
def meterCounters (d : Dev) : List (Nat × Nat) :=
  ((allTiles.flatMap fun n => (List.range 6).map fun c => (meterTileKey n c, meterTileCounter d n c)) ++
   (allParts.flatMap fun p => (List.range 3).map fun c => (meterMemKey p c, d.get (MEM_P_BYTES_V p c))) ++
   (allParts.map fun p => (meterResKey p, meterRes d p))).filter fun e => e.2 != 0

/-- Takes a snapshot of every activity counter (R480). -/
def Meter.snapshot (m : Meter) (d : Dev) : Meter :=
  { m with
    counts := (List.range 16).map fun p => m.charge d p (m.counts.getD p Counts.init)
    snap := meterCounters d }

/-- Tiles of partition number p, 0 included. -/
def meterTilesOf (d : Dev) (p : Nat) : Nat := (d.tilesOf p).length

/-- Charges the tile-ticks up to now under the partition map of `d` (R480). -/
def Meter.chargeTicks (m : Meter) (d : Dev) : Meter :=
  let dt := m.ticks - m.tickMark
  if dt = 0 then m
  else
    { m with
      tickMark := m.ticks
      counts := (List.range 16).map fun p =>
        let c := m.counts.getD p Counts.init
        { c with ticks := c.ticks + meterTilesOf d p * dt } }

/-! ## Records -/

/-- A value of the unsigned 128-bit integers in which the meter computes (R482). -/
def u128 (x : Nat) : Nat := x % 2 ^ 128
/-- Modelled activity a[p] of R482, in femtojoules. -/
def meterActivity (w : List Nat) (p ticks : Nat) (c : Counts) : Nat :=
  let k := c.macs ++ [c.laneops] ++ c.mem ++ [c.res]
  u128 (((List.range 10).map fun i => w.getD i 0 * k.getD i 0).sum + w.getD 10 0 * c.ticks +
    (if p = 0 then w.getD 11 0 * ticks else 0))

/-- Line p of the apportioning of R482 for p of 1 to 15, truncated. -/
def meterShare (total : Nat) (a : List Nat) (p : Nat) : Nat := u128 (total * a.getD p 0) / u128 a.sum

/-- The apportioned energies of the 16 lines: line 0 takes the remainder (R482). -/
def meterApportion (total : Nat) (a : List Nat) : List Nat :=
  let rest := allParts.map (meterShare total a)
  u128 (u128 total + (2 ^ 128 - u128 rest.sum)) :: rest

/-- The 96 bytes of a line (R483). -/
def meterLineBytes (l : MLine) : List Byte :=
  leBytes 1 l.part ++ leBytes 1 l.pstate ++ leBytes 2 l.tiles ++ leBytes 4 l.pinst ++ leBytes 8 l.app ++
  (l.counts.macs ++ [l.counts.laneops] ++ l.counts.mem ++ [l.counts.res]).flatMap (leBytes 8)

/-- Bytes 0 to 1,775 of a record, which the meter signs (R483). -/
def meterBody (r : MRec) : List Byte :=
  leBytes 2 4 ++ leBytes 1 1 ++ leBytes 1 r.flags ++ leBytes 4 6403 ++ slice r.chain 0 32 ++ leBytes 8 r.seq ++
  leBytes 4 r.version ++ leBytes 4 r.interval ++ leBytes 8 r.start ++ leBytes 8 r.end_ ++ slice r.prev 0 64 ++
  leBytes 8 r.total ++ leBytes 8 r.cum ++ r.rails.flatMap (leBytes 8) ++ r.lines.flatMap meterLineBytes ++ zeros 8

/-- The 6,403 bytes of a record: what is signed, and the signature, which is a free value (log 1). -/
def meterBytes (r : MRec) : List Byte :=
  let b := meterBody r
  b ++ (List.range 4627).map (Config.signByte 4 b)

/-- The latest record closed, if the chain has one. -/
def Meter.latest (m : Meter) : Option MRec :=
  if m.nextSeq = 0 then none else (m.records.find? fun e => e.1 == (m.nextSeq - 1) % 256).map (·.2)

/-- The oldest record not yet delivered. -/
def Meter.undelivered (m : Meter) (from_ : Nat) : Option MRec :=
  (m.records.filter fun e => decide (from_ ≤ e.2.seq)).foldl
    (fun (b : Option MRec) e => match b with | some x => if e.2.seq < x.seq then some e.2 else b | none => some e.2) none
/-- State of partition p for a closing record: a partition that leaves FREE in this cycle appears from the next
record on (R479, hard cases of chapter 15; log 12). -/
def meterPstate (d d' : Dev) (p : Nat) : Nat := if d.partState p = 0 then 0 else d'.partState p
/-- Tiles of line p at END. -/
def meterTiles (d d' : Dev) (p : Nat) : Nat :=
  if p != 0 && d.partState p == 0 then 0 else meterTilesOf d' p

/-- Closes the open record and opens the next (R479, R482 to R484). `d` is the device in the cycle before, whose
counters and map are charged; `d'` the device at END. -/
def Meter.close (m : Meter) (d d' : Dev) (early devReset : Bool) : Meter :=
  let m := (m.chargeTicks d).snapshot d
  let now := m.ticks
  let rails := m.acc.map (· / 1000)
  let total := rails.sum
  let a := (List.range 16).map fun p =>
    meterActivity d.fuses.weights p (now - m.start) (m.counts.getD p Counts.init)
  let app := meterApportion total a
  let dt := now - m.start
  -- mean power within 200 W to 2,800 W (R478): mJ against ticks
  let inRange := decide (200000 * dt ≤ total * 156250000) && decide (total * 156250000 ≤ 2800000 * dt)
  let rec_ : MRec := {
    flags := (if m.first then 1 else 0) + (if early then 2 else 0) + (if m.sealOk then 0 else 4) +
      (if inRange then 0 else 8) + (if m.devReset || devReset then 16 else 0)
    chain := m.chain
    seq := m.nextSeq
    version := d.fuses.meterVersion
    interval := d.fuses.interval
    start := m.start
    end_ := now
    prev := match m.latest with
      | some r => sha3 (meterBytes r)
      | none => zeros 64
    total := total
    cum := m.cum + total
    rails := rails
    lines := (List.range 16).map fun p =>
      { part := p, pstate := meterPstate d d' p, tiles := meterTiles d d' p, pinst := m.pinst.getD p 0,
        app := app.getD p 0, counts := m.counts.getD p Counts.init } }
  { m with
    nextSeq := m.nextSeq + 1
    records := mset m.records (m.nextSeq % 256) rec_
    cum := m.cum + total
    start := now
    acc := m.acc.map (· % 1000)
    counts := List.replicate 16 Counts.init
    devReset := false
    first := false
    range := !inRange
    closedAt := some d'.tick
    pinst := (List.range 16).map fun p =>
      m.pinst.getD p 0 + (if p != 0 && d.partState p == 0 && d'.partState p == 1 then 1 else 0) }

/-- Ticks of one INTERVAL. -/
def meterInterval (d : Dev) : Nat := d.fuses.interval * 156250000

/-- Meter time stands at a whole multiple of INTERVAL since the meter's reset. -/
def Meter.atInterval (m : Meter) (d : Dev) : Bool := m.samples % (d.fuses.interval * 1000000) == 0 && m.samples != 0

/-- Some partition leaves or enters FREE between `d` and `d'` (R479). -/
def meterFreeChange (d d' : Dev) : Bool :=
  allParts.any fun p => (d.partState p == 0) != (d'.partState p == 0)

/-- A further point of R479 in the cycle of the latest close adds no record: that record's lines show the partitions as the cycle ends,
one that leaves FREE in it still as FREE, and RESET_N adds DEVRESET. -/
def Meter.amend (m : Meter) (d d' : Dev) (devReset : Bool) : Meter :=
  let line (l : MLine) : MLine :=
    if l.part != 0 && l.pstate == 0 then l
    else { l with pstate := d'.partState l.part, tiles := meterTilesOf d' l.part }
  let rec_ (r : MRec) : MRec :=
    { r with lines := r.lines.map line, flags := if devReset && bit r.flags 4 == 0 then r.flags + 16 else r.flags }
  let m := (m.chargeTicks d).snapshot d
  { m with
    records := m.records.map fun e => if e.1 == (m.nextSeq + 255) % 256 then (e.1, rec_ e.2) else e
    pinst := (List.range 16).map fun p =>
      m.pinst.getD p 0 + (if p != 0 && d.partState p == 0 && d'.partState p == 1 then 1 else 0) }

/-- What the meter does as a command takes the device from `d` to `d'` (R475, R479, R480): it closes a record where a
partition leaves or enters FREE or RESET_N asserts, once a cycle; takes a snapshot at a sparing action, and otherwise charges the
tile-ticks so far if the partition map changes; the activity of a tile that leaves its partition is then charged to that
partition, whose line carries it (hard cases of chapter 15; log 17). The loss of the device's rails is no point of R479: the counters
that go with them are charged, and start from zero (log 32). -/
def Meter.observe (m : Meter) (d d' : Dev) : Meter :=
  if !m.powered then m
  else
    let reset := d.pins.resetN && !d'.pins.resetN
    let again := m.closedAt == some d'.tick && m.nextSeq != 0
    if !reset && d.pins.pwrGood && !d'.pins.pwrGood then { (m.chargeTicks d).snapshot d with snap := [] }
    else if reset then
      if again then { m.amend d d' true with snap := [] } else { m.close d d' (!m.atInterval d) true with snap := [] }
    else if meterFreeChange d d' then
      if again then m.amend d d' false else m.close d d' (!m.atInterval d) false
    else if d'.spare.switches != d.spare.switches || allTiles.any (fun n => (d.tile n).part != (d'.tile n).part) then
      { (m.chargeTicks d).snapshot d with snap := meterCounters d' }
    else m

end Sys2Proof.Machine
end

