-- ==== Sys2Proof/Machine/Run.lean ====
section
/-! DEFINITION. How a command's effect on the device becomes the next state. -/

namespace Sys2Proof.Machine

/-- The device runs: it is not held in reset (R524) and its clocks are not stopped (R542). -/
def Dev.live (d : Dev) : Bool := !d.inReset && !d.stopped

/-- A command whose effect is on the device alone. A device that is held in reset or stopped does nothing. -/
def run (f : Dev → Dev) (s : State) : Host.Outcome State Fault Refusal :=
  .next { s with dev := if s.dev.live then f s.dev else s.dev }

/-- A command that can change what the meter observes: the partition map, sparing, or RESET_N (R475). -/
def runM (f : Dev → Dev) (s : State) : Host.Outcome State Fault Refusal :=
  let d := if s.dev.live then f s.dev else s.dev
  .next { s with dev := d, mtr := s.mtr.observe s.dev d }

/-- A command of the pins, the meter or the boundary scan, which acts in any state. -/
def runAlways (f : Dev → Dev) (s : State) : Host.Outcome State Fault Refusal :=
  let d := f s.dev
  .next { s with dev := d, mtr := s.mtr.observe s.dev d }

/-- A command of the meter alone. -/
def runMeter (f : Dev → Meter → Meter) (s : State) : Host.Outcome State Fault Refusal :=
  .next { s with mtr := f s.dev s.mtr }

/-- A command that reads the meter as well (register reads, delivery). -/
def runRead (f : Meter → Dev → Dev) (s : State) : Host.Outcome State Fault Refusal :=
  let d := if s.dev.live then f s.mtr s.dev else s.dev
  .next { s with dev := d, mtr := s.mtr.observe s.dev d }

end Sys2Proof.Machine
end

