-- ==== Sys2Proof/Machine/Store.lean ====
section
/-! DEFINITION. A tile's window (R21, R95): its regions, its scratchpad quarters (R239), bytes read and written in it,
and the errors its check bits show (R259, R497). -/

namespace Sys2Proof.Machine

/-- The regions of a tile window (R21, R95). -/
inductive WinRegion where
  | scratch | acc | fstore | queues | splices | desc | regs | none
  deriving DecidableEq, Repr

/-- The region an offset lies in (R95). -/
def winRegion (off : Nat) : WinRegion :=
  if off < 0x1800000 then .scratch
  else if off < 0x1900000 then .acc
  else if off < 0x1980000 then .fstore
  else if off < 0x1990000 then .queues
  else if off < 0x19B0000 then .splices
  else if off < 0x19B1000 then .desc
  else if 0x1A00000 ≤ off && off < 0x1A10000 then .regs
  else .none

/-- The region that all of `n` bytes from `off` lie in, none where they do not lie in one. -/
def winRange (off n : Nat) : WinRegion :=
  if winRegion off = winRegion (off + n - 1) then winRegion off else .none

/-- First byte of a scratchpad quarter, and one past its last (R239's table). -/
def quarterLo (j : Nat) : Nat := j * 0x600000
/-- The quarter of a scratchpad offset. -/
def quarterOf (off : Nat) : Nat := off / 0x600000

/-- Power state of quarter j. -/
def Tile.quarter (t : Tile) (j : Nat) : QPower :=
  match j with
  | 0 => t.q0
  | 1 => t.q1
  | 2 => t.q2
  | _ => t.q3
/-- Changes the power state of quarter j. -/
def Tile.setQuarter (t : Tile) (j : Nat) (q : QPower) : Tile :=
  match j with
  | 0 => { t with q0 := q }
  | 1 => { t with q1 := q }
  | 2 => { t with q2 := q }
  | _ => { t with q3 := q }
/-- Every byte of [off, off + n) lies in a quarter that is ON. -/
def Tile.rangeOn (t : Tile) (off n : Nat) : Bool :=
  (List.range 4).all fun j =>
    t.quarter j == .on || !(decide (off < quarterLo (j + 1)) && decide (quarterLo j < off + n))

/-- The bytes of the window as they stand; tile registers are read elsewhere. Offsets from 2^32 on are no part of the window: they hold
what a step of an engine has read and will write, while its effect is computed, and no state keeps them. Bytes in a quarter that is not ON read
zero (R239). -/
def Tile.winRead (t : Tile) (off n : Nat) : List Byte :=
  if 2 ^ 32 ≤ off then cread t.scratch off n
  else match winRegion off with
  | .scratch => if t.rangeOn off n then cread t.scratch off n else
      (List.range n).map fun i => if t.rangeOn (off + i) 1 then cget t.scratch (off + i) else 0
  | .acc => cread t.acc off n
  | .fstore => cread t.fstore off n
  | .queues => cread t.qmem off n
  | .splices => cread t.smem off n
  | .desc => cread t.desc off n
  | _ => zeros n

/-- 64-bit words (by offset) that lie wholly within the bytes written: a write gives them fresh check bits
(R238, R497). -/
def coveredWords (bad : List Nat) (off n : Nat) : List Nat :=
  bad.filter fun w => !(decide (off ≤ w) && decide (w + 8 ≤ off + n))

/-- The bad words that stay after a write outside the scratchpad: those of lines that it does not replace whole (R497). -/
def coveredLines (bad : List Nat) (off n : Nat) : List Nat :=
  bad.filter fun w => !(decide (off ≤ w / 256 * 256) && decide (w / 256 * 256 + 256 ≤ off + n))

/-- Whole lines of scratchpad that a write replaces and that held an uncorrectable word (R499). -/
def badLines (bad : List Nat) (off n : Nat) : List Nat :=
  ((bad.filter fun w => decide (off ≤ w / 256 * 256) && decide (w / 256 * 256 + 256 ≤ off + n)).map (· / 256)).eraseDups

/-- Writes bytes of the window; a byte of a quarter that is not ON is not written (R239). -/
def Tile.winWrite (t : Tile) (off : Nat) (bs : List Byte) : Tile :=
  if 2 ^ 32 ≤ off then { t with scratch := cwrite t.scratch off bs }
  else match winRegion off with
  | .scratch =>
    if t.rangeOn off bs.length then
      { t with scratch := cwrite t.scratch off bs, bad := coveredWords t.bad off bs.length,
               repairDue := t.repairDue ++ badLines t.bad off bs.length }
    else t
  | .acc => { t with acc := cwrite t.acc off bs, bad := coveredLines t.bad off bs.length }
  | .fstore => { t with fstore := cwrite t.fstore off bs, bad := coveredLines t.bad off bs.length }
  | .queues => { t with qmem := cwrite t.qmem off bs, bad := coveredLines t.bad off bs.length }
  | .splices => { t with smem := cwrite t.smem off bs, bad := coveredLines t.bad off bs.length }
  | .desc => { t with desc := cwrite t.desc off bs, bad := coveredLines t.bad off bs.length }
  | _ => t

/-- Some word that the bytes touch holds an uncorrectable error (R497). -/
def Tile.ueIn (t : Tile) (off n : Nat) : Bool :=
  t.bad.any fun w => decide (w < off + n) && decide (off < w + 8)
/-- Some word that the bytes cover only in part holds one (R238, R259). -/
def Tile.uePartial (t : Tile) (off n : Nat) : Bool :=
  t.bad.any fun w => decide (w < off + n) && decide (off < w + 8) && !(decide (off ≤ w) && decide (w + 8 ≤ off + n))
/-- A word of the bytes of an access, freely chosen (R259). -/
def someWord (free off len : Nat) : Nat :=
  (off / 8 + Config.eccWord free % ((off + len - 1) / 8 + 1 - off / 8)) * 8
/-- The word that a merge covers only in part: its first one where that is so, else its last. -/
def partWord (off len : Nat) : Nat := if off % 8 != 0 then off / 8 * 8 else (off + len) / 8 * 8

/-- The first word of the bytes that holds an uncorrectable error, or the bytes' own start where none is known to. -/
def Tile.ueAddr (t : Tile) (off n : Nat) : Nat :=
  match t.bad.filter fun w => decide (w < off + n) && decide (off < w + 8) with
  | w :: ws => ws.foldl min w
  | [] => off
/-- Marks the first word that the bytes touch as uncorrectable. -/
def Tile.markBad (t : Tile) (off : Nat) : Tile :=
  let w := off / 8 * 8
  if t.bad.contains w then t else { t with bad := w :: t.bad }

/-- A word of scratchpad is corrected (R506): the first time in a scrub pass it is noted, and the second time its line is due for a
spare. -/
def Tile.notedWord (t : Tile) (w : Nat) : Tile :=
  if !t.twice.contains w then { t with twice := w :: t.twice }
  else if t.scrubDue.contains (w / 32) then t
  else { t with scrubDue := t.scrubDue ++ [w / 32] }
/-- A corrected error in a tile (R259, R490): counted in TILE_SP_ECC for scratchpad, in the tile's count of the
second, and noted for the walker's rewrite and for a spare line (R506). -/
def Dev.corrected (d : Dev) (n off : Nat) : Dev :=
  let d := d.modTile n fun t =>
    { t with ceSecond := t.ceSecond + 1,
             ceLines := if t.ceLines.contains (off / 256) then t.ceLines else (off / 256) :: t.ceLines }
  let d := if winRegion off = .scratch then d.modTile n fun t => t.notedWord (off / 8) else d
  match winRegion off with
  | .scratch => (d.add (TILE_SP_ECC_CE_COUNT n) 1).set (TILE_SP_ECC_CE_LINE n) (off / 256)
  | _ => d

/-- The bight of frond f that holds a scratchpad line, with its ring slot (R246). -/
def Tile.bightAt (t : Tile) (f line : Nat) : Option (Nat × Nat) :=
  (((List.range 15).map (· + 1)).find? fun h =>
    let b := t.bight f h
    b.valid && decide (b.base ≤ line) && decide (line < b.base + b.lines)).map fun h => (h, line - (t.bight f h).base)
/-- Ring slot i of a bight is FULL (R247). -/
def Bight.fullAt (b : Bight) (i : Nat) : Bool :=
  decide ((i + b.lines - b.drain) % b.lines < b.full)
/-- The line lies FULL in a bight of frond f (R253). -/
def Tile.lineFull (t : Tile) (f line : Nat) : Bool :=
  match t.bightAt f line with
  | some (h, i) => (t.bight f h).fullAt i
  | none => false
/-- The line lies in a queue extension (R283). -/
def Tile.extLine (t : Tile) (line : Nat) : Bool :=
  (List.range 64).any fun q =>
    let x := t.queue q
    decide (x.extBase ≤ line) && decide (line < x.extBase + x.extLen / 4)
/-- Marks n lines FULL (R247). -/
def Bight.fillN (b : Bight) (n : Nat) : Bight := { b with fill := (b.fill + n) % b.lines, full := b.full + n }
/-- Marks n lines EMPTY (R247). -/
def Bight.drainN (b : Bight) (n : Nat) : Bight := { b with drain := (b.drain + n) % b.lines, full := b.full - n }

/-- Entries of a queue's extension whose lines lie in quarter j (R281). -/
def Queue.extIn (q : Queue) (j : Nat) : List ExtEntry := q.ext.filter fun e => quarterOf (q.extBase * 256 + e.pos * 64) == j
/-- Extension entries of the tile in quarter j (R281). -/
def Tile.extCount (t : Tile) (j : Nat) : Nat := (t.queues.map fun e => (e.2.extIn j).length).sum
/-- Contents of quarter j go, the extension entries there with them: in OFF it holds nothing, and from OFF it is cleared
(R240, R241, R281). -/
def Tile.clearQuarter (t : Tile) (j : Nat) : Tile :=
  { t with
    scratch := cclear t.scratch (quarterLo j) (quarterLo (j + 1))
    bad := t.bad.filter fun w => decide (w < quarterLo j) || decide (quarterLo (j + 1) ≤ w)
    queues := t.queues.map fun e =>
      (e.1, { e.2 with ext := e.2.ext.filter fun x => quarterOf (e.2.extBase * 256 + x.pos * 64) != j }) }
/-- Quarter j is in OFF, is to go there, or came from there: brought ON now, it holds zeros (R240, R241, R245). -/
def Tile.quarterLost (t : Tile) (j : Nat) : Bool :=
  match t.quarter j with
  | .off => true
  | .leaving 0 => true
  | .changing k fromOff => k == 0 || fromOff
  | _ => false

/-- Zeroes every memory and object of a tile as R261 clears it: a quarter that is OFF, or goes there, stays OFF, one that
goes from OFF to RETAIN holds zeros and stays as its change ends, and the others are ON. -/
def Tile.wiped (t : Tile) : Tile :=
  let w (q : QPower) : QPower := match q with
    | .off => .off
    | .leaving 0 => .off
    | .changing 0 _ => .off
    | .changing 1 true => .retain
    | _ => .on
  { t with
    q0 := w t.q0, q1 := w t.q1, q2 := w t.q2, q3 := w t.q3
    scratch := [], acc := [], fstore := [], qmem := [], smem := [], desc := [], bad := []
    bights := [], routes := [], queues := [], splices := [], hitches := [], tallies := []
    fronds := [], strands := [], retained := [], arrivals := [], outbox := []
    mx := Engine.init, vx := Engine.init, dma0 := Engine.init, dma1 := Engine.init, fc := Engine.init }

/-- Bank of a line (R230). -/
def bankOf (hashed : Bool) (l : Nat) : Nat :=
  if hashed then (l % 16) ^^^ (l / 16 % 16) ^^^ (l / 256 % 16) ^^^ (l / 4096 % 16) ^^^ (l / 65536 % 2) else l % 16
end Sys2Proof.Machine
end

