-- ==== Sys2Proof/Machine/MeshOps.lean ====
section
/-! DEFINITION. The mesh's named operations: positions and routes (R307, R308), flits and their headers (R318 to R321),
injection, and delivery at a router's local port (R287, R328). -/

namespace Sys2Proof.Machine

/-! ## Positions -/

/-- The position is a spare's (R17). -/
def isSpare (ph : Nat) : Bool := decide (64 ≤ ph % 128)
/-- Column of a regular position. -/
def gx (ph : Nat) : Nat := ph / 128 % 2 * 8 + ph % 128 % 8
/-- Row of a regular position. -/
def gy (ph : Nat) : Nat := ph / 256 * 8 + ph % 128 / 8
/-- Identifier of the regular position (x, y). -/
def physAt (x y : Nat) : Nat := (x / 8 + 2 * (y / 8)) * 128 + y % 8 * 8 + x % 8
/-- First of the two columns that a spare serves. -/
def spareCol (ph : Nat) : Nat := ph / 128 % 2 * 8 + 2 * (ph % 128 - 64)
/-- The row of routers a spare's links reach. -/
def spareRow (ph : Nat) : Nat := if ph / 128 < 2 then 0 else 15
/-- The spare of a column at the edge of row y. -/
def spareAt (x y : Nat) : Nat := physAt x y / 128 * 128 + 64 + x % 8 / 2

/-- The logical tile that a position hosts, if any (R307). -/
def Dev.hostOf (d : Dev) (ph : Nat) : Option Nat :=
  match d.spare.phys.find? (fun e => e.2 == ph) with
  | some e => some e.1
  | none =>
    if isSpare ph || decide (512 ≤ ph) then none
    else
      let n := gy ph * 16 + gx ph
      if d.physOf n = ph then some n else none

/-- The output a flit for logical tile `dt` takes at the router at `r` (R308). -/
def Dev.nextDir (d : Dev) (r dt : Nat) : Dir :=
  let ph := d.physOf dt
  if ph = r then .l
  else if isSpare r then
    match d.hostOf r with
    | some n => if tileX n % 2 = 0 then .w else .e
    | none => .w
  else
    let tx := if isSpare ph then tileX dt else gx ph
    let ty := if isSpare ph then spareRow ph else gy ph
    if gx r < tx then .e
    else if tx < gx r then .w
    else if gy r < ty then .s
    else if ty < gy r then .n
    else if ph / 128 < 2 then .n else .s

/-- The router and input that an output's channel leads to; none for the local port and at the grid's edge. -/
def meshNeighbour (r : Nat) (dir : Dir) : Option (Nat × Dir) :=
  if isSpare r then
    let into : Dir := if spareRow r = 0 then .n else .s
    match dir with
    | .w => some (physAt (spareCol r) (spareRow r), into)
    | .e => some (physAt (spareCol r + 1) (spareRow r), into)
    | _ => none
  else
    let toSpare : Nat × Dir := (spareAt (gx r) (gy r), if gx r % 2 = 0 then .w else .e)
    match dir with
    | .e => if gx r < 15 then some (physAt (gx r + 1) (gy r), .w) else none
    | .w => if 0 < gx r then some (physAt (gx r - 1) (gy r), .e) else none
    | .s => if gy r < 15 then some (physAt (gx r) (gy r + 1), .n) else some toSpare
    | .n => if 0 < gy r then some (physAt (gx r) (gy r - 1), .s) else some toSpare
    | .l => none

/-- The die crossing that a channel uses, with whether it runs eastward or southward (R332): edges in row k for k
below 16, in column k - 16 above. -/
def meshCrossing (r : Nat) (dir : Dir) : Option (Nat × Bool) :=
  if isSpare r then none
  else
    match dir with
    | .e => if gx r = 7 then some (gy r, true) else none
    | .w => if gx r = 8 then some (gy r, false) else none
    | .s => if gy r = 7 then some (16 + gx r, true) else none
    | .n => if gy r = 8 then some (16 + gx r, false) else none
    | .l => none

/-- Code of a direction, in the order of R39. -/
def dirCode : Dir → Nat
  | .n => 0
  | .e => 1
  | .s => 2
  | .w => 3
  | .l => 4
/-- Code of a class, in the order of MESH_Rn_FLITS (R332). -/
def clsCode : FClass → Nat
  | .hitch => 0
  | .c => 1
  | .m => 2
  | .q => 3
  | .g => 4
  | .t => 5
/-- The inputs in order (R39). -/
def allDirs : List Dir := [.n, .e, .s, .w, .l]

/-! ## Routers -/

/-- The router at a position. -/
def Dev.router (d : Dev) (r : Nat) : Router := mget d.routers Router.init r
/-- Changes a router. -/
def Dev.modRouter (d : Dev) (r : Nat) (f : Router → Router) : Dev := { d with routers := mset d.routers r (f (d.router r)) }
/-- Buffered flits of an input and class. -/
def Router.inputQ (r : Router) (i : Dir) (c : FClass) : List Flit := mget r.inq [] (dirCode i * 8 + clsCode c)
/-- Replaces the buffered flits of an input and class. -/
def Router.setInputQ (r : Router) (i : Dir) (c : FClass) (l : List Flit) : Router :=
  { r with inq := mset r.inq (dirCode i * 8 + clsCode c) l }
/-- An outgoing channel. -/
def Router.chan (r : Router) (o : Dir) : Chan := mget r.outs Chan.init (dirCode o)
/-- Changes an outgoing channel. -/
def Router.modChan (r : Router) (o : Dir) (f : Chan → Chan) : Router := { r with outs := mset r.outs (dirCode o) (f (r.chan o)) }
/-- The lane of a channel that carries a class: 0 the hitch sub-lane, 1 the general C sub-lane, 2 the data path of M, Q, G
and T (R304). -/
def laneCode : FClass → Nat
  | .hitch => 0
  | .c => 1
  | _ => 2
/-- The lane of a class. -/
def Chan.lane (c : Chan) (k : FClass) : Lane := mget c.lanes Lane.init (laneCode k)
/-- Changes the lane of a class. -/
def Chan.modLane (c : Chan) (k : FClass) (f : Lane → Lane) : Chan := { c with lanes := mset c.lanes (laneCode k) (f (c.lane k)) }
/-- A reduction entry for splice s of tile n, if the router holds one (R326). -/
def Router.red (r : Router) (n s : Nat) : Option Reduction := (r.reds.find? fun e => e.1 == n * 16 + s).map (·.2)

/-! ## Flits -/

/-- TYPE and payload of a flit (R319), none for a payload the spec does not lay out. -/
def flitType : FlitBody → Nat × Option (List Byte)
  | .hitch _ _ => (0, none)
  | .credit _ _ _ => (1, none)
  | .spliceCredit _ => (1, none)
  | .revoked _ _ => (2, none)
  | .closeN _ _ => (3, none)
  | .staleN _ _ => (4, none)
  | .reopenN _ _ _ _ => (5, none)
  | .tally isSet _ _ _ => (if isSet then 7 else 6, none)
  | .tallyReply _ _ _ => (8, none)
  | .entry light _ len _ _ data => if light then (9, some (data.take len)) else (1, some data)
  | .probe _ _ _ _ => (0xA, none)
  | .fence _ => (0xF, none)
  | .contrib _ _ _ _ vs => (1, some (vs.flatMap (leBytes 4)))
  | .read _ _ _ _ => (1, none)
  | .readData _ _ data _ => (2, some data)
  | .write _ _ _ data => (1, some data)

/-- INDEX and SEQ of a flit's header, where its body tells them (R318); notices and replies take them from what they are
about. -/
def flitFields : FlitBody → Nat × Nat
  | .tally _ i _ _ => (i, 0)
  | .entry _ q _ e _ _ => (q, e)
  | .probe _ q _ _ => (q, 0)
  | .contrib s q _ _ _ => (s, q)
  | .spliceCredit s => (s, 0)
  | _ => (0, 0)
/-- WEIGHT of a flit's header (R318). -/
def flitWeight : FlitBody → Nat
  | .contrib _ _ w _ _ => w
  | _ => 0

/-- One byte into the CRC-16 of R321: polynomial 0x1021, most significant bit first. -/
def crcByte (crc : Nat) (b : Byte) : Nat :=
  (List.range 8).foldl (fun c i =>
    let top := (c / 2 ^ 15) % 2 != bit b.toNat (7 - i)
    let c := c * 2 % 2 ^ 16
    if top then c ^^^ 0x1021 else c) crc
/-- CRC-16 from initial value 0xFFFF (R321). -/
def crc16 (bs : List Byte) : Nat := bs.foldl crcByte 0xFFFF

/-- Class code of a header (R318). -/
def hdrClass : FClass → Nat
  | .hitch => 0
  | .c => 0
  | .m => 1
  | .q => 2
  | .g => 3
  | .t => 4

/-- The 8 bytes of a hitch flit (R320). -/
def hitchBytes (f : Flit) (h count : Nat) : List Byte :=
  let b := leBytes 2 (f.dest + if f.mcast then 2 ^ 15 else 0) ++ leBytes 1 h ++ leBytes 1 f.part ++ leBytes 2 count
  b ++ leBytes 2 (crc16 b)

/-- The 16 header bytes of a flit of the data path or the general C sub-lane (R318). -/
def dataHeader (f : Flit) : List Byte :=
  let (ty, pay) := flitType f.body
  let ty := if f.cls == .g && f.mcast then 2 else ty
  let head (len : Byte) : List Byte :=
    leBytes 1 (hdrClass f.cls + (if f.mcast then 8 else 0) + ty * 16) ++ leBytes 1 (f.part + f.frond * 16) ++
    leBytes 1 f.src ++ leBytes 1 f.sstr ++ leBytes 2 f.dest ++ leBytes 1 f.index ++ [len] ++ leBytes 2 (flitWeight f.body) ++ leBytes 2 f.seq ++
    leBytes 2 f.user
  match pay with
  | some p =>
    let h := head (BitVec.ofNat 8 (p.length - 1))
    h ++ leBytes 2 (crc16 (h ++ p))
  | none =>
    head (Config.flitByte (hdrClass f.cls) ty 0) ++ [Config.flitByte (hdrClass f.cls) ty 1, Config.flitByte (hdrClass f.cls) ty 2]

/-- The header bytes of a flit: 16, or the 8 of a hitch flit (R318, R320). -/
def flitHeader (f : Flit) : List Byte :=
  match f.body with
  | .hitch h k => hitchBytes f h k
  | _ => dataHeader f

/-- A unicast flit from tile n; PART is the tile's own (R328). -/
def Dev.mkFlit (d : Dev) (n : Nat) (cls : FClass) (frond sstr dest user : Nat) (body : FlitBody) : Flit :=
  { cls := cls, part := (d.tile n).part, frond := frond, src := n, sstr := sstr, mcast := false, dest := dest,
    dests := [dest], user := user, injected := d.tick, body := body, index := (flitFields body).1, seq := (flitFields body).2,
    also := [] }

/-- The routes whose contributions a flit carries: tile, frond, route entry (R291, R326). -/
def Flit.writers (f : Flit) : List (Nat × Nat × Nat) :=
  match f.body with
  | .contrib _ _ _ e _ => (f.src, f.frond, e) :: f.also
  | _ => []

/-- Takes up a contribution at a router that reduces its splice (R326): into the entry's buffer for that input. None
where the router holds no live entry for it. -/
def Router.takeContrib (r : Router) (i : Dir) (f : Flit) : Option Router :=
  match f.body with
  | .contrib s _ _ _ _ =>
    match r.red f.dest s with
    | some e =>
      if !f.mcast && !e.revoked && e.inputs.contains i then
        some { r with reds := r.reds.map fun x =>
          if x.1 = f.dest * 16 + s then (x.1, { x.2 with bufs := x.2.bufs ++ [(i, f)] }) else x }
      else none
    | none => none
  | _ => none

/-- Flits that one buffer of an input holds: class G keeps multicast flits and contributions apart (R325). -/
def sameBuffer (f g : Flit) : Bool := g.cls == f.cls && (f.cls != .g || f.mcast == g.mcast)
/-- The live reduction entry of a router that takes a contribution at input i, by its key (R326). -/
def Router.redFor (r : Router) (i : Dir) (f : Flit) : Option (Nat × Reduction) :=
  match f.body with
  | .contrib s _ _ _ _ =>
    (r.reds.find? fun e => e.1 == f.dest * 16 + s).filter fun e => !f.mcast && e.2.inputs.contains i && !e.2.revoked
  | _ => none
/-- Input i of a router has room for a flit beside `way` flits of its kind under way (R315, R317, R326): 128 general C flits, 8
of another class, 2 contributions of a reduction entry. A hitch flit never waits (R314). -/
def Router.roomFor (r : Router) (i : Dir) (f : Flit) (way : Nat) : Bool :=
  match f.cls, r.redFor i f with
  | .hitch, _ => true
  | _, some e => decide (way + (e.2.bufs.filter fun b => b.1 == i).length < 2)
  | .c, none => decide (way + (r.inputQ i .c).length < 128)
  | _, none => decide (way + ((r.inputQ i f.cls).filter (sameBuffer f)).length < 8)

/-- Moves the flits of a list into a router's local input while it has room, in order for each buffer; answers the router and
what still waits. A flit's injection cycle is the one in which it enters (R315). -/
def Router.enter (tick : Nat) : Router → List Flit → List Flit → Router × List Flit
  | r, kept, [] => (r, kept)
  | r, kept, f :: rest =>
    let same (g : Flit) : Bool := sameBuffer f g && ((r.redFor .l f).map (·.1)) == ((r.redFor .l g).map (·.1))
    if kept.any same || !r.roomFor .l f 0 then Router.enter tick r (kept ++ [f]) rest
    else
      let g := { f with injected := tick }
      Router.enter tick (match r.takeContrib .l g with
        | some r' => r'
        | none => r.setInputQ .l g.cls (r.inputQ .l g.cls ++ [g])) kept rest
/-- What waits at tile n enters its router's local input, as far as there is room (R315, R317, R326). -/
def Dev.enterRouter (d : Dev) (n : Nat) : Dev :=
  let x := Router.enter d.tick (d.router (d.physOf n)) [] (d.tile n).outbox
  (d.modRouter (d.physOf n) fun _ => x.1).modTile n fun t => { t with outbox := x.2 }

/-- A flit goes to the source router of tile n, behind those that wait there. -/
def Dev.inject (d : Dev) (n : Nat) (f : Flit) : Dev :=
  (d.modTile n fun t => { t with outbox := t.outbox ++ [f] }).enterRouter n

/-- Sends a unicast flit from tile n. -/
def Dev.sendFlit (d : Dev) (n : Nat) (cls : FClass) (frond sstr dest user : Nat) (body : FlitBody) : Dev :=
  d.inject n (d.mkFlit n cls frond sstr dest user body)
/-- Sends a notice or a reply of class C from tile n about the object `index`, with SEQ `seq` (R318). -/
def Dev.sendNote (d : Dev) (n frond dest index seq : Nat) (body : FlitBody) : Dev :=
  d.inject n { d.mkFlit n .c frond 0 dest 0 body with index := index, seq := seq }

/-! ## Accesses to another tile's window -/

/-- Status codes (R99). -/
def stOk : Byte := 0
def stFull : Byte := 1
def stTimeout : Byte := 2
def stClosed : Byte := 3
def stStale : Byte := 4
def stEmpty : Byte := 5
def stUnmapped : Byte := 6
def stDenied : Byte := 7
def stExhausted : Byte := 8
def stBusy : Byte := 9
def stRevoked : Byte := 0x0A
def stBight : Byte := 0x0B

/-- Status of an access from outside the tile to its window memory (R95, R239, R262, R349, R504); tile registers are
reached elsewhere. -/
def Dev.winStatus (d : Dev) (n off len : Nat) (isWrite : Bool) : Byte :=
  let t := d.tile n
  if t.held || t.clearing then stDenied
  else
    match winRange off len with
    | .none => stUnmapped
    | .scratch => if t.rangeOn off len then stOk else stUnmapped
    | .acc => stOk
    | .desc => stOk
    | .regs => stUnmapped
    | _ => if isWrite then stDenied else stOk

/-- An access of tile `n`'s DMA engine was answered: `data` for a read, and its status. -/
def Dev.answerDma (d : Dev) (n eng id : Nat) (data : Option (List Byte)) (st : Byte) : Dev :=
  let upd (a : DmaAccess) : DmaAccess :=
    if a.id = id && !a.done then
      let left := a.left - 1
      { a with data := if data.isSome then data else a.data, left := left, done := decide (left = 0),
               status := if a.status = 0 then st else a.status }
    else a
  let e (x : Engine) : Engine := { x with run := x.run.map fun r => { r with flight := r.flight.map upd } }
  d.modTile n fun t => if eng = 0 then { t with dma0 := e t.dma0 } else { t with dma1 := e t.dma1 }

/-- Window offset of a device address (R21). -/
def winOffset (a : Nat) : Nat := (a - 0xF00000000000) % 0x2000000
/-- Logical tile of a device address in the tile windows (R21). -/
def winTile (a : Nat) : Nat := (a - 0xF00000000000) / 0x2000000
/-- The address lies in a tile window (R20). -/
def inWindows (a : Nat) : Bool := decide (0xF00000000000 ≤ a) && decide (a < 0xF00200000000)

/-! ## Delivery -/

/-- What goes back to the sender of a flit that a fenced tile's router drops (R287). -/
def Dev.dropFenced (d : Dev) (n : Nat) (f : Flit) : Dev :=
  let d := d.add (MESH_R_DROP_FENCE n) 1
  match f.body with
  | .entry _ _ _ _ e _ => d.sendNote n 0 f.src f.index f.seq (.revoked (e / 128) (e % 128))
  | .contrib _ _ _ _ _ => f.writers.foldl (fun d w => d.sendNote n 0 w.1 f.index f.seq (.revoked w.2.1 w.2.2)) d
  | .tally _ _ _ s => d.sendNote n f.frond f.src f.index 0 (.tallyReply 0 stRevoked s)
  | .read _ _ g i => d.answerDma f.src g i (some []) stRevoked
  | .write _ g i _ => d.answerDma f.src g i none stRevoked
  | _ => d

/-- A flit of another partition (R328): counted, captured, recorded and dropped; a request completes DENIED at its sender, so
the reply carries the sender's PART (log 31). Bytes 8 to 15 of the capture are 0 for a hitch flit, which has 8. -/
def Dev.dropDenied (d : Dev) (n : Nat) (f : Flit) : Dev :=
  let h := flitHeader f
  let d := (d.add (MESH_R_DROP_DENY n) 1).set MESH_CAP_LO_V (fieldAt h 0 8)
  let d := (d.set MESH_CAP_HI_V (fieldAt h 8 8)).add MESH_CAP_INFO_COUNT 1
  let d := (d.set MESH_CAP_INFO_ROUTER n).set MESH_CAP_INFO_PART (d.tile n).part
  let d := d.log { cls := 6, sev := 3, part := (d.tile n).part, tile := some n, unit := 8, detail := h }
  match f.body with
  | .tally _ _ _ s =>
    d.inject n { d.mkFlit n .c f.frond 0 f.src 0 (.tallyReply 0 stDenied s) with part := f.part, index := f.index }
  | .read _ _ g i => d.answerDma f.src g i (some []) stDenied
  | .write _ g i _ => d.answerDma f.src g i none stDenied
  | _ => d

/-- A flit reaches the local port of the router that hosts tile n. Reads and writes of the window by other tiles'
DMA engines are made at once; everything else waits in `arrivals` for the command that takes it up. -/
def Dev.deliver (d : Dev) (n : Nat) (f : Flit) : Dev :=
  let t := d.tile n
  if t.fenced then d.dropFenced n f
  else if f.part ≠ t.part then d.dropDenied n f
  else
    match f.body with
    | .read addr len g i =>
      let off := winOffset addr
      let st := d.winStatus n off len false
      let data := if st = stOk then t.winRead off len else zeros len
      d.inject n { (d.mkFlit n .m f.frond 0 f.src 0 (.readData g i data st)) with part := t.part }
    | .readData g i data st => d.answerDma n g i (some data) st
    | .write addr g i data =>
      let off := winOffset addr
      let st := d.winStatus n off data.length true
      let d := if st = stOk then d.modTile n fun t => t.winWrite off data else d
      d.answerDma f.src g i none st
    | _ => d.modTile n fun t => { t with arrivals := t.arrivals ++ [f] }

end Sys2Proof.Machine
end

