-- ==== Sys2Proof/Machine/Msg.lean ====
section
/-! DEFINITION. The messaging operations that commands share: waits that end, notices and credits (R269, R274, R284 to
R287, R424, R425), queues (R270 to R285), routes and sends (R275, R276), hitches (R296 to R299). -/

namespace Sys2Proof.Machine

/-! ## Strands and their waits -/

/-- The frond has stopped on tile n (R86). -/
def Dev.stoppedF (d : Dev) (n f : Nat) : Bool := ((d.tile n).frond f).stopped

/-- Writes rd and LAST_STATUS and ends the strand's wait, if it waits. Nothing ends in a stopped frond (R86). -/
def Dev.finish (d : Dev) (n f s rd : Nat) (v : Word) (st : Byte) : Dev :=
  if d.stoppedF n f then d
  else d.modStrand n f s fun x =>
    let x := { x.setReg rd v with last := st }
    if x.st = .wait then { x with st := .ready, wait := .none, op := .none } else x

/-- Ends a wait that writes nothing. -/
def Dev.finishPlain (d : Dev) (n f s : Nat) : Dev :=
  if d.stoppedF n f then d
  else d.modStrand n f s fun x =>
    if x.st = .wait then { x with st := .ready, wait := .none, op := .none } else x

/-- A status as a register value (R99). -/
def stWord (st : Byte) : Word := st.zeroExtend 64

/-! ## Queue status (R279) -/

/-- Entries of frond f in hardware slots. -/
def Queue.countOf (q : Queue) (f : Nat) : Nat := (q.slots.filter fun e => e.frond == f).length
/-- Entries of frond f in the extension. -/
def Queue.extOf (q : Queue) (f : Nat) : Nat := (q.ext.filter fun e => e.frond == f).length
/-- Frond f has closed the queue. -/
def Queue.closedFor (q : Queue) (f : Nat) : Bool := q.closed.getLsbD f
/-- Frond f reads the queue. -/
def Queue.readBy (q : Queue) (f : Nat) : Bool := q.readers.getLsbD f
/-- STATUS of the queue status word (R279). -/
def Queue.status (q : Queue) (f : Nat) : Byte :=
  if q.closedFor f then stClosed else if 0 < q.countOf f then stOk else stEmpty
/-- The queue status word for frond f with a given STATUS (R279). -/
def Queue.word (q : Queue) (f : Nat) (st : Byte) : Word :=
  BitVec.ofNat 64 (q.epoch * 2 ^ 48 + q.extOf f * 2 ^ 32 + (q.slots.length - q.countOf f) * 2 ^ 24 +
    q.countOf f * 2 ^ 16 + (if q.readBy f then 512 else 0) + (if q.closedFor f then 256 else 0) + st.toNat)

/-- The generation of hitch h that a strand last saw (R296). -/
def Strand.seenGen (x : Strand) (h : Nat) : Nat := mget x.seen 0 h

/-- Ends the wait of strand s of frond f if what it waits for holds now (R85): qu.poll, hi.wait, sy.wait, sy.fence and a
store that waited for the buffer. The other waits end at events of their own. -/
def Dev.wakeStrand (d : Dev) (n f s : Nat) : Dev :=
  let t := d.tile n
  let x := t.strand f s
  match x.op with
  | .poll rd q e =>
    let qu := t.queue q
    let st := if qu.epoch ≠ e then stStale else qu.status f
    if st = stEmpty then d else d.finish n f s rd (qu.word f st) st
  | .hitch rd h =>
    let hi := t.hitch h
    if hi.revoked then d.finish n f s rd (BitVec.ofNat 64 hi.gen) stRevoked
    else if hi.gen ≠ x.seenGen h then
      let d := d.finish n f s rd (BitVec.ofNat 64 hi.gen) stOk
      if d.stoppedF n f then d else d.modStrand n f s fun x => { x with seen := mset x.seen h hi.gen }
    else d
  | .completion rd k imm =>
    if (x.kcnt k).cnt ≤ imm then
      let e := (x.kcnt k).err
      let d := d.finish n f s rd (stWord e) e
      if d.stoppedF n f then d else d.modStrand n f s fun x => x.modK k fun c => { c with err := 0 }
    else d
  | .fence => if x.stores.isEmpty then d.finishPlain n f s else d
  | .store off width value =>
    if x.stores.length < 4 && !d.stoppedF n f then
      (d.modStrand n f s fun x => { x with stores := x.stores ++ [⟨off, width, value, x.seq⟩], seq := x.seq + 1 }).finishPlain n f s
    else d
  | _ => d

/-- Ends every wait of the active frond of tile n whose condition holds. -/
def Dev.wakeAll (d : Dev) (n : Nat) : Dev :=
  match (d.tile n).active with
  | some f => (List.range 8).foldl (fun d s => d.wakeStrand n f s) d
  | none => d

/-! ## Notices and credits -/

/-- What a queue or splice tells a writer's route. -/
inductive Note where
  | credit (n : Nat)
  | revoked
  | close
  | stale (epoch : Nat)
  | reopen (grant epoch : Nat)
  | staleReopen (old epoch grant : Nat)
  deriving DecidableEq, Repr

/-- The flit that carries a notice to a route of this device (R319). -/
def noteFlit (f e : Nat) : Note → FlitBody
  | .credit n => .credit f e n
  | .revoked => .revoked f e
  | .close => .closeN f e
  | .stale _ => .staleN f e
  | .reopen g ep => .reopenN f e g ep
  | .staleReopen _ ep g => .reopenN f e g ep

/-- The credit item of tile n that carries a notice to a route of another device (R424): KIND, COUNT, EPOCH_A, EPOCH_B. -/
def noteItem (n t f e : Nat) : Note → RemoteItem
  | .credit m => .credit n t e 1 f m 0 0
  | .revoked => .credit n t e 2 f 0 0 0
  | .close => .credit n t e 3 f 0 0 0
  | .stale a => .credit n t e 4 f 0 a 0
  | .reopen g b => .credit n t e 5 f g 0 b
  | .staleReopen a b g => .credit n t e 6 f g a b

/-- SEQ of a notice from tile n to a route: the epoch that it is about, or the queue's own; for a splice its head (R318). -/
def Dev.noteSeq (d : Dev) (n : Nat) (r : Route) : Note → Nat
  | .stale a => a
  | .reopen _ ep => ep
  | .staleReopen _ ep _ => ep
  | _ => if r.type = 2 then ((d.tile n).splice r.index).head else ((d.tile n).queue r.index).epoch

/-- Sends a notice from tile n to the route that a grant or an entry names. The host endpoint takes its credits
directly (R429). -/
def Dev.notify (d : Dev) (n : Nat) (ref : CreditRef) (k : Note) : Dev :=
  match ref with
  | .none_ => d
  | .local_ t f e => d.sendNote n f t ((d.tile t).route f e).index (d.noteSeq n ((d.tile t).route f e) k) (noteFlit f e k)
  | .remote c t f e => d.modTile n fun x => { x with railOut := x.railOut ++ [(c, noteItem n t f e k)] }
  | .host p =>
    match k with
    | .credit m => d.modRegion p fun r => { r with hostCredit := r.hostCredit + m }
    | .reopen g _ => d.modRegion p fun r => { r with hostCredit := g }
    | _ => d

/-- Counts in TILE_MSG_COUNT c. -/
def Dev.msgCount (d : Dev) (n c k : Nat) : Dev := d.add (TILE_MSG_COUNT_V n c) k
/-- Quarter j of tile n loses its contents, if its power state has it so: the extension entries there are counted (R240, R281). -/
def Dev.loseQuarter (d : Dev) (n j : Nat) : Dev :=
  if (d.tile n).quarterLost j then (d.msgCount n 8 ((d.tile n).extCount j)).modTile n fun t => t.clearQuarter j else d

/-! ## Queues -/

/-- Lowest hardware slot with no entry. -/
def Queue.freeSlot (q : Queue) : Option Nat := (List.range 16).find? fun j => !(q.slots.any fun e => e.slot == j)
/-- Window offset of slot j of queue q (R270). -/
def slotOff (q j : Nat) : Nat := 0x1980000 + q * 0x400 + j * 0x40
/-- The lines of the extension lie in quarters that are ON and it has room (R281). -/
def Tile.extRoom (t : Tile) (q : Nat) : Bool :=
  let x := t.queue q
  decide (x.ext.length + (x.slots.filter fun e => e.spill).length < x.extLen) && t.rangeOn (x.extBase * 256) (x.extLen * 64)
/-- Ring position for the next entry of the extension: the first one free behind its latest entry. -/
def Queue.extTail (q : Queue) : Nat :=
  match q.ext.getLast? with
  | some e => (((List.range q.extLen).map fun i => (e.pos + 1 + i) % q.extLen).find? fun p => !(q.ext.any fun x => x.pos == p)).getD 0
  | none => 0
/-- Scratchpad offset of an extension position. -/
def Queue.extOff (q : Queue) (pos : Nat) : Nat := q.extBase * 256 + pos * 64

/-- The grant whose writer is `ref`. -/
def Queue.grantOf (q : Queue) (ref : CreditRef) : Option Grant := q.grants.find? fun g => g.writer == ref
/-- Changes the grants whose writer is `ref`. -/
def Queue.modGrant (q : Queue) (ref : CreditRef) (f : Grant → Grant) : Queue :=
  { q with grants := q.grants.map fun g => if g.writer = ref then f g else g }
/-- A grant's route sends entries of frond f (R284): a local route's table tells, and a remote grant shows it by the
items that came, or where the queue has one reader only; before that its route's DFROND is a free value (log 1). -/
def Dev.grantFor (d : Dev) (q : Queue) (g : Grant) (f : Nat) : Bool :=
  match g.writer with
  | .local_ t wf e => ((d.tile t).route wf e).dfrond == f
  | .remote c _ wf e => match g.dfrond with
    | some x => x == f
    | none => if q.readers = BitVec.ofNat 8 (2 ^ f) then true else Config.grantFrond c e wf % 8 == f
  | .host _ => true
  | .none_ => false

/-- Discards the entries of frond f from a queue's slots and extension, and returns the credits they hold; answers how
many there were. -/
def Dev.discardFrond (d : Dev) (n q f : Nat) : Dev × Nat :=
  let qu := (d.tile n).queue q
  let gone := qu.slots.filter fun e => e.frond == f
  let d' := d.modQueue n q fun x =>
    { x with slots := x.slots.filter (fun e => e.frond != f), ext := x.ext.filter (fun e => e.frond != f) }
  (gone.foldl (fun d e => d.notify n e.credit (.credit 1)) d', gone.length + qu.extOf f)

/-- qu.close of queue q for frond f (R284); the stop of a frond treats its queues the same way (R362). -/
def Dev.closeQueue (d : Dev) (n q f : Nat) : Dev :=
  let qu := (d.tile n).queue q
  if qu.closedFor f then d
  else
    let d := (d.discardFrond n q f).1
    let d := d.modQueue n q fun x => { x with closed := x.closed ||| BitVec.ofNat 8 (2 ^ f) }
    let d := (qu.grants.filter fun g => !g.withdrawn && d.grantFor qu g f).foldl (fun d g => d.notify n g.writer .close) d
    d.wakeAll n

/-- The epoch of queue q advances (R285, R425 rule 2): its entries are discarded and counted, no credit returns, and
every granted route gets a stale notice. -/
def Dev.advanceEpoch (d : Dev) (n q : Nat) : Dev :=
  let qu := (d.tile n).queue q
  let d := d.modQueue n q fun x =>
    { x with slots := [], ext := [], epoch := (x.epoch + 1) % 2 ^ 16,
             grants := x.grants.map fun g => { g with announced := false } }
  let d := d.msgCount n 4 (qu.slots.length + qu.ext.length)
  let d := (qu.grants.filter fun g => !g.withdrawn).foldl (fun d g => d.notify n g.writer (.stale qu.epoch)) d
  d.wakeAll n

/-- Queue q sends each granted route its grant and epoch and clears its closed marks (R286, R425 rule 1). -/
def Dev.reopenQueue (d : Dev) (n q : Nat) (remoteOnly : Bool) : Dev :=
  let qu := (d.tile n).queue q
  let d := d.modQueue n q fun x =>
    { x with closed := if remoteOnly then x.closed else 0, grants := x.grants.map fun g => { g with announced := true } }
  (qu.grants.filter fun g => !g.withdrawn).foldl (fun d g =>
    match g.writer with
    | .remote _ _ _ _ => d.notify n g.writer (.reopen g.credits qu.epoch)
    | _ => if remoteOnly then d else d.notify n g.writer (.reopen g.credits qu.epoch)) d

/-- An entry on its way into a queue: who sent it, its frond tag, its tag word, its data and the epoch its route
expects (none for the host endpoint). -/
structure Entry where
  ref : CreditRef
  frond : Nat
  tag : Word
  data : List Byte
  epoch : Option Nat

/-- The tag of an entry (R271), with STATUS 0. -/
def entryTag (user peer : Nat) (remote : Bool) (sstrand stile len : Nat) (light : Bool) (frond : Nat) : Word :=
  BitVec.ofNat 64 (user % 2 ^ 16 * 2 ^ 48 + peer % 2 ^ 12 * 2 ^ 36 + (if remote then 2 ^ 35 else 0) + sstrand % 8 * 2 ^ 32 +
    stile % 256 * 2 ^ 24 + (len - 1) % 64 * 2 ^ 16 + (if light then 2 ^ 11 else 0) + frond % 8 * 2 ^ 8)

/-- Messages or items of a context are discarded and counted (R412, R414, R415, R425, R431). -/
def Dev.ctxDrop (d : Dev) (c k : Nat) : Dev := d.add (NOP_CTX_COUNT_V c 2) k

/-- An entry reaches queue q of tile n (R277, R281, R284, R285, R287, R349, R356, R425). -/
def Dev.entryArrive (d : Dev) (n q : Nat) (e : Entry) : Dev :=
  let t := d.tile n
  let qu := t.queue q
  let g := qu.grantOf e.ref
  if t.held || t.clearing || t.part == 0 then d.msgCount n 4 1
  else if (match g with | some g => g.withdrawn | none => true) then d.msgCount n 5 1
  else if (match e.epoch with | some ep => ep != qu.epoch | none => false) then
    let d := d.msgCount n 4 1
    let ep := e.epoch.getD 0
    match e.ref, g with
    | .remote c _ _ _, some g =>
      let d := d.ctxDrop c 1
      if g.announced then d.notify n e.ref (.staleReopen ep qu.epoch g.credits) else d.notify n e.ref (.stale ep)
    | _, _ => d.notify n e.ref (.stale ep)
  else if (t.frond e.frond).retired then
    (d.add (TILE_FOLD_DISCARD_V n) 1).notify n e.ref (.credit 1)
  else if qu.closedFor e.frond then
    (d.msgCount n 3 1).notify n e.ref (.credit 1)
  else
    match qu.freeSlot with
    | none => d
    | some j =>
      let waiting := (qu.slots.filter fun x => x.frond == e.frond && x.spill).length
      let inSlots := qu.countOf e.frond - waiting
      let spill := decide (0 < qu.extLen) && t.extRoom q &&
        (decide (0 < qu.extOf e.frond + waiting) || decide (qu.spillAt ≤ inSlots))
      let d := d.modTile n fun t =>
        { t with qmem := cwrite t.qmem (slotOff q j) (slice e.data 0 64), bad := coveredWords t.bad (slotOff q j) 64 }
      let d := d.modQueue n q fun x =>
        { x.modGrant e.ref (fun g => { g with dfrond := some e.frond }) with
          slots := x.slots ++ [{ slot := j, tag := e.tag, frond := e.frond, credit := e.ref, fromExt := false, spill := spill,
                                 no := x.nextNo }]
          nextNo := x.nextNo + 1 }
      d.wakeAll n

/-- The header and token entries of admitted requests of partition p enter its entry queue, oldest request first, while
the host endpoint holds credit (R429). -/
def Dev.feed (d : Dev) (p : Nat) : Nat → Dev
  | 0 => d
  | k + 1 =>
    if !d.is (NOP_P_ENTRY_VALID p) || (d.region p).hostCredit == 0 then d
    else
      match d.reqs.find? fun r => r.part == p && !r.tokens.isEmpty with
      | none => d
      | some r =>
        let first := r.tokens.length == 1 + ceilDiv r.lin 16
        let f := d.get (NOP_P_ENTRY_FROND p)
        let upd (x : Request) : Request :=
          if x.part = r.part ∧ x.tag = r.tag ∧ x.arrival = r.arrival then
            { x with tokens := x.tokens.drop 1, entered := x.entered || !first || x.lin == 0 }
          else x
        let d := ({ d with reqs := d.reqs.map upd } : Dev).modRegion p fun x => { x with hostCredit := x.hostCredit - 1 }
        Dev.feed (d.entryArrive (d.get (NOP_P_ENTRY_TILE p)) (d.get (NOP_P_ENTRY_QUEUE p))
          { ref := .host p, frond := f, tag := entryTag (if first then 0 else 1) r.ctx true 0 0 64 false f,
            data := r.tokens.headD [], epoch := none }) p k
/-- As many as the credit allows. -/
def Dev.feedAll (d : Dev) (p : Nat) : Dev :=
  d.feed p (((d.reqs.filter fun r => r.part == p).map fun r => r.tokens.length).sum)

/-- The entry that a receive by frond f takes: its oldest in the hardware slots, while the extension holds no older one
(R272, R278). -/
def Queue.oldest (q : Queue) (f : Nat) : Option SlotEntry :=
  (q.slots.find? fun e => e.frond == f).filter fun e => q.ext.all fun x => x.frond != f || decide (e.no < x.no)

/-! ## Routes and sends -/

/-- Credits a route holds: for a multicast route the smallest number over its leaves (R267). -/
def Route.credit (r : Route) : Nat :=
  match r.held with
  | [] => 0
  | (_, c) :: rest => rest.foldl (fun m e => min m e.2) c
/-- Takes one credit of every destination. -/
def Route.take (r : Route) : Route := { r with held := r.held.map fun e => (e.1, e.2 - 1) }
/-- Adds credits of one destination. -/
def Route.give (r : Route) (src n : Nat) : Route :=
  { r with held := r.held.map fun e => if e.1 = src then (e.1, e.2 + n) else e }
/-- Sets every destination's credit to the grant. -/
def Route.refill (r : Route) (grant : Nat) : Route := { r with held := r.held.map fun e => (e.1, grant) }
/-- The status a send on a route that is not OPEN completes with (R269), and its TILE_MSG_COUNT. -/
def routeStatus : RouteSt → Byte × Nat
  | .open_ => (stOk, 0)
  | .closed => (stClosed, 0)
  | .stale => (stStale, 1)
  | .revoked => (stRevoked, 2)

/-- Leaves of a multicast tree. -/
def Dev.tree (d : Dev) (k : Nat) : Tree := mget d.trees Tree.init k

/-- Sends an entry from tile n over route entry e of frond f (R274, R275): a flit on the mesh, or an item for a remote
context. A light entry carries its own length; its bytes beyond are zero. -/
def Dev.sendEntry (d : Dev) (n f e : Nat) (light : Bool) (data : List Byte) (len user sstrand : Nat) : Dev :=
  let r := (d.tile n).route f e
  let d := d.modRoute n f e Route.take
  let data := slice data 0 64
  if r.remote then
    d.modTile n fun t => { t with railOut := t.railOut ++
      [(r.peer, .queue (r.dest % 256) r.index r.epoch user n e r.dfrond f light len sstrand data)] }
  else
    let body := FlitBody.entry light r.index len r.epoch (f * 128 + e) data
    let fl := d.mkFlit n (if light then .c else .q) r.dfrond sstrand r.dest user body
    d.inject n (if r.mcast then { fl with mcast := true, dests := (d.tree r.dest).leaves } else fl)

/-- Sends a splice contribution over route entry e of frond f (R291); the weight as sent is 1. -/
def Dev.sendContrib (d : Dev) (n f e : Nat) (values : List Nat) (sstrand : Nat) : Dev :=
  let r := (d.tile n).route f e
  let d := d.modRoute n f e fun r => { r.take with seq := (r.seq + 1) % 2 ^ 16 }
  if r.remote then
    d.modTile n fun t => { t with railOut := t.railOut ++
      [(r.peer, .splice (r.dest % 256) r.index r.seq 1 n e f values)] }
  else d.inject n (d.mkFlit n .g f sstrand r.dest 0 (.contrib r.index r.seq 1 e values))

/-- The 64 FP32 values of a 256-byte line. -/
def fp32s (bs : List Byte) : List Nat := (List.range 64).map fun i => fieldAt bs (4 * i) 4

/-- Makes a strand's send with a credit at hand. -/
def Dev.strandSend (d : Dev) (n f s : Nat) (k : SendKind) (data : List Byte) (len e user : Nat) : Dev :=
  match k with
  | .full => d.sendEntry n f e false data 64 user s
  | .light => d.sendEntry n f e true data len user s
  | .splice => d.sendContrib n f e (fp32s data) s

/-- Serves the senders that wait on a route, in the order they began, while it holds credit (R276). The matrix engine
takes its credit itself. -/
def Dev.serveWaiters (d : Dev) (n f e : Nat) : Nat → Dev
  | 0 => d
  | k + 1 =>
    let r := (d.tile n).route f e
    if d.stoppedF n f || r.st != .open_ || r.credit == 0 then d
    else
      match r.waiters with
      | .strand s :: rest =>
        let d := d.modRoute n f e fun r => { r with waiters := rest }
        match ((d.tile n).strand f s).op with
        | .send k' rd data len _ user _ =>
          Dev.serveWaiters ((d.strandSend n f s k' data len e user).finish n f s rd 0 stOk) n f e k
        | _ => Dev.serveWaiters d n f e k
      | _ => d

/-- A route leaves OPEN, or moves on to another such state (R269): its waiting strands complete with that state's
status and their data is counted. The matrix engine finds the state at its next contribution (R147). -/
def Dev.routeTo (d : Dev) (n f e : Nat) (st : RouteSt) : Dev :=
  let r := (d.tile n).route f e
  let (code, c) := routeStatus st
  let d := d.modRoute n f e fun r => { r with st := st, waiters := r.waiters.filter (· == .engine) }
  if d.stoppedF n f then d
  else r.waiters.foldl (fun d w =>
    match w with
    | .strand s =>
      match ((d.tile n).strand f s).op with
      | .send _ rd _ _ _ _ _ => (d.finish n f s rd (stWord code) code).msgCount n c 1
      | _ => d
    | .engine => d) d

/-- A reopen reaches a route (R269, R286): CLOSED or STALE becomes OPEN; an OPEN or REVOKED route is left as it is. -/
def Dev.routeReopen (d : Dev) (n f e grant epoch : Nat) : Dev :=
  let r := (d.tile n).route f e
  if r.st = .closed || r.st = .stale then
    d.modRoute n f e fun r => { r.refill grant with st := .open_, epoch := epoch }
  else d

/-! ## Hitches -/

/-- Generations that are due complete (R297), each ending the waits on it. -/
def Dev.hitchRun (d : Dev) (n h : Nat) : Nat → Dev
  | 0 => d
  | k + 1 =>
    let x := (d.tile n).hitch h
    if 0 < x.expect && decide (x.expect ≤ x.count) then
      Dev.hitchRun ((d.modTile n fun t => t.modHitch h fun x =>
        { x with gen := (x.gen + 1) % 2 ^ 16, count := x.count - x.expect }).wakeAll n) n h k
    else d
/-- `k` tokens arrive at hitch h (R297, R349): those that would take COUNT above 131,071 are dropped and counted. -/
def Dev.tokens (d : Dev) (n h k : Nat) : Dev :=
  let t := d.tile n
  if t.held || t.clearing || t.part == 0 then d.msgCount n 4 k
  else
    let x := t.hitch h
    let take := min k (131071 - x.count)
    let d := d.modTile n fun t => t.modHitch h fun x => { x with count := x.count + take }
    let d := if take < k then d.msgCount n 7 (k - take) else d
    d.hitchRun n h (x.count + take)

end Sys2Proof.Machine
end

