-- ==== Sys2Proof/Machine/Contain.lean ====
section
/-! DEFINITION. Containment (R37): the stop of a frond (R86, R109), the drain it starts (R362), missed-promise records
and the withdrawal of requests (R71 to R73, R359), uncorrectable errors (R498), the service level (R515), and the fence
of a tile (R287, R299, R302, R327, R504). -/

namespace Sys2Proof.Machine

/-! ## Identity (R449, R450) -/

/-- The die record of die i (R449). -/
def Fuses.dieRecord (f : Fuses) (i : Nat) : List Byte :=
  let (w, x, y) := f.pos.getD i (1, 0, 0)
  slice (f.lots.getD i []) 0 8 ++ leBytes 1 w ++ leBytes 1 x ++ leBytes 1 y
/-- The device ID (R450). -/
def Dev.deviceId (d : Dev) : List Byte := sha3 ((List.range 6).flatMap d.fuses.dieRecord ++ slice d.fuses.serial 0 12)

/-! ## Nopra messages to be sent -/

/-- Draws the next number in the order in which messages and items are queued (R420). -/
def Dev.number (d : Dev) : Dev := { d with nop := { d.nop with nextNo := d.nop.nextNo + 1 } }
/-- State of a context (R414): 0 CLOSED, 1 OPENING, 2 OPEN, 3 FAILED. -/
def Dev.ctxState (d : Dev) (c : Nat) : Nat := d.get (NOP_CTX_STATE_STATE c)
/-- Queues a message on a context (R416). One for a context that is not open is discarded and counted (R431), but for
OPEN and OPEN_ACK. -/
def Dev.queueMsg (d : Dev) (c : Nat) (m : TxMsg) : Dev :=
  if d.ctxState c = 2 || m.type = 1 || m.type = 2 then
    (d.modCtx c fun x => { x with txq := x.txq ++ [{ m with no := d.nop.nextNo }] }).number
  else d.ctxDrop c 1
/-- A message of a type, of partition `part` (0 for none), on context `c`. -/
def mkMsg (type part c : Nat) (seqd : Bool) (payload : List Byte) : TxMsg :=
  { TxMsg.init with type := type, part := part, ctx := c, payload := payload, seqd := seqd }
/-- A context of KIND 1 PEER, 2 HOST or 3 RESULT (R413). -/
def Dev.ctxKind (d : Dev) (c : Nat) : Nat := d.get (NOP_CTX_CFG_KIND c)
/-- The 88 bytes of a CAPS message (R435): this device runs images of both classes (R118). -/
def Dev.capsPayload (d : Dev) (c : Nat) : List Byte :=
  let r := d.region (d.get (NOP_CTX_CFG_PART c))
  beBytes 2 1 ++ beBytes 2 0x3FFF ++ beBytes 1 (d.get TIME_STATUS_QUALITY) ++ beBytes 1 8 ++ beBytes 2 3 ++
    beBytes 8 r.spanId.toNat ++ beBytes 2 r.devIndex ++ zeros 6 ++ d.deviceId
/-- Sends CAPS on a context (R435). -/
def Dev.sendCaps (d : Dev) (c : Nat) : Dev :=
  d.queueMsg c (mkMsg 0x05 (d.get (NOP_CTX_CFG_PART c)) c true (d.capsPayload c))
/-- Sends CAPS on every open PEER context. -/
def Dev.capsAll (d : Dev) : Dev :=
  (d.ctxs.filter fun c => d.ctxKind c.1 == 1 && d.ctxState c.1 == 2).foldl (fun d c => d.sendCaps c.1) d
/-- Payload of a RES message (R423). -/
def resPayload (tag : Word) (status : Byte) (last : Bool) (piece : Nat) (tokens : List Byte) : List Byte :=
  beBytes 8 tag.toNat ++ [status, if last then 1 else 0] ++ beBytes 2 (tokens.length / 4) ++ beBytes 4 piece ++ tokens

/-! ## Requests -/

/-- Sets the time at which a lane of a class is free (R63). -/
def Dev.setLane (d : Dev) (p cls lane t : Nat) : Dev :=
  d.modRegion p fun r =>
    let l := mget r.lanes Lanes.init cls
    { r with lanes := mset r.lanes cls { l with free := lset l.free lane t } }

/-- Writes the missed-promise record of a request (R71 to R73, R79), once. -/
def Dev.missRecord (d : Dev) (r : Request) (cause : Nat) (ref : Nat) : Dev :=
  match r.promise with
  | none => d
  | some pr =>
    if r.late then d
    else
      let q := d.get ADM_MISS_SEQ_SEQ
      let bs := leBytes 2 2 ++ leBytes 1 1 ++ leBytes 1 r.part ++ leBytes 4 q ++ leBytes 8 r.tag.toNat ++
        timeBytes r.arrival ++ timeBytes pr ++ timeBytes d.now ++ noTimeBytes ++ leBytes 1 cause ++ leBytes 1 r.cls ++
        leBytes 1 r.env ++ leBytes 1 (d.get TIME_STATUS_QUALITY) ++ leBytes 4 ref ++ zeros 8
      let d := { d with
        missLog := mset d.missLog (q % 64) bs
        reqs := d.reqs.map (fun x : Request => if (x.part == r.part && x.tag == r.tag && x.arrival == r.arrival) then { x with late := true } else x) }
      ((d.set ADM_MISS_SEQ_SEQ (q + 1)).add (ADM_P_MISSED_COUNT r.part) 1).push 2 bs

/-- The hardware fault record SEQ lies in the path of every request of partition p (R72). -/
def Dev.faultNote (d : Dev) (p q : Nat) : Dev :=
  { d with reqs := d.reqs.map fun x => if x.part = p then { x with faulted := q + 1 } else x }
/-- A channel in the paths of partition p has replayed a flit; SEQ is that of its LINK_CORRECTED record (R322). -/
def Dev.replayNote (d : Dev) (p q : Nat) : Dev :=
  { d with reqs := d.reqs.map fun x => if x.part = p then { x with replayed := q + 1 } else x }

/-- The cause and reference of a miss found now (R72, R322): a hardware fault since arrival, an exhausted budget, replays
in its path, or neither; in the last case a record of class UNATTRIBUTED is written unless another record of the
partition explains it. -/
def Dev.miss (d : Dev) (r : Request) : Dev :=
  if r.late || r.promise.isNone then d
  else if 0 < r.faulted then d.missRecord r 1 (r.faulted - 1)
  else
    match r.budget with
    | some c => d.missRecord r 2 c
    | none =>
      if 0 < r.replayed then d.missRecord r 1 (r.replayed - 1)
      else if 0 < r.soft then d.missRecord r 0xF (r.soft - 1)
      else
        let d := d.log { cls := 0x0F, sev := 3, part := r.part,
                         detail := leBytes 8 r.tag.toNat ++ timeBytes (r.promise.getD 0) }
        d.missRecord r 0xF d.lastFlt

/-- ADMIT is the lower of REQ and CAP in duty; ARRAY the higher of ADMIT and what an outstanding promised request was
admitted under (R536). The codes rise as the duty falls (R535). -/
def Dev.remode (d : Dev) : Dev :=
  let admitted := max (d.get PWR_ENVELOPE_REQ) (d.get PWR_ENVELOPE_CAP)
  let array := (d.reqs.filter fun r => r.promise.isSome).foldl (fun m r => min m r.env) admitted
  ((d.set PWR_ENVELOPE_ADMIT admitted).set PWR_ENVELOPE_ARRAY array).flag PWR_ENVELOPE_PENDING (admitted != array)
/-- A tile shift that waits for partition p notes that no request of it is outstanding any more (R507). -/
def Dev.shiftZero (d : Dev) (p : Nat) : Dev :=
  let mark (x : Shift) : Shift :=
    if (d.tile x.target).part = p ∧ x.zeroAt = none then { x with zeroAt := some d.tick } else x
  if d.reqs.any fun r => r.part == p then d else { d with spare := { d.spare with shift := d.spare.shift.map mark } }
/-- When the lane of a request that ends is free (R63): now, or from the latest promise of the other requests that still claim it. -/
def Dev.laneFree (d : Dev) (r : Request) : Nat :=
  (d.reqs.filter fun x => x.part == r.part && x.cls == r.cls && x.lane == r.lane).foldl (fun m x => max m x.claim) d.now
/-- Context c is the one that sent a request, open in the incarnation in which it did (R429, R431). -/
def Dev.sentBy (d : Dev) (r : Request) (c : Nat) : Bool := r.ctx == c && r.incarn == d.get (NOP_CTX_STATE_INCARN c)

/-- Takes a request off the outstanding ones and frees its lane. -/
def Dev.endRequest (d : Dev) (r : Request) : Dev :=
  let d := { d with reqs := d.reqs.filter fun x => !(x.part == r.part && x.tag == r.tag && x.arrival == r.arrival) }
  let d := d.set (ADM_P_STATUS_OUTSTANDING r.part) (d.get (ADM_P_STATUS_OUTSTANDING r.part) - 1)
  let d := d.shiftZero r.part
  (d.setLane r.part r.cls r.lane (d.laneFree r)).remode

/-- Withdraws a request: its final RES carries `status`, and it is neither delivered nor missed (R72, R359). One whose final RES waits
to be sent already gets no second one, and one whose context has closed since gets none (R431). -/
def Dev.withdraw (d : Dev) (r : Request) (status : Byte) : Dev :=
  let d := d.endRequest r
  if r.last then d
  else if !d.sentBy r r.ctx then d.ctxDrop r.ctx 1
  else d.queueMsg r.ctx { mkMsg 0x32 r.part r.ctx true (resPayload r.tag status true r.piece []) with tag := r.tag }

/-! ## The stop of a frond and the drain of containment -/

/-- The stop of frond f on tile n (R86, R109): its strands freeze, its engines abandon its work, and every queue it
reads is treated as closed (R362). -/
def Dev.stopFrond (d : Dev) (n f : Nat) : Dev :=
  if d.stoppedF n f then d
  else
    let keep (e : Engine) : Engine :=
      { e with queue := e.queue.filter (fun m => m.frond != f), run := e.run.filter fun r => r.macro_.frond != f }
    let d := d.modTile n fun t =>
      { t.modFrond f (fun x => { x with stopped := true }) with
        mx := keep t.mx, vx := keep t.vx, dma0 := keep t.dma0, dma1 := keep t.dma1, fc := keep t.fc }
    -- writes of copies whose data have not come go with their transfers
    let stays (x : MemAccess) : Bool := x.ready || x.frond != f || (match x.who with | .dma m _ _ => m != n | _ => true)
    let d : Dev := { d with mem := { d.mem with chans := d.mem.chans.map fun c => (c.1, { c.2 with queue := c.2.queue.filter stays }) } }
    (List.range 64).foldl (fun d q => if ((d.tile n).queue q).readBy f then d.closeQueue n q f else d) d

/-- Begins a drain of partition p's region (R359): HOLD is set; under IMMEDIATE the requests whose first token has not
entered are withdrawn. -/
def Dev.beginDrain (d : Dev) (p mode : Nat) (faulted : Bool) : Dev :=
  let d := (d.setRegionState p 6).flag (ADM_P_CTRL_HOLD p) true
  let d := d.flag (PART_P_RSTATUS_FAULTED p) faulted
  let d := d.modRegion p fun r => { r with drainMode := mode, drainAt := d.tick }
  if mode = 1 then (d.reqs.filter fun r => r.part == p && !r.entered).foldl (fun d r => d.withdraw r 2) d else d

/-- A hardware fault makes the delivery of the partition's admitted requests impossible: their records are written now
(R71, R72). -/
def Dev.missAll (d : Dev) (p : Nat) : Dev :=
  (d.reqs.filter fun r => r.part == p).foldl (fun d r => d.miss r) d

/-- A containment event in partition p's region (R71, R348, R362): the promises it breaks are recorded as missed, before any
request is withdrawn (`hard`: a trap alone makes no delivery impossible, R116); a running region drains IMMEDIATE with FAULTED, a drain under way goes on so, and a load under way
ends with LOAD_ABORTED. -/
def Dev.containRegion (d : Dev) (p : Nat) (hard : Bool := true) : Dev :=
  let st := d.regionState p
  let d := if hard then d.missAll p else d
  if p = 0 then d
  else if st = 5 then d.beginDrain p 1 true
  else if st = 6 then
    let d := (d.flag (PART_P_RSTATUS_FAULTED p) true).modRegion p fun r => { r with drainMode := 1 }
    (d.reqs.filter fun r => r.part == p && !r.entered).foldl (fun d r => d.withdraw r 2) d
  else if st = 1 || st = 2 || st = 3 then
    let d := (d.setRegionState p 8).set (PART_P_RSTATUS_RESULT p) 0x12
    (d.set (PART_P_RSTATUS_CHECK p) 0).set (PART_P_RSTATUS_SECTION p) (if st = 2 then (d.region p).sect else 0xFFFF)
  else d

/-- A hardware containment event on tile n stops frond f (R362). -/
def Dev.containFrond (d : Dev) (n f : Nat) : Dev :=
  (d.stopFrond n f).containRegion (d.tile n).part

/-! ## The service level (R515) and FAULT_N (R517) -/

/-- FAULT_N as its three cases give it (R517). -/
def Dev.faultLine (d : Dev) : Dev :=
  let on := decide (d.get SPR_CFG_FAULT_LEVEL ≤ d.get SPR_STATUS_LEVEL) || d.get PWR_STATUS_STATE == 3 ||
    decide (d.tick < d.power.faultUntil)
  { d with pins := { d.pins with faultN := !on } }

/-- The telemetry target raises an in-band interrupt with a data byte, where they are enabled (R546). -/
def Dev.ibi (d : Dev) (b : Byte) : Dev := if d.i3c.ibiOn then { d with i3c := { d.i3c with ibis := b :: d.i3c.ibis } } else d

/-- The level is below `lvl`, so that a reason of `lvl` raises it (R515). -/
def Dev.rises (d : Dev) (lvl : Nat) : Bool := decide (d.get SPR_STATUS_LEVEL < lvl)
/-- Notes a reason (a bit of SPR_STATUS.REASONS) and raises the level to `lvl` if it is lower (R515). -/
def Dev.raiseLevel (d : Dev) (lvl reason : Nat) : Dev :=
  let old := d.get SPR_STATUS_LEVEL
  let rs := d.get SPR_STATUS_REASONS
  let rs := if bit rs reason = 1 then rs else rs + 2 ^ reason
  let d := d.set SPR_STATUS_REASONS rs
  if old < lvl then
    let d := d.set SPR_STATUS_LEVEL lvl
    ((d.log { cls := 0x10, sev := 4, part := 0, action := 16,
              detail := leBytes 1 old ++ leBytes 1 lvl ++ leBytes 2 rs }).ibi 2).faultLine
  else d

/-! ## Needs for spares and advice (R506, R507, R516) -/

/-- The tile spare of a logical tile's die column pair. -/
def spareFor (n : Nat) : Nat := spareAt (gx (homePhys n)) (gy (homePhys n))
/-- A tile spare can be used: it serves no tile, is not retired, and its margin is not below ADVISE_PS (R506). -/
def Dev.spareFree (d : Dev) (sp : Nat) : Bool :=
  !(d.fuses.spares.any fun e => e.1 == sp) && !d.fuses.retired.contains sp &&
  decide (d.get SPR_CFG_ADVISE_PS ≤ mget d.power.margins 65535 sp)
/-- Records a need: KIND, target, line (R507). -/
def Dev.addNeed (d : Dev) (kind target line : Nat) : Dev :=
  if d.spare.needs.contains (kind, target, line) then d
  else
    let d := { d with spare := { d.spare with needs := d.spare.needs ++ [(kind, target, line)] } }
    d.set SPR_STATUS_PENDING d.spare.needs.length
/-- Takes a need off the list. -/
def Dev.dropNeed (d : Dev) (kind target line : Nat) : Dev :=
  let d := { d with spare := { d.spare with needs := d.spare.needs.filter (· != (kind, target, line)) } }
  d.set SPR_STATUS_PENDING d.spare.needs.length
/-! ## Tile shifts begin (R309, R507) -/

/-- The column segment that a shift for tile n moves, from the die's spare row to n (R307). -/
def segment (n : Nat) : List Nat :=
  (if tileY n < 8 then List.range (tileY n + 1) else (List.range (16 - tileY n)).map fun i => 15 - i).map fun y => y * 16 + tileX n
/-- The partition that blocks a shift for tile n, none where R309 holds: the segment lies in one partition, whose rectangle
then holds the edge row, or in none. -/
def Dev.shiftBlock (d : Dev) (n : Nat) : Option Nat :=
  let ps := (segment n).map fun m => (d.tile m).part
  if ps.all fun p => p == ps.headD 0 then none else some ((ps.find? fun p => p != 0).getD 0)
/-- State of the shift (R507): 0 IDLE, 1 DEFERRED, 2 QUIET, 3 COPY, 4 SWITCH. -/
def Dev.shiftState (d : Dev) : Nat := d.get SPR_ACTION_STATE
/-- The shift enters a state. -/
def Dev.setShift (d : Dev) (st : Nat) (f : Shift → Shift) : Dev :=
  ({ d with spare := { d.spare with shift := d.spare.shift.map fun x => { f x with since := d.tick } } } : Dev).set SPR_ACTION_STATE st
/-- QUIET begins: the region of the segment, where it runs, is put on HOLD (R507). -/
def Dev.shiftQuiet (d : Dev) (n : Nat) : Dev :=
  let p := (d.tile ((segment n).headD 0)).part
  let hold := p != 0 && d.regionState p == 5 && !d.is (ADM_P_CTRL_HOLD p)
  let d := if hold then d.flag (ADM_P_CTRL_HOLD p) true else d
  (d.set SPR_ACTION_BLOCKING 0).setShift 2 fun x => { x with setHold := x.setHold || hold, zeroAt := if d.reqs.any (fun r => r.part == p) then none else some d.tick }
/-- A shift for tile n leaves IDLE. -/
def Dev.startShift (d : Dev) (n : Nat) : Dev :=
  let x : Shift := { Shift.init with target := n, fenced := (d.tile n).fenced, began := d.tick }
  let d := ({ d with spare := { d.spare with shift := some x } } : Dev).set SPR_ACTION_TARGET n
  match d.shiftBlock n with
  | none => d.shiftQuiet n
  | some p => (d.set SPR_ACTION_BLOCKING p).setShift 1 fun x => { x with deferred := true, blocking := p }
/-- The management controller does not run (R547, R548). -/
def Dev.dmcDown (d : Dev) : Bool := d.is DMC_STATUS_RESTARTING || d.is DMC_STATUS_STOPPED
/-- The device brings spares in by itself now: SPARING is effective as 0, and the management controller runs (R506, R547). Else a need
waits in SPR_STATUS.PENDING. -/
def Dev.sparesItself (d : Dev) : Bool := !d.duty 4 && !d.dmcDown
/-- A shift in hardware mode that has not come to COPY waits for the management controller (R547). -/
def Dev.shiftWaits (d : Dev) : Bool := !d.duty 4 && d.dmcDown
/-- The position is retired: it never hosts a tile again (R505). -/
def Dev.retire (d : Dev) (ph : Nat) : Dev :=
  { d with fuses := { d.fuses with retired := ph :: d.fuses.retired.filter (· != ph) } }
/-- A tile gets no spare: its position is retired, and the level rises to REPLACE (R505, R506, R515). -/
def Dev.noSpare (d : Dev) (n : Nat) : Dev :=
  (d.retire (d.physOf n)).raiseLevel 2 1
/-- A need of a tile shift is looked at: with no shift under way it begins; where its spare is used, the need falls away, and a fenced
tile is lost (R505, R506). -/
def Dev.tryShift (d : Dev) (n : Nat) : Dev :=
  if d.spare.shift.isSome then d
  else
    let d := d.dropNeed 1 n 0
    if d.spareFree (spareFor n) then d.startShift n
    else if (d.tile n).fenced then d.noSpare n
    else d
/-- The oldest need of a tile shift that a spare can serve begins where the device brings spares in by itself, no shift is under way,
and the management controller runs (R506, R507, R547). -/
def Dev.nextShift (d : Dev) : Dev :=
  if d.spare.shift.isSome || !d.sparesItself then d
  else ((d.spare.needs.filter fun e => e.1 == 1).map (·.2.1)).foldl Dev.tryShift d
/-- Records the need of a shift for tile n, which begins at once where it can; a shift of n under way becomes one for a
fenced tile if n is fenced. -/
def Dev.shiftNeed (d : Dev) (n : Nat) : Dev :=
  if d.spare.shift.any fun x => x.target == n then
    { d with spare := { d.spare with shift := d.spare.shift.map fun x => { x with fenced := x.fenced || (d.tile n).fenced } } }
  else (d.addNeed 1 n 0).nextShift

/-- A spare or repair of a kind has been brought in (R480, R502, R506): its SPARE record, which says whether the level rises with it, and
a snapshot of the meter's counters. -/
def Dev.spared (d : Dev) (kind : Nat) (tile : Option Nat) (unit : Nat) (detail : List Byte) (up : Bool := false) : Dev :=
  let part := match tile with
    | some n => (d.tile n).part
    | none => 0
  ({ d with spare := { d.spare with switches := d.spare.switches + 1 } } : Dev).log
    { cls := 0x0D, sev := 0, part := part, tile := tile, unit := unit, action := if up then 24 else 8, detail := leBytes 1 kind ++ detail }

/-- A tile is advised (R516). -/
def Dev.adviseTile (d : Dev) (n : Nat) : Dev :=
  if d.is (SPR_T_HEALTH_ADVISED n) then d
  else
    let d := (d.flag (SPR_T_HEALTH_ADVISED n) true).raiseLevel 1 12
    if d.spareFree (spareFor n) then d.shiftNeed n else d
/-- A stack or DDR5 channel is advised (R516); units 0 to 11 are stacks, 12 to 19 channels. -/
def Dev.adviseUnit (d : Dev) (u : Nat) : Dev :=
  if d.mem.advised.contains u then d
  else ({ d with mem := { d.mem with advised := u :: d.mem.advised } } : Dev).raiseLevel 1 13
/-- What a fenced tile needs: a shift, or, with no spare left, retirement and the level REPLACE (R505, R506, R515). -/
def Dev.fenceNeed (d : Dev) (n : Nat) : Dev :=
  if d.spareFree (spareFor n) then d.shiftNeed n else d.noSpare n

/-! ## The fence of a tile -/

/-- Tiles of partition p other than n. -/
def Dev.others (d : Dev) (p n : Nat) : List Nat := (d.tilesOf p).filter (· != n)

/-- The splice a local SPLICE route names has tile `n` among its contributors' routes. -/
def Dev.contributors (d : Dev) (p n s : Nat) : List (Nat × Nat × Nat) :=
  (d.tilesOf p).flatMap fun t =>
    ((d.tile t).routes.filter fun e => e.2.type == 2 && !e.2.remote && e.2.dest == n && e.2.index == s).map fun e =>
      (t, e.1 / 128, e.1 % 128)

/-- A route of tile `t` names tile n: its destination, or a leaf of its tree. -/
def Dev.routeNames (d : Dev) (r : Route) (n : Nat) : Bool :=
  r.type != 0 && !r.remote && (if r.mcast then (d.tree r.dest).leaves.contains n else r.dest == n)

/-- What is left of a Nopra item without the part of tile n in it. -/
def RemoteItem.without (n : Nat) : RemoteItem → Option RemoteItem
  | .queue dt q ep user st sr df sf light len ss data => if st = n then none else some (.queue dt q ep user st sr df sf light len ss data)
  | .splice dt s seq w st sr sf vs => if st = n then none else some (.splice dt s seq w st sr sf vs)
  | .hitch dt h ps =>
    let rest := ps.filter fun e => e.1 != n
    if rest.isEmpty then none else some (.hitch dt h rest)
  | .credit src wt wr k wf m a b => if src = n then none else some (.credit src wt wr k wf m a b)
/-- Items of a context that a fence of tile n takes away, in whole or in part. -/
def Ctx.itemsOf (x : Ctx) (n : Nat) : Nat := (x.items.filter fun i => i.2.without n != some i.2).length
/-- Nopra items of tile n that wait at an endpoint, or for one (R502, R504). -/
def Dev.nopraItems (d : Dev) (n : Nat) : Nat :=
  (d.tile n).railOut.length + (d.ctxs.map fun c => c.2.itemsOf n).sum
/-- A line access to or from the window of tile b. -/
def DmaAccess.touches (a : DmaAccess) (b : Nat) : Bool :=
  (inWindows a.src && winTile a.src == b) || (inWindows a.dst && winTile a.dst == b)
/-- Entries of tile t's splices with a contributor on tile n that are not complete: the fence of n discards them (R504). -/
def Dev.brokenEntries (d : Dev) (p n t : Nat) : Nat :=
  ((List.range 16).map fun s =>
    if ((d.tile t).splice s).valid && (d.contributors p t s).any fun c => c.1 == n then
      (((d.tile t).splice s).entries.filter fun e => !e.2.done).length
    else 0).sum
/-- DMA transfers of tile t that a fence of tile n ends REVOKED (R504). -/
def Tile.cutTransfers (t : Tile) (n : Nat) : Nat :=
  ((t.dma0.run ++ t.dma1.run).filter fun r => r.flight.any fun a => a.touches n && !a.done).length
/-- Leases of partition p that the fence of tile n revokes, each once (R502's FENCE row). A memory access joins its channel as it is
issued, so none waits at a drop. -/
def Dev.leases (d : Dev) (p n : Nat) : Nat :=
  let ts := d.tilesOf p
  let routes := (ts.map fun t => ((d.tile t).routes.filter fun e => e.2.st != .revoked && d.routeNames e.2 n).length).sum
  let grants := (ts.map fun t => ((d.tile t).queues.map fun e =>
    (e.2.grants.filter fun g => !g.withdrawn && (match g.writer with | .local_ w _ _ => w == n | _ => false)).length).sum).sum
  let hitches := (ts.map fun t => (((List.range 32).map (d.tile t).hitch).filter fun h => h.expect != 0 && !h.revoked).length).sum
  let reds := (d.routers.map fun r => (r.2.reds.filter fun e => (d.tile (e.1 / 16)).part == p && !e.2.revoked).length).sum
  let entries := ((ts.filter (· != n)).map fun t => d.brokenEntries p n t).sum
  let transfers := ((ts.filter (· != n)).map fun t => (d.tile t).cutTransfers n).sum
  routes + grants + hitches + (if p = 0 then 0 else 16) + reds + entries + transfers + d.nopraItems n

/-- The leases at tile n that the fence of tile `b` revokes: routes that name it, grants that its routes hold, and hitches
(R287, R299). -/
def Dev.fenceLeases (d : Dev) (n b : Nat) : Dev :=
  let t := d.tile n
  -- routes that name the fenced tile
  let d := (t.routes.filter fun e => e.2.st != .revoked && d.routeNames e.2 b).foldl
    (fun d e => d.routeTo n (e.1 / 128) (e.1 % 128) .revoked) d
  -- grants held by its routes
  let own (g : Grant) : Bool := match g.writer with | .local_ w _ _ => w == b | _ => false
  let d := t.queues.foldl (fun d e => d.modQueue n e.1 fun q =>
    { q with grants := q.grants.map fun g => if own g then { g with withdrawn := true } else g }) d
  -- hitches
  d.modTile n fun t =>
    { t with hitches := (List.range 32).map fun h => (h, { t.hitch h with expect := 0, revoked := true }) }

/-- A fence notice takes effect at tile n for the fenced tile `b` of its partition (R287, R299, R302, R504). -/
def Dev.fenceNotice (d : Dev) (n b : Nat) : Dev :=
  let t := d.tile n
  let d := d.fenceLeases n b
  -- tally operations that wait for its reply
  let d := (List.range 64).foldl (fun d k =>
    let x := (d.tile n).strand (k / 8) (k % 8)
    match x.op with
    | .tally rd _ dest => if dest = b then d.finish n (k / 8) (k % 8) rd 0 stRevoked else d
    | _ => d) d
  let d := (List.range 64).foldl (fun d k =>
    let old := ((d.tile n).strand (k / 8) (k % 8)).late.filter fun e => e.2 == b
    if old.isEmpty || d.stoppedF n (k / 8) then d
    else d.modStrand n (k / 8) (k % 8) fun x =>
      { old.foldl (fun x e => x.setReg e.1 0) x with last := stRevoked, late := x.late.filter fun e => e.2 != b }) d
  -- splices with a contributor on the fenced tile
  let d := (List.range 16).foldl (fun d s =>
    let sp := (d.tile n).splice s
    let cs := d.contributors t.part n s
    if sp.valid && cs.any (fun c => c.1 == b) then
      let d := d.modTile n fun t => t.modSplice s fun sp => { sp with entries := sp.entries.filter fun e => e.2.done }
      let d := d.msgCount n 5 (sp.entries.filter fun e => !e.2.done).length
      let d := cs.foldl (fun d c => if c.1 = b then d else d.notify n (.local_ c.1 c.2.1 c.2.2) .revoked) d
      sp.remotes.foldl (fun d g => d.notify n g.writer .revoked) d
    else d) d
  -- DMA transfers to or from its window
  let fix (e : Engine) : Engine := { e with run := e.run.map fun r =>
    { r with flight := r.flight.map fun a => if a.touches b && !a.done then { a with done := true, status := stRevoked, data := some (zeros a.len) } else a } }
  (d.modTile n fun t => { t with dma0 := fix t.dma0, dma1 := fix t.dma1 }).wakeAll n

/-- Reduction entries of partition p are revoked: what they hold is discarded and counted, and every contributor route
of their splices gets a revoked credit (R327). -/
def Dev.revokeReductions (d : Dev) (p : Nat) : Dev :=
  let hits : List (Nat × Nat × Nat) := d.routers.flatMap fun r =>
    (r.2.reds.filter fun e => (d.tile (e.1 / 16)).part == p && !e.2.revoked).map fun e => (r.1, e.1, e.2.bufs.length)
  hits.foldl (fun d h =>
    let d := d.modRouter h.1 fun r => { r with reds := r.reds.map fun e =>
      if e.1 = h.2.1 then (e.1, { e.2 with bufs := [], revoked := true }) else e }
    let d := match d.hostOf h.1 with
      | some n => d.add (MESH_R_DROP_FENCE n) h.2.2
      | none => d
    (d.contributors p (h.2.1 / 16) (h.2.1 % 16)).foldl (fun d c =>
      d.notify (h.2.1 / 16) (.local_ c.1 c.2.1 c.2.2) .revoked) d) d

/-- The Nopra items of tile n that wait at an endpoint, or for one, are discarded and counted (R504). -/
def Dev.dropItems (d : Dev) (n : Nat) : Dev :=
  let d := (d.tile n).railOut.foldl (fun d e => d.ctxDrop e.1 1) d
  let d := d.modTile n fun t => { t with railOut := [] }
  let d := d.ctxs.foldl (fun d c => if c.2.itemsOf n = 0 then d else d.ctxDrop c.1 (c.2.itemsOf n)) d
  { d with ctxs := d.ctxs.map fun c => (c.1, { c.2 with items := c.2.items.filterMap fun i => (i.2.without n).map fun x => (i.1, x) }) }

/-- The vector engine of a fenced tile may not write its output any more: its macro-instruction completes early with REVOKED in its
counter (R109, R227), before the frond stops. -/
def Dev.cutVector (d : Dev) (n : Nat) : Dev :=
  match (d.tile n).vx.run.find? fun r => r.macro_.kind == .vxRun && !r.plan.isEmpty with
  | none => d
  | some r =>
    let m := r.macro_
    let st : Byte := if r.err = 0 then stRevoked else r.err
    let d := (d.modTile n fun t => { t with vx := { t.vx with run := t.vx.run.filter fun q => q != r } }).set (TILE_VX_STATUS_LAST_ERR n) st.toNat
    d.modStrand n m.frond m.strand fun x => x.modK m.k fun c => { cnt := c.cnt - 1, err := if c.err = 0 then st else c.err }
/-- Logical tile n is fenced (R500, R504), and its position is retired (R505). `cause` is the case of R500. -/
def Dev.fence (d : Dev) (n cause : Nat) : Dev :=
  let t := d.tile n
  if t.fenced then d
  else
    let p := t.part
    let ep := (d.get (SPR_T_HEALTH_FENCE_EPOCH n) + 1) % 2 ^ 16
    let count := if p = 0 then 0 else d.leases p n
    let d := (d.set (SPR_T_HEALTH_FENCE_EPOCH n) ep).flag (SPR_T_HEALTH_FENCED n) true
    let d := ((d.modTile n fun t => { t with fenced := true }).retire (d.physOf n)).cutVector n
    let ran := (d.regionState p == 5)
    let lost := !d.spareFree (spareFor n) && d.rises 2
    let d := (List.range 8).foldl (fun d f => if ((d.tile n).frond f).loaded then d.stopFrond n f else d) d
    let d := d.log { cls := 0x0C, sev := 3, part := p, tile := some n,
                     action := 4 + (if t.active.isSome then 1 else 0) + (if ran then 2 else 0) + (if lost then 16 else 0),
                     detail := leBytes 1 cause ++ [0] ++ leBytes 2 ep ++ leBytes 4 (min count (2 ^ 32 - 1)) }
    let d := (d.containRegion p).fenceNeed n
    if p = 0 then d
    else
      let d := d.fenceLeases n n
      let d := (d.others p n).foldl (fun d m => d.sendFlit n .c 0 0 m 0 (.fence n)) d
      let d := d.revokeReductions p
      d.dropItems n

/-! ## Uncorrectable errors (R498) -/

/-- READER codes of a MEM_UE record (R502). -/
def rdMatrix : Nat := 0
def rdVector : Nat := 1
def rdDma : Nat := 2
def rdFill : Nat := 3
def rdStrand : Nat := 4
def rdWalker : Nat := 5
def rdPatrol : Nat := 6
def rdMessaging : Nat := 7
def rdRemote : Nat := 8
def rdCopy : Nat := 9
def rdWindow : Nat := 10

/-- UNIT code of a window region (R501). -/
def unitOf : WinRegion → Nat
  | .scratch => 0
  | .acc => 1
  | .fstore => 2
  | .desc => 4
  | .regs => 5
  | .queues => 6
  | .splices => 7
  | .none => 0xFF

/-- The MEM_UE record of an error in a tile's window. -/
def Dev.ueRecord (d : Dev) (n off reader f s sev action : Nat) : Dev :=
  let bank := if off < 0x1800000 then bankOf (d.tile n).hashed (off / 256) else if winRegion off == .acc then (off - 0x1800000) / 512 % 16 else 0
  d.log { cls := 2, sev := sev, part := (d.tile n).part, tile := some n, unit := unitOf (winRegion off), addr := some off,
          action := action,
          detail := leBytes 1 bank ++ leBytes 1 reader ++ leBytes 1 f ++ leBytes 1 s }

/-- An uncorrectable error at an offset of tile n's window, read for frond f of tile m (R109, R498): it is marked (it stays until a write replaces
the word, R497), recorded, and contained: the frond stops, or the tile is fenced where the error lies in its frond
store or descriptor table. -/
def Dev.memUeFor (d : Dev) (n off reader m f s : Nat) : Dev :=
  let d := d.modTile n fun t => t.markBad off
  let running := d.regionState (d.tile n).part == 5
  match winRegion off with
  | .fstore => (d.ueRecord n off reader f s 3 4).fence n 1
  | .desc => (d.ueRecord n off reader f s 3 4).fence n 1
  | .regs => (d.ueRecord n off reader f s 3 4).fence n 1
  | _ => (d.ueRecord n off reader f s 3 (if running then 3 else 1)).containFrond m f

/-- An uncorrectable error at an offset of tile n's own window, read for its frond f. -/
def Dev.memUe (d : Dev) (n off reader f s : Nat) : Dev := d.memUeFor n off reader n f s

/-- An uncorrectable error in a strand context of tile n, which the walker finds (R117, R498, R500): the tile is fenced. -/
def Dev.contextUe (d : Dev) (n : Nat) : Dev :=
  (d.log { cls := 2, sev := 3, part := (d.tile n).part, tile := some n, unit := 3, action := 4, detail := leBytes 1 0 ++ leBytes 1 rdWalker }).fence n 1

/-- An uncorrectable error in a route table, a tree or reduction entry or the configuration of the router of tile n (R498): the partition's
trees and reduction entries are revoked, and every frond of the partition stops. -/
def Dev.routerUe (d : Dev) (n : Nat) : Dev :=
  let p := (d.tile n).part
  let d := d.log { cls := 2, sev := 3, part := p, tile := some n, unit := 8,
                   action := if p = 0 then 0 else if d.regionState p = 5 then 3 else 1, detail := leBytes 1 0 ++ leBytes 1 rdWalker }
  if p = 0 then d
  else
    let d := (d.tilesOf p).foldl (fun d m => ((d.tile m).routes.filter fun e => e.2.mcast && e.2.st != .revoked).foldl
      (fun d e => d.routeTo m (e.1 / 128) (e.1 % 128) .revoked) d) d
    let d := d.revokeReductions p
    ((d.tilesOf p).foldl (fun d m => (List.range 8).foldl (fun d f => if ((d.tile m).frond f).loaded then d.stopFrond m f else d) d) d).containRegion p

/-- An uncorrectable error found by a walker, or by an access from outside the tile (R498): recorded as LATENT, unless
it lies where anyone's reading fences the tile. -/
def Dev.memUeLatent (d : Dev) (n off reader : Nat) : Dev :=
  let d := d.modTile n fun t => t.markBad off
  match winRegion off with
  | .fstore => (d.ueRecord n off reader 0 0 3 4).fence n 1
  | .desc => (d.ueRecord n off reader 0 0 3 4).fence n 1
  | .regs => (d.ueRecord n off reader 0 0 3 4).fence n 1
  | _ => d.ueRecord n off reader 0 0 2 0

/-- Reads bytes of the window for frond f, with what their check bits show (R259, R498): a corrected error is counted, and an
uncorrectable one is contained and gives none. -/
def Dev.eccRead (d : Dev) (n off len reader f s : Nat) (ecc : Ecc) : Dev × Option (List Byte) :=
  if ecc = .uncorrectable || (d.tile n).ueIn off len then (d.memUe n ((d.tile n).ueAddr off len) reader f s, none)
  else (if ecc = .corrected then d.corrected n off else d, some ((d.tile n).winRead off len))

end Sys2Proof.Machine
end

