-- ==== Sys2Proof/Machine/Operands.lean ====
section
/-! DEFINITION. Operand forms of instructions (R87, R91, R104, R266) and the instruction word of a command, which TVAL
of the traps ILLEGAL and CLASS holds (R114). -/

namespace Sys2Proof.Machine

/-- The value of the second operand of an ALU or compare instruction (R91, R92). -/
def opndVal (s : Strand) : Opnd → Word
  | .reg r => s.reg r.val
  | .imm v => sext32 v

/-- The register an operand reads, if any. -/
def opndReg : Opnd → List Nat
  | .reg r => [r.val]
  | .imm _ => []

/-- The instruction word of R87. -/
def scalarWord (x : Iss) (op rd ra rb fn : Nat) (imm : Imm) : Word :=
  BitVec.ofNat 64 (op * 2 ^ 58 + x.pred.val * 2 ^ 55 + (if x.pn then 2 ^ 54 else 0) + rd * 2 ^ 49 + ra * 2 ^ 44 +
    rb * 2 ^ 39 + fn * 2 ^ 32 + imm.toNat)

/-- The instruction word of a macro-instruction (R104). -/
def macroWord (x : Iss) (op : Nat) (m : Mac) : Word :=
  BitVec.ofNat 64 (op * 2 ^ 58 + x.pred.val * 2 ^ 55 + (if x.pn then 2 ^ 54 else 0) + m.da.val * 2 ^ 48 +
    m.db.val * 2 ^ 42 + m.dc.val * 2 ^ 36 + m.dd.val * 2 ^ 30 + m.k.val * 2 ^ 28 + m.spec.toNat)

/-- ENTRY of a route word (R266). -/
def rwEntry (w : Word) : Nat := w.toNat % 128
/-- USER of a route word (R266). -/
def rwUser (w : Word) : Nat := bits w.toNat 31 16
/-- The reserved bits of a route word are zero; USER must be 0 but for a queue (R266). -/
def rwClean (w : Word) (queue : Bool) : Bool :=
  w.toNat / 2 ^ 32 == 0 && bits w.toNat 15 7 == 0 && (queue || rwUser w == 0)

/-- Bits [hi:lo] of SPEC. -/
def spec (m : Mac) (hi lo : Nat) : Nat := bits m.spec.toNat hi lo

end Sys2Proof.Machine
end

