-- ==== Sys2Proof/Machine/Flags.lean ====
section
/-! DEFINITION. The conditions that compares write to predicates (R92) and the predicate logic (R93). The device has no
flag register: predicates p1 to p7 take that place. -/

namespace Sys2Proof.Machine

/-- cmp.eq, cmp.ne, cmp.lt, cmp.ltu, cmp.ge and cmp.geu (R92). -/
def condEq (a b : Word) : Bool := a == b
def condNe (a b : Word) : Bool := a != b
def condLt (a b : Word) : Bool := a.slt b
def condLtu (a b : Word) : Bool := a.ult b
def condGe (a b : Word) : Bool := !a.slt b
def condGeu (a b : Word) : Bool := !a.ult b

/-- ptst (R93): (ga AND imm zero-extended) is not 0. -/
def condTst (a : Word) (imm : Imm) : Bool := (a &&& zext32 imm) != 0

/-- pandn (R93). -/
def predAndn (a b : Bool) : Bool := a && !b

end Sys2Proof.Machine
end

