-- ==== Sys2Proof/Machine/CoreOps.lean ====
section
/-! DEFINITION. The tile core's shared operations: issue and its guard (R83, R84, R86, R88), the program counter
(R94), traps taken and unhandled (R114 to R116), and the instruction commands that are built on them. -/

namespace Sys2Proof.Machine

/-- Trap causes (R114). -/
def trIllegal : Nat := 1
def trPcRange : Nat := 2
def trMisaligned : Nat := 3
def trUnmapped : Nat := 4
def trDenied : Nat := 5
def trDesc : Nat := 6
def trClass : Nat := 7
def trSoft : Nat := 8
def trProgram : Nat := 9

/-- How an instruction ends: the next instruction, a jump, a resumption `len` past `pc` (sy.rte), or a trap, of which
the instruction has no effect. -/
inductive Flow where
  | next
  | jump (target : Int)
  | resume (pc len : Nat)
  | trap (cause : Nat) (tval : Word)
  deriving DecidableEq, Repr

/-- An unhandled trap (R116): FAULT, a record of class PROGRAM, and under FAULT_POLICY 0 the frond stops and the
partition is drained. -/
def Dev.unhandled (d : Dev) (n f s cause epc : Nat) (tval : Word) : Dev :=
  let t := d.tile n
  let pol := d.get (TILE_CORE_CTRL_FAULT_POLICY n)
  let runs := d.regionState t.part == 5
  let d := d.modStrand n f s fun x =>
    { x with st := .fault, wait := .none, op := .none, cause := BitVec.ofNat 8 cause, epc := BitVec.ofNat 13 epc, tval := tval }
  let d := d.log { cls := 1, sev := 3, part := t.part, tile := some n, unit := 3,
                   action := if pol = 0 then (if runs then 3 else 1) else 0,
                   detail := leBytes 1 s ++ leBytes 1 f ++ leBytes 1 cause ++ [0] ++ leBytes 2 epc ++ [0, 0] ++ leBytes 8 tval.toNat }
  if pol = 0 then (d.stopFrond n f).containRegion t.part false else d

/-- The instruction that strand s issues may keep it from being ready for `k` cycles (R83, R91, R94, R100 to R103, R106): so many
instructions of its tile, or ticks, later it is ready for certain. -/
def Dev.hold (d : Dev) (n f s k : Nat) : Dev :=
  if k ≤ 1 then d else d.modStrand n f s fun x => { x with slow := (d.get (TILE_ISSUE_COUNT_V n) + k, d.tick + k) }
/-- Takes a trap (R115): the handler takes causes 0x01 to 0x08 while INTRAP is 0 and a trap entry exists: CAUSE, EPC and
TVAL are recorded, INTRAP is set and the strand goes on at TRAP_ENTRY. Any other trap is unhandled. -/
def Dev.takeTrap (d : Dev) (n f s cause epc : Nat) (tval : Word) : Dev :=
  let t := d.tile n
  let fr := t.frond f
  if cause ≤ 8 && !(t.strand f s).inTrap && fr.trapValid then
    (d.hold n f s 3).modStrand n f s fun x =>
      { x with cause := BitVec.ofNat 8 cause, epc := BitVec.ofNat 13 epc, tval := tval, inTrap := true, pc := fr.trapEntry }
  else d.unhandled n f s cause epc tval

/-- Strand k of frond f is ready for certain, whatever registers its instruction reads: it could issue, has no load in flight, and no
instruction of its own keeps it (R83, R84). -/
def Dev.sureReady (d : Dev) (n f k : Nat) : Bool :=
  let t := d.tile n
  let x := t.strand f k
  x.st == .ready && !x.yielding && (!t.haltReq || t.stepping == some k) && x.loads.isEmpty &&
  (decide (x.slow.1 ≤ d.get (TILE_ISSUE_COUNT_V n)) || decide (x.slow.2 ≤ d.tick))
/-- The search from the strand that issued last comes to strand s before any other that is ready for certain (R83). -/
def Dev.issueTurn (d : Dev) (n f s : Nat) : Bool :=
  let l := (d.tile n).lastIssued
  (List.range ((s + 15 - l) % 8)).all fun i => !d.sureReady n f ((l + 1 + i) % 8)

/-- The strand of the command may issue (R30, R84, R86, R245, R349, R355, R504): its tile belongs to a partition whose
region is not DRAINED, is not held, clearing, fenced or switching, its frond has not stopped, the strand is READY and not yielding, HALT_REQ does not
hold it, its turn has come (R83), and no load is in flight to a register it reads. -/
def Dev.canIssue (d : Dev) (n f s : Nat) (srcs : List Nat) : Bool :=
  let t := d.tile n
  let st := t.strand f s
  t.part != 0 && d.regionState t.part != 7 && !t.held && !t.clearing && !t.fenced && t.foldSt != .switch && !(t.frond f).stopped &&
  st.st == .ready && !st.yielding && (!t.haltReq || t.stepping == some s) && d.issueTurn n f s &&
  srcs.all fun r => r == 0 || !(st.loads.any fun l => l.rd == r)

/-- The guard of R88. -/
def guard (st : Strand) (x : Iss) : Bool := st.predBit x.pred.val != x.pn

/-- Moves the program counter past an instruction of `len` words; past instruction 8,191 a strand that goes on raises
PC_RANGE with EPC 8,191, and one that waits there raises it when it goes on (R94). -/
def Dev.stepPc (d : Dev) (n f s pc len : Nat) : Dev :=
  if pc + len ≤ 8191 then d.modStrand n f s fun x => { x with pc := BitVec.ofNat 13 (pc + len) }
  else
    match ((d.tile n).strand f s).st with
    | .ready => d.takeTrap n f s trPcRange 8191 (BitVec.ofNat 64 (pc + len))
    | .wait => d.modStrand n f s fun x => { x with pc := 8191, atEnd := true }
    | _ => d

/-- Ends an issued instruction. -/
def Dev.endIssue (d d0 : Dev) (n f s pc len : Nat) : Flow → Dev
  | .next => d.stepPc n f s pc len
  | .jump t =>
    if 0 ≤ t && t ≤ 8191 then (d.hold n f s 3).modStrand n f s fun x => { x with pc := BitVec.ofNat 13 t.toNat }
    else d0.takeTrap n f s trPcRange pc (BitVec.ofInt 64 t)
  | .resume p l => (d.hold n f s 3).stepPc n f s p l
  | .trap c v => d0.takeTrap n f s c pc v

/-- What one instruction does: to the device, for frond f's strand s of tile n, whose context is `st`. -/
abbrev Body := Dev → Nat → Nat → Nat → Strand → Dev × Flow
/-- An instruction whose result, or whose strand's next issue, comes `k` cycles after it. -/
def slowly (k : Nat) (body : Body) : Body := fun d n f s st => body (d.hold n f s k) n f s st

/-- Issues one instruction of `len` words that reads the registers `srcs` (R83, R84, R88): counted, guarded, its
effect, and the program counter. A strand that may not issue does nothing; one whose wait at instruction 8,191 has ended raises PC_RANGE
instead (R94). A strand that STEP let go returns to
DEBUG. -/
def Dev.issue (d : Dev) (x : Iss) (srcs : List Nat) (len : Nat) (body : Body) : Dev :=
  let n := x.tile.val
  let s := x.strand.val
  match (d.tile n).active with
  | none => d
  | some f =>
    let st := (d.tile n).strand f s
    let g := guard st x
    if !d.canIssue n f s (if g && !st.atEnd then srcs else []) then d
    else if st.atEnd then
      ((d.modTile n fun t => { t with stepping := none }).modStrand n f s fun y => { y with atEnd := false }).takeTrap n f s trPcRange 8191 8192
    else
      let d := d.modTile n fun t => { t with lastIssued := s, stepping := none }
      let d := d.add (TILE_ISSUE_COUNT_V n) 1
      if g then
        let r := body d n f s st
        r.1.endIssue d n f s st.pc.toNat len r.2
      else d.stepPc n f s st.pc.toNat len

/-- Writes a register and goes on. -/
def putReg (d : Dev) (n f s rd : Nat) (v : Word) : Dev × Flow := (d.modStrand n f s fun x => x.setReg rd v, .next)
/-- Writes a predicate and goes on. -/
def putPred (d : Dev) (n f s pd : Nat) (b : Bool) : Dev × Flow := (d.modStrand n f s fun x => x.setPred pd b, .next)
/-- Writes rd and LAST_STATUS and goes on (R99). -/
def putStatus (d : Dev) (n f s rd : Nat) (v : Word) (st : Byte) : Dev × Flow :=
  (d.modStrand n f s fun x => { x.setReg rd v with last := st }, .next)
/-- Enters WAIT and goes on when the wait ends (R85, R86). -/
def enterWait (d : Dev) (n f s : Nat) (w : WaitReason) (op : WaitOp) : Dev × Flow :=
  (d.modStrand n f s fun x => { x with st := .wait, wait := w, op := op, waitFrom := d.tick, probed := 0 }, .next)

/-- The frond's program class is PX64 (R118). -/
def Dev.px64 (d : Dev) (n f : Nat) : Bool := ((d.tile n).frond f).cls == 0

/-- An ALU instruction: rd takes a function of ga and b, after a latency (R91). -/
def aluRun (op : Word → Word → Word) (x : Iss) (rd ra : GReg) (b : Opnd) (s : State) (latency : Nat := 1) : Host.Outcome State Fault Refusal :=
  run (fun d => d.issue x (ra.val :: opndReg b) 1 <| slowly latency fun d n f s st =>
    putReg d n f s rd.val (op (st.reg ra.val) (opndVal st b))) s

/-- A compare: pd takes a condition on ga and b (R92). -/
def cmpRun (c : Word → Word → Bool) (x : Iss) (pd : PReg) (ra : GReg) (b : Opnd) (s : State) :
    Host.Outcome State Fault Refusal :=
  run (fun d => d.issue x (ra.val :: opndReg b) 1 fun d n f s st =>
    putPred d n f s pd.val (c (st.reg ra.val) (opndVal st b))) s

/-- Predicate logic: pd takes a function of pa and pb (R93). -/
def predRun (op : Bool → Bool → Bool) (x : Iss) (pd pa pb : PReg) (s : State) : Host.Outcome State Fault Refusal :=
  run (fun d => d.issue x [] 1 fun d n f s st => putPred d n f s pd.val (op (st.predBit pa.val) (st.predBit pb.val))) s

end Sys2Proof.Machine
end

