-- ==== Sys2Proof/Machine/Fp.lean ====
section
/-! DEFINITION. Number formats (R152, R153, R155), exact values, rounding and conversion (R163, R170 to R173), and FP32
arithmetic as R170 gives it. An FP32 value is the number of its 32 bits. -/

namespace Sys2Proof.Machine

/-! ## Exact values -/

/-- A decoded value: (-1)^neg × m × 2^e exactly, an infinity or a NaN. -/
inductive Num where
  | nan
  | inf (neg : Bool)
  | fin (neg : Bool) (m : Nat) (e : Int)
  deriving DecidableEq, Repr

/-- The value is a NaN. -/
def Num.isNan : Num → Bool
  | .nan => true
  | _ => false
/-- The value is finite. -/
def Num.isFin : Num → Bool
  | .fin _ _ _ => true
  | _ => false
/-- m × 2^e for e of either sign, as a quotient. -/
def dyad (m : Nat) (e : Int) : Nat × Nat := if 0 ≤ e then (m * 2 ^ e.toNat, 1) else (m, 2 ^ (-e).toNat)
/-- A signed dyadic value at exponent e0, which is at most its own exponent. -/
def atExp (neg : Bool) (m : Nat) (e e0 : Int) : Int :=
  let v : Int := (m * 2 ^ (e - e0).toNat : Nat)
  if neg then -v else v
/-- An integer at exponent e0 as a value; zero is +0.0. -/
def ofExp (v e0 : Int) : Num := .fin (decide (v < 0)) v.natAbs e0

/-- The exact product under IEEE 754 (R156, R160). -/
def Num.mul : Num → Num → Num
  | .nan, _ => .nan
  | _, .nan => .nan
  | .inf a, .inf b => .inf (a != b)
  | .inf a, .fin b m _ => if m = 0 then .nan else .inf (a != b)
  | .fin a m _, .inf b => if m = 0 then .nan else .inf (a != b)
  | .fin a m e, .fin b n f => .fin (a != b) (m * n) (e + f)

/-- The exact sum; a zero sum is −0.0 only where both operands are −0.0 (R163). -/
def Num.add : Num → Num → Num
  | .nan, _ => .nan
  | _, .nan => .nan
  | .inf a, .inf b => if a = b then .inf a else .nan
  | .inf a, .fin _ _ _ => .inf a
  | .fin _ _ _, .inf b => .inf b
  | .fin a m e, .fin b n f =>
    let e0 := min e f
    let v := atExp a m e e0 + atExp b n f e0
    if v = 0 then .fin (a && b && m == 0 && n == 0) 0 0 else ofExp v e0

/-- The value with its sign inverted. -/
def Num.neg : Num → Num
  | .nan => .nan
  | .inf a => .inf (!a)
  | .fin a m e => .fin (!a) m e

/-- The exact comparison a < b; false with a NaN. -/
def Num.lt : Num → Num → Bool
  | .nan, _ => false
  | _, .nan => false
  | .inf a, .inf b => a && !b
  | .inf a, .fin _ _ _ => a
  | .fin _ _ _, .inf b => !b
  | .fin a m e, .fin b n f => decide (atExp a m e (min e f) < atExp b n f (min e f))

/-- The exact comparison of values: equal, +0.0 and −0.0 too; false with a NaN. -/
def Num.eqv (a b : Num) : Bool := !a.isNan && !b.isNan && !a.lt b && !b.lt a

/-! ## Formats -/

/-- Width in bits of a format code (R152, R153). -/
def fmtWidth (c : Nat) : Nat :=
  match c with
  | 0 => 32
  | 1 => 16
  | 2 => 16
  | 3 => 8
  | 4 => 8
  | 5 => 6
  | 6 => 6
  | 7 => 4
  | 8 => 8
  | 9 => 4
  | 10 => 2
  | 11 => 2
  | 12 => 1
  | _ => 8

/-- Exponent bits, significand bits and bias of a float format (R152). -/
def fltLayout (c : Nat) : Nat × Nat × Nat :=
  match c with
  | 0 => (8, 23, 127)
  | 1 => (8, 7, 127)
  | 2 => (5, 10, 15)
  | 3 => (4, 3, 7)
  | 4 => (5, 2, 15)
  | 5 => (3, 2, 3)
  | 6 => (2, 3, 1)
  | _ => (2, 1, 1)
/-- The format is a float format (R152). -/
def isFloat (c : Nat) : Bool := c ≤ 7
/-- The format has infinities (R152). -/
def hasInf (c : Nat) : Bool := c ≤ 2 || c == 4

/-- The value of an element's bits (R152, R153, R155). -/
def decode (c v : Nat) : Num :=
  if isFloat c then
    let (eb, mb, bias) := fltLayout c
    let s := bit v (eb + mb) == 1
    let ex := bits v (eb + mb - 1) mb
    let f := v % 2 ^ mb
    let top := 2 ^ eb - 1
    if hasInf c && ex = top then (if f = 0 then .inf s else .nan)
    else if c = 3 && ex = top && f = 7 then .nan
    else if ex = 0 then .fin s f (1 - (bias : Int) - mb)
    else .fin s (2 ^ mb + f) ((ex : Int) - bias - mb)
  else if c = 11 then
    match v % 4 with
    | 1 => .fin false 1 0
    | 2 => .fin true 1 0
    | _ => .fin false 0 0
  else if c = 12 then .fin (v % 2 == 1) 1 0
  else if c = 13 then .fin false (v % 256) 0
  else ofExp (signedOf (fmtWidth c) v) 0

/-- The format that a conversion or MX scaling reads INT8 in under MX: integers in units of 2^−6 (R156). -/
def mxUnit (c : Nat) : Int := if c = 8 then -6 else 0

/-! ## Rounding -/

/-- Rounding modes: to nearest with ties to even, the same with ties away (R163), toward zero, upward for magnitudes,
and stochastic with its 16-bit value (R171, R173). -/
inductive Rnd where
  | rne | rna | rtz | up
  | sr (r : Nat)
  deriving DecidableEq, Repr

/-- Rounds the quotient of two naturals to an integer. -/
def roundQ (md : Rnd) (n d : Nat) : Nat :=
  let q := n / d
  let r := n % d
  match md with
  | .rne => if d < 2 * r || (2 * r = d && q % 2 = 1) then q + 1 else q
  | .rna => if d ≤ 2 * r then q + 1 else q
  | .rtz => q
  | .up => if 0 < r then q + 1 else q
  | .sr k => if k < r * 65536 / d then q + 1 else q

/-- ⌊log2 (n / d)⌋ for positive n and d. -/
def flog2 (n d : Nat) : Int :=
  let k : Int := (Nat.log2 n : Int) - Nat.log2 d
  let ok : Bool := if 0 ≤ k then decide (d * 2 ^ k.toNat ≤ n) else decide (d ≤ n * 2 ^ (-k).toNat)
  if ok then k else k - 1

/-- Rounds the positive value n / d × 2^e to `p` significant bits and a least place of 2^emin: the integer and its
exponent. -/
def roundP (md : Rnd) (p : Nat) (emin : Int) (n d : Nat) (e : Int) : Nat × Int :=
  if n = 0 then (0, emin)
  else
    let q := max (flog2 n d + e - (p - 1 : Int)) emin
    let (a, b) := dyad n (e - q)
    (roundQ md a (b * d), q)

/-- Largest finite magnitude of a float format: integer and exponent. -/
def maxFin (c : Nat) : Nat × Int :=
  match c with
  | 0 => (2 ^ 24 - 1, 104)
  | 1 => (2 ^ 8 - 1, 120)
  | 2 => (2 ^ 11 - 1, 5)
  | 3 => (14, 5)
  | 4 => (7, 13)
  | 5 => (7, 2)
  | 6 => (15, -1)
  | _ => (3, 1)

/-- Bits of a finite float of integer m at the format's exponent q. -/
def packFlt (c : Nat) (neg : Bool) (m : Nat) (q : Int) : Nat :=
  let (eb, mb, bias) := fltLayout c
  let s := if neg then 2 ^ (eb + mb) else 0
  if m < 2 ^ mb then s + m
  else
    let (m, q) := if m = 2 ^ (mb + 1) then (2 ^ mb, q + 1) else (m, q)
    s + (q + mb + bias).toNat * 2 ^ mb + (m - 2 ^ mb)

/-- Bits of the canonical NaN (R164, R172): +0.0 in the formats without a NaN. -/
def nanBits (c : Nat) : Nat :=
  match c with
  | 0 => 0x7FC00000
  | 1 => 0x7FC0
  | 2 => 0x7E00
  | 3 => 0x7F
  | 4 => 0x7E
  | _ => 0
/-- Bits of an infinity. -/
def infBits (c : Nat) (neg : Bool) : Nat :=
  let (eb, mb, _) := fltLayout c
  (if neg then 2 ^ (eb + mb) else 0) + (2 ^ eb - 1) * 2 ^ mb

/-- Writes ±n / d × 2^e in a float format, with whether it was clamped (R172). -/
def encFlt (c : Nat) (md : Rnd) (neg : Bool) (n d : Nat) (e : Int) : Nat × Bool :=
  let (_, mb, bias) := fltLayout c
  let (m, q) := roundP md (mb + 1) (1 - (bias : Int) - mb) n d e
  let (mx, me) := maxFin c
  let big : Bool := decide (atExp false mx me (min q me) < atExp false m q (min q me))
  if !big then (packFlt c neg m q, false)
  else if hasInf c && md != .rtz then (infBits c neg, false)
  else (packFlt c neg mx me, true)

/-- Smallest and largest value of an integer format (R153). -/
def intRange (c : Nat) : Int × Int :=
  match c with
  | 8 => (-128, 127)
  | 9 => (-8, 7)
  | 10 => (-2, 1)
  | 11 => (-1, 1)
  | _ => (0, 255)
/-- Bits of an integer in its format. -/
def packInt (c : Nat) (v : Int) : Nat :=
  if c = 11 then (if v < 0 then 2 else v.toNat) else (v % (2 ^ fmtWidth c : Nat)).toNat

/-- Converts the exact value q to a format (R171, R172); `unit` is the exponent of an integer format's last place. The
second part tells whether the value counts in SATCOUNT. -/
def convert (c : Nat) (md : Rnd) (unit : Int) (q : Num) (den : Nat) : Nat × Bool :=
  if c = 12 then
    match q with
    | .nan => (0, false)
    | .inf neg => (if neg then 1 else 0, false)
    | .fin neg m _ => (if neg && m != 0 then 1 else 0, false)
  else if isFloat c then
    match q with
    | .nan => (nanBits c, !(hasInf c || c == 3))
    | .inf neg => if hasInf c then (infBits c neg, false) else (packFlt c neg (maxFin c).1 (maxFin c).2, true)
    | .fin neg m e => encFlt c md neg m den e
  else
    let (lo, hi) := intRange c
    match q with
    | .nan => (0, true)
    | .inf neg => (packInt c (if neg then lo else hi), true)
    | .fin neg m e =>
      let (a, b) := dyad m (e - unit)
      let k : Int := roundQ md a (b * den)
      let k := if neg then -k else k
      if k < lo then (packInt c lo, true) else if hi < k then (packInt c hi, true) else (packInt c k, false)

/-- x / sc as an exact value over a denominator; IEEE 754 special cases (R171). -/
def quotient (x sc : Num) : Num × Nat :=
  match x, sc with
  | .nan, _ => (.nan, 1)
  | _, .nan => (.nan, 1)
  | .inf _, .inf _ => (.nan, 1)
  | .inf a, .fin b _ _ => (.inf (a != b), 1)
  | .fin a _ _, .inf b => (.fin (a != b) 0 0, 1)
  | .fin a m e, .fin b n f =>
    if n = 0 then (if m = 0 then .nan else .inf (a != b), 1) else (.fin (a != b) m (e - f), n)

/-! ## FP32 arithmetic (R170) -/

/-- The value of FP32 bits. -/
def f32 (v : Nat) : Num := decode 0 v
/-- Rounds an exact value to FP32. -/
def toF32 (x : Num) : Nat := (convert 0 .rne 0 x 1).1
/-- Sum, difference, product, quotient and fused multiply-add in FP32. -/
def fadd (a b : Nat) : Nat := toF32 ((f32 a).add (f32 b))
def fsub (a b : Nat) : Nat := toF32 ((f32 a).add (f32 b).neg)
def fmul (a b : Nat) : Nat := toF32 ((f32 a).mul (f32 b))
def ffma (a b c : Nat) : Nat := toF32 (((f32 a).mul (f32 b)).add (f32 c))
def fdiv (a b : Nat) : Nat :=
  let (q, d) := quotient (f32 a) (f32 b)
  (convert 0 .rne 0 q d).1
/-- 1.0, +0.0 and −infinity. -/
def f1 : Nat := 0x3F800000
def f0 : Nat := 0
def fNegInf : Nat := 0xFF800000
/-- The canonical FP32 NaN. -/
def fNan : Nat := 0x7FC00000
/-- The bits are a NaN's. -/
def fIsNan (a : Nat) : Bool := (f32 a).isNan
/-- Any NaN becomes the canonical one. -/
def fCanon (a : Nat) : Nat := if fIsNan a then fNan else a
/-- vx.max and vx.min (R210): a NaN gives NaN, and +0.0 is larger than −0.0. -/
def fmax (a b : Nat) : Nat :=
  if fIsNan a || fIsNan b then fNan
  else if (f32 a).lt (f32 b) then b
  else if (f32 b).lt (f32 a) then a
  else if a / 2 ^ 31 = 1 then b else a
def fmin (a b : Nat) : Nat :=
  if fIsNan a || fIsNan b then fNan
  else if (f32 a).lt (f32 b) then a
  else if (f32 b).lt (f32 a) then b
  else if a / 2 ^ 31 = 1 then a else b
/-- |a| and −a by their sign bits. -/
def fabs (a : Nat) : Nat := fCanon (a % 2 ^ 31)
def fneg (a : Nat) : Nat := if fIsNan a then fNan else if a / 2 ^ 31 = 1 then a - 2 ^ 31 else a + 2 ^ 31
/-- An index as FP32. -/
def fNat (n : Nat) : Nat := toF32 (.fin false n 0)
/-- The value rounded to an integer, ties to even. -/
def frint (a : Nat) : Nat :=
  match f32 a with
  | .nan => fNan
  | .inf _ => a
  | .fin neg m e =>
    let (x, y) := dyad m e
    toF32 (.fin neg (roundQ .rne x y) 0)

/-- The 16-bit value of stochastic rounding (R173). -/
def srBits (seed : Word) (step idx : Nat) : Nat :=
  let k : Word := (BitVec.ofNat 64 (step % 2 ^ 32 * 2 ^ 40)) ^^^ BitVec.ofNat 64 idx
  let z := seed + k * 0x9E3779B97F4A7C15#64
  let z := (z ^^^ (z >>> 30)) * 0xBF58476D1CE4E5B9#64
  let z := (z ^^^ (z >>> 27)) * 0x94D049BB133111EB#64
  let z := z ^^^ (z >>> 31)
  (z >>> 48).toNat

/-- A BF16 piece of FP32 x rounded in a mode, as FP32 (R168). -/
def bfPiece (md : Rnd) (x : Nat) : Nat := (convert 1 md 0 (f32 x) 1).1 * 2 ^ 16
/-- Piece i of the split of x (R168, R217). Piece 1 is rounded to nearest in a split into two pieces and toward zero in
one into three; vx.split names a piece by its number alone, so which of the two it returns is a free value. -/
def splitPiece (i x : Nat) : Nat :=
  match f32 x with
  | .nan => if i = 0 then fNan else f0
  | .inf _ => if i = 0 then x else f0
  | .fin _ m _ =>
    if m = 0 then x
    else
      let p0 := bfPiece .rtz x
      let r1 := fsub x p0
      if i = 0 then p0
      else if i = 1 then bfPiece (if Config.splitNearest then .rne else .rtz) r1
      else bfPiece .rne (fsub r1 (bfPiece .rtz r1))

end Sys2Proof.Machine
end

