-- ==== Sys2Proof/Machine/FpFun.lean ====
section
/-! DEFINITION. The functions of the vector engine's special unit and of the fused function unit (R211, R212): square
roots exactly, the transcendental ones in fixed point with some 150 bits, far beyond what decides how a binary32
value rounds. -/

namespace Sys2Proof.Machine

/-- ⌊√n⌋, bit by bit. -/
def isqrt (n : Nat) : Nat :=
  let k := Nat.log2 n / 2
  (List.range (k + 1)).foldl (fun r i =>
    let c := r + 2 ^ (k - i)
    if c * c ≤ n then c else r) 0

/-- √(n / d), to nearest FP32: the integer root of n / d × 4^h with a sticky bit. -/
def rootF32 (n d : Nat) (e : Int) : Nat :=
  let (n, e) := if e % 2 = 0 then (n, e) else (2 * n, e - 1)
  let h := 80 + Nat.log2 d
  let v := n * 4 ^ h
  let q := isqrt (v / d)
  let sticky := if q * q * d = v then 0 else 1
  (convert 0 .rne 0 (.fin false (2 * q + sticky) (e / 2 - h - 1)) 1).1

/-- vx.sqrt (R211). -/
def fsqrt (a : Nat) : Nat :=
  match f32 a with
  | .nan => fNan
  | .inf neg => if neg then fNan else a
  | .fin neg m e => if m = 0 then a else if neg then fNan else rootF32 m 1 e
/-- vx.rsqrt (R211). -/
def frsqrt (a : Nat) : Nat :=
  match f32 a with
  | .nan => fNan
  | .inf neg => if neg then fNan else f0
  | .fin neg m e => if m = 0 then infBits 0 neg else if neg then fNan else rootF32 1 m (-e)

/-- Bits of the fixed point. -/
def fxBits : Nat := 192
/-- ln 2 in the fixed point. -/
def fxLn2 : Nat := 0xb17217f7d1cf79abc9e3b39803f2f6af40f343267298b62d

/-- e^(r / 2^fxBits) in the fixed point, for 0 ≤ r < ln 2. -/
def fxExp (r : Nat) : Nat :=
  ((List.range 56).foldl (fun (s : Nat × Nat) i =>
    let t := s.2 * r / 2 ^ fxBits / (i + 1)
    (s.1 + t, t)) (2 ^ fxBits, 2 ^ fxBits)).1

/-- e^x for |x| below 256: an integer and its exponent. -/
def expNum (neg : Bool) (m : Nat) (e : Int) : Nat × Int :=
  let (a, b) := dyad m (e + fxBits)
  let x : Int := if neg then -(a / b : Nat) else (a / b : Nat)
  let k := x / fxLn2
  (fxExp (x - k * fxLn2).toNat, k - fxBits)

/-- |x| is at least 256. -/
def huge (m : Nat) (e : Int) : Bool := let (a, b) := dyad m e; decide (256 * b ≤ a)

/-- vx.exp (R211). -/
def fexp (a : Nat) : Nat :=
  match f32 a with
  | .nan => fNan
  | .inf neg => if neg then f0 else infBits 0 false
  | .fin neg m e =>
    if m = 0 then f1
    else if huge m e then (if neg then f0 else infBits 0 false)
    else
      let (v, q) := expNum neg m e
      -- a sticky bit keeps an inexact value off a tie
      toF32 (.fin false (2 * v + 1) (q - 1))

/-- ln of n / 2^fxBits within [1/2, 3/2], as an integer of the fixed point: 2 atanh ((x − 1) / (x + 1)). -/
def fxLog (n : Nat) : Int :=
  let one : Int := (2 ^ fxBits : Nat)
  let z : Int := ((n : Int) - one) * one / ((n : Int) + one)
  let z2 := z * z / one
  2 * ((List.range 90).foldl (fun (s : Int × Int) (i : Nat) => (s.1 + s.2 / (2 * (i : Int) + 1), s.2 * z2 / one)) (0, z)).1

/-- vx.log (R211). -/
def flog (a : Nat) : Nat :=
  match f32 a with
  | .nan => fNan
  | .inf neg => if neg then fNan else a
  | .fin neg m e =>
    if m = 0 then fNegInf
    else if neg then fNan
    else if a = f1 then f0
    else
      let k := Nat.log2 m
      -- x = c × 2^(e + j) with c in [3/4, 3/2)
      let j : Nat := if 3 * 2 ^ k ≤ 2 * m then k + 1 else k
      let v : Int := fxLog (m * 2 ^ fxBits / 2 ^ j) + (e + j) * fxLn2
      toF32 (.fin (decide (v < 0)) (2 * v.natAbs + 1) (-(fxBits : Int) - 1))

/-- The quotient of two naturals to nearest FP32, with a sign. -/
def quoF32 (neg : Bool) (n d : Nat) : Nat := (convert 0 .rne 0 (.fin neg n 0) d).1

/-- e^(−|x|) as a quotient, for |x| below 256. -/
def expNeg (m : Nat) (e : Int) : Nat × Nat :=
  let (v, q) := expNum true m e
  dyad v q

/-- vx.tanh (R211). Below 2^−13 the value itself is nearest. -/
def ftanh (a : Nat) : Nat :=
  match f32 a with
  | .nan => fNan
  | .inf neg => if neg then 0xBF800000 else f1
  | .fin neg m e =>
    let (x, y) := dyad m (e + 13)
    if x < y then a
    else if huge m e then (if neg then 0xBF800000 else f1)
    else
      let (t, u) := expNeg m (e + 1)
      if huge m (e + 1) then (if neg then 0xBF800000 else f1) else quoF32 neg (u - t) (u + t)

/-- vx.sigm (R211). -/
def fsigm (a : Nat) : Nat :=
  match f32 a with
  | .nan => fNan
  | .inf neg => if neg then f0 else f1
  | .fin neg m e =>
    if huge m e then (if neg then f0 else f1)
    else
      let (t, u) := expNeg m e
      if neg then quoF32 false t (u + t) else quoF32 false u (u + t)

/-- Constants of R212: √(2/π), 0.044715, 0.5 and 3.0. -/
def gc1 : Nat := 0x3F4C422A
def gc2 : Nat := 0x3D372713
def fHalf : Nat := 0x3F000000
def fThree : Nat := 0x40400000

/-- silu (R212). -/
def fsilu (x : Nat) : Nat := fmul x (fsigm x)
/-- dsilu (R212). -/
def fdsilu (x : Nat) : Nat :=
  let s := fsigm x
  fmul s (fadd f1 (fmul x (fsub f1 s)))
/-- tanh of the inner polynomial of gelu: t6 of R212. -/
def geluT6 (x : Nat) : Nat :=
  let t2 := fmul (fmul x x) x
  ftanh (fmul gc1 (fadd x (fmul gc2 t2)))
/-- gelu (R212). -/
def fgelu (x : Nat) : Nat := fmul fHalf (fmul x (fadd f1 (geluT6 x)))
/-- dgelu (R212). -/
def fdgelu (x : Nat) : Nat :=
  let t1 := fmul x x
  let t6 := geluT6 x
  let q2 := fsub f1 (fmul t6 t6)
  let q6 := fmul gc1 (fadd f1 (fmul (fmul fThree gc2) t1))
  fadd (fmul fHalf (fadd f1 t6)) (fmul fHalf (fmul (fmul x q2) q6))

end Sys2Proof.Machine
end

