-- ==== Sys2Proof/Machine/Descr.lean ====
section
/-! DEFINITION. Descriptors (R110 to R113): their fields, where elements, scales and masks lie (R111, R128, R144), the
checks of R113, and elements read and written as bits. -/

namespace Sys2Proof.Machine

/-- A descriptor from its 64 bytes (R110). -/
def parseDesc (slot : Nat) (bs : List Byte) : Desc :=
  let w := fieldAt bs
  { slot := slot
    base := w 0 6, baseHi := w 6 2
    ext0 := w 8 4, ext1 := w 12 4, ext2 := w 16 4, ext3 := w 20 4
    str1 := signedOf 48 (w 24 6), str2 := signedOf 48 (w 30 6), str3 := signedOf 48 (w 36 6)
    tm := w 42 2, tn := w 44 2
    fmt := w 46 1 % 16, smode := w 46 1 / 16, mmode := w 47 1, bight := w 48 1
    space := w 49 1 % 2 == 1, transpose := w 49 1 / 2 % 2 == 1, flagsHi := w 49 1 / 4
    mparam := signedOf 16 (w 50 2), sptr := w 52 6, mptr := w 58 6 }

/-- Window offset of descriptor slot d (R95). -/
def descOff (d : Nat) : Nat := 0x19B0000 + d * 64

/-- Bytes of `k` elements of `w` bits from the start of a row (R111). -/
def rowBytes (w k : Nat) : Nat := ceilDiv (k * w) 8
/-- Width of a descriptor's elements. -/
def Desc.w (d : Desc) : Nat := fmtWidth d.fmt
/-- Bytes of a row of dimension 0 (R111). -/
def Desc.rowLen (d : Desc) : Nat := rowBytes d.w d.ext0
/-- Address of the first byte that holds element (i0, i1, i2, i3) (R111). -/
def Desc.addr (d : Desc) (i0 i1 i2 i3 : Nat) : Int :=
  (d.base : Int) + (i0 * d.w / 8 : Nat) + i1 * d.str1 + i2 * d.str2 + i3 * d.str3
/-- Lowest byte of the elements, and one past the highest. -/
def Desc.span (d : Desc) : Int × Int :=
  let ends (e : Nat) (s : Int) : Int × Int := let v := ((e : Int) - 1) * s; (min 0 v, max 0 v)
  let (a1, b1) := ends d.ext1 d.str1
  let (a2, b2) := ends d.ext2 d.str2
  let (a3, b3) := ends d.ext3 d.str3
  (d.base + a1 + a2 + a3, d.base + d.rowLen + b1 + b2 + b3)
/-- The scales' bytes: offset and length; none without scales (R112, R128). -/
def Desc.scaleSpan (d : Desc) : Option (Nat × Nat) :=
  match d.smode with
  | 1 => some (d.sptr, 4)
  | 2 => some (d.sptr, 4 * d.ext1 * d.ext3)
  | 3 => some (d.sptr, 4 * d.ext0 * d.ext2 * d.ext3)
  | 4 => some (d.sptr, d.ext0 / 32 * d.ext1 * d.ext2 * d.ext3)
  | _ => none
/-- Logical tiles down and across (R144). -/
def Desc.tilesM (d : Desc) : Nat := ceilDiv d.ext1 d.tm
def Desc.tilesN (d : Desc) : Nat := ceilDiv (d.ext0 * d.ext2) d.tn
/-- The mask bitmap's bytes (R144). -/
def Desc.maskSpan (d : Desc) : Option (Nat × Nat) :=
  match d.mmode with
  | 1 => some (d.mptr, ceilDiv (d.ext1 * d.ext3) 8)
  | 2 => some (d.mptr, ceilDiv (d.tilesM * d.tilesN * d.ext3) 8)
  | _ => none

/-- The byte range lies wholly in the scratchpad. -/
def inSp (lo hi : Int) : Bool := decide (0 ≤ lo) && decide (hi ≤ 0x1800000)
/-- It lies wholly in the accumulator range. -/
def inAcc (lo hi : Int) : Bool := decide (0x1800000 ≤ lo) && decide (hi ≤ 0x1900000)
/-- The elements lie in the scratchpad, or in the accumulator. -/
def Desc.inScratch (d : Desc) : Bool := d.bight != 0 || inSp d.span.1 d.span.2
def Desc.inAccum (d : Desc) : Bool := d.bight == 0 && inAcc d.span.1 d.span.2
/-- A span of scales or of a mask lies in scratchpad and accumulator bytes. -/
def spanOk : Option (Nat × Nat) → Bool
  | some (o, n) => decide (o + n ≤ 0x1900000)
  | none => true

/-- The handle is configured for frond f (R246). -/
def Tile.bightOk (t : Tile) (f h : Nat) : Bool := 1 ≤ h && h ≤ 15 && (t.bight f h).valid

/-- Checks of R113 that a descriptor fails, in their order: whether it fails, and the check. `device` tells that the
engine accepts device addresses, `elems` that its elements are accessed (R136). -/
def Desc.checks (d : Desc) (t : Tile) (f : Nat) (device elems : Bool) : List (Bool × Nat) :=
  [ (14 ≤ d.fmt || 5 ≤ d.smode, 0x01),
    (d.ext0 == 0 || d.ext1 == 0 || d.ext2 == 0 || d.ext3 == 0 || d.tm == 0 || d.tn == 0, 0x02),
    (d.smode == 4 && (d.ext0 % 32 != 0 || !(3 ≤ d.fmt && d.fmt ≤ 8)), 0x03),
    (4 ≤ d.mmode || d.flagsHi != 0 || d.baseHi != 0, 0x04),
    (d.str1 != 0 && decide (d.str1.natAbs < d.rowLen), 0x05),
    (!d.space && ((elems && d.bight == 0 && !inSp d.span.1 d.span.2 && !inAcc d.span.1 d.span.2) ||
      !spanOk d.scaleSpan || !spanOk d.maskSpan), 0x06),
    (d.space && !device, 0x07),
    (d.bight != 0 && !t.bightOk f d.bight, 0x08) ]

/-! ## Elements -/

/-- Where a stream or plain address of an operand lies in the tile window: through the ring of bight `h` from slot
`pos`, or as it stands (R248). -/
def ringOff (t : Tile) (f h pos : Nat) (a : Int) : Nat :=
  if h = 0 then a.toNat
  else
    let b := t.bight f h
    (b.base + (pos + a.toNat / 256) % b.lines) * 256 + a.toNat % 256

/-- The bytes that hold an element: how many, and the bit at which it begins. -/
def elemBytes (w i0 : Nat) : Nat × Nat :=
  let sh := i0 * w % 8
  ((sh + w + 7) / 8, sh)

/-- The bits of an element; `loc` says where a byte of its operand lies. -/
def Tile.elem (t : Tile) (loc : Int → Nat) (d : Desc) (i0 i1 i2 i3 : Nat) : Nat :=
  let (k, sh) := elemBytes d.w i0
  let a := d.addr i0 i1 i2 i3
  leNat ((List.range k).flatMap fun (j : Nat) => t.winRead (loc (a + j)) 1) / 2 ^ sh % 2 ^ d.w

/-- Writes the bits of an element. -/
def Tile.putElem (t : Tile) (loc : Int → Nat) (d : Desc) (i0 i1 i2 i3 v : Nat) : Tile :=
  let (k, sh) := elemBytes d.w i0
  let a := d.addr i0 i1 i2 i3
  let old := leNat ((List.range k).flatMap fun (j : Nat) => t.winRead (loc (a + j)) 1)
  let new := setBits old (sh + d.w - 1) sh v
  (List.range k).foldl (fun t (j : Nat) => t.winWrite (loc (a + j)) [BitVec.ofNat 8 (new / 256 ^ j)]) t

/-- A 32-bit word of the window. -/
def Tile.word32 (t : Tile) (off : Nat) : Nat := leNat (t.winRead off 4)
/-- Writes a 32-bit word of the window. -/
def Tile.putWord32 (t : Tile) (off v : Nat) : Tile := t.winWrite off (leBytes 4 v)

/-- Offset of the MX scale of an element (R128). -/
def Desc.mxOff (d : Desc) (i0 i1 i2 i3 : Nat) : Nat := d.sptr + ((i3 * d.ext2 + i2) * d.ext1 + i1) * d.ext0 / 32 + i0 / 32
/-- The FP32 scale of an element, 1.0 where it has none (R112, R128). -/
def Tile.scaleOf (t : Tile) (d : Desc) (i0 i1 i2 i3 : Nat) : Num :=
  match d.smode with
  | 1 => f32 (t.word32 d.sptr)
  | 2 => f32 (t.word32 (d.sptr + 4 * (i3 * d.ext1 + i1)))
  | 3 => f32 (t.word32 (d.sptr + 4 * (i3 * d.ext0 * d.ext2 + i2 * d.ext0 + i0)))
  | _ => .fin false 1 0
/-- An element's bits with its MX scale byte, as one number: bits × 512, and 1 + the byte. -/
def Tile.packed (t : Tile) (loc : Int → Nat) (d : Desc) (i0 i1 i2 i3 : Nat) : Nat :=
  t.elem loc d i0 i1 i2 i3 * 512 +
    (if d.smode = 4 then 1 + leNat (t.winRead (d.mxOff i0 i1 i2 i3) 1) else 0)
/-- The value of a packed element (R156, R158). -/
def packedNum (fmt v : Nat) : Num :=
  let s := v % 512
  let x := decode fmt (v / 512)
  if s = 0 then x
  else if s = 256 then .nan
  else match x with
    | .fin neg m e => .fin neg m (e + s - 128 + mxUnit fmt)
    | y => y
/-- The value of an element with all its scales. -/
def Tile.value (t : Tile) (loc : Int → Nat) (d : Desc) (i0 i1 i2 i3 : Nat) : Num :=
  (packedNum d.fmt (t.packed loc d i0 i1 i2 i3)).mul (t.scaleOf d i0 i1 i2 i3)

/-- A bit of a bitmap (R144). -/
def Tile.maskBit (t : Tile) (p k : Nat) : Bool := bit (leNat (t.winRead (p + k / 8) 1)) (k % 8) == 1

/-! ## Checks -/

/-- The first check that fails, as a TVAL for a slot. -/
def firstFail (slot : Nat) (l : List (Bool × Nat)) : Option Nat := (l.find? fun c => c.1).map fun c => slot * 256 + c.2
/-- The first of several answers. -/
def firstSome : List (Option Nat) → Option Nat
  | [] => none
  | some v :: _ => some v
  | none :: r => firstSome r

/-- Two byte ranges meet. -/
def meets (a b : Int × Int) : Bool := decide (a.1 < b.2) && decide (b.1 < a.2)

/-- A range of scratchpad that a macro-instruction writes must not meet a line of a bight of its frond (R254) nor of a
queue's extension (R283). -/
def Tile.writeFail (t : Tile) (f slot : Nat) (r : Int × Int) : Option Nat :=
  let r : Int × Int := (max r.1 0, min r.2 0x1800000)
  if decide (r.2 ≤ r.1) then none
  else
    let bad (base lines : Nat) : Bool := meets r (base * 256, (base + lines) * 256)
    if (List.range 16).any fun h => t.bightOk f h && bad (t.bight f h).base (t.bight f h).lines then some (slot * 256 + 0x26)
    else if (List.range 64).any fun q => 0 < (t.queue q).extLen && bad (t.queue q).extBase ((t.queue q).extLen / 4) then
      some (slot * 256 + 0x2B)
    else none
/-- A span as a byte range. -/
def spanRange : Option (Nat × Nat) → Int × Int
  | some (o, n) => (o, o + n)
  | none => (0, 0)
/-- The same for what is written through a descriptor: its elements where BIGHT is 0, and its MX scales. -/
def Tile.descWriteFail (t : Tile) (f : Nat) (d : Desc) : Option Nat :=
  if d.space then none
  else firstSome [if d.bight = 0 then t.writeFail f d.slot d.span else none, if d.smode = 4 then t.writeFail f d.slot (spanRange d.scaleSpan) else none]

end Sys2Proof.Machine
end

