-- ==== Sys2Proof/Machine/MacroCheck.lean ====
section
/-! DEFINITION. What macro-instructions mean to their checks: matrices and their shapes (R124, R127), function records
(R184), chain words (R207), and the checks of R136, R148, R157, R196, R219, R226, R257 and R383. -/

namespace Sys2Proof.Machine

/-! ## Matrices -/

/-- Group factor of a stationary and a streamed format (R124). -/
def groupOf (stat strm : Nat) : Nat :=
  let wide := fmtWidth strm == 16
  let g := match fmtWidth stat with
    | 16 => 1
    | 8 => 2
    | 6 => 2
    | 4 => 4
    | 2 => 8
    | _ => 16
  if wide && 1 < g then g / 2 else g

/-- Index of TILE_MX_MACS of a stationary format (R151). -/
def macsClass (stat : Nat) : Nat :=
  match fmtWidth stat with
  | 16 => 0
  | 8 => 1
  | 6 => 1
  | 4 => 2
  | 2 => 3
  | _ => 4

/-- Columns that dimensions 0 and 2 give together, and rows of dimension 1 (R127). -/
def Desc.across (d : Desc) : Nat := d.ext0 * d.ext2
/-- Rows and columns of the matrix a descriptor names, `tr` where it is read transposed (R127, R145, R197). -/
def Desc.mrows (d : Desc) (tr : Bool) : Nat := if tr then d.across else d.ext1
def Desc.mcols (d : Desc) (tr : Bool) : Nat := if tr then d.ext1 else d.across

/-- A segment of `len` consecutive elements along dimensions 0 and 2, from index c, leaves its line (R129). An operand in the accumulator
lies in no scratchpad line, and the checks of 0x11 refuse it with those that cross one (DEDUCED, log 32). -/
def Desc.crosses (d : Desc) (i1 i3 c len : Nat) : Bool :=
  let line (k : Nat) : Int := d.addr (k % d.ext0) i1 (k / d.ext0) i3 / 256
  let last (k : Nat) : Int := (d.addr (k % d.ext0) i1 (k / d.ext0) i3 + (elemBytes d.w (k % d.ext0)).1 - 1) / 256
  (List.range (min len (d.across - c))).any fun j => line (c + j) != line c || last (c + j) != line c
/-- Some segment of `len` elements leaves its line, where the blocks of `len` columns are counted from the first column of each tile
of `tn` columns (R129, R138). -/
def Desc.crossing (d : Desc) (tn len : Nat) : Bool :=
  (List.range d.ext3).any fun i3 => (List.range d.ext1).any fun i1 =>
    (List.range (ceilDiv d.across tn)).any fun k => (List.range (ceilDiv (min tn (d.across - k * tn)) len)).any fun c =>
      d.crosses i1 i3 (k * tn + c * len) (min len (tn - c * len))
/-- The same for streamed segments and whole matrices, whose blocks are counted from column 0. -/
def Desc.crossingAll (d : Desc) (len : Nat) : Bool := d.crossing d.across len
/-- A stationary row leaves its line, with the blocks counted from column 0 (R129) or as the walk loads them (R138; log 31). -/
def Desc.crossingStat (d : Desc) (tn len : Nat) : Bool := d.crossingAll len || d.crossing tn len

/-- Row bytes of a region of the accumulator with `n` columns a tile at group factor g (R139). -/
def regionW (n g : Nat) : Nat := ceilDiv n (128 * g) * 512 * g
/-- Bytes of the accumulator. -/
def accBytes : Nat := 0x100000

/-- Matrices DA and DB as mm.mm and mm.wg take them: DA is transposed in mm.wg, DB where it says so. -/
def Macro.aTr (m : Macro) : Bool := m.kind == .mmWg
/-- OUT, AREG, PING and ROUTE of mm.mm and mm.wg (R134). -/
def Macro.out (m : Macro) : Nat :=
  match m.kind with
  | .mmF2 => bits m.spec 11 10
  | .mmAtt => bits m.spec 11 10
  | _ => bits m.spec 27 26
def Macro.areg (m : Macro) : Nat :=
  match m.kind with
  | .mmF2 => bits m.spec 9 6
  | .mmAtt => bits m.spec 9 6
  | _ => bits m.spec 25 22
/-- Group rows and columns (R134). -/
def Macro.gm (m : Macro) : Nat := 2 ^ bits m.spec 13 11
def Macro.gn (m : Macro) : Nat := 2 ^ bits m.spec 10 8

/-- The function record of mm.f2 and mm.att (R184). -/
structure FRec where
  kind : Nat
  gamma : Bool
  beta : Bool
  side : Bool
  save : Bool
  what : Bool
  srec : Bool
  ping : Bool
  cont : Bool
  mask : Nat
  qgroup : Nat
  pre : Nat
  eps : Nat
  mparam : Int
  gammaPtr : Nat
  betaPtr : Nat
  sidePtr : Nat
  sideStr : Nat
  sideFmt : Nat
  saveFmt : Nat
  savePtr : Nat
  saveStr : Nat
  statsPtr : Nat
  srecPtr : Nat
  route : Nat
  last : Nat

/-- The record of a macro-instruction. -/
def Macro.frec (m : Macro) : FRec :=
  let w := fieldAt m.record
  let fl := w 1 1
  { kind := w 0 1, gamma := bit fl 0 == 1, beta := bit fl 1 == 1, side := bit fl 2 == 1, save := bit fl 3 == 1
    what := bit fl 4 == 1, srec := bit fl 5 == 1, ping := bit fl 6 == 1, cont := bit fl 7 == 1
    mask := w 2 1, qgroup := w 3 1, pre := w 4 4, eps := w 8 4, mparam := signedOf 32 (w 12 4)
    gammaPtr := w 16 6, betaPtr := w 22 6, sidePtr := w 28 6, sideStr := w 34 4, sideFmt := w 38 1
    saveFmt := w 39 1, savePtr := w 40 6, saveStr := w 46 4, statsPtr := w 50 6, srecPtr := w 56 6
    route := w 62 1, last := w 63 1 }

/-- The route of a macro-instruction that sends contributions (R134, R148, R184). -/
def Macro.routeEntry (m : Macro) : Nat := if m.kind = .mmF2 then m.frec.route % 128 else bits m.spec 20 14

/-- HB, RF, HFMT and FS of mm.f2 and mm.att (R185). -/
def Macro.hb (m : Macro) : Nat := bits m.spec 27 20
def Macro.rf (m : Macro) : Nat := bits m.spec 19 16
def Macro.hfmt (m : Macro) : Nat := bits m.spec 15 12
def Macro.fs (m : Macro) : Nat := bits m.spec 5 0

/-- Classes of row functions (R186). -/
def rfGated (rf : Nat) : Bool := rf == 4 || rf == 5
def rfGatedBwd (rf : Nat) : Bool := rf == 8 || rf == 9
def rfWhole (rf : Nat) : Bool := rf == 6 || rf == 7 || rf == 0xA
def rfNorm (rf : Nat) : Bool := rf == 6 || rf == 7
def rfBwd (rf : Nat) : Bool := 8 ≤ rf
/-- H columns of an A tile of c columns (R186). -/
def hCols (rf c : Nat) : Nat := if rfGated rf then c / 2 else if rfGatedBwd rf then 2 * c else c

/-- Columns of A: of DA × DB. -/
def Macro.aCols (m : Macro) : Nat := m.db.mcols m.db.transpose
/-- A tiles, and the width of A tile k (R186). -/
def Macro.aTiles (m : Macro) : Nat := ceilDiv m.aCols m.db.tn
def Macro.aWidth (m : Macro) (k : Nat) : Nat := min m.db.tn (m.aCols - k * m.db.tn)
/-- Columns of H in all. -/
def Macro.hTotal (m : Macro) : Nat := ((List.range m.aTiles).map fun k => hCols m.rf (m.aWidth k)).sum
/-- Lines of `k` columns of a format in chunk-major order over `rows` rows (R188). -/
def hLines (fmt rows k : Nat) : Nat :=
  ((List.range (ceilDiv k 128)).map fun q => ceilDiv (rows * rowBytes (fmtWidth fmt) (min 128 (k - 128 * q))) 256).sum

/-- Group factors of the two products. -/
def Macro.g1 (m : Macro) : Nat := groupOf m.db.fmt m.da.fmt
def Macro.g2 (m : Macro) : Nat := groupOf m.dc.fmt m.hfmt

/-- Row bytes of the working regions of mm.f2 and mm.att (R189, R194): Y or O, and staging. -/
def Macro.wY (m : Macro) : Nat := if m.kind = .mmAtt then regionW m.dc.across m.g2 else regionW m.dd.tn m.g2
def Macro.wS (m : Macro) : Nat :=
  if m.kind = .mmAtt then regionW m.db.tm m.g1 else regionW (min m.db.tn m.aCols) m.g1
/-- Y or O lies in the working region, not at DD (R189, R194). -/
def Macro.yHere (m : Macro) : Bool := 2 ≤ m.out
/-- Rows of a working region. -/
def Macro.tmRows (m : Macro) : Nat := if m.kind = .mmAtt then m.da.tm else m.dd.tm
/-- Accumulator offset of Y or O region k, and of staging region k. -/
def Macro.yBase (m : Macro) (k : Nat) : Nat := m.areg * 0x10000 + k * m.tmRows * m.wY
def Macro.sBase (m : Macro) (k : Nat) : Nat :=
  let ys := if m.yHere then (if m.kind = .mmF2 && m.frec.ping then 2 else 1) else 0
  m.areg * 0x10000 + ys * m.tmRows * m.wY + k * m.tmRows * m.wS
/-- Staging regions in use. -/
def Macro.sCount (m : Macro) : Nat := if m.kind = .mmAtt then 2 else if 1 < m.aTiles then 2 else 1

/-! ## Checks of the matrix engine -/

/-- Route ROUTE names a splice route of the active frond (check 0x16). -/
def Tile.spliceRoute (t : Tile) (f r : Nat) : Bool := (t.route f r).type == 2

/-- Batches break R127. -/
def batchBad (b : Desc) (e : Nat) : Bool := b.ext3 != 1 && b.ext3 != e

/-- An accumulator result breaks the accumulator rules of check 0x14. -/
def Desc.accBad (d : Desc) : Bool := !d.inAccum || d.base % 512 != 0 || d.str1 % 512 != 0 || d.ext2 != 1

/-- A scale changes along K (check 0x18): per-column along dimensions 0 and 2, per-row along dimension 1. -/
def Desc.kScale (d : Desc) (kAcross : Bool) : Bool :=
  let k := if kAcross then d.across else d.ext1
  1 < k && d.smode == (if kAcross then 3 else 2)

/-- Checks of mm.mm and mm.wg (R113, R136, R157, R196). -/
def checkMm (t : Tile) (f : Nat) (m : Macro) : Option Nat :=
  let a := m.da
  let b := m.db
  let c := m.dc
  let out := m.out
  let spl := out == 3
  let g := groupOf b.fmt a.fmt
  let w := regionW c.tn g
  let ping := bit m.spec 21 == 1
  firstSome [
    firstFail a.slot (a.checks t f false true),
    firstFail b.slot (b.checks t f false true),
    firstFail c.slot (c.checks t f false (!spl)),
    firstFail a.slot [(a.fmt == 0, 0x10)],
    firstFail b.slot [(b.fmt == 0, 0x10)],
    firstFail c.slot [(2 < c.fmt || c.smode != 0 || (out != 2 && c.fmt != 0), 0x10)],
    firstFail a.slot [(!a.inScratch || a.crossingAll (if m.aTr then 128 * (16 / a.w) else 128), 0x11)],
    firstFail b.slot [(!b.inScratch || if b.transpose then b.crossingAll 128 else b.crossingStat c.tn (128 * g), 0x11)],
    firstFail c.slot [(a.mcols m.aTr != b.mrows b.transpose || a.mrows m.aTr != c.ext1 ||
      b.mcols b.transpose != c.across || a.ext3 != c.ext3 || batchBad b c.ext3, 0x12)],
    firstFail a.slot [(a.transpose != m.aTr || a.mmode != 0 || a.bight != 0, 0x13)],
    firstFail b.slot [(b.mmode != 0 || b.bight != 0, 0x13)],
    firstFail c.slot [(c.transpose || c.bight != 0, 0x13),
      ((out < 2 && c.accBad) || (out == 2 && !c.inScratch) ||
        (2 ≤ out && decide (accBytes < m.areg * 0x10000 + c.tm * w * (if ping then 2 else 1))), 0x14),
      (4 < bits m.spec 13 11 || 4 < bits m.spec 10 8 || m.gm ≤ bits m.spec 7 4 || m.gn ≤ bits m.spec 3 0, 0x15),
      (spl && !t.spliceRoute f (bits m.spec 20 14), 0x16),
      (ping && out == 2 && (meets c.span a.span || meets c.span b.span), 0x17)],
    firstFail a.slot [(a.kScale (!m.aTr), 0x18)],
    firstFail b.slot [(b.kScale b.transpose, 0x18)],
    firstFail b.slot [(m.kind == .mmWg && b.fmt != 1 && b.fmt != 2, 0x1F)],
    if out = 2 then t.descWriteFail f c else none ]

/-- Checks of mm.zero, mm.out and mm.spl (R148). -/
def checkAcc (t : Tile) (f : Nat) (m : Macro) : Option Nat :=
  let a := m.da
  let c := m.dc
  let isOut := m.kind == .mmOut
  let cOnly (o : Option Nat) : Option Nat := if isOut then o else none
  firstSome [
    firstFail a.slot (a.checks t f false true),
    cOnly (firstFail c.slot (c.checks t f false true)),
    firstFail a.slot [(a.fmt != 0, 0x10)],
    cOnly (firstFail c.slot [(2 < c.fmt, 0x10), (a.ext1 != c.ext1 || a.across != c.across || a.ext3 != c.ext3, 0x12)]),
    firstFail a.slot [(a.mmode != 0 || a.transpose || a.bight != 0, 0x13)],
    cOnly (firstFail c.slot [(c.transpose || c.bight != 0, 0x13)]),
    firstFail a.slot [(!a.inAccum || a.ext2 != 1, 0x14)],
    cOnly (firstFail c.slot [(!c.inScratch, 0x14)]),
    firstFail a.slot [(m.kind == .mmSpl && !t.spliceRoute f (bits m.spec 20 14), 0x16)],
    cOnly (t.descWriteFail f c) ]

/-- A range of `n` bytes at a pointer lies in the scratchpad. -/
def ptrOk (p n : Nat) : Bool := decide (p + n ≤ 0x1800000)
/-- Bytes from row 0 of a region of `rows` rows at a stride to the end of its last row. -/
def rowsSpan (rows str len : Nat) : Nat := (rows - 1) * str + len
/-- Ranges that mm.f2's and mm.att's record reads: γ, β, side; and those it writes: save, STATS. -/
def Macro.recReads (m : Macro) : List (Nat × Nat) :=
  let r := m.frec
  let rows := m.da.ext1 * m.da.ext3
  let cols := if rfGatedBwd m.rf then 2 * m.aCols else m.aCols
  (if r.gamma then [(r.gammaPtr, 4 * m.aCols)] else []) ++ (if r.beta then [(r.betaPtr, 4 * m.aCols)] else []) ++
  (if r.side then [(r.sidePtr, rowsSpan rows r.sideStr (rowBytes (fmtWidth r.sideFmt) cols))] else [])
def Macro.saveRange (m : Macro) : List (Nat × Nat) :=
  let r := m.frec
  let cols := if r.what then m.hTotal else m.aCols
  if r.save then [(r.savePtr, rowsSpan (m.da.ext1 * m.da.ext3) r.saveStr (rowBytes (fmtWidth r.saveFmt) cols))] else []
def Macro.statsRange (m : Macro) : List (Nat × Nat) := [(m.frec.statsPtr, 8 * m.da.ext1 * m.da.ext3)]
/-- STATS are written, or read (R186, R194). -/
def Macro.statsOut (m : Macro) : Bool := m.kind == .mmAtt || rfNorm m.rf
def Macro.statsIn (m : Macro) : Bool := m.kind == .mmF2 && (m.rf == 0xA || m.rf == 0xB)

/-- A flag or field of the record that the function does not use is non-zero, or a required one is missing
(check 0x19). -/
def Macro.recBad (m : Macro) : Bool :=
  let r := m.frec
  let att := m.kind == .mmAtt
  let side := !att && (rfNorm m.rf || rfBwd m.rf)
  let gam := !att && rfWhole m.rf
  let bet := !att && m.rf == 7
  r.kind != (if att then 2 else 1) || (r.gamma && !gam) || (r.beta && !bet) || (r.side && !side) ||
  (!att && rfBwd m.rf && !r.side) || (att && (r.save || r.what || r.srec)) || (!att && r.cont) ||
  (if att then r.mask != 0 && r.mask != 3 else r.mask != 0) || (if att then r.qgroup == 0 else r.qgroup != 0) ||
  (r.eps != 0 && (att || !rfNorm m.rf)) || (r.mparam != 0 && r.mask != 3) || (!r.gamma && r.gammaPtr != 0) ||
  (!r.beta && r.betaPtr != 0) || (!r.side && (r.sidePtr != 0 || r.sideStr != 0 || r.sideFmt != 0)) || 2 < r.sideFmt ||
  2 < r.saveFmt || (!r.save && (r.savePtr != 0 || r.saveStr != 0 || r.saveFmt != 0)) ||
  (!m.statsOut && !m.statsIn && r.statsPtr != 0) || (!r.srec && r.srecPtr != 0) ||
  (r.route != 0 && (att || m.out != 3)) || 127 < r.route || r.last != 0 ||
  [m.da.slot, m.db.slot, m.dc.slot, m.dd.slot].contains m.fs

/-- Checks of mm.f2 and mm.att (R113, R157, R196). -/
def checkFused (t : Tile) (f : Nat) (m : Macro) : Option Nat :=
  let a := m.da
  let b := m.db
  let c := m.dc
  let y := m.dd
  let r := m.frec
  let att := m.kind == .mmAtt
  let out := m.out
  let spl := !att && out == 3
  let st := out == 2
  let bTr := b.transpose
  let cTr := c.transpose
  let yEnd := if m.yHere then m.yBase (if !att && r.ping then 2 else 1) else m.areg * 0x10000
  let sEnd := m.sBase 0 + m.sCount * m.tmRows * m.wS
  let need := if att then 2 * hLines m.hfmt a.tm b.tm else hLines m.hfmt y.tm m.hTotal
  let hb := t.bight f m.hb
  let spanOf (x : Desc) : List (Int × Int) := if x.bight = 0 then [x.span] else []
  let writes := (if st then spanOf y else []) ++
    (m.saveRange ++ (if m.statsOut then m.statsRange else [])).map fun x => ((x.1 : Int), ((x.1 + x.2 : Nat) : Int))
  let reads := spanOf a ++ spanOf b ++ spanOf c ++ m.recReads.map fun x => ((x.1 : Int), ((x.1 + x.2 : Nat) : Int))
  let recRanges := m.recReads ++ m.saveRange ++ (if m.statsOut || m.statsIn then m.statsRange else []) ++
    (if r.srec then [(r.srecPtr, 64)] else [])
  firstSome [
    firstFail a.slot (a.checks t f false true),
    firstFail b.slot (b.checks t f false true),
    firstFail c.slot (c.checks t f false true),
    firstFail y.slot (y.checks t f false (!spl)),
    firstFail a.slot [(a.fmt == 0, 0x10)],
    firstFail b.slot [(b.fmt == 0, 0x10)],
    firstFail c.slot [(c.fmt == 0, 0x10)],
    firstFail y.slot [(2 < y.fmt || y.smode != 0 || (!st && y.fmt != 0), 0x10)],
    firstFail a.slot [(!a.inScratch || a.crossingAll 128, 0x11)],
    firstFail b.slot [(!b.inScratch || if bTr then b.crossingAll 128 else b.crossingStat b.tn (128 * m.g1), 0x11)],
    firstFail c.slot [(!c.inScratch || if cTr then c.crossingAll 128 else c.crossingStat (if att then c.across else y.tn) (128 * m.g2), 0x11)],
    firstFail y.slot [((out < 2 && y.accBad) || (st && !y.inScratch), 0x14), (spl && !t.spliceRoute f r.route, 0x16)],
    firstFail a.slot [(a.kScale true, 0x18)],
    firstFail b.slot [(b.kScale bTr, 0x18)],
    firstFail c.slot [(c.kScale cTr, 0x18)],
    firstFail m.fs [(m.recBad, 0x19)],
    firstFail y.slot [
      ((if att then a.across != b.across || b.ext1 != c.ext1 || c.across != a.across || y.ext1 != a.ext1 || y.across != a.across
        else a.across != b.mrows bTr || c.mrows cTr != m.hTotal || y.ext1 != a.ext1 || y.across != c.mcols cTr) ||
        a.ext3 != y.ext3 || batchBad b y.ext3 || batchBad c y.ext3, 0x1A),
      ((if att then b.tm != c.tm || 2048 < a.tm || (r.cont && st)
        else (rfWhole m.rf && b.tn < m.aCols) || (rfGated m.rf && b.tn % 2 != 0) ||
          (1 < m.aTiles && hCols m.rf b.tn % 128 != 0)), 0x1B),
      (decide (accBytes < yEnd) || decide (accBytes < sEnd) ||
        (out < 2 && meets y.span (0x1800000 + m.areg * 0x10000, 0x1800000 + sEnd)), 0x1C),
      (!t.bightOk f m.hb || decide (hb.lines < need), 0x1D)],
    firstFail m.fs [(recRanges.any (fun x => !ptrOk x.1 x.2) || (r.srec && r.srecPtr % 64 != 0) ||
      writes.any (fun x => reads.any fun z => meets x z), 0x1E)],
    firstFail a.slot [(a.transpose || a.mmode != 0 || (!att && rfBwd m.rf && a.fmt != 1 && a.fmt != 2), 0x1F)],
    firstFail b.slot [((att && !bTr) || b.mmode != 0, 0x1F)],
    firstFail c.slot [((att && cTr) || c.mmode != 0, 0x1F)],
    firstFail y.slot [(y.transpose || y.mmode != 0 || (!att && rfBwd m.rf && m.hfmt != 1 && m.hfmt != 2), 0x1F)],
    if st then t.descWriteFail f y else none,
    firstSome ((m.saveRange ++ (if m.statsOut then m.statsRange else [])).map fun x => t.writeFail f m.fs (spanRange (some x))),
    if r.srec then t.writeFail f m.fs (r.srecPtr, r.srecPtr + 64) else none ]

/-! ## Chain words of vx.run -/

/-- A chain word (R207). -/
structure CWord where
  dst : Nat
  sa : Nat
  sb : Nat
  sc : Nat
  fn : Nat
  imm : Nat

/-- Its fields. -/
def cword (w : Word) : CWord :=
  let v := w.toNat
  ⟨bits v 53 50, bits v 49 46, bits v 45 42, bits v 41 38, bits v 37 32, v % 2 ^ 32⟩

/-- How many sources an operation uses (R210); none for a reserved one. -/
def fnArity (fn : Nat) : Option Nat :=
  if [0x00, 0x07, 0x08, 0x0C, 0x0E].contains fn then some 1
  else if 0x10 ≤ fn && fn ≤ 0x16 then some 1
  else if 0x19 ≤ fn && fn ≤ 0x1C then some 1
  else if 0x20 ≤ fn && fn ≤ 0x24 then some 1
  else if fn = 0x28 then some 1
  else if fn = 0x04 || fn = 0x09 || fn = 0x0D then some 3
  else if [0x01, 0x02, 0x03, 0x05, 0x06, 0x0A, 0x0B, 0x17].contains fn then some 2
  else none
/-- The operation is a row reduction. -/
def fnReduce (fn : Nat) : Bool := 0x20 ≤ fn && fn ≤ 0x24
/-- The operation uses the special-function unit. -/
def fnSpecial (fn : Nat) : Bool := (0x10 ≤ fn && fn ≤ 0x17) || (0x19 ≤ fn && fn ≤ 0x1C)
/-- Sources in use. -/
def CWord.srcs (c : CWord) : List Nat := [c.sa, c.sb, c.sc].take ((fnArity c.fn).getD 0)

/-- A chain word that raises ILLEGAL (R207): OP, bits [57:54], reserved codes, unused fields, the parameter of
vx.split, and an IMM that no source and no parameter uses. -/
def cwordBad (w : Word) : Bool :=
  let c := cword w
  match fnArity c.fn with
  | none => true
  | some k =>
    w.toNat / 2 ^ 58 != 0x29 || bits w.toNat 57 54 != 0 || 5 < c.dst || c.srcs.any (fun s => 9 < s) ||
    (k < 2 && c.sb != 0) || (k < 3 && c.sc != 0) ||
    (if c.fn = 0x28 then decide (2 < c.imm) else !c.srcs.contains 6 && c.imm != 0)

/-- The words of a macro-instruction's chain. -/
def Macro.words (m : Macro) : List CWord := m.chain.map cword
/-- The chain reads a source. -/
def readsSrc (ws : List CWord) (k : Nat) : Bool := ws.any fun w => w.srcs.contains k
/-- Every latch is written before it is read. -/
def latchesOk : List CWord → List Nat → Bool
  | [], _ => true
  | w :: r, have_ =>
    (w.srcs.all fun s => !(2 ≤ s && s ≤ 5) || have_.contains (s - 2)) &&
    latchesOk r (if w.dst < 4 then w.dst :: have_ else have_)

/-- Extents of the chain shape (R203). -/
def Macro.shape (m : Macro) : Desc := if readsSrc m.words 0 then m.da else m.dc
/-- The word that writes an output. -/
def outWord (ws : List CWord) (o : Nat) : Option CWord := ws.find? fun w => w.dst == o
/-- An output lies exactly in place of an input (R218). -/
def inPlace (o i : Desc) : Bool :=
  o.base == i.base && o.bight == i.bight && o.ext0 == i.ext0 && o.ext1 == i.ext1 && o.ext2 == i.ext2 && o.ext3 == i.ext3 &&
  o.str1 == i.str1 && o.str2 == i.str2 && o.str3 == i.str3 && o.w == i.w
/-- The byte ranges of an operand's rows (R111). -/
def Desc.rowRanges (d : Desc) : List (Int × Int) :=
  (List.range d.ext3).flatMap fun i3 => (List.range d.ext2).flatMap fun i2 => (List.range d.ext1).map fun i1 =>
    (d.addr 0 i1 i2 i3, d.addr 0 i1 i2 i3 + d.rowLen)
/-- Two operands share a byte. -/
def Desc.shares (d e : Desc) : Bool := meets d.span e.span && d.rowRanges.any fun x => e.rowRanges.any (meets x)
/-- An output shares bytes with an input without lying in its place (R218). Streams through bights share none. -/
def overlapBad (o i : Desc) : Bool := o.bight == 0 && i.bight == 0 && !inPlace o i && o.shares i
/-- The ranges of two operands, from their first byte to their last, meet without being the same place (check 0x29). -/
def rangeBad (o i : Desc) : Bool := o.bight == 0 && i.bight == 0 && !inPlace o i && meets o.span i.span

/-- Check 0x21 for an input and for an output. -/
def inShapeBad (s d : Desc) : Bool :=
  let ok (x y : Nat) : Bool := x == y || x == 1
  !(ok d.ext0 s.ext0 && ok d.ext1 s.ext1 && ok d.ext2 s.ext2 && ok d.ext3 s.ext3)
def outShapeBad (s d : Desc) (reduce : Bool) : Bool :=
  (if reduce then d.ext0 != 1 else d.ext0 != s.ext0) || d.ext1 != s.ext1 || d.ext2 != s.ext2 || d.ext3 != s.ext3

/-- Checks of vx.run (R113, R219, R254). -/
def checkVx (t : Tile) (f : Nat) (m : Macro) : Option Nat :=
  let ws := m.words
  let i0 := readsSrc ws 0
  let i1 := readsSrc ws 1
  let o1 := bit m.spec 20 == 1
  let srec := bit m.spec 21 == 1
  let rm := bits m.spec 23 22
  let s := m.shape
  let on (b : Bool) (o : Option Nat) : Option Nat := if b then o else none
  let red (o : Nat) : Bool := match outWord ws o with | some w => fnReduce w.fn | none => false
  let big := decide (2 ^ 24 < s.ext0)
  let ins := (if i0 then [m.da] else []) ++ (if i1 then [m.db] else [])
  let outs := [m.dc] ++ (if o1 then [m.dd] else [])
  let rec0 : Int × Int := (m.dc.sptr, m.dc.sptr + 64)
  let all := ins ++ outs
  firstSome ([
    on i0 (firstFail m.da.slot (m.da.checks t f false true)),
    on i1 (firstFail m.db.slot (m.db.checks t f false true)),
    firstFail m.dc.slot (m.dc.checks t f false true),
    on o1 (firstFail m.dd.slot (m.dd.checks t f false true)),
    firstFail m.dc.slot [(!latchesOk ws [] || (ws.filter fun w => w.dst == 4).length != 1 ||
      (ws.filter fun w => w.dst == 5).length != (if o1 then 1 else 0) ||
      ws.any (fun w => fnReduce w.fn && w.dst < 4) || (i1 && !i0), 0x20)],
    on i0 (firstFail m.da.slot [(inShapeBad s m.da, 0x21)]),
    on i1 (firstFail m.db.slot [(inShapeBad s m.db, 0x21)]),
    firstFail m.dc.slot [(outShapeBad s m.dc (red 4) || (big && (ws.any (fun w => w.fn == 0x24) || readsSrc ws 8)) ||
      (decide (2 ^ 24 < s.ext0) && readsSrc ws 9), 0x21)],
    on o1 (firstFail m.dd.slot [(outShapeBad s m.dd (red 5), 0x21)]),
    firstFail m.dc.slot [(m.dc.smode == 2 || m.dc.smode == 3 || (srec && m.dc.smode != 1) || rm == 3 || (rm == 1 && !srec), 0x22)],
    on o1 (firstFail m.dd.slot [(m.dd.smode == 2 || m.dd.smode == 3 || (m.dd.fmt == 0 && m.dd.smode == 4), 0x22)])] ++
    (all.map fun d => firstFail d.slot [(d.transpose || d.mmode != 0, 0x23)]) ++ [
    firstFail m.dc.slot [(outs.any (fun o => ins.any fun i => overlapBad o i) ||
      (srec && all.any fun d => d.bight == 0 && d.rowRanges.any (meets rec0)), 0x24)],
    t.descWriteFail f m.dc,
    on o1 (t.descWriteFail f m.dd),
    on srec (t.writeFail f m.dc.slot rec0)])

/-- Checks of vx.opt (R113, R226, R254). -/
def checkOpt (t : Tile) (f : Nat) (m : Macro) : Option Nat :=
  let adam := bits m.spec 27 24 == 0
  let ds := [m.da, m.db, m.dc] ++ (if adam then [m.dd] else [])
  let w := fieldAt m.record
  let same (d : Desc) : Bool := d.ext0 == m.da.ext0 && d.ext1 == m.da.ext1 && d.ext2 == m.da.ext2 && d.ext3 == m.da.ext3
  let ups := [m.da, m.dc] ++ (if adam then [m.dd] else [])
  let fmts := [(m.da, 0), (m.db, 2), (m.dc, 0)] ++ (if adam then [(m.dd, 0)] else [])
  firstSome (
    (ds.map fun d => firstFail d.slot (d.checks t f false true)) ++
    (ds.map fun d => firstFail d.slot [(!same d, 0x21)]) ++
    (ds.map fun d => firstFail d.slot [(d.transpose || d.mmode != 0, 0x23)]) ++
    [firstFail m.dc.slot [(ups.any (fun o => ds.any fun i => overlapBad o i), 0x24)]] ++
    (fmts.map fun e => firstFail e.1.slot [(e.1.smode != 0 || decide (e.2 < e.1.fmt), 0x25)]) ++
    [firstFail m.fs [(w 0 1 != 3 || w 1 3 != 0 || w 36 8 != 0 || (slice m.record 36 28).any (fun b => b != 0), 0x25)]] ++
    (ups.map fun d => t.descWriteFail f d))

/-! ## Fill, copy and DMA -/

/-- Checks of sp.fill and sp.copy (R113, R254, R257). -/
def checkSp (t : Tile) (f : Nat) (m : Macro) : Option Nat :=
  let fill := m.kind == .spFill
  let pat := bit m.spec 20 == 1
  let useA := !fill || pat
  let a := m.da
  let c := m.dc
  let on (b : Bool) (o : Option Nat) : Option Nat := if b then o else none
  let mode (d : Desc) : Bool := d.smode != 0 || d.mmode != 0 || d.transpose
  firstSome [
    on useA (firstFail a.slot (a.checks t f false true)),
    firstFail c.slot (c.checks t f false true),
    on useA (firstFail c.slot [(a.fmt != c.fmt, 0x27)]),
    on useA (firstFail a.slot [(mode a, 0x27)]),
    firstFail c.slot [(mode c, 0x27)],
    on useA (firstFail a.slot [(a.inAccum, 0x28)]),
    firstFail c.slot [(c.inAccum, 0x28)],
    on (!fill) (firstFail c.slot [(a.ext0 != c.ext0 || a.ext1 != c.ext1 || a.ext2 != c.ext2 || a.ext3 != c.ext3 ||
      rangeBad c a, 0x29)]),
    on (fill && pat) (firstFail a.slot [(a.ext0 != 1 || a.ext1 != 1 || a.ext2 != 1 || a.ext3 != 1, 0x2A)]),
    t.descWriteFail f c ]

/-- The region of R20 that a device address lies in: 0 HBM, 1 DDR5, 2 the tile windows; none for a reserved one. -/
def devRegion (a : Int) : Option Nat :=
  if a < 0 then none
  else if a < 0x10000000000 then some 0
  else if a < 0x90000000000 then some 1
  else if inWindows a.toNat then some 2
  else none

/-- Checks of dm. (R113, R254, R383). -/
def checkDm (d : Dev) (t : Tile) (n f : Nat) (m : Macro) : Option Nat :=
  let a := m.da
  let c := m.dc
  let fn := bits m.spec 27 24
  let devA := fn == 0 || fn == 3
  let devC := fn == 1 || fn == 3
  let mode (x : Desc) : Bool := x.smode != 0 || x.mmode != 0 || x.transpose
  let devBad (x : Desc) : Bool :=
    let lo := devRegion x.span.1
    let hi := devRegion (x.span.2 - 1)
    lo.isNone || lo != hi || (fn == 3 && lo == some 2) ||
      (lo == some 2 && (winTile x.span.1.toNat == n || winTile (x.span.2 - 1).toNat == n))
  let tree := mget (d.region t.part).trees 65535 (bits m.spec 11 0)
  firstSome [
    firstFail a.slot (a.checks t f true true),
    firstFail c.slot (c.checks t f true true),
    firstFail a.slot [(a.fmt != c.fmt || a.ext0 != c.ext0 || a.ext1 != c.ext1 || a.ext2 != c.ext2 || a.ext3 != c.ext3 ||
      mode a || mode c, 0x2C),
      (a.space != devA || c.space != devC || (!devA && !a.inScratch) || (!devC && !c.inScratch), 0x2D),
      ((devA && devBad a) || (devC && devBad c), 0x2E)],
    firstFail c.slot [(fn == 2 && ((mget d.trees Tree.init tree).part != t.part || tree == 65535 ||
      (mget d.trees Tree.init tree).root != n), 0x2F)],
    t.descWriteFail f c ]

end Sys2Proof.Machine
end

