-- ==== Sys2Proof/Machine/Units.lean ====
section
/-! DEFINITION. The units of the matrix engine and what each does next. The array, the function unit and the write-out of the matrix engine work side by side (R140, R190, R195); every other engine is one
unit. A plan lists the steps in an order in which they may all be made one after another. -/

namespace Sys2Proof.Machine


/-- Unit of a step: 0 the array (and every step of another engine), 1 the function unit, 2 write-out. -/
def Micro.unit : Micro → Nat
  | .func .. => 1
  | .final .. => 1
  | .out .. => 2
  | .splice .. => 2
  | .zero .. => 2
  | _ => 0

/-- PING of mm.mm and mm.wg, YPING of mm.f2: two working regions, used in turn. -/
def Macro.ping (m : Macro) : Bool := if m.kind = .mmF2 then m.frec.ping else bit m.spec 21 == 1
/-- Which product a step of the array belongs to, its A tile or key block, and its walk position. -/
def Micro.place : Micro → Bool × Nat × Nat
  | .load s _ _ a _ _ _ p => (s, a, p)
  | .stream s _ _ a _ _ _ _ p => (s, a, p)
  | .fill _ _ _ _ p => (false, 0, p)
  | _ => (false, 0, 0)
/-- Step `y` waits until step `x`, which stands before it in the plan, is made: the steps of one unit are made in order; write-out
and function passes wait for the array work before them; array work waits for the write-out of its working region (R140), for the
function that last used its staging region (R190, R195), and a second product for its functions. -/
def Macro.waits (m : Macro) (x y : Micro) : Bool :=
  let (second, k, q) := y.place
  let wout (p : Nat) : Bool :=
    if y.unit = 0 then !(m.kind == .mmF2 && !second) && (!m.ping || decide (p + 1 < q)) else false
  x.unit == y.unit ||
  match x with
  | .out _ _ _ p _ => wout p
  | .splice _ _ _ p _ _ => wout p
  | .func _ _ j _ p =>
    if y.unit = 0 then (if m.kind = .mmAtt then (if second then decide (p ≤ q) else decide (p + 2 ≤ q)) else second || decide (j + 2 ≤ k))
    else true
  | .final .. => y.unit != 0 || second
  | _ => true
/-- The next step of a unit, with its place in the plan; none while it waits for a step before it. -/
def Run.nextOf (r : Run) (u : Nat) : Option (Nat × Micro) :=
  match r.plan.findIdx? fun x => x.unit == u with
  | none => none
  | some i =>
    match r.plan[i]? with
    | none => none
    | some y => if (r.plan.take i).any fun x => r.macro_.waits x y then none else some (i, y)

/-- The array advances in this cycle (R126): frames of 16 cycles begin at cycle 0 of every second. -/
def Dev.arrayCycle (d : Dev) : Bool := decide (d.now % 16 < d.power.frameDuty)
/-- Byte ranges that a vector macro-instruction reads, and writes: from each operand's first element to its last, with its scales and its
scale record; a bight is the range of its handle (R222). -/
def Macro.spans (m : Macro) : List (Int × Int) × List (Int × Int) :=
  let bight (d : Desc) : Int × Int := (-(d.bight : Int) - 1, -(d.bight : Int))
  let sp (d : Desc) : List (Int × Int) := [if d.bight = 0 then d.span else bight d, spanRange d.scaleSpan]
  match m.kind with
  | .vxRun =>
    let rec_ : List (Int × Int) := if bit m.spec 21 = 1 then [((m.dc.sptr : Int), (m.dc.sptr : Int) + 64)] else []
    ((if readsSrc m.words 0 then sp m.da else []) ++ (if readsSrc m.words 1 then sp m.db else []) ++ rec_,
      sp m.dc ++ (if bit m.spec 20 = 1 then sp m.dd else []) ++ rec_)
  | .vxOpt =>
    let v := if bits m.spec 27 24 = 0 then sp m.dd else []
    (sp m.da ++ sp m.db ++ sp m.dc ++ v, sp m.da ++ sp m.dc ++ v)
  | _ =>
    let r := ((m.spec % 2 ^ 19 * 64 : Nat) : Int)
    ([(r, r + 64)], [(r, r + 64)])
/-- Vector macro-instruction `n` must wait until `m`, which is before it, completes (R222): its reads or writes meet what that one
writes, or both name one scale record. A bight that `m` writes counts as such a range (DEDUCED, log 32): the position at which `n` takes
it up is known once `m` has filled its last line (R248, R249). -/
def Macro.hazard (m n : Macro) : Bool :=
  let meet (l k : List (Int × Int)) : Bool := l.any fun x => k.any fun y => decide (x.1 < x.2) && decide (y.1 < y.2) && meets x y
  meet n.spans.1 m.spans.2 || meet n.spans.2 m.spans.2

end Sys2Proof.Machine
end

