-- ==== Sys2Proof/Machine/Place.lean ====
section
/-! DEFINITION. Where memory lies: the populated windows (R368, R386), pages and their partitions (R389, R390), the channel and line of an
address (R370, R386), and the rows that hold errors (R398, R497). -/

namespace Sys2Proof.Machine

/-- Pages of 2 MiB of the populated HBM window: 12 stacks of the build's size (R368). -/
def Dev.stackGib (d : Dev) : Nat := if d.fuses.build = 0 then 48 else 36
/-- Bytes of the populated HBM window. -/
def Dev.hbmBytes (d : Dev) : Nat := 12 * d.stackGib * 2 ^ 30
/-- Bytes of the populated DDR5 window (R386): the mapped capacity of the channels in use. -/
def Dev.ddrBytes (d : Dev) : Nat := ((List.range 8).map fun c => d.get (DDR_C_STATUS_GIB c)).sum * 2 ^ 30
/-- Bytes of a page. -/
def pageBytes : Nat := 0x200000

/-- Partition p's range k covers page `pg` of a tier (R390). -/
def Dev.rangeHas (d : Dev) (p k tier pg : Nat) : Bool :=
  d.is (MEM_P_RANGE_VALID p k) && d.get (MEM_P_RANGE_TIER p k) == tier &&
  decide (d.get (MEM_P_RANGE_BASE p k) ≤ pg) && decide (pg < d.get (MEM_P_RANGE_BASE p k) + d.get (MEM_P_RANGE_COUNT p k))
/-- The partition that holds a page; 0 for none. -/
def Dev.pageOwner (d : Dev) (tier pg : Nat) : Nat :=
  (allParts.find? fun p => (List.range 8).any fun k => d.rangeHas p k tier pg).getD 0
/-- Number of a page over both tiers. -/
def pageKey (tier pg : Nat) : Nat := tier * 2 ^ 22 + pg

/-! ## Places in memory (R370, R386, R398) -/

/-- A device address in the DDR5 window. -/
def ddrBase : Nat := 0x10000000000
/-- Tier of a memory address: 0 HBM, 1 DDR5. -/
def memTier (a : Nat) : Nat := if a < ddrBase then 0 else 1
/-- Address within its window. -/
def memOff (a : Nat) : Nat := if a < ddrBase then a else a - ddrBase
/-- Page within its window (R389). -/
def memPage (a : Nat) : Nat := memOff a / pageBytes
/-- The address lies in a populated part of a memory window (R22). -/
def Dev.populated (d : Dev) (a : Nat) : Bool := decide (memOff a < if memTier a = 0 then d.hbmBytes else d.ddrBytes)

/-- Stacks of each compute die (R370). -/
def dieStacks (k : Nat) : List Nat :=
  match k with
  | 0 => [0, 1, 2]
  | 1 => [6, 7, 8]
  | 2 => [3, 4, 5]
  | _ => [9, 10, 11]
/-- The compute die of a stack. -/
def stackDie (s : Nat) : Nat := ((List.range 4).find? fun k => (dieStacks k).contains s).getD 0
/-- Lines of a die's range under DIE. -/
def Dev.dieLines (d : Dev) : Nat := d.stackGib * 3 * 2 ^ 22
/-- Channel (stack × 32 + channel) and line within the channel of an HBM window line (R370). -/
def Dev.hbmPlace (d : Dev) (l : Nat) : Nat × Nat :=
  if d.get HBM_CFG_ILV = 0 then (l % 12 * 32 + l / 12 % 32, l / 384)
  else
    let k := l / d.dieLines
    let r := l % d.dieLines
    ((dieStacks k).getD (r % 3) 0 * 32 + r / 3 % 32, r / 96)
/-- Its inverse. -/
def Dev.hbmLine (d : Dev) (ch cl : Nat) : Nat :=
  let s := ch / 32
  let c := ch % 32
  if d.get HBM_CFG_ILV = 0 then cl * 384 + c * 12 + s
  else stackDie s * d.dieLines + cl * 96 + c * 3 + (dieStacks (stackDie s)).idxOf s
/-- DDR5 channels in use, ascending (R386). -/
def Dev.ddrUsed (d : Dev) : List Nat := (List.range 8).filter fun c => bit (d.get DDR_CFG_USED) c == 1
/-- Channel number over both tiers of a memory address, and the line within it (R370, R386). -/
def Dev.memPlace (d : Dev) (a : Nat) : Nat × Nat :=
  let l := memOff a / 256
  if memTier a = 0 then d.hbmPlace l
  else let n := max 1 d.ddrUsed.length; (384 + d.ddrUsed.getD (l % n) 0, l / n)
/-- Device address of a line of a channel. -/
def Dev.chanAddr (d : Dev) (ch cl : Nat) : Nat :=
  if ch < 384 then d.hbmLine ch cl * 256
  else ddrBase + (cl * d.ddrUsed.length + d.ddrUsed.idxOf (ch - 384)) * 256
/-- Lines of a channel. -/
def Dev.chanLines (d : Dev) (ch : Nat) : Nat :=
  if ch < 384 then d.hbmBytes / 256 / 384
  else if d.ddrUsed.contains (ch - 384) then d.ddrBytes / 256 / d.ddrUsed.length else 0
/-- Unit of a channel: stacks 0 to 11, DDR5 channels 12 to 19. -/
def chanUnit (ch : Nat) : Nat := if ch < 384 then ch / 32 else 12 + (ch - 384)
/-- Channels of a unit. -/
def unitChans (u : Nat) : List Nat := if u < 12 then (List.range 32).map (u * 32 + ·) else [384 + (u - 12)]
/-- Unit of a memory address. -/
def Dev.unitAt (d : Dev) (a : Nat) : Nat := chanUnit (d.memPlace a).1

/-- Row of its unit that the line of an address lies in: by the line's place, which an interleave does not change. -/
def Dev.rowAt (d : Dev) (a : Nat) : Nat := let x := d.memPlace a; Config.memRow (x.1 * 2 ^ 32 + x.2)

/-- A row of a unit holds a line that cannot be corrected (R497, R499). -/
def Dev.rowBad (d : Dev) (u row : Nat) : Bool := d.mem.bad.any fun l => d.unitAt (l * 256) == u && d.rowAt (l * 256) == row

end Sys2Proof.Machine
end

