-- ==== Sys2Proof/Machine/Repair.lean ====
section
/-! DEFINITION. Repairs with spares (R398, R436, R506, R511, R512): what brings each kind in, and the needs that have waited while the
device brought in none by itself (R507, R547). -/

namespace Sys2Proof.Machine

/-! ## Port states (R404) -/

def ethDisabled : Nat := 0
def ethTraining : Nat := 1
def ethLinked : Nat := 2
def ethMeasuring : Nat := 3
def ethUp : Nat := 4
/-- Index of the reserve port V (R401). -/
def portV : Nat := 17
/-- State of port n. -/
def Dev.ethState (d : Dev) (n : Nat) : Nat := d.get (ETH_P_STATUS_STATE n)

/-! ## What a repair does -/

/-- Notes whose a row is and in which channel it lies, so that its copy takes that partition's slots there only (R376, R398). -/
def Dev.setRowHome (d : Dev) (r h : Nat × Nat) : Dev := 
  { d with mem := { d.mem with rowHome := (d.mem.rowHome.filter fun e => e.1 != r) ++ [(r, h)] } }
/-- A row begins to be copied into a buffer. A row that the host names unasked is taken to be nobody's, in its unit's first channel, since
the rows' layout is open (log 32). Accesses to the row find the same bytes before, during and after the copy, as R392 serves them. -/
def Dev.startRow (d : Dev) (u row : Nat) : Dev :=
  let d := if (d.mem.rowHome.any fun e => e.1 == (u, row)) then d else d.setRowHome (u, row) (0, (unitChans u).headD 0)
  { d with mem := { d.mem with rowCopy := d.mem.rowCopy ++ [(u, row)] } }

/-- Moves the contexts of scale-out port n to V, which takes over its window table; the pool of the reserve port is then
empty (R515). -/
def Dev.moveToV (d : Dev) (n : Nat) : Dev :=
  let d := (List.range 4096).foldl (fun d c =>
    if d.ctxKind c == 1 && d.get (NOP_CTX_CFG_PORT c) == n then
      (d.set (NOP_CTX_CFG_PORT c) portV).modCtx c fun x => { x with homePort := some n }
    else d) d
  (d.set ETH_FAILOVER_SERVING n).raiseLevel 1 10
/-- The contexts of port n move to V, as a repair of KIND 7 (R436, R480, R502, R506). -/
def Dev.sparePort (d : Dev) (n : Nat) : Dev := ((d.dropNeed 7 n 0).moveToV n).spared 7 none 11 (zeros 12) (d.rises 1)
/-- V can stand in for a port. -/
def Dev.vReady (d : Dev) : Bool := d.ethState portV == ethUp && d.get ETH_FAILOVER_SERVING == 31
/-- Row buffers of a memory unit. -/
def rowRoom (u : Nat) : Nat := if u < 12 then 4 else 2
/-- A line is moved to a spare line of its bank (R512); the repair fuses keep it (R505). The last of a bank's spares empties its
pool (R515). -/
def Dev.lineRepair (d : Dev) (n line : Nat) : Dev :=
  let bank := bankOf (d.tile n).hashed line
  let d := d.modTile n fun t => { t with lineRepairs := t.lineRepairs ++ [(line, bank)] }
  let d : Dev := { d with fuses := { d.fuses with lineSpares := mset d.fuses.lineSpares (d.physOf n) (d.tile n).lineRepairs } }
  let used := ((d.tile n).lineRepairs.filter fun e => e.2 == bank).length
  let d := d.spared 3 (some n) 0 (zeros 11 ++ leBytes 1 (32 - used)) (used == 32 && d.rises 1)
  if used = 32 then d.raiseLevel 1 3 else d
/-- A line of scratchpad holds an uncorrectable word: it is moved only once a whole-line write has replaced it (R499, R512). -/
def Tile.lineBad (t : Tile) (line : Nat) : Bool := t.bad.any fun w => w / 256 == line
/-- A line is repaired onto a spare of its bank (R260, R506, R512): the device brings spares in by itself, or records the
need. -/
def Dev.lineNeed (d : Dev) (n line : Nat) : Dev :=
  let t := d.tile n
  let bank := bankOf t.hashed line
  if (t.lineRepairs.any fun e => e.1 == line) || t.lineBad line then d
  else if 32 ≤ (t.lineRepairs.filter fun e => e.2 == bank).length then
    (d.raiseLevel 2 3).adviseTile n
  else if !d.sparesItself then d.addNeed 3 n line
  else d.lineRepair n line
/-- Lines whose uncorrectable words a whole-line write has replaced go to a spare at that write (R499, R512). -/
def Dev.dueRepairs (d : Dev) (n : Nat) : Dev :=
  let due := (d.tile n).repairDue
  if due.isEmpty then d
  else due.foldl (fun d l => d.lineNeed n l) (d.modTile n fun t => { t with repairDue := [] })

/-! ## Lanes of die crossings (R506, R512) -/

/-- Number of a lane of crossing k, in its forward or reverse channel. How many lanes a channel has is not stated, and 1,024 numbers are
kept for them (log 32). -/
def laneNo (k : Nat) (fwd : Bool) (lane : Nat) : Nat := (2 * k + if fwd then 0 else 1) * 1024 + lane % 1024
/-- The crossing of a lane; its group of 16 lanes. -/
def laneLink (l : Nat) : Nat := l / 2048
def laneGroup (l : Nat) : Nat := l / 16
/-- A lane of a group is replaced, waits to be, or is needed. -/
def Dev.groupTaken (d : Dev) (g : Nat) : Bool :=
  decide (0 < mget d.spare.lanesUsed 0 g) || (d.spare.laneWait.any fun l => laneGroup l == g) ||
  d.spare.needs.any fun e => e.1 == 4 && laneGroup (e.2.1 * 2048 + e.2.2) == g
/-- Groups of crossing k whose spare is in use: MESH_XLINK.SPARES_USED (R332). -/
def Dev.sparesUsed (d : Dev) (k : Nat) : Nat := (d.spare.lanesUsed.filter fun e => e.1 / 128 == k && e.2 != 0).length
/-- The lane of crossing k that SPR_CMD's KIND 4 replaces: the one that has waited longest for it; the command names the crossing only, so
where none waits it is the first lane (DESIGN CHOICE, log 32). -/
def Dev.laneTarget (d : Dev) (k : Nat) : Nat :=
  match d.spare.needs.find? fun e => e.1 == 4 && e.2.1 == k with
  | some e => k * 2048 + e.2.2
  | none => k * 2048

/-- A repair of kind 2 to 7, as SPR_CMD starts it; none where a precondition fails (R506, R518). -/
def Dev.repairAction (d : Dev) (kind target line : Nat) : Option Dev :=
  if kind = 2 then
    let mine := d.spare.arrayFaults.filter fun e => e.1 == target
    if mine.isEmpty then none
    else
      let d := mine.foldl (fun d e => (d.dropNeed 2 target e.2.2).modTile target fun t => { t with repairWait := t.repairWait ++ [e.2] }) d
      some { d with spare := { d.spare with arrayFaults := d.spare.arrayFaults.filter fun e => e.1 != target } }
  else if kind = 3 then
    let t := d.tile target
    let bank := bankOf t.hashed line
    if target < 256 && decide (line < 98304) && !(t.lineRepairs.any fun e => e.1 == line) && !t.lineBad line &&
        decide ((t.lineRepairs.filter fun e => e.2 == bank).length < 32) then
      some ((d.dropNeed 3 target line).lineRepair target line)
    else none
  else if kind = 4 then
    let l := d.laneTarget target
    let d := d.dropNeed 4 target (l % 2048)
    if target < 32 && !d.groupTaken (laneGroup l) then
      some { d with spare := { d.spare with laneWait := d.spare.laneWait ++ [l] } }
    else none
  else if kind = 5 then
    let used := d.get (HBM_S_STATUS_LANES target) + mget d.mem.replaced 0 target
    if target < 12 && decide (used < Config.hbmSpares target) then
      let d := d.dropNeed 5 target 0
      some { d with mem := { d.mem with replaced := mset d.mem.replaced target (mget d.mem.replaced 0 target + 1) } }
    else none
  else if kind = 6 then
    let used := (d.mem.rowBufs.filter (·.1 == target)).length + (d.mem.rowCopy.filter (·.1 == target)).length
    if target < 20 && decide (used < rowRoom target) && !d.mem.rowBufs.contains (target, line) && !d.mem.rowCopy.contains (target, line) && !d.rowBad target line then
      some ((d.dropNeed 6 target line).startRow target line)
    else none
  else if kind = 7 then
    if 1 ≤ target && decide (target ≤ 16) && d.ethState target != ethUp && d.vReady then
      some (d.sparePort target)
    else none
  else none

/-! ## Needs that have waited -/

/-- A need of a repair is served, or stays in PENDING where it cannot be; a port moves by itself under AUTO only (R436). -/
def Dev.serveNeed (d : Dev) (e : Nat × Nat × Nat) : Dev :=
  if e.1 = 1 || (e.1 == 7 && !d.is ETH_FAILOVER_AUTO) then d
  else (d.repairAction e.1 e.2.1 e.2.2).getD d
/-- The device brings spares in by itself again: the needs in PENDING are served in order of arrival, and the oldest tile shift begins
(R507, R547). -/
def Dev.resumeSparing (d : Dev) : Dev :=
  (if d.sparesItself then d.spare.needs.foldl Dev.serveNeed d else d).nextShift

end Sys2Proof.Machine
end

