-- ==== Sys2Proof/Machine/TileView.lean ====
section
/-! DEFINITION. The tile registers as they read (R121, R122, R151, R228, R265, R303, R367): those that show the tile's
own state are computed from it; the rest stand in the register map. -/

namespace Sys2Proof.Machine

/-- The sum of a list of (value, lowest bit). -/
def packFields (l : List (Nat × Nat)) : Nat := (l.map fun e => e.1 * 2 ^ e.2).sum
/-- A truth value as a bit. -/
def boolBit (b : Bool) : Nat := if b then 1 else 0
/-- One bit for each index below `n` at which `f` holds. -/
def bitMap (n : Nat) (f : Nat → Bool) : Nat := ((List.range n).map fun i => if f i then 2 ^ i else 0).sum

/-- The active frond, 0 where there is none. -/
def Tile.act (t : Tile) : Nat := t.active.getD 0

/-- HALT_REQ holds strand s of frond f, the active one, in DEBUG (R86). -/
def Tile.inDebug (t : Tile) (f s : Nat) : Bool :=
  let x := t.strand f s
  t.haltReq && t.act == f && t.stepping != some s && (x.st == .ready || x.st == .wait || x.st == .halt)
/-- State code of strand s (R86); a strand that HALT_REQ holds shows DEBUG. -/
def strandCode (t : Tile) (s : Nat) : Nat :=
  let x := t.strand t.act s
  if t.inDebug t.act s then 5
  else
    match x.st with
    | .idle => 0
    | .ready => 1
    | .wait => 2
    | .halt => 3
    | .fault => 4

/-- WAIT code of a strand (R121). -/
def waitCode (x : Strand) : Nat :=
  match x.wait with
  | .none => 0
  | .poll => 1
  | .send => 2
  | .tally => 3
  | .hitch => 4
  | .time => 5
  | .completion => 6
  | .engine => 7
  | .fence => 8
  | .store => 9
  | .switch => 10

/-- Power code of a quarter (TILE_SP_STATUS.QPOWER). -/
def qpowerCode : QPower → Nat
  | .off => 0
  | .retain => 1
  | .on => 2
  | .leaving _ => 3
  | .changing _ _ => 3

/-- An engine of the tile has work. -/
def Engine.busy (e : Engine) : Bool := !e.queue.isEmpty || !e.run.isEmpty
/-- Every engine is idle and its queue empty. -/
def Tile.enginesIdle (t : Tile) : Bool := !(t.mx.busy || t.vx.busy || t.dma0.busy || t.dma1.busy || t.fc.busy)

/-- Frond f of the tile is empty (R360). -/
def Tile.frondEmpty (t : Tile) (f : Nat) : Bool :=
  t.queues.all (fun q => q.2.countOf f == 0 && q.2.extOf f == 0) &&
  t.splices.all (fun s => s.2.frond != f || s.2.entries.isEmpty) &&
  t.enginesIdle &&
  (List.range 8).all fun s =>
    let x := t.strand f s
    !t.inDebug f s &&
    match x.st with
    | .ready => false
    | .wait => x.wait == .poll || x.wait == .hitch || x.wait == .time
    | _ => true
/-- The tile is empty: each of its loaded fronds is, and a tile on which a frond has been stopped counts as empty, whatever its other
fronds hold (R360, R362). -/
def Tile.isEmpty (t : Tile) : Bool :=
  let loaded := (List.range 8).filter fun f => (t.frond f).loaded
  loaded.any (fun f => (t.frond f).stopped) || loaded.all t.frondEmpty

/-- PHASE of the matrix engine (R151, R200; log 15): what the array does next, or what it waits for; with no array work left, what
the other units do. -/
def mxPhase (t : Tile) : Nat :=
  match t.mx.run with
  | [] => 0
  | r :: _ =>
    let m := r.macro_
    let acc := m.kind == .mmZero || m.kind == .mmOut || m.kind == .mmSpl
    let out : Nat := match r.plan.find? fun x => x.unit == 2 with
      | some (.splice ..) => if (t.route m.frond m.routeEntry).credit = 0 then 6 else 5
      | some _ => 5
      | none => 4
    if acc then 7
    else
      match r.nextOf 0 with
      | some (_, .load ..) => if r.block.isEmpty then 1 else 2
      | some (_, .fill ..) => 2
      | some (_, .begin_ ..) => 1
      | some _ => 3
      | none => if r.plan.any fun x => x.unit == 1 then 8 else out
/-- PHASE of the vector engine (R228; log 15): 1 before the first line is read, 7 while the next macro-instruction waits under R222,
4 while a row reduction ends, 3 while the rest drains. -/
def vxPhase (t : Tile) : Nat :=
  match t.vx.run.getLast? with
  | none => 0
  | some r =>
    match r.plan with
    | .beat .. :: _ => if readsSrc r.macro_.words 0 && r.bufs.isEmpty then 1 else 2
    | .close :: _ => 5
    | .opt .. :: _ => 6
    | _ => if (t.vx.queue.head?.map r.macro_.hazard).getD false then 7
           else if r.macro_.kind == .vxRun && r.macro_.words.any fun w => fnReduce w.fn then 4 else 3
/-- PHASE of the fill/copy unit (R265; log 15). -/
def spPhase (t : Tile) : Nat :=
  if t.clearing then 4
  else
    match t.fc.run with
    | [] => 0
    | r :: _ =>
      match r.macro_.kind with
      | .spFill => 1
      | .spCopy => 2
      | _ => 3

/-- STATE code of a route (R269). -/
def routeCode : RouteSt → Nat
  | .open_ => 0
  | .closed => 1
  | .stale => 2
  | .revoked => 3

/-- STATE code of the frond switch (R355). -/
def foldCode : FoldSt → Nat
  | .run => 0
  | .drainOld => 2
  | .wait => 1
  | .switch => 3

/-- The strand registers of strand s (R121): status, trap, trap value, completion counters, predicates. -/
def strandReg (t : Tile) (s k : Nat) : Nat :=
  let x := t.strand t.act s
  match k with
  | 0 => packFields [(x.pc.toNat, 32), (x.last.toNat, 24), (waitCode x, 16), (boolBit x.inTrap, 7), (strandCode t s, 0)]
  | 1 => packFields [(x.epc.toNat, 32), (x.cause.toNat, 0)]
  | 2 => x.tval.toNat
  | 3 => packFields (((List.range 4).map fun i => ((x.kcnt i).err.toNat, 32 + 8 * i)) ++
      (List.range 4).map fun i => ((x.kcnt i).cnt % 256, 8 * i))
  | 4 => setBits x.p.toNat 0 0 1
  | _ => 0

/-- TILE_Q_STATE and TILE_Q_CFG of queue q (R303). -/
def queueReg (t : Tile) (q : Nat) (cfg : Bool) : Nat :=
  let x := t.queue q
  if cfg then
    packFields [(boolBit (decide (0 < x.extLen)), 63), (x.extLen, 48), (x.extBase, 24), (x.spillAt, 20), (x.readers.toNat, 8),
      ((x.grants.map (·.credits)).sum, 0)]
  else
    packFields [(x.epoch, 48), (x.ext.length, 32), (bitMap 8 fun f => decide (0 < x.countOf f + x.extOf f), 24),
      (x.slots.length, 16), ((x.slots.head?.map (·.slot)).getD 0, 8), (x.closed.toNat, 0)]

/-- TILE_SPL_STATE and TILE_SPL_CFG of splice s (R303). -/
def spliceReg (t : Tile) (s : Nat) (cfg : Bool) : Nat :=
  let x := t.splice s
  if cfg then packFields [(boolBit x.valid, 63), (x.frond, 48), (x.cnt, 32), (x.ctree, 0)]
  else
    packFields [(boolBit x.overs, 63), (x.head, 32), ((mget x.entries SpliceEntry.init x.head).weight, 16),
      ((x.entries.filter fun e => e.2.done).length, 0)]

/-- TILE_HITCH h (R303). -/
def hitchReg (t : Tile) (h : Nat) : Nat :=
  let x := t.hitch h
  packFields [(x.gen, 48), (x.expect, 32), (boolBit x.revoked, 31), (x.count, 0)]

/-- TILE_ROUTE_A and TILE_ROUTE_B of entry r of the active frond (R303). -/
def routeReg (t : Tile) (r : Nat) (second : Bool) : Nat :=
  match t.active with
  | none => 0
  | some f =>
    let x := t.route f r
    if second then packFields [(x.seq, 16), (x.grant, 8), (x.credit, 0)]
    else packFields [(x.type, 61), (routeCode x.st, 59), (boolBit x.remote, 58), (boolBit x.mcast, 57), (x.dfrond, 54),
      (x.index, 46), (x.peer, 32), (x.epoch, 16), (x.dest, 0)]

/-- TILE_Q_TAG of slot j of queue q (R303). -/
def queueTag (t : Tile) (q j : Nat) : Nat :=
  match (t.queue q).slots.find? fun e => e.slot == j with
  | some e => e.tag.toNat
  | none => 0

/-- TILE_SP_BCFG and TILE_SP_BSTATE of bight h of the active frond (R265). -/
def bightReg (t : Tile) (h : Nat) (st : Bool) : Nat :=
  match t.active with
  | none => 0
  | some f =>
    let x := t.bight f h
    if st then packFields [(boolBit (x.pBroken || x.cBroken), 63), (boolBit x.cclaim.isSome, 62), (boolBit x.pclaim.isSome, 61), (x.full, 32),
      (x.fill, 16), (x.drain, 0)]
    else packFields [(boolBit x.valid, 63), (x.lines, 32), (x.base, 0)]

/-- TILE_FROND_CFG of frond f (R121). -/
def frondCfgReg (t : Tile) (f : Nat) : Nat :=
  let x := t.frond f
  packFields [(x.startMask.toNat, 24), (x.cls, 16), (boolBit x.loaded, 15), (boolBit x.trapValid, 13), (x.trapEntry.toNat, 0)]

/-- TILE_FOLD_STATE (R367). EMPTY and TILE_EMPTY speak of a tile of a region (R360), and read 0 in a tile that no partition holds, as
after reset (log 31). -/
def foldReg (t : Tile) : Nat :=
  let mine := t.part != 0
  packFields [(t.overruns, 48), (bitMap 8 fun f => (t.frond f).retired, 40), (bitMap 8 (fun f => mine && t.frondEmpty f), 32),
    (t.foldStep, 24), (foldCode t.foldSt, 16), ((t.foldReq.map (·.frond)).getD 0, 8), (boolBit (mine && t.isEmpty), 0)]

/-- TILE_MX_REPAIR (R151): the array rows and columns mapped out. -/
def repairReg (t : Tile) : Nat :=
  let v (l : List Nat) (i : Nat) : Nat := l.getD i 0
  packFields [(boolBit (decide (1 < t.mxShown.2.length)), 35), (boolBit (decide (0 < t.mxShown.2.length)), 34),
    (boolBit (decide (1 < t.mxShown.1.length)), 33), (boolBit (decide (0 < t.mxShown.1.length)), 32),
    (v t.mxShown.2 1, 24), (v t.mxShown.2 0, 16), (v t.mxShown.1 1, 8), (v t.mxShown.1 0, 0)]

/-- TILE_SP_RET k (R265). -/
def retReg (t : Tile) (k : Nat) : Nat :=
  match t.retained[k]? with
  | some r => packFields [(1, 63), (r.count, 32), (r.start, 0)]
  | none => 0

/-- The tile registers that show the tile's own state; none for one that stands in the register map. -/
def Dev.tileView (d : Dev) (n off : Nat) : Option Nat :=
  let t := d.tile n
  let err (f : Nat → RF) : Nat := d.get (f n)
  let eng (f : Nat → RF) (ph : Nat) (e : Engine) : Nat := packFields [(err f, 32), (ph, 8), (e.queue.length + e.run.length, 0)]
  if off = 0 then
    some (packFields [(8, 48), (128, 40), (128, 32), (d.fuses.stepping, 24), (t.part, 16), (tileY n, 12), (tileX n, 8), (n, 0)])
  else if off = 0x8 then
    some (packFields [(d.get (TILE_CORE_CTRL_STEP_STRAND n), 8), (d.get (TILE_CORE_CTRL_FAULT_POLICY n), 2),
      (boolBit t.stepping.isSome, 1), (boolBit t.haltReq, 0)])
  else if off = 0x10 then
    some (packFields ((bitMap 8 (fun s => (t.strand t.act s).inTrap), 32) ::
      (List.range 8).map fun s => (strandCode t s, 4 * s)))
  else if off = 0x18 then
    some (packFields [(bitMap 8 (fun f => (t.frond f).stopped), 16), (bitMap 8 (fun f => (t.frond f).loaded), 8),
      (boolBit (t.foldSt == .switch), 4), (t.act, 0)])
  else if off = 0x28 then some (d.tick - t.resetTick - d.get (TILE_ISSUE_COUNT_V n))
  else if 0x40 ≤ off && off < 0x80 then some (frondCfgReg t ((off - 0x40) / 8))
  else if 0x100 ≤ off && off < 0x300 then some (strandReg t ((off - 0x100) / 0x40) ((off - 0x100) % 0x40 / 8))
  else if 0x1000 ≤ off && off < 0x1800 then
    some ((t.strand t.act ((off - 0x1000) / 0x100)).reg ((off - 0x1000) % 0x100 / 8)).toNat
  else if off = 0x2000 then
    some (eng TILE_MX_STATUS_LAST_ERR (mxPhase t) t.mx +
      packFields [(boolBit (!d.arrayCycle && (t.mx.run.any fun r => (r.nextOf 0).isSome)), 4)])
  else if off = 0x2080 then some (repairReg t)
  else if off = 0x2100 then some (eng TILE_VX_STATUS_LAST_ERR (vxPhase t) t.vx)
  else if off = 0x2200 then
    some (eng TILE_SP_STATUS_LAST_ERR (spPhase t) t.fc +
      packFields [(qpowerCode t.q3, 22), (qpowerCode t.q2, 20), (qpowerCode t.q1, 18), (qpowerCode t.q0, 16), (boolBit t.hashed, 4)])
  else if 0x2210 ≤ off && off < 0x2230 then some (retReg t ((off - 0x2210) / 8))
  else if 0x2288 ≤ off && off < 0x2300 then some (bightReg t ((off - 0x2280) / 8) false)
  else if 0x2308 ≤ off && off < 0x2380 then some (bightReg t ((off - 0x2300) / 8) true)
  else if off = 0x2400 then some (d.get (PART_P_CFG_STALL_LIMIT t.part))
  else if 0x2800 ≤ off && off < 0x2C00 then some (queueReg t ((off - 0x2800) / 16) (off % 16 == 8))
  else if 0x2C00 ≤ off && off < 0x2D00 then some (spliceReg t ((off - 0x2C00) / 16) (off % 16 == 8))
  else if 0x2D00 ≤ off && off < 0x2D80 then some (t.tally ((off - 0x2D00) / 8)).toNat
  else if 0x2E00 ≤ off && off < 0x2F00 then some (hitchReg t ((off - 0x2E00) / 8))
  else if 0x3000 ≤ off && off < 0x3800 then some (routeReg t ((off - 0x3000) / 16) (off % 16 == 8))
  else if 0x4000 ≤ off && off < 0x6000 then some (queueTag t ((off - 0x4000) / 0x80) ((off - 0x4000) % 0x80 / 8))
  else if off = 0x6000 then some (foldReg t)
  else if off = 0x6020 then some (packFields ((List.range 8).map fun f => ((t.frond f).gen % 256, 8 * f)))
  else none

end Sys2Proof.Machine
end

