-- ==== Sys2Proof/Machine/View.lean ====
section
/-! DEFINITION. Registers as they read (R11, R12, R22, R24 to R26, R576): which addresses hold one, whose it is, and
what a read of it returns, computed where the register shows state that has a field of its own. -/

namespace Sys2Proof.Machine

/-! ## Which register an address holds -/

/-- The indices of a register table at an offset from its base. -/
def dimIdx : List Dim → Nat → Option (List Nat)
  | [], off => if off = 0 then some [] else none
  | x :: xs, off =>
    let i := off / x.stride
    if x.lo ≤ i && i ≤ x.hi then (dimIdx xs (off - i * x.stride)).map (i :: ·) else none

/-- A register found at an address. -/
structure RegAt where
  own : Own
  idx : List Nat
  free : Bool
  fields : List Fld

/-- The alias of an address in a tile's register range (R25). -/
def canonAddr (a : Nat) : Nat :=
  if inWindows a && 0x1A00000 ≤ winOffset a && winOffset a < 0x1A10000 then
    0xFF0600000000 + winTile a * 0x10000 + (winOffset a - 0x1A00000)
  else a

/-- Bases of the tables that are not register tables: ADM_MISS_LOG (R79), FLT_LOG (R503), the host schedules (R74). -/
def missLogBase : Nat := 0xFF0200001000
def fltLogBase : Nat := 0xFF0800008000
def schedBase : Nat := 0xFF0200100000

/-- The address lies in the partition's host schedule. -/
def inSched (a : Nat) : Bool := decide (schedBase + 0x2000 ≤ a) && decide (a < schedBase + 16 * 0x2000)
/-- Partition, entry and 64-bit word of a host schedule address. -/
def schedAt (a : Nat) : Nat × Nat × Nat :=
  ((a - schedBase) / 0x2000, (a - schedBase) % 0x2000 / 32, (a - schedBase) % 32 / 8)
/-- Word w of entry k of partition p's host schedule; the words are written through the register map. -/
def schedWord (p k w : Nat) : RF := ⟨schedBase + p * 0x2000 + k * 32 + w * 8, 63, 0, 0⟩

/-- The register at a canonical, 8-byte-aligned address, if there is one (R22). The general registers of a strand
(R122), the logs and the host schedules come beside the register tables. -/
def findReg (a : Nat) : Option RegAt :=
  if a % 8 ≠ 0 then none
  else if 0xFF0600000000 ≤ a && a < 0xFF0601000000 && 0x1000 ≤ a % 0x10000 && a % 0x10000 < 0x1800 then
    some ⟨.tile, [(a - 0xFF0600000000) / 0x10000], false, [⟨63, 0, .rw, 0⟩]⟩
  else if missLogBase ≤ a && a < missLogBase + 0x1000 then some ⟨.dev, [], false, [⟨63, 0, .ro, 0⟩]⟩
  else if fltLogBase ≤ a && a < fltLogBase + 0x8000 then some ⟨.dev, [], false, [⟨63, 0, .ro, 0⟩]⟩
  else if inSched a then some ⟨.part, [(schedAt a).1], false, [⟨63, 0, .rw, 0⟩]⟩
  else layout.findSome? fun r =>
    if r.base ≤ a then (dimIdx r.dims (a - r.base)).map fun ix => ⟨r.own, ix, r.free, r.fields⟩ else none

/-! ## Who may read and write -/

/-- Partition that holds a per-partition register, a context's or a tile's register; none for a device-wide one. -/
def Dev.regPart (d : Dev) (r : RegAt) : Option Nat :=
  let i := r.idx.getD 0 0
  match r.own with
  | .dev => none
  | .mtr => none
  | .part => some i
  | .ctx => some (d.get (NOP_CTX_CFG_PART i))
  | .tile => some (d.tile i).part

/-- The credential permits a read of the register (R3, R23, R576); the meter's page is the owner's alone (R488). -/
def Dev.mayRead (d : Dev) (c : Cred) (r : RegAt) : Bool :=
  match c with
  | .owner => true
  | .dmc => r.free || r.own != .mtr
  | .none => r.free
  | .tenant p => r.free || (p != 0 && d.regPart r == some p.val)

/-! ## What it reads -/

/-- The fields of a register as the map holds them; write-only fields read 0. -/
def Dev.regStored (d : Dev) (a : Nat) (r : RegAt) : Nat :=
  packFields (r.fields.map fun f => (if f.acc = .wo then 0 else d.get ⟨a, f.hi, f.lo, f.rst⟩, f.lo))

/-- The 64-bit word at offset `o` of a record. -/
def recWord (bs : List Byte) (o : Nat) : Nat := fieldAt bs o 8

/-- Entry of a page in the page-key table (R389). -/
def Dev.pageEntry (d : Dev) (tier pg : Nat) : Nat :=
  let p := d.pageOwner tier pg
  if p = 0 then 0
  else
    let moving := d.is (MEM_P_SWSTAT_MOVING p) && d.get (MEM_P_SWSTAT_TIER p) == tier && d.get (MEM_P_SWSTAT_PAGE p) == pg
    packFields [(1, 7), (boolBit moving, 6), (mget d.mem.pageGen 0 (pageKey tier pg) % 2, 5), (p, 0)]

/-- Routers on the way from position `r` to logical tile `dt` (R308), ends included. -/
def Dev.path (d : Dev) (dt : Nat) : Nat → Nat → List Nat
  | 0, r => [r]
  | k + 1, r =>
    match meshNeighbour r (d.nextDir r dt) with
    | some (r', _) => r :: Dev.path d dt k r'
    | none => [r]
/-- The tree passes the router at position `r` (R323, R324). -/
def Dev.treeAt (d : Dev) (t : Tree) (r : Nat) : Bool :=
  t.leaves.any fun l => (d.path l 40 (d.physOf t.root)).contains r

/-- MESH_Rn_STATUS (R332). -/
def Dev.meshStatus (d : Dev) (n : Nat) : Nat :=
  let ph := d.physOf n
  packFields [(ph, 48), ((d.tile n).part, 36), (boolBit (ph != homePhys n), 33), (boolBit (d.tile n).fenced, 32),
    ((d.router ph).reds.length, 16), ((d.trees.filter fun t => d.treeAt t.2 ph).length, 0)]

/-- Physical tiles of a die that are retired (R505). -/
def Dev.retiredOn (d : Dev) (die : Nat) : Nat := (d.fuses.retired.filter fun p => p / 128 == die).length
/-- SPR_DIE of die `die` (R518). -/
def Dev.sprDie (d : Dev) (die : Nat) : Nat :=
  let sp (k : Nat) : Nat := die * 128 + 64 + k
  packFields (
    ((List.range 4).map fun k =>
      (match d.fuses.spares.find? fun e => e.1 == sp k with
       | some e => 8 + e.2 % 8
       | none => 0, 16 + 4 * k)) ++
    [(d.retiredOn die, 8),
     (bitMap 4 fun k => d.fuses.retired.contains (sp k) || decide (mget d.power.margins 65535 (sp k) < d.get SPR_CFG_ADVISE_PS), 0)])

/-- Sum of the shares of the partitions that hold a range (R375). -/
def Dev.shareTotal (d : Dev) : Nat :=
  (allParts.map fun p =>
    if (List.range 8).any fun k => d.is (MEM_P_RANGE_VALID p k) then
      d.get (MEM_P_SPLIT_READ p) + d.get (MEM_P_SPLIT_WRITE p) + d.get (MEM_P_SPLIT_REMOTE p)
    else 0).sum

/-- A meter register (R488) at its offset in the MTR_ page. -/
def Meter.reg (m : Meter) (d : Dev) (off : Nat) : Nat :=
  if !m.powered then 0
  else if off = 0 then packFields [(d.fuses.meterVersion, 32), (d.fuses.interval, 20)]
  else if off = 8 then
    packFields [(m.strips.toNat, 32), (boolBit m.range, 3), (boolBit m.calOk, 2), (boolBit m.romOk, 1), (boolBit m.sealOk, 0)]
  else if off = 0x10 then m.ticks
  else if off = 0x18 then m.nextSeq - min m.nextSeq 256
  else if off = 0x20 then m.nextSeq - 1
  else if 0x40 ≤ off && off < 0x60 then fieldAt m.chain (off - 0x40) 8
  else if 0x80 ≤ off && off < 0xD0 then m.total.getD ((off - 0x80) / 8) 0 / 1000
  else if 0x100 ≤ off && off < 0x150 then m.power.getD ((off - 0x100) / 8) 0
  else if 0x180 ≤ off && off < 0x1E0 then d.fuses.weights.getD ((off - 0x180) / 8) 0
  else if 0x1000 ≤ off && off < 0x1A20 then
    leNat ((List.range 8).map fun i => Config.keyByte 4 [] (off - 0x1000 + i))
  else if 0x10000 ≤ off && off < 0x210000 then
    match m.records.find? fun e => e.1 == (off - 0x10000) / 0x2000 with
    | some e => recWord (meterBytes e.2) ((off - 0x10000) % 0x2000)
    | none => 0
  else 0

/-- A sense point over the last 1 ms (R529, R552): as a survey of that time sampled it, else a free value: what the point measured. -/
def Dev.senseNow (d : Dev) (k : Nat) : Nat × Nat × Nat :=
  match d.survey.supplies[k]? with
  | some x => if d.tick < d.survey.sensedAt + msLen then x else Config.senseSample (d.tick / msLen) k
  | none => Config.senseSample (d.tick / msLen) k
/-- What a read of a register returns. -/
def Dev.regValue (d : Dev) (m : Meter) (a : Nat) (r : RegAt) : Nat :=
  if 0xFF0600000000 ≤ a && a < 0xFF0601000000 then
    match d.tileView ((a - 0xFF0600000000) / 0x10000) (a % 0x10000) with
    | some v => v
    | none => d.regStored a r
  else if 0xFF0F00000000 ≤ a && a < 0xFF1000000000 then m.reg d (a - 0xFF0F00000000)
  else if missLogBase ≤ a && a < missLogBase + 0x1000 then
    recWord (mget d.missLog [] ((a - missLogBase) / 64)) ((a - missLogBase) % 64)
  else if fltLogBase ≤ a && a < fltLogBase + 0x8000 then
    recWord (mget d.fltLog [] ((a - fltLogBase) / 128)) ((a - fltLogBase) % 128)
  else if inSched a then
    let (p, k, w) := schedAt a
    let v := d.get (schedWord p k w)
    if w = 2 then
      match d.sched.find? fun e => e.1 == p * 256 + k with
      | some e => v + (if e.2 then 2 ^ 41 else 2 ^ 42)
      | none => v
    else v
  else if a = TIME_NOW then packTime d.now
  else if a = PART_STATUS then
    packFields [(bitMap 16 fun p => p != 0 && d.partState p == 3, 32), (bitMap 16 fun p => p != 0 && d.partState p == 2, 16),
      (bitMap 16 fun p => p != 0 && d.partState p == 1, 0)]
  else if PART_TILEMAP 0 ≤ a && a < PART_TILEMAP 16 then
    packFields ((List.range 16).map fun j => ((d.tile ((a - PART_TILEMAP 0) / 8 * 16 + j)).part, 4 * j))
  else if MESH_R_STATUS 0 ≤ a && a < MESH_R_STATUS 256 && (a - MESH_R_STATUS 0) % 0x100 = 0 then
    d.meshStatus ((a - MESH_R_STATUS 0) / 0x100)
  else if MEM_PKT_HBM 0 ≤ a && a < MEM_PKT_HBM 36864 then
    packFields ((List.range 8).map fun k =>
      let pg := (a - MEM_PKT_HBM 0) / 8 * 8 + k
      (if pg * pageBytes < d.hbmBytes then d.pageEntry 0 pg else 0, 8 * k))
  else if MEM_PKT_DDR 0 ≤ a && a < MEM_PKT_DDR 262144 then
    packFields ((List.range 8).map fun k =>
      let pg := (a - MEM_PKT_DDR 0) / 8 * 8 + k
      (if pg * pageBytes < d.ddrBytes then d.pageEntry 1 pg else 0, 8 * k))
  else if a = HBM_CFG then
    packFields [(d.stackGib, 32), (d.get HBM_CFG_ILV, 12), (d.get HBM_CFG_READY, 0)]
  else if a = MEM_CFG_STATUS then
    packFields [(d.get MEM_CFG_STATUS_RANGE_REFUSED, 9), (d.get MEM_CFG_STATUS_SPLIT_REFUSED, 8), (d.shareTotal, 0)]
  else if SPR_DIE 0 ≤ a && a < SPR_DIE 4 then d.sprDie ((a - SPR_DIE 0) / 8)
  else if a = SPR_ACTION then
    let cyc := match d.spare.shift with
      | some x => min (d.tick - x.since) (2 ^ 32 - 1)
      | none => 0
    packFields [(cyc, 32), (d.get SPR_ACTION_TARGET, 24), (d.get SPR_ACTION_BLOCKING, 20), (d.get SPR_ACTION_STATE, 0)]
  else if a = SEC_SVN then packFields [(d.get SEC_SVN_IMAGE_SVN, 32), (d.fuses.svn, 0)]
  else if a = SEC_OWNER then
    packFields [(2 ^ d.fuses.imgKeys.length - 1, 12), (2 ^ d.fuses.owners.length - 1, 8), (min 63 d.sec.calls.length, 0)]
  else if SEC_DIE_LOT 0 ≤ a && a < SEC_DIE_LOT 6 then
    let k := (a - SEC_DIE_LOT 0) / 0x10
    if (a - SEC_DIE_LOT 0) % 0x10 = 0 then leNat (d.fuses.lots.getD k [])
    else
      let (w, x, y) := d.fuses.pos.getD k (0, 0, 0)
      packFields [(y % 256, 16), (x % 256, 8), (w % 256, 0)]
  else if SEC_SERIAL 0 ≤ a && a < SEC_SERIAL 2 then fieldAt d.fuses.serial (a - SEC_SERIAL 0) 8
  else if SRV_INV 0 ≤ a && a < SRV_INV 512 then recWord d.survey.inv (a - SRV_INV 0)
  else if SRV_PARTNER 0 0 ≤ a && a < SRV_PARTNER 52 0 then
    recWord (d.survey.partners.getD ((a - SRV_PARTNER 0 0) / 0x2000) []) ((a - SRV_PARTNER 0 0) % 0x2000)
  else if SRV_SENSE 0 ≤ a && a < SRV_SENSE 32 then
    let k := (a - SRV_SENSE 0) / 8
    let (mean, lo, hi) := d.senseNow k
    let p := (Config.sensePoint k).toNat
    packFields [(hi % 2 ^ 16, 48), (lo % 2 ^ 16, 32), (mean % 2 ^ 16, 16), (p / 16 % 8, 8), (p % 16, 0)]
  else if ETH_P_STATUS 0 ≤ a && a < ETH_P_STATUS 18 && (a - ETH_P_STATUS 0) % 0x100 = 0 then
    let n := (a - ETH_P_STATUS 0) / 0x100
    let x := d.port n
    let heard := match x.lldpAt with
      | some t => decide (d.now < t + x.lldpTtl * secLen)
      | none => false
    d.regStored a r + (if heard then 2 ^ 16 else 0)
  else if NOP_CTX_STATE 0 ≤ a && a < NOP_CTX_STATE 4096 && (a - NOP_CTX_STATE 0) % 0x40 = 0 then
    d.regStored a r + min 255 (d.ctx ((a - NOP_CTX_STATE 0) / 0x40)).unacked.length * 2 ^ 16
  else if a = DMC_RESET then packFields [(d.pins.straps.toNat, 8), (d.get DMC_RESET_CAUSE, 0)]
  else d.regStored a r

end Sys2Proof.Machine
end

