-- ==== Sys2Proof/Machine/LoadStore.lean ====
section
/-! DEFINITION. Loads and stores (R95 to R98), their returns and writes, and the words that raise ILLEGAL (R89). -/

namespace Sys2Proof.Machine

/-- Offset of a load or store: ga + IMM (R95). -/
def effOffset (st : Strand) (ra : GReg) (imm : Imm) : Nat := (st.reg ra.val + sext32 imm).toNat

/-- Address of a tile register by its window offset (R25). -/
def tileRegAddr (n off : Nat) : Nat := 0xFF0600000000 + n * 0x10000 + (off - 0x1A00000)

/-- A tile register holds `off` and `w` is the width of a register access (R11, R22). -/
def tileRegOk (n off w : Nat) : Bool := w == 8 && (findReg (tileRegAddr n off)).isSome

/-- The value of a tile register, for the strand that loads it. -/
def Dev.tileRegValue (d : Dev) (n off : Nat) : Nat :=
  match findReg (tileRegAddr n off) with
  | some r => d.regValue Meter.init (tileRegAddr n off) r
  | none => 0

/-- Clears the read-clear fields of a register after a read (R12). -/
def Dev.readClear (d : Dev) (a : Nat) (r : RegAt) : Dev :=
  (r.fields.filter fun f => f.acc == .rc).foldl (fun d f => d.set ⟨a, f.hi, f.lo, f.rst⟩ 0) d

/-- The trap of a load at an offset, if any (R11, R95, R96, R239). -/
def Dev.loadTrap (d : Dev) (n off w : Nat) : Option Nat :=
  if off % w ≠ 0 then some trMisaligned
  else
    match winRange off w with
    | .none => some trUnmapped
    | .regs => if tileRegOk n off w then none else some trUnmapped
    | .scratch => if (d.tile n).rangeOn off w then none else some trUnmapped
    | _ => none

/-- The trap of a store at an offset, if any (R11, R95, R96, R239, R253, R283). -/
def Dev.storeTrap (d : Dev) (n f off w : Nat) : Option Nat :=
  if off % w ≠ 0 then some trMisaligned
  else
    let t := d.tile n
    match winRange off w with
    | .none => some trUnmapped
    | .acc => none
    | .desc => none
    | .scratch =>
      if !t.rangeOn off w then some trUnmapped
      else if t.lineFull f (off / 256) || t.extLine (off / 256) then some trDenied
      else none
    | .regs => some (if w = 8 then trDenied else trUnmapped)
    | _ => some trDenied

/-- A load of `w` bytes into rd (R95, R96): in flight until LOAD_RETURN. -/
def Dev.load (d : Dev) (x : Iss) (rd ra : GReg) (imm : Imm) (w : Nat) (signed : Bool) : Dev :=
  d.issue x [ra.val] 1 fun d n f s st =>
    let off := effOffset st ra imm
    match d.loadTrap n off w with
    | some c => (d, .trap c (BitVec.ofNat 64 off))
    | none =>
      (d.modStrand n f s fun y =>
        let y := y.setReg rd.val (y.reg rd.val)
        { y with loads := y.loads ++ [{ rd := rd.val, off := off, width := w, signed := signed, seq := y.seq, got := none }],
                 seq := y.seq + 1 }, .next)

/-- A store of the low `w` bytes of gb (R96, R97): into the store buffer, or a wait with reason STORE. -/
def Dev.store (d : Dev) (x : Iss) (ra rb : GReg) (imm : Imm) (w : Nat) : Dev :=
  d.issue x [ra.val, rb.val] 1 fun d n f s st =>
    let off := effOffset st ra imm
    match d.storeTrap n f off w with
    | some c => (d, .trap c (BitVec.ofNat 64 off))
    | none =>
      if st.stores.length < 4 then
        (d.modStrand n f s fun y =>
          { y with stores := y.stores ++ [{ off := off, width := w, value := st.reg rb.val, seq := y.seq }], seq := y.seq + 1 }, .next)
      else enterWait d n f s .store (.store off w (st.reg rb.val))

/-- LD_B: ld.b and ld.bu (R96). -/
def execLdB (x : Iss) (rd ra : GReg) (imm : Imm) (zext : Bool) (s : State) := run (fun d => d.load x rd ra imm 1 (!zext)) s
/-- LD_H: ld.h and ld.hu (R96). -/
def execLdH (x : Iss) (rd ra : GReg) (imm : Imm) (zext : Bool) (s : State) := run (fun d => d.load x rd ra imm 2 (!zext)) s
/-- LD_W: ld.w and ld.wu (R96). -/
def execLdW (x : Iss) (rd ra : GReg) (imm : Imm) (zext : Bool) (s : State) := run (fun d => d.load x rd ra imm 4 (!zext)) s
/-- LD_D (R96). -/
def execLdD (x : Iss) (rd ra : GReg) (imm : Imm) (s : State) := run (fun d => d.load x rd ra imm 8 true) s
/-- ST_B (R96). -/
def execStB (x : Iss) (ra rb : GReg) (imm : Imm) (s : State) := run (fun d => d.store x ra rb imm 1) s
/-- ST_H (R96). -/
def execStH (x : Iss) (ra rb : GReg) (imm : Imm) (s : State) := run (fun d => d.store x ra rb imm 2) s
/-- ST_W (R96). -/
def execStW (x : Iss) (ra rb : GReg) (imm : Imm) (s : State) := run (fun d => d.store x ra rb imm 4) s
/-- ST_D (R96). -/
def execStD (x : Iss) (ra rb : GReg) (imm : Imm) (s : State) := run (fun d => d.store x ra rb imm 8) s

/-! ## The access of a load and of a store -/

/-- Two byte ranges overlap. -/
def overlaps (a n b m : Nat) : Bool := decide (a < b + m) && decide (b < a + n)

/-- Bytes with those of a store laid over them: `bs` starts at `off`. -/
def overlay (off : Nat) (bs : List Byte) (e : StoreEntry) : List Byte :=
  (List.range bs.length).map fun i =>
    let a := off + i
    if e.off ≤ a && a < e.off + e.width then BitVec.ofNat 8 (e.value.toNat / 256 ^ (a - e.off)) else bs.getD i 0

/-- What a load in flight returns (R97): the bytes as they stand, under the strand's earlier stores. -/
def Dev.loadBytes (d : Dev) (n : Nat) (x : Strand) (l : LoadEntry) : List Byte :=
  match l.got with
  | some bs => bs
  | none =>
    let base := if winRegion l.off = .regs then leBytes 8 (d.tileRegValue n l.off) else (d.tile n).winRead l.off l.width
    (x.stores.filter fun e => e.seq < l.seq).foldl (overlay l.off) base

/-- The frond whose strand s has something in flight that `p` finds. -/
def Tile.frondWith (t : Tile) (s : Nat) (p : Strand → Bool) : Option Nat := (List.range 8).find? fun f => p (t.strand f s)

/-- The value a load writes (R96). -/
def loadValue (l : LoadEntry) (bs : List Byte) : Word :=
  let v := leNat bs
  if l.signed then BitVec.ofInt 64 (signedOf (8 * l.width) v) else BitVec.ofNat 64 v

/-- Removes the first element that `p` finds. -/
def dropFirst {α : Type} (p : α → Bool) : List α → List α
  | [] => []
  | x :: xs => if p x then xs else x :: dropFirst p xs

/-- LOAD_RETURN: the oldest load in flight to rd makes its access and writes its register (R95 to R97, R259). A corrected
error is counted; an uncorrectable one delivers nothing and is contained (R498). -/
def Dev.loadReturn (d : Dev) (n s rd : Nat) (ecc : Ecc) : Dev :=
  match (d.tile n).frondWith s fun x => x.loads.any fun l => l.rd == rd with
  | none => d
  | some f =>
    let x := (d.tile n).strand f s
    match x.loads.find? fun l => l.rd == rd with
    | none => d
    | some l =>
      let gone := d.modStrand n f s fun y => { y with loads := dropFirst (fun e => e.rd == rd) y.loads }
      let isReg := winRegion l.off == .regs
      -- a stopped frond's registers stay as they stood (R86)
      if d.stoppedF n f then gone
      else if (ecc == .uncorrectable || (l.got.isNone && (d.tile n).ueIn l.off l.width)) then gone.memUe n ((d.tile n).ueAddr l.off l.width) rdStrand f s
      else
        let d' := if ecc == .corrected then gone.corrected n l.off else gone
        let d' := match (if !isReg then none else findReg (tileRegAddr n l.off)) with
          | some r => d'.readClear (tileRegAddr n l.off) r
          | none => d'
        let bs := d.loadBytes n x l
        d'.modStrand n f s fun y =>
          if rd = 0 then y else { y with g := lset y.g rd (loadValue l bs) }

/-- LOAD_RETURN (R95). -/
def execLoadReturn (tile : TileId) (strand : StrandId) (rd : GReg) (ecc : Ecc) (s : State) :=
  run (fun d => d.loadReturn tile.val strand.val rd.val ecc) s

/-- A quarter takes a store that was issued before its change of power began (R240). -/
def Tile.storeOn (t : Tile) (off : Nat) : Bool :=
  match t.quarter (quarterOf off) with
  | .on => true
  | .leaving _ => true
  | _ => false

/-- Writes a store's bytes to the window, and notes a raw store into a line that became FULL (R253). -/
def Dev.storeWrite (d : Dev) (n f : Nat) (e : StoreEntry) : Dev :=
  let bs := leBytes e.width e.value.toNat
  match winRegion e.off with
  | .scratch =>
    if (d.tile n).storeOn e.off then
      let hit := (d.tile n).lineFull f (e.off / 256)
      let d := d.modTile n fun t =>
        { t with scratch := cwrite t.scratch e.off bs, bad := coveredWords t.bad e.off bs.length }
      if hit then d.add (TILE_SP_RAWHIT_V n) 1 else d
    else d
  | _ => d.modTile n fun t => t.winWrite e.off bs

/-- Writes the oldest store of a strand's buffer (R97): loads of the strand that were issued before it take their bytes
first. A merge that meets an uncorrectable error writes nothing and is contained (R238, R259). -/
def Dev.storeHead (d : Dev) (n f s : Nat) (ecc : Ecc) : Dev :=
  let x := (d.tile n).strand f s
  match x.stores with
  | [] => d
  | e :: rest =>
    let keep (l : LoadEntry) : LoadEntry :=
      if l.got.isNone && e.seq > l.seq && overlaps e.off e.width l.off l.width then { l with got := some (d.loadBytes n x l) } else l
    let d := d.modStrand n f s fun y => { y with loads := y.loads.map keep, stores := rest }
    let d :=
      if e.width < 8 && (ecc == .uncorrectable || (d.tile n).uePartial e.off e.width) then d.memUe n ((d.tile n).ueAddr e.off e.width) rdStrand f s
      else
        let d := if e.width < 8 && ecc == .corrected then d.corrected n e.off else d
        d.storeWrite n f e
    d.wakeStrand n f s

/-- Writes every store of a strand's buffer, as before a macro-instruction issues (R98, R106). `hit` says which of the merges meets `ecc`, if
one does (R259). -/
def Dev.flushStores (d : Dev) (n f s hit : Nat) (ecc : Ecc) : Nat → Dev
  | 0 => d
  | k + 1 =>
    let merge := (((d.tile n).strand f s).stores.head?.map fun e => decide (e.width < 8)).getD false
    (d.storeHead n f s (if merge && hit == 0 then ecc else .ok)).flushStores n f s (if merge then hit - 1 else hit) (if merge && hit == 0 then .ok else ecc) k

/-- STORE_BUFFER_WRITE (R97). -/
def execStoreBufferWrite (tile : TileId) (strand : StrandId) (ecc : Ecc) (s : State) :=
  run (fun d =>
    match (d.tile tile.val).frondWith strand.val fun x => !x.stores.isEmpty with
    | some f => d.storeHead tile.val f strand.val ecc
    | none => d) s

/-! ## Illegal words -/

/-- A scalar instruction word is not one that R90 to R103 define: a reserved opcode, a reserved FN, a value outside
its range or a non-zero field that the instruction does not use (R89). Words of the macro-instruction opcodes are
judged where they are issued; of them only the reserved opcodes and function codes (R148, R255, R381) count here. -/
def illegalWord (w : Nat) : Bool :=
  let op := w / 2 ^ 58
  let rd := bits w 53 49
  let ra := bits w 48 44
  let rb := bits w 43 39
  let fn := bits w 38 32
  let imm := w % 2 ^ 32
  let ok : Bool :=
    if op = 0x01 then fn ≤ 0x12 && (if fn = 0x12 then imm < 8 else imm == 0)
    else if op = 0x02 then fn ≤ 0x11 && rb == 0
    else if op = 0x03 then fn ≤ 5 && rd < 8 && imm == 0
    else if op = 0x04 then fn ≤ 5 && rd < 8 && rb == 0
    else if op = 0x05 then
      if fn ≤ 3 then rd < 8 && ra < 8 && rb < 8 && imm == 0
      else if fn = 4 then rd < 8 && rb == 0
      else fn == 5 && ra == 0 && rb == 0 && imm == 0
    else if op = 0x06 then fn ≤ 2 && rb == 0 && (fn == 2 || ra == 0)
    else if op = 0x08 then fn == 0 && rd == 0 && ra == 0 && rb == 0
    else if op = 0x09 then fn ≤ 1 && rb == 0 && (fn == 1 || ra == 0)
    else if op = 0x0C then fn ≤ 6 && rb == 0
    else if op = 0x0D then fn ≤ 3 && rd == 0
    else if op = 0x10 then
      match fn with
      | 1 => true
      | 3 => 1 ≤ imm && imm ≤ 56
      | 4 => rb == 0 && imm < 64
      | 5 => ra == 0 && rb == 0 && imm < 64
      | 6 => ra == 0 && rb == 0 && imm < 64
      | 7 => rd == 0 && ra == 0 && rb == 0 && imm < 64
      | 9 => rb == 0 && imm < 16
      | _ => fn ≤ 0xB && imm == 0
    else if op = 0x11 then
      match fn with
      | 0 => rb == 0 && imm < 32
      | 1 => ra == 0 && imm == 0
      | _ => fn ≤ 3 && ra == 0 && rb == 0 && imm < 32
    else if op = 0x12 then
      match fn with
      | 2 => imm == 0
      | 3 => rb == 0 && imm == 0
      | 4 => rd == 0 && rb == 0
      | _ => fn ≤ 1 && ra == 0 && rb == 0 && imm == 0
    else if op = 0x13 then
      match fn with
      | 3 => ra < 4 && rb == 0
      | 4 => rb == 0
      | 5 => rb == 0 && imm == 0
      | 6 => rd == 0 && ra == 0 && rb == 0
      | 7 => rd == 0 && ra == 0 && rb == 0 && imm ≤ 1
      | 8 => ra == 0 && rb == 0 && imm ≤ 8
      | 9 => rd == 0 && ra == 0 && rb == 0
      | 10 => ra < 4 && rb == 0 && imm == 0
      | _ => fn ≤ 2 && rd == 0 && ra == 0 && rb == 0 && imm == 0
    else if op = 0x21 then bits w 27 24 ≤ 2
    else if op = 0x2C then bits w 27 24 ≤ 3
    else if op = 0x2E then bits w 27 24 ≤ 4
    else [0x20, 0x24, 0x25, 0x27, 0x28, 0x2A, 0x2B].contains op
  !ok

/-- ILLEGAL: the strand issues a word that R89 makes illegal; if its guard holds it raises ILLEGAL with the word as
TVAL. -/
def execIllegal (tile : TileId) (strand : StrandId) (word : Word) (s : State) :=
  run (fun d =>
    if illegalWord word.toNat then
      d.issue ⟨tile, strand, ⟨bits word.toNat 57 55 % 8, Nat.mod_lt _ (by decide)⟩, bit word.toNat 54 == 1⟩ [] 1
        fun d _ _ _ _ => (d, .trap trIllegal word)
    else d) s

end Sys2Proof.Machine
end

