-- ==== Sys2Proof/Machine/RegOps.lean ====
section
/-! DEFINITION. What writes of registers share: credentials (R3, R5, R23), field access codes (R12 to R14), and the
completion of an access (R22). -/

namespace Sys2Proof.Machine

/-- Status SEALED (R14, R422). -/
def stSealed : Byte := 0x40
/-- Status UNCORRECTABLE (R422, R498). -/
def stUncorrectable : Byte := 0x41

/-- The completion of a direct access (R22). -/
def Dev.completed (d : Dev) (st : Byte) (v : Nat) : Dev := { d with bus := { status := st, value := BitVec.ofNat 64 v } }
/-- Ends a write command: its status is the access's completion. -/
def ended (r : Dev × Byte) : Dev := r.1.completed r.2 0

/-- A DMC_ register that answers BUSY while the management controller restarts (R547). -/
def Dev.dmcBusy (d : Dev) (a : Nat) : Bool :=
  d.is DMC_STATUS_RESTARTING && decide (0xFF0000000000 ≤ a) && decide (a < 0xFF0100000000) &&
  a != DMC_STATUS && a != DMC_DUTY_MAP && a != DMC_DUTY_STATE
/-- The credential reaches tile n: the owner's reaches every tile, a tenant's those of its partition (R23). -/
def Dev.reaches (d : Dev) (c : Cred) (n : Nat) : Bool :=
  match c with
  | .owner => true
  | .dmc => true
  | .tenant p => p != 0 && (d.tile n).part == p.val
  | .none => false
/-- The address lies in a tile window whose tile is held or being cleared (R262, R349). DESIGN CHOICE (log 32): the TILE_ alias of its
registers stays open, for R262 and R349 speak of the window. -/
def Dev.winShut (d : Dev) (a : Nat) : Bool := inWindows a && ((d.tile (winTile a)).held || (d.tile (winTile a)).clearing)

/-- An access with the owner's rights to partition p's data (R4, R447): EXPOSED, the time of the first, their count. -/
def Dev.expose (d : Dev) (p : Nat) : Dev :=
  if p = 0 then d
  else
    let d := if d.is (PART_P_STATE_EXPOSED p) then d
      else (d.flag (PART_P_STATE_EXPOSED p) true).set (PART_P_EXPTIME_V p) (packTime d.now)
    d.add (PART_P_STATE_EXPOSURES p) 1
/-- The credential has the owner's rights. -/
def isOwner : Cred → Bool
  | .owner => true
  | .dmc => true
  | _ => false
/-- Tile registers whose reading sets the exposure flag (R121, R265, R303), by offset in the register range. -/
def exposingReg (off : Nat) : Bool :=
  (0x10 ≤ off && off < 0x18) || (0x100 ≤ off && off < 0x300) || (0x1000 ≤ off && off < 0x1800) ||
  (0x2300 ≤ off && off < 0x2380) || (0x2C00 ≤ off && off < 0x2D80 && (0x2D00 ≤ off || off % 16 == 0)) ||
  (0x4000 ≤ off && off < 0x6000)

/-- A write that needs the owner credential; the management controller acts with it. -/
def ownerWr (c : Cred) (d : Dev) (k : Dev → Dev × Byte) : Dev × Byte :=
  match c with
  | .owner => k d
  | .dmc => k d
  | _ => (d, stDenied)

/-- A write that needs the owner credential or partition p's tenant credential. -/
def partWr (c : Cred) (p : Nat) (d : Dev) (k : Dev → Dev × Byte) : Dev × Byte :=
  match c with
  | .owner => k d
  | .dmc => k d
  | .tenant q => if q.val = p && p != 0 then k d else (d, stDenied)
  | .none => (d, stDenied)

/-- The field's bits of a value written to its register. -/
def RF.of (f : RF) (v : Nat) : Nat := bits v f.hi f.lo

/-- Writes an RW field as written. -/
def Dev.take (d : Dev) (f : RF) (v : Nat) : Dev := d.set f (f.of v)
/-- Writes an RW field if `ok` accepts its new value; otherwise it keeps its value. -/
def Dev.takeIf (d : Dev) (f : RF) (v : Nat) (ok : Nat → Bool) : Dev := if ok (f.of v) then d.take f v else d
/-- Clears the bits written as 1 of a W1C field. -/
def Dev.w1c (d : Dev) (f : RF) (v : Nat) : Dev :=
  d.set f ((List.range f.width).map fun i => if bit (f.of v) i = 1 then 0 else bit (d.get f) i * 2 ^ i).sum

/-- Writes an RWL field of partition p (R12, R14, R443): with p sealed it keeps its value, and a write that would change it
makes the access complete SEALED; while p is FREE or CLEARING it keeps its value. DESIGN CHOICE (log 32): a value that the field would
refuse in any case counts as one that would change it, where it differs from what the field holds. -/
def Dev.takeRwl (r : Dev × Byte) (p : Nat) (f : RF) (v : Nat) (ok : Nat → Bool) : Dev × Byte :=
  if f.of v = r.1.get f then r
  else if r.1.sealed p then (r.1, stSealed)
  else if p ≠ 0 && r.1.partState p != 1 then r
  else if ok (f.of v) then (r.1.take f v, r.2)
  else r

/-- A write that reaches only RWL fields of partition p: DENIED while p is FREE or CLEARING (R443). -/
def rwlOnly (p : Nat) (d : Dev) (k : Dev → Dev × Byte) : Dev × Byte :=
  if p ≠ 0 && (d.partState p == 0 || d.partState p == 3) then (d, stDenied) else k d

/-- A write of one field under its access code alone (R12, R13). -/
def Dev.writeField (r : Dev × Byte) (a p v : Nat) (f : Fld) : Dev × Byte :=
  let rf : RF := ⟨a, f.hi, f.lo, f.rst⟩
  match f.acc with
  | .rw => (r.1.take rf v, r.2)
  | .w1c => (r.1.w1c rf v, r.2)
  | .rwl => Dev.takeRwl r p rf v fun _ => true
  | _ => r

/-- A write of a register that has no effect beyond its fields; `p` is the partition that seals its RWL fields. -/
def Dev.writeFields (d : Dev) (a p v : Nat) (r : RegAt) : Dev × Byte :=
  r.fields.foldl (fun x f => Dev.writeField x a p v f) (d, stOk)

end Sys2Proof.Machine
end

