-- ==== Sys2Proof/Machine/Time.lean ====
section
/-! DEFINITION. Device time: its counts and quality (R43 to R47, R52, R53), what happens at a second boundary (R48 to
R51, R54, R490), and the passing of time up to the instant a command names (log 6). -/

namespace Sys2Proof.Machine

/-! ## Discipline state -/

/-- Time discipline states (TIME_STATUS.STATE). -/
def tdFree : Nat := 0
def tdAcquire : Nat := 1
def tdLocked : Nat := 2
def tdHoldover : Nat := 3
/-- The state. -/
def Dev.tdState (d : Dev) : Nat := d.get TIME_STATUS_STATE
/-- The host steers (R54). -/
def Dev.hostSteers (d : Dev) : Bool := d.duty 8

/-- TIME_STATUS.QUALITY (R53). -/
def Dev.quality (d : Dev) : Nat :=
  if d.time.exhausted then 6
  else if !d.time.setEver then 0
  else if d.tdState = tdFree || decide (1050000 < d.get TIME_STATUS_ERR_BOUND) then 5
  else if d.tdState = tdHoldover then 4
  else if d.tdState = tdAcquire then 3
  else if d.hostSteers then 2
  else 1
/-- Brings QUALITY up to date; a change sends CAPS on every open PEER context (R435). -/
def Dev.requality (d : Dev) : Dev :=
  if d.get TIME_STATUS_QUALITY = d.quality then d else (d.set TIME_STATUS_QUALITY d.quality).capsAll

/-- Enters a discipline state (R51, R52). DESIGN CHOICE (log 30): ERR_BOUND keeps its holdover value in ACQUIRE and FREE, until
LOCKED or the next HOLDOVER sets it. -/
def Dev.tdEnter (d : Dev) (st : Nat) : Dev :=
  let d := { d with time := { d.time with inRow := 0 } }
  let d := d.set TIME_STATUS_STATE st
  if st = tdLocked then (d.flag TIME_EVENTS_LOCK true).set TIME_STATUS_ERR_BOUND 2
  else if st = tdHoldover then
    ((d.flag TIME_EVENTS_HOLDOVER true).set TIME_HOLD_HOLD_SECONDS 0).set TIME_STATUS_ERR_BOUND 2
  else if st = tdAcquire then d.set TIME_HOLD_HOLD_SECONDS 0
  else d

/-- A missing pulse, or a second without a host's write (R49, R51, R54). -/
def Dev.pulseMissing (d : Dev) : Dev :=
  let k := min 3 (d.get TIME_STATUS_MISSED + 1)
  let d := d.set TIME_STATUS_MISSED k
  let d := { d with time := { d.time with inRow := 0 } }
  if k < 3 then d
  else if d.tdState = tdLocked then d.tdEnter tdHoldover
  else if d.tdState = tdAcquire then d.tdEnter tdFree
  else d

/-- One second of ACQUIRE with phase within 2 cycles, or with a host's write (R51): the second in a row locks. -/
def Dev.pulseGood (d : Dev) : Dev :=
  if d.tdState = tdAcquire then
    let k := d.time.inRow + 1
    if 2 ≤ k then d.tdEnter tdLocked else { d with time := { d.time with inRow := k } }
  else d

/-- Cycles of offset that a second of slewing removes (R50). -/
def slewRate (steer : Int) : Nat := (2625000 - 105 * steer.natAbs) / 100
/-- The steering value in use. -/
def Dev.steer (d : Dev) : Int := signedOf 32 (d.get TIME_STEER_STEER)
/-- The offset that remains after one more second of slewing. -/
def slewStep (rate : Nat) (o : Int) : Int :=
  if o.natAbs ≤ rate then 0 else if 0 < o then o - rate else o + rate

/-- The port is a locked PTP port (R55). DESIGN CHOICE (log 30): the age of the latest Sync is counted in device time, across a
TIME_SET too. -/
def Dev.ptpLocked (d : Dev) (port : Nat) : Bool :=
  d.get TIME_CTRL_PTP_PORT == port && decide (port < 18) && d.get (ETH_P_STATUS_STATE port) == 4 &&
  d.is (ETH_P_CTRL_PTP_EN port) && d.is TIME_CTRL_PTP_LOCK &&
  (match d.time.syncs.find? fun e => e.1 == port with
   | some e => decide (d.now ≤ e.2.at_ + 2 * secLen)
   | none => false)
/-- Clears PTP_LOCK when the port is no longer UP with PTP enabled, or no Sync came for 2 s (R55). -/
def Dev.ptpCheck (d : Dev) : Dev :=
  let port := d.get TIME_CTRL_PTP_PORT
  if d.is TIME_CTRL_PTP_LOCK && !d.ptpLocked port then
    (d.flag TIME_CTRL_PTP_LOCK false).flag TIME_EVENTS_PTP_UNLOCK true
  else d

/-! ## The second boundary -/

/-- The second that an armed TIME_SET gives at cycle 0, which ends second `s`; none where it is refused (R45, R46,
R55, R78). DESIGN CHOICE (log 30): a reserved SOURCE is refused, and so is a set from PTP while the latest Sync is a two-step
one whose Follow_Up has not come. -/
def Dev.setSecond (d : Dev) (s : Nat) : Option Nat :=
  if d.anyInService then none
  else
    match d.get TIME_SET_SOURCE with
    | 0 => some (d.get TIME_SET_SECOND)
    | 1 =>
      let port := d.get TIME_CTRL_PTP_PORT
      match d.time.syncs.find? fun e => e.1 == port with
      | some e => if d.ptpLocked port && e.2.at_ / secLen == s then e.2.origin.map (fun o => (o + 1) % 2 ^ 32) else none
      | none => none
    | _ => none

/-- A record of class CORRECTED_RATE for a source (R490). -/
def Dev.rateRecord (d : Dev) (tile : Option Nat) (unit count : Nat) (advised : Bool) : Dev :=
  d.log { cls := 3, sev := 1, part := (match tile with | some n => (d.tile n).part | none => 0), tile := tile, unit := unit,
          count := count, action := if !advised && d.rises 1 then 16 else 0, detail := leBytes 4 count ++ leBytes 4 (d.get SPR_CFG_CE_LIMIT) }

/-- The end of a second for the corrected-error counts (R490). -/
def Dev.rateCheck (d : Dev) : Dev :=
  let lim := d.get SPR_CFG_CE_LIMIT
  let hot := d.tiles.filter fun t => decide (lim < t.2.ceSecond)
  let d := hot.foldl (fun d t => (d.rateRecord (some t.1) 0 t.2.ceSecond (d.is (SPR_T_HEALTH_ADVISED t.1))).adviseTile t.1) d
  let units := d.mem.ceSecond.filter fun e => decide (lim < e.2)
  let d := units.foldl (fun d e => (d.rateRecord none (if e.1 < 12 then 9 else 10) e.2 (d.mem.advised.contains e.1)).adviseUnit e.1) d
  { d with tiles := d.tiles.map fun t => (t.1, { t.2 with ceSecond := 0 }), mem := { d.mem with ceSecond := [] } }

/-- Counts kept for one second of device time start again (R321, R404, R494, R506). -/
def Dev.perSecond (d : Dev) : Dev :=
  { d with
    routers := d.routers.map fun r => (r.1, { r.2 with outs := r.2.outs.map fun c => (c.1, { c.2 with logged := false, count := 0 }) })
    ports := d.ports.map fun p => (p.1, { p.2 with fecSecond := 0 })
    scrub := { d.scrub with walkers := d.scrub.walkers.map fun w => (w.1, { w.2 with resetsSecond := 0 }) }
    spare := { d.spare with laneReplays := [] }
    mem := { d.mem with sideReplays := [] } }

/-- TIME_DISCIPLINE changes take effect at a second boundary (R32, R51). Under host steering the device corrects no phase by itself,
so a slew under way ends (R54). -/
def Dev.steerDuty (d : Dev) : Dev :=
  match d.dmcPend.find? fun e => e.1 == 8 with
  | none => d
  | some e =>
    let d := d.set DMC_DUTY_STATE_EFFECTIVE (setBits (d.get DMC_DUTY_STATE_EFFECTIVE) 8 8 (boolBit e.2))
    let d := d.set DMC_DUTY_STATE_PENDING (setBits (d.get DMC_DUTY_STATE_PENDING) 8 8 0)
    let t := if e.2 then { d.time with handover := true, slew := 0, slewAhead := false } else { d.time with handover := false }
    { d with dmcPend := d.dmcPend.filter fun x => x.1 != 8, time := t }

/-- Host steering at the end of a second (R51, R54). At the handover a holdover that is under way goes on. DESIGN CHOICE (log 30): a
second without a write counts as a missing pulse and sets no PPS_MISSED event. -/
def Dev.hostSecond (d : Dev) : Dev :=
  if !d.hostSteers then d
  else if d.time.handover then
    let d := { d with time := { d.time with handover := false } }
    if d.time.steered then (d.set TIME_STATUS_MISSED 0).tdEnter tdLocked else if d.tdState = tdHoldover then d else d.tdEnter tdHoldover
  else if d.time.steered then (d.set TIME_STATUS_MISSED 0).pulseGood
  else d.pulseMissing

/-- What is left to slew at the cycle 0 that comes next: an offset measured against it is left whole, any other has had a
second of slewing under the correction in force (R49, R50). -/
def Dev.slewLeft (d : Dev) : Int := if d.time.slewAhead then d.time.slew else slewStep (slewRate d.steer) d.time.slew

/-- The slew at the second that begins, and the correction written for it (R48, R50, R54). -/
def Dev.secondSlew (d : Dev) : Dev :=
  let slew := d.slewLeft
  let d := match d.time.steerNext with
    | some v => d.set TIME_STEER_STEER (v % 2 ^ 32).toNat
    | none => d
  { d with time := { d.time with steerNext := none, steered := false, slew := slew, slewAhead := false } }

/-- The second an armed TIME_SET gives the next pulse, after second `s` (R45). -/
def Dev.secondNext (d : Dev) (s : Nat) : Option Nat := if d.is TIME_SET_ARM then d.setSecond s else none

/-- An armed TIME_SET is applied or refused at the pulse (R45). -/
def Dev.secondArmed (d : Dev) (next : Option Nat) : Dev :=
  if d.is TIME_SET_ARM then
    (match next with
     | some _ =>
       let d := (d.flag TIME_SET_ARM false).flag TIME_EVENTS_SET_APPLIED true
       { d with time := { d.time with setEver := true } }
     | none => (d.flag TIME_SET_ARM false).flag TIME_EVENTS_SET_REFUSED true)
  else d

/-- The warning before the count is exhausted (R47). DESIGN CHOICE (log 30): it is given as the count reaches 0xFFFF_FF00, and a
TIME_SET to a later second gives none. -/
def Dev.secondWarn (d : Dev) : Dev :=
  if d.now / secLen = 0xFFFFFF00 then d.flag TIME_EVENTS_EXHAUST_WARN true else d

/-- One more whole second of a holdover that had begun before this cycle 0 (R51, R52). DESIGN CHOICE (log 30): ERR_BOUND wraps at
2^32. -/
def Dev.secondHold (d : Dev) (held : Bool) : Dev :=
  if held && d.tdState = tdHoldover then
    let h := d.get TIME_HOLD_HOLD_SECONDS + 1
    (d.set TIME_HOLD_HOLD_SECONDS h).set TIME_STATUS_ERR_BOUND (2 + ceilDiv (105 * d.get TIME_CTRL_HOLD_PPB * h) 100)
  else d

/-- The rising edge of the pulse output (R56). -/
def Dev.secondPps (d : Dev) : Dev :=
  if d.is TIME_CTRL_PPS_OUT_EN then { d with time := { d.time with ppsOut := true, ppsRose := d.tick } } else d

/-- Cycle 0 (R45, R47, R48, R51, R52, R54, R56, R490): device time stands at the last cycle of second `s` and the next
second begins. -/
def Dev.secondBegin (d : Dev) (s : Nat) : Dev :=
  let held := d.tdState == tdHoldover
  let d := d.rateCheck.perSecond.hostSecond.secondSlew
  let next := d.secondNext s
  let t := next.getD (s + 1)
  let d := d.secondArmed next
  let d : Dev := { d with now := t * secLen, time := { d.time with edgeFor := if d.time.edgeFor = s + 2 then t + 1 else d.time.edgeFor } }
  (d.secondWarn.steerDuty.secondHold held).secondPps.ptpCheck.requality

/-- The last second of device time (R47). -/
def lastSecond : Nat := 2 ^ 32 - 1

/-- The count of device time stops (R47). An armed TIME_SET still applies, since no cycle 0 follows. -/
def Dev.exhaust (d : Dev) : Dev :=
  ({ d with now := lastTime, time := { d.time with exhausted := true } } : Dev).requality

/-- Device time moves on to the start of the next second. -/
def Dev.toSecond (d : Dev) : Dev :=
  let s := d.now / secLen
  if d.time.exhausted then d
  else if s = lastSecond then { d with tick := d.tick + (lastTime - d.now) }.exhaust
  else
    let step := (s + 1) * secLen - d.now
    ({ d with tick := d.tick + step, now := s * secLen + (secLen - 1) } : Dev).secondBegin s

/-- `k` second boundaries pass. -/
def Dev.seconds (d : Dev) : Nat → Dev
  | 0 => d
  | k + 1 => d.toSecond.seconds k

/-- The fences that the owner ordered in this cycle take effect as the next begins (R500). -/
def Dev.fenceDue (d : Dev) : Dev :=
  d.spare.fenceNext.foldl (fun d n => d.fence n 5) { d with spare := { d.spare with fenceNext := [] } }
/-- `n` array cycles pass, with every second boundary among them. Where the last second of device time is reached its
count stops (R47). -/
def Dev.passCycles (d : Dev) (n : Nat) : Dev :=
  let d := if n = 0 || d.spare.fenceNext.isEmpty then d else d.fenceDue
  if d.time.exhausted then { d with tick := d.tick + n }
  else
    let t1 := d.tick + n
    let c := d.now % secLen + n
    let d := d.seconds (c / secLen)
    if d.time.exhausted then { d with tick := t1 }
    else
      let d : Dev := { d with tick := t1, now := d.now / secLen * secLen + c % secLen }
      if d.now = lastTime then d.exhaust else d

/-- Time passes up to tick `t`, if it is still to come. -/
def Dev.toTick (d : Dev) (t : Nat) : Dev := if d.tick < t then d.passCycles (t - d.tick) else d
/-- Time passes up to device time `t`, if it is still to come. -/
def Dev.toTime (d : Dev) (t : Nat) : Dev := if d.now < t then d.passCycles (t - d.now) else d

end Sys2Proof.Machine
end

