-- ==== Sys2Proof/Machine/Qu.lean ====
section
/-! DEFINITION. The queue, splice and tally instructions (R100, R266 to R293, R300, R302). -/

namespace Sys2Proof.Machine

/-! ## Routes that instructions name -/

/-- Route types (R267). -/
def rtQueue : Nat := 1
def rtSplice : Nat := 2
def rtHitch : Nat := 3
def rtTally : Nat := 4

/-- The route entry that a route word names, none where R268 gives DENIED. -/
def Dev.routeFor (d : Dev) (n f : Nat) (w : Word) (type : Nat) : Option Route :=
  let r := (d.tile n).route f (rwEntry w)
  if rwClean w (type == rtQueue) && r.type == type then some r else none

/-- The bytes of a payload lie in scratchpad quarters that are ON (R239, R275). -/
def Dev.inScratch (d : Dev) (n off len : Nat) : Bool :=
  decide (winRange off len = .scratch) && (d.tile n).rangeOn off len

/-- What a send form does without credit (R276). -/
inductive NoCredit where
  | wait
  | waitFor (cycles : Nat)
  | full
  deriving DecidableEq, Repr

/-- A send of `len` bytes at ga along the route word gb (R268, R269, R275, R276). The checks come in the order of the
text: alignment, the route word, the route's state, the payload's place, an error in the payload, the credit. -/
def Dev.send (d : Dev) (n f s : Nat) (st : Strand) (kind : SendKind) (rd ra rb : GReg) (len align : Nat) (ecc : Ecc) (nc : NoCredit) :
    Dev × Flow :=
  let off := (st.reg ra.val).toNat
  let w := st.reg rb.val
  let e := rwEntry w
  if off % align ≠ 0 then (d, .trap trMisaligned (st.reg ra.val))
  else
    match d.routeFor n f w (if kind = .splice then rtSplice else rtQueue) with
    | none => putStatus d n f s rd.val (stWord stDenied) stDenied
    | some r =>
      let (code, c) := routeStatus r.st
      if r.st ≠ .open_ then putStatus (d.msgCount n c 1) n f s rd.val (stWord code) code
      else if !d.inScratch n off len then putStatus d n f s rd.val (stWord stUnmapped) stUnmapped
      else
       match d.eccRead n off len rdMessaging f s ecc with
       | (d, none) => (d, .next)
       | (d, some data) =>
        if 0 < r.credit && r.waiters.isEmpty then
          putStatus (d.strandSend n f s kind data len e (rwUser w)) n f s rd.val (stWord stOk) stOk
        else
          let hold (limit : Option Nat) : Dev × Flow :=
            enterWait (d.modRoute n f e fun r => { r with waiters := r.waiters ++ [.strand s] }) n f s .send
              (.send kind rd.val data len e (rwUser w) limit)
          match nc with
          | .wait => hold none
          | .waitFor k => if k = 0 then putStatus d n f s rd.val (stWord stTimeout) stTimeout else hold (some (d.tick + k))
          | .full => putStatus d n f s rd.val (stWord stFull) stFull

/-- QU_SEND (R100, R276). -/
def execQuSend (x : IssRead) (rd ra rb : GReg) (s : State) :=
  run (fun d => d.issue x.toIss [ra.val, rb.val] 1 <| slowly 21 fun d n f s st => d.send n f s st .full rd ra rb 64 64 x.ecc .wait) s
/-- QU_SENDT (R100, R276): at most IMM cycles. -/
def execQuSendt (x : IssRead) (rd ra rb : GReg) (imm : Imm) (s : State) :=
  run (fun d => d.issue x.toIss [ra.val, rb.val] 1 <| slowly 21 fun d n f s st => d.send n f s st .full rd ra rb 64 64 x.ecc (.waitFor imm.toNat)) s
/-- QU_SENDN (R100, R276). -/
def execQuSendn (x : IssRead) (rd ra rb : GReg) (s : State) :=
  run (fun d => d.issue x.toIss [ra.val, rb.val] 1 <| slowly 21 fun d n f s st => d.send n f s st .full rd ra rb 64 64 x.ecc .full) s
/-- QU_SENDL (R100, R118, R275). -/
def execQuSendl (x : IssRead) (rd ra rb : GReg) (imm : Imm) (s : State) :=
  run (fun d => d.issue x.toIss [ra.val, rb.val] 1 <| slowly 19 fun d n f s st =>
    let word := scalarWord x.toIss 0x10 rd.val ra.val rb.val 3 imm
    if imm.toNat = 0 || 56 < imm.toNat then (d, .trap trIllegal word)
    else if d.px64 n f then (d, .trap trClass word)
    else d.send n f s st .light rd ra rb imm.toNat 8 x.ecc .wait) s
/-- QU_SPC (R100, R291). -/
def execQuSpc (x : IssRead) (rd ra rb : GReg) (s : State) :=
  run (fun d => d.issue x.toIss [ra.val, rb.val] 1 <| slowly 21 fun d n f s st => d.send n f s st .splice rd ra rb 256 256 x.ecc .wait) s

/-- SEND_TIMEOUT: a qu.sendt that has waited IMM cycles ends with TIMEOUT (R276). -/
def Dev.sendTimeout (d : Dev) (n s : Nat) : Dev :=
  match (d.tile n).frondWith s fun x => match x.op with | .send _ _ _ _ _ _ (some _) => true | _ => false with
  | none => d
  | some f =>
    match ((d.tile n).strand f s).op with
    | .send _ rd _ _ e _ (some limit) =>
      let d := d.toTick limit
      if d.stoppedF n f then d
      else (d.modRoute n f e fun r => { r with waiters := r.waiters.filter (· != .strand s) }).finish n f s rd (stWord stTimeout) stTimeout
    | _ => d
/-- SEND_TIMEOUT (R276). -/
def execSendTimeout (tile : TileId) (strand : StrandId) (s : State) := run (fun d => d.sendTimeout tile.val strand.val) s

/-! ## Receiving -/

/-- A queue's oldest entry of frond f, whose bytes are `bs`, leaves to the scratchpad at `off`, and its credit returns
(R274, R278). -/
def Dev.takeEntry (d : Dev) (n q off : Nat) (e : SlotEntry) (bs : List Byte) : Dev :=
  let d := (d.modTile n fun t => t.winWrite off bs).dueRepairs n
  let d := d.modQueue n q fun x => { x with slots := x.slots.filter (fun y => y.slot != e.slot), lastRecv := mset x.lastRecv e.frond d.tick }
  (d.notify n e.credit (.credit 1)).feedAll (d.tile n).part

/-- QU_RECV (R100, R278, R280). -/
def execQuRecv (x : IssRead) (rd ra : GReg) (q : Fin 64) (s : State) :=
  runM (fun d => d.issue x.toIss [ra.val] 1 <| slowly 21 fun d n f s st =>
    let off := (st.reg ra.val).toNat
    let qu := (d.tile n).queue q.val
    let put (d : Dev) (st : Byte) := putStatus d n f s rd.val (stWord st) st
    if off % 64 ≠ 0 then (d, .trap trMisaligned (st.reg ra.val))
    else if !qu.readBy f then put d stDenied
    else if !d.inScratch n off 64 then put d stUnmapped
    else if qu.closedFor f then put d stClosed
    else
      match qu.oldest f with
      | none => put d stEmpty
      | some e =>
        match d.eccRead n (slotOff q.val e.slot) 64 rdMessaging f s x.ecc with
        | (d, none) => (d, .next)
        | (d, some bs) => putStatus (d.takeEntry n q.val off e bs) n f s rd.val e.tag stOk) s

/-- QU_POLL (R100, R279, R280). -/
def execQuPoll (x : Iss) (rd : GReg) (q : Fin 64) (s : State) :=
  run (fun d => d.issue x [] 1 <| slowly 2 fun d n f s _ =>
    let qu := (d.tile n).queue q.val
    if !qu.readBy f then putStatus d n f s rd.val (stWord stDenied) stDenied
    else
      let st := qu.status f
      if st ≠ stEmpty then putStatus d n f s rd.val (qu.word f st) st
      else enterWait d n f s .poll (.poll rd.val q.val qu.epoch)) s

/-- QU_STAT (R100, R279, R280). -/
def execQuStat (x : Iss) (rd : GReg) (q : Fin 64) (s : State) :=
  run (fun d => d.issue x [] 1 <| slowly 2 fun d n f s _ =>
    let qu := (d.tile n).queue q.val
    putStatus d n f s rd.val (qu.word f (qu.status f)) (qu.status f)) s

/-- QU_CLOSE (R100, R280, R284). -/
def execQuClose (x : Iss) (q : Fin 64) (s : State) :=
  run (fun d => d.issue x [] 1 fun d n f s _ =>
    if !((d.tile n).queue q.val).readBy f then putStatus d n f s 0 0 stDenied
    else putStatus ((d.closeQueue n q.val f).feedAll (d.tile n).part) n f s 0 0 stOk) s

/-! ## Splices -/

/-- Window offset of the entry of splice s for sequence number k (R290). -/
def spliceOff (s k : Nat) : Nat := 0x1990000 + s * 0x2000 + k % 32 * 0x100

/-- Credits of splice s go out: one flit on its credit tree to its contributors on the device, and a credit item to
each remote grant that is not revoked (R293, R415). -/
def Dev.spliceCredits (d : Dev) (n s : Nat) : Dev :=
  let sp := (d.tile n).splice s
  let tr := d.tree sp.ctree
  let d :=
    if tr.leaves.isEmpty then d
    else d.inject n { (d.mkFlit n .c sp.frond 0 sp.ctree 0 (.spliceCredit s)) with seq := sp.head, mcast := true, dests := tr.leaves }
  (sp.remotes.filter fun g => !g.revoked && !g.withdrawn).foldl (fun d g => d.notify n g.writer (.credit 1)) d

/-- The head entry of a splice, whose bytes are `bs`, leaves to the scratchpad at `off` (R293). -/
def Dev.takeSplice (d : Dev) (n s off : Nat) (bs : List Byte) : Dev :=
  let h := ((d.tile n).splice s).head
  let so := spliceOff s h
  let d := (d.modTile n fun t => { t.winWrite off bs with smem := cclear t.smem so (so + 256) }).dueRepairs n
  let d := d.modTile n fun t => t.modSplice s fun x => { x with entries := mdel x.entries h, head := (h + 1) % 2 ^ 16 }
  d.spliceCredits n s

/-- QU_SPRD (R100, R293). -/
def execQuSprd (x : IssRead) (rd ra : GReg) (sp : Fin 16) (s : State) :=
  runM (fun d => d.issue x.toIss [ra.val] 1 <| slowly 21 fun d n f s st =>
    let off := (st.reg ra.val).toNat
    let y := (d.tile n).splice sp.val
    let put (d : Dev) (st : Byte) := putStatus d n f s rd.val (stWord st) st
    if off % 256 ≠ 0 then (d, .trap trMisaligned (st.reg ra.val))
    else if !y.valid || y.frond ≠ f then put d stDenied
    else if !d.inScratch n off 256 then put d stUnmapped
    else if !(mget y.entries SpliceEntry.init y.head).done then put d stEmpty
    else
      match d.eccRead n (spliceOff sp.val y.head) 256 rdMessaging f s x.ecc with
      | (d, none) => (d, .next)
      | (d, some bs) => put (d.takeSplice n sp.val off bs) stOk) s

/-! ## Tallies -/

/-- A tally request goes to the tally's home tile and the strand waits for its reply (R300). A failed one writes 0. -/
def Dev.tallyOp (d : Dev) (n f s : Nat) (st : Strand) (rd ra rb : GReg) (isSet : Bool) : Dev × Flow :=
  let w := st.reg rb.val
  match d.routeFor n f w rtTally with
  | none => putStatus d n f s rd.val 0 stDenied
  | some r =>
    let (code, _) := routeStatus r.st
    if r.st ≠ .open_ then putStatus d n f s rd.val 0 code
    else if isSet && r.dest ≠ n then putStatus d n f s rd.val 0 stDenied
    else
      let d := d.sendFlit n .c f s r.dest 0 (.tally isSet r.index (st.reg ra.val) (s + 8 * rd.val))
      enterWait d n f s .tally (.tally rd.val isSet r.dest)

/-- QU_TADD (R100, R300, R302). -/
def execQuTadd (x : Iss) (rd ra rb : GReg) (s : State) :=
  run (fun d => d.issue x [ra.val, rb.val] 1 <| slowly 2 fun d n f s st => d.tallyOp n f s st rd ra rb false) s
/-- QU_TSET (R100, R300, R302). -/
def execQuTset (x : Iss) (rd ra rb : GReg) (s : State) :=
  run (fun d => d.issue x [ra.val, rb.val] 1 <| slowly 2 fun d n f s st => d.tallyOp n f s st rd ra rb true) s

end Sys2Proof.Machine
end

