-- ==== Sys2Proof/Machine/Hi.lean ====
section
/-! DEFINITION. The hitch instructions (R101, R296 to R299) and the time instructions (R57, R102). -/

namespace Sys2Proof.Machine

/-! ## Hitches -/

/-- The word of a hitch instruction. -/
def hiWord (x : Iss) (rd ra fn : Nat) (h : BitVec 8) : Word := scalarWord x 0x11 rd ra 0 fn (h.zeroExtend 32)

/-- HI_ARM (R101, R298, R299): counting goes on at once, so a generation that is due completes. -/
def execHiArm (x : Iss) (rd ra : GReg) (h : BitVec 8) (s : State) :=
  run (fun d => d.issue x [ra.val] 1 <| slowly 2 fun d n f s st =>
    let k := h.toNat
    let put (d : Dev) (st : Byte) := putStatus d n f s rd.val (stWord st) st
    if 32 ≤ k then (d, .trap trIllegal (hiWord x rd.val ra.val 0 h))
    else if 65535 < (st.reg ra.val).toNat then put d stDenied
    else if ((d.tile n).hitch k).revoked then put d stRevoked
    else
      let hi := (d.tile n).hitch k
      let d := d.modTile n fun t => t.modHitch k fun y => { y with expect := (st.reg ra.val).toNat }
      let d := d.modStrand n f s fun y => { y with seen := mset y.seen k hi.gen }
      put (d.hitchRun n k hi.count) stOk) s

/-- A route leads to a fenced tile: its destination, or a leaf of its tree (R299). -/
def Dev.leadsFenced (d : Dev) (r : Route) : Bool :=
  !r.remote && (if r.mcast then (d.tree r.dest).leaves.any fun l => (d.tile l).fenced else (d.tile r.dest).fenced)

/-- One hitch token goes out over a route (R297, R320, R426). -/
def Dev.sendToken (d : Dev) (n f s : Nat) (r : Route) : Dev :=
  if r.remote then
    d.modTile n fun t => { t with railOut := t.railOut ++ [(r.peer, .hitch (r.dest % 256) r.index [(n, 1)])] }
  else
    let fl := d.mkFlit n .hitch f s r.dest 0 (.hitch r.index 1)
    d.inject n (if r.mcast then { fl with mcast := true, dests := (d.tree r.dest).leaves } else fl)

/-- HI_SIG (R101, R268, R297, R299). -/
def execHiSig (x : Iss) (rd rb : GReg) (s : State) :=
  run (fun d => d.issue x [rb.val] 1 <| slowly 4 fun d n f s st =>
    let put (d : Dev) (st : Byte) := putStatus d n f s rd.val (stWord st) st
    match d.routeFor n f (st.reg rb.val) rtHitch with
    | none => put d stDenied
    | some r =>
      if r.st = .revoked || d.leadsFenced r then put d stRevoked
      else put (d.sendToken n f s r) stOk) s

/-- HI_WAIT (R101, R298, R299). -/
def execHiWait (x : Iss) (rd : GReg) (h : BitVec 8) (s : State) :=
  run (fun d => d.issue x [] 1 <| slowly 2 fun d n f s st =>
    let k := h.toNat
    let hi := (d.tile n).hitch k
    if 32 ≤ k then (d, .trap trIllegal (hiWord x rd.val 0 2 h))
    else if hi.revoked then putStatus d n f s rd.val (BitVec.ofNat 64 hi.gen) stRevoked
    else if hi.gen ≠ st.seenGen k then
      putStatus (d.modStrand n f s fun y => { y with seen := mset y.seen k hi.gen }) n f s rd.val (BitVec.ofNat 64 hi.gen) stOk
    else enterWait d n f s .hitch (.hitch rd.val k)) s

/-- HI_GEN (R101, R118, R298). -/
def execHiGen (x : Iss) (rd : GReg) (h : BitVec 8) (s : State) :=
  run (fun d => d.issue x [] 1 <| slowly 2 fun d n f s _ =>
    let k := h.toNat
    let hi := (d.tile n).hitch k
    if 32 ≤ k then (d, .trap trIllegal (hiWord x rd.val 0 3 h))
    else if d.px64 n f then (d, .trap trClass (hiWord x rd.val 0 3 h))
    else putReg (d.modStrand n f s fun y => { y with seen := mset y.seen k hi.gen }) n f s rd.val (BitVec.ofNat 64 hi.gen)) s

/-! ## Time -/

/-- TM_NOW (R102). -/
def execTmNow (x : Iss) (rd : GReg) (s : State) :=
  run (fun d => d.issue x [] 1 <| slowly 4 fun d n f s _ => putReg d n f s rd.val (BitVec.ofNat 64 (packTime d.now))) s

/-- TM_CYC (R102): cycles since the tile's last reset. -/
def execTmCyc (x : Iss) (rd : GReg) (s : State) :=
  run (fun d => d.issue x [] 1 fun d n f s _ => putReg d n f s rd.val (BitVec.ofNat 64 (d.tick - (d.tile n).resetTick))) s

/-- A packed time plus cycles (R102). -/
def addTime (a b : Word) : Word :=
  let t := unpackTime a.toNat + b.toNat
  if a.toNat = noTime || lastTime < t then BitVec.ofNat 64 noTime else BitVec.ofNat 64 (packTime t)

/-- TM_ADD (R102, R118). -/
def execTmAdd (x : Iss) (rd ra rb : GReg) (s : State) :=
  run (fun d => d.issue x [ra.val, rb.val] 1 <| slowly 2 fun d n f s st =>
    if d.px64 n f then (d, .trap trClass (scalarWord x 0x12 rd.val ra.val rb.val 2 0))
    else putReg d n f s rd.val (addTime (st.reg ra.val) (st.reg rb.val))) s

/-- The device time that tm.at waits for. A cycle count past the end of its second is first reached at the next
second. -/
def targetTime (w : Nat) : Nat := w / 2 ^ 32 * secLen + min (w % 2 ^ 32) secLen

/-- TM_AT (R57, R102). -/
def execTmAt (x : Iss) (rd ra : GReg) (s : State) :=
  run (fun d => d.issue x [ra.val] 1 fun d n f s st =>
    let t := targetTime (st.reg ra.val).toNat
    if lastTime < t || (st.reg ra.val).toNat = noTime then putStatus d n f s rd.val (stWord stExhausted) stExhausted
    else if t ≤ d.now then putStatus d n f s rd.val (stWord stOk) stOk
    else enterWait d n f s .time (.timeAt rd.val t)) s

/-- TM_AT_EXPIRY: the target of a waiting tm.at comes (R57). -/
def execTmAtExpiry (tile : TileId) (strand : StrandId) (s : State) :=
  run (fun d =>
    let n := tile.val
    match (d.tile n).active with
    | none => d
    | some f =>
      match ((d.tile n).strand f strand.val).op with
      | .timeAt rd t => (d.toTime t).finish n f strand.val rd (stWord stOk) stOk
      | _ => d) s

/-- TM_WAIT (R102). -/
def execTmWait (x : Iss) (ra : GReg) (imm : Imm) (s : State) :=
  run (fun d => d.issue x [ra.val] 1 fun d n f s st =>
    let k := (st.reg ra.val).toNat + imm.toNat
    if k = 0 then (d, .next) else enterWait d n f s .time (.timeFor (d.tick + k))) s

/-- TM_WAIT_EXPIRY: the interval of a waiting tm.wait ends (R102). -/
def execTmWaitExpiry (tile : TileId) (strand : StrandId) (s : State) :=
  run (fun d =>
    let n := tile.val
    match (d.tile n).active with
    | none => d
    | some f =>
      match ((d.tile n).strand f strand.val).op with
      | .timeFor t => (d.toTick t).finishPlain n f strand.val
      | _ => d) s

end Sys2Proof.Machine
end

