-- ==== Sys2Proof/Machine/Sy.lean ====
section
/-! DEFINITION. The system instructions (R103) and the owner's hold of a tile's strands (R86, R121, R122). -/

namespace Sys2Proof.Machine

/-- SY_HALT (R103). -/
def execSyHalt (x : Iss) (s : State) :=
  run (fun d => d.issue x [] 1 fun d n f s _ => (d.modStrand n f s fun y => { y with st := .halt }, .next)) s

/-- SY_YIELD (R103): not ready for the next 8 cycles. -/
def execSyYield (x : Iss) (s : State) :=
  run (fun d => d.issue x [] 1 fun d n f s _ =>
    (d.modStrand n f s fun y => { y with yielding := true, yieldUntil := d.tick + 8 }, .next)) s

/-- SY_YIELD_EXPIRY: the 8 cycles have passed (R103). -/
def execSyYieldExpiry (tile : TileId) (strand : StrandId) (s : State) :=
  run (fun d =>
    match (d.tile tile.val).frondWith strand.val fun x => x.yielding with
    | none => d
    | some f =>
      let t := ((d.tile tile.val).strand f strand.val).yieldUntil
      (d.toTick t).modStrand tile.val f strand.val fun y => { y with yielding := false }) s

/-- SY_FENCE (R98, R103). -/
def execSyFence (x : Iss) (s : State) :=
  run (fun d => d.issue x [] 1 fun d n f s st =>
    if st.stores.isEmpty then (d, .next) else enterWait d n f s .fence .fence) s

/-- SY_WAIT (R103): rd and LAST_STATUS take the error field, which is then cleared. -/
def execSyWait (x : Iss) (rd : GReg) (k : Fin 4) (imm : Imm) (s : State) :=
  run (fun d => d.issue x [] 1 <| slowly 2 fun d n f s st =>
    let c := st.kcnt k.val
    if c.cnt ≤ imm.toNat then
      putStatus (d.modStrand n f s fun y => y.modK k.val fun c => { c with err := 0 }) n f s rd.val (stWord c.err) c.err
    else enterWait d n f s .completion (.completion rd.val k.val imm.toNat)) s

/-- The strand that ga names is one a PX64 frond does not see (R118). -/
def Dev.hidden (d : Dev) (n f k : Nat) : Bool := d.px64 n f && 4 ≤ k

/-- Strand k starts at an instruction (R86). Beyond instruction 8,191 it raises PC_RANGE (R94). -/
def Dev.startAt (d : Dev) (n f k : Nat) (imm : Imm) : Dev :=
  let go (pc : Nat) (y : Strand) : Strand :=
    { y with st := .ready, wait := .none, op := .none, yielding := false, atEnd := false, pc := BitVec.ofNat 13 pc }
  if imm.toNat ≤ 8191 then d.modStrand n f k (go imm.toNat)
  else (d.modStrand n f k (go 8191)).takeTrap n f k trPcRange 8191 (sext32 imm)

/-- Strand k shows DEBUG, which is none of the states that sy.start and sy.stop name (R86, R103). -/
def Dev.inDebug (d : Dev) (n k : Nat) : Bool := strandCode (d.tile n) k == 5

/-- SY_START (R103, R118). -/
def execSyStart (x : Iss) (rd ra : GReg) (imm : Imm) (s : State) :=
  run (fun d => d.issue x [ra.val] 1 <| slowly 2 fun d n f s st =>
    let k := (st.reg ra.val).toNat % 8
    let y := (d.tile n).strand f k
    if d.hidden n f k then (d, .trap trClass (scalarWord x 0x13 rd.val ra.val 0 4 imm))
    else if (y.st = .idle || y.st = .halt) && !d.inDebug n k then
      putStatus (d.startAt n f k imm) n f s rd.val (stWord stOk) stOk
    else putStatus d n f s rd.val (stWord stBusy) stBusy) s

/-- Puts strand k in HALT. A wait that has begun no operation is cancelled; a tally request in flight goes on, and its reply still
writes its register (R86). -/
def Dev.haltStrand (d : Dev) (n f k : Nat) : Dev :=
  let y := (d.tile n).strand f k
  let d := match y.op with
    | .send _ _ _ _ e _ _ => d.modRoute n f e fun r => { r with waiters := r.waiters.filter (fun w => w != Waiter.strand k) }
    | _ => d
  d.modStrand n f k fun y =>
    { y with st := .halt, wait := .none, op := .none
             late := match y.op with | .tally rd _ home => y.late ++ [(rd, home)] | _ => y.late }

/-- SY_STOP (R103, R118). -/
def execSyStop (x : Iss) (rd ra : GReg) (s : State) :=
  run (fun d => d.issue x [ra.val] 1 <| slowly 2 fun d n f s st =>
    let k := (st.reg ra.val).toNat % 8
    let y := (d.tile n).strand f k
    if d.hidden n f k then (d, .trap trClass (scalarWord x 0x13 rd.val ra.val 0 5 0))
    else if (y.st = .ready || y.st = .wait || y.st = .halt) && (k = s || !d.inDebug n k) then
      putStatus (d.haltStrand n f k) n f s rd.val (stWord stOk) stOk
    else putStatus d n f s rd.val (stWord stBusy) stBusy) s

/-- SY_TRAP (R103, R114): the trap SOFT. -/
def execSyTrap (x : Iss) (imm : Imm) (s : State) :=
  run (fun d => d.issue x [] 1 fun d _ _ _ _ => (d, .trap trSoft (sext32 imm))) s

/-- SY_RTE (R103, R115): INTRAP is cleared and the strand goes on at EPC, or past it. -/
def execSyRte (x : Iss) (imm : Imm) (s : State) :=
  run (fun d => d.issue x [] 1 fun d n f s st =>
    if !st.inTrap || 1 < imm.toNat then (d, .trap trIllegal (scalarWord x 0x13 0 0 0 7 imm))
    else (d.modStrand n f s fun y => { y with inTrap := false }, .resume st.epc.toNat imm.toNat)) s

/-- A core value of sy.csr (R103); none for any other IMM. -/
def Dev.csr (d : Dev) (n f s : Nat) (st : Strand) (k : Nat) : Option Nat :=
  match k with
  | 0 => some s
  | 1 => some f
  | 2 => some n
  | 3 => some (d.tile n).part
  | 4 => some ((d.tile n).frond f).cls
  | 5 => some 128
  | 6 => some 128
  | 7 => some d.power.frameDuty
  | 8 => some st.last.toNat
  | _ => none

/-- SY_CSR (R103). -/
def execSyCsr (x : Iss) (rd : GReg) (imm : Imm) (s : State) :=
  run (fun d => d.issue x [] 1 <| slowly 2 fun d n f s st =>
    match d.csr n f s st imm.toNat with
    | some v => putReg d n f s rd.val (BitVec.ofNat 64 v)
    | none => (d, .trap trIllegal (scalarWord x 0x13 rd.val 0 0 8 imm))) s

/-- SY_FAULT (R103, R114, R115): the trap PROGRAM, which no handler takes. -/
def execSyFault (x : Iss) (imm : Imm) (s : State) :=
  run (fun d => d.issue x [] 1 fun d _ _ _ _ => (d, .trap trProgram (sext32 imm))) s

/-- SY_KSTAT (R103, R118). -/
def execSyKstat (x : Iss) (rd : GReg) (k : Fin 4) (s : State) :=
  run (fun d => d.issue x [] 1 <| slowly 2 fun d n f s st =>
    if d.px64 n f then (d, .trap trClass (scalarWord x 0x13 rd.val k.val 0 10 0))
    else
      let c := st.kcnt k.val
      putReg d n f s rd.val (BitVec.ofNat 64 (c.cnt % 256 + c.err.toNat * 256))) s

/-! ## DEBUG -/

/-- A write of TILE_CORE_CTRL.HALT_REQ (R86). A write that changes it changes the state of every strand, which is an exposure (R4,
R121); one that does not leaves a step under way alone. -/
def Dev.haltReqWr (d : Dev) (c : Cred) (n : Nat) (set : Bool) : Dev × Byte :=
  ownerWr c d fun d =>
    if set == (d.tile n).haltReq then (d, stOk)
    else ((d.modTile n fun t => { t with haltReq := set, stepping := none }).expose (d.tile n).part, stOk)

/-- HALT_REQ (R86). -/
def execHaltReq (cred : Cred) (tile : TileId) (set : Bool) (s : State) := run (fun d => ended (d.haltReqWr cred tile.val set)) s

/-- A write of STEP, with STEP_STRAND (R4, R86, R121): a strand in DEBUG is let go for one instruction, which exposes the
partition; one that is not in DEBUG is left alone. DESIGN CHOICE (log 32): a step written while another strand's is still
under way takes its place, and that strand is in DEBUG again. -/
def Dev.stepWr (d : Dev) (c : Cred) (n k : Nat) : Dev × Byte :=
  ownerWr c d fun d =>
    let d := d.set (TILE_CORE_CTRL_STEP_STRAND n) k
    if d.inDebug n k then ((d.modTile n fun t => { t with stepping := some k }).expose (d.tile n).part, stOk) else (d, stOk)

/-- STEP (R86). -/
def execStep (cred : Cred) (tile : TileId) (strand : StrandId) (s : State) :=
  run (fun d => ended (d.stepWr cred tile.val strand.val)) s

/-- An owner's write of a general register of the active frond (R122). DESIGN CHOICE (log 32): the value written stands, and the result of a
load in flight for that register is dropped. -/
def Dev.gprWr (d : Dev) (c : Cred) (n k r : Nat) (v : Word) : Dev × Byte :=
  ownerWr c d fun d =>
    if strandCode (d.tile n) k = 5 then
      ((d.modStrand n (d.tile n).act k fun y => y.setReg r v).expose (d.tile n).part, stOk)
    else (d, stDenied)

/-- GPR_WRITE (R122). -/
def execGprWrite (cred : Cred) (tile : TileId) (strand : StrandId) (r : GReg) (value : Word) (s : State) :=
  run (fun d => ended (d.gprWr cred tile.val strand.val r.val value)) s

end Sys2Proof.Machine
end

