-- ==== Sys2Proof/Machine/Issue.lean ====
section
/-! DEFINITION. Issue of macro-instructions (R98, R104 to R108, R118): the words that raise ILLEGAL and CLASS, the copy
of descriptors and records, the checks, the issue queues, and the nineteen macro-instructions themselves. -/

namespace Sys2Proof.Machine

/-- The engine that executes a macro-instruction (R105, R381). -/
def engineOf (k : MacroKind) (spec : Nat) : EngineId :=
  match k with
  | .vxRun => .vx
  | .vxClose => .vx
  | .vxOpt => .vx
  | .dmGet => if bit spec 23 = 1 then .dma1 else .dma0
  | .dmPut => if bit spec 23 = 1 then .dma1 else .dma0
  | .dmMput => if bit spec 23 = 1 then .dma1 else .dma0
  | .dmMcopy => if bit spec 23 = 1 then .dma1 else .dma0
  | .spFill => .fc
  | .spCopy => .fc
  | .spBfill => .fc
  | .spBdrain => .fc
  | .spBreset => .fc
  | _ => .mx

/-- Major opcode (R134, R148, R182, R205, R223, R224, R255, R381). -/
def macroOp (k : MacroKind) : Nat :=
  match k with
  | .mmMm => 0x20
  | .mmZero => 0x21
  | .mmOut => 0x21
  | .mmSpl => 0x21
  | .mmF2 => 0x24
  | .mmAtt => 0x25
  | .mmWg => 0x27
  | .vxRun => 0x28
  | .vxClose => 0x2A
  | .vxOpt => 0x2B
  | .dmGet => 0x2C
  | .dmPut => 0x2C
  | .dmMput => 0x2C
  | .dmMcopy => 0x2C
  | _ => 0x2E

/-- An engine of a tile. -/
def Tile.engine (t : Tile) : EngineId → Engine
  | .mx => t.mx
  | .vx => t.vx
  | .dma0 => t.dma0
  | .dma1 => t.dma1
  | .fc => t.fc
/-- Replaces an engine of a tile. -/
def Tile.setEngine (t : Tile) (e : EngineId) (x : Engine) : Tile :=
  match e with
  | .mx => { t with mx := x }
  | .vx => { t with vx := x }
  | .dma0 => { t with dma0 := x }
  | .dma1 => { t with dma1 := x }
  | .fc => { t with fc := x }
/-- Entries of an issue queue (R105). -/
def engineCap : EngineId → Nat
  | .dma0 => 6
  | .dma1 => 6
  | _ => 4
/-- The queue is full: a macro-instruction holds its entry until it completes. -/
def Engine.full (x : Engine) (e : EngineId) : Bool := decide (engineCap e ≤ x.queue.length + x.run.length)

/-- Descriptor slots that a macro-instruction uses, as DA, DB, DC and DD. -/
def slotsUsed (k : MacroKind) (spec : Nat) (ws : List CWord) : Bool × Bool × Bool × Bool :=
  match k with
  | .mmMm => (true, true, true, false)
  | .mmWg => (true, true, true, false)
  | .mmZero => (true, false, false, false)
  | .mmSpl => (true, false, false, false)
  | .mmOut => (true, false, true, false)
  | .mmF2 => (true, true, true, true)
  | .mmAtt => (true, true, true, true)
  | .vxRun => (readsSrc ws 0, readsSrc ws 1, true, bit spec 20 == 1)
  | .vxClose => (false, false, false, false)
  | .vxOpt => (true, true, true, bits spec 27 24 == 0)
  | .spFill => (bit spec 20 == 1, false, true, false)
  | .spBfill => (false, false, false, false)
  | .spBdrain => (false, false, false, false)
  | .spBreset => (false, false, false, false)
  | _ => (true, false, true, false)

/-- The slot of a record that is copied with the descriptors (R184, R224). -/
def recSlot (k : MacroKind) (spec : Nat) : Option Nat :=
  match k with
  | .mmF2 => some (spec % 64)
  | .mmAtt => some (spec % 64)
  | .vxOpt => some (spec % 64)
  | _ => none

/-- SPEC raises ILLEGAL: a reserved value, or a bit that the function does not use. `b` is the bight that an sp.
operation names, for the active frond. -/
def specBad (k : MacroKind) (s : Nat) (b : Nat → Option Bight) : Bool :=
  let fn := bits s 27 24
  let low := s % 2 ^ 24
  let dm (c : Nat) : Bool := fn != c || bits s 22 12 != 0 || (c != 2 && bits s 11 0 != 0)
  let bg (c : Nat) (count : Bool) : Bool :=
    fn != c || bits s 23 20 != 0 || (!count && s % 2 ^ 16 != 0) ||
    (match b (bits s 19 16) with
     | some x => count && (s % 2 ^ 16 == 0 || decide (x.lines < s % 2 ^ 16))
     | none => true)
  let mm : Bool :=
    let out := bits s 27 26
    (out < 2 && (bits s 25 22 != 0 || bit s 21 != 0)) || (out != 3 && bits s 20 14 != 0)
  match k with
  | .mmMm => mm
  | .mmWg => mm
  | .mmZero => fn != 0 || low != 0
  | .mmOut => fn != 1 || low != 0
  | .mmSpl => fn != 2 || bits s 23 21 != 0 || bits s 13 0 != 0
  | .mmF2 => 0xC ≤ bits s 19 16 || bits s 15 12 == 0 || 4 < bits s 15 12
  | .mmAtt => bits s 19 16 != 0 || bits s 15 12 == 0 || 3 < bits s 15 12 || bit s 10 != 0
  | .vxRun => s % 2 ^ 20 != 0
  | .vxClose => bits s 27 19 != 0
  | .vxOpt => 1 < fn || bits s 23 6 != 0
  | .dmGet => dm 0
  | .dmPut => dm 1
  | .dmMput => dm 2
  | .dmMcopy => dm 3
  | .spFill => fn != 0 || bits s 23 21 != 0 || s % 2 ^ 20 != 0
  | .spCopy => fn != 1 || low != 0
  | .spBfill => bg 2 true
  | .spBdrain => bg 3 true
  | .spBreset => bg 4 false

/-- Marked PX256 only (R137, R183, R382). -/
def newOnly (k : MacroKind) (s : Nat) : Bool :=
  match k with
  | .mmMm => bits s 27 26 == 3 || bit s 21 == 1
  | .mmSpl => true
  | .mmF2 => rfBwd (bits s 19 16)
  | .mmAtt => true
  | .mmWg => true
  | .dmMput => true
  | .dmMcopy => true
  | _ => false

/-- The slots of an instruction with whether it uses each. -/
def slotList (m : Mac) (u : Bool × Bool × Bool × Bool) : List (Nat × Bool) :=
  [(m.da.val, u.1), (m.db.val, u.2.1), (m.dc.val, u.2.2.1), (m.dd.val, u.2.2.2)]

/-- The macro-instruction with its descriptors and record copied from the table (R106). -/
def Tile.copyMacro (t : Tile) (k : MacroKind) (f s : Nat) (m : Mac) (chain : List Word) : Macro :=
  let rd (slot : Nat) : Desc := parseDesc slot (cread t.desc (descOff slot) 64)
  let u := slotsUsed k m.spec.toNat (chain.map cword)
  let pick (b : Bool) (slot : Nat) : Desc := if b then rd slot else Desc.init
  { Macro.init with
    kind := k, frond := f, strand := s, k := m.k.val, spec := m.spec.toNat
    da := pick u.1 m.da.val, db := pick u.2.1 m.db.val, dc := pick u.2.2.1 m.dc.val, dd := pick u.2.2.2 m.dd.val
    record := match recSlot k m.spec.toNat with
      | some fs => cread t.desc (descOff fs) 64
      | none => []
    chain := chain }

/-- The first check that a macro-instruction fails, as TVAL. -/
def Dev.checkMacro (d : Dev) (n f : Nat) (m : Macro) : Option Nat :=
  let t := d.tile n
  match m.kind with
  | .mmMm => checkMm t f m
  | .mmWg => checkMm t f m
  | .mmZero => checkAcc t f m
  | .mmOut => checkAcc t f m
  | .mmSpl => checkAcc t f m
  | .mmF2 => checkFused t f m
  | .mmAtt => checkFused t f m
  | .vxRun => checkVx t f m
  | .vxClose => t.writeFail f 0 (m.spec % 2 ^ 19 * 64, (m.spec % 2 ^ 19 * 64 + 64 : Nat))
  | .vxOpt => checkOpt t f m
  | .dmGet => checkDm d t n f m
  | .dmPut => checkDm d t n f m
  | .dmMput => checkDm d t n f m
  | .dmMcopy => checkDm d t n f m
  | .spFill => checkSp t f m
  | .spCopy => checkSp t f m
  | _ => none

/-- Enters an engine's queue and counts in counter K (R105, R108). -/
def Dev.enqueue (d : Dev) (n : Nat) (e : EngineId) (m : Macro) : Dev :=
  let d := d.modTile n fun t => t.setEngine e { t.engine e with queue := (t.engine e).queue ++ [m] }
  d.modStrand n m.frond m.strand fun x => x.modK m.k fun c => { c with cnt := c.cnt + 1 }

/-- Slots whose copy meets an uncorrectable error (R117). -/
def Tile.badSlots (t : Tile) (slots : List Nat) : Option Nat := slots.find? fun s => t.ueIn (descOff s) 64

/-- Chain words after an instruction, from the frond store (R206). -/
def Tile.chainWords (t : Tile) (f pc k : Nat) : List Word :=
  (List.range k).map fun i => BitVec.ofNat 64 (leNat (cread t.fstore (0x1900000 + f * 0x10000 + (pc + 1 + i) * 8) 8))
/-- Number of chain words (R205). -/
def chainLen (k : MacroKind) (m : Mac) : Nat := if k = .vxRun then bits m.spec.toNat 27 24 + 1 else 0

/-- The bight an sp. operation names. -/
def Tile.bightFor (t : Tile) (f h : Nat) : Option Bight := if t.bightOk f h then some (t.bight f h) else none

/-- What a macro-instruction does in its issue cycle: ILLEGAL (R89, R207, R255), CLASS (R118), the strand's stores
(R106), the checks, and its place in the engine's queue, or a wait for one (R105). -/
def macroBody (k : MacroKind) (x : Iss) (m : Mac) : Body := fun d n f s st =>
  let t := d.tile n
  let word := macroWord x (macroOp k) m
  let sp := m.spec.toNat
  let e := engineOf k sp
  let len := chainLen k m
  let code := 0x1900000 + f * 0x10000 + (st.pc.toNat + 1) * 8
  if specBad k sp (t.bightFor f) then (d, .trap trIllegal word)
  else if 8191 < st.pc.toNat + len then (d, .trap trPcRange 8192)
  else if 0 < len && t.ueIn code (len * 8) then (d.memUe n (t.ueAddr code (len * 8)) rdStrand f s, .next)
  else
    let chain := t.chainWords f st.pc.toNat len
    match chain.find? cwordBad with
    | some w => (d, .trap trIllegal w)
    | none =>
      let sl := slotList m (slotsUsed k sp (chain.map cword))
      let named := ((sl.filter (·.2)).map (·.1)) ++ (recSlot k sp).toList
      if sl.any fun u => !u.2 && u.1 != 0 then (d, .trap trIllegal word)
      else if d.px64 n f && (newOnly k sp || named.any fun u => 32 ≤ u) then (d, .trap trClass word)
      else if k = .vxClose && decide (0x1800000 < sp % 2 ^ 19 * 64 + 64) then
        (d, .trap trUnmapped (BitVec.ofNat 64 (sp % 2 ^ 19 * 64)))
      else
        -- which of the chain words, the merges of stores and the descriptors meets the error of the command (R259)
        let merges := (st.stores.filter fun e => decide (e.width < 8)).length
        let all := (if 0 < len then 1 else 0) + merges + named.length
        let i := Config.eccLine d.free % all
        let inChain := 0 < len && i == 0
        let j := i - if 0 < len then 1 else 0
        let free := d.free
        let d := if m.ecc = .ok then d else d.draw
        if inChain && m.ecc == .uncorrectable then (d.memUe n (someWord free code (len * 8)) rdStrand f s, .next)
        else
        let d := if inChain && m.ecc == .corrected then d.corrected n (someWord free code (len * 8)) else d
        let d := d.flushStores n f s j (if inChain || merges ≤ j then .ok else m.ecc) 4
        if d.stoppedF n f then (d, .next)
        else
          let met : Option Nat := if inChain || j < merges then none else named[j - merges]?
          match (d.tile n).badSlots named with
          | some u => (d.memUe n (descOff u) rdStrand f s, .next)
          | none =>
          if met.isSome && m.ecc == .uncorrectable then (d.memUe n (someWord free (descOff (met.getD 0)) 64) rdStrand f s, .next)
          else
            let d := if met.isSome && m.ecc == .corrected then d.corrected n (someWord free (descOff (met.getD 0)) 64) else d
            let mac := (d.tile n).copyMacro k f s m chain
            match d.checkMacro n f mac with
            | some v => (d, .trap trDesc (BitVec.ofNat 64 v))
            | none =>
              if ((d.tile n).engine e).full e then enterWait d n f s .engine (.engine k m chain)
              else (d.enqueue n e mac, .next)

/-- A macro-instruction is issued. -/
def macroRun (k : MacroKind) (x : Iss) (m : Mac) (s : State) : Host.Outcome State Fault Refusal :=
  run (fun d => d.issue x [] (1 + chainLen k m) (slowly 2 (macroBody k x m))) s

/-- A freed entry of an engine's queue goes to the first strand that waits for one, in the order of R83. It copies its
descriptors and is checked then. -/
def Dev.admitWaiter (d : Dev) (n : Nat) (e : EngineId) : Dev :=
  let t := d.tile n
  match t.active with
  | none => d
  | some f =>
    if (t.engine e).full e || (t.frond f).stopped then d
    else
      let order := (List.range 8).map fun i => (t.lastIssued + 1 + i) % 8
      let want (s : Nat) : Bool := match (t.strand f s).op with
        | .engine k m _ => (t.strand f s).st == .wait && engineOf k m.spec.toNat == e
        | _ => false
      match order.find? want with
      | none => d
      | some s =>
        let x := t.strand f s
        match x.op with
        | .engine k m chain =>
          let named := ((slotList m (slotsUsed k m.spec.toNat (chain.map cword))).filter (·.2)).map (·.1) ++
            (recSlot k m.spec.toNat).toList
          match t.badSlots named with
          | some u => d.memUe n (descOff u) rdStrand f s
          | none =>
            let mac := t.copyMacro k f s m chain
            match d.checkMacro n f mac with
            | some v => (d.finishPlain n f s).takeTrap n f s trDesc (x.pc.toNat - (1 + chain.length)) (BitVec.ofNat 64 v)
            | none => (d.enqueue n e mac).finishPlain n f s
        | _ => d

/-- MM_MM (R134 to R137). -/
def execMmMm (x : Iss) (m : Mac) (s : State) := macroRun .mmMm x m s
/-- MM_ZERO (R148). -/
def execMmZero (x : Iss) (m : Mac) (s : State) := macroRun .mmZero x m s
/-- MM_OUT (R148). -/
def execMmOut (x : Iss) (m : Mac) (s : State) := macroRun .mmOut x m s
/-- MM_SPL (R137, R148). -/
def execMmSpl (x : Iss) (m : Mac) (s : State) := macroRun .mmSpl x m s
/-- MM_F2 (R182 to R196). -/
def execMmF2 (x : Iss) (m : Mac) (s : State) := macroRun .mmF2 x m s
/-- MM_ATT (R191 to R196). -/
def execMmAtt (x : Iss) (m : Mac) (s : State) := macroRun .mmAtt x m s
/-- MM_WG (R196 to R198). -/
def execMmWg (x : Iss) (m : Mac) (s : State) := macroRun .mmWg x m s
/-- VX_RUN (R205 to R219). -/
def execVxRun (x : Iss) (m : Mac) (s : State) := macroRun .vxRun x m s
/-- VX_CLOSE (R223). -/
def execVxClose (x : Iss) (m : Mac) (s : State) := macroRun .vxClose x m s
/-- VX_OPT (R224, R226). -/
def execVxOpt (x : Iss) (m : Mac) (s : State) := macroRun .vxOpt x m s
/-- DM_GET (R381 to R383). -/
def execDmGet (x : Iss) (m : Mac) (s : State) := macroRun .dmGet x m s
/-- DM_PUT (R381 to R383). -/
def execDmPut (x : Iss) (m : Mac) (s : State) := macroRun .dmPut x m s
/-- DM_MPUT (R381 to R383). -/
def execDmMput (x : Iss) (m : Mac) (s : State) := macroRun .dmMput x m s
/-- DM_MCOPY (R381 to R383). -/
def execDmMcopy (x : Iss) (m : Mac) (s : State) := macroRun .dmMcopy x m s
/-- SP_FILL (R255 to R257). -/
def execSpFill (x : Iss) (m : Mac) (s : State) := macroRun .spFill x m s
/-- SP_COPY (R255 to R257). -/
def execSpCopy (x : Iss) (m : Mac) (s : State) := macroRun .spCopy x m s
/-- SP_BFILL (R252, R255). -/
def execSpBfill (x : Iss) (m : Mac) (s : State) := macroRun .spBfill x m s
/-- SP_BDRAIN (R252, R255). -/
def execSpBdrain (x : Iss) (m : Mac) (s : State) := macroRun .spBdrain x m s
/-- SP_BRESET (R252, R255). -/
def execSpBreset (x : Iss) (m : Mac) (s : State) := macroRun .spBreset x m s

end Sys2Proof.Machine
end

