-- ==== Sys2Proof/Machine/EngineOps.lean ====
section
/-! DEFINITION. What every engine's walk shares (R107, R109, R246 to R252): the byte ranges a step of the walk reads and
writes, bight waits, fills and drains, early completion, and the time a run of lines takes on the slot wheel. -/

namespace Sys2Proof.Machine

/-- First and last stream line of a range (R248). -/
def Rng.lo (r : Rng) : Nat := r.at_.toNat / 256
def Rng.hi (r : Rng) : Nat := (r.at_.toNat + r.len - 1) / 256

/-- Bytes of the columns [c, c + len) of stored row i1 in batch i3, one range for each run of dimension 0 (R127). -/
def Desc.segs (d : Desc) (i1 i3 c len : Nat) : List Rng :=
  if len = 0 then []
  else
    let q0 := c / d.ext0
    let q1 := (c + len - 1) / d.ext0
    (List.range (q1 + 1 - q0)).map fun k =>
      let q := q0 + k
      let lo := if q = q0 then c % d.ext0 else 0
      let hi := if q = q1 then (c + len - 1) % d.ext0 else d.ext0 - 1
      ⟨d.bight, d.addr lo i1 q i3, (hi * d.w + d.w - 1) / 8 + 1 - lo * d.w / 8⟩
/-- Bytes of the scales of the same columns (R112, R128). -/
def Desc.scaleSegs (d : Desc) (i1 i3 c len : Nat) : List Rng :=
  if len = 0 then []
  else
    match d.smode with
    | 1 => [⟨0, d.sptr, 4⟩]
    | 2 => [⟨0, (d.sptr + 4 * (i3 * d.ext1 + i1) : Nat), 4⟩]
    | 3 => [⟨0, (d.sptr + 4 * (i3 * d.ext0 * d.ext2 + c) : Nat), 4 * len⟩]
    | 4 => (List.range len).map fun j => ⟨0, (d.mxOff ((c + j) % d.ext0) i1 ((c + j) / d.ext0) i3 : Nat), 1⟩
    | _ => []

/-- Positions F0 and D0 of a bight when the macro-instruction started (R248). -/
def Run.start (r : Run) (h : Nat) : Nat × Nat :=
  match r.starts.find? fun e => e.1 == h with
  | some e => e.2
  | none => (0, 0)
/-- Where an operand byte that is read, or written, lies in the tile window (R248); while a step's effect is computed, where the step
holds it, so that lines of one step that share a ring slot stay apart. -/
def Run.rloc (r : Run) (t : Tile) (h : Nat) (a : Int) : Nat :=
  if r.virt && h != 0 then 2 ^ 32 + h * 2 ^ 48 + a.toNat else ringOff t r.macro_.frond h (r.start h).2 a
def Run.wloc (r : Run) (t : Tile) (h : Nat) (a : Int) : Nat :=
  if r.virt && h != 0 then 2 ^ 32 + (16 + h) * 2 ^ 48 + a.toNat else ringOff t r.macro_.frond h (r.start h).1 a

/-- Whether a byte range of the tile window can be accessed: it lies in the scratchpad in quarters that are ON, or in
the accumulator (R113, R239). -/
def Tile.canAccess (t : Tile) (off len : Nat) : Bool :=
  len == 0 ||
  match winRange off len with
  | .scratch => t.rangeOn off len
  | .acc => true
  | .desc => true
  | _ => false
/-- Replaces what an engine runs. -/
def Tile.setHead (t : Tile) (e : EngineId) (r : Run) : Tile :=
  let x := t.engine e
  t.setEngine e { x with run := if x.run.isEmpty then [] else x.run.dropLast ++ [r] }
/-- What an engine runs: the macro-instruction that started last; those before it have made their last access and wait to complete
(R107, R222). -/
def Tile.head (t : Tile) (e : EngineId) : Option Run := (t.engine e).run.getLast?

/-- Engine e gives up its claims of bight h; a broken one takes BROKEN with it (R251, R252). -/
def Tile.dropClaim (t : Tile) (e : EngineId) (f h : Nat) : Tile :=
  t.modBight f h fun b => { b with
    pBroken := b.pBroken && b.pclaim != some e, cBroken := b.cBroken && b.cclaim != some e
    pclaim := if b.pclaim == some e then none else b.pclaim, cclaim := if b.cclaim == some e then none else b.cclaim }

/-- Releases the claims of an engine on the bights of a frond (R251); a claim that was broken and met no further access goes with
it (log 31). -/
def Tile.release (t : Tile) (e : EngineId) (f : Nat) : Tile :=
  (List.range 16).foldl (fun t h =>
    let b := t.bight f h
    if b.pclaim == some e || b.cclaim == some e then t.dropClaim e f h
    else t) t

/-- A macro-instruction ends early with a status, at the step of its plan at index `i` (R109). The write-outs that stand before
that step have begun and are still made, unless it is one of them (R149). -/
def Dev.endEarly (d : Dev) (n : Nat) (e : EngineId) (r : Run) (i : Nat) (st : Byte) : Dev :=
  let begun := if ((r.plan[i]?.map Micro.unit).getD 2) == 2 then [] else (r.plan.take i).filter fun x => x.unit == 2
  d.modTile n fun t => t.setHead e { r with plan := begun, progs := r.progs.filter (fun p => p.1 == 2 && !begun.isEmpty)
                                            err := if r.err = 0 then st else r.err }

/-! ## Bight lines -/

/-- Bights that a list of ranges goes through. -/
def bightsOf (l : List Rng) : List Nat := ((l.map (·.h)).filter (· != 0)).eraseDups
/-- Lowest line that ranges touch in bight h. -/
def lowLine (l : List Rng) (h : Nat) : Option Nat :=
  (l.filter fun r => r.h == h).foldl (fun m r => match m with | none => some r.lo | some v => some (min v r.lo)) none

/-- Lines of a bight that a macro-instruction may still touch decide how far it fills or drains (R249): up to the
lowest line that what remains of its walk touches, but no line beyond the last it has touched; with none left, all it touched, but for
the last line of a producer, which waits for completion (H and P of mm.f2 and mm.att are read by their own producer, so their last line
does not). -/
def fillTo (rest : List Rng) (h top : Nat) (fill : Bool) : Nat :=
  match lowLine rest h with
  | some j => min j top
  | none => if fill then top - 1 else top

/-- Fills and drains that an access has made due (R249): `wr` and `rd` are the ranges of the rest of the walk. -/
def Tile.flow (t : Tile) (r : Run) (rd wr : List Rng) : Tile × Run :=
  let f := r.macro_.frond
  let (t, r) := r.wtop.foldl (fun (x : Tile × Run) e =>
    let lim := fillTo wr e.1 e.2 (r.macro_.kind != .mmF2 && r.macro_.kind != .mmAtt)
    let now := mget x.2.filled 0 e.1
    if now < lim then (x.1.modBight f e.1 fun b => b.fillN (lim - now), { x.2 with filled := mset x.2.filled e.1 lim }) else x) (t, r)
  r.rtop.foldl (fun (x : Tile × Run) e =>
    let lim := fillTo rd e.1 e.2 false
    let now := mget x.2.drained 0 e.1
    if now < lim then (x.1.modBight f e.1 fun b => b.drainN (lim - now), { x.2 with drained := mset x.2.drained e.1 lim }) else x) (t, r)

/-! ## Accesses -/

/-- Why an access of a walk is not made, if so: a claim broken by a strand (R252), a line already drained (R250), a wait
for a line or for room (R249), an access that cannot be made (R239), or an uncorrectable error (R259). -/
inductive StepStop where
  | broken (h : Nat)
  | backward
  | wait
  | unmapped
  | ue (off : Nat)
  deriving DecidableEq, Repr

/-- The pieces of a range that one line access each reads or writes. -/
def Rng.lines (x : Rng) : List Rng :=
  if x.len = 0 then []
  else if x.h = 0 && decide (0x1800000 ≤ x.at_) then [x]
  else
    (List.range (x.hi + 1 - x.lo)).map fun k =>
      let a := max x.at_.toNat ((x.lo + k) * 256)
      let b := min (x.at_.toNat + x.len) ((x.lo + k + 1) * 256)
      ⟨x.h, (a : Nat), b - a⟩

/-- Engine e's claim of a side of bight h was broken (R252). -/
def Tile.claimBroken (t : Tile) (e : EngineId) (f h : Nat) : Bool :=
  let b := t.bight f h
  (b.pBroken && b.pclaim == some e) || (b.cBroken && b.cclaim == some e)

/-- The stop of a read of one piece, if any. -/
def Tile.readStop (t : Tile) (e : EngineId) (r : Run) (x : Rng) : Option StepStop :=
  let off := r.rloc t x.h x.at_
  if x.h != 0 && t.claimBroken e r.macro_.frond x.h then some (.broken x.h)
  else if x.h != 0 && decide (x.lo < mget r.drained 0 x.h) then some .backward
  else if x.h != 0 && decide ((t.bight r.macro_.frond x.h).full ≤ x.lo - mget r.drained 0 x.h) then some .wait
  else if !t.canAccess off x.len then some .unmapped
  else if t.ueIn off x.len then some (.ue (t.ueAddr off x.len))
  else none
/-- The stop of a write of one piece, if any. -/
def Tile.writeStop (t : Tile) (e : EngineId) (r : Run) (x : Rng) : Option StepStop :=
  let off := r.wloc t x.h x.at_
  let b := t.bight r.macro_.frond x.h
  if x.h != 0 && t.claimBroken e r.macro_.frond x.h then some (.broken x.h)
  else if x.h != 0 && decide (b.lines ≤ b.full + x.lo - mget r.filled 0 x.h) then some .wait
  else if !t.canAccess off x.len then some .unmapped
  else if t.uePartial off x.len then some (.ue (t.ueAddr off x.len))
  else none

/-- The line of a piece as its stream sees it: a stream line of a bight, or a line of the window. -/
def Rng.key (x : Rng) : Nat := if x.h = 0 then x.lo else (x.h + 1) * 2 ^ 40 + x.lo
/-- The listed bytes of the line that a window offset lies in. -/
def Tile.lineCells (t : Tile) (off : Nat) : List Host.Cell :=
  t.scratch.filter fun c => decide (off / 256 * 256 ≤ c.1) && decide (c.1 < off / 256 * 256 + 256)
/-- Bytes of a line from its listed ones. -/
def cellBytes (cs : List Host.Cell) (off len : Nat) : List Byte :=
  (List.range len).map fun j => match cs.find? fun c => c.1 == off + j with | some c => c.2 | none => 0

/-- The range lies in the accumulator, whose bytes no line buffer serves. -/
def Rng.inAcc (x : Rng) : Bool := x.h == 0 && decide (0x1800000 ≤ x.at_)
/-- A write of the bytes merges a word that it covers only in part (R238). -/
def Rng.merges (x : Rng) : Bool := !x.inAcc && (x.at_.toNat % 8 != 0 || (x.at_.toNat + x.len) % 8 != 0)
/-- A run of accesses: the tile, the macro-instruction, the progress of its step, the line accesses made, the pieces passed, the piece that
meets the error of the command, that error, the word that it corrected, and the stop that ended the run. -/
structure Pass where
  t : Tile
  r : Run
  p : Prog
  made : Nat
  at_ : Nat
  hit : Nat
  ecc : Ecc
  ce : Option Nat
  stop : Option StepStop
/-- What the error of the command does to the piece at hand: `w` is the word it lies in. An uncorrectable one delivers nothing. -/
def Pass.meet (a : Pass) (w : Nat) : Pass :=
  if a.at_ != a.hit then a
  else match a.ecc with
    | .ok => a
    | .corrected => { a with ce := some w }
    | .uncorrectable => { a with stop := some (.ue w) }

/-- Reads the pieces of a step that are left, in order, until one has to wait or cannot be read. A piece carries the number of its
stream, 0 for a read of no stream; a line that repeats the line just before it in its stream is not accessed again (R132, R235). -/
def Pass.reads (e : EngineId) (free : Nat) (restRd restWr : List Rng) : List (Nat × Rng) → Pass → Pass
  | [], a => a
  | (j, x) :: xs, a =>
    let off := a.r.rloc a.t x.h x.at_
    let k := if x.inAcc then 0 else j
    let last := mget a.r.bufs (0, []) k
    let go (a : Pass) (bytes : List Byte) : Pass :=
      let r := { a.r with rtop := if x.h = 0 then a.r.rtop else mset a.r.rtop x.h (max (mget a.r.rtop 0 x.h) (x.hi + 1)) }
      let (t, r) := a.t.flow r (xs.map (·.2) ++ restRd) restWr
      { a with t := t, r := r, at_ := a.at_ + 1
               p := { a.p with read := a.p.read + 1, got := a.p.got ++ [(({ r with virt := true } : Run).rloc t x.h x.at_, bytes)] } }
    if k != 0 && (a.r.bufs.any fun b => b.1 == k) && last.1 == x.key then
      if a.t.ueIn off x.len then { a with stop := some (.ue (a.t.ueAddr off x.len)) }
      else Pass.reads e free restRd restWr xs (go a (cellBytes last.2 off x.len))
    else
      match a.t.readStop e a.r x with
      | some s => { a with stop := some s }
      | none =>
        let b := if x.inAcc then a else a.meet (someWord free off x.len)
        if b.stop.isSome then b
        else
          let r := if k = 0 then b.r else { b.r with bufs := mset b.r.bufs k (x.key, b.t.lineCells off) }
          Pass.reads e free restRd restWr xs (go { b with r := r, made := b.made + 1 } (b.t.winRead off x.len))

/-- Writes the pieces of a step that are left, in order, until one has to wait or cannot be written. -/
def Pass.writes (e : EngineId) (restRd restWr : List Rng) : List (Rng × List Byte) → Pass → Pass
  | [], a => { a with p := { a.p with due := some [] } }
  | (x, bs) :: xs, a =>
    match a.t.writeStop e a.r x with
    | some s => { a with stop := some s, p := { a.p with due := some ((x, bs) :: xs) } }
    | none =>
      let off := a.r.wloc a.t x.h x.at_
      let b := if x.merges then a.meet (partWord off x.len) else a
      if b.stop.isSome then { b with p := { b.p with due := some ((x, bs) :: xs) } }
      else
        let made := if b.r.lastWr == some x.key then b.made else b.made + 1
        let r := { b.r with lastWr := some x.key
                            wtop := if x.h = 0 then b.r.wtop else mset b.r.wtop x.h (max (mget b.r.wtop 0 x.h) (x.hi + 1)) }
        let (t, r) := (b.t.winWrite off bs).flow r restRd (xs.map (·.1) ++ restWr)
        Pass.writes e restRd restWr xs { b with t := t, r := r, made := made, at_ := b.at_ + (if x.merges then 1 else 0) }

/-- What a step of a walk reads and writes, and what stands after it in the walk. -/
structure Access where
  /-- index of the step in the plan -/
  at_ : Nat
  /-- unit that makes it -/
  unit : Nat
  /-- ranges of its read streams, stream 1 first (R235) -/
  streams : List (List Rng)
  /-- ranges it reads beside them -/
  reads : List Rng
  /-- ranges it writes -/
  writes : List Rng
  /-- ranges that the rest of the walk reads and writes, where it names a bight -/
  restRd : List Rng
  restWr : List Rng
  /-- code of its reader (R502) -/
  reader : Nat

/-- The pieces that a step reads, with the numbers of their streams. -/
def Access.pieces (a : Access) : List (Nat × Rng) :=
  (List.range a.streams.length).flatMap (fun k => ((a.streams.getD k []).flatMap Rng.lines).map fun x => (k + 1, x)) ++
  (a.reads.flatMap Rng.lines).map fun x => (0, x)

/-- A stop takes effect: a wait leaves the step where it is, an error in an operand is contained, and any other ends the
macro-instruction early (R109, R249 to R252). -/
def Dev.stepStopped (d : Dev) (n : Nat) (e : EngineId) (r : Run) (a : Access) (p : Prog) (s : StepStop) : Dev :=
  match s with
  | .broken h => (d.modTile n fun t => t.dropClaim e r.macro_.frond h).endEarly n e r a.at_ stBight
  | .backward => d.endEarly n e r a.at_ stBight
  | .wait => d.modTile n fun t => t.setHead e { r with progs := mset r.progs a.unit p }
  | .unmapped => d.endEarly n e r a.at_ stUnmapped
  | .ue off => d.memUe n off a.reader r.macro_.frond r.macro_.strand

/-- What stands in the tile of what a pass did to it. -/
def Dev.keepPass (d : Dev) (n : Nat) (t : Tile) : Dev := d.modTile n fun u =>
  { u with scratch := t.scratch, acc := t.acc, bights := t.bights, bad := t.bad, repairDue := t.repairDue }
/-- TILE_SP_LINES counts the lines that the fill/copy unit accesses (R265). -/
def Dev.fcLines (d : Dev) (n : Nat) (e : EngineId) (k : Nat) : Dev := if e == .fc && k != 0 then d.add (TILE_SP_LINES_V n) k else d
/-- The word that a step's access found corrected is counted (R259). -/
def Dev.passCorrected (d : Dev) (n : Nat) (w : Option Nat) : Dev :=
  match w with
  | some w => d.corrected n w
  | none => d

/-- Makes accesses of one step of what engine e of tile n runs, until the step is done or one of them has to wait: its reads in
order, its effect on what they gave, and its writes in order. `ecc` is the error that one of the lines still to be read or merged meets,
which of them is free; where the step has to wait before that line, no access of the command meets it. A line whose bad word a write of
the step has replaced may now go to a spare (R499). -/
def Dev.engineStep (d : Dev) (n : Nat) (e : EngineId) (r : Run) (a : Access) (ecc : Ecc) (eff : Dev → Run → Dev × Run) : Dev :=
  let t := d.tile n
  let p0 := mget r.progs Prog.init a.unit
  let left := a.pieces.drop p0.read
  let wr := a.writes.flatMap Rng.lines
  let out : List Rng := match p0.due with
    | none => wr
    | some l => l.map (·.1)
  let some_ := (if p0.due.isSome then 0 else left.length) + (out.filter Rng.merges).length
  let free := d.free
  let d := if ecc = .ok then d else d.draw
  let start : Pass := { t := t, r := r, p := p0, made := 0, at_ := 0, hit := Config.eccLine free % some_, ecc := ecc, ce := none, stop := none }
  let x := if p0.due.isSome then start else Pass.reads e free a.restRd (wr ++ a.restWr) left start
  match x.stop with
  | some s => if s = .wait ∧ x.p = p0 then d
              else (((d.keepPass n x.t).fcLines n e x.made).passCorrected n x.ce).stepStopped n e x.r a x.p s
  | none =>
    -- the effect is computed on what was read
    let rv : Run := { x.r with virt := true }
    let seen := x.p.got.foldl (fun t g => t.winWrite g.1 g.2) x.t
    let seen := wr.foldl (fun t y => if y.h = 0 then t else t.winWrite (rv.wloc t y.h y.at_) (x.t.winRead (x.r.wloc x.t y.h y.at_) y.len)) seen
    let (d1, r1) := if x.p.due.isSome then (d.keepPass n x.t, rv) else eff (d.keepPass n seen) rv
    let t1 := d1.tile n
    let due := match x.p.due with
      | some l => l
      | none => wr.map fun y => (y, t1.winRead (r1.wloc t1 y.h y.at_) y.len)
    let y := Pass.writes e a.restRd a.restWr due
      { x with t := { t1 with scratch := x.t.scratch, acc := x.t.acc, bad := x.t.bad, repairDue := x.t.repairDue }
               r := { r1 with virt := false }, p := { x.p with got := [] } }
    let d := (((d1.keepPass n y.t).fcLines n e y.made).passCorrected n y.ce)
    match y.stop with
    | some s => if s = .wait ∧ y.p = p0 then d else d.stepStopped n e y.r a y.p s
    | none => (d.modTile n fun u =>
        u.setHead e { y.r with plan := y.r.plan.eraseIdx a.at_, progs := y.r.progs.filter fun q => q.1 != a.unit }).dueRepairs n

/-! ## Time on the slot wheel, as TILE_MX_LOAD counts it (R131, R235, R237) -/

/-- Cycles of a run of lines with no look-ahead (R237): each line after the first takes the way between the banks. -/
def wheelTime (hashed : Bool) : List Nat → Nat
  | a :: b :: r => ((bankOf hashed b + 31 - bankOf hashed a) % 16) + 1 + wheelTime hashed (b :: r)
  | [_] => 1
  | [] => 0

/-! ## Scale records (R175, R176) -/

/-- Reads the record at `p` as the macro-instruction starts (R176); what the completion writes back builds on these values (R178). -/
def Tile.recStart (t : Tile) (p : Nat) (r : Run) : Run :=
  let b := t.winRead p 64
  { r with scale := fieldAt b 0 4, seed := BitVec.ofNat 64 (fieldAt b 40 8), step := fieldAt b 48 4, recStep := fieldAt b 48 4
           amax := fieldAt b 4 4, flags := fieldAt b 57 1, sat := fieldAt b 60 4, clamps := 0, nonfinite := false }
/-- Notes a source value of a conversion that gathers (R176). -/
def Run.gather (r : Run) (x : Nat) (clamped : Bool) : Run :=
  let fin := (f32 x).isFin
  { r with amax := if fin then fmax r.amax (fabs x) else r.amax
           nonfinite := r.nonfinite || !fin
           clamps := r.clamps + if clamped then 1 else 0 }
/-- Writes AMAX, FLAGS, SATCOUNT and STEP back (R176, R178). -/
def Tile.recEnd (t : Tile) (p : Nat) (r : Run) : Tile :=
  let t := t.winWrite (p + 4) (leBytes 4 r.amax)
  let t := t.winWrite (p + 48) (leBytes 4 (r.recStep % 2 ^ 32))
  let t := t.winWrite (p + 57) (leBytes 1 (if r.nonfinite then setBits r.flags 0 0 1 else r.flags))
  t.winWrite (p + 60) (leBytes 4 (min (r.sat + r.clamps) (2 ^ 32 - 1)))
/-- What a conversion on another engine takes over when one on the same record completes (R199): `q` has just written the record. -/
def Run.recJoin (r q : Run) : Run :=
  { r with amax := fmax r.amax q.amax, nonfinite := r.nonfinite || q.nonfinite, sat := r.sat + q.clamps, recStep := q.recStep }

end Sys2Proof.Machine
end

