-- ==== Sys2Proof/Machine/Mx.lean ====
section
/-! DEFINITION. The matrix engine: the walks of mm.mm, mm.wg, mm.f2, mm.att and the accumulator functions (R138, R148,
R190, R195, R197), the blocks and the column sums of the array (R158 to R165), write-out, splice lines, and the function
unit (R187, R193). -/

namespace Sys2Proof.Machine

/-! ## Masks (R144, R146) -/

/-- Element (r, c) of logical tile (tm, tn) of DC in batch b is live. -/
def Tile.maskLive (t : Tile) (m : Macro) (b tm tn r c : Nat) : Bool :=
  let d := m.dc
  match d.mmode with
  | 1 => t.maskBit d.mptr (b * d.ext1 + tm * d.tm + r)
  | 2 => t.maskBit d.mptr ((b * d.tilesM + tm) * d.tilesN + tn)
  | 3 =>
    let grouped := m.kind == .mmMm || m.kind == .mmWg
    let gm := if grouped then m.gm else 1
    let gn := if grouped then m.gn else 1
    let pi := if grouped then bits m.spec 7 4 else 0
    let pj := if grouped then bits m.spec 3 0 else 0
    let row : Int := ((pi + gm * tm) * d.tm + r : Nat)
    let col : Int := ((pj + gn * tn) * d.tn + c : Nat)
    decide (col ≤ row + d.mparam)
  | _ => true

/-- Rows and columns of logical tile (tm, tn) of a result that exist. -/
def Desc.rowsIn (d : Desc) (tm : Nat) : Nat := min d.tm (d.ext1 - tm * d.tm)
def Desc.colsIn (d : Desc) (tn : Nat) : Nat := min d.tn (d.across - tn * d.tn)

/-! ## Products -/

/-- One block of a product: the stationary matrix, whether it is read transposed, its batch, first K row and live K
rows, first column and live columns, the group factor, and the streamed format. -/
structure Prod where
  stat : Desc
  tr : Bool
  b : Nat
  k0 : Nat
  kn : Nat
  c0 : Nat
  cn : Nat
  g : Nat

/-- K of the first and of the second product. -/
def Macro.kTotal (m : Macro) (second : Bool) (at_ : Nat) : Nat :=
  if second then
    if m.kind = .mmAtt then min m.db.tm (m.db.ext1 - at_ * m.db.tm) else m.hTotal
  else m.db.mrows (m.db.transpose)
/-- Columns of a tile of the first or second product: of logical tile tn, A tile or key block at_, Y tile tn, or O. -/
def Macro.tileCols (m : Macro) (second : Bool) (at_ tn : Nat) : Nat :=
  match m.kind with
  | .mmF2 => if second then m.dd.colsIn tn else m.aWidth at_
  | .mmAtt => if second then m.dc.across else min m.db.tm (m.db.ext1 - at_ * m.db.tm)
  | _ => m.dc.colsIn tn
/-- Group factor of a product. -/
def Macro.gOf (m : Macro) (second : Bool) : Nat := if second then m.g2 else m.g1
/-- The block of K chunk kc and column block nb. -/
def Macro.prod (m : Macro) (second : Bool) (b kc at_ tn nb : Nat) : Prod :=
  let stat := if second then m.dc else m.db
  let g := m.gOf second
  let cols := m.tileCols second at_ tn
  let kt := m.kTotal second at_
  let base : Nat := match m.kind with
    | .mmF2 => if second then tn * m.dd.tn else at_ * m.db.tn
    | .mmAtt => if second then 0 else at_ * m.db.tm
    | _ => tn * m.dc.tn
  { stat := stat, tr := stat.transpose, b := if stat.ext3 = 1 then 0 else b
    k0 := (if second && m.kind == .mmAtt then at_ * m.db.tm else 0) + kc * 128, kn := min 128 (kt - kc * 128)
    c0 := base + nb * 128 * g, cn := min (128 * g) (cols - nb * 128 * g), g := g }
/-- Lines that a block's load reads (R131, R145). -/
def Prod.lines (p : Prod) : Nat := if p.tr then p.cn else p.kn
/-- Bytes of line r of the load. -/
def Prod.lineSegs (p : Prod) (r : Nat) : List Rng :=
  if p.tr then p.stat.segs (p.c0 + r) p.b p.k0 p.kn ++ p.stat.scaleSegs (p.c0 + r) p.b p.k0 p.kn
  else p.stat.segs (p.k0 + r) p.b p.c0 p.cn ++ p.stat.scaleSegs (p.k0 + r) p.b p.c0 p.cn

/-- Rows of H or P that a row tile of `rows` rows has; stream lines before key block or chunk (R188, R194). -/
def Macro.tileRows (m : Macro) (tm : Nat) : Nat :=
  if m.kind = .mmAtt then min m.da.tm (m.da.ext1 - tm * m.da.tm) else m.dd.rowsIn tm
/-- Row tiles of DD or query tiles of DA. -/
def Macro.rowTiles (m : Macro) : Nat := if m.kind = .mmAtt then ceilDiv m.da.ext1 m.da.tm else m.dd.tilesM
/-- Key n is live for row `row` of the batch (R192). -/
def Macro.keyLive (m : Macro) (row n : Nat) : Bool :=
  m.frec.mask != 3 || decide ((n : Int) ≤ (row / m.frec.qgroup : Nat) + m.frec.mparam)
/-- Key blocks visited by query tile tm: those with a live key for some row (R192); the last row has the most. -/
def Macro.blocks (m : Macro) (tm : Nat) : List Nat :=
  (List.range (ceilDiv m.db.ext1 m.db.tm)).filter fun k => m.keyLive (tm * m.da.tm + m.tileRows tm - 1) (k * m.db.tm)
/-- Stream lines of H that row tile tm uses; those of P of one query tile. -/
def Macro.tileLines (m : Macro) (tm : Nat) : Nat :=
  let rows := m.tileRows tm
  if m.kind = .mmAtt then ((m.blocks tm).map fun k => hLines m.hfmt rows (m.kTotal true k)).sum
  else hLines m.hfmt rows m.hTotal
/-- First stream line of H or P of a row tile, or of a key block of a query tile. -/
def Macro.hBase (m : Macro) (b tm at_ : Nat) : Nat :=
  let one := ((List.range m.rowTiles).map m.tileLines).sum
  let before := ((List.range tm).map m.tileLines).sum
  let inTile := if m.kind = .mmAtt then
      (((m.blocks tm).takeWhile (· != at_)).map fun k => hLines m.hfmt (m.tileRows tm) (m.kTotal true k)).sum
    else 0
  b * one + before + inTile
/-- Address in bight HB of the `len` H values of a row from column c, all of one chunk (R188). -/
def Macro.hRange (m : Macro) (b tm at_ row c len : Nat) : Rng :=
  let rows := m.tileRows tm
  let total := m.kTotal true at_
  let q := c / 128
  let w := fmtWidth m.hfmt
  let segB := rowBytes w (min 128 (total - q * 128))
  let line := m.hBase b tm at_ + hLines m.hfmt rows (q * 128)
  ⟨m.hb, (line * 256 + row * segB + rowBytes w (c % 128) : Nat), rowBytes w len⟩
/-- The ranges of columns [c, c + len) of a row of H. -/
def Macro.hRanges (m : Macro) (b tm at_ row c len : Nat) : List Rng :=
  if len = 0 then []
  else
    let q0 := c / 128
    (List.range ((c + len - 1) / 128 + 1 - q0)).map fun k =>
      let lo := max c ((q0 + k) * 128)
      let hi := min (c + len) ((q0 + k + 1) * 128)
      m.hRange b tm at_ row lo (hi - lo)

/-- Matrix rows in a transposed group of mm.wg (R198). -/
def Macro.wgGroup (m : Macro) : Nat := 128 * (16 / m.da.w)

/-- Window offset of the FP32 element (row, col) of the tile that a product accumulates into (R135, R139, R189, R194). -/
def Macro.cell (m : Macro) (second : Bool) (b at_ tm tn row pos col : Nat) : Nat :=
  let acc := 0x1800000
  match m.kind with
  | .mmF2 =>
    if second then
      if m.yHere then acc + m.yBase (if m.frec.ping then pos % 2 else 0) + row * m.wY + 4 * col
      else (m.dd.addr (tn * m.dd.tn + col) (tm * m.dd.tm + row) 0 b).toNat
    else acc + m.sBase (at_ % m.sCount) + row * m.wS + 4 * col
  | .mmAtt =>
    if second then
      if m.yHere then acc + m.yBase 0 + row * m.wY + 4 * col
      else (m.dd.addr col (tm * m.da.tm + row) 0 b).toNat
    else acc + m.sBase (pos % 2) + row * m.wS + 4 * col
  | _ =>
    if 2 ≤ m.out then
      let w := regionW m.dc.tn m.g1
      acc + m.areg * 0x10000 + (if bit m.spec 21 = 1 && pos % 2 = 1 then m.dc.tm * w else 0) + row * w + 4 * col
    else (m.dc.addr (tn * m.dc.tn + col) (tm * m.dc.tm + row) 0 b).toNat

/-! ## Walks -/

/-- Loads and streams of one tile of a product: its K chunks in ascending order, its visited column blocks, and the rows
that stream for each. -/
def Macro.walk (m : Macro) (second : Bool) (b at_ tm tn pos : Nat) (live : Nat → Nat → Bool) (rows : Nat) : List Micro :=
  let g := m.gOf second
  (List.range (ceilDiv (m.kTotal second at_) 128)).flatMap fun kc =>
    (List.range (ceilDiv (m.tileCols second at_ tn) (128 * g))).flatMap fun nb =>
      let on := (List.range rows).filter fun r => live r nb
      if on.isEmpty then []
      else
        let p := m.prod second b kc at_ tn nb
        let loads := (List.range p.lines).map fun r => Micro.load second b kc at_ tn nb r pos
        let one (r : Nat) : Micro := .stream second b kc at_ tm tn nb r pos
        if m.kind = .mmWg then
          let grp (r : Nat) : Nat := (tm * m.dc.tm + r) / m.wgGroup
          loads ++ ((on.map grp).eraseDups.flatMap fun q =>
            (List.range p.kn).map (fun r => Micro.fill b kc q r pos) ++ (on.filter fun r => grp r == q).map one)
        else loads ++ on.map one

/-- Splice lines of one row of a tile of `cols` columns. -/
def spliceLines (b tm tn pos row cols : Nat) : List Micro :=
  (List.range (ceilDiv cols 64)).map fun j => Micro.splice b tm tn pos row j
/-- Write-out of a tile (R139, R147). -/
def Macro.writeOut (m : Macro) (b tm tn pos rows cols : Nat) : List Micro :=
  if m.out = 2 then (List.range rows).map fun r => Micro.out b tm tn pos r
  else if m.out = 3 then (List.range rows).flatMap fun r => spliceLines b tm tn pos r cols
  else []

/-- The walk of mm.mm and mm.wg (R138). -/
def Tile.planMm (t : Tile) (m : Macro) : List Micro :=
  let d := m.dc
  let g := m.g1
  let all := (List.range d.ext3).flatMap fun b => (List.range d.tilesM).flatMap fun tm => (List.range d.tilesN).map fun tn => (b, tm, tn)
  let liveIn (b tm tn r nb : Nat) : Bool :=
    (List.range (min (128 * g) (d.colsIn tn - nb * 128 * g))).any fun c => t.maskLive m b tm tn r (nb * 128 * g + c)
  let liveT (x : Nat × Nat × Nat) : Bool :=
    (List.range (d.rowsIn x.2.1)).any fun r => (List.range (ceilDiv (d.colsIn x.2.2) (128 * g))).any fun nb =>
      liveIn x.1 x.2.1 x.2.2 r nb
  let vis := all.filter liveT
  (List.range vis.length).flatMap fun pos =>
    let (b, tm, tn) := vis.getD pos (0, 0, 0)
    let rows := d.rowsIn tm
    m.walk false b 0 tm tn pos (liveIn b tm tn) rows ++ m.writeOut b tm tn pos rows (d.colsIn tn)

/-- The walk of mm.f2 (R190). -/
def Macro.planF2 (m : Macro) : List Micro :=
  let d := m.dd
  (List.range d.ext3).flatMap fun b => (List.range d.tilesM).flatMap fun tm =>
    let rows := d.rowsIn tm
    let yes (_ _ : Nat) : Bool := true
    ((List.range m.aTiles).flatMap fun k =>
      m.walk false b k tm 0 k yes rows ++ (List.range rows).map fun r => Micro.func b tm k r k) ++
    (List.range d.tilesN).flatMap fun tn =>
      let pos := (b * d.tilesM + tm) * d.tilesN + tn
      m.walk true b 0 tm tn pos yes rows ++ m.writeOut b tm tn pos rows (d.colsIn tn)

/-- The walk of mm.att (R195): S(0), S(1), PV(0), S(2), PV(1) and so on, with the pass of each block after its S. -/
def Macro.planAtt (m : Macro) : List Micro :=
  let tiles := (List.range m.da.ext3).flatMap fun b => (List.range m.rowTiles).map fun tm => (b, tm)
  if tiles.all fun x => (m.blocks x.2).isEmpty then []
  else tiles.flatMap fun x =>
    let b := x.1
    let tm := x.2
    let rows := m.tileRows tm
    let ks := m.blocks tm
    let yes (_ _ : Nat) : Bool := true
    let s (i : Nat) : List Micro := m.walk false b (ks.getD i 0) tm 0 i yes rows ++
      (List.range rows).map fun r => Micro.func b tm (ks.getD i 0) r i
    let pv (i : Nat) : List Micro := m.walk true b (ks.getD i 0) tm 0 i yes rows
    [Micro.begin_ b tm] ++
    ((List.range ks.length).flatMap fun i => if i = 0 then s 0 else s i ++ pv (i - 1)) ++
    (if ks.isEmpty then [] else pv (ks.length - 1)) ++ (List.range rows).map fun r => Micro.final b tm r

/-- The walk of a matrix macro-instruction as it stands when it starts. -/
def Tile.planMx (t : Tile) (m : Macro) : List Micro :=
  match m.kind with
  | .mmF2 => m.planF2
  | .mmAtt => m.planAtt
  | .mmZero => (List.range m.da.ext3).flatMap fun b => (List.range m.da.ext1).map fun r => Micro.zero b r
  | .mmOut => (List.range m.da.ext3).flatMap fun b => (List.range m.da.ext1).map fun r => Micro.out b 0 0 0 r
  | .mmSpl => (List.range m.da.ext3).flatMap fun b => (List.range m.da.ext1).flatMap fun r => spliceLines b 0 0 0 r m.da.across
  | _ => t.planMm m

/-! ## Ranges of each step -/

/-- Columns of a write-out row, first column and first row of the result. -/
def Macro.outDesc (m : Macro) : Desc := if m.kind = .mmF2 || m.kind = .mmAtt then m.dd else m.dc
/-- A write-out row's live columns within its tile, and the tile's place in the result. mm.out takes DC's mask over its
own tiles (R148). -/
def Tile.outLive (t : Tile) (m : Macro) (b tm tn row c : Nat) : Bool :=
  match m.kind with
  | .mmF2 => true
  | .mmSpl => true
  | .mmOut =>
    let d := m.dc
    t.maskLive m b (row / d.tm) (c / d.tn) (row % d.tm) (c % d.tn)
  | _ => t.maskLive m b tm tn row c
/-- Columns of a write-out row. -/
def Macro.outCols (m : Macro) (tn : Nat) : Nat :=
  match m.kind with
  | .mmOut => m.dc.across
  | .mmSpl => m.da.across
  | .mmF2 => m.dd.colsIn tn
  | _ => m.dc.colsIn tn
/-- Where a write-out row's element (row, c) comes from. -/
def Macro.outSrc (m : Macro) (b tm tn pos row c : Nat) : Nat :=
  match m.kind with
  | .mmOut => (m.da.addr (c % m.da.ext0) row 0 b).toNat
  | .mmSpl => (m.da.addr (c % m.da.ext0) row 0 b).toNat
  | k => m.cell (k == .mmF2) b 0 tm tn row pos c
/-- The result's stored row and first column of a write-out row. -/
def Macro.outPlace (m : Macro) (tm tn row : Nat) : Nat × Nat :=
  if m.kind = .mmOut then (row, 0) else (tm * m.outDesc.tm + row, tn * m.outDesc.tn)

/-- Side values of a row that a function pass reads (R187): first column of each piece, and its columns. -/
def Macro.sideCols (m : Macro) (at_ : Nat) : Nat × Nat :=
  if rfGatedBwd m.rf then (2 * m.db.tn * at_, 2 * m.aWidth at_) else (m.db.tn * at_, m.aWidth at_)
/-- Global row of a row of a row tile (R184). -/
def Macro.grow (m : Macro) (b tm row : Nat) : Nat := b * m.da.ext1 + tm * m.tmRows + row
/-- H columns of the A tiles before `at_`. -/
def Macro.hFirst (m : Macro) (at_ : Nat) : Nat := at_ * hCols m.rf m.db.tn
/-- Place of a side, save or STATS value. -/
def rowElem (p str fmt row col : Nat) : Nat := p + row * str + col * (fmtWidth fmt / 8)
/-- SAVE columns of a function pass: first and count (R187). -/
def Macro.saveCols (m : Macro) (at_ : Nat) : Nat × Nat :=
  if m.frec.what then (m.hFirst at_, hCols m.rf (m.aWidth at_)) else (m.db.tn * at_, m.aWidth at_)

/-- Row of DA that a row tile's row streams. -/
def Macro.aRow (m : Macro) (tm row : Nat) : Nat :=
  (match m.kind with | .mmF2 => tm * m.dd.tm | .mmAtt => tm * m.da.tm | _ => tm * m.dc.tm) + row
/-- The first visited block of a query tile that starts fresh: its O is +0.0 (R193, R194). -/
def Macro.freshO (m : Macro) (tm at_ : Nat) : Bool := !m.frec.cont && (m.blocks tm).head? == some at_

/-- What a step reads on port MX-A, where a line that repeats the one before is not read again (R132). -/
def Macro.rdStream (m : Macro) : Micro → List Rng
  | .fill b kc grp r _ =>
    let c := grp * m.wgGroup
    m.da.segs (kc * 128 + r) b c (min m.wgGroup (m.da.across - c))
  | .stream second b kc at_ tm tn nb row _ =>
    let kn := (m.prod second b kc at_ tn nb).kn
    if second then m.hRanges b tm at_ row (kc * 128) kn
    else if m.kind = .mmWg then [] else m.da.segs (m.aRow tm row) b (kc * 128) kn
  | _ => []
/-- What else a step reads of the scratchpad and of the accumulator, which an error can lie in too. -/
def Macro.rdRanges (t : Tile) (m : Macro) : Micro → List Rng
  | .load second b kc at_ tn nb r _ => (m.prod second b kc at_ tn nb).lineSegs r
  | .fill b kc grp r _ =>
    let c := grp * m.wgGroup
    m.da.scaleSegs (kc * 128 + r) b c (min m.wgGroup (m.da.across - c))
  | .stream second b kc at_ tm tn nb row pos =>
    let p := m.prod second b kc at_ tn nb
    let c0 := nb * 128 * p.g
    let a := if second || m.kind = .mmWg then [] else m.da.scaleSegs (m.aRow tm row) b (kc * 128) p.kn
    let first := kc == 0 && !((m.out == 1 && (m.kind != .mmF2 || second)) || (second && m.kind == .mmAtt && !m.freshO tm at_))
    if first then a else a ++ [⟨0, (m.cell second b at_ tm tn row pos c0 : Nat), 4 * p.cn⟩]
  | .out b tm tn pos row => (List.range (m.outCols tn)).filterMap fun c =>
      if t.outLive m b tm tn row c then some ⟨0, (m.outSrc b tm tn pos row c : Nat), 4⟩ else none
  | .splice b tm tn pos row j => (List.range (min 64 (m.outCols tn - 64 * j))).filterMap fun c =>
      if t.outLive m b tm tn row (64 * j + c) then some ⟨0, (m.outSrc b tm tn pos row (64 * j + c) : Nat), 4⟩ else none
  | .func b tm at_ row pos =>
    let r := m.frec
    let g := m.grow b tm row
    let st : List Rng := [⟨0, (m.cell false b at_ tm 0 row pos 0 : Nat), 4 * m.tileCols false at_ 0⟩]
    if m.kind = .mmAtt then st
    else
      let (c, k) := m.sideCols at_
      let w := fmtWidth r.sideFmt / 8
      st ++ (if r.side then [⟨0, (rowElem r.sidePtr r.sideStr r.sideFmt g c : Nat), k * w⟩] else []) ++
        (if r.gamma then [⟨0, r.gammaPtr, 4 * m.aCols⟩] else []) ++ (if r.beta then [⟨0, r.betaPtr, 4 * m.aCols⟩] else []) ++
        (if m.statsIn then [⟨0, (r.statsPtr + 8 * g : Nat), 8⟩] else [])
  | .begin_ b tm => if m.frec.cont then
      [⟨0, (m.frec.statsPtr + 8 * m.grow b tm 0 : Nat), 8 * m.tileRows tm⟩] else []
  | .final b tm row => if (m.blocks tm).isEmpty && !m.frec.cont then []
      else [⟨0, (m.cell true b 0 tm 0 row 0 0 : Nat), 4 * m.dc.across⟩]
  | _ => []

/-- The bytes that a step writes. -/
def Macro.wrRanges (t : Tile) (m : Macro) : Micro → List Rng
  | .stream second b kc at_ tm tn nb row pos =>
    let p := m.prod second b kc at_ tn nb
    [⟨0, (m.cell second b at_ tm tn row pos (nb * 128 * p.g) : Nat), 4 * p.cn⟩]
  | .out b tm tn _ row =>
    let d := m.outDesc
    let (i, c0) := m.outPlace tm tn row
    (List.range (m.outCols tn)).flatMap fun c => if t.outLive m b tm tn row c then d.segs i b (c0 + c) 1 else []
  | .func b tm at_ row _ =>
    let r := m.frec
    let g := m.grow b tm row
    if m.kind = .mmAtt then m.hRanges b tm at_ row 0 (m.tileCols false at_ 0)
    else
      let (c, k) := m.saveCols at_
      m.hRanges b tm 0 row (m.hFirst at_) (hCols m.rf (m.aWidth at_)) ++
        (if r.save then [⟨0, (rowElem r.savePtr r.saveStr r.saveFmt g c : Nat), k * (fmtWidth r.saveFmt / 8)⟩] else []) ++
        (if rfNorm m.rf then [⟨0, (r.statsPtr + 8 * g : Nat), 8⟩] else [])
  | .final b tm row =>
    [⟨0, (m.frec.statsPtr + 8 * m.grow b tm row : Nat), 8⟩] ++
      (if m.out = 2 then m.dd.segs (tm * m.da.tm + row) b 0 m.dd.across else [⟨0, (m.cell true b 0 tm 0 row 0 0 : Nat), 4 * m.dc.across⟩])
  | .zero b row => m.da.segs row b 0 m.da.across
  | _ => []

/-! ## The column sum (R160 to R165) -/

/-- The windowed sum of a group of finite products: W and the sticky flag T (R162). -/
def windowSum (ps : List Num) : Num × Bool :=
  let top := ps.foldl (fun (t : Option Int) x => match x with
    | .fin _ m e => if m = 0 then t else
        let k : Int := e + Nat.log2 m
        match t with
        | some v => some (max v k)
        | none => some k
    | _ => t) none
  match top with
  | none => (.fin false 0 0, false)
  | some e1 =>
    let base := e1 - 43
    let (v, s) := ps.foldl (fun (a : Int × Bool) x => match x with
      | .fin neg m e =>
        if base ≤ e then (a.1 + atExp neg m e base, a.2)
        else
          let k := 2 ^ (base - e).toNat
          let q : Int := (m / k : Nat)
          (a.1 + (if neg then -q else q), a.2 || m % k != 0)
      | _ => a) (0, false)
    (ofExp v base, s)

/-- Adds one group of products, scaled by s, to the partial p (R163, R164). -/
def addGroup (s : Num) (p : Nat) (ps : List Num) : Nat :=
  if ps.any (·.isNan) || s.isNan then fNan
  else
    let pos := ps.any fun x => x == .inf false
    let neg := ps.any fun x => x == .inf true
    let (w, t) := if pos && neg then (Num.nan, false) else if pos then (.inf false, false) else if neg then (.inf true, false)
      else windowSum ps
    (convert 0 (if t then .rna else .rne) 0 ((f32 p).add (s.mul w)) 1).1

/-- One chunk: its products in eight groups of 16, gated rows as +0.0 (R161, R165). -/
def chunkSum (s : Num) (p : Nat) (ps : List Num) : Nat :=
  (List.range 8).foldl (fun p j => addGroup s p ((List.range 16).map fun i => ps.getD (16 * j + i) (.fin false 0 0))) p

/-! ## Effects -/

/-- FP32 bits of a scale, 1.0 where there is none. -/
def scaleBits (x : Num) : Nat := toF32 x
/-- The FP32 scale of column j of a block, as its load reads it (R149, R158). -/
def Tile.colScale (t : Tile) (p : Prod) (j : Nat) : Nat :=
  let c := p.c0 + j
  scaleBits (if p.tr then t.scaleOf p.stat (p.k0 % p.stat.ext0) c (p.k0 / p.stat.ext0) p.b
    else t.scaleOf p.stat (c % p.stat.ext0) p.k0 (c / p.stat.ext0) p.b)
/-- The product of the FP32 scales of an element (R158): of its streamed row, and of its column of the block. -/
def Macro.scaleAt (t : Tile) (m : Macro) (r : Run) (second : Bool) (p : Prod) (b tm row j : Nat) : Num :=
  let sa := if second then (if m.kind = .mmF2 && m.frec.srec then f32 r.scale else .fin false 1 0)
    else
      let a := m.da
      let i := m.aRow tm row
      if m.kind = .mmWg then t.scaleOf a (i % a.ext0) p.k0 (i / a.ext0) b else t.scaleOf a (p.k0 % a.ext0) i (p.k0 / a.ext0) b
  sa.mul (f32 (r.scales.getD j f1))

/-- The values of a streamed segment. -/
def Macro.segment (t : Tile) (m : Macro) (r : Run) (second : Bool) (b kc at_ tm row kn : Nat) : List Num :=
  if second then
    (List.range kn).map fun k =>
      let x := m.hRange b tm at_ row (kc * 128 + k) 1
      decode m.hfmt (leNat ((List.range x.len).map fun (j : Nat) => (t.winRead (r.rloc t m.hb (x.at_ + j)) 1).headD 0))
  else
    match m.kind with
    | .mmWg =>
      let i := m.aRow tm row
      (List.range kn).map fun k => packedNum m.da.fmt ((r.fills.getD k []).getD (i % m.wgGroup) 0)
    | _ =>
      let a := m.da
      let i1 := m.aRow tm row
      (List.range kn).map fun k =>
        let c := kc * 128 + k
        packedNum a.fmt (t.packed (r.rloc t a.bight) a (c % a.ext0) i1 (c / a.ext0) b)

/-- Value (k, j) of the stationary block. -/
def Run.cellVal (r : Run) (p : Prod) (k j : Nat) : Num :=
  packedNum p.stat.fmt (if p.tr then (r.block.getD j []).getD k 0 else (r.block.getD k []).getD j 0)

/-- One row streams: each live element of the block takes the chunk's sum (R138, R144, R161). -/
def Tile.streamRow (t : Tile) (r : Run) (second : Bool) (b kc at_ tm tn nb row pos : Nat) : Tile :=
  let m := r.macro_
  let p := m.prod second b kc at_ tn nb
  let seg := m.segment t r second b kc at_ tm row p.kn
  let masked := m.kind == .mmMm || m.kind == .mmWg
  (List.range p.cn).foldl (fun t' j =>
    let col := nb * 128 * p.g + j
    if masked && !t.maskLive m b tm tn row col then t'
    else
      let off := m.cell second b at_ tm tn row pos col
      let old := t.word32 off
      let p0 := if 0 < kc then old
        else if second && m.kind == .mmAtt then
          fmul (mget r.alphas f1 (m.grow b tm row * 2 + pos % 2)) (if m.freshO tm at_ then f0 else old)
        else if m.out = 1 && (m.kind != .mmF2 || second) then old
        else f0
      let ps := (List.range p.kn).map fun k => (seg.getD k (.fin false 0 0)).mul (r.cellVal p k j)
      t'.putWord32 off (chunkSum (m.scaleAt t r second p b tm row j) p0 ps)) t

/-- One line enters the stationary block, and with it the scales of its columns; line 0 empties it (R131, R145). -/
def Tile.loadLine (t : Tile) (r : Run) (second : Bool) (b kc at_ tn nb ln : Nat) : Run :=
  let p := r.macro_.prod second b kc at_ tn nb
  let st := p.stat
  let loc := r.rloc t st.bight
  let line := if p.tr then (List.range p.kn).map fun k => t.packed loc st ((p.k0 + k) % st.ext0) (p.c0 + ln) ((p.k0 + k) / st.ext0) p.b
    else (List.range p.cn).map fun j => t.packed loc st ((p.c0 + j) % st.ext0) (p.k0 + ln) ((p.c0 + j) / st.ext0) p.b
  let sc := if p.tr then (if ln = 0 then [] else r.scales) ++ [t.colScale p ln]
    else if ln = 0 then (List.range p.cn).map (t.colScale p) else r.scales
  { r with block := (if ln = 0 then [] else r.block) ++ [line], scales := sc }

/-- One stored row enters the transpose buffer (R198). -/
def Tile.fillLine (t : Tile) (r : Run) (b kc grp ln : Nat) : Run :=
  let a := r.macro_.da
  let g := r.macro_.wgGroup
  let loc := r.rloc t a.bight
  let line := (List.range (min g (a.across - grp * g))).map fun j =>
    t.packed loc a ((grp * g + j) % a.ext0) (kc * 128 + ln) ((grp * g + j) / a.ext0) b
  { r with fills := (if ln = 0 then [] else r.fills) ++ [line] }

/-- Cycles that a block's load counts in TILE_MX_LOAD: 128 lines, or 128g transposed ones, at their stride (R131, R142,
R145). -/
def Tile.loadTime (t : Tile) (p : Prod) : Nat :=
  let n := if p.tr then 128 * p.g else 128
  let lines := (List.range p.lines).map fun r => (match (p.lineSegs r).head? with | some x => x.at_.toNat / 256 | none => 0)
  if !t.hashed && p.stat.str1 % 256 = 0 then n * Nat.gcd (p.stat.str1 / 256).natAbs 16
  else wheelTime t.hashed lines + (n - p.lines)

/-- Converts an FP32 value to a result's format under RNE (R135, R171). -/
def toFmt (fmt x : Nat) : Nat := (convert fmt .rne 0 (f32 x) 1).1

/-- One row of a write-out (R135, R142, R144). -/
def Tile.writeRow (t : Tile) (r : Run) (b tm tn pos row : Nat) : Tile :=
  let m := r.macro_
  let d := m.outDesc
  let (i, c0) := m.outPlace tm tn row
  (List.range (m.outCols tn)).foldl (fun t' c =>
    if t.outLive m b tm tn row c then
      t'.putElem (r.wloc t d.bight) d ((c0 + c) % d.ext0) i ((c0 + c) / d.ext0) b (toFmt d.fmt (t.word32 (m.outSrc b tm tn pos row c)))
    else t') t

/-- The 64 values of a splice line: dead columns and columns beyond the edge carry +0.0 (R142, R147). -/
def Tile.spliceLine (t : Tile) (m : Macro) (b tm tn pos row j : Nat) : Option (List Nat) :=
  let live (c : Nat) : Bool := decide (c < m.outCols tn) && t.outLive m b tm tn row c
  if (List.range 64).any fun k => live (64 * j + k) then
    some ((List.range 64).map fun k =>
      let c := 64 * j + k
      if live c then t.word32 (m.outSrc b tm tn pos row c) else f0)
  else none

/-! ## The function unit -/

/-- act and its derivative of a row function (R186). -/
def actOf (rf x : Nat) : Nat :=
  match rf with
  | 1 => fmax x f0
  | 2 => fgelu x
  | 3 => fsilu x
  | 4 => fsilu x
  | 5 => fgelu x
  | 8 => fsilu x
  | 9 => fgelu x
  | _ => x
def dactOf (rf x : Nat) : Nat := if rf = 8 then fdsilu x else fdgelu x
/-- Passes over the staging region (R186, R195). -/
def rfPasses (rf : Nat) : Nat := if rf = 7 then 3 else if rf = 6 || rf = 0xA then 2 else 1
/-- A sum from +0.0 in ascending order (R187). -/
def fsum (l : List Nat) : Nat := l.foldl fadd f0

/-- H of one row of an A tile, the values that SAVE_WHAT 0 keeps, and the STATS entry of a norm (R187). `n` is the number
of columns of A. -/
def rowFunction (rf pre eps n : Nat) (a : List Nat) (side : Nat → Nat) (hasSide : Bool) (gam bet : Nat → Nat) (stats : Nat × Nat) :
    List Nat × List Nat × Nat × Nat :=
  let c := a.length
  let ix := List.range c
  let inRow (l : List Nat) (i : Nat) : Nat := l.getD i 0
  if rfBwd rf then
    let post (h : Nat) : Nat := fmul pre h
    let h :=
      if rfGatedBwd rf then
        (ix.map fun i => fmul (fmul (inRow a i) (side (c + i))) (dactOf rf (side i))) ++
        ix.map fun i => fmul (inRow a i) (actOf rf (side i))
      else if rf = 0xA then
        let inv := stats.2
        let xh (i : Nat) : Nat := fmul (side i) inv
        let k := fdiv (fsum (ix.map fun i => fmul (xh i) (fmul (gam i) (inRow a i)))) (fNat n)
        ix.map fun i => fmul inv (fsub (fmul (gam i) (inRow a i)) (fmul (xh i) k))
      else ix.map fun i => fmul (side i) (fsub (inRow a i) stats.1)
    (h.map post, a, 0, 0)
  else
    let a := a.map fun v => fmul pre v
    if rfGated rf then ((List.range (c / 2)).map fun i => fmul (actOf rf (inRow a i)) (inRow a (i + c / 2)), a, 0, 0)
    else if rfNorm rf then
      let x := if hasSide then ix.map fun i => fadd (inRow a i) (side i) else a
      if rf = 6 then
        let inv := frsqrt (fadd (fdiv (fsum (x.map fun v => fmul v v)) (fNat n)) eps)
        (ix.map fun i => fmul (fmul (inRow x i) inv) (gam i), x, f0, inv)
      else
        let mu := fdiv (fsum x) (fNat n)
        let inv := frsqrt (fadd (fdiv (fsum (x.map fun v => fmul (fsub v mu) (fsub v mu))) (fNat n)) eps)
        (ix.map fun i => fadd (fmul (fmul (fsub (inRow x i) mu) inv) (gam i)) (bet i), x, mu, inv)
    else (a.map (actOf rf), a, 0, 0)

/-- The bits of an element at a byte offset, in a format of whole bytes. -/
def Tile.rowVal (t : Tile) (fmt off : Nat) : Nat := toF32 (decode fmt (leNat (t.winRead off (fmtWidth fmt / 8))))
/-- Writes one. -/
def Tile.putRowVal (t : Tile) (fmt off v : Nat) : Tile := t.winWrite off (leBytes (fmtWidth fmt / 8) v)
/-- Writes one H value into bight HB. -/
def Tile.putH (t : Tile) (r : Run) (b tm at_ row c v : Nat) : Tile :=
  let x := r.macro_.hRange b tm at_ row c 1
  (List.range x.len).foldl (fun t' (j : Nat) => t'.winWrite (r.wloc t r.macro_.hb (x.at_ + j)) [BitVec.ofNat 8 (v / 256 ^ j)]) t

/-- One row of the function of an A tile (R187, R188). -/
def Tile.funcRow (t : Tile) (r : Run) (b tm at_ row pos : Nat) : Tile × Run :=
  let m := r.macro_
  let fr := m.frec
  let c := m.aWidth at_
  let g := m.grow b tm row
  let a := (List.range c).map fun i => t.word32 (m.cell false b at_ tm 0 row pos i)
  let side (i : Nat) : Nat := t.rowVal fr.sideFmt (rowElem fr.sidePtr fr.sideStr fr.sideFmt g ((m.sideCols at_).1 + i))
  let gam (i : Nat) : Nat := if fr.gamma then t.word32 (fr.gammaPtr + 4 * (m.db.tn * at_ + i)) else f1
  let bet (i : Nat) : Nat := if fr.beta then t.word32 (fr.betaPtr + 4 * (m.db.tn * at_ + i)) else f0
  let stats := (t.word32 (fr.statsPtr + 8 * g), t.word32 (fr.statsPtr + 8 * g + 4))
  let (h, x, s0, s1) := rowFunction m.rf fr.pre fr.eps m.aCols a side fr.side gam bet stats
  let sc := if fr.srec then f32 r.scale else .fin false 1 0
  let conv (v : Nat) : Nat × Bool := let (q, den) := quotient (f32 v) sc; convert m.hfmt .rne 0 q den
  let r := if fr.srec then h.foldl (fun r v => r.gather v (conv v).2) r else r
  let t := (List.range h.length).foldl (fun t i => t.putH r b tm 0 row (m.hFirst at_ + i) (conv (h.getD i 0)).1) t
  let kept := if fr.what then h else x
  let t := if fr.save then (List.range kept.length).foldl (fun t i =>
      t.putRowVal fr.saveFmt (rowElem fr.savePtr fr.saveStr fr.saveFmt g ((m.saveCols at_).1 + i)) (toFmt fr.saveFmt (kept.getD i 0))) t
    else t
  let t := if rfNorm m.rf then (t.putWord32 (fr.statsPtr + 8 * g) s0).putWord32 (fr.statsPtr + 8 * g + 4) s1 else t
  (t, r)

/-- One row of the pass of a key block (R193). -/
def Tile.attRow (t : Tile) (r : Run) (b tm at_ row pos : Nat) : Tile × Run :=
  let m := r.macro_
  let n := m.tileCols false at_ 0
  let s := (List.range n).map fun k =>
    if m.keyLive (tm * m.da.tm + row) (at_ * m.db.tm + k) then fmul m.frec.pre (t.word32 (m.cell false b at_ tm 0 row pos k))
    else fNegInf
  let g := m.grow b tm row
  let (mx, l) := mget r.stats (fNegInf, f0) g
  let mnew := s.foldl fmax mx
  let alpha := if (f32 mnew).eqv (f32 mx) then f1 else fexp (fsub mx mnew)
  let p := s.map fun v => if mnew = fNegInf then 0 else toFmt m.hfmt (fexp (fsub v mnew))
  let l := fadd (fmul alpha l) (fsum (p.map fun v => toF32 (decode m.hfmt v)))
  let t := (List.range n).foldl (fun t k => t.putH r b tm at_ row k (p.getD k 0)) t
  (t, { r with stats := mset r.stats g (mnew, l), alphas := mset r.alphas (g * 2 + pos % 2) alpha })

/-- The start of a query tile (R193, R194): a fresh row's O is +0.0 by `Macro.freshO`. -/
def Tile.attBegin (t : Tile) (r : Run) (b tm : Nat) : Run :=
  let m := r.macro_
  (List.range (m.tileRows tm)).foldl (fun r row =>
    let g := m.grow b tm row
    let sp := m.frec.statsPtr + 8 * g
    { r with stats := mset r.stats g (if m.frec.cont then (t.word32 sp, t.word32 (sp + 4)) else (fNegInf, f0)) }) r

/-- The final pass of one row (R193 to R195). -/
def Tile.attFinal (t : Tile) (r : Run) (b tm row : Nat) : Tile :=
  let m := r.macro_
  let (mx, l) := mget r.stats (fNegInf, f0) (m.grow b tm row)
  let sp := m.frec.statsPtr + 8 * m.grow b tm row
  let t := (t.putWord32 sp mx).putWord32 (sp + 4) l
  (List.range m.dc.across).foldl (fun t c =>
    let off := m.cell true b 0 tm 0 row 0 c
    let o := if (m.blocks tm).isEmpty && !m.frec.cont then f0 else t.word32 off
    let v := if m.frec.ping then (if l = f0 then f0 else fdiv o l) else o
    let d := m.dd
    if m.out = 2 then t.putElem (r.wloc t d.bight) d (c % d.ext0) (tm * m.da.tm + row) (c / d.ext0) b (toFmt d.fmt v)
    else t.putWord32 off v) t

/-! ## Steps -/

/-- A macro-instruction names a bight. -/
def Macro.usesBight (m : Macro) : Bool :=
  m.da.bight != 0 || m.db.bight != 0 || m.dc.bight != 0 || m.dd.bight != 0 || m.kind == .mmF2 || m.kind == .mmAtt
/-- The access of a step of the matrix engine's plan: its own ranges, and those of the rest where a bight needs them. -/
def Run.accessMx (t : Tile) (r : Run) (i : Nat) (mi : Micro) : Access :=
  let m := r.macro_
  let rest := if m.usesBight then r.plan.eraseIdx i else []
  { at_ := i, unit := mi.unit, streams := [m.rdStream mi], reads := m.rdRanges t mi, writes := m.wrRanges t mi
    restRd := rest.flatMap (fun x => m.rdStream x ++ m.rdRanges t x), restWr := rest.flatMap (m.wrRanges t), reader := rdMatrix }

/-- Products that a streamed row forms, counted by stationary width (R142, R151). -/
def Dev.countMacs (d : Dev) (n : Nat) (p : Prod) : Dev := d.add (TILE_MX_MACS_V n (macsClass p.stat.fmt)) (p.kn * p.cn)

/-- What a unit of the matrix engine does next, with the access it makes; `ok` says which of its steps the command makes. -/
def Dev.mxNext (d : Dev) (n u : Nat) (ok : Micro → Bool) : Option (Run × Micro × Access) :=
  let t := d.tile n
  match t.head .mx with
  | none => none
  | some r =>
    match r.nextOf u with
    | none => none
    | some (i, mi) => if ok mi && (u != 0 || d.arrayCycle) then some (r, mi, r.accessMx t i mi) else none

/-- The matrix engine's step on port MX-A: a streamed row or a line of a transposed fill. -/
def Dev.mxStream (d : Dev) (n : Nat) (ecc : Ecc) : Dev :=
  match d.mxNext n 0 fun | .stream .. => true | .fill .. => true | _ => false with
  | none => d
  | some (r, mi, a) => d.engineStep n .mx r a ecc fun d r =>
    match mi with
    | .stream second b kc at_ tm tn nb row pos =>
      (((d.modTile n fun t => t.streamRow r second b kc at_ tm tn nb row pos).countMacs n
        (r.macro_.prod second b kc at_ tn nb)).add (TILE_MX_ARRAY_V n) 1, r)
    | .fill b kc grp ln _ => (d, (d.tile n).fillLine r b kc grp ln)
    | _ => (d, r)

/-- Its step on port MX-W: a line of a stationary load, or the start of a query tile. -/
def Dev.mxLoad (d : Dev) (n : Nat) (ecc : Ecc) : Dev :=
  match d.mxNext n 0 fun | .load .. => true | .begin_ .. => true | _ => false with
  | none => d
  | some (r, mi, a) => d.engineStep n .mx r a ecc fun d r =>
    match mi with
    | .load second b kc at_ tn nb ln _ =>
      let k := if ln = 0 then (d.tile n).loadTime (r.macro_.prod second b kc at_ tn nb) else 0
      ((d.add (TILE_MX_LOAD_V n) k).add (TILE_MX_ARRAY_V n) k, (d.tile n).loadLine r second b kc at_ tn nb ln)
    | .begin_ b tm => (d, (d.tile n).attBegin r b tm)
    | _ => (d, r)

/-- Its write-out (R140): one row of a tile through MX-O, or of an accumulator clear. A line read before is read again after a
write-out, which may have changed it (R149). -/
def Dev.mxWriteOut (d : Dev) (n : Nat) (ecc : Ecc) : Dev :=
  match d.mxNext n 2 fun | .out .. => true | .zero .. => true | _ => false with
  | none => d
  | some (r, mi, a) => d.engineStep n .mx r a ecc fun d r =>
    match mi with
    | .out b tm tn pos row => (d.modTile n fun t => t.writeRow r b tm tn pos row, { r with bufs := [] })
    | .zero b row => (d.modTile n fun t =>
        (r.macro_.da.segs row b 0 r.macro_.da.across).foldl (fun t x => t.winWrite x.at_.toNat (zeros x.len)) t, r)
    | _ => (d, r)

/-- One splice line (R147): it waits for credit as qu.spc does (R276), and a route that is not OPEN ends the
macro-instruction early. -/
def Dev.mxSplice (d : Dev) (n : Nat) (ecc : Ecc) : Dev :=
  match d.mxNext n 2 fun | .splice .. => true | _ => false with
  | some (r, .splice b tm tn pos row j, a) =>
    let t := d.tile n
    let m := r.macro_
    let f := m.frond
    let e := m.routeEntry
    let rt := t.route f e
    match t.spliceLine m b tm tn pos row j with
    | none => d.engineStep n .mx r a ecc fun d r => (d, r)
    | some vs =>
      let drop (d : Dev) : Dev := d.modRoute n f e fun x => { x with waiters := x.waiters.filter (· != .engine) }
      if rt.st ≠ .open_ then
        let (code, c) := routeStatus rt.st
        ((drop d).msgCount n c 1).endEarly n .mx r a.at_ code
      else if rt.credit = 0 || (match rt.waiters with | w :: _ => w != .engine | [] => false) then
        if rt.waiters.contains .engine then d
        else
          (d.modTile n fun t => t.setHead .mx { r with waitFrom := d.tick, probed := 0 }).modRoute n f e fun x =>
            { x with waiters := x.waiters ++ [.engine] }
      else d.engineStep n .mx r a ecc fun d r => (((drop d).sendContrib n f e vs m.strand).serveWaiters n f e 9, r)
  | _ => d

/-- One row of a function pass, or of the final pass (R190, R195). -/
def Dev.mxFunc (d : Dev) (n : Nat) (ecc : Ecc) : Dev :=
  match d.mxNext n 1 fun _ => true with
  | none => d
  | some (r, mi, a) =>
    let m := r.macro_
    let go (k : Nat) (eff : Tile → Run → Tile × Run) : Dev := d.engineStep n .mx r a ecc fun d r =>
      let (t, r) := eff (d.tile n) r
      ((d.modTile n fun _ => t).add (TILE_MX_FUNC_V n) k, r)
    match mi with
    | .func b tm at_ row pos =>
      if m.kind = .mmAtt then go (2 * ceilDiv m.db.tm 128) fun t r => t.attRow r b tm at_ row pos
      else go (rfPasses m.rf * ceilDiv (m.aWidth at_) 128) fun t r => t.funcRow r b tm at_ row pos
    | .final b tm row => go (ceilDiv m.dc.across 128) fun t r => (t.attFinal r b tm row, r)
    | _ => d

end Sys2Proof.Machine
end

