-- ==== Sys2Proof/Machine/Vx.lean ====
section
/-! DEFINITION. The vector engine: beats of a chain (R201 to R218), row reductions (R213), vx.close (R177, R223) and
vx.opt (R225); and the fill/copy unit (R252, R256). -/

namespace Sys2Proof.Machine

/-! ## Chain operations (R210) -/

/-- The result of an element operation on FP32 bits. -/
def chainOp (fn a b c imm : Nat) : Nat :=
  match fn with
  | 0x00 => a
  | 0x01 => fadd a b
  | 0x02 => fsub a b
  | 0x03 => fmul a b
  | 0x04 => ffma a b c
  | 0x05 => fmax a b
  | 0x06 => fmin a b
  | 0x07 => fabs a
  | 0x08 => fneg a
  | 0x09 => if !fIsNan c && c % 2 ^ 31 != 0 then a else b
  | 0x0A => if (f32 a).lt (f32 b) then f1 else f0
  | 0x0B => if (f32 a).eqv (f32 b) then f1 else f0
  | 0x0C => frint a
  | 0x0D => fmin (fmax a b) c
  | 0x0E => fmax a f0
  | 0x10 => fexp a
  | 0x11 => flog a
  | 0x12 => fdiv f1 a
  | 0x13 => fsqrt a
  | 0x14 => frsqrt a
  | 0x15 => ftanh a
  | 0x16 => fsigm a
  | 0x17 => fdiv a b
  | 0x19 => fsilu a
  | 0x1A => fgelu a
  | 0x1B => fdsilu a
  | 0x1C => fdgelu a
  | _ => splitPiece imm a

/-- Latches L0 to L3 of one lane, and what the lane gives to OUT0 and OUT1. -/
structure LaneRegs where
  l : List Nat
  out0 : Nat
  out1 : Nat

/-- A source of a chain word in one lane (R207). -/
def laneSrc (x : LaneRegs) (in0 in1 imm lane row : Nat) (s : Nat) : Nat :=
  match s with
  | 0 => in0
  | 1 => in1
  | 6 => fCanon imm
  | 7 => f0
  | 8 => fNat lane
  | 9 => fNat row
  | k => x.l.getD (k - 2) 0

/-- The chain in one lane (R208). A reduction hands its source to its output; the row takes it from there. -/
def runLane (ws : List CWord) (in0 in1 lane row : Nat) : LaneRegs :=
  ws.foldl (fun x w =>
    let s (k : Nat) : Nat := laneSrc x in0 in1 w.imm lane row k
    let v := if fnReduce w.fn then s w.sa else chainOp w.fn (s w.sa) (s w.sb) (s w.sc) w.imm
    match w.dst with
    | 4 => { x with out0 := v }
    | 5 => { x with out1 := v }
    | k => { x with l := lset x.l k v }) ⟨[0, 0, 0, 0], 0, 0⟩

/-! ## Row reductions (R213) -/

/-- A lane's partial result: the value, and the element index that vx.rarg carries. -/
abbrev Part2 := Nat × Nat
/-- Combines two partial results. -/
def redOp (fn : Nat) (x y : Part2) : Part2 :=
  match fn with
  | 0x20 => (fadd x.1 y.1, 0)
  | 0x22 => (fmin x.1 y.1, 0)
  | 0x24 =>
    if fIsNan x.1 || fIsNan y.1 then
      if fIsNan x.1 && fIsNan y.1 then (fNan, min x.2 y.2) else if fIsNan x.1 then x else y
    else if x.1 = y.1 then (x.1, min x.2 y.2)
    else if fmax x.1 y.1 = x.1 then x else y
  | _ => (fmax x.1 y.1, 0)
/-- The tree over the lanes; a lane without a value is absent. -/
def redTree (fn : Nat) (l : List Part2) : Part2 :=
  let step (w : Nat) (v : List (Option Part2)) : List (Option Part2) :=
    (List.range 128).map fun j =>
      if j % (2 * w) = 0 then
        match v.getD j none, v.getD (j + w) none with
        | some x, some y => some (redOp fn x y)
        | some x, none => some x
        | none, y => y
      else v.getD j none
  let v0 := (List.range 128).map fun j => l[j]?
  (([1, 2, 4, 8, 16, 32, 64].foldl (fun v w => step w v) v0).headD none).getD (f0, 0)

/-- What a reduction takes from a lane. -/
def redIn (fn v i : Nat) : Part2 := (if fn = 0x23 then fabs v else v, if fn = 0x24 then i else 0)
/-- Lane results of the row so far with one more beat. -/
def redBeat (fn bt : Nat) (acc vs : List Part2) : List Part2 :=
  if bt = 0 then vs
  else (List.range acc.length).map fun j =>
    match acc[j]?, vs[j]? with
    | some a, some v => redOp fn a v
    | some a, none => a
    | none, _ => (f0, 0)
/-- The lane results are kept as numbers. -/
def packPart (p : Part2) : Nat := p.1 * 2 ^ 32 + p.2
def unpackPart (v : Nat) : Part2 := (v / 2 ^ 32, v % 2 ^ 32)

/-! ## Inputs and outputs -/

/-- Index of an input along a dimension: broadcast where its extent is 1 (R203). -/
def bcast (ext i : Nat) : Nat := if ext = 1 then 0 else i

/-- Inputs that the chain reads. -/
def Macro.vxIns (m : Macro) : List Desc :=
  (if readsSrc m.words 0 then [m.da] else []) ++ if readsSrc m.words 1 then [m.db] else []
/-- Elements of beat bt of a row of the chain shape. -/
def Macro.beatLanes (m : Macro) (bt : Nat) : Nat := min 128 (m.shape.ext0 - bt * 128)
/-- The output reduces its rows. -/
def Macro.reduces (m : Macro) (o : Nat) : Option Nat :=
  match outWord m.words o with
  | some w => if fnReduce w.fn then some w.fn else none
  | none => none
/-- Outputs: their word's destination code and descriptor. -/
def Macro.vxOuts (m : Macro) : List (Nat × Desc) := [(4, m.dc)] ++ if bit m.spec 20 = 1 then [(5, m.dd)] else []

/-- A beat reads an input's elements: all of them, but a value that serves a whole row is read with the row's first beat, and a
row that serves every row is read with the batch's first (R203). -/
def Desc.vxFresh (d : Desc) (i2 i1 bt : Nat) : Bool :=
  (d.ext0 != 1 || bt == 0) && (d.ext1 != 1 || (i1 == 0 && (d.ext2 != 1 || i2 == 0)))
/-- First column and number of the elements of an input that beat bt uses. -/
def Macro.vxCols (m : Macro) (d : Desc) (bt : Nat) : Nat × Nat := if d.ext0 = 1 then (0, 1) else (bt * 128, m.beatLanes bt)
/-- Ranges that a beat reads of each input; of their scales; and ranges that it writes. -/
def Macro.rdBeat (m : Macro) (i3 i2 i1 bt : Nat) : List (List Rng) :=
  m.vxIns.map fun d =>
    let (c, n) := m.vxCols d bt
    if d.vxFresh i2 i1 bt then d.segs (bcast d.ext1 i1) (bcast d.ext3 i3) (bcast d.ext2 i2 * d.ext0 + c) n else []
def Macro.rdBeatScales (m : Macro) (i3 i2 i1 bt : Nat) : List Rng :=
  m.vxIns.flatMap fun d =>
    let (c, n) := m.vxCols d bt
    if d.vxFresh i2 i1 bt then d.scaleSegs (bcast d.ext1 i1) (bcast d.ext3 i3) (bcast d.ext2 i2 * d.ext0 + c) n else []
def Macro.wrBeat (m : Macro) (i3 i2 i1 bt : Nat) (last : Bool) : List Rng :=
  m.vxOuts.flatMap fun o =>
    let d := o.2
    let (c, n) := if (m.reduces o.1).isSome then (0, if last then 1 else 0) else (bt * 128, m.beatLanes bt)
    d.segs i1 i3 (i2 * d.ext0 + c) n ++ if d.smode = 4 then d.scaleSegs i1 i3 (i2 * d.ext0 + c) n else []

/-- emax of an MX target (R174). -/
def mxEmax (fmt : Nat) : Int :=
  match fmt with
  | 3 => 8
  | 4 => 15
  | 5 => 4
  | 6 => 2
  | 7 => 2
  | _ => 0
/-- The shared exponent of a block and its scale byte (R174). -/
def mxScale (fmt : Nat) (vs : List Nat) : Int × Nat :=
  let a := vs.foldl (fun m v => if (f32 v).isFin then fmax m (fabs v) else m) f0
  let x : Int := match f32 a with
    | .fin _ m e => if m = 0 then -127 else max (-127) (min 127 (e + Nat.log2 m - mxEmax fmt))
    | _ => -127
  (x, if vs.any fIsNan then 0xFF else (x + 127).toNat)

/-- Rounding mode of an output: SPEC.RM, but OUT1 never rounds stochastically (R215). -/
def outRnd (m : Macro) (r : Run) (o idx : Nat) : Rnd :=
  match bits m.spec 23 22 with
  | 1 => if o = 4 then .sr (srBits r.seed r.step idx) else .rne
  | 2 => .rtz
  | _ => .rne

/-- Writes the values of output `o` for elements [c, c + n) of a row, with MX scales, and gathers into the record (R174,
R176, R215). -/
def Tile.putOut (t : Tile) (r : Run) (o : Nat) (i3 i2 i1 c : Nat) (vs : List Nat) : Tile × Run :=
  let m := r.macro_
  let d := if o = 4 then m.dc else m.dd
  let srec := o = 4 && bit m.spec 21 == 1
  let blk (j : Nat) : Int × Nat := mxScale d.fmt ((vs.drop (j / 32 * 32)).take 32)
  let t := if d.smode = 4 then
      (List.range (ceilDiv vs.length 32)).foldl (fun t k => t.winWrite (d.mxOff (c + 32 * k) i1 i2 i3) [BitVec.ofNat 8 (blk (32 * k)).2]) t
    else t
  let sc (j : Nat) : Num :=
    if d.smode = 4 then .fin false 1 (blk j).1
    else if d.smode = 1 then (if srec then f32 r.scale else f32 (t.word32 d.sptr))
    else .fin false 1 0
  let loc := r.wloc t d.bight
  (List.range vs.length).foldl (fun (x : Tile × Run) j =>
    let v := vs.getD j 0
    let (q, den) := quotient (f32 v) (sc j)
    let idx := (c + j) + d.ext0 * (i1 + d.ext1 * (i2 + d.ext2 * i3))
    let (bits_, sat) := convert d.fmt (outRnd m r o idx) (if d.smode = 4 then mxUnit d.fmt else 0) q den
    (x.1.putElem loc d (c + j) i1 i2 i3 bits_, if srec then x.2.gather v sat else x.2)) (t, r)

/-- What input `k` gives to the lanes of a beat: its elements, read now or kept from the beat that read them (R203). -/
def Tile.vxInput (t : Tile) (r : Run) (k : Nat) (d : Desc) (i3 i2 i1 bt : Nat) : List Nat × Run :=
  let m := r.macro_
  let (c, n) := m.vxCols d bt
  let old := mget r.cast [] k
  let all := if d.vxFresh i2 i1 bt then
      let vs := (List.range n).map fun j =>
        toF32 (t.value (r.rloc t d.bight) d (c + j) (bcast d.ext1 i1) (bcast d.ext2 i2) (bcast d.ext3 i3))
      if d.ext1 = 1 then (if bt = 0 then [] else old) ++ vs else (List.replicate c 0) ++ vs
    else old
  ((List.range (m.beatLanes bt)).map fun j => all.getD (if d.ext0 = 1 then 0 else c + j) 0, { r with cast := mset r.cast k all })

/-- One beat of vx.run. -/
def Tile.beat (t : Tile) (r : Run) (i3 i2 i1 bt : Nat) (last : Bool) : Tile × Run :=
  let m := r.macro_
  let ws := m.words
  let n := m.beatLanes bt
  let (x0, r) := if readsSrc ws 0 then t.vxInput r 0 m.da i3 i2 i1 bt else ([], r)
  let (x1, r) := if readsSrc ws 1 then t.vxInput r 1 m.db i3 i2 i1 bt else ([], r)
  let res := (List.range n).map fun j => runLane ws (x0.getD j 0) (x1.getD j 0) (bt * 128 + j) i1
  m.vxOuts.foldl (fun (x : Tile × Run) o =>
    let vs := res.map fun l => if o.1 = 4 then l.out0 else l.out1
    match m.reduces o.1 with
    | none => x.1.putOut x.2 o.1 i3 i2 i1 (bt * 128) vs
    | some fn =>
      let have_ := (mget x.2.lanes [] o.1).map unpackPart
      let now := redBeat fn bt have_ ((List.range n).map fun j => redIn fn (vs.getD j 0) (bt * 128 + j))
      let r := { x.2 with lanes := mset x.2.lanes o.1 (now.map packPart) }
      if last then
        let v := redTree fn now
        x.1.putOut r o.1 i3 i2 i1 0 [if fn = 0x24 then fNat v.2 else v.1]
      else (x.1, r)) (t, r)

/-! ## vx.close (R177) -/

/-- The largest finite value of a target, as a value; none for a reserved one (R177). -/
def fmaxOf (c : Nat) : Option Num :=
  if c ≤ 7 then some (.fin false (maxFin c).1 (maxFin c).2)
  else match c with
    | 8 => some (.fin false 127 0)
    | 9 => some (.fin false 7 0)
    | 10 => some (.fin false 1 0)
    | 11 => some (.fin false 1 0)
    | 12 => some (.fin false 1 0)
    | 13 => some (.fin false 255 0)
    | _ => none

/-- Clamps the exponent of a power-of-two scale and gives its FP32 bits. -/
def pow2F32 (k : Int) : Nat := ((max (-126) (min 127 k)) + 127).toNat * 2 ^ 23

/-- Replaces bytes of a record from offset o. -/
def writeAt (b : List Byte) (o : Nat) (v : List Byte) : List Byte := b.take o ++ v ++ b.drop (o + v.length)
/-- Rounding toward +infinity of a value of either sign. -/
def upOf (x : Num) : Rnd := match x with | .fin true _ _ => .rtz | _ => .up
/-- The exponent of a power-of-two scale for a / lim (R177); of an `a` that is negative or NaN the spec states no logarithm, and it
is a free value (log 1). -/
def closeExp (a : Nat) (q : Num) (den : Nat) : Int :=
  match q with
  | .fin false m e =>
    let k := flog2 m den
    let exact := if 0 ≤ k then decide (m = den * 2 ^ k.toNat) else decide (m * 2 ^ (-k).toNat = den)
    k + e + if exact then 0 else 1
  | .inf false => 127
  | _ => (Config.closeExp a).toInt
/-- close_pass (R177) on the 64 bytes of a record. -/
def closePass (b : List Byte) : List Byte :=
  let w := fieldAt b
  let head := (w 52 1 + 1) % 16
  let amax := f32 (w 4 4)
  let newest := (convert 1 (upOf amax) 0 amax 1).1
  let b := writeAt b (8 + 2 * head) (leBytes 2 newest)
  let count := if w 53 1 < 16 then w 53 1 + 1 else w 53 1
  let src := w 55 1 % 4
  let pow2 := bit (w 55 1) 2 == 1
  let bad := src == 3 || (fmaxOf (w 54 1 % 16)).isNone || w 55 1 / 8 != 0 || w 54 1 / 16 != 0
  let hist (k : Nat) : Nat := fieldAt b (8 + 2 * ((head + 16 - k) % 16)) 2 * 2 ^ 16
  let a := if src = 0 then ((List.range (min 16 count)).map hist).foldl fmax (hist 0) else hist 0
  let held := bad || src == 2 || a % 2 ^ 31 == 0
  let lim : Num := ((fmaxOf (w 54 1 % 16)).getD (.fin false 1 0)).mul (.fin false 1 (-(signedOf 8 (w 56 1))))
  let (q, den) := quotient (f32 a) lim
  let scale := if pow2 then pow2F32 (closeExp a q den)
    else match q with
      | .fin .. =>
        let v := (convert 0 (upOf q) 0 q den).1
        if (f32 v).isFin then v else 0x7F7FFFFF
      | .inf false => 0x7F7FFFFF
      | .inf true => 0xFF800000
      | .nan => fNan
  let b := writeAt b 52 [BitVec.ofNat 8 head, BitVec.ofNat 8 count]
  let b := if held then b else writeAt b 0 (leBytes 4 scale)
  let b := writeAt b 4 (leBytes 4 0)
  let fl := setBits (setBits (setBits (w 57 1) 0 0 0) 1 1 (if bad then 1 else 0)) 2 2 (if held then 1 else 0)
  let b := writeAt b 57 (leBytes 1 fl)
  writeAt b 60 (leBytes 4 0)

/-! ## vx.opt (R225) -/

/-- One element of an optimiser step: new w, m and v. -/
def optStep (rec : List Byte) (adam : Bool) (w g m v : Nat) : Nat × Nat × Nat :=
  let p (o : Nat) : Nat := fieldAt rec o 4
  let lr := p 4
  let b1 := p 8
  let b2 := p 12
  let g1 := fmul (p 32) g
  if adam then
    let m := fadd (fmul b1 m) (fmul (fsub f1 b1) g1)
    let v := fadd (fmul b2 v) (fmul (fsub f1 b2) (fmul g1 g1))
    let u := fdiv (fmul m (p 24)) (fadd (fsqrt (fmul v (p 28))) (p 16))
    (fsub w (fmul lr (fadd u (fmul (p 20) w))), m, v)
  else
    let m := fadd (fmul b1 m) g1
    (fsub w (fmul lr (fadd m (fmul (p 20) w))), m, v)

/-- ADAMW. -/
def Macro.adam (m : Macro) : Bool := bits m.spec 27 24 == 0
/-- Ranges that a beat of vx.opt reads, and writes. -/
def Macro.rdOpt (m : Macro) (i3 i2 i1 bt : Nat) : List (List Rng) :=
  let n := min 128 (m.da.ext0 - bt * 128)
  ([m.da, m.db, m.dc] ++ if m.adam then [m.dd] else []).map fun d => d.segs i1 i3 (i2 * d.ext0 + bt * 128) n
def Macro.wrOpt (m : Macro) (i3 i2 i1 bt : Nat) : List Rng :=
  let n := min 128 (m.da.ext0 - bt * 128)
  ([m.da, m.dc] ++ if m.adam then [m.dd] else []).flatMap fun d => d.segs i1 i3 (i2 * d.ext0 + bt * 128) n
/-- One beat of vx.opt. -/
def Tile.optBeat (t : Tile) (r : Run) (i3 i2 i1 bt : Nat) : Tile :=
  let m := r.macro_
  let val (d : Desc) (i0 : Nat) : Nat := toF32 (t.value (r.rloc t d.bight) d i0 i1 i2 i3)
  (List.range (min 128 (m.da.ext0 - bt * 128))).foldl (fun t' j =>
    let i0 := bt * 128 + j
    let (w, mo, v) := optStep m.record m.adam (val m.da i0) (val m.db i0) (val m.dc i0) (if m.adam then val m.dd i0 else 0)
    let t' := t'.putElem (r.wloc t m.da.bight) m.da i0 i1 i2 i3 w
    let t' := t'.putElem (r.wloc t m.dc.bight) m.dc i0 i1 i2 i3 mo
    if m.adam then t'.putElem (r.wloc t m.dd.bight) m.dd i0 i1 i2 i3 v else t') t

/-! ## Walks and steps -/

/-- Rows of a shape in the order of R202. -/
def rowsOf (d : Desc) : List (Nat × Nat × Nat) :=
  (List.range d.ext3).flatMap fun i3 => (List.range d.ext2).flatMap fun i2 => (List.range d.ext1).map fun i1 => (i3, i2, i1)
/-- The walk of a vector macro-instruction. -/
def Macro.planVx (m : Macro) : List Micro :=
  match m.kind with
  | .vxClose => [.close]
  | .vxOpt => (rowsOf m.da).flatMap fun x => (List.range (ceilDiv m.da.ext0 128)).map fun bt => Micro.opt x.1 x.2.1 x.2.2 bt
  | _ =>
    let k := ceilDiv m.shape.ext0 128
    (rowsOf m.shape).flatMap fun x => (List.range k).map fun bt => Micro.beat x.1 x.2.1 x.2.2 bt (bt + 1 == k)

/-- Ranges of a vector step: its read streams, what it reads beside them, and what it writes. The record of SREC is read and
written at its start and its end (R176). -/
def Macro.rdVx (m : Macro) : Micro → List (List Rng)
  | .beat i3 i2 i1 bt _ => m.rdBeat i3 i2 i1 bt
  | .opt i3 i2 i1 bt => m.rdOpt i3 i2 i1 bt
  | _ => []
def Macro.rdVxOther (m : Macro) : Micro → List Rng
  | .beat i3 i2 i1 bt _ => m.rdBeatScales i3 i2 i1 bt
  | .close => [⟨0, (m.spec % 2 ^ 19 * 64 : Nat), 64⟩]
  | _ => []
def Macro.wrVx (m : Macro) : Micro → List Rng
  | .beat i3 i2 i1 bt last => m.wrBeat i3 i2 i1 bt last
  | .opt i3 i2 i1 bt => m.wrOpt i3 i2 i1 bt
  | .close => [⟨0, (m.spec % 2 ^ 19 * 64 : Nat), 64⟩]
  | _ => []
/-- The access of the vector engine's next step. -/
def Run.accessVx (r : Run) (mi : Micro) : Access :=
  let m := r.macro_
  let rest := if m.usesBight then r.plan.drop 1 else []
  { at_ := 0, unit := 0, streams := m.rdVx mi, reads := m.rdVxOther mi, writes := m.wrVx mi
    restRd := rest.flatMap (fun x => (m.rdVx x).flatten), restWr := rest.flatMap m.wrVx, reader := rdVector }

/-- The vector engine's next beat, or its step on a record. -/
def Dev.vxBeat (d : Dev) (n : Nat) (ecc : Ecc) : Dev :=
  let t := d.tile n
  match t.head .vx with
  | none => d
  | some r =>
    match r.plan with
    | [] => d
    | mi :: _ =>
      let m := r.macro_
      let go (eff : Dev → Run → Dev × Run) : Dev := d.engineStep n .vx r (r.accessVx mi) ecc eff
      match mi with
      | .beat i3 i2 i1 bt last => go fun d r =>
          let (t, r) := (d.tile n).beat r i3 i2 i1 bt last
          let k := m.beatLanes bt
          let d := (d.modTile n fun _ => t).add (TILE_VX_BEATS_V n) 1
          ((d.add (TILE_VX_SPECIAL_V n) (k * (m.words.filter fun w => fnSpecial w.fn).length)).add
            (TILE_VX_LANEOPS_V n) (k * m.words.length), r)
      | .opt i3 i2 i1 bt => go fun d r =>
          let k := min 128 (m.da.ext0 - bt * 128)
          let d := (d.modTile n fun t => t.optBeat r i3 i2 i1 bt).add (TILE_VX_BEATS_V n) 1
          ((d.add (TILE_VX_SPECIAL_V n) (if m.adam then 2 * k else 0)).add (TILE_VX_LANEOPS_V n) (k * if m.adam then 7 else 4), r)
      | .close => go fun d r =>
          (d.modTile n fun t => t.winWrite (m.spec % 2 ^ 19 * 64) (closePass (t.winRead (m.spec % 2 ^ 19 * 64) 64)), r)
      | _ => d

/-! ## The fill/copy unit -/

/-- The first column after c, at most `ext0`, whose element begins in another line than that of column c (R111). -/
def Desc.lineEnd (d : Desc) (i3 i2 i1 c : Nat) : Nat :=
  let bit0 := (d.addr 0 i1 i2 i3).toNat * 8
  let line := (bit0 + c * d.w) / 2048
  min d.ext0 (ceilDiv ((line + 1) * 2048 - bit0) d.w)
/-- The pieces of columns [c, ext0) of a row that lie within one line of each of the operands: first column and length. -/
def rowPieces (ds : List Desc) (i3 i2 i1 ext0 : Nat) : Nat → Nat → List (Nat × Nat)
  | 0, _ => []
  | k + 1, c =>
    if ext0 ≤ c then []
    else
      let e := ds.foldl (fun e d => min e (max (c + 1) (d.lineEnd i3 i2 i1 c))) ext0
      (c, e - c) :: rowPieces ds i3 i2 i1 ext0 k e
/-- The walk of a fill/copy macro-instruction: each step accesses one line of each side (R256, R258). -/
def Macro.planFc (m : Macro) : List Micro :=
  let pieces (ds : List Desc) (go : Nat → Nat → Nat → Nat → Nat → Micro) : List Micro :=
    (rowsOf m.dc).flatMap fun x =>
      (rowPieces ds x.1 x.2.1 x.2.2 m.dc.ext0 (2 * (m.dc.rowLen / 256 + 2)) 0).map fun p => go x.1 x.2.1 x.2.2 p.1 p.2
  match m.kind with
  | .spFill => pieces [m.dc] .fillRow
  | .spCopy => pieces [m.da, m.dc] .copyRow
  | _ => [.bightOp]
/-- A step of sp.fill reads the pattern: the first one does. -/
def Macro.readsPat (m : Macro) (i3 i2 i1 c : Nat) : Bool := bit m.spec 20 == 1 && i3 + i2 + i1 + c == 0
/-- Ranges of its steps. The pattern of sp.fill is read with the first of them. -/
def Macro.rdFc (m : Macro) : Micro → List Rng
  | .fillRow i3 i2 i1 c _ => if m.readsPat i3 i2 i1 c then m.da.segs 0 0 0 1 else []
  | .copyRow i3 i2 i1 c len => m.da.segs i1 i3 (i2 * m.da.ext0 + c) len
  | _ => []
def Macro.wrFc (m : Macro) : Micro → List Rng
  | .fillRow i3 i2 i1 c len => m.dc.segs i1 i3 (i2 * m.dc.ext0 + c) len
  | .copyRow i3 i2 i1 c len => m.dc.segs i1 i3 (i2 * m.dc.ext0 + c) len
  | _ => []

/-- Elements [c0, c0 + len) of a row of sp.fill or sp.copy (R256). -/
def Tile.fcRow (t : Tile) (r : Run) (i3 i2 i1 c0 len : Nat) (copy : Bool) : Tile × Run :=
  let m := r.macro_
  let a := m.da
  let c := m.dc
  let pat := if m.readsPat i3 i2 i1 c0 then [t.elem (r.rloc t a.bight) a 0 0 0 0] else mget r.cast [] 0
  ((List.range len).foldl (fun t' j =>
    let i0 := c0 + j
    t'.putElem (r.wloc t c.bight) c i0 i1 i2 i3 (if copy then t.elem (r.rloc t a.bight) a i0 i1 i2 i3 else pat.headD 0)) t,
   if copy then r else { r with cast := mset r.cast 0 pat })

/-- sp.bfill, sp.bdrain and sp.breset (R252): none where the requirement fails. A claim of a side that the operation takes effect on
is broken. -/
def Bight.strandOp (b : Bight) (k : MacroKind) (n : Nat) : Option Bight :=
  let p := { b with pBroken := b.pBroken || b.pclaim.isSome }
  let c (b : Bight) : Bight := { b with cBroken := b.cBroken || b.cclaim.isSome }
  match k with
  | .spBfill => if b.full + n ≤ b.lines then some (p.fillN n) else none
  | .spBdrain => if n ≤ b.full then some ((c b).drainN n) else none
  | _ => some { c p with fill := 0, drain := 0, full := 0 }
/-- The access of the fill/copy unit's next step. -/
def Run.accessFc (r : Run) (mi : Micro) : Access :=
  let m := r.macro_
  let rest := if m.usesBight then r.plan.drop 1 else []
  { at_ := 0, unit := 0, streams := [m.rdFc mi], reads := [], writes := m.wrFc mi
    restRd := rest.flatMap m.rdFc, restWr := rest.flatMap m.wrFc, reader := rdFill }

/-- The fill/copy unit's next line of a row, or bight operation. -/
def Dev.fcStep (d : Dev) (n : Nat) (ecc : Ecc) : Dev :=
  let t := d.tile n
  match t.head .fc with
  | none => d
  | some r =>
    match r.plan with
    | [] => d
    | mi :: _ =>
      let m := r.macro_
      let go (eff : Tile → Run → Tile × Run) : Dev :=
        d.engineStep n .fc r (r.accessFc mi) ecc fun d r =>
          let (t, r) := eff (d.tile n) r
          (d.modTile n fun _ => t, r)
      match mi with
      | .fillRow i3 i2 i1 c len => go fun t r => t.fcRow r i3 i2 i1 c len false
      | .copyRow i3 i2 i1 c len => go fun t r => t.fcRow r i3 i2 i1 c len true
      | .bightOp =>
        let h := bits m.spec 19 16
        match (t.bight m.frond h).strandOp m.kind (m.spec % 2 ^ 16) with
        | none => d.endEarly n .fc r 0 stBight
        | some x => d.modTile n fun t => (t.modBight m.frond h fun _ => x).setHead .fc { r with plan := [] }
      | _ => d

end Sys2Proof.Machine
end

