-- ==== Sys2Proof/Machine/Mem.lean ====
section
/-! DEFINITION. HBM and DDR5 (R368 to R398): where a line lies (R370, R386), who may reach it (R22, R23), the key it is
read and written under (R388 to R392), errors (R396, R397, R497, R498, R506), and the channels (R374 to R379). -/

namespace Sys2Proof.Machine

/-! ## Access -/

/-- Status of an access of partition p to [a, a + len) of memory (R22, R23, R427); 0 where it may be made. Partition 0
stands for the owner's credential, which reaches every partition. -/
def Dev.memStatus (d : Dev) (p a len : Nat) : Byte :=
  let last := a + len - 1
  if !(d.populated a && d.populated last) then stUnmapped
  else
    let own (x : Nat) : Bool := let o := d.pageOwner (memTier x) (memPage x); o != 0 && (p == 0 || o == p)
    if own a && own last then stOk else stDenied

/-! ## Keys -/

/-- The page is being swept, and its sweep pointer lies beyond the line (R392). -/
def Dev.movingAt (d : Dev) (p a : Nat) : Bool :=
  d.is (MEM_P_SWSTAT_MOVING p) && d.get (MEM_P_SWSTAT_TIER p) == memTier a && d.get (MEM_P_SWSTAT_PAGE p) == memPage a
/-- Line of an address within its page. -/
def pageLine (a : Nat) : Nat := memOff a % pageBytes / 256
/-- Serial of the key that a line is read and written under (R389, R392). -/
def Dev.lineSerial (d : Dev) (a : Nat) : Nat :=
  let p := d.pageOwner (memTier a) (memPage a)
  let x := d.part p
  let old := x.movedOld.contains (pageKey (memTier a) (memPage a)) && !(d.movingAt p a && decide (pageLine a < d.get (MEM_P_SWSTAT_LINE p)))
  if old then x.oldKey.serial else x.curKey.serial
/-- The line stands in its partition's sweep buffer (R392). -/
def Dev.inSweep (d : Dev) (a : Nat) : Option (List Byte) :=
  let p := d.pageOwner (memTier a) (memPage a)
  if p != 0 && d.movingAt p a && pageLine a == d.get (MEM_P_SWSTAT_LINE p) then (d.part p).sweepBuf else none
/-- The pair of AES-256 keys with a serial: one delivered, or one that the device drew for a partition (R388, R391). -/
def Dev.keyPair (d : Dev) (serial : Nat) : List Byte :=
  mget d.mem.keys ((List.range 64).map (Config.keyByte 6 (leBytes 8 serial))) serial
/-- The 256 bytes that the arrays hold for a line: its plaintext under the key and tweak of its write, AES-256-XTS (R388). -/
def Dev.lineCipher (d : Dev) (a : Nat) : List Byte :=
  let b := a / 256 * 256
  match d.mem.lineKey.find? fun e => e.1 == a / 256 with
  | some e => xtsSeal (d.keyPair e.2.1) e.2.2 (cread d.mem.cells b 256)
  | none => (List.range 256).map fun i => Config.freeByte 0 (b + i)
/-- The 256 bytes of a line under a key (R388, R390): its plaintext where that key and the line's own tweak wrote it, else its old
ciphertext decrypted. -/
def Dev.lineUnder (d : Dev) (a serial : Nat) : List Byte :=
  let b := a / 256 * 256
  if serial = 0 then (List.range 256).map fun i => Config.freeByte serial (b + i)
  else if mget d.mem.lineKey (0, 0) (a / 256) = (serial, a / 256) then cread d.mem.cells b 256
  else xtsOpen (d.keyPair serial) (a / 256) (d.lineCipher a)
/-- The 256 bytes of the line of an address, as an access finds them. -/
def Dev.memLine (d : Dev) (a : Nat) : List Byte :=
  match d.inSweep a with
  | some b => b
  | none => d.lineUnder a (d.lineSerial a)
/-- Writes a line's 256 bytes under a key. -/
def Dev.putLine (d : Dev) (a serial : Nat) (bs : List Byte) : Dev :=
  { d with mem := { d.mem with
      cells := cwrite d.mem.cells (a / 256 * 256) bs
      lineKey := mset d.mem.lineKey (a / 256) (serial, a / 256) } }
/-- Reads bytes of one line. -/
def Dev.memRead (d : Dev) (a len : Nat) : List Byte := slice (d.memLine a) (a % 256) len

/-! ## Errors -/

/-- The row of an address needs a spare (R506): the device copies it into a buffer where it brings in spares by itself, else it records
the need. A row that still holds an uncorrectable word waits until whole-line writes have replaced every such line of it (R499). With the
row pool used up, the unit is advised too (R516). -/
def Dev.rowNeed (d : Dev) (a : Nat) : Dev :=
  let u := d.unitAt a
  let row := d.rowAt a
  if d.mem.rowBufs.contains (u, row) || d.mem.rowCopy.contains (u, row) || d.rowBad u row then d
  else
    let used := (d.mem.rowBufs.filter (·.1 == u)).length + (d.mem.rowCopy.filter (·.1 == u)).length
    let d := d.setRowHome (u, row) (d.pageOwner (memTier a) (memPage a), (d.memPlace a).1)
    if decide (rowRoom u ≤ used) then (d.raiseLevel 2 (if u < 12 then 6 else 8)).adviseUnit u
    else if !d.sparesItself then d.addNeed 6 u row
    else d.startRow u row

/-- A write of a line: a partial one keeps the other bytes as they read (R382); the sweep buffer takes it (R392); a whole
line replaces what could not be corrected, and its row is then repaired (R497, R499). -/
def Dev.memWrite (d : Dev) (a : Nat) (bs : List Byte) : Dev :=
  let old := d.memLine a
  let new := old.take (a % 256) ++ bs ++ old.drop (a % 256 + bs.length)
  let p := d.pageOwner (memTier a) (memPage a)
  let d := match d.inSweep a with
    | some _ => d.modPart p fun x => { x with sweepBuf := some new }
    | none => d.putLine a (d.lineSerial a) new
  if bs.length = 256 then
    let d := if d.movingAt p a && pageLine a == d.get (MEM_P_SWSTAT_LINE p) then d.flag (MEM_P_SWSTAT_STALLED p) false else d
    if d.mem.bad.contains (a / 256) then
      let d := { d with mem := { d.mem with bad := d.mem.bad.filter (· != a / 256) } }
      d.rowNeed a
    else d
  else d

/-- The MEM_UE record of a memory line. -/
def Dev.memUeRecord (d : Dev) (a reader f s sev part : Nat) (tile : Option Nat) (action : Nat) : Dev :=
  let u := d.unitAt a
  let d := if u < 12 then d.add (HBM_S_ERR_UE u) 1 else d.add (DDR_C_ERR_UE (u - 12)) 1
  d.log { cls := 2, sev := sev, part := part, tile := tile, unit := if u < 12 then 9 else 10, addr := some a, action := action,
          detail := leBytes 1 (if u < 12 then u else u - 12) ++ leBytes 1 reader ++ leBytes 1 f ++ leBytes 1 s }
/-- Marks a line as uncorrectable. -/
def Dev.markLine (d : Dev) (a : Nat) : Dev :=
  if d.mem.bad.contains (a / 256) then d else { d with mem := { d.mem with bad := (a / 256) :: d.mem.bad } }
/-- A corrected error in a memory line (R396, R490, R506). -/
def Dev.memCorrected (d : Dev) (a : Nat) : Dev :=
  let u := d.unitAt a
  let row := d.rowAt a
  let d := if u < 12 then d.add (HBM_S_ERR_CE u) 1 else d.add (DDR_C_ERR_CE (u - 12)) 1
  let k := match d.mem.rowCe.find? fun e => e.1 == u && e.2.1 == row with
    | some e => e.2.2 + 1
    | none => 1
  let d := { d with mem := { d.mem with
    ceSecond := mset d.mem.ceSecond u (mget d.mem.ceSecond 0 u + 1)
    rowCe := (u, row, k) :: d.mem.rowCe.filter fun e => !(e.1 == u && e.2.1 == row) } }
  if k = 4 then d.rowNeed a else d

/-! ## Ways: the ring and the rails (R369, R372) -/

/-- The hops between compute dies a and b (R369), as indices of RHZ_HOP. -/
def ringHops (a b : Nat) : List Nat :=
  match a, b with
  | 0, 1 => [0]
  | 1, 3 => [1]
  | 3, 2 => [2]
  | 2, 0 => [3]
  | 1, 0 => [4]
  | 3, 1 => [5]
  | 2, 3 => [6]
  | 0, 2 => [7]
  | 0, 3 => [0, 1]
  | 3, 0 => [2, 3]
  | 1, 2 => [1, 2]
  | 2, 1 => [3, 0]
  | _, _ => []
/-- The compute die from which die k reaches a memory unit: the die of a stack, or a die that the channel's I/O die links
to (R369, R386). -/
def unitDie (u k : Nat) : Nat :=
  if u < 12 then stackDie u
  else if u < 16 then k % 2
  else 2 + k % 2
/-- Counts a line on hops. -/
def Dev.countHops (d : Dev) (l : List Nat) : Dev := l.foldl (fun d k => d.add (RHZ_HOP_V k) 1) d
/-- Column and row of the position that hosts tile n; a spare stands at its die's edge row, in the tile's own column (R307, R308). -/
def Dev.colNow (d : Dev) (n : Nat) : Nat := if isSpare (d.physOf n) then tileX n else gx (d.physOf n)
def Dev.rowNow (d : Dev) (n : Nat) : Nat := if isSpare (d.physOf n) then spareRow (d.physOf n) else gy (d.physOf n)
/-- The rail of the position that hosts tile n: 2y for the west one, 2y + 1 for the east one (R372). -/
def Dev.railOf (d : Dev) (n : Nat) : Nat := 2 * d.rowNow n + if d.colNow n < 8 then 0 else 1
/-- Compute die of the position that hosts tile n. -/
def Dev.dieNow (d : Dev) (n : Nat) : Nat := d.physOf n / 128
/-- Drop index of tile n on its rail (R372). -/
def Dev.dropOf (d : Dev) (n : Nat) : Nat := let x := d.colNow n; if x < 8 then x + 1 else 16 - x
/-- One of the three lanes of a rail belongs to drop i in the device's cycle t (R372). -/
def ownsLane (t i : Nat) : Bool := (List.range 3).any fun j => (3 * t + j) % 8 + 1 == i
/-- A line may be sent again on its way over a rail or the ring (R489): how often is a free value. It is counted, recorded as a corrected
link error once a second per source (a tile's rail lines, or the ring lines of a compute die, from 256 on), and explains a missed promise
of the partition as a mesh replay does (R322). -/
def Dev.sideReplay (d : Dev) (source part : Nat) : Dev :=
  let k := Config.sideReplays d.free
  let d := d.draw
  if k = 0 then d
  else
    let old := mget d.mem.sideReplays (0, 0) source
    let d := d.add (FLT_COUNT_V 5) k
    let ring := decide (256 ≤ source)
    let tile : Option Nat := if ring then none else some source
    let d := if old.1 = 0 then
        d.log { cls := 4, sev := 1, part := part, tile := tile, count := k,
                detail := leBytes 1 (if ring then 0xFF else source) ++ [if ring then 5 else 4, 0xFF, 0] ++ leBytes 4 k }
      else d.recount old.2 (old.1 + k)
    let q := if old.1 = 0 then d.lastFlt else old.2
    ({ d with mem := { d.mem with sideReplays := mset d.mem.sideReplays source (old.1 + k, q) } } : Dev).replayNote part q
/-- The tile whose drop owns lane j of tile n's rail in cycle t (R372): the drops of a row stand in its order. -/
def Dev.laneTile (d : Dev) (n j : Nat) : Option Nat :=
  let i := (3 * d.now + j) % 8 + 1
  allTiles.find? fun m => d.railOf m == d.railOf n && d.dropOf m == i && m != n
/-- Key of the rail of tile n and a direction. -/
def Dev.railKey (d : Dev) (n : Nat) (toTile : Bool) : Nat := 2 * d.railOf n + if toTile then 1 else 0
/-- A lane slot of tile n's rail that this cycle can lend it (R372): its owner has no line ready, since a line passes as its access is
served, and is of the same partition; at most three lines pass in a cycle. -/
def Dev.mayLend (d : Dev) (n : Nat) (toTile : Bool) : Bool :=
  let k := mget d.mem.railUsed (0, 0) (d.railKey n toTile)
  !(k.1 == d.now && decide (3 ≤ k.2)) &&
  (List.range 3).any fun j => match d.laneTile n j with
    | some m => (d.tile m).part == (d.tile n).part
    | none => false
/-- The rail and direction carry one more line in this cycle. -/
def Dev.railLine (d : Dev) (n : Nat) (toTile : Bool) : Dev :=
  let k := mget d.mem.railUsed (0, 0) (d.railKey n toTile)
  { d with mem := { d.mem with railUsed := mset d.mem.railUsed (d.railKey n toTile) (d.now, if k.1 = d.now then k.2 + 1 else 1) } }
/-- A line passes between tile n and a memory unit (R372, R400): in a lane slot of its drop's own, or in one lent to it. A line that can
take no slot in this cycle waits for one of its own (log 31). -/
def Dev.countWay (d : Dev) (n u : Nat) (toTile : Bool) : Dev :=
  let k := d.dieNow n
  let m := unitDie u k
  let d := (d.countHops (if toTile then ringHops m k else ringHops k m)).add (RHZ_RAIL_COUNT_V (d.railOf n) (if toTile then 0 else 1)) 1
  let d := if !ownsLane d.now (d.dropOf n) && d.mayLend n toTile then d.add (RHZ_RAIL_COUNT_V (d.railOf n) 2) 1 else d
  (d.railLine n toTile).sideReplay n (d.tile n).part
/-- A line passes over hops of the ring for partition `part`. -/
def Dev.ringLine (d : Dev) (hops : List Nat) (part : Nat) : Dev :=
  match hops with
  | [] => d
  | h :: _ => (d.countHops hops).sideReplay (256 + h) part
/-- The compute die through which an access that comes in at port n's I/O die reaches a memory unit (R2, R386): the one in the unit's
column that the I/O die links to, or its western one for a channel of the other I/O die (log 31). -/
def portDie (n u : Nat) : Nat := (if n ≤ 8 then 0 else 2) + (if u < 12 then stackDie u % 2 else 0)
/-- A line passes between a port and a memory unit (R369, R375): hops only, none for a channel of the port's own I/O die. -/
def Dev.countRemote (d : Dev) (n u part : Nat) (isWrite : Bool) : Dev :=
  let k := portDie n u
  let m := if u < 12 then stackDie u else if u < 16 then 0 else 2
  d.ringLine (if isWrite then ringHops k m else ringHops m k) part

/-! ## Channels -/

/-- Partition p holds a memory range. -/
def Dev.holdsRange (d : Dev) (p : Nat) : Bool := (List.range 8).any fun k => d.is (MEM_P_RANGE_VALID p k)
/-- Share of a stream of partition p, in slots of each frame (R374, R375). -/
def Dev.shareOf (d : Dev) (p : Nat) (s : StreamId) : Nat :=
  if d.holdsRange p then
    match s with
    | .read => d.get (MEM_P_SPLIT_READ p)
    | .write => d.get (MEM_P_SPLIT_WRITE p)
    | .remote => d.get (MEM_P_SPLIT_REMOTE p)
    | _ => 0
  else 0
/-- Slot positions of the frame that are still to be chosen for their owners (R374). -/
def Dev.slotsOwed (d : Dev) (c : MemChan) : Nat :=
  (allParts.map fun p => ([StreamId.read, .write, .remote].map fun s => d.shareOf p s - c.frame.count (some (p, s))).sum).sum
/-- The next slot of a channel can be `o`'s (R374): its position is, or, in the first frame under these shares, is still to be chosen
and `o` has fewer positions than its share; nobody's, where enough positions stay for every owner. -/
def Dev.slotIs (d : Dev) (c : MemChan) (o : Option (Nat × StreamId)) : Bool :=
  match c.frame[c.pos]? with
  | some x => x == o
  | none =>
    match o with
    | some (p, s) => decide (c.frame.count o < d.shareOf p s)
    | none => decide (d.slotsOwed c < 64 - c.frame.length)
/-- The slot passes: its position is its owner's from now on. -/
def MemChan.passSlot (c : MemChan) (o : Option (Nat × StreamId)) : MemChan :=
  { c with frame := if c.pos < c.frame.length then c.frame else c.frame ++ [o], pos := (c.pos + 1) % 64 }

/-- Index of a stream in MEM_Pp_BYTES (R400). -/
def streamNo (s : StreamId) : Nat :=
  match s with
  | .read => 0
  | .write => 1
  | _ => 2

/-- An access joins its channel. -/
def Dev.queueAccess (d : Dev) (x : MemAccess) : Dev :=
  let ch := (d.memPlace x.addr).1
  let c := mget d.mem.chans MemChan.init ch
  { d with mem := { d.mem with chans := mset d.mem.chans ch { c with queue := c.queue ++ [x] } } }

/-- A line access of a tile's DMA engine, as the engine holds it. -/
def Tile.dmaRun (t : Tile) (eng id : Nat) : Option Run :=
  (t.engine (if eng = 0 then .dma0 else .dma1)).run.find? fun r => r.flight.any fun a => a.id == id

/-- An access whose effect its command has had takes its slots at the line's channel, and its way to it (R369, R375): four reads, and four
writes more for a write of part of a line. -/
def Dev.servedAccess (d : Dev) (p a : Nat) (isWrite : Bool) (s : StreamId) (who : Requester) : Dev :=
  d.queueAccess { MemAccess.init with part := p, stream := s, isWrite := isWrite, addr := a, len := 8, who := who, left := if isWrite then 8 else 4 }
/-- The line accesses of a range: address and length of each. -/
def lineParts (a len : Nat) : List (Nat × Nat) :=
  (List.range ((a % 256 + len + 255) / 256)).map fun i =>
    let lo := max a ((a / 256 + i) * 256)
    (lo, min (a + len) ((a / 256 + i + 1) * 256) - lo)
/-- The oldest remote access of a context joins its channels, since accesses of a context take effect in the order of
their messages (R427). -/
def Dev.issueRemote (d : Dev) (c : Nat) : Dev :=
  match (d.ctx c).ops with
  | [] => d
  | o :: rest =>
    if o.issued then d
    else
      let ps := lineParts o.addr o.len
      let acc (e : (Nat × Nat) × Nat) : MemAccess :=
        { MemAccess.init with
          part := o.part, stream := .remote, isWrite := !o.isRead, addr := e.1.1, len := e.1.2,
          data := if o.isRead then [] else slice o.data (e.1.1 - o.addr) e.1.2, who := .remote c o.op e.2,
          left := if !o.isRead && e.1.2 != 256 then 8 else 4 }
      ps.zipIdx.foldl (fun d e => d.queueAccess (acc e))
        (d.modCtx c fun x => { x with ops := { o with issued := true, parts := ps.zipIdx.map fun e => (e.2, none) } :: rest })

/-- One part of a remote access is done (R427); the whole is answered with MDATA or MACK when its last part is. -/
def Dev.remotePart (d : Dev) (c op idx : Nat) (data : List Byte) (st : Byte) : Dev :=
  let x := d.ctx c
  let upd (o : RemoteOp) : RemoteOp :=
    { o with parts := o.parts.map (fun e => if e.1 = idx then (e.1, some data) else e), status := if o.status = 0 then st else o.status }
  let ops := x.ops.map fun o => if o.op = op then upd o else o
  match ops.find? fun o => o.op == op with
  | none => d
  | some o =>
    if o.parts.all fun e => e.2.isSome then
      let hi := d.pageOwner (memTier (o.addr + o.len - 1)) (memPage (o.addr + o.len - 1))
      let d := if o.status = 0 && isOwner x.cred then (if hi = o.part then d.expose hi else (d.expose o.part).expose hi) else d
      let body := if o.isRead && o.status = 0 then o.parts.flatMap fun e => e.2.getD [] else []
      Dev.issueRemote ((d.modCtx c fun x => { x with ops := ops.filter (·.op != op) }).queueMsg c
        (mkMsg (if o.isRead then 0x21 else 0x23) (d.get (NOP_CTX_CFG_PART c)) c true
          (beBytes 4 o.tag ++ [o.status] ++ zeros 3 ++ body))) c
    else d.modCtx c fun x => { x with ops := ops }

/-- Hands the outcome of an access to its requester. -/
def Dev.answerAccess (d : Dev) (x : MemAccess) (data : List Byte) (st : Byte) : Dev :=
  match x.who with
  | .dma n eng id =>
    let d := match x.copyOf with
      | some src =>
        let k := unitDie (d.unitAt src) (d.dieNow n)
        if x.isWrite then d.ringLine (ringHops k (unitDie (d.unitAt x.addr) k)) x.part else d
      | none => d.countWay n (d.unitAt x.addr) (!x.isWrite)
    d.answerDma n eng id (if x.isWrite then none else some data) st
  | .remote c op i => (d.countRemote (d.get (NOP_CTX_CFG_PORT c)) (d.unitAt x.addr) x.part x.isWrite).remotePart c op i data st
  | .load (some t) => d.countWay t (d.unitAt x.addr) true
  | .load none => d
  | .served => d
  | .none_ => d

/-- An uncorrectable error in a memory line that an access read (R397, R498): a transfer's frond stops, a remote access
is answered UNCORRECTABLE, a region load ends with LOAD_ABORTED (R348), and the partition drains. -/
def Dev.memAccessUe (d : Dev) (x : MemAccess) : Dev :=
  let d := d.markLine x.addr
  let running := d.regionState x.part == 5
  match x.who with
  | .dma n _ _ => (d.memUeRecord x.addr rdDma x.frond x.strand 3 x.part (some n) (if running then 3 else 1)).containFrond n x.frond
  | .remote c op i =>
    let d := d.memUeRecord x.addr rdRemote 0 0 3 x.part none (if running then 2 else 0)
    (d.containRegion x.part).remotePart c op i [] 0x41
  | .load t => (d.memUeRecord x.addr rdDma 0 0 3 x.part t (if running then 2 else 0)).containRegion x.part
  | .served => d
  | .none_ => d.memUeRecord x.addr rdPatrol 0 0 2 x.part none 0

/-- The last 64-byte access of a line access takes effect. -/
def Dev.finishAccess (d : Dev) (x : MemAccess) : Dev :=
  let needs := !x.isWrite || x.len != 256
  if x.who = .served then d
  else if needs && d.mem.bad.contains (x.addr / 256) && (d.inSweep x.addr).isNone then d.memAccessUe x
  else if x.isWrite then (d.memWrite x.addr x.data).answerAccess x [] stOk
  else d.answerAccess x (d.memRead x.addr x.len) stOk

/-- Two accesses of one engine to one line, which take effect in issue order (R384). -/
def MemAccess.tied (x y : MemAccess) : Bool :=
  x.addr / 256 == y.addr / 256 &&
  (match x.who, y.who with
   | .dma n e _, .dma n' e' _ => n == n' && e == e'
   | _, _ => false)
/-- The oldest access of a stream at a channel that can be made: its data are there, and no older access of its engine to its line waits. -/
def MemChan.oldest (c : MemChan) (p : Nat) (s : StreamId) : Option Nat :=
  (List.range c.queue.length).find? fun i =>
    match c.queue[i]? with
    | some x => x.part == p && x.stream == s && x.ready && !((c.queue.take i).any x.tied)
    | none => false

/-- The access that a slot serves (R374, R376): its owner's, else another stream's of the same partition. -/
def MemChan.pick (c : MemChan) (owner : Option (PartId × StreamId)) : Option Nat :=
  match owner with
  | none => none
  | some (p, s) => firstSome (([s, StreamId.read, StreamId.write, StreamId.remote]).map fun k => c.oldest p.val k)

/-- A patrol access meets an error (R495, R498). -/
def Dev.patrolAt (d : Dev) (a : Nat) (ecc : Ecc) : Dev :=
  let p := d.pageOwner (memTier a) (memPage a)
  match ecc with
  | .ok => if d.mem.bad.contains (a / 256) then d.memUeRecord a rdPatrol 0 0 2 p none 0 else d
  | .corrected => d.memCorrected a
  | .uncorrectable => (d.markLine a).memUeRecord a rdPatrol 0 0 2 p none 0

/-- A patrol pass of unit u has read every line of its channels: it is counted, and a new one begins (R495). -/
def Dev.patrolEnd (d : Dev) (u : Nat) : Dev :=
  let cs := unitChans u
  if cs.all fun c => decide (d.chanLines c * 4 ≤ mget d.mem.patrolPos 0 c) then
    let now := d.now / secLen
    let d := (d.add (FLT_PATROL_PASSES u) 1).set (FLT_PATROL_LAST_PASS u) (now - mget d.mem.patrolFrom 0 u)
    { d with mem := { d.mem with
        patrolPos := cs.foldl (fun m c => mset m c 0) d.mem.patrolPos
        patrolFrom := mset d.mem.patrolFrom u now
        rowCe := d.mem.rowCe.filter fun e => e.1 != u } }
  else d

/-- A slot that nobody of the partition uses goes to the patrol (R376, R495), or to the host's command (R496): a line that the patrol has
corrected is rewritten in the next borrowed slot, with the data as it stands. -/
def Dev.patrolSlot (d : Dev) (ch : Nat) (ecc : Ecc) : Dev :=
  if d.duty 3 then
    match d.scrub.cmd with
    | some (tier, t, next, left) =>
      let a := (if tier = 1 then 0 else ddrBase) + next * 64
      if tier = 0 || !d.populated a || (d.memPlace a).1 ≠ ch then d
      else
        let d := d.patrolAt a ecc
        if left ≤ 1 then ({ d with scrub := { d.scrub with cmd := none } } : Dev).flag FLT_SCRUB_CMD_DONE true
        else { d with scrub := { d.scrub with cmd := some (tier, t, next + 1, left - 1) } }
    | none => d
  else
    let pos := mget d.mem.patrolPos 0 ch
    if d.mem.patrolFix.any fun e => e.1 == ch then
      { d with mem := { d.mem with patrolFix := d.mem.patrolFix.filter fun e => e.1 != ch } }
    else if d.chanLines ch * 4 ≤ pos then d
    else
      let a := d.chanAddr ch (pos / 4) + pos % 4 * 64
      let d := d.patrolAt a ecc
      let d := if ecc = .corrected then { d with mem := { d.mem with patrolFix := d.mem.patrolFix ++ [(ch, a)] } } else d
      ({ d with mem := { d.mem with patrolPos := mset d.mem.patrolPos ch (pos + 1) } } : Dev).patrolEnd (chanUnit ch)

/-- Device address of the sweep pointer. -/
def Dev.sweepAddr (d : Dev) (p : Nat) : Nat :=
  (if d.get (MEM_P_SWSTAT_TIER p) = 0 then 0 else ddrBase) + d.get (MEM_P_SWSTAT_PAGE p) * pageBytes + d.get (MEM_P_SWSTAT_LINE p) * 256

/-- The key sweep of partition p can use a slot of the channel: four read the line at its pointer, and four write it (R376,
R392). -/
def Dev.sweepWants (d : Dev) (p ch : Nat) : Bool :=
  d.is (MEM_P_SWSTAT_MOVING p) && !d.is (MEM_P_SWSTAT_STALLED p) && (d.memPlace (d.sweepAddr p)).1 == ch &&
  decide ((d.part p).sweepSlots < 8)
/-- The row copy that an idle slot of partition p on a channel serves: one of p's own rows, which lie in that channel (R376, R398). -/
def Dev.rowCopyAt (d : Dev) (p ch : Nat) : Option (Nat × Nat) :=
  d.mem.rowCopy.find? fun r => d.mem.rowHome.contains (r, (p, ch))
/-- A row copy reads a line of its row in a slot (R398, R498), at a free place of the channel, since the rows' layout is open: a corrected
error is counted; an uncorrectable one is recorded as LATENT, and ends the copy until whole-line writes have replaced the line (R499). -/
def Dev.rowRead (d : Dev) (r : Nat × Nat) (ch : Nat) (ecc : Ecc) : Dev :=
  let a := d.chanAddr ch (Config.rowLine d.free % max 1 (d.chanLines ch))
  match ecc with
  | .ok => { d with mem := { d.mem with rowGiven := r :: d.mem.rowGiven.filter (· != r) } }
  | .corrected =>
    let d : Dev := { d with mem := { d.mem with rowGiven := r :: d.mem.rowGiven.filter (· != r) } }
    d.draw.memCorrected a
  | .uncorrectable =>
    let d : Dev := { d with mem := { d.mem with rowCopy := d.mem.rowCopy.filter (· != r), rowGiven := d.mem.rowGiven.filter (· != r) } }
    (d.draw.markLine a).memUeRecord a rdCopy 0 0 2 (d.pageOwner (memTier a) (memPage a)) none 0
/-- A slot that no stream uses: the owner's key sweep, a row copy of the owner's, then the patrol (R376). -/
def Dev.idleSlot (d : Dev) (ch : Nat) (owner : Option (PartId × StreamId)) (ecc : Ecc) : Dev :=
  let p := match owner with | some (p, _) => p.val | none => 0
  if p != 0 && d.sweepWants p ch then d.modPart p fun x => { x with sweepSlots := x.sweepSlots + 1 }
  else
    match d.rowCopyAt p ch with
    | some r => d.rowRead r ch ecc
    | none => d.patrolSlot ch ecc

/-- CHANNEL_SLOT (R374, R376, R382, R396, R397): without effect where the slot cannot be its owner's. -/
def execChannelSlot (chan : Fin 392) (owner : Option (PartId × StreamId)) (ecc : Ecc) (s : State) :=
  run (fun d =>
    let c := mget d.mem.chans MemChan.init chan.val
    let o := owner.map fun x => (x.1.val, x.2)
    if !d.slotIs c o then d
    else
    let c := c.passSlot o
    let d : Dev := { d with mem := { d.mem with chans := mset d.mem.chans chan.val c } }
    match c.pick owner with
    | none => d.idleSlot chan.val owner ecc
    | some i =>
      match c.queue[i]? with
      | none => d
      | some x =>
        let d := d.add (MEM_P_BYTES_V x.part (streamNo x.stream)) 64
        let d := match ecc with
          | .ok => d
          | .corrected => d.memCorrected x.addr
          | .uncorrectable => if (x.isWrite && x.len == 256) || x.who == .served then d else d.markLine x.addr
        let put (d : Dev) (q : List MemAccess) : Dev := { d with mem := { d.mem with chans := mset d.mem.chans chan.val { c with queue := q } } }
        if x.left ≤ 1 then (put d (c.queue.eraseIdx i)).finishAccess x
        else put d (c.queue.set i { x with left := x.left - 1 })) s

/-- The accesses of a channel that the refresh made wait, from counter value k on, marked (R379): each waits for one refresh and no
more. Answers them with the number of waits and the counter value after them. -/
def refreshWaits : Nat → List MemAccess → List MemAccess × Nat × Nat
  | k, [] => ([], 0, k)
  | k, x :: r =>
    if x.refresh then
      let y := refreshWaits k r
      (x :: y.1, y.2.1, y.2.2)
    else
      let y := refreshWaits (k + 1) r
      if Config.refreshHeld k then ({ x with refresh := true } :: y.1, y.2.1 + 1, y.2.2) else (x :: y.1, y.2.1, y.2.2)

/-- REFRESH (R379): a refresh ends. Whether a waiting access waited for it is a free value, and each wait is counted. -/
def execRefresh (chan : Fin 392) (s : State) :=
  run (fun d =>
    let c := mget d.mem.chans MemChan.init chan.val
    let w := refreshWaits d.free c.queue
    let d := if chan.val < 384 then d.add (HBM_S_REFWAIT_V (chan.val / 32)) w.2.1 else d.add (DDR_C_REFWAIT_V (chan.val - 384)) w.2.1
    { d with free := w.2.2, mem := { d.mem with chans := mset d.mem.chans chan.val { c with queue := w.1 } } }) s

end Sys2Proof.Machine
end

