-- ==== Sys2Proof/Machine/MemCmd.lean ====
section
/-! DEFINITION. The commands of HBM and DDR5 but for their slots: the interleave, shares and ranges (R370, R375, R390), key
rotation and its sweep (R391 to R395), and host-assisted training (R399). -/

namespace Sys2Proof.Machine

/-! ## Configuration -/

/-- Sum of the shares of the partitions that hold a range (MEM_CFG_STATUS.TOTAL), `p` with shares `own` if given. -/
def Dev.shareSum (d : Dev) (own : Option (Nat × Nat)) : Nat :=
  ((allParts.filter d.holdsRange).map fun p =>
    match own with
    | some (q, s) => if q = p then s else d.get (MEM_P_SPLIT_READ p) + d.get (MEM_P_SPLIT_WRITE p) + d.get (MEM_P_SPLIT_REMOTE p)
    | none => d.get (MEM_P_SPLIT_READ p) + d.get (MEM_P_SPLIT_WRITE p) + d.get (MEM_P_SPLIT_REMOTE p)).sum
/-- TOTAL follows the shares and ranges, and the channels choose the slot positions of their frames anew (R374, R375). -/
def Dev.retotal (d : Dev) : Dev :=
  let d : Dev := { d with mem := { d.mem with chans := d.mem.chans.map fun c => (c.1, { c.2 with frame := [], pos := 0 }) } }
  d.set MEM_CFG_STATUS_TOTAL (d.shareSum none)

/-- The contents of HBM stay where they lie in the channels when the interleave becomes `v` (R371): what stood at one device address
stands at the address that now leads to its channel and line, where it reads as ciphertext under another tweak (R388). -/
def Dev.newInterleave (d : Dev) (v : Nat) : Dev :=
  let e := d.takeIf HBM_CFG_ILV v (fun x => decide (x < 2))
  let line (l : Nat) : Nat := if l * 256 < ddrBase then let x := d.hbmPlace l; e.hbmLine x.1 x.2 else l
  let lines : List Nat := (d.mem.cells.map fun c => c.1 / 256).eraseDups
  { e with mem := { e.mem with
      cells := lines.foldl (fun m l => cwrite m (line l * 256) (cread d.mem.cells (l * 256) 256)) []
      lineKey := d.mem.lineKey.foldl (fun m k => mset m (line k.1) k.2) []
      bad := d.mem.bad.map line } }

/-- A write of HBM_CFG (R370, R371). -/
def Dev.hbmCfgWr (d : Dev) (c : Cred) (v : Word) : Dev × Byte :=
  ownerWr c d fun d =>
    let held := allParts.any fun p => (List.range 8).any fun k => d.is (MEM_P_RANGE_VALID p k) && d.get (MEM_P_RANGE_TIER p k) == 0
    if held then (d, stDenied)
    else (d.newInterleave v.toNat, stOk)
/-- HBM_ILV_WRITE (R371). -/
def execHbmIlvWrite (cred : Cred) (value : Word) (s : State) := run (fun d => ended (d.hbmCfgWr cred value)) s

/-- A write of MEM_Pp_SPLIT (R14, R375, R443). -/
def Dev.splitWr (d : Dev) (c : Cred) (p : Nat) (v : Word) : Dev × Byte :=
  ownerWr c d fun d => rwlOnly p d fun d =>
    let fs := [MEM_P_SPLIT_READ p, MEM_P_SPLIT_WRITE p, MEM_P_SPLIT_REMOTE p]
    if fs.all fun f => f.of v.toNat == d.get f then (d, stOk)
    else if d.sealed p then (d, stSealed)
    else
      let sum := (fs.map fun f => f.of v.toNat).sum
      if (fs.any fun f => 64 < f.of v.toNat) || (d.holdsRange p && decide (64 < d.shareSum (some (p, sum)))) then
        (d.flag MEM_CFG_STATUS_SPLIT_REFUSED true, stOk)
      else ((fs.foldl (fun d f => d.take f v.toNat) d).retotal, stOk)
/-- MEM_SPLIT_WRITE (R375). -/
def execMemSplitWrite (cred : Cred) (part : PartId) (value : Word) (s : State) :=
  run (fun d => ended (d.splitWr cred part.val value)) s

/-- Pages of range k of partition p. -/
def Dev.rangePages (d : Dev) (p k : Nat) : List Nat :=
  if d.is (MEM_P_RANGE_VALID p k) then
    (List.range (d.get (MEM_P_RANGE_COUNT p k))).map fun i => pageKey (d.get (MEM_P_RANGE_TIER p k)) (d.get (MEM_P_RANGE_BASE p k) + i)
  else []
/-- Pages of partition p, ascending. -/
def Dev.pagesOf (d : Dev) (p : Nat) : List Nat :=
  (((List.range 8).flatMap fun k => d.rangePages p k).eraseDups).mergeSort (· ≤ ·)

/-- No page of the old generation is left: the rotation retires the old key (R391). -/
def Dev.sweepDone (d : Dev) (p : Nat) : Dev :=
  if d.get (MEM_P_KEY_STATE p) = 1 && (d.part p).movedOld.isEmpty then
    (d.set (MEM_P_KEY_STATE p) 2).modPart p fun x => { x with retireAt := d.tick }
  else d

/-- A write of MEM_Pp_RANGE k takes effect (R390, R391): a page that joins the partition is of its current generation, and one that
leaves it no longer waits for the sweep, which may end the sweeping. -/
def Dev.rangeTake (d : Dev) (p k : Nat) (v : Word) : Dev :=
  let before := d.pagesOf p
  let fs := [MEM_P_RANGE_VALID p k, MEM_P_RANGE_TIER p k, MEM_P_RANGE_COUNT p k, MEM_P_RANGE_BASE p k]
  let d := fs.foldl (fun d f => d.take f v.toNat) d
  let now := d.pagesOf p
  let gen := d.get (MEM_P_KEY_GEN p) % 2
  let d := { d with mem := { d.mem with pageGen :=
    (now.filter fun g => !before.contains g).foldl (fun m g => mset m g gen) d.mem.pageGen } }
  let d := d.modPart p fun x => { x with movedOld := x.movedOld.filter fun g => now.contains g }
  let d := if d.is (MEM_P_SWSTAT_MOVING p) && !now.contains (pageKey (d.get (MEM_P_SWSTAT_TIER p)) (d.get (MEM_P_SWSTAT_PAGE p))) then
      (d.flag (MEM_P_SWSTAT_MOVING p) false).modPart p fun x => { x with sweepBuf := none, sweepSlots := 0 }
    else d
  ((d.set (MEM_P_SWSTAT_OLDPAGES p) (d.part p).movedOld.length).sweepDone p).retotal

/-- A write of MEM_Pp_RANGE k (R14, R390, R443). DESIGN CHOICE (log 32): R375 names writes of MEM_Pp_SPLIT only, so a range is accepted though
the shares of the partition that now holds one take the total above 64. With a stack that failed training the device maps no range (R368). -/
def Dev.rangeWr (d : Dev) (c : Cred) (p k : Nat) (v : Word) : Dev × Byte :=
  ownerWr c d fun d => rwlOnly p d fun d =>
    let fs := [MEM_P_RANGE_VALID p k, MEM_P_RANGE_TIER p k, MEM_P_RANGE_COUNT p k, MEM_P_RANGE_BASE p k]
    if fs.all fun f => f.of v.toNat == d.get f then (d, stOk)
    else if d.sealed p then (d, stSealed)
    else
      let valid := (MEM_P_RANGE_VALID p k).of v.toNat == 1
      let tier := (MEM_P_RANGE_TIER p k).of v.toNat
      let base := (MEM_P_RANGE_BASE p k).of v.toNat
      let count := (MEM_P_RANGE_COUNT p k).of v.toNat
      let pages := (if tier = 0 then d.hbmBytes else d.ddrBytes) / pageBytes
      let clash := allParts.any fun q => q != p && (List.range 8).any fun j =>
        d.is (MEM_P_RANGE_VALID q j) && d.get (MEM_P_RANGE_TIER q j) == tier &&
        decide (base < d.get (MEM_P_RANGE_BASE q j) + d.get (MEM_P_RANGE_COUNT q j)) && decide (d.get (MEM_P_RANGE_BASE q j) < base + count)
      let failed := (List.range 12).any fun k => d.get (HBM_S_STATUS_STATE k) == 4
      if valid && (clash || decide (pages < base + count) || failed) then (d.flag MEM_CFG_STATUS_RANGE_REFUSED true, stOk)
      else (d.rangeTake p k v, stOk)
/-- MEM_RANGE_WRITE (R390). -/
def execMemRangeWrite (cred : Cred) (part : PartId) (k : Fin 8) (value : Word) (s : State) :=
  run (fun d => ended (d.rangeWr cred part.val k.val value)) s

/-! ## Key rotation (R391 to R395) -/

/-- MEM_Pp_KEY.ROTATE (R391). -/
def Dev.rotateWr (d : Dev) (c : Cred) (p : Nat) : Dev × Byte :=
  partWr c p d fun d =>
    let x := d.part p
    if d.get (MEM_P_KEY_STATE p) ≠ 0 || x.newKey.serial = 0 then (d.flag (MEM_P_KEY_REFUSED p) true, stOk)
    else
      let pages := d.pagesOf p
      let d := (d.addWrap (MEM_P_KEY_GEN p) 1).set (MEM_P_KEY_STATE p) 1
      let d := (d.flag (MEM_P_KEY_NEWKEY p) false).set (MEM_P_SWSTAT_OLDPAGES p) pages.length
      let d := d.modPart p fun x => { x with oldKey := x.curKey, curKey := x.newKey, newKey := ⟨0⟩, movedOld := pages }
      (d.sweepDone p, stOk)
/-- KEY_ROTATE (R391). -/
def execKeyRotate (cred : Cred) (part : PartId) (s : State) := run (fun d => ended (d.rotateWr cred part.val)) s

/-- A page begins to be swept (R392). -/
def Dev.sweepPage (d : Dev) (p tier pg : Nat) : Dev :=
  let d := ((d.flag (MEM_P_SWSTAT_MOVING p) true).set (MEM_P_SWSTAT_TIER p) tier).set (MEM_P_SWSTAT_PAGE p) pg
  (d.set (MEM_P_SWSTAT_LINE p) 0).modPart p fun x => { x with sweepBuf := none, sweepSlots := 0 }

/-- A write of MEM_Pp_SWEEP (R393). -/
def Dev.sweepWr (d : Dev) (c : Cred) (p : Nat) (v : Word) : Dev × Byte :=
  partWr c p d fun d =>
    let tier := (MEM_P_SWEEP_TIER p).of v.toNat
    let pg := (MEM_P_SWEEP_PAGE p).of v.toNat
    if d.duty 7 && d.get (MEM_P_KEY_STATE p) == 1 && !d.is (MEM_P_SWSTAT_MOVING p) && (d.part p).movedOld.contains (pageKey tier pg) then
      (d.sweepPage p tier pg, stOk)
    else (d.flag (MEM_P_SWSTAT_REFUSED p) true, stOk)
/-- SWEEP_PAGE (R393). -/
def execSweepPage (cred : Cred) (part : PartId) (value : Word) (s : State) :=
  run (fun d => ended (d.sweepWr cred part.val value)) s

/-- The hub reads the line at the sweep pointer into the sweep buffer (R392); an uncorrectable one stalls the sweep and is
contained (R395). -/
def Dev.sweepRead (d : Dev) (p : Nat) (ecc : Ecc) : Dev :=
  let a := d.sweepAddr p
  let d := if ecc = .uncorrectable then d.markLine a else if ecc = .corrected then d.memCorrected a else d
  if d.mem.bad.contains (a / 256) then
    let running := d.regionState p == 5
    let d := (d.flag (MEM_P_SWSTAT_STALLED p) true).memUeRecord a rdCopy 0 0 3 p none (if running then 2 else 0)
    d.containRegion p
  else d.modPart p fun x => { x with sweepBuf := some (d.lineUnder a x.oldKey.serial) }

/-- The sweep of a line: four slots read it into the buffer, and four later ones write it under the new key; LINE then advances, and
past line 8,191 the page ends (R376, R392). -/
def Dev.sweepLine (d : Dev) (p : Nat) (ecc : Ecc) : Dev :=
  let d := if (d.part p).sweepBuf.isNone && decide (4 ≤ (d.part p).sweepSlots) then d.sweepRead p ecc else d
  match (d.part p).sweepBuf with
  | none => d
  | some b =>
    if (d.part p).sweepSlots < 8 then d
    else
      let d := d.putLine (d.sweepAddr p) (d.part p).curKey.serial b
      let d := d.modPart p fun x => { x with sweepBuf := none, sweepSlots := 0 }
      let k := d.get (MEM_P_SWSTAT_LINE p)
      if k = 8191 then
        let g := pageKey (d.get (MEM_P_SWSTAT_TIER p)) (d.get (MEM_P_SWSTAT_PAGE p))
        let d := { d with mem := { d.mem with pageGen := mset d.mem.pageGen g (d.get (MEM_P_KEY_GEN p) % 2) } }
        let d := (d.flag (MEM_P_SWSTAT_MOVING p) false).set (MEM_P_SWSTAT_LINE p) 0
        let d := d.modPart p fun x => { x with movedOld := x.movedOld.filter (· != g) }
        (d.set (MEM_P_SWSTAT_OLDPAGES p) (d.part p).movedOld.length).sweepDone p
      else d.set (MEM_P_SWSTAT_LINE p) (k + 1)

/-- KEY_SWEEP_LINE (R392, R393). -/
def execKeySweepLine (part : PartId) (ecc : Ecc) (s : State) :=
  run (fun d =>
    let p := part.val
    if d.get (MEM_P_KEY_STATE p) ≠ 1 || d.is (MEM_P_SWSTAT_STALLED p) then d
    else
      let d := if d.is (MEM_P_SWSTAT_MOVING p) || d.duty 7 then d
        else match (d.part p).movedOld with
          | g :: _ => d.sweepPage p (g / 2 ^ 22) (g % 2 ^ 22)
          | [] => d.sweepDone p
      if d.is (MEM_P_SWSTAT_MOVING p) then d.sweepLine p ecc else d) s

/-- KEY_RETIRE (R391, R394). -/
def execKeyRetire (part : PartId) (s : State) :=
  run (fun d =>
    let p := part.val
    if d.get (MEM_P_KEY_STATE p) ≠ 2 then d
    else (d.set (MEM_P_KEY_STATE p) 0).modPart p fun x => { x with oldKey := ⟨0⟩ }) s

/-! ## Training (R399) -/

/-- STATE of a unit, and its TRAIN fields (R400). -/
def unitState (u : Nat) : RF := if u < 12 then HBM_S_STATUS_STATE u else DDR_C_STATUS_STATE (u - 12)
def trainStep (u : Nat) : RF := if u < 12 then HBM_S_TRAIN_STEP u else DDR_C_TRAIN_STEP (u - 12)
def trainChan (u : Nat) : RF := if u < 12 then HBM_S_TRAIN_CHAN u else DDR_C_TRAIN_CHAN (u - 12)
def trainPass (u : Nat) : RF := if u < 12 then HBM_S_TRAIN_PASS u else DDR_C_TRAIN_PASS (u - 12)
def trainResult (u : Nat) : RF := if u < 12 then HBM_S_TRAIN_RESULT u else DDR_C_TRAIN_RESULT (u - 12)
/-- State codes of a unit. -/
def usTrain : Nat := 1
def usWait : Nat := 2
def usReady : Nat := 3
def usFailed : Nat := 4
def usUnused : Nat := 5

/-- A unit enters service (R399): READY, and its row buffers are free, since training applied hard repairs (R398). -/
def Dev.unitReady (d : Dev) (u : Nat) : Dev :=
  let d := d.set (unitState u) usReady
  let d := if u < 12 then d.set HBM_CFG_READY (setBits (d.get HBM_CFG_READY) u u 1) else d
  let d := d.set (if u < 12 then HBM_S_STATUS_ROWBUF u else DDR_C_STATUS_ROWBUF (u - 12)) 0
  let d : Dev := if u < 12 || d.fuses.ddrSeen.contains (u - 12) then d else { d with fuses := { d.fuses with ddrSeen := d.fuses.ddrSeen ++ [u - 12] } }
  { d with mem := { d.mem with
      trained := if d.mem.trained.contains u then d.mem.trained else d.mem.trained ++ [u]
      rowBufs := d.mem.rowBufs.filter (·.1 != u) } }

/-- The host accepts a unit in TRAIN_WAIT (R399): it enters service, or, for a DDR5 channel outside the group that is used, is UNUSED
(R386). -/
def Dev.unitAccepted (d : Dev) (u : Nat) : Dev :=
  if 12 ≤ u && !d.ddrUsed.contains (u - 12) then d.set (unitState u) usUnused else d.unitReady u
/-- A write of a TRAIN register: STEP and CHAN take their values, DONE accepts a unit in TRAIN_WAIT, and GO runs the step,
whose outcome the command brings. -/
def Dev.trainWr (d : Dev) (c : Cred) (u : Nat) (v : Word) (pass : Bool) (result : Nat) : Dev × Byte :=
  ownerWr c d fun d =>
    let d := (d.takeIf (trainStep u) v.toNat (fun x => decide (x < 5))).take (trainChan u) v.toNat
    let waits := d.get (unitState u) == usWait
    let d := if bit v.toNat 0 = 1 && waits then (d.flag (trainPass u) pass).set (trainResult u) result else d
    (if bit v.toNat 2 = 1 && waits then d.unitAccepted u else d, stOk)
/-- TRAIN_STEP (R399). -/
def execTrainStep (cred : Cred) (unit : Fin 20) (value : Word) (pass : Bool) (result : Nat) (s : State) :=
  run (fun d => ended (d.trainWr cred unit.val value pass result)) s
/-- TRAIN_DONE (R399). -/
def execTrainDone (cred : Cred) (unit : Fin 20) (s : State) :=
  run (fun d => ended (ownerWr cred d fun d => (if d.get (unitState unit.val) = usWait then d.unitAccepted unit.val else d, stOk))) s

end Sys2Proof.Machine
end

