-- ==== Sys2Proof/Machine/Dma.lean ====
section
/-! DEFINITION. The DMA engines (R380 to R384): the lines of a transfer, their issue, and their completion at the drop. -/

namespace Sys2Proof.Machine

/-- The runs of a transfer's row: each within one line of either side. `k` bounds their number. -/
def dmaRuns (src dst len : Nat) : Nat → List Micro
  | 0 => []
  | k + 1 =>
    if len = 0 then []
    else
      let n := min len (min (256 - src % 256) (256 - dst % 256))
      Micro.dma src dst n :: dmaRuns (src + n) (dst + n) (len - n) k
/-- The walk of a transfer: rows in the order i3, i2, i1. -/
def Macro.planDma (m : Macro) : List Micro :=
  let a := m.da
  (List.range a.ext3).flatMap fun i3 => (List.range a.ext2).flatMap fun i2 => (List.range a.ext1).flatMap fun i1 =>
    dmaRuns (a.addr 0 i1 i2 i3).toNat (m.dc.addr 0 i1 i2 i3).toNat a.rowLen (a.rowLen / 128 + 3)

/-- The source, or the destination, is the tile's own scratchpad. -/
def Macro.dmaRead (m : Macro) : Bool := m.kind == .dmPut || m.kind == .dmMput
def Macro.dmaWrite (m : Macro) : Bool := m.kind == .dmGet
/-- Scratchpad ranges of a run. -/
def Macro.rdDma (m : Macro) : Micro → List Rng
  | .dma src _ len => if m.dmaRead then [⟨m.da.bight, src, len⟩] else []
  | _ => []

/-- Engine number of a DMA engine. -/
def dmaNo : EngineId → Nat
  | .dma1 => 1
  | _ => 0
/-- DMA engine of a number. -/
def dmaEng (k : Nat) : EngineId := if k = 0 then .dma0 else .dma1
/-- Changes the transfer in place i of an engine. -/
def Tile.setRun (t : Tile) (e : EngineId) (i : Nat) (r : Run) : Tile :=
  let x := t.engine e
  t.setEngine e { x with run := x.run.set i r }
/-- Ends the transfer in place i early (R109, R384): it issues no more lines, and completes once those in flight, which are then
discarded on their return, are back. -/
def Dev.dmaEnd (d : Dev) (n : Nat) (e : EngineId) (i : Nat) (r : Run) (st : Byte) : Dev :=
  d.modTile n fun t => t.setRun e i { r with plan := [], err := if r.err = 0 then st else r.err }

/-- Status of a device address that a transfer of tile n touches (R22, R23): memory, or another tile's window. -/
def Dev.dmaStatus (d : Dev) (n a len : Nat) : Byte :=
  if inWindows a then (if (d.tile (winTile a)).part ≠ (d.tile n).part then stDenied else stOk)
  else d.memStatus (d.tile n).part a len

/-- Class of a read of another tile's window and of a write there (R382). -/
def Dev.dmaSend (d : Dev) (n : Nat) (m : Macro) (dst : Nat) (isRead : Bool) (body : FlitBody) : Dev :=
  d.sendFlit n (if isRead then .m else .t) m.frond m.strand dst 0 body

/-- Issues the line access `a` of a transfer: on the rail, or on the mesh (R380, R382). A multicast writes each leaf's scratchpad at
`at_`. -/
def Dev.dmaGo (d : Dev) (n eng : Nat) (m : Macro) (a : DmaAccess) (at_ : Nat) : Dev :=
  let p := (d.tile n).part
  let acc (s : StreamId) (w : Bool) (addr : Nat) (data : List Byte) : MemAccess :=
    { MemAccess.init with part := p, stream := s, isWrite := w, addr := addr, len := a.len, data := data, who := .dma n eng a.id,
                          left := if w && a.len != 256 then 8 else 4, frond := m.frond, strand := m.strand }
  match m.kind with
  | .dmPut =>
    if inWindows a.dst then d.dmaSend n m (winTile a.dst) false (.write a.dst eng a.id (a.data.getD []))
    else d.queueAccess (acc .write true a.dst (a.data.getD []))
  | .dmMput =>
    let tr := mget (d.region p).trees 65535 (bits m.spec 11 0)
    let ls := (d.tree tr).leaves
    d.inject n { (d.mkFlit n .g m.frond m.strand tr 0 (.write (0xF00000000000 + at_) eng a.id (a.data.getD []))) with mcast := true, dests := ls }
  | .dmMcopy =>
    -- the write holds its place in the engine's order, and its data come with the read
    (d.queueAccess { acc .read false a.src [] with copyOf := some a.src }).queueAccess
      { acc .write true a.dst [] with copyOf := some a.src, ready := false }
  | _ =>
    if inWindows a.src then d.dmaSend n m (winTile a.src) true (.read a.src a.len eng a.id)
    else d.queueAccess (acc .read false a.src [])

/-- Answers that a line access waits for: one for each leaf of a multicast, two for a copy between memories. -/
def Dev.dmaLeft (d : Dev) (n : Nat) (m : Macro) : Nat :=
  match m.kind with
  | .dmMput => (d.tree (mget (d.region (d.tile n).part).trees 65535 (bits m.spec 11 0))).leaves.length
  | .dmMcopy => 2
  | _ => 1

/-- The line access writes a bight of the issuing frond: the tile's own, whatever leaves a multicast reaches (R249, R382; log
31). -/
def Macro.bightDst (m : Macro) : Bool := m.kind == .dmMput && m.dc.bight != 0
/-- Ranges of the operands that the transfer has still to read, and to write. -/
def Run.leftRd (r : Run) : List Rng := if r.macro_.da.bight = 0 then [] else r.plan.flatMap r.macro_.rdDma
def Run.leftWr (r : Run) : List Rng :=
  if r.macro_.dc.bight = 0 then []
  else
    (r.flight.map fun b => ⟨r.macro_.dc.bight, b.dst, b.len⟩) ++ r.plan.filterMap fun x => match x with
      | .dma _ dst len => some ⟨r.macro_.dc.bight, dst, len⟩
      | _ => none
/-- The transfer once access `a` has written its bytes. -/
def Run.landed (r : Run) (a : DmaAccess) : Run :=
  let h := r.macro_.dc.bight
  { r with flight := r.flight.filter fun b => b.id != a.id
           wtop := if h != 0 then mset r.wtop h (max (mget r.wtop 0 h) (a.dst / 256 + 1)) else r.wtop }
/-- What stops the write of a multicast into a bight: all but what its leaves alone can show. -/
def Tile.putStop (t : Tile) (e : EngineId) (r : Run) (dst len : Nat) : Option StepStop :=
  if r.macro_.bightDst then (t.writeStop e r ⟨r.macro_.dc.bight, dst, len⟩).filter fun x => match x with
    | .unmapped => false
    | .ue _ => false
    | _ => true
  else none

/-- Issues the next line of the transfer in place i. -/
def Dev.dmaIssue (d : Dev) (n eng i : Nat) (r : Run) (src dst len : Nat) (rest : List Micro) (ecc : Ecc) : Dev :=
  let e := dmaEng eng
  let t := d.tile n
  let m := r.macro_
  let rd := m.rdDma (.dma src dst len)
  let off : Option Nat := rd.head?.map fun x => r.rloc t x.h x.at_
  let dev : Byte := match m.kind with
    | .dmGet => d.dmaStatus n src len
    | .dmPut => d.dmaStatus n dst len
    | .dmMcopy => if d.dmaStatus n src len ≠ stOk then d.dmaStatus n src len else d.dmaStatus n dst len
    | _ => stOk
  if dev ≠ stOk then d.dmaEnd n e i r dev
  else
    match (rd.head?.bind (t.readStop e r)).or (t.putStop e r dst len) with
    | some (.broken h) => (d.modTile n fun t => t.dropClaim e m.frond h).dmaEnd n e i r stBight
    | some .backward => d.dmaEnd n e i r stBight
    | some .wait => d
    | some .unmapped => d.dmaEnd n e i r stUnmapped
    | some (.ue off) => d.memUe n off rdDma m.frond m.strand
    | none =>
      match ecc, off with
      | .uncorrectable, some o => d.memUe n o rdDma m.frond m.strand
      | _, _ =>
        let d := match ecc, off with
          | .corrected, some o => d.corrected n o
          | _, _ => d
        let data := (off.map fun o => t.winRead o len).getD []
        let x := t.engine e
        let a : DmaAccess := { DmaAccess.init with
          id := x.nextId, src := src, dst := dst, len := len, left := d.dmaLeft n m, data := if m.dmaRead then some data else none }
        let r := { r with plan := rest, flight := r.flight ++ [a],
                          rtop := if m.dmaRead && m.da.bight != 0 then mset r.rtop m.da.bight (max (mget r.rtop 0 m.da.bight) (src / 256 + 1)) else r.rtop }
        let d := d.modTile n fun t =>
          let (t, r) := t.flow r r.leftRd r.leftWr
          let t := t.setRun e i r
          t.setEngine e { t.engine e with nextId := x.nextId + 1 }
        d.dmaGo n eng m a (if m.bightDst then r.wloc t m.dc.bight dst else dst)

/-- DMA_LINE_ISSUE (R380, R382). -/
def execDmaLineIssue (tile : TileId) (eng : Fin 2) (ecc : Ecc) (s : State) :=
  run (fun d =>
    let n := tile.val
    let t := d.tile n
    let x := t.engine (dmaEng eng.val)
    if t.held || t.clearing || 192 ≤ (x.run.map fun r => r.flight.length).sum then d
    else
      match (List.range x.run.length).find? fun i => (x.run[i]?.map fun r => !r.plan.isEmpty).getD false with
      | none => d
      | some i =>
        match x.run[i]? with
        | none => d
        | some r =>
          match r.plan with
          | .dma src dst len :: rest => d.dmaIssue n eng.val i r src dst len rest ecc
          | _ => d) s

/-- The write of access `a` is done: fills and drains that it made due take effect (R249). -/
def Tile.dmaLand (t : Tile) (e : EngineId) (i : Nat) (r : Run) (a : DmaAccess) : Tile :=
  let r := r.landed a
  let x := t.flow r r.leftRd r.leftWr
  x.1.setRun e i x.2

/-- Writes the data of a line access into scratchpad (R382); bight room is waited for (R249). -/
def Dev.dmaTake (d : Dev) (n : Nat) (e : EngineId) (i : Nat) (r : Run) (a : DmaAccess) : Dev :=
  let t := d.tile n
  let m := r.macro_
  let h := m.dc.bight
  let gone := { r with flight := r.flight.filter fun b => b.id != a.id }
  match t.writeStop e r ⟨h, a.dst, a.len⟩ with
  | some (.broken h) => (d.modTile n fun t => t.dropClaim e m.frond h).dmaEnd n e i gone stBight
  | some .backward => d.dmaEnd n e i gone stBight
  | some .wait => d
  | some .unmapped => d.dmaEnd n e i gone stUnmapped
  | some (.ue off) => d.memUe n off rdDma m.frond m.strand
  | none =>
    let off := r.wloc t h a.dst
    (d.modTile n fun t => (t.winWrite off (slice (a.data.getD []) 0 a.len)).dmaLand e i r a).dueRepairs n

/-- The write of a copy that waits for its data. -/
def MemAccess.copyWrite (x : MemAccess) (n eng id : Nat) : Bool := !x.ready && x.who == .dma n eng id
/-- The second half of a copy between memories: the data have come, and the write may take its slots (R382, R384). -/
def Dev.dmaCopyOn (d : Dev) (n eng : Nat) (a : DmaAccess) : Dev :=
  let go (x : MemAccess) : MemAccess := if x.copyWrite n eng a.id then { x with ready := true, data := a.data.getD [] } else x
  { d with mem := { d.mem with chans := d.mem.chans.map fun c => (c.1, { c.2 with queue := c.2.queue.map go }) } }
/-- The write of a copy that ended early goes: no data come for it (R109, R384). -/
def Dev.dmaCopyOff (d : Dev) (n eng : Nat) (a : DmaAccess) : Dev :=
  { d with mem := { d.mem with chans := d.mem.chans.map fun c => (c.1, { c.2 with queue := c.2.queue.filter fun x => !x.copyWrite n eng a.id }) } }

/-- Where an access of another tile's window read a word whose check bits count: the source of a get, or the destination of a put
that covers part of a word (R259, R382). -/
def DmaAccess.windowRead (a : DmaAccess) (m : Macro) : Option Nat :=
  let mem (x : Nat) : Bool := inWindows x && winRange (winOffset x) a.len != .regs
  match m.kind with
  | .dmGet => if mem a.src then some a.src else none
  | .dmPut => if mem a.dst && (a.dst % 8 != 0 || a.len % 8 != 0) then some a.dst else none
  | _ => none

/-- An answered access of the transfer in place i returns at the drop (R384). -/
def Dev.dmaBack (d : Dev) (n eng i : Nat) (r : Run) (a : DmaAccess) : Dev :=
  let e := dmaEng eng
  let gone := { r with flight := r.flight.filter fun b => b.id != a.id }
  if a.status ≠ stOk then (d.dmaCopyOff n eng a).dmaEnd n e i gone a.status
  else if r.err ≠ 0 then (d.dmaCopyOff n eng a).modTile n fun t => t.setRun e i gone
  else if !a.done then
    -- the read of a copy is back: its write goes out, and the entry waits for that
    let r := { r with flight := r.flight.map fun b => if b.id = a.id then { b with data := none } else b }
    (d.modTile n fun t => t.setRun e i r).dmaCopyOn n eng a
  else if r.macro_.dmaWrite then d.dmaTake n e i r a
  else if r.macro_.bightDst then d.modTile n fun t => t.dmaLand e i r a
  else d.modTile n fun t => t.setRun e i gone

/-- DMA_LINE_COMPLETE (R384): the oldest answered access of the engine returns at the drop; `ecc` is what the check bits showed where it
read another tile's window (R259, R498). -/
def execDmaLineComplete (tile : TileId) (eng : EngineRead) (s : State) :=
  runM (fun d =>
    let n := tile.val
    let e := dmaEng eng.eng.val
    let x := (d.tile n).engine e
    let back (r : Run) (a : DmaAccess) : Bool :=
      a.done || (r.macro_.kind == .dmMcopy && a.left == 1 && a.data.isSome)
    match (List.range x.run.length).find? fun i => (x.run[i]?.map fun r => r.flight.any (back r)).getD false with
    | none => d
    | some i =>
      match x.run[i]? with
      | none => d
      | some r =>
        match r.flight.find? (back r) with
        | none => d
        | some a =>
          match (if a.status = stOk then a.windowRead r.macro_ else none), eng.ecc with
          | some w, .uncorrectable => d.memUeFor (winTile w) (winOffset w) rdDma n r.macro_.frond r.macro_.strand
          | some w, .corrected => (d.corrected (winTile w) (winOffset w)).dmaBack n eng.eng.val i r a
          | _, _ => d.dmaBack n eng.eng.val i r a) s

end Sys2Proof.Machine
end

