-- ==== Sys2Proof/Machine/TimeCmd.lean ====
section
/-! DEFINITION. The commands of the duty map (R30 to R34) and of device time (R43 to R57, R568). -/

namespace Sys2Proof.Machine

/-! ## The duty map -/

/-- A pending change of field k takes effect (R32). -/
def Dev.applyPend (d : Dev) (k : Nat) : Dev :=
  match d.dmcPend.find? fun e => e.1 == k with
  | none => d
  | some e =>
    let d := d.set DMC_DUTY_STATE_EFFECTIVE (setBits (d.get DMC_DUTY_STATE_EFFECTIVE) k k (boolBit e.2))
    let d := d.set DMC_DUTY_STATE_PENDING (setBits (d.get DMC_DUTY_STATE_PENDING) k k 0)
    let d := { d with dmcPend := d.dmcPend.filter fun x => x.1 != k }
    if k = 1 then
      allParts.foldl (fun d p => d.flag (ADM_P_STATUS_HOST_SCHEDULE p) (e.2 && d.inService p)) d
    else if k = 4 then d.resumeSparing
    else d

/-- An entry of a host schedule that is valid, not refused and whose START has not passed (R77). -/
def Dev.schedLive (d : Dev) (p k : Nat) : Bool :=
  bit (d.get (schedWord p k 2)) 40 == 1 && !(d.sched.contains (p * 256 + k, false)) &&
  decide (d.now ≤ unpackTime (d.get (schedWord p k 0) / 2 ^ 32 + d.get (schedWord p k 0) % 2 ^ 32 * 2 ^ 32))
/-- A host schedule is loaded for partition p (R77). -/
def Dev.schedLoaded (d : Dev) (p : Nat) : Bool := (List.range 256).any (d.schedLive p)

/-- Precondition of a change of field k to `b` (R32): 0 for met, else the REASON of its refusal. -/
def Dev.dutyReason (d : Dev) (k : Nat) (b : Bool) : Nat :=
  if k = 1 && b && !((allParts.filter d.inService).all d.schedLoaded) then 1
  else if k = 7 && allParts.any (fun p => d.get (MEM_P_KEY_STATE p) == 1 || d.get (MEM_P_KEY_STATE p) == 2) then 2
  else if k = 8 && b && !d.ptpLocked (d.get TIME_CTRL_PTP_PORT) then 1
  else 0

/-- A field of the duty map, by its number (R31). -/
def dutyField (k : Nat) : RF := ⟨DMC_DUTY_MAP, k, k, 0⟩
/-- A change of field k is refused (R33). -/
def Dev.dutyRefuse (d : Dev) (k reason : Nat) : Dev :=
  (d.set DMC_DUTY_STATE_REFUSED (setBits (d.get DMC_DUTY_STATE_REFUSED) k k 1)).set DMC_DUTY_STATE_REASON reason

/-- A write that changes field k of the duty map to `b` (R32, R33). ADMISSION, TILING_WALK, SPARING and KEY_SWEEP take
effect at once; the others wait for their point. DESIGN CHOICE (log 30): a REFUSED bit and REASON stay as they are when a later
change of the field is taken; a write of 1 clears the bit. -/
def Dev.dutyWrite (d : Dev) (k : Nat) (b : Bool) : Dev :=
  if d.is (dutyField k) == b then d
  else
    let why := d.dutyReason k b
    if why ≠ 0 then d.dutyRefuse k why
    else
      let d := d.flag (dutyField k) b
      let d := { d with dmcPend := d.dmcPend.filter fun x => x.1 != k }
      if d.duty k == b then d.set DMC_DUTY_STATE_PENDING (setBits (d.get DMC_DUTY_STATE_PENDING) k k 0)
      else
        let d := { d with dmcPend := d.dmcPend ++ [(k, b)] }
        let d := d.set DMC_DUTY_STATE_PENDING (setBits (d.get DMC_DUTY_STATE_PENDING) k k 1)
        if [1, 2, 4, 7].contains k then d.applyPend k else d

/-- A write of DMC_DUTY_MAP (R31 to R33). Without the owner credential the map keeps its value, and the fields that
the write would change are marked refused with REASON 3. -/
def Dev.dutyMapWr (d : Dev) (c : Cred) (v : Nat) : Dev × Byte :=
  match c with
  | .tenant _ => ((List.range 12).foldl (fun d k => if d.is (dutyField k) == (bit v k == 1) then d else d.dutyRefuse k 3) d, stDenied)
  | .none => ((List.range 12).foldl (fun d k => if d.is (dutyField k) == (bit v k == 1) then d else d.dutyRefuse k 3) d, stDenied)
  | _ => ((List.range 12).foldl (fun d k => d.dutyWrite k (bit v k == 1)) d, stOk)

/-- DUTY_MAP_WRITE (R32). -/
def execDutyMapWrite (cred : Cred) (value : Word) (s : State) := runM (fun d => ended (d.dutyMapWr cred value.toNat)) s

/-- DUTY_CHANGE_EFFECT (R32): a pending change takes effect at its point. SCRUB's is the end of a walker's line, and no line is
half done between two commands; METER_DELIVERY's comes once no record is being delivered; TIME_DISCIPLINE's is the next second
boundary. The points of the others lie within commands of their own: a device reset (BOOT_FETCH, R465), a training event, a
retransmission decision, the start of a survey, a telemetry period. Before its point a change stays pending. -/
def execDutyChangeEffect (field : Fin 12) (s : State) :=
  runM (fun d =>
    if d.dmcPend.any fun e => e.1 == field.val then
      if field.val = 8 then d.toSecond
      else if field.val = 3 || (field.val = 11 && d.nop.meterSent.isEmpty) then d.applyPend field.val
      else d
    else d) s

/-! ## TIME_ registers -/

/-- A write of TIME_SET (R45, R46): with ARM it arms, unless a partition is in service. -/
def Dev.timeSetWr (d : Dev) (c : Cred) (v : Nat) : Dev × Byte :=
  ownerWr c d fun d =>
    let d := (d.take TIME_SET_SECOND v).take TIME_SET_SOURCE v
    if TIME_SET_ARM.of v = 1 then
      if d.anyInService then ((d.flag TIME_SET_ARM false).flag TIME_EVENTS_SET_REFUSED true, stOk)
      else (d.flag TIME_SET_ARM true, stOk)
    else (d, stOk)
/-- TIME_SET (R45). -/
def execTimeSet (cred : Cred) (value : Word) (s : State) := run (fun d => ended (d.timeSetWr cred value.toNat)) s

/-- TIME_SET_APPLY (R45 to R47): the next cycle 0, at which the armed set is applied or refused. A count that has
stopped has no cycle 0, and takes or refuses the set at once (log 7); refused, it stays stopped. -/
def execTimeSetApply (s : State) :=
  run (fun d =>
    if !d.is TIME_SET_ARM then d
    else if !d.time.exhausted then d.toSecond
    else if (d.setSecond lastSecond).isSome then ({ d with time := { d.time with exhausted := false } } : Dev).secondBegin lastSecond
    else (d.secondArmed none).requality) s

/-- A write of TIME_CTRL (R55): a change of PTP_PORT clears PTP_LOCK. DESIGN CHOICE (log 30): a PTP_LOCK written as 1 while the
port's other conditions fail stays until they are next looked at, at a cycle 0 or an event of the port. -/
def Dev.timeCtrlWr (d : Dev) (c : Cred) (v : Nat) : Dev × Byte :=
  ownerWr c d fun d =>
    let moved := TIME_CTRL_PTP_PORT.of v != d.get TIME_CTRL_PTP_PORT
    let d := ((d.take TIME_CTRL_HOLD_PPB v).take TIME_CTRL_PPS_COMP v).take TIME_CTRL_PTP_PORT v
    let d := d.take TIME_CTRL_PPS_OUT_EN v
    let d := if moved then d.flag TIME_CTRL_PTP_LOCK false else d.take TIME_CTRL_PTP_LOCK v
    let d := if d.is TIME_CTRL_PPS_OUT_EN then d else { d with time := { d.time with ppsOut := false } }
    (d.requality, stOk)
/-- TIME_CTRL_WRITE (R55). -/
def execTimeCtrlWrite (cred : Cred) (value : Word) (s : State) := run (fun d => ended (d.timeCtrlWr cred value.toNat)) s

/-- A write of TIME_STEER (R51, R54): read-only under the PPS loop; under host steering it is clamped to ±25,000 ppb,
applies at the next cycle 0, and takes FREE or HOLDOVER to ACQUIRE. DESIGN CHOICE (log 30): the second of that write is the first
of the two that lead to LOCKED. -/
def Dev.timeSteerWr (d : Dev) (c : Cred) (v : Nat) : Dev × Byte :=
  ownerWr c d fun d =>
    if !d.hostSteers then (d, stOk)
    else
      let x := signedOf 32 (TIME_STEER_STEER.of v)
      let y := max (-25000) (min 25000 x)
      let d := if y = x then d else d.flag TIME_EVENTS_STEER_CLAMPED true
      let d := { d with time := { d.time with steerNext := some y, steered := true } }
      let d := if (d.tdState = tdHoldover || d.tdState = tdFree) && !d.time.handover then d.tdEnter tdAcquire else d
      (d.requality, stOk)
/-- TIME_STEER_WRITE (R54). -/
def execTimeSteerWrite (cred : Cred) (value : Word) (s : State) := run (fun d => ended (d.timeSteerWr cred value.toNat)) s

/-! ## Pulses and seconds -/

/-- PPS_IN is heeded: not before the end of the ROM stage (R568). -/
def Dev.ppsHeeded (d : Dev) : Bool := d.get DMC_STATUS_STAGE != 0

/-- Half-width of the capture window with `slew` cycles still to be slewed (R49). -/
def Dev.windowHalf (d : Dev) (slew : Int) : Nat :=
  1050 + (if d.tdState = tdHoldover then d.get TIME_STATUS_ERR_BOUND else 0) + slew.natAbs

/-- Corrects an edge's offset (R50): beyond 2 cycles, by restarting the cycle count at the edge if no partition is in
service, else by slewing; a count that has stopped stays where it is (R47). `ahead` says that the cycle 0 it was measured against is still to come, `lag` how many cycles ago the
compensated edge lay. A restart is a cycle 0 of its own, at which PPS_OUT rises (R56). -/
def Dev.correctPhase (d : Dev) (o : Int) (ahead : Bool) (lag : Nat) : Dev :=
  if o.natAbs ≤ 2 then { d with time := { d.time with slew := 0, slewAhead := false } }
  else if d.anyInService then { d with time := { d.time with slew := o, slewAhead := ahead } }
  else
    let d := { d with time := { d.time with slew := 0, slewAhead := false } }
    if d.time.exhausted then d
    else if ahead then
      let s := d.now / secLen
      if s = lastSecond then d else let e := d.secondBegin s; { e with now := e.now + lag }
    else ({ d with now := d.now / secLen * secLen + lag } : Dev).secondPps

/-- A captured edge in the PPS loop (R50, R51). -/
def Dev.edgeCaptured (d : Dev) (o : Int) (ahead : Bool) (lag : Nat) : Dev :=
  let st := d.tdState
  let d := (d.set TIME_STATUS_MISSED 0)
  let d := if st = tdFree || st = tdHoldover then d.tdEnter tdAcquire
    else if st = tdAcquire then
      if o.natAbs ≤ 2 then d.pulseGood else { d with time := { d.time with inRow := 0 } }
    else d.set TIME_STEER_STEER ((max (-25000) (min 25000 (Config.steerAdjust d.steer o))) % 2 ^ 32).toNat
  (d.correctPhase o ahead lag).requality

/-- The edge belongs to the second boundary that the offset is counted from: the last one where device time has not
passed the edge, else the next. Time passes to the edge. -/
def Dev.toEdge (d : Dev) (o : Int) : Dev :=
  if 0 ≤ o then
    if d.now % secLen ≤ o.toNat then d.toTime (d.now / secLen * secLen + o.toNat)
    else d.toTime ((d.now / secLen + 1) * secLen + o.toNat)
  else d.toTime ((d.now / secLen + 1) * secLen - o.natAbs)

/-- TIME_CTRL.PPS_COMP, signed (R48). -/
def Dev.ppsComp (d : Dev) : Int := signedOf 16 (d.get TIME_CTRL_PPS_COMP)

/-- PPS_EDGE: a rising edge of PPS_IN, `raw` cycles from cycle 0 (R48 to R51, R54). The compensated edge lies PPS_COMP cycles after
it and is heeded at the later of the two instants. Outside the window it is ignored and noted; FREE captures every edge; under
host steering it only shows in LAST_OFFSET. -/
def execPpsEdge (raw : Int) (s : State) :=
  run (fun d =>
    if !d.ppsHeeded then d
    else
      let offset := raw + d.ppsComp
      let at_ := max raw offset
      let d := d.toEdge at_
      let ahead := decide (at_ < 0)
      let slew := if ahead then d.slewLeft else d.time.slew
      if d.tdState != tdFree && decide (d.windowHalf slew < offset.natAbs) then d.flag TIME_EVENTS_PPS_SPURIOUS true
      else
        let d := d.set TIME_STATUS_LAST_OFFSET ((max (-32767) (min 32767 offset)) % 2 ^ 16).toNat
        let sec := if ahead then d.now / secLen + 1 else d.now / secLen
        let d := { d with time := { d.time with edgeFor := sec + 1 } }
        if d.hostSteers then d else d.edgeCaptured offset ahead (at_ - offset).toNat) s

/-- The second whose window is judged next (R49): the present one, or, where its pulse or that of the coming one has been taken already,
the one after that. -/
def Dev.windowFor (d : Dev) : Nat :=
  let s := d.now / secLen
  if d.time.edgeFor = s + 1 || d.time.edgeFor = s + 2 then d.time.edgeFor else s
/-- PPS_MISSED (R49, R51): the window of a second boundary closes without an edge; its width is that of its own cycle 0. Under host
steering pulses cause no transition (R51). -/
def execPpsMissed (s : State) :=
  run (fun d =>
    if !d.ppsHeeded || d.hostSteers then d
    else
      let d := d.toTime (d.windowFor * secLen)
      let d := d.toTime (d.now / secLen * secLen + d.windowHalf d.time.slew)
      let d := { d with time := { d.time with edgeFor := d.now / secLen + 1 } }
      ((d.flag TIME_EVENTS_PPS_MISSED true).pulseMissing).requality) s

/-- SECOND_BOUNDARY (R48): time passes to the next cycle 0. -/
def execSecondBoundary (s : State) := run (fun d => d.toSecond) s

/-- PPS_OUT_FALL (R568): PPS_OUT falls 105,000 cycles after it rose. -/
def execPpsOutFall (s : State) :=
  run (fun d =>
    if d.time.ppsOut then
      let d := d.toTick (d.time.ppsRose + 105000)
      { d with time := { d.time with ppsOut := false } }
    else d) s

/-- TIME_EXHAUSTED (R47): in the last second, the count stops at the last representable time. -/
def execTimeExhausted (s : State) :=
  run (fun d => if d.now / secLen = lastSecond && !d.time.exhausted then d.toSecond else d) s

/-- PTP_SYNC_TIMEOUT (R55): 2 s after the latest Sync on PTP_PORT, PTP_LOCK is cleared. -/
def execPtpSyncTimeout (s : State) :=
  run (fun d =>
    if d.is TIME_CTRL_PTP_LOCK then
      match d.time.syncs.find? fun e => e.1 == d.get TIME_CTRL_PTP_PORT with
      | some e =>
        ((d.toTime (e.2.at_ + 2 * secLen + 1)).ptpCheck).requality
      | none => d.ptpCheck.requality
    else d) s

end Sys2Proof.Machine
end

