-- ==== Sys2Proof/Machine/Engine.lean ====
section
/-! DEFINITION. Start and completion of macro-instructions (R107 to R109, R251), the ports' accesses, matrix issue duty and
array repairs (R126, R150), quarter power (R240, R241), and the scrub engine of a tile (R259, R492). -/

namespace Sys2Proof.Machine

/-! ## Start -/

/-- Bights whose producer side, and consumer side, a macro-instruction claims (R251). -/
def Macro.produces (m : Macro) : List Nat :=
  (match m.kind with
   | .mmF2 => [m.hb, m.dd.bight]
   | .mmAtt => [m.hb, m.dd.bight]
   | .vxRun => [m.dc.bight, m.dd.bight]
   | .vxOpt => [m.da.bight, m.dc.bight, m.dd.bight]
   | .spFill => [m.dc.bight]
   | .spCopy => [m.dc.bight]
   | .dmGet => [m.dc.bight]
   | .dmMput => [m.dc.bight]
   | _ => []).filter (· != 0)
def Macro.consumes (m : Macro) : List Nat :=
  (match m.kind with
   | .mmF2 => [m.hb, m.da.bight, m.db.bight, m.dc.bight]
   | .mmAtt => [m.hb, m.da.bight, m.db.bight, m.dc.bight]
   | .vxRun => [m.da.bight, m.db.bight]
   | .vxOpt => [m.da.bight, m.db.bight, m.dc.bight, m.dd.bight]
   | .spFill => [m.da.bight]
   | .spCopy => [m.da.bight]
   | .dmPut => [m.da.bight]
   | .dmMput => [m.da.bight]
   | _ => []).filter (· != 0)

/-- Another engine claims a side that the macro-instruction uses (R251). -/
def Tile.claimed (t : Tile) (e : EngineId) (m : Macro) : Bool :=
  let other (c : Option EngineId) : Bool := match c with | some x => x != e | none => false
  (m.produces.any fun h => other (t.bight m.frond h).pclaim) || m.consumes.any fun h => other (t.bight m.frond h).cclaim
/-- Takes the claims. -/
def Tile.claim (t : Tile) (e : EngineId) (m : Macro) : Tile :=
  let t := m.produces.foldl (fun t h => t.modBight m.frond h fun b => { b with pclaim := some e }) t
  m.consumes.foldl (fun t h => t.modBight m.frond h fun b => { b with cclaim := some e }) t

/-- The scale record that a macro-instruction gathers into (R176, R188, R215). -/
def Macro.record? (m : Macro) : Option Nat :=
  match m.kind with
  | .mmF2 => if m.frec.srec then some m.frec.srecPtr else none
  | .vxRun => if bit m.spec 21 = 1 then some m.dc.sptr else none
  | _ => none
/-- Bytes read when a macro-instruction starts: its mask and its scale record. -/
def Macro.startReads (m : Macro) : List (Nat × Nat) :=
  (match m.kind with
   | .mmMm => m.dc.maskSpan.toList
   | .mmWg => m.dc.maskSpan.toList
   | .mmOut => m.dc.maskSpan.toList
   | _ => []) ++ match m.record? with
    | some p => [(p, 64)]
    | none => []
/-- A word, freely chosen, of one of several ranges, freely chosen (R259). -/
def someRead (free : Nat) (l : List (Nat × Nat)) : Nat :=
  let a := l.getD (Config.eccLine free % l.length) (0, 1)
  someWord free a.1 a.2
/-- The uncorrectable word that the start of a macro-instruction meets: one that stood there, or the command's. -/
def Tile.startError (t : Tile) (free : Nat) (m : Macro) (ecc : Ecc) : Option Nat :=
  match m.startReads.find? fun a => t.ueIn a.1 a.2 with
  | some a => some (t.ueAddr a.1 a.2)
  | none => if ecc = .uncorrectable && !m.startReads.isEmpty then some (someRead free m.startReads) else none
/-- The walk of a macro-instruction. -/
def Tile.planOf (t : Tile) (e : EngineId) (m : Macro) : List Micro :=
  match e with
  | .mx => t.planMx m
  | .vx => m.planVx
  | .fc => m.planFc
  | _ => m.planDma

/-- An engine can start `m`: a DMA engine once the transfer before has issued its last line; the vector engine once the last beat before
has entered the chain, unless `m` has to wait for a completion (R222); another once it is free. -/
def Engine.free (x : Engine) (e : EngineId) (m : Macro) : Bool :=
  match e with
  | .dma0 => x.run.all fun r => r.plan.isEmpty
  | .dma1 => x.run.all fun r => r.plan.isEmpty
  | .vx => x.run.all fun r => r.plan.isEmpty && !r.macro_.hazard m
  | _ => x.run.isEmpty
/-- Reader code of an engine (R502). -/
def readerOf : EngineId → Nat
  | .mx => rdMatrix
  | .vx => rdVector
  | .fc => rdFill
  | _ => rdDma

/-- MACRO_START (R107, R251, R380). -/
def execMacroStart (tile : TileRead) (engine : EngineId) (s : State) :=
  run (fun d =>
    let n := tile.tile.val
    let t := d.tile n
    let x := t.engine engine
    match x.queue with
    | [] => d
    | m :: rest =>
      if t.held || t.clearing || !x.free engine m || t.claimed engine m then d
      else
        match t.startError d.free m tile.ecc with
        | some w => d.draw.memUe n w (readerOf engine) m.frond m.strand
        | none =>
          let d := if tile.ecc = .corrected then
              match m.startReads with
              | [] => d
              | a :: as => d.draw.corrected n (someRead d.free (a :: as))
            else d
          let ok := m.startReads.all fun a => t.canAccess a.1 a.2
          let r : Run := { Run.init with
            macro_ := m, plan := if ok then t.planOf engine m else [], err := if ok then 0 else stUnmapped, started := d.tick
            starts := (m.produces ++ m.consumes).eraseDups.map fun h => (h, (t.bight m.frond h).fill, (t.bight m.frond h).drain) }
          let r := match m.record? with
            | some p => t.recStart p r
            | none => r
          d.modTile n fun t => (t.setEngine engine { queue := rest, run := x.run ++ [r], nextId := x.nextId }).claim engine m) s

/-! ## Completion -/

/-- LAST_ERR of an engine; the DMA engines have none (R151, R228, R265). -/
def Dev.lastErr (d : Dev) (n : Nat) (e : EngineId) (st : Byte) : Dev :=
  if st = 0 then d
  else match e with
    | .mx => d.set (TILE_MX_STATUS_LAST_ERR n) st.toNat
    | .vx => d.set (TILE_VX_STATUS_LAST_ERR n) st.toNat
    | .fc => d.set (TILE_SP_STATUS_LAST_ERR n) st.toNat
    | _ => d

/-- Lines not yet filled or drained when a macro-instruction completes (R249). -/
def Tile.lastLines (t : Tile) (r : Run) : Tile :=
  let f := r.macro_.frond
  let t := r.wtop.foldl (fun t e =>
    let k := mget r.filled 0 e.1
    if k < e.2 then t.modBight f e.1 fun b => b.fillN (e.2 - k) else t) t
  r.rtop.foldl (fun t e =>
    let k := mget r.drained 0 e.1
    if k < e.2 then t.modBight f e.1 fun b => b.drainN (e.2 - k) else t) t

/-- Completes the macro-instruction at the head of an engine (R108, R109, R176, R251). A conversion on another engine that gathers
into the same record goes on from what this one writes (R199). -/
def Dev.complete (d : Dev) (n : Nat) (e : EngineId) (r : Run) : Dev :=
  let m := r.macro_
  let d := d.modTile n fun t =>
    let t := if r.err = 0 then t.lastLines r else t
    let t := match m.record? with
      | some p =>
        let r : Run := if m.kind = MacroKind.vxRun ∧ bits m.spec 23 22 = 1 then { r with recStep := r.recStep + 1 } else r
        [EngineId.mx, .vx].foldl (fun (t : Tile) o =>
          if o == e then t
          else
            let x := t.engine o
            t.setEngine o { x with run := x.run.map fun (q : Run) => if q.macro_.record? == some p then q.recJoin r else q }) (t.recEnd p r)
      | none => t
    let x := t.engine e
    let t := t.setEngine e { x with run := x.run.drop 1 }
    let t := if t.mx.busy then t else { t with mxIdle := d.tick }
    if (t.engine e).run.isEmpty then t.release e m.frond
    else
      -- a DMA engine's later transfers keep their claims
      (t.engine e).run.foldl (fun t (q : Run) => t.claim e q.macro_) (t.release e m.frond)
  let d := d.lastErr n e r.err
  let d := d.modStrand n m.frond m.strand fun x => x.modK m.k fun c =>
    { cnt := c.cnt - 1, err := if c.err = 0 then r.err else c.err }
  (d.wakeStrand n m.frond m.strand).admitWaiter n e

/-- The words of a scale record that its completion write covers only in part: AMAX, STEP, FLAGS and SATCOUNT lie in them (R176, R238). -/
def recMerged (p : Nat) : List (Nat × Nat) := [(p, 8), (p + 48, 8), (p + 56, 8)]
/-- The uncorrectable word that a completion's merge into a record meets: one that stood there, or the command's (R259). -/
def Tile.endError (t : Tile) (free p : Nat) (ecc : Ecc) : Option Nat :=
  match (recMerged p).find? fun a => t.ueIn a.1 a.2 with
  | some a => some a.1
  | none => if ecc = .uncorrectable then some (someRead free (recMerged p)) else none
/-- MACRO_COMPLETE (R108, R109). A completion that cannot merge its record's words writes nothing of it, and is contained (R259). -/
def execMacroComplete (tile : TileRead) (engine : EngineId) (s : State) :=
  run (fun d =>
    let n := tile.tile.val
    match (d.tile n).engine engine |>.run with
    | [] => d
    | r :: _ =>
      if r.plan.isEmpty && r.flight.isEmpty then
        match r.macro_.record? with
        | none => d.complete n engine r
        | some p =>
          match (d.tile n).endError d.free p tile.ecc with
          | some w => d.draw.memUe n w (readerOf engine) r.macro_.frond r.macro_.strand
          | none =>
            (if tile.ecc = .corrected then d.draw.corrected n (someRead d.free (recMerged p)) else d).complete n engine r
      else d) s

/-! ## Accesses -/

/-- ENGINE_LINE_ACCESS (R234, R235): the engine that owns the port makes the next access of its walk. The accesses of the
mesh, core, DMA and scrub ports are the effects of other commands. -/
def execEngineLineAccess (tile : TileId) (port : SpPort) (ecc : Ecc) (s : State) :=
  runM (fun d =>
    let n := tile.val
    match port with
    | .mxA => d.mxStream n ecc
    | .mxW => d.mxLoad n ecc
    | .mxO => d.mxWriteOut n ecc
    | .vxI0a => d.vxBeat n ecc
    | .vxI0b => d.vxBeat n ecc
    | .vxI1a => d.vxBeat n ecc
    | .vxI1b => d.vxBeat n ecc
    | .vxOa => d.vxBeat n ecc
    | .vxOb => d.vxBeat n ecc
    | .fill => d.fcStep n ecc
    | .dmaIn => d
    | .dmaOut => d
    | .meshIn => d
    | .meshOut => d
    | .core => d
    | .scrub => d) s
/-- MX_WRITE_OUT (R140). -/
def execMxWriteOut (tile : TileRead) (s : State) := runM (fun d => d.mxWriteOut tile.tile.val tile.ecc) s
/-- SPLICE_CONTRIBUTION_SEND (R147). -/
def execSpliceContributionSend (tile : TileRead) (s : State) := runM (fun d => d.mxSplice tile.tile.val tile.ecc) s
/-- FUNCTION_PASS (R190, R195). -/
def execFunctionPass (tile : TileId) (ecc : Ecc) (s : State) := runM (fun d => d.mxFunc tile.val ecc) s

/-! ## Duty and repairs -/

/-- Matrix issue duty of an envelope mode, in sixteenths (R535). -/
def modeDuty (m : Nat) : Nat := if m = 0 then 16 else if m = 1 then 12 else 8
/-- DUTY_FRAME_BOUNDARY (R69, R126): frames begin every 16 cycles, the same for all tiles; time passes to the next boundary, at
which the arrays take up the duty. -/
def execDutyFrameBoundary (s : State) :=
  run (fun d =>
    let d := d.toTime (ceilDiv d.now 16 * 16)
    { d with power := { d.power with frameDuty := modeDuty (d.get PWR_ENVELOPE_ARRAY) } }) s
/-- ARRAY_REPAIR (R150): the repairs that wait take effect while the engine is idle with its queue empty. -/
def Tile.arrayRepair (t : Tile) : Tile :=
  if t.mx.busy then t
  else
    t.repairWait.foldl (fun t e =>
      if e.1 then (if t.badRows.length < 2 && !t.badRows.contains e.2 then { t with badRows := t.badRows ++ [e.2] } else t)
      else if t.badCols.length < 2 && !t.badCols.contains e.2 then { t with badCols := t.badCols ++ [e.2] } else t)
      { t with repairWait := [] }
/-- ARRAY_REPAIR (R150): the rows and columns mapped out are blown into the repair fuses (R505). -/
def execArrayRepair (tile : TileId) (s : State) :=
  runM (fun d =>
    let n := tile.val
    let t := d.tile n
    let t' := t.arrayRepair
    let d := d.modTile n fun _ => t'
    if t'.badRows.length + t'.badCols.length = t.badRows.length + t.badCols.length then d
    else
      let d : Dev := { d with
        fuses := { d.fuses with mxRepairs :=
          (d.fuses.mxRepairs.filter fun e => e.1 != d.physOf n) ++ [(d.physOf n, t'.badRows, t'.badCols)] }
        spare := { d.spare with arrayFaults := d.spare.arrayFaults.filter fun e =>
          !(e.1 == n && (if e.2.1 then t'.badRows.contains e.2.2 else t'.badCols.contains e.2.2)) } }
      let full := t'.badRows.length == 2 || t'.badCols.length == 2
      let d := d.modTile n fun t => { t with mxShown := (t.badRows, t.badCols) }
      let d := d.spared 2 (some n) 14 (zeros 11 ++ leBytes 1 (4 - t'.badRows.length - t'.badCols.length)) (full && d.rises 1)
      if full then d.raiseLevel 1 2 else d) s

/-! ## Quarter power (R239 to R241) -/

/-- A power state of a code of REQ; none for 3. -/
def powerCode (k : Nat) : Option QPower :=
  match k with
  | 0 => some .off
  | 1 => some .retain
  | 2 => some .on
  | _ => none
/-- The code a state has, or leads to. -/
def powerTarget : QPower → Nat
  | .off => 0
  | .retain => 1
  | .on => 2
  | .leaving k => k
  | .changing k _ => k
/-- A quarter starts towards the state requested: from ON it first waits for what is in flight, and ON to ON or the
transition under way goes on. -/
def Tile.startPower (t : Tile) (j k : Nat) : Tile :=
  match t.quarter j with
  | .on => if k = 2 then t else t.setQuarter j (.leaving k)
  | .off => if k = 0 then t else t.setQuarter j (.changing k true)
  | .retain => if k = 1 then t else t.setQuarter j (.changing k false)
  | _ => t
/-- A write of TILE_SP_POWER (R240): a quarter whose request is unchanged stays, a code of 3 is ignored. -/
def Dev.spPowerWr (d : Dev) (c : Cred) (n : Nat) (v : Word) : Dev × Byte :=
  ownerWr c d fun d =>
    let old := d.get (TILE_SP_POWER_REQ n)
    let code (j : Nat) : Nat := let k := bits v.toNat (2 * j + 1) (2 * j); if k = 3 then bits old (2 * j + 1) (2 * j) else k
    let d := d.set (TILE_SP_POWER_REQ n) ((List.range 4).map fun j => code j * 4 ^ j).sum
    (d.modTile n fun t => (List.range 4).foldl (fun t j => t.startPower j (code j)) t, stOk)
/-- SP_POWER_REQ (R240). -/
def execSpPowerReq (cred : Cred) (tile : TileId) (value : Word) (s : State) := run (fun d => ended (d.spPowerWr cred tile.val value)) s

/-- A store that a strand's buffer holds lies in quarter j. -/
def Tile.storesIn (t : Tile) (j : Nat) : Bool :=
  t.strands.any fun e => e.2.stores.any fun x => decide (x.off < 0x1800000) && quarterOf x.off == j
/-- SP_QUARTER_QUIESCED (R240): with no store to the quarter left in a buffer, its supply begins to change. -/
def execSpQuarterQuiesced (tile : TileId) (quarter : Fin 4) (s : State) :=
  run (fun d => d.modTile tile.val fun t =>
    match t.quarter quarter.val with
    | .leaving k => if t.storesIn quarter.val then t else t.setQuarter quarter.val (.changing k false)
    | _ => t) s

/-- SP_POWER_TRANSITION_DONE (R240): the new state; a request that changed meanwhile starts its own transition. -/
def execSpPowerTransitionDone (tile : TileId) (quarter : Fin 4) (s : State) :=
  run (fun d =>
    let n := tile.val
    let j := quarter.val
    let req := bits (d.get (TILE_SP_POWER_REQ n)) (2 * j + 1) (2 * j)
    match (d.tile n).quarter j with
    | .changing k _ =>
      (d.loseQuarter n j).modTile n fun t => (t.setQuarter j ((powerCode k).getD .on)).startPower j req
    | _ => d) s

/-! ## Scrubbing a tile (R491, R492) -/

/-- What access k of a pass over a tile reads, in the order of R492: window offset of its line; none for the lines of tile
registers and router state. -/
def scrubOff (k : Nat) : Option Nat :=
  if k < 98304 then some (k * 256)
  else if k < 102400 then some (0x1800000 + (k - 98304) * 256)
  else if k < 104448 then some (0x1900000 + (k - 102400) * 256)
  else if k < 104704 then some (0x1980000 + (k - 104448) * 256)
  else if k < 105216 then some (0x1990000 + (k - 104704) * 256)
  else if k < 105232 then some (0x19B0000 + (k - 105216) * 256)
  else none
/-- Accesses of a full pass over a tile. -/
def scrubLen : Nat := 105488
/-- The next access of a tile's pass, past the lines of quarters that are not ON. -/
def Tile.scrubNext (t : Tile) (k : Nat) : Nat :=
  (List.range 4).foldl (fun k j => if k < 98304 && quarterOf (k * 256) = j && t.quarter j != .on then (j + 1) * 24576 else k) k

/-- The walker moves a line with a word corrected twice to a spare, in this SCRUB slot of its bank (R506, R512). -/
def Dev.moveDue (d : Dev) (n line : Nat) : Dev :=
  (d.modTile n fun t => { t with scrubDue := t.scrubDue.filter (· != line) }).lineNeed n line

/-- One scrub access of tile n at access k of a pass (R259, R492, R498, R506). -/
def Dev.scrubAt (d : Dev) (n k : Nat) (ecc : Ecc) : Dev :=
  let t := d.tile n
  match scrubOff k with
  | none =>
    match ecc, Config.sideLine k % 3 with
    | .uncorrectable, 0 => (d.ueRecord n 0x1A00000 rdWalker 0 0 3 4).fence n 1
    | .uncorrectable, 1 => d.contextUe n
    | .uncorrectable, _ => d.routerUe n
    | .corrected, _ => d.modTile n fun t => { t with ceSecond := t.ceSecond + 1 }
    | .ok, _ => d
  | some off =>
    let line := off / 256
    let d := if off < 0x1800000 && t.scrubDue.contains line then d.moveDue n line else d
    match ecc with
    | .ok => if t.ueIn off 256 then d.memUeLatent n (t.ueAddr off 256) rdWalker
             else d.modTile n fun t => { t with ceLines := t.ceLines.filter (· != line) }
    | .corrected =>
      let w := off + Config.eccWord d.free % 32 * 8
      let d := (d.draw).corrected n w
      let d := d.modTile n fun t => { t with ceLines := t.ceLines.filter (· != line) }
      if (d.tile n).scrubDue.contains line then d.moveDue n line else d
    | .uncorrectable => d.memUeLatent n off rdWalker

/-- The walker of a logical tile's die columns (R491): of the position that hosts it. -/
def Dev.walkerOf (d : Dev) (n : Nat) : Nat :=
  let ph := d.physOf n
  let col := if isSpare ph then spareCol ph % 8 else ph % 8
  2 * (ph / 128) + if col < 4 then 0 else 1

/-- The other walker of a die. -/
def walkerPartner (w : Nat) : Nat := w + 1 - 2 * (w % 2)
/-- The walker that scrubs tile n: its own, or, once that is stopped, its partner, which then scrubs the whole die (R494). -/
def Dev.driverOf (d : Dev) (n : Nat) : Nat :=
  let w := d.walkerOf n
  if d.is (FLT_WALKER_STOPPED w) then walkerPartner w else w
/-- Tiles that a walker drives, in ascending order. -/
def Dev.walkerTiles (d : Dev) (w : Nat) : List Nat := allTiles.filter fun n => d.driverOf n == w
/-- The configuration of a walker: the majority of its three voted flops, bit by bit (R493). -/
def Walker.interval (x : Walker) : Nat :=
  let (a, b, c) := x.flops
  (a &&& b) ||| (a &&& c) ||| (b &&& c)
/-- The majority value of each bit is written back to all three flops (R493). -/
def Walker.vote (x : Walker) : Walker := { x with flops := (x.interval, x.interval, x.interval) }
/-- Changes a walker. -/
def Dev.modWalker (d : Dev) (w : Nat) (f : Walker → Walker) : Dev :=
  { d with scrub := { d.scrub with walkers := mset d.scrub.walkers w (f (mget d.scrub.walkers Walker.init w)) } }
/-- A walker's pass has ended: it is counted, and the walker takes FLT_SCRUB_CFG (R494). -/
def Dev.passEnd (d : Dev) (w : Nat) : Dev :=
  let d := d.addWrap (FLT_WALKER_PASSES w) 1
  let k := d.get FLT_SCRUB_CFG_INTERVAL
  d.modWalker w fun x => { x with flops := (k, k, k) }

/-- SCRUB_ACCESS (R492, R496): the scrub engine of the tile makes its next access. By itself it works through the tile; the
walker's position follows the tile that finishes, and its pass ends with its last tile. Under host-named scrubbing only the
range of the command is read. -/
def execScrubAccess (tile : TileId) (ecc : Ecc) (s : State) :=
  runM (fun d =>
    let n := tile.val
    let t := d.tile n
    let d := if (bit (d.get DMC_DUTY_STATE_PENDING) 3 == 1) then d.applyPend 3 else d
    let w := d.driverOf n
    if d.duty 3 then
      match d.scrub.cmd with
      | some (0, m, next, left) =>
        if m ≠ n then d
        else
          let d := if next < 98304 && !t.rangeOn (next * 256) 256 then d else d.scrubAt n next ecc
          if left ≤ 1 then ({ d with scrub := { d.scrub with cmd := none } } : Dev).flag FLT_SCRUB_CMD_DONE true
          else { d with scrub := { d.scrub with cmd := some (0, m, next + 1, left - 1) } }
      | _ => d
    else if d.is (FLT_WALKER_STOPPED w) then d
    else
      let k := t.scrubNext t.scrubPos
      let d := d.scrubAt n k ecc
      let d := d.modWalker w fun x => { x with moved := true }
      if k + 1 < scrubLen then d.modTile n fun t => { t with scrubPos := k + 1 }
      else
        let d := d.modTile n fun t => { t with scrubPos := 0, twice := [] }
        let ts := d.walkerTiles w
        let nxt := (ts.find? fun m => decide (n < m)).getD (ts.headD 0)
        let d := (d.modWalker w fun x => { x with pos := nxt }).set (FLT_WALKER_POSITION w) nxt
        if nxt ≤ n then d.passEnd w else d) s

end Sys2Proof.Machine
end

