-- ==== Sys2Proof/Machine/Arrive.lean ====
section
/-! DEFINITION. Messages that reach a tile: credits and notices (R269, R274, R284 to R287), queue entries and the queue
extension (R277, R281, R282), stall probes (R288, R289, R364), splice contributions (R292 to R295), hitch tokens
(R297), tally operations and replies (R300, R301), and fence notices (R504). Each command takes up the oldest flit of its
kind that waits at the tile's local port; with none it has no effect. -/

namespace Sys2Proof.Machine

/-- Takes the oldest arrival of a kind. -/
def Dev.arrival (d : Dev) (n : Nat) (p : FlitBody → Bool) (k : Dev → Flit → Dev) : Dev :=
  match (d.tile n).arrivals.find? fun f => p f.body with
  | none => d
  | some f => k (d.modTile n fun t => { t with arrivals := dropFirst (fun x => p x.body) t.arrivals }) f

/-! ## Credits and notices -/

/-- `k` credits of destination `src` reach a route (R274, R276): its waiting senders take them. -/
def Dev.creditTo (d : Dev) (n f e src k : Nat) : Dev :=
  (d.modRoute n f e fun r => if r.remote then { r with held := r.held.map fun x => (x.1, x.2 + k) } else r.give src k).serveWaiters n f e 9

/-- A splice's credit reaches a contributor tile on the credit tree: one for each of its routes to that splice (R293). -/
def Dev.spliceCreditTo (d : Dev) (n src s : Nat) : Dev :=
  ((d.tile n).routes.filter fun e => e.2.type == rtSplice && !e.2.remote && e.2.dest == src && e.2.index == s).foldl
    (fun d e => d.creditTo n (e.1 / 128) (e.1 % 128) src 1) d

/-- CREDIT_ARRIVE (R276, R293). -/
def execCreditArrive (tile : TileId) (s : State) :=
  run (fun d => d.arrival tile.val (fun b => match b with | .credit _ _ _ => true | .spliceCredit _ => true | _ => false)
    fun d f =>
      match f.body with
      | .credit wf e k => d.creditTo tile.val wf e f.src k
      | .spliceCredit k => d.spliceCreditTo tile.val f.src k
      | _ => d) s

/-- A close notice reaches a route: OPEN becomes CLOSED (R269). -/
def Dev.closeTo (d : Dev) (n f e : Nat) : Dev :=
  if ((d.tile n).route f e).st = .open_ then d.routeTo n f e .closed else d
/-- CLOSE_NOTICE (R269, R284). -/
def execCloseNotice (tile : TileId) (s : State) :=
  run (fun d => d.arrival tile.val (fun b => match b with | .closeN _ _ => true | _ => false) fun d f =>
    match f.body with
    | .closeN wf e => d.closeTo tile.val wf e
    | _ => d) s

/-- A stale notice reaches a route: OPEN or CLOSED becomes STALE (R269). -/
def Dev.staleTo (d : Dev) (n f e : Nat) : Dev :=
  let st := ((d.tile n).route f e).st
  if st = .open_ || st = .closed then d.routeTo n f e .stale else d
/-- STALE_NOTICE (R269, R285). -/
def execStaleNotice (tile : TileId) (s : State) :=
  run (fun d => d.arrival tile.val (fun b => match b with | .staleN _ _ => true | _ => false) fun d f =>
    match f.body with
    | .staleN wf e => d.staleTo tile.val wf e
    | _ => d) s

/-- A reopen reaches a route (R269, R286). A multicast route, which holds each leaf's grant separately, takes the credits
of the leaf that sent it. -/
def Dev.reopenTo (d : Dev) (n f e src grant epoch : Nat) : Dev :=
  let r := (d.tile n).route f e
  if r.mcast && r.st != .revoked then
    (d.modRoute n f e fun r =>
      { r with held := r.held.map (fun x => if x.1 = src then (x.1, grant) else x), st := .open_, epoch := epoch }).serveWaiters n f e 9
  else d.routeReopen n f e grant epoch
/-- REOPEN_NOTICE (R269, R286). -/
def execReopenNotice (tile : TileId) (s : State) :=
  run (fun d => d.arrival tile.val (fun b => match b with | .reopenN _ _ _ _ => true | _ => false) fun d f =>
    match f.body with
    | .reopenN wf e g ep => d.reopenTo tile.val wf e f.src g ep
    | _ => d) s

/-- A revoked credit reaches a route: it becomes REVOKED (R269, R287). -/
def Dev.revokedTo (d : Dev) (n f e : Nat) : Dev :=
  if ((d.tile n).route f e).st = .revoked then d else d.routeTo n f e .revoked
/-- REVOKED_CREDIT (R269, R287). -/
def execRevokedCredit (tile : TileId) (s : State) :=
  run (fun d => d.arrival tile.val (fun b => match b with | .revoked _ _ => true | _ => false) fun d f =>
    match f.body with
    | .revoked wf e => d.revokedTo tile.val wf e
    | _ => d) s

/-! ## Queue entries -/

/-- QUEUE_ENTRY_ARRIVE (R277, R281, R284, R285, R287). -/
def execQueueEntryArrive (tile : TileId) (s : State) :=
  run (fun d => d.arrival tile.val (fun b => match b with | .entry _ _ _ _ _ _ => true | _ => false) fun d f =>
    match f.body with
    | .entry light q len epoch e data =>
      d.entryArrive tile.val q
        { ref := .local_ f.src (e / 128) (e % 128), frond := f.frond,
          tag := entryTag f.user 0 false f.sstr f.src len light f.frond,
          data := if light then data.take len else data, epoch := some epoch }
    | _ => d) s

/-- EXTENSION_SPILL: the oldest entry that is to move to the extension moves to its tail and its credit returns (R281);
with the room gone meanwhile it stays in its slot. -/
def execExtensionSpill (tile : TileId) (q : QueueRead) (s : State) :=
  run (fun d =>
    let n := tile.val
    let t := d.tile n
    let qu := t.queue q.q.val
    match qu.slots.find? fun e => e.spill with
    | none => d
    | some e =>
      let pos := qu.extTail
      if !(decide (qu.ext.length < qu.extLen) && t.rangeOn (qu.extBase * 256) (qu.extLen * 64)) then
        d.modQueue n q.q.val fun x => { x with slots := x.slots.map fun y => if y.slot = e.slot then { y with spill := false } else y }
      else
       match d.eccRead n (slotOff q.q.val e.slot) 64 rdMessaging e.frond 0 q.ecc with
       | (d, none) => d
       | (d, some bs) =>
        let d := d.modTile n fun t => t.winWrite (qu.extOff pos) bs
        let d := d.modQueue n q.q.val fun x =>
          { x with slots := x.slots.filter (fun y => y.slot != e.slot), ext := x.ext ++ [⟨pos, e.tag, e.frond, e.no⟩] }
        (d.notify n e.credit (.credit 1)).feedAll (d.tile n).part) s

/-- Places an entry that came back where its arrival puts it: behind its frond's older entries, before those that came
later and found the extension without room, or are still to move there (R272, R282). -/
def placeBack (x : SlotEntry) : List SlotEntry → List SlotEntry
  | [] => [x]
  | y :: r => if x.no < y.no then x :: y :: r else y :: placeBack x r

/-- Entries of frond f in the slots that stand before the extension entry numbered `no` (R282): one that came later and found
no room in the extension does not count against SPILL_AT, or the older one could never come back (log 31). -/
def Queue.before (q : Queue) (f no : Nat) : Nat := (q.slots.filter fun y => y.frond == f && decide (y.no < no)).length

/-- EXTENSION_REFILL: the oldest entry of the active frond in the extension moves back into a slot (R281, R282). -/
def execExtensionRefill (tile : TileId) (q : QueueRead) (s : State) :=
  run (fun d =>
    let n := tile.val
    let t := d.tile n
    let qu := t.queue q.q.val
    match t.active with
    | none => d
    | some f =>
      match qu.ext.find? fun e => e.frond == f, qu.freeSlot with
      | some e, some j =>
        let off := qu.extOff e.pos
        if qu.before f e.no < qu.spillAt &&
            decide ((qu.slots.filter fun y => y.fromExt).length < 4) && t.rangeOn off 64 then
          match d.eccRead n off 64 rdMessaging f 0 q.ecc with
          | (d, none) => d
          | (d, some bs) =>
            let d := d.modTile n fun t =>
              { t with qmem := cwrite t.qmem (slotOff q.q.val j) bs, bad := coveredWords t.bad (slotOff q.q.val j) 64 }
            let x : SlotEntry := { slot := j, tag := e.tag, frond := f, credit := .none_, fromExt := true, spill := false, no := e.no }
            (d.modQueue n q.q.val fun y =>
              { y with slots := placeBack x y.slots, ext := y.ext.filter fun z => z.pos != e.pos }).wakeAll n
        else d
      | _, _ => d) s

/-! ## Stall probes -/

/-- The partition's stall limit in cycles, as tile n shows it (R288). -/
def Dev.stallLimit (d : Dev) (n : Nat) : Nat := d.get (PART_P_CFG_STALL_LIMIT (d.tile n).part)

/-- A send that waits for credit: who waits (8 for the matrix engine), in which frond, on which route entry, and since
when. A timed send whose limit is below the stall limit takes no part (R289). -/
structure StallWait where
  who : Nat
  frond : Nat
  entry : Nat
  since : Nat

/-- The waiting send of a strand. -/
def Tile.strandWait (t : Tile) (limit s : Nat) : Option StallWait :=
  match t.frondWith s fun x => match x.op with | .send _ _ _ _ _ _ _ => true | _ => false with
  | none => none
  | some f =>
    let x := t.strand f s
    match x.op with
    | .send _ _ _ _ e _ lim =>
      if (match lim with | some l => decide (limit ≤ l - x.waitFrom) | none => true) && !(t.frond f).stopped then
        some ⟨s, f, e, x.waitFrom⟩
      else none
    | _ => none

/-- The matrix engine's wait for credit. -/
def Tile.engineWait (t : Tile) : Option StallWait :=
  match t.head .mx with
  | some r =>
    let f := r.macro_.frond
    let e := r.macro_.routeEntry
    if (t.route f e).waiters.contains .engine then some ⟨8, f, e, r.waitFrom⟩ else none
  | none => none

/-- A waiter of a tile by its number. -/
def Tile.stallWait (t : Tile) (limit who : Nat) : Option StallWait :=
  if who = 8 then t.engineWait else t.strandWait limit who

/-- Probes that the waiter has sent. -/
def Tile.probesOf (t : Tile) (w : StallWait) : Nat :=
  if w.who = 8 then (match t.head .mx with | some r => r.probed | none => 0) else (t.strand w.frond w.who).probed
/-- Notes one more probe. -/
def Tile.probeSent (t : Tile) (w : StallWait) : Tile :=
  if w.who = 8 then
    (match t.head .mx with | some r => t.setHead .mx { r with probed := r.probed + 1 } | none => t)
  else t.modStrand w.frond w.who fun x => { x with probed := x.probed + 1 }

/-- STALL_PROBE: a send that has waited STALL_LIMIT cycles, or that again since its last probe, sends a probe to the tile
of its destination; a stall through a remote queue is counted and sends none (R288, R289). -/
def execStallProbe (tile : TileId) (waiter : Option StrandId) (s : State) :=
  run (fun d =>
    let n := tile.val
    let limit := d.stallLimit n
    let who := match waiter with | some k => k.val | none => 8
    match (d.tile n).stallWait limit who with
    | none => d
    | some w =>
      let d := d.toTick (w.since + limit * ((d.tile n).probesOf w + 1))
      let r := (d.tile n).route w.frond w.entry
      let d := d.modTile n fun t => t.probeSent w
      if r.remote then d.msgCount n 6 1
      else
        let f := { d.mkFlit n .c w.frond 0 r.dest 0 (.probe who r.index n (w.frond * 128 + w.entry)) with seq := r.epoch }
        d.inject n (if r.mcast then { f with mcast := true, dests := (d.tree r.dest).leaves } else f)) s

/-- A stalled waiter is handled as a strand with an unhandled trap (R116, R289): its EPC is the send's. The matrix engine
counts as the frond on its tile. -/
def Dev.stallHandle (d : Dev) (n : Nat) (w : StallWait) : Dev :=
  let cause := Config.stallTrap (2 * d.free) % 256
  let tval := BitVec.ofNat 64 (Config.stallTrap (2 * d.free + 1))
  let d := d.draw
  let d := d.modRoute n w.frond w.entry fun r =>
    { r with waiters := r.waiters.filter (· != (if w.who = 8 then Waiter.engine else .strand w.who)) }
  if w.who = 8 then
    let t := d.tile n
    let pol := d.get (TILE_CORE_CTRL_FAULT_POLICY n)
    let s := match t.head .mx with | some r => r.macro_.strand | none => 0
    let d := d.log { cls := 1, sev := 3, part := t.part, tile := some n, unit := 3,
                     action := 1 + (if pol = 0 && d.regionState t.part == 5 then 2 else 0),
                     detail := leBytes 1 s ++ leBytes 1 w.frond ++ leBytes 1 cause ++ zeros 5 ++ leBytes 8 tval.toNat }
    let d := d.stopFrond n w.frond
    if pol = 0 then d.containRegion t.part else d
  else d.unhandled n w.frond w.who cause (((d.tile n).strand w.frond w.who).pc.toNat - 1) tval

/-- The waiters of a tile that have waited the stall limit on a route to tile `a`. -/
def Dev.stalledTo (d : Dev) (n a : Nat) : Option StallWait :=
  let t := d.tile n
  let limit := d.stallLimit n
  (((8 :: List.range 8).filterMap (t.stallWait limit)).find? fun w =>
    decide (w.since + limit ≤ d.tick) && d.routeNames (t.route w.frond w.entry) a)

/-- The queue that a strand of the active frond polls while queue q, which a stalled route to that frond fills, stands full at a join
(R364). -/
def Dev.reconverges (d : Dev) (n q dfrond : Nat) : Option Nat :=
  let t := d.tile n
  let qu := t.queue q
  match t.active with
  | none => none
  | some f =>
    if f = dfrond && qu.readBy f && decide (mget qu.lastRecv 0 f + d.stallLimit n ≤ d.tick) then
      (List.range 8).findSome? fun s =>
        match (t.strand f s).op with
        | .poll _ q' _ => if q' ≠ q then some q' else none
        | _ => none
    else none

/-- STALL_PROBE_ARRIVE: the probed tile finds a mutual stall, a stall at a join, or neither (R288, R289, R364). -/
def execStallProbeArrive (tile : TileId) (s : State) :=
  run (fun d => d.arrival tile.val (fun b => match b with | .probe _ _ _ _ => true | _ => false) fun d f =>
    match f.body with
    | .probe who q a e =>
      let n := tile.val
      let live := match (d.tile a).stallWait (d.stallLimit a) who with
        | some w => if w.frond * 128 + w.entry = e then some w else none
        | none => none
      match live with
      | none => d.msgCount n 6 1
      | some w =>
        let type := ((d.tile a).route w.frond w.entry).type
        let df := ((d.tile a).route w.frond w.entry).dfrond
        match d.stalledTo n a with
        | some v =>
          if n = a && v.who = w.who then d.msgCount n 6 1
          else
            let p := (d.tile n).part
            let r := (d.tile n).route v.frond v.entry
            let d := d.log { cls := 7, sev := 3, part := p, tile := some a,
                             detail := leBytes 1 a ++ leBytes 1 who ++ leBytes 1 q ++ [0] ++ leBytes 1 n ++ leBytes 1 v.who ++
                               leBytes 1 r.index ++ [0] ++ leBytes 4 (min (d.tick - w.since) (2 ^ 32 - 1)) }
            (d.stallHandle a w).stallHandle n v
        | none =>
          match if type = rtQueue then d.reconverges n q df else none with
          | some q' =>
            let d := d.log { cls := 8, sev := 3, part := (d.tile n).part, tile := some a,
                             detail := leBytes 1 a ++ leBytes 1 who ++ leBytes 1 w.entry ++ leBytes 1 n ++ leBytes 1 q ++ leBytes 1 q' }
            d.stallHandle a w
          | none => d.msgCount n 6 1
    | _ => d) s

/-! ## Splices -/

/-- One value joins an exact sum (R292). -/
def ExactSum.plus (x : ExactSum) (v : Nat) : ExactSum :=
  match f32 v with
  | .nan => { x with nan := true, allNegZero := false }
  | .inf true => { x with ninf := true, allNegZero := false }
  | .inf false => { x with pinf := true, allNegZero := false }
  | .fin neg m e => { x with sum := x.sum + atExp neg m e (-149), allNegZero := x.allNegZero && neg && m == 0 }

/-- The FP32 value an exact sum becomes (R292). -/
def ExactSum.value (x : ExactSum) : Nat :=
  if x.nan || (x.pinf && x.ninf) then fNan
  else if x.pinf then infBits 0 false
  else if x.ninf then infBits 0 true
  else if x.sum = 0 then (if x.allNegZero then 2 ^ 31 else 0)
  else toF32 (ofExp x.sum (-149))

/-- A contribution reaches a splice (R292, R294): added exactly into its entry, or discarded with OVER set. One for a
retired frond is discarded, counted and its credit returned (R356). `refs` are the routes of its writers: routers may
have added several contributions together. -/
def Dev.contribArrive (d : Dev) (n s seq weight : Nat) (values : List Nat) (refs : List CreditRef) : Dev :=
  let from_ : List Nat := refs.filterMap fun r => match r with | .local_ t _ _ => some t | _ => none
  let t := d.tile n
  let sp := t.splice s
  if t.held || t.clearing || t.part == 0 || !sp.valid then d.msgCount n 4 1
  else if from_.any fun m => (d.tile m).fenced then d.msgCount n 5 1
  else if (t.frond sp.frond).retired then
    refs.foldl (fun d r => d.notify n r (.credit 1)) (d.add (TILE_FOLD_DISCARD_V n) weight)
  else
    let x := mget sp.entries SpliceEntry.init seq
    if decide (32 ≤ (seq + 2 ^ 16 - sp.head) % 2 ^ 16) || decide (sp.cnt < x.weight + weight) || x.done then
      d.modTile n fun t => t.modSplice s fun y => { y with overs := true, dropped := y.dropped + 1 }
    else
      let old := if x.sums.isEmpty then List.replicate 64 ExactSum.init else x.sums
      let x' : SpliceEntry := { x with
        weight := x.weight + weight, sums := (List.range 64).map (fun i => (old.getD i ExactSum.init).plus (values.getD i 0)),
        credits := x.credits ++ from_ }
      d.modTile n fun t => t.modSplice s fun y => { y with entries := mset y.entries seq x' }

/-- SPLICE_CONTRIBUTION_ARRIVE (R292, R294). -/
def execSpliceContributionArrive (tile : TileId) (s : State) :=
  run (fun d => d.arrival tile.val (fun b => match b with | .contrib _ _ _ _ _ => true | _ => false) fun d f =>
    match f.body with
    | .contrib k seq weight e values => d.contribArrive tile.val k seq weight values (f.writers.map fun w => .local_ w.1 w.2.1 w.2.2)
    | _ => d) s

/-- SPLICE_ENTRY_COMPLETE: an entry whose weights have reached CNT is rounded once and becomes readable (R292, R295). -/
def execSpliceEntryComplete (tile : TileId) (k : Fin 16) (s : State) :=
  run (fun d =>
    let n := tile.val
    let sp := (d.tile n).splice k.val
    match sp.entries.find? fun e => !e.2.done && e.2.weight == sp.cnt with
    | none => d
    | some e =>
      let bs := e.2.sums.flatMap fun x => leBytes 4 x.value
      let d := d.modTile n fun t =>
        { t with smem := cwrite t.smem (spliceOff k.val e.1) bs, bad := coveredWords t.bad (spliceOff k.val e.1) 256 }
      d.modTile n fun t => t.modSplice k.val fun y =>
        { y with entries := mset y.entries e.1 { e.2 with done := true, sums := [] } }) s

/-! ## Hitch tokens, tallies and fence notices -/

/-- HITCH_TOKEN_ARRIVE: a flit of count k brings k tokens (R297, R314). -/
def execHitchTokenArrive (tile : TileId) (s : State) :=
  run (fun d => d.arrival tile.val (fun b => match b with | .hitch _ _ => true | _ => false) fun d f =>
    match f.body with
    | .hitch h k => d.tokens tile.val h k
    | _ => d) s

/-- TALLY_OP_ARRIVE: the home tile serves the oldest tally operation and replies with the value from before it
(R300, R301). -/
def execTallyOpArrive (tile : TileId) (s : State) :=
  run (fun d => d.arrival tile.val (fun b => match b with | .tally _ _ _ _ => true | _ => false) fun d f =>
    match f.body with
    | .tally isSet y v st =>
      let n := tile.val
      let t := d.tile n
      if t.held || t.clearing then d.msgCount n 4 1
      else
        let old := t.tally y
        let d := d.modTile n fun t => { t with tallies := mset t.tallies y (if isSet then v else old + v) }
        d.sendNote n f.frond f.src y 0 (.tallyReply old stOk st)
    | _ => d) s

/-- TALLY_REPLY_ARRIVE: rd and LAST_STATUS are written and the wait ends (R300). A strand that was halted in the wait had
begun the operation, which still writes its register (R86). -/
def execTallyReplyArrive (tile : TileId) (s : State) :=
  run (fun d => d.arrival tile.val (fun b => match b with | .tallyReply _ _ _ => true | _ => false) fun d f =>
    match f.body with
    | .tallyReply v st k =>
      let n := tile.val
      let y := (d.tile n).strand f.frond (k % 8)
      if y.late.contains (k / 8, f.src) then
        if d.stoppedF n f.frond then d
        else d.modStrand n f.frond (k % 8) fun x =>
          { x.setReg (k / 8) v with last := st, late := dropFirst (fun e => e == (k / 8, f.src)) x.late }
      else
        match y.op with
        | .tally rd _ home => if rd = k / 8 && home = f.src then d.finish n f.frond (k % 8) (k / 8) v st else d
        | _ => d
    | _ => d) s

/-- FENCE_NOTICE: the notice of a fenced tile reaches a tile of its partition (R287, R299, R302, R504). -/
def execFenceNotice (tile : TileId) (s : State) :=
  run (fun d => d.arrival tile.val (fun b => match b with | .fence _ => true | _ => false) fun d f =>
    match f.body with
    | .fence b => d.fenceNotice tile.val b
    | _ => d) s

end Sys2Proof.Machine
end

