-- ==== Sys2Proof/Machine/Mesh.lean ====
section
/-! DEFINITION. The mesh's commands: what a router's output sends (R313 to R317, R324), what a router's input takes (R321,
R326, R328), replays and failed channels (R321, R322, R512, R513), and reduction (R326). -/

namespace Sys2Proof.Machine

/-! ## Failed channels and flits that are dropped -/

/-- A flit queued for a failed channel is dropped at router r, and its sender gets a revoked credit (R513); a request
completes REVOKED. -/
def Dev.dropFailed (d : Dev) (r : Nat) (f : Flit) : Dev :=
  let mk (to_ : Nat) (b : FlitBody) : Flit :=
    { Flit.init with
      cls := .c, part := f.part, frond := f.frond, src := f.dest % 256, dest := to_, dests := [to_], injected := d.tick, body := b
      index := f.index, seq := f.seq }
  let back (d : Dev) (g : Flit) : Dev :=
    match d.hostOf r with
    | some n => d.inject n g
    | none => d.modRouter r fun x => x.setInputQ .l .c (x.inputQ .l .c ++ [g])
  match f.body with
  | .entry _ _ _ _ e _ => back d (mk f.src (.revoked (e / 128) (e % 128)))
  | .contrib _ _ _ _ _ => f.writers.foldl (fun d w => back d (mk w.1 (.revoked w.2.1 w.2.2))) d
  | .tally _ _ _ s => back d (mk f.src (.tallyReply 0 stRevoked s))
  | .read _ _ g i => d.answerDma f.src g i (some []) stRevoked
  | .readData g i _ _ => f.dests.foldl (fun d n => d.answerDma n g i (some []) stRevoked) d
  | .write _ g i _ => d.answerDma f.src g i none stRevoked
  | _ => d

/-- A path from logical tile `dst` onward from router `r` uses the channel (router, output). -/
def Dev.pathUses (d : Dev) (r dst : Nat) (c : Nat × Dir) : Nat → Bool
  | 0 => false
  | k + 1 =>
    let o := d.nextDir r dst
    if r = c.1 && o == c.2 then true
    else match meshNeighbour r o with
      | some (r', _) => Dev.pathUses d r' dst c k
      | none => false

/-- Tiles that the route entries of tile t send to. -/
def Dev.targets (d : Dev) (t : Nat) : List Nat :=
  (d.tile t).routes.flatMap fun e =>
    if e.2.type = 0 || e.2.remote then [] else if e.2.mcast then (d.tree e.2.dest).leaves else [e.2.dest]

/-- Tiles whose windows the DMA transfers of tile t reach (R382). -/
def Dev.dmaTargets (d : Dev) (t : Nat) : List Nat :=
  ((d.tile t).dma0.run ++ (d.tile t).dma1.run).flatMap fun r => r.flight.flatMap fun a =>
    (if inWindows a.src then [winTile a.src] else []) ++ if inWindows a.dst then [winTile a.dst] else []
/-- Partitions whose paths use a channel: those of the routes and the DMA transfers of their fronds, and back (R329, R513). -/
def Dev.partsUsing (d : Dev) (c : Nat × Dir) : List Nat :=
  allParts.filter fun p => (d.tilesOf p).any fun t => (d.targets t ++ d.dmaTargets t).any fun u =>
    d.pathUses (d.physOf t) u c 40 || d.pathUses (d.physOf u) t c 40

/-- The logical tile a record names for a router: the one it hosts, or the one whose home position it is (R502). -/
def Dev.routerTile (d : Dev) (r : Nat) : Nat := (d.hostOf r).getD (if isSpare r then spareRow r * 16 + spareCol r else gy r * 16 + gx r)
/-- DETAIL of a LINK_CORRECTED record (R502). -/
def Dev.linkDetail (d : Dev) (r : Nat) (o : Dir) : List Byte :=
  leBytes 1 (d.routerTile r) ++ leBytes 1 (dirCode o) ++
  leBytes 1 (match meshCrossing r o with | some (k, _) => k | none => 0xFF) ++ [0] ++ leBytes 4 ((d.router r).chan o).count

/-- The channel fails (R322, R513): recorded, its flits dropped, and every partition whose paths use it drained. -/
def Dev.failChannel (d : Dev) (r : Nat) (o : Dir) : Dev :=
  let c := (d.router r).chan o
  if c.failed then d
  else
    let ps := d.partsUsing (r, o)
    let lost := c.lanes.flatMap fun l => l.2.fly
    let d := d.modRouter r fun x => x.modChan o fun y => { y with failed := true, lanes := [] }
    let d := { d with spare := { d.spare with failedChans := (r * 8 + dirCode o) :: d.spare.failedChans } }
    let d := match meshCrossing r o with
      | some (k, true) => d.flag (MESH_XLINK_FAILED_FWD k) true
      | some (k, false) => d.flag (MESH_XLINK_FAILED_REV k) true
      | none => d
    let runs := ps.any fun p => d.regionState p == 5
    let d := d.log { cls := 5, sev := 3, part := ps.headD 0, tile := d.hostOf r, unit := 8, action := (if runs then 2 else 0) + (if d.rises 2 then 16 else 0),
                     detail := d.linkDetail r o ++ leBytes 2 (Config.failingLane d.free) }
    let q := d.lastFlt
    let d := (d.draw).raiseLevel 2 5
    let d := ps.foldl (fun d p => d.containRegion p) (ps.foldl (fun d p => d.faultNote p q) d)
    lost.foldl (fun d f => d.dropFailed r f) d

/-! ## Lanes of die crossings (R506, R512) -/

/-- A lane of a die crossing is to be replaced: by its group's spare at the next flit boundary, or, where a lane of the group has failed
already, the channel fails (R512). -/
def Dev.laneNeed (d : Dev) (l r : Nat) (o : Dir) : Dev :=
  if d.spare.laneWait.contains l || d.spare.needs.contains (4, laneLink l, l % 2048) then d
  else if d.groupTaken (laneGroup l) then d.failChannel r o
  else if !d.sparesItself then d.addNeed 4 (laneLink l) (l % 2048)
  else { d with spare := { d.spare with laneWait := d.spare.laneWait ++ [l] } }
/-- A replay on a die crossing counts against the lane that caused it, which is a free value; a lane's sixteenth within one second calls
for a spare (R506). -/
def Dev.laneReplay (d : Dev) (r : Nat) (o : Dir) : Dev :=
  match meshCrossing r o with
  | none => d
  | some (k, fwd) =>
    let l := laneNo k fwd (Config.failingLane d.free)
    let n := mget d.spare.laneReplays 0 l + 1
    let d := { d.draw with spare := { d.spare with laneReplays := mset d.spare.laneReplays l n } }
    if n = 16 then d.laneNeed l r o else d

/-- Flits of one class that an input offers: every buffered general C flit (R315), the head of each buffer of class G
(R325), and the head of any other class's buffer. -/
def Router.heads (r : Router) (i : Dir) (c : FClass) : List Flit :=
  let q := r.inputQ i c
  match c with
  | .c => q
  | .g => (q.find? fun f => f.mcast).toList ++ (q.find? fun f => !f.mcast).toList
  | _ => q.head?.toList

/-- The outputs a flit takes at router r, each with the tiles it leads to (R308, R323). -/
def Dev.branches (d : Dev) (r : Nat) (f : Flit) : List (Dir × List Nat) :=
  (allDirs.map fun o => (o, f.dests.filter fun n => d.nextDir r n == o)).filter fun b => !b.2.isEmpty

/-- The next router has room for a flit on output o (R315, R317, R326): in its input's buffer for the class, counting the
flits under way to the same buffer, or in the buffer of the reduction entry that takes it (R325). A hitch flit never waits (R314). -/
def Dev.room (d : Dev) (r : Nat) (o : Dir) (f : Flit) : Bool :=
  match o, meshNeighbour r o with
  | .l, _ => true
  | _, none => false
  | _, some (r', i) =>
    let x := d.router r'
    let same (g : Flit) : Bool := sameBuffer f g && ((x.redFor i f).map (·.1)) == ((x.redFor i g).map (·.1))
    x.roomFor i f ((((d.router r).chan o).lane f.cls).fly.filter same).length

/-- The flit can leave: every branch can take it (R324). A branch over a failed channel takes it too, to drop it. -/
def Dev.canLeave (d : Dev) (r : Nat) (f : Flit) : Bool :=
  let bs := d.branches r f
  !bs.isEmpty && bs.all fun b =>
    b.1 == .l || ((d.router r).chan b.1).failed || (!(((d.router r).chan b.1).lane f.cls).wait && d.room r b.1 f)

/-- Flits of a class that wait for output o and can leave, in input order (R39). -/
def Dev.ready (d : Dev) (r : Nat) (o : Dir) (c : FClass) : List (Dir × Flit) :=
  allDirs.flatMap fun i => ((((d.router r).heads i c).filter fun f =>
    f.dests.any (fun n => d.nextDir r n == o) && d.canLeave r f).map fun f => (i, f))

/-- The inputs from the one after the input last served (R317). -/
def inputsFrom (turn : Nat) : List Dir := allDirs.drop turn ++ allDirs.take turn

/-- The flit of class c that output o sends next: the earliest injected of class C (R315); the inputs in turn
otherwise (R317). -/
def Dev.nextFlit (d : Dev) (r : Nat) (o : Dir) (c : FClass) : Option (Dir × Flit) :=
  let l := d.ready r o c
  match c with
  | .c => l.foldl (fun m x => match m with
      | some y => if x.2.injected < y.2.injected then some x else some y
      | none => some x) none
  | .hitch => l.head?
  | _ =>
    let turn := mget (d.router r).turn 0 (dirCode o * 8 + clsCode c)
    (inputsFrom turn).findSome? fun i => l.find? fun x => x.1 == i

/-- The weights of an output's rounds: those of the partition whose flits use it (R316, R317). -/
def Dev.roundPart (d : Dev) (r : Nat) (o : Dir) : Nat :=
  match [FClass.m, .q, .g, .t].findSome? fun c => (d.ready r o c).head? with
  | some x => x.2.part
  | none => 0

/-- An output's round after it sends a flit of a class of partition p (R317): the count of the class rises within its weight,
and begins a new round else. Class M takes no part. -/
def Dev.roundAfter (d : Dev) (p : Nat) (c : FClass) (cur : Nat × Nat × Nat) : Nat × Nat × Nat :=
  let (a, b, t) := cur
  match c with
  | .q => if b = 0 && t = 0 && a < d.get (MESH_P_CFG_WQ p) then (a + 1, 0, 0) else (1, 0, 0)
  | .g => if t = 0 && b < d.get (MESH_P_CFG_WG p) then (a, b + 1, 0) else (0, 1, 0)
  | .t => if t < d.get (MESH_P_CFG_WT p) then (a, b, t + 1) else (0, 0, 1)
  | _ => cur

/-- The data-path class an output serves now (R316, R317): M in its phases, else Q, G and T in weighted rounds in which a class
with no ready flit is skipped. -/
def Dev.dataClass (d : Dev) (r : Nat) (o : Dir) : Option FClass :=
  let p := d.roundPart r o
  let has (c : FClass) : Bool := !(d.ready r o c).isEmpty
  let (a, b, t) := mget (d.router r).round (0, 0, 0) (dirCode o)
  if bit (d.get (MESH_P_CFG_MSLOT p)) (d.now % secLen % 16) == 1 && has .m then some .m
  else if b = 0 && t = 0 && a < d.get (MESH_P_CFG_WQ p) && has .q then some .q
  else if t = 0 && b < d.get (MESH_P_CFG_WG p) && has .g then some .g
  else if t < d.get (MESH_P_CFG_WT p) && has .t then some .t
  else [FClass.q, .g, .t].find? has

/-! ## Delivery -/

/-- Another tile's DMA engine reads a tile register (R95, R576): one aligned register of 8 bytes, whose read-clear fields it
clears. -/
def Dev.dmaRegRd (d : Dev) (n off len : Nat) : Dev × Byte × List Byte :=
  if (d.tile n).held || (d.tile n).clearing then (d, stDenied, zeros len)
  else if off % 8 = 0 && tileRegOk n off len then
    match findReg (tileRegAddr n off) with
    | some r => (d.readClear (tileRegAddr n off) r, stOk, leBytes 8 (d.tileRegValue n off))
    | none => (d, stUnmapped, zeros len)
  else (d, stUnmapped, zeros len)
/-- It never writes one, for that needs the owner credential (R121). -/
def Dev.dmaRegWr (d : Dev) (n off len : Nat) : Byte :=
  if (d.tile n).held || (d.tile n).clearing || (off % 8 == 0 && tileRegOk n off len) then stDenied else stUnmapped

/-- A flit reaches the local port of the router that hosts tile n. A read of the window by a DMA engine that meets an
uncorrectable word, or a write that covers part of one, stops the frond of the transfer (R109, R498). -/
def Dev.arriveAt (d : Dev) (n : Nat) (f : Flit) : Dev :=
  let t := d.tile n
  if t.fenced || f.part != t.part then (d.deliver n f).dueRepairs n
  else
    match f.body with
    | .read addr len g i =>
      let off := winOffset addr
      if winRange off len = .regs then
        let x := d.dmaRegRd n off len
        x.1.inject n (x.1.mkFlit n .m f.frond 0 f.src 0 (.readData g i x.2.2 x.2.1))
      else if d.winStatus n off len false = stOk && t.ueIn off len then
        d.memUeFor n (t.ueAddr off len) rdDma f.src f.frond f.sstr
      else (d.deliver n f).dueRepairs n
    | .write addr g i data =>
      let off := winOffset addr
      if winRange off data.length = .regs then d.answerDma f.src g i none (d.dmaRegWr n off data.length)
      else if d.winStatus n off data.length true = stOk && t.uePartial off data.length then
        d.memUeFor n (t.ueAddr off data.length) rdDma f.src f.frond f.sstr
      else (d.deliver n f).dueRepairs n
    | _ => (d.deliver n f).dueRepairs n

/-- A flit that passed its CRC reaches input i of router r: into a reduction entry, or into the input's buffer, from which an output
takes it in its turn, the local one too (R315, R317, R326, R331). -/
def Dev.takeFlit (d : Dev) (r : Nat) (i : Dir) (f : Flit) : Dev :=
  match (d.router r).takeContrib i f with
  | some x => d.modRouter r fun _ => x
  | none => d.modRouter r fun x => x.setInputQ i f.cls (x.inputQ i f.cls ++ [f])

/-! ## Sending -/

/-- A copy of a flit leaves by one branch. -/
def Dev.leaveBy (d : Dev) (r : Nat) (f : Flit) (b : Dir × List Nat) : Dev :=
  let g := { f with dests := b.2 }
  let d := match d.hostOf r with
    | some n => d.add (MESH_R_FLITS_V n (clsCode f.cls)) 1
    | none => d
  match b.1 with
  | .l => match d.hostOf r with
    | some n => d.arriveAt n g
    | none => d
  | o =>
    if ((d.router r).chan o).failed then d.dropFailed r g
    else d.modRouter r fun x => x.modChan o fun c => c.modLane f.cls fun l =>
      { l with fly := l.fly ++ [g], kept := (g :: l.kept).take 16 }

/-- Removes a flit from an input's buffer. -/
def Router.dropHead (x : Router) (i : Dir) (f : Flit) : Router :=
  x.setInputQ i f.cls (dropFirst (fun g => g == f) (x.inputQ i f.cls))

/-- What waits at the tile of router r enters the room that a flit has left (R317). -/
def Dev.refill (d : Dev) (r : Nat) : Dev :=
  match d.hostOf r with
  | some n => d.enterRouter n
  | none => d

/-- An output sends a flit of input i: to every branch in the same cycle (R324), each counted in its output's round (R317). -/
def Dev.sendOn (d : Dev) (r : Nat) (i : Dir) (f : Flit) : Dev :=
  let bs := d.branches r f
  let d := d.modRouter r fun x => x.dropHead i f
  let d := d.modRouter r fun x =>
    { x with
      turn := bs.foldl (fun t b => mset t (dirCode b.1 * 8 + clsCode f.cls) (dirCode i + 1)) x.turn
      round := bs.foldl (fun t b => mset t (dirCode b.1) (d.roundAfter f.part f.cls (mget t (0, 0, 0) (dirCode b.1)))) x.round }
  (bs.foldl (fun d b => d.leaveBy r f b) d).refill r

/-- Hitch flits with one target merge where they meet at an output in one cycle (R314). -/
def Dev.sendHitch (d : Dev) (r : Nat) (o : Dir) : Dev :=
  let l := d.ready r o .hitch
  match l.head? with
  | none => d
  | some (_, f) =>
    let key (g : Flit) : Bool := g.mcast == f.mcast && g.dest == f.dest &&
      (match g.body, f.body with | .hitch a _, .hitch b _ => a == b | _, _ => false)
    let same := l.filter fun x => key x.2
    let count (g : Flit) : Nat := match g.body with | .hitch _ k => k | _ => 0
    let idx := match f.body with | .hitch h _ => h | _ => 0
    let d := same.foldl (fun d x => d.modRouter r fun y => y.dropHead x.1 x.2) d
    let outs := allDirs.filter fun b => same.any fun x => x.2.dests.any fun n => d.nextDir r n == b
    outs.foldl (fun d b =>
      let here := same.filter fun x => x.2.dests.any fun n => d.nextDir r n == b
      let ds := ((here.flatMap fun x => x.2.dests).filter fun n => d.nextDir r n == b).eraseDups
      d.leaveBy r { f with body := .hitch idx (here.map fun x => count x.2).sum } (b, ds)) d

/-- FLIT_FORWARD: output `dir` of router r sends its next flit of a class, if that class is the one it serves now
(R313 to R317, R324). -/
def execFlitForward (r : RouterId) (dir : Dir) (cls : FClass) (s : State) :=
  runM (fun d =>
    match cls with
    | .hitch => d.sendHitch r.val dir
    | .c => match d.nextFlit r.val dir .c with
      | some (i, f) => d.sendOn r.val i f
      | none => d
    | c =>
      match d.dataClass r.val dir with
      | some k =>
        if k = c then
          match d.nextFlit r.val dir c with
          | some (i, f) => d.sendOn r.val i f
          | none => d
        else d
      | none => d) s

/-! ## Receiving and replay -/

/-- The router and output at the other end of an input's channel. -/
def meshSource (r : Nat) (i : Dir) : Option (Nat × Dir) :=
  match meshNeighbour r i with
  | some (r', _) => (allDirs.find? fun o => meshNeighbour r' o == some (r, i)).map fun o => (r', o)
  | none => none

/-- FLIT_RECEIVE: the flit at the head of a lane reaches input `dir` of router r (R321). With a CRC error it is discarded,
counted, and waits for its replay. -/
def execFlitReceive (r : RouterId) (dir : Dir) (cls : FClass) (crcOk : Bool) (s : State) :=
  runM (fun d =>
    match meshSource r.val dir with
    | none => d
    | some (r', o) =>
      let lane := ((d.router r').chan o).lane cls
      match lane.fly with
      | [] => d
      | f :: rest =>
        if lane.wait then d
        else if crcOk then
          (d.modRouter r' fun x => x.modChan o fun c => c.modLane cls fun l => { l with fly := rest, replays := 0 }).takeFlit r.val dir f
        else
          let d := d.modRouter r' fun x => x.modChan o fun c => c.modLane cls fun l => { l with wait := true }
          match d.hostOf r.val with
          | some n => d.add (MESH_R_ERR_CRC n) 1
          | none => d) s

/-- A replay on a channel is counted (R321): in the router, on a die crossing in MESH_XLINK (R332), and in the one LINK_CORRECTED record of
the second, which its first replay writes and whose COUNT and number of replays then follow (R503). -/
def Dev.countReplay (d : Dev) (r : Nat) (o : Dir) : Dev :=
  let d := match d.hostOf r with
    | some n => d.add (MESH_R_ERR_REPLAYS n) 1
    | none => d
  let d := match meshCrossing r o with
    | some (k, _) => d.add (MESH_XLINK_REPLAYS k) 1
    | none => d
  let first := !((d.router r).chan o).logged
  let d := d.modRouter r fun x => x.modChan o fun c => { c with count := c.count + 1, logged := true }
  let d :=
    if first then
      let d := d.log { cls := 4, sev := 1, part := (match d.hostOf r with | some n => (d.tile n).part | none => 0), tile := d.hostOf r, unit := 8,
                       detail := d.linkDetail r o }
      d.modRouter r fun x => x.modChan o fun c => { c with lastRec := d.lastFlt }
    else d.recount ((d.router r).chan o).lastRec ((d.router r).chan o).count
  (d.partsUsing (r, o)).foldl (fun d p => d.replayNote p ((d.router r).chan o).lastRec) d

/-- FLIT_REPLAY: output `dir` of router r sends again the flit that failed its CRC (R321); the eighth replay in a row that
fails marks the channel failed (R322). -/
def execFlitReplay (r : RouterId) (dir : Dir) (cls : FClass) (crcOk : Bool) (s : State) :=
  runM (fun d =>
    let lane := ((d.router r.val).chan dir).lane cls
    match lane.wait, lane.fly, meshNeighbour r.val dir with
    | true, f :: rest, some (r', i) =>
      let d := (d.countReplay r.val dir).laneReplay r.val dir
      if ((d.router r.val).chan dir).failed then d
      else if crcOk then
        (d.modRouter r.val fun x => x.modChan dir fun c => c.modLane cls fun l => { l with fly := rest, wait := false, replays := 0 }).takeFlit r' i f
      else
        let d := d.modRouter r.val fun x => x.modChan dir fun c => c.modLane cls fun l => { l with replays := l.replays + 1 }
        let d := match d.hostOf r' with
          | some n => d.add (MESH_R_ERR_CRC n) 1
          | none => d
        if 8 ≤ lane.replays + 1 then d.failChannel r.val dir else d
    | _, _, _ => d) s

/-! ## Reduction -/

/-- The sequence number of a contribution. -/
def contribSeq (f : Flit) : Nat :=
  match f.body with
  | .contrib _ k _ _ _ => k
  | _ => 0

/-- Contributions added value by value in input order, as FP32 (R170, R326). -/
def combine : List Flit → Option Flit
  | [] => none
  | f :: rest =>
    some (rest.foldl (fun a g =>
      match a.body, g.body with
      | .contrib s k w e vs, .contrib _ _ w' _ vs' =>
        { a with also := a.also ++ g.writers, body := .contrib s k (w + w') e ((List.range 64).map fun i => fadd (vs.getD i 0) (vs'.getD i 0)) }
      | _, _ => a) f)

/-- REDUCTION_COMBINE: a reduction entry that holds a contribution of one sequence number from every input of its set
adds them in input order and sends one whose weight is the sum of theirs, once the router has room for it (R317, R326). -/
def execReductionCombine (r : RouterId) (splice : TileId × Fin 16) (s : State) :=
  runM (fun d =>
    let key := splice.1.val * 16 + splice.2.val
    match (d.router r.val).red splice.1.val splice.2.val with
    | none => d
    | some e =>
      let firsts := (allDirs.filter fun i => e.inputs.contains i).map fun i => e.bufs.find? fun b => b.1 == i
      match firsts with
      | some (_, f0) :: _ =>
        let k := contribSeq f0
        let parts := (allDirs.filter fun i => e.inputs.contains i).filterMap fun i =>
          e.bufs.find? fun b => b.1 == i && contribSeq b.2 == k
        let full := d.nextDir r.val splice.1.val != .l && decide (8 ≤ (((d.router r.val).inputQ .l .g).filter fun g => !g.mcast).length)
        if e.revoked || parts.length < e.inputs.length || full then d
        else
          match combine (parts.map (·.2)) with
          | none => d
          | some f =>
            let d := d.modRouter r.val fun x => { x with reds := x.reds.map fun y =>
              if y.1 = key then (y.1, { y.2 with bufs := parts.foldl (fun l p => dropFirst (fun z => z == p) l) y.2.bufs }) else y }
            (if d.nextDir r.val splice.1.val = .l then d.leaveBy r.val f (.l, [splice.1.val])
             else d.modRouter r.val fun x => x.setInputQ .l .g (x.inputQ .l .g ++ [f])).refill r.val
      | _ => d) s

end Sys2Proof.Machine
end

