-- ==== Sys2Proof/Machine/Image.lean ====
section
/-! DEFINITION. Region images (R333 to R344): their header, section table and sections, and the checks of a load: the
table (R335, R336, R345), LOAD_CONFIG, LOAD_MESH with the class-C bound (R329, R330), LOAD_TIMING (R347), and what a load
makes of the sections. -/

namespace Sys2Proof.Machine

/-! ## Header and section table (R334, R335) -/

def imgMagic : Nat := 0x314752504E594C50
/-- LENGTH and SECTIONS of the header. -/
def imgLength (b : List Byte) : Nat := fieldAt b 24 8
def imgCount (b : List Byte) : Nat := fieldAt b 32 4
/-- Bytes of the header and section table. -/
def imgHead (b : List Byte) : Nat := 128 + 32 * imgCount b

/-- A section-table entry (R335). -/
structure Sect where
  type : Nat
  tile : Nat
  frond : Nat
  off : Nat
  size : Nat
  line : Nat
  flags : Nat
  resv : Nat
  deriving DecidableEq, Repr

/-- Entry i of the section table. -/
def sectAt (b : List Byte) (i : Nat) : Sect :=
  let e := slice b (128 + 32 * i) 32
  ⟨fieldAt e 0 2, fieldAt e 2 2, fieldAt e 4 1, fieldAt e 8 8, fieldAt e 16 8, fieldAt e 24 4, fieldAt e 28 1,
    fieldAt e 5 3 + fieldAt e 29 3⟩
/-- The whole table. -/
def imgSects (b : List Byte) : List Sect := (List.range (imgCount b)).map (sectAt b)
/-- The bytes of a section. -/
def Sect.bytes (s : Sect) (b : List Byte) : List Byte := slice b s.off s.size

/-- Section types (R336). -/
def stCode : Nat := 1
def stCfg : Nat := 2
def stRoutes : Nat := 3
def stQueues : Nat := 4
def stSplices : Nat := 5
def stDescs : Nat := 6
def stScratch : Nat := 7
def stWeights : Nat := 8
def stClaim : Nat := 9
def stTrees : Nat := 10
def stFold : Nat := 11
def stTiming : Nat := 12

/-- The type, scope, SIZE and reserved fields of an entry are as R335 and R336 give them, for the rectangle `rect`. -/
def Sect.formOk (s : Sect) (rect : List Nat) : Bool :=
  decide (1 ≤ s.type) && decide (s.type ≤ 12) && s.resv == 0 &&
  (if 10 ≤ s.type then s.tile == 0xFFFF else rect.contains s.tile) &&
  (if s.type ≤ 3 then decide (s.frond ≤ 7) else s.frond == 0xFF) &&
  (s.flags == 0 || (s.flags == 1 && s.type == stWeights)) && s.off % 64 == 0 &&
  (match s.type with
   | 1 => s.size % 8 == 0 && decide (s.size ≤ 65536)
   | 2 => s.size == 192
   | 3 => s.size % 16 == 0 && decide (s.size ≤ 2048)
   | 5 => s.size % 8 == 0
   | 6 => s.size % 64 == 0 && decide (s.size ≤ 4096)
   | 7 => s.size % 256 == 0
   | 8 => s.size % 256 == 0
   | 9 => s.size == 64
   | 10 => s.size % 40 == 0
   | _ => true)

/-- Sections ascend from the end of the table and do not overlap (R335). -/
def sectsAscend (last : Nat) : Nat → List Sect → Bool
  | _, [] => true
  | lo, s :: r => decide (lo ≤ s.off) && decide (s.off + s.size ≤ last) && sectsAscend last (s.off + s.size) r

/-- Line ranges of one tile that the image gives: those written, and, once the claims are read, those claimed. -/
def Sect.lines (s : Sect) : Option (Nat × Nat × Nat) :=
  if s.type = stScratch || s.type = stWeights then some (s.tile, s.line, s.size / 256) else none

/-- No two of the ranges meet, and all lie in the scratchpad. -/
def rangesApart : List (Nat × Nat × Nat) → Bool
  | [] => true
  | (t, a, n) :: r =>
    decide (a + n ≤ 98304) && r.all (fun x => x.1 != t || decide (x.2.1 + x.2.2 ≤ a) || decide (a + n ≤ x.2.1)) && rangesApart r

/-- The entries keep to R335, but for claims. -/
def sectsOk (b : List Byte) (rect : List Nat) (ss : List Sect) : Bool :=
  ss.all (fun s => s.formOk rect) &&
  sectsAscend (imgLength b - 64) (imgHead b) ss &&
  (ss.dropWhile fun s => s.type == stClaim).all (fun s => s.type != stClaim) &&
  decide ((ss.filter fun s => !(s.type == stScratch || s.type == stWeights || s.type == stClaim)).map
    fun s => (s.type, s.tile, s.frond)).Nodup &&
  rangesApart (ss.filterMap Sect.lines)
/-- The section table keeps to R335, but for claims. -/
def tableOk (b : List Byte) (rect : List Nat) : Bool :=
  decide (1 ≤ imgCount b) && decide (imgCount b ≤ 65535) && sectsOk b rect (imgSects b)

/-- SECTION of a failure that no one section shows (R347). -/
def noSect : Nat := 0xFFFF
/-- The first index below n at which `p` holds, as SECTION (R347). -/
def firstSect (n : Nat) (p : Nat → Bool) : Nat := ((List.range n).find? p).getD noSect
/-- The entry at which the section table first breaks R335 (R347). -/
def tableFails (b : List Byte) (rect : List Nat) : Nat :=
  firstSect (imgCount b) fun i => !sectsOk b rect ((imgSects b).take (i + 1))
/-- The section whose lines first meet other lines once the claims are read (R335). -/
def rangesFail (b : List Byte) (claims : List (Nat × Nat × Nat)) : Nat :=
  firstSect (imgCount b) fun i => !rangesApart (((imgSects b).take (i + 1)).filterMap Sect.lines ++ claims)

/-! ## Sections (R337 to R344) -/

/-- A route entry of the image (R338). -/
structure ImgRoute where
  tile : Nat
  frond : Nat
  entry : Nat
  type : Nat
  mcast : Bool
  remote : Bool
  index : Nat
  dfrond : Nat
  grant : Nat
  dest : Nat
  peer : Nat
  epoch : Nat
  resv : Nat
  deriving DecidableEq, Repr

/-- The route entries of a ROUTES section that are configured. -/
def Sect.routes (s : Sect) (b : List Byte) : List ImgRoute :=
  ((List.range (s.size / 16)).map fun i =>
    let e := slice b (s.off + 16 * i) 16
    let k := fieldAt e 0 1
    (⟨s.tile, s.frond, i, bits k 2 0, bit k 3 == 1, bit k 4 == 1, fieldAt e 1 1, fieldAt e 2 1 % 8, fieldAt e 3 1, fieldAt e 4 2,
      fieldAt e 6 2, fieldAt e 8 2, bits k 7 5 + fieldAt e 2 1 / 8 + fieldAt e 10 6⟩ : ImgRoute)).filter fun r => r.type != 0
/-- Every route entry of the image. -/
def imgRoutes (b : List Byte) : List ImgRoute := ((imgSects b).filter fun s => s.type == stRoutes).flatMap fun s => s.routes b

/-- A grant of a queue or splice (R339, R340). -/
structure ImgGrant where
  writer : Nat
  entry : Nat
  frond : Nat
  credits : Nat
  resv : Nat
  deriving DecidableEq, Repr
/-- A grant at offset o. -/
def imgGrant (b : List Byte) (o : Nat) : ImgGrant :=
  ⟨fieldAt b o 2, fieldAt b (o + 2) 1, fieldAt b (o + 3) 1, fieldAt b (o + 4) 1, fieldAt b (o + 5) 3⟩

/-- A queue record with its grants (R339). -/
structure ImgQueue where
  q : Nat
  readers : Nat
  spill : Nat
  extBase : Nat
  extLen : Nat
  resv : Nat
  grants : List ImgGrant
  deriving DecidableEq, Repr

/-- The records of a QUEUES section; none where they do not fill its SIZE (R336). -/
def parseQueues : Nat → List Byte → Option (List ImgQueue)
  | _, [] => some []
  | 0, _ => none
  | k + 1, b =>
    let n := fieldAt b 3 1
    if b.length < 16 + 8 * n then none
    else (parseQueues k (b.drop (16 + 8 * n))).map fun r =>
      ⟨fieldAt b 0 1, fieldAt b 1 1, fieldAt b 2 1, fieldAt b 4 4, fieldAt b 8 2, fieldAt b 10 6,
        (List.range n).map fun i => imgGrant b (16 + 8 * i)⟩ :: r

/-- A splice record with its remote grants (R340). -/
structure ImgSplice where
  s : Nat
  frond : Nat
  cnt : Nat
  tree : Nat
  flags : Nat
  grants : List ImgGrant
  deriving DecidableEq, Repr

/-- The records of a SPLICES section; none where they do not fill its SIZE. -/
def parseSplices : Nat → List Byte → Option (List ImgSplice)
  | _, [] => some []
  | 0, _ => none
  | k + 1, b =>
    let n := fieldAt b 7 1
    if b.length < 8 + 8 * n then none
    else (parseSplices k (b.drop (8 + 8 * n))).map fun r =>
      ⟨fieldAt b 0 1, fieldAt b 1 1, fieldAt b 2 2, fieldAt b 4 2, fieldAt b 6 1, (List.range n).map fun i => imgGrant b (8 + 8 * i)⟩ :: r

/-- The queues of a section. -/
def Sect.queues (s : Sect) (b : List Byte) : Option (List ImgQueue) := parseQueues (s.size + 1) (s.bytes b)
/-- The splices of a section. -/
def Sect.splices (s : Sect) (b : List Byte) : Option (List ImgSplice) := parseSplices (s.size + 1) (s.bytes b)
/-- Every queue of the image, with its tile. -/
def imgQueues (b : List Byte) : List (Nat × ImgQueue) :=
  ((imgSects b).filter fun s => s.type == stQueues).flatMap fun s => ((s.queues b).getD []).map fun q => (s.tile, q)
/-- Every splice of the image, with its tile. -/
def imgSplices (b : List Byte) : List (Nat × ImgSplice) :=
  ((imgSects b).filter fun s => s.type == stSplices).flatMap fun s => ((s.splices b).getD []).map fun q => (s.tile, q)

/-- A tree record (R341). -/
structure ImgTree where
  num : Nat
  root : Nat
  leaves : List Nat
  resv : Nat
  deriving DecidableEq, Repr
/-- The trees of a TREES section. -/
def Sect.trees (s : Sect) (b : List Byte) : List ImgTree :=
  (List.range (s.size / 40)).map fun i =>
    let o := s.off + 40 * i
    let m := fieldAt b (o + 4) 32
    ⟨fieldAt b o 2, fieldAt b (o + 2) 1, allTiles.filter fun n => bit m n == 1, fieldAt b (o + 3) 1 + fieldAt b (o + 36) 4⟩
/-- Every tree of the image. -/
def imgTrees (b : List Byte) : List ImgTree := ((imgSects b).filter fun s => s.type == stTrees).flatMap fun s => s.trees b
/-- A tree of the image by its number. -/
def imgTree (b : List Byte) (k : Nat) : Option ImgTree := (imgTrees b).find? fun t => t.num == k

/-- PERIOD and the steps of a FOLD_PLAN section (R344). -/
def imgPlan (b : List Byte) : Option (Nat × List FoldStep) :=
  ((imgSects b).find? fun s => s.type == stFold).map fun s =>
    (fieldAt b s.off 4, (List.range (fieldAt b (s.off + 4) 2)).map fun i =>
      let o := s.off + 16 + 16 * i
      (⟨fieldAt b o 4, fieldAt b (o + 4) 1, fieldAt b (o + 5) 1, fieldAt b (o + 6) 1, fieldAt b (o + 7) 1, fieldAt b (o + 8) 1,
        fieldAt b (o + 9) 1, 0⟩ : FoldStep))

/-- The class entries of a TIMING section (R343). -/
def Sect.classes (s : Sect) (b : List Byte) : List TimingClass :=
  (List.range (fieldAt b s.off 2)).map fun i =>
    let o := s.off + 32 + 48 * i
    let w (k : Nat) : Nat := fieldAt b (o + 12 + 4 * k) 4
    (⟨fieldAt b o 1, bit (fieldAt b (o + 1) 1) 0 == 1, fieldAt b (o + 2) 2, fieldAt b (o + 4) 4, fieldAt b (o + 8) 4,
      w 0, w 1, w 2, w 3, w 4, w 5, w 6, w 7⟩ : TimingClass)
/-- The TIMING section. -/
def imgTiming (b : List Byte) : Option Sect := (imgSects b).find? fun s => s.type == stTiming

/-- A FROND_CFG section keeps its layout (R337). -/
def Sect.cfgOk (s : Sect) (b : List Byte) : Bool :=
  let f (o n : Nat) : Nat := fieldAt b (s.off + o) n
  bits (f 2 2) 14 13 == 0 && f 4 4 == 0 && f 24 8 == 0 && f 152 40 == 0 &&
  (List.range 15).all fun h => f (38 + 8 * h) 2 == 0
/-- A FOLD_PLAN section keeps its layout and its size (R336, R344). -/
def Sect.foldOk (s : Sect) (b : List Byte) : Bool :=
  let f (o n : Nat) : Nat := fieldAt b (s.off + o) n
  let k := f 4 2
  decide (16 ≤ s.size) && s.size == 16 + 16 * k && decide (1 ≤ k) && decide (k ≤ 256) && decide (1050 ≤ f 0 4) && f 6 10 == 0 &&
  (List.range k).all fun i => decide (f (16 + 16 * i) 4 < f 0 4) && f (26 + 16 * i) 6 == 0
/-- Values rise, or stay. -/
def risesOrStays : List Nat → Bool
  | a :: b :: r => decide (a ≤ b) && risesOrStays (b :: r)
  | _ => true
/-- A TIMING section keeps its layout and its size (R336, R343); a class that appears twice is left to LOAD_TIMING. -/
def Sect.timingOk (s : Sect) (b : List Byte) : Bool :=
  let f (o n : Nat) : Nat := fieldAt b (s.off + o) n
  let k := f 0 2
  decide (32 ≤ s.size) && s.size == 32 + 48 * k && decide (1 ≤ k) && decide (k ≤ 256) &&
  decide (f 2 1 ≤ 1) && f 3 1 == 0 && f 11 1 == 0 && f 15 17 == 0 &&
  risesOrStays ((List.range k).map fun i => f (32 + 48 * i) 1) &&
  (List.range k).all fun i =>
    decide (f (33 + 48 * i) 1 ≤ 1) && decide (1 ≤ f (34 + 48 * i) 2) && f (76 + 48 * i) 4 == 0

/-- A section that is read keeps its own layout and agrees with the counts it holds (R336, R348); what a rule gives a check of
LOAD_CONFIG for is left to that. -/
def Sect.layoutOk (s : Sect) (b : List Byte) : Bool :=
  if s.type = stCfg then s.cfgOk b
  else if s.type = stQueues then
    match s.queues b with
    | some l => l.all fun q => q.resv == 0 && q.grants.all fun g => g.resv == 0
    | none => false
  else if s.type = stSplices then (s.splices b).isSome
  else if s.type = stTrees then (s.trees b).all fun t => t.resv == 0
  else if s.type = stFold then s.foldOk b
  else if s.type = stTiming then s.timingOk b
  else true

/-- The frond configured by the image on a tile. -/
def imgCfg (b : List Byte) (t f : Nat) : Option Sect := (imgSects b).find? fun s => s.type == stCfg && s.tile == t && s.frond == f
/-- The bights of a FROND_CFG section: handle, base line, lines (R337). -/
def Sect.bights (s : Sect) (b : List Byte) : List (Nat × Nat × Nat) :=
  (((List.range 15).map (· + 1)).map fun h =>
    (h, fieldAt b (s.off + 32 + 8 * (h - 1)) 4, fieldAt b (s.off + 36 + 8 * (h - 1)) 2)).filter fun x => x.2.2 != 0

/-! ## LOAD_CONFIG (R347) -/

/-- A pair of ranges meets. -/
def linesMeet (a n c m : Nat) : Bool := decide (a < c + m) && decide (c < a + n)

/-- The bights of one frond are in bounds and apart (R246). -/
def bightsOk (l : List (Nat × Nat × Nat)) : Bool :=
  l.all (fun x => decide (x.2.2 ≤ 16384)) && rangesApart (l.map fun x => (0, x.2.1, x.2.2))

/-- Partition p holds context c (R267). -/
def Dev.holdsCtx (d : Dev) (p c : Nat) : Bool :=
  (d.get (NOP_CTX_CFG_KIND c) == 1 || d.get (NOP_CTX_CFG_KIND c) == 3) && d.get (NOP_CTX_CFG_PART c) == p

/-- A route entry keeps to R267 and R338. -/
def Dev.routeOk (d : Dev) (p : Nat) (b : List Byte) (rect : List Nat) (r : ImgRoute) : Bool :=
  decide (r.type ≤ 4) && r.resv == 0 &&
  (match r.type with
   | 1 => decide (r.grant ≤ 32) && decide (r.index < 64)
   | 2 => r.grant == 32 && decide (r.index < 16)
   | 3 => r.grant == 0 && decide (r.index < 32)
   | _ => r.grant == 0 && decide (r.index < 16)) &&
  (if r.remote then
     !r.mcast && r.type != 4 && decide (r.peer < 4096) && d.holdsCtx p r.peer &&
     (d.get (NOP_CTX_CFG_KIND r.peer) != 3 || r.type == 1)
   else
     r.peer == 0 && r.epoch == 0 &&
     (if r.mcast then (r.type == 1 || r.type == 3) && ((imgTree b r.dest).any fun t => t.root == r.tile)
      else rect.contains r.dest))

/-- The route a local grant names. -/
def imgRouteAt (b : List Byte) (t f e : Nat) : Option ImgRoute :=
  (imgRoutes b).find? fun r => r.tile == t && r.frond == f && r.entry == e
/-- A route leads to index i of type ty on tile n. -/
def ImgRoute.names (r : ImgRoute) (b : List Byte) (ty n i : Nat) : Bool :=
  r.type == ty && !r.remote && r.index == i &&
  (if r.mcast then (imgTree b r.dest).any fun t => t.leaves.contains n else r.dest == n)

/-- A queue grant keeps to R339: of the host endpoint, of a remote route through a context the partition holds, or of a
route of the image that names this queue with these credits. -/
def Dev.grantOk (d : Dev) (p : Nat) (b : List Byte) (n q : Nat) (g : ImgGrant) : Bool :=
  if g.writer = 0xFFFF then g.entry == 0 && g.frond == 0
  else if 0x8000 ≤ g.writer then
    d.holdsCtx p (g.writer - 0x8000) && decide (g.entry < 128) && decide (g.frond < 8) && decide (g.credits ≤ 32)
  else
    match imgRouteAt b g.writer g.frond g.entry with
    | some r => r.names b 1 n q && r.grant == g.credits
    | none => false

/-- A queue record keeps to R273, R281 and R339. -/
def Dev.queueOk (d : Dev) (p : Nat) (b : List Byte) (n : Nat) (x : ImgQueue) : Bool :=
  decide (x.q < 64) && decide (x.grants.length ≤ 16) &&
  (if x.extLen = 0 then x.spill == 0
   else x.extLen % 4 == 0 && decide (x.extLen ≤ 4096) && decide (1 ≤ x.spill) && decide (x.spill ≤ 12) &&
     decide (x.extBase + x.extLen / 4 ≤ 98304)) &&
  decide ((x.grants.map (·.credits)).sum ≤ if x.extLen = 0 then 16 else 12) && x.grants.all (d.grantOk p b n x.q)

/-- Local contributor routes of a splice. -/
def imgContributors (b : List Byte) (n s : Nat) : List ImgRoute := (imgRoutes b).filter fun r => r.names b 2 n s

/-- Two lists hold the same tiles. -/
def sameTiles (a b : List Nat) : Bool := a.all b.contains && b.all a.contains

/-- A splice record keeps to R340. -/
def Dev.spliceOk (d : Dev) (p : Nat) (b : List Byte) (n : Nat) (x : ImgSplice) : Bool :=
  let cs := imgContributors b n x.s
  decide (x.s < 16) && decide (x.frond < 8) && decide (1 ≤ x.cnt) && decide (x.cnt ≤ 1023) && decide (x.flags ≤ 1) &&
  x.cnt == cs.length + x.grants.length &&
  x.grants.all (fun g => decide (0x8000 ≤ g.writer) && d.holdsCtx p (g.writer - 0x8000) && g.credits == 32 && g.resv == 0 &&
    decide (g.entry < 128) && decide (g.frond < 8)) &&
  (if cs.isEmpty then x.tree == 0xFFFF
   else (imgTree b x.tree).any fun t => t.root == n && sameTiles t.leaves (cs.map (·.tile)))

/-- The retained ranges that the image leaves on a tile: those its WEIGHTS sections declare, and those claimed. -/
def imgRetained (b : List Byte) (claims : List (Nat × Retained)) (keep : Bool) (t : Nat) : List (Nat × Nat) :=
  (if keep then ((imgSects b).filter fun s => s.type == stWeights && s.flags == 1 && s.tile == t).map fun s => (s.line, s.size / 256)
   else []) ++ (claims.filter fun c => c.1 == t).map fun c => (c.2.start, c.2.count)

/-- Offsets rise strictly. -/
def offsetsRise : List FoldStep → Bool
  | a :: b :: r => decide (a.offset < b.offset) && offsetsRise (b :: r)
  | _ => true

/-- The fold plan keeps to R354. -/
def planOk (b : List Byte) (rect : List Nat) : Bool :=
  match imgPlan b with
  | none => true
  | some (_, steps) =>
    offsetsRise steps &&
    steps.all fun s =>
      let ts := rectTiles s.x0 s.y0 s.x1 s.y1
      decide (s.mode ≤ 2) && decide (s.x0 ≤ s.x1) && decide (s.y0 ≤ s.y1) && decide (s.x1 ≤ 15) &&
      decide (s.y1 ≤ 15) && ts.all (fun n => rect.contains n && (imgCfg b n s.frond).isSome)

/-- Section `s`, index i of the table, keeps to check k of LOAD_CONFIG (R347). -/
def Dev.configOk (d : Dev) (p : Nat) (b : List Byte) (rect : List Nat) (claims : List (Nat × Retained)) (k i : Nat) (s : Sect) : Bool :=
  let ss := imgSects b
  let keep := d.get (PART_P_CFG_RETENTION p) != 0
  let trees := imgTrees b
  let qs := (s.queues b).getD []
  let ps := (s.splices b).getD []
  match k with
  | 1 => s.type != stCfg || decide (fieldAt b s.off 1 ≤ 1)
  | 2 => s.type != stCfg || bightsOk (s.bights b)
  | 3 => s.type != stRoutes || (s.routes b).all (d.routeOk p b rect)
  | 4 => s.type != stQueues || (qs.all (fun q => d.queueOk p b s.tile q) && decide (qs.map fun q => q.q).Nodup)
  | 5 => s.type != stSplices || (ps.all (fun x => d.spliceOk p b s.tile x) && decide (ps.map fun x => x.s).Nodup)
  | 6 => s.type != stTrees ||
      (trees.all (fun t => decide (t.num < 1024) && rect.contains t.root && t.leaves.all rect.contains) && decide (trees.map (·.num)).Nodup)
  | 7 => s.type != stQueues || (qs.filter fun q => q.extLen != 0).all fun q =>
      ((ss.filter fun x => x.type == stCfg && x.tile == s.tile).all fun x =>
        (x.bights b).all fun y => !linesMeet q.extBase (q.extLen / 4) y.2.1 y.2.2) &&
      (imgRetained b claims keep s.tile).all fun r => !linesMeet q.extBase (q.extLen / 4) r.1 r.2
  | 8 => s.type != stFold || planOk b rect
  | 9 => (s.type != stWeights && s.type != stClaim) ||
      decide (((ss.take (i + 1)).filter fun x =>
        x.tile == s.tile && ((x.type == stWeights && x.flags == 1 && keep) || x.type == stClaim)).length ≤ 4)
  | 0xA => (s.type != stCode && s.type != stRoutes) || (imgCfg b s.tile s.frond).isSome
  | _ => true

/-- The failing check of LOAD_CONFIG, the first in the order of R347, and the first section that fails it. -/
def Dev.configCheck (d : Dev) (p : Nat) (b : List Byte) (rect : List Nat) (claims : List (Nat × Retained)) : Option (Nat × Nat) :=
  let fails (k i : Nat) : Bool := match (imgSects b)[i]? with
    | some s => !d.configOk p b rect claims k i s
    | none => false
  ((List.range 11).map fun k => (k, firstSect (imgCount b) (fails k))).find? fun x => x.2 != noSect

/-! ## LOAD_MESH and the class-C bound (R329, R330) -/

/-- The links from one logical tile to another: routers and outputs (R308). -/
def Dev.pathFrom (d : Dev) (r dst : Nat) : Nat → List (Nat × Dir)
  | 0 => []
  | k + 1 =>
    let o := d.nextDir r dst
    match meshNeighbour r o with
    | some (r', _) => (r, o) :: Dev.pathFrom d r' dst k
    | none => []
/-- The path between two logical tiles. -/
def Dev.meshPath (d : Dev) (a b : Nat) : List (Nat × Dir) := d.pathFrom (d.physOf a) b 64

/-- The direction a link runs in: a spare's link is vertical. -/
def linkDir (l : Nat × Dir) : Dir := if isSpare l.1 then (if spareRow l.1 = 0 then .s else .n) else l.2
/-- Changes of direction along a path (R305). -/
def turns : List (Nat × Dir) → Nat
  | a :: b :: r => (if linkDir a = linkDir b then 0 else 1) + turns (b :: r)
  | _ => 0
/-- H + 2T + 2X of a path (R305). -/
def cTime (l : List (Nat × Dir)) : Nat := l.length + 2 * turns l + 2 * (l.filter fun x => (meshCrossing x.1 x.2).isSome).length

/-- A flow of the mesh: its links, its unloaded time, its in-flight limit, and the target of a hitch flow. -/
structure MeshFlow where
  links : List (Nat × Dir)
  time : Nat
  limit : Nat
  deriving DecidableEq, Repr

/-- The flow from a tile to several. -/
def Dev.flowTo (d : Dev) (a : Nat) (bs : List Nat) (limit : Nat) : MeshFlow :=
  let ps := bs.map (d.meshPath a)
  ⟨(ps.flatMap id).eraseDups, ps.foldl (fun m p => max m (cTime p)) 0, limit⟩

/-- Tiles a route of the image leads to on this device. -/
def ImgRoute.targets (r : ImgRoute) (b : List Byte) : List Nat :=
  if r.remote then [] else if r.mcast then ((imgTree b r.dest).map (·.leaves)).getD [] else [r.dest]

/-- The general C flows of the image (R329). -/
def Dev.cFlows (d : Dev) (b : List Byte) : List MeshFlow :=
  let rs := imgRoutes b
  let qs := rs.filter fun r => r.type == 1 && !r.remote
  let ts := rs.filter fun r => r.type == 4
  qs.map (fun r => d.flowTo r.tile (r.targets b) r.grant) ++
  qs.flatMap (fun r => (r.targets b).map fun n => d.flowTo n [r.tile] (r.grant + 1)) ++
  (imgSplices b).filterMap (fun s => (imgTree b s.2.tree).map fun t => d.flowTo t.root t.leaves 32) ++
  ts.map (fun r => d.flowTo r.tile [r.dest] 8) ++
  ((ts.map fun r => (r.dest, r.tile)).eraseDups.map fun x => d.flowTo x.1 [x.2] 8)

/-- The hitch flows of the image, each with its target. -/
def Dev.hitchFlows (d : Dev) (b : List Byte) : List ((Bool × Nat × Nat) × MeshFlow) :=
  ((imgRoutes b).filter fun r => r.type == 3 && !r.remote).map fun r => ((r.mcast, r.dest, r.index), d.flowTo r.tile (r.targets b) 0)

/-- The routers of a tree: those on the paths from its root to its leaves (R323). -/
def Dev.treeRouters (d : Dev) (t : ImgTree) : List Nat :=
  ((d.physOf t.root :: t.leaves.map d.physOf) ++ t.leaves.flatMap fun n => (d.meshPath t.root n).map (·.1)).eraseDups

/-- Routers and inputs through which the contributions of a reducing splice arrive (R326). -/
def Dev.reductionInputs (d : Dev) (b : List Byte) (n s : Nat) : List (Nat × List Dir) :=
  let uses := ((imgContributors b n s).map (·.tile)).eraseDups.flatMap fun c =>
    (d.physOf c, Dir.l) :: ((d.meshPath c n).filterMap fun l => meshNeighbour l.1 l.2)
  let rs := (uses.map (·.1)).eraseDups
  (rs.map fun r => (r, allDirs.filter fun i => uses.contains (r, i))).filter fun x => decide (1 < x.2.length)

/-- Every list element that `n` bounds occurs at most n times. -/
def atMostEach (n : Nat) (l : List Nat) : Bool := l.eraseDups.all fun x => decide (l.count x ≤ n)

/-- The failing row of R329. -/
def Dev.meshCheck (d : Dev) (b : List Byte) : Option Nat :=
  let hs := d.hitchFlows b
  let cs := d.cFlows b
  let links := (cs.flatMap (·.links)).eraseDups
  let reds := ((imgSplices b).filter fun s => s.2.flags == 1).flatMap fun s => (d.reductionInputs b s.1 s.2.s).map (·.1)
  let checks : List (Nat × Bool) := [
    (1, hs.all fun x => hs.all fun y => x.1 == y.1 || !(x.2.links.any y.2.links.contains)),
    (2, links.all fun l => decide ((cs.map fun f => if f.links.contains l then f.limit else 0).sum ≤ 128)),
    (3, atMostEach 256 ((imgTrees b).flatMap d.treeRouters)),
    (4, atMostEach 64 reds)]
  (checks.find? fun c => !c.2).map (·.1)

/-- NSHARE of a flow: the limits of the other general C flows that share a link with it (R330). -/
def nshare (cs : List MeshFlow) (i : Nat) (f : MeshFlow) : Nat :=
  ((List.range cs.length).map fun j =>
    match cs[j]? with
    | some g => if j ≠ i && f.links.any g.links.contains then g.limit else 0
    | none => 0).sum
/-- The class-C bound of the image's routes and the largest NSHARE (R330). -/
def Dev.cBound (d : Dev) (b : List Byte) : Nat × Nat :=
  let cs := d.cFlows b
  (List.range cs.length).foldl (fun (m : Nat × Nat) i =>
    match cs[i]? with
    | some f => let k := nshare cs i f; (max m.1 (f.time + 3 * k), max m.2 k)
    | none => m) (42, 0)

/-! ## LOAD_TIMING and LOAD_RESOURCE (R347) -/

/-- Index of the TIMING section. -/
def timingSect (b : List Byte) : Nat := firstSect (imgCount b) fun i => (sectAt b i).type == stTiming
/-- The failing check of LOAD_TIMING (R343, R347). -/
def Dev.timingCheck (d : Dev) (p : Nat) (b : List Byte) : Option Nat :=
  match imgTiming b with
  | none => none
  | some s =>
    let at_ (o n : Nat) : Nat := fieldAt b (s.off + o) n
    let checks : List (Nat × Bool) := [
      (1, decide ((d.cBound b).1 ≤ at_ 4 2)),
      (2, at_ 6 2 == d.get (MESH_P_CFG_MSLOT p) && at_ 8 1 == d.get (MESH_P_CFG_WQ p) && at_ 9 1 == d.get (MESH_P_CFG_WG p) &&
        at_ 10 1 == d.get (MESH_P_CFG_WT p)),
      (3, at_ 12 1 == d.get (MEM_P_SPLIT_READ p) && at_ 13 1 == d.get (MEM_P_SPLIT_WRITE p) && at_ 14 1 == d.get (MEM_P_SPLIT_REMOTE p)),
      (4, decide ((s.classes b).map (·.cls)).Nodup)]
    (checks.find? fun c => !c.2).map (·.1)

/-- Device tree numbers that are free (R341). -/
def Dev.freeTrees (d : Dev) : List Nat := (List.range 4096).filter fun k => (d.tree k).part == 0
/-- The image finds its resources: free tree numbers, and no failed channel on its paths (R341, R513). -/
def Dev.resourceOk (d : Dev) (b : List Byte) : Bool :=
  decide ((imgTrees b).length ≤ d.freeTrees.length) &&
  (imgRoutes b).all fun r => (r.targets b).all fun n =>
    (d.meshPath r.tile n ++ d.meshPath n r.tile).all fun l => !d.spare.failedChans.contains (l.1 * 8 + dirCode l.2)

end Sys2Proof.Machine
end

