-- ==== Sys2Proof/Machine/Region.lean ====
section
/-! DEFINITION. The life of a region: load, verification, GO and start (R333, R345 to R352, R445), and the registers that
command it (R366). -/

namespace Sys2Proof.Machine

/-! ## Region states (R348) -/

def rgEmpty : Nat := 0
def rgChecking : Nat := 1
def rgLoading : Nat := 2
def rgVerifying : Nat := 3
def rgLoaded : Nat := 4
def rgRunning : Nat := 5
def rgDraining : Nat := 6
def rgDrained : Nat := 7
def rgClearing : Nat := 8

/-- Load results (R347). -/
def ldTruncated : Nat := 1
def ldFormat : Nat := 2
def ldFamily : Nat := 3
def ldPart : Nat := 4
def ldStepping : Nat := 5
def ldBinding : Nat := 6
def ldPlacement : Nat := 7
def ldMap : Nat := 8
def ldDigest : Nat := 9
def ldExpect : Nat := 0xA
def ldConfig : Nat := 0xB
def ldMesh : Nat := 0xC
def ldTiming : Nat := 0xD
def ldClaim : Nat := 0xE
def ldResource : Nat := 0xF
def ldBusy : Nat := 0x10
def ldDenied : Nat := 0x11
def ldAborted : Nat := 0x12

/-- RESULT, CHECK and SECTION of a load (R347). -/
def Dev.loadResult (d : Dev) (p code check sect : Nat) : Dev :=
  ((d.set (PART_P_RSTATUS_RESULT p) code).set (PART_P_RSTATUS_CHECK p) check).set (PART_P_RSTATUS_SECTION p) sect
/-- A load ends in CLEARING (R348). -/
def Dev.loadFail (d : Dev) (p code check sect : Nat) : Dev := (d.loadResult p code check sect).setRegionState p rgClearing

/-! ## Holding and clearing the tiles (R242, R244, R285, R349, R350) -/

/-- The rectangle of partition p: X0, Y0, X1, Y1. -/
def Dev.rectOf (d : Dev) (p : Nat) : Nat × Nat × Nat × Nat :=
  let v := d.get (PART_P_CFG_RECT p)
  (bits v 15 12, bits v 11 8, bits v 7 4, bits v 3 0)
/-- Its tiles. -/
def Dev.rectList (d : Dev) (p : Nat) : List Nat :=
  let (x0, y0, x1, y1) := d.rectOf p
  rectTiles x0 y0 x1 y1

/-- The byte lies in one of the retained ranges. -/
def inRetained (l : List Retained) (a : Nat) : Bool :=
  l.any fun r => decide (r.start * 256 ≤ a) && decide (a < (r.start + r.count) * 256)

/-- Every quarter ON: one that lost its contents holds zeros (R240, R242, R245). -/
def Tile.wake (t : Tile) (j : Nat) : Tile :=
  (if t.quarterLost j then t.clearQuarter j else t).setQuarter j .on
/-- All four. -/
def Tile.allOn (t : Tile) : Tile := (List.range 4).foldl Tile.wake t

/-- What a region load leaves of a tile (R350): the lines of the ranges kept, and every queue at its next epoch. -/
def Tile.loadClear (t : Tile) (keep : List Retained) (hashed : Bool) : Tile :=
  let t := t.allOn
  { t with
    scratch := t.scratch.filter fun c => inRetained keep c.1
    bad := t.bad.filter fun w => inRetained keep w
    repairDue := ((t.bad.filter fun w => decide (w < 0x1800000) && !inRetained keep w).map (· / 256)).eraseDups
    ceLines := t.ceLines.filter fun l => inRetained keep (l * 256)
    acc := [], fstore := [], qmem := [], smem := [], desc := []
    bights := [], routes := [], splices := [], hitches := [], tallies := [], fronds := [], strands := []
    queues := (List.range 64).map fun q => (q, { Queue.init with epoch := ((t.queue q).epoch + 1) % 2 ^ 16 })
    mx := Engine.init, vx := Engine.init, dma0 := Engine.init, dma1 := Engine.init, fc := Engine.init
    retained := keep, railOut := [], arrivals := [], outbox := [], active := none, hashed := hashed
    foldSt := .run, foldReq := none, foldWait := [], overrunLogged := false, foldStep := 0, overruns := 0 }

/-- No flit of partition p stays on the mesh, and its reduction entries go (R326, R350). -/
def Dev.purgeMesh (d : Dev) (p : Nat) : Dev :=
  let ok (f : Flit) : Bool := f.part != p
  let lane (l : Lane) : Lane :=
    match l.fly with
    | f :: _ => { l with fly := l.fly.filter ok, kept := l.kept.filter ok, wait := l.wait && ok f, replays := if ok f then l.replays else 0 }
    | [] => { l with kept := l.kept.filter ok }
  { d with routers := d.routers.map fun r => (r.1, { r.2 with
      inq := r.2.inq.map fun q => (q.1, q.2.filter ok)
      outs := r.2.outs.map fun c => (c.1, { c.2 with lanes := c.2.lanes.map fun l => (l.1, lane l.2) })
      reds := r.2.reds.filter fun e => (d.tile (e.1 / 16)).part != p }) }

/-- The queues of tile n advance their epochs at a region load: their entries are counted as discarded and their remote
grants get stale notices (R285, R425); the writers on this device lie in the same region. -/
def Dev.staleQueues (d : Dev) (n : Nat) : Dev :=
  (d.tile n).queues.foldl (fun d e =>
    let q := e.2
    let d := d.msgCount n 4 (q.slots.length + q.ext.length)
    q.grants.foldl (fun d g => match g.writer with
      | .remote _ _ _ _ => if g.withdrawn then d else d.notify n g.writer (.stale q.epoch)
      | _ => d) d) d

/-- Clears the tiles of partition p for a load, but for the claimed ranges (R350); the stale notices to remote writers
go out. -/
def Dev.clearRegion (d : Dev) (p : Nat) (claims : List (Nat × Retained)) (hashed : Bool) : Dev :=
  let ts := d.tilesOf p
  let d := ts.foldl (fun d n => d.staleQueues n) d
  let d := d.purgeMesh p
  ts.foldl (fun d n =>
    let out := (d.tile n).railOut.filter fun i => match i.2 with | .credit _ _ _ _ _ _ _ _ => true | _ => false
    let d := d.modTile n fun t =>
      { t.loadClear ((claims.filter fun c => c.1 == n).map (·.2)) hashed with railOut := out }
    let d := d.dueRepairs n
    let d := d.set (TILE_SP_POWER_REQ n) 0xAA
    ((d.set (TILE_FOLD_SWITCHES_V n) 0).set (TILE_FOLD_LATE_V n) 0).set (TILE_FOLD_DISCARD_V n) 0) d

/-- The tiles of partition p are held (R349): what their engines run is abandoned. -/
def Dev.holdTiles (d : Dev) (p : Nat) : Dev :=
  (d.tilesOf p).foldl (fun d n => d.modTile n fun t =>
    { t with held := true, mx := Engine.init, vx := Engine.init, dma0 := Engine.init, dma1 := Engine.init, fc := Engine.init }) d

/-! ## Commands of PART_Pp_RCMD -/

/-- Bytes [off, off + n) of an image at MEMORY, read on the partition's READ stream (R333, R375): each line takes its slots there, and, for a
tile's section, its way to the tile (R369, R372). An uncorrectable line is contained, and nothing is read (R397, R498); one that a slot
meets later is contained then. -/
def Dev.loadRead (d : Dev) (p off n : Nat) (tile : Option Nat) : Dev × Option (List Byte) :=
  let a := (d.region p).addr + off
  let ls := lineParts a n
  match ls.find? fun l => d.mem.bad.contains (l.1 / 256) && (d.inSweep l.1).isNone with
  | some l => ((d.memUeRecord l.1 rdDma 0 0 3 p tile 0).containRegion p, none)
  | none =>
    let bs := ls.flatMap fun l => d.memRead l.1 l.2
    (ls.foldl (fun d l => d.servedAccess p l.1 false .read (.load tile)) d, some bs)

/-- Image bytes [off, off + n) as a load has them for use: streamed ones stand in `img`, and those at MEMORY are read now and put
there. -/
def Dev.loadTake (d : Dev) (p off n : Nat) (tile : Option Nat) : Dev × Bool :=
  if (d.region p).stream then (d, true)
  else
    match d.loadRead p off n tile with
    | (d, none) => (d, false)
    | (d, some bs) =>
      (d.modRegion p fun r =>
        let old := r.img ++ zeros (off - r.img.length)
        { r with img := old.take off ++ bs ++ old.drop (off + n) }, true)

/-- SECTION of the load under way (R347): the section being processed, or the header. -/
def Dev.loadSect (d : Dev) (p : Nat) : Nat := if d.regionState p = rgLoading then (d.region p).sect else 0xFFFF

/-- LOAD (R348, R445): refused unless the partition is SEALED and the region EMPTY, LOADED or DRAINED; else the region is
held and its check begins. A load refused while another runs changes RESULT alone. The tiling-walk mode that the load's region records
(R35, R351) is the one effective here (log 30). -/
def Dev.loadCmd (d : Dev) (p : Nat) : Dev :=
  let st := d.regionState p
  let src := d.get (PART_P_RCMD_SOURCE p)
  if 1 < src then d
  else if !d.sealed p then d.loadResult p ldDenied 0 0xFFFF
  else if st = rgEmpty || st = rgLoaded || st = rgDrained then
    let d := (d.holdTiles p).setRegionState p rgChecking
    let d := d.loadResult p 0 0 0xFFFF
    let d := { d with trees := d.trees.filter fun t => t.2.part != p }
    d.modRegion p fun r =>
      { Region.init with
        stream := src == 1, addr := d.get (PART_P_RADDR_ADDR p) / 256 * 256, avail := d.get (PART_P_RSIZE_SIZE p),
        lastByte := d.tick, hwDuty := d.duty 2, lanes := r.lanes }
  else d.set (PART_P_RSTATUS_RESULT p) ldBusy

/-- ABORT (R348). -/
def Dev.abortCmd (d : Dev) (p : Nat) : Dev :=
  let st := d.regionState p
  if st = rgChecking || st = rgLoading || st = rgVerifying then d.loadFail p ldAborted 0 (d.loadSect p) else d

/-- GO (R352). -/
def Dev.goCmd (d : Dev) (p : Nat) : Dev :=
  if d.regionState p = rgLoaded then
    let t := d.get (PART_P_RSTART_SECOND p) * secLen + d.get (PART_P_RSTART_CYCLE p)
    d.modRegion p fun r => { r with goAt := some t }
  else d

/-- A write of PART_Pp_RCMD (R366). -/
def Dev.rcmdWr (d : Dev) (c : Cred) (p : Nat) (v : Nat) : Dev × Byte :=
  partWr c p d fun d =>
    let d := (d.take (PART_P_RCMD_EXPECT p) v).take (PART_P_RCMD_SOURCE p) v
    let d := if bit v 1 = 1 then d.abortCmd p else d
    let d := if bit v 0 = 1 then d.loadCmd p else d
    (if bit v 5 = 1 then d.goCmd p else d, stOk)

/-- The RW fields of PART_Pp_RCMD as they stand. -/
def Dev.rcmdNow (d : Dev) (p : Nat) : Nat := d.get (PART_P_RCMD_EXPECT p) * 16 + d.get (PART_P_RCMD_SOURCE p) * 4

/-- REGION_LOAD (R348): the value written to PART_Pp_RCMD with LOAD set. -/
def execRegionLoad (cred : Cred) (part : PartId) (value : Word) (s : State) :=
  run (fun d => ended (d.rcmdWr cred part.val (setBits value.toNat 0 0 1))) s
/-- REGION_ABORT (R348). -/
def execRegionAbort (cred : Cred) (part : PartId) (s : State) :=
  run (fun d => ended (d.rcmdWr cred part.val (d.rcmdNow part.val + 2))) s
/-- REGION_GO (R352). -/
def execRegionGo (cred : Cred) (part : PartId) (s : State) :=
  run (fun d => ended (d.rcmdWr cred part.val (d.rcmdNow part.val + 32))) s

/-! ## Checking (R345) -/

/-- The header's failing check, with its result (R345, orders 1 to 7). -/
def Dev.headerCheck (d : Dev) (p : Nat) (b : List Byte) : Option Nat :=
  let f (o n : Nat) : Nat := fieldAt b o n
  let (x0, y0, x1, y1) := d.rectOf p
  let flags := f 20 4
  let checks : List (Nat × Bool) := [
    (ldFormat, f 0 8 == imgMagic && f 8 2 == 1),
    (ldFamily, f 10 2 == 0x504C),
    (ldPart, f 12 2 == 0x0256),
    (ldStepping, decide (d.fuses.stepping < 32) && bit (f 16 4) d.fuses.stepping == 1),
    (ldBinding, bit flags 0 == 0 || slice b 64 64 == d.deviceId),
    (ldPlacement, f 36 1 == x0 && f 37 1 == y0 && f 38 1 == x1 && f 39 1 == y1),
    (ldMap, bit flags 1 == d.get (PART_P_CFG_MAP p))]
  (checks.find? fun c => !c.2).map (·.1)

/-- The retained range that a claim names on its tile (R342). -/
def Dev.claimAt (d : Dev) (b : List Byte) (s : Sect) : Option Retained :=
  if s.type = stClaim then (d.tile s.tile).retained.find? fun r => r.start == s.line && r.digest == s.bytes b
  else some ⟨0, 0, []⟩
/-- The claims of the image: the retained ranges they name on their tiles, none where one names no range the tile holds
with that digest (R342). -/
def Dev.readClaims (d : Dev) (b : List Byte) : Option (List (Nat × Retained)) :=
  ((imgSects b).filter fun s => s.type == stClaim).foldl (fun acc s =>
    match acc with
    | none => none
    | some l =>
      match d.claimAt b s with
      | some r => some (l ++ [(s.tile, r)])
      | none => none) (some [])

/-- Bytes of the image that CHECKING reads: header, section table and claims. -/
def checkBytes (b : List Byte) : Nat :=
  ((imgSects b).filter fun s => s.type == stClaim).foldl (fun m s => max m (s.off + s.size)) (imgHead b)

/-- The image lies wholly in the partition's ranges (R333). -/
def Dev.imageHeld (d : Dev) (p : Nat) : Bool :=
  let r := d.region p
  (List.range (ceilDiv r.avail pageBytes + 1)).all fun i =>
    let a := min (r.addr + i * pageBytes) (r.addr + r.avail - 1)
    decide (r.avail = 0) || d.memStatus p a 1 == stOk

/-- The check of a load whose header is at hand: the section table and the claims are read and checked, and the region cleared for
loading (R345, R346, R348, R350). -/
def Dev.checkTable (d : Dev) (p : Nat) : Dev :=
  let head := (d.region p).img
  match d.headerCheck p head with
  | some e => d.loadFail p e 0 0xFFFF
  | none =>
    let r := d.region p
    let short (k : Dev) : Dev := if r.ended then d.loadFail p ldTruncated 0 0xFFFF else k
    if !r.stream && decide (r.avail < imgLength head) then d.loadFail p ldTruncated 0 0xFFFF
    else if imgLength head < imgHead head + 64 then d.loadFail p ldFormat 0 0xFFFF
    else
      match d.loadTake p 128 (imgHead head - 128) none with
      | (d, false) => d
      | (d, true) =>
        let b := (d.region p).img
        if b.length < imgHead b then short d
        else if !tableOk b (d.rectList p) then d.loadFail p ldFormat 0 (tableFails b (d.rectList p))
        else
          match d.loadTake p (imgHead b) (checkBytes b - imgHead b) none with
          | (d, false) => d
          | (d, true) =>
            let b := (d.region p).img
            if b.length < checkBytes b then short d
            else
              match d.readClaims b with
              | none => d.loadFail p ldClaim 0 (firstSect (imgCount b) fun i => (d.claimAt b (sectAt b i)).isNone)
              | some cs =>
                if !rangesApart ((imgSects b).filterMap Sect.lines ++ cs.map fun c => (c.1, c.2.start, c.2.count)) then
                  d.loadFail p ldFormat 0 (rangesFail b (cs.map fun c => (c.1, c.2.start, c.2.count)))
                else
                  let d := d.clearRegion p cs (d.is (PART_P_CFG_MAP p))
                  ((d.modRegion p fun r => { r with claims := cs, sect := 0 }).setRegionState p rgLoading).set (PART_P_RSTATUS_SECTION p) 0

/-- REGION_CHECK_DONE: with header, section table and claims at hand, their checks are made and the region cleared for
loading, or sent to CLEARING (R333, R345, R346, R348, R350). -/
def execRegionCheckDone (part : PartId) (s : State) :=
  runM (fun d =>
    let p := part.val
    let r := d.region p
    if d.regionState p ≠ rgChecking then d
    else if !r.stream && !d.imageHeld p then d.loadFail p ldDenied 0 0xFFFF
    else if !r.stream && decide (r.avail < 128) then d.loadFail p ldTruncated 0 0xFFFF
    else
      match d.loadTake p 0 128 none with
      | (d, false) => d
      | (d, true) =>
        if (d.region p).img.length < 128 then (if r.ended then d.loadFail p ldTruncated 0 0xFFFF else d)
        else d.checkTable p) s

/-! ## Loading (R336 to R344) -/

/-- The frond that a FROND_CFG section configures (R337). -/
def Sect.frondOf (s : Sect) (b : List Byte) : Frond :=
  let f (o n : Nat) : Nat := fieldAt b (s.off + o) n
  { Frond.init with
    loaded := true, cls := f 0 1, startMask := BitVec.ofNat 8 (f 1 1), trapValid := bit (f 2 2) 15 == 1,
    trapEntry := BitVec.ofNat 13 (f 2 2), entries := (List.range 8).map fun i => f (8 + 2 * i) 2 % 8192 }

/-- A route as the image gives it; the end of the load completes it (R338). -/
def ImgRoute.route (r : ImgRoute) : Route :=
  { Route.init with
    type := r.type, mcast := r.mcast, remote := r.remote, index := r.index, dfrond := r.dfrond, grant := r.grant, epoch := r.epoch,
    dest := r.dest, peer := r.peer }

/-- A queue as the image gives it. -/
def ImgGrant.grant (p : Nat) (g : ImgGrant) : Grant :=
  { Grant.init with
    credits := g.credits,
    writer := if g.writer = 0xFFFF then .host p
      else if 0x8000 ≤ g.writer then .remote (g.writer - 0x8000) (Config.grantTile (g.writer - 0x8000) g.entry % 256) g.frond g.entry
      else .local_ g.writer g.frond g.entry }
def ImgQueue.queue (p : Nat) (old : Queue) (x : ImgQueue) : Queue :=
  { old with
    configured := true, readers := BitVec.ofNat 8 x.readers, extBase := x.extBase, extLen := x.extLen, spillAt := x.spill,
    grants := x.grants.map (ImgGrant.grant p) }
/-- A splice as the image gives it. -/
def ImgSplice.splice (p : Nat) (x : ImgSplice) : Splice :=
  { Splice.init with
    valid := true, frond := x.frond, cnt := x.cnt, ctree := x.tree, reduce := x.flags == 1,
    remotes := x.grants.map (ImgGrant.grant p) }

/-- A section of the image is written into its tile (R336). -/
def Dev.putSect (d : Dev) (p : Nat) (b : List Byte) (s : Sect) : Dev :=
  let n := s.tile
  match s.type with
  | 1 => d.modTile n fun t => { t with fstore := cwrite t.fstore (0x1900000 + s.frond * 0x10000) (s.bytes b) }
  | 2 => d.modTile n fun t =>
      { t.modFrond s.frond (fun _ => s.frondOf b) with
        bights := (s.bights b).foldl (fun m x =>
          mset m (s.frond * 16 + x.1) { Bight.init with valid := true, base := x.2.1, lines := x.2.2 }) t.bights }
  | 3 => d.modTile n fun t => { t with routes := (s.routes b).foldl (fun m r => mset m (s.frond * 128 + r.entry) r.route) t.routes }
  | 4 => ((s.queues b).getD []).foldl (fun d x => d.modQueue n x.q fun q => x.queue p q) d
  | 5 => d.modTile n fun t => ((s.splices b).getD []).foldl (fun t x => t.modSplice x.s fun _ => x.splice p) t
  | 6 => d.modTile n fun t => { t with desc := cwrite t.desc 0x19B0000 (s.bytes b) }
  | 7 => (d.modTile n fun t => t.winWrite (s.line * 256) (s.bytes b)).dueRepairs n
  | 8 => (d.modTile n fun t => t.winWrite (s.line * 256) (s.bytes b)).dueRepairs n
  | _ => d

/-- IMAGE_SECTION_WRITE: the next section is written once its bytes have come, and SECTION names the one that is processed then; after
the last the region is VERIFYING (R336, R346 to R348). -/
def execImageSectionWrite (part : PartId) (s : State) :=
  runM (fun d =>
    let p := part.val
    let r := d.region p
    if d.regionState p ≠ rgLoading then d
    else
      let x := sectAt r.img r.sect
      match d.loadTake p x.off x.size (if x.tile < 256 then some x.tile else none) with
      | (d, false) => d
      | (d, true) =>
        let b := (d.region p).img
        if b.length < x.off + x.size then (if r.ended then d.loadFail p ldTruncated 0 r.sect else d)
        else if !x.layoutOk b then d.loadFail p ldFormat 0 r.sect
        else
          let d := d.putSect p b x
          let d := d.modRegion p fun r => { r with sect := r.sect + 1 }
          if r.sect + 1 = imgCount b then d.setRegionState p rgVerifying else d.set (PART_P_RSTATUS_SECTION p) (r.sect + 1)) s

/-- LOAD_STREAM_TIMEOUT: 100 ms without a byte end a streamed load (R346). -/
def execLoadStreamTimeout (part : PartId) (s : State) :=
  run (fun d =>
    let p := part.val
    let r := d.region p
    let st := d.regionState p
    if (st = rgChecking || st = rgLoading || st = rgVerifying) && r.stream &&
        (decide (r.img.length < 128) || decide (r.img.length < imgLength r.img)) then
      let d := d.toTick (r.lastByte + 105000000)
      d.loadFail p ldTruncated 0 (if st = rgLoading then r.sect else 0xFFFF)
    else d) s

/-! ## Verifying (R351) -/

/-- Credits of a route by destination (R267). -/
def Dev.heldBy (d : Dev) (r : Route) : List (Nat × Nat) :=
  if r.mcast then (d.tree r.dest).leaves.map fun n => (n, r.grant) else [(r.dest, r.grant)]
/-- The epoch of a route's local destination queue (R338). -/
def Dev.epochFor (d : Dev) (r : Route) : Nat :=
  if r.remote || r.type != rtQueue then r.epoch
  else
    let n := if r.mcast then (d.tree r.dest).leaves.headD 0 else r.dest
    ((d.tile n).queue r.index).epoch

/-- Digest entries of the loaded region (R460). -/
def weightEntries (b : List Byte) : List (List Byte) :=
  allTiles.flatMap fun n =>
    let ss := (imgSects b).filter fun s => s.tile == n && (s.type == stWeights || s.type == stClaim)
    (List.range ss.length).filterMap fun i => (ss[i]?).map fun s =>
      leBytes 1 n ++ leBytes 1 i ++ leBytes 1 (if s.type = stClaim then 1 else 0) ++ leBytes 1 s.flags ++
      (if s.type = stClaim then s.bytes b else sha3 (s.bytes b))

/-- New retained ranges of a tile, under a policy that permits them (R243, R342). -/
def newRetained (b : List Byte) (n : Nat) : List Retained :=
  ((imgSects b).filter fun s => s.type == stWeights && s.flags == 1 && s.tile == n).map fun s =>
    (⟨s.line, s.size / 256, sha3 (s.bytes b)⟩ : Retained)

/-- The end of a successful load (R267, R269, R338, R341, R351): trees and their device numbers, routes with their credits
and epochs, credit trees, reduction entries, the timing table and fold plan, bounds and digests. -/
def Dev.loadDone (d : Dev) (p : Nat) : Dev :=
  let r := d.region p
  let b := r.img
  let ts := d.tilesOf p
  let nums := (imgTrees b).zip d.freeTrees
  let trees := nums.map fun x => (x.1.num, x.2)
  let bound := d.cBound b
  let d : Dev := { d with trees := nums.foldl (fun m x => mset m x.2 ⟨p, x.1.num, x.1.root, x.1.leaves⟩) d.trees }
  let d := ts.foldl (fun d n => d.modTile n fun t =>
    { t with routes := t.routes.map fun e => (e.1, if e.2.mcast then { e.2 with dest := mget trees 65535 e.2.dest } else e.2),
             splices := t.splices.map fun e => (e.1, { e.2 with ctree := mget trees 65535 e.2.ctree }) }) d
  let d := ts.foldl (fun d n => d.modTile n fun t =>
    { t with routes := t.routes.map fun e => (e.1, { e.2 with held := d.heldBy e.2, epoch := d.epochFor e.2, st := .open_, seq := 0 }),
             retained := t.retained ++ (if d.get (PART_P_CFG_RETENTION p) = 0 then [] else newRetained b n) }) d
  let d := ((imgSplices b).filter fun s => s.2.flags == 1).foldl (fun d s =>
    (d.reductionInputs b s.1 s.2.s).foldl (fun d x => d.modRouter x.1 fun y =>
      { y with reds := mset y.reds (s.1 * 16 + s.2.s) { Reduction.init with inputs := x.2 } }) d) d
  let entry := (d.tile (d.get (NOP_P_ENTRY_TILE p))).queue (d.get (NOP_P_ENTRY_QUEUE p))
  let classes := match imgTiming b with | some s => s.classes b | none => []
  let d := d.modRegion p fun r =>
    { r with
      trees := trees, digests := weightEntries b, classes := classes, timed := (imgTiming b).isSome,
      detour := (match imgTiming b with | some s => bit (fieldAt b (s.off + 2) 1) 0 == 1 | none => false),
      hashed := bit (fieldAt b 20 4) 1 == 1, steps := ((imgPlan b).map (·.2)).getD [], period := ((imgPlan b).map (·.1)).getD 0,
      hostCredit := ((entry.grants.filter fun g => g.writer == .host p).map (·.credits)).sum,
      spanId := BitVec.ofNat 64 (fieldAt b 40 8), devIndex := fieldAt b 50 2,
      lanes := classes.map fun c => (c.cls, { Lanes.init with free := List.replicate c.lanes 0 }) }
  let d := (d.set (MESH_P_BOUND_CBOUND p) bound.1).set (MESH_P_BOUND_NSHARE_MAX p) bound.2
  let dig := slice b (imgLength b - 64) 64
  let d := (List.range 8).foldl (fun d k => d.set (PART_P_RDIGEST_V p k) (fieldAt dig (8 * k) 8)) d
  let d := (d.flag (PART_P_RSTATUS_HOSTWALK p) r.hwDuty).loadResult p 0 0 0xFFFF
  let d := if d.duty 1 then d.flag (ADM_P_STATUS_HOST_SCHEDULE p) true else d
  d.setRegionState p rgLoaded

/-- The bytes of the image that no section holds, which the digest covers (R334): offsets and lengths, from `at_` on. -/
def imgGaps (last : Nat) : Nat → List Sect → List (Nat × Nat)
  | at_, [] => if at_ < last then [(at_, last - at_)] else []
  | at_, s :: r =>
    let rest := imgGaps last (max at_ (s.off + s.size)) r
    if at_ < s.off then (at_, s.off - at_) :: rest else rest
/-- The rest of an image at MEMORY is read: what lies between its sections, and its digest. -/
def Dev.loadRest (d : Dev) (p : Nat) : Dev × Bool :=
  let b := (d.region p).img
  (imgGaps (imgLength b) (imgHead b) (imgSects b)).foldl
    (fun (x : Dev × Bool) g => if x.2 then x.1.loadTake p g.1 g.2 none else x) (d, true)

/-- The checks of VERIFYING, in the order of R347 (R351): the digest, the expected digest, LOAD_CONFIG, LOAD_MESH, LOAD_TIMING and the
resources. -/
def Dev.verifyLoad (d : Dev) (p : Nat) : Dev :=
  let len := imgLength (d.region p).img
  let b := (d.region p).img.take len
  let dig := slice b (len - 64) 64
  let want := (List.range 8).flatMap fun k => leBytes 8 (d.get (PART_P_RDIGEST_EXP_V p k))
  let d := d.modRegion p fun r => { r with img := b }
  if sha3 (b.take (len - 64)) ≠ dig then d.loadFail p ldDigest 0 0xFFFF
  else if d.is (PART_P_RCMD_EXPECT p) && want != dig then d.loadFail p ldExpect 0 0xFFFF
  else
    match d.configCheck p b (d.rectList p) (d.region p).claims with
    | some k => d.loadFail p ldConfig k.1 k.2
    | none =>
      match d.meshCheck b with
      | some k => d.loadFail p ldMesh k 0xFFFF
      | none =>
        match d.timingCheck p b with
        | some k => d.loadFail p ldTiming k (timingSect b)
        | none => if d.resourceOk b then d.loadDone p else d.loadFail p ldResource 0 0xFFFF

/-- REGION_VERIFY (R346, R351): once every byte of the image is at hand. -/
def execRegionVerify (part : PartId) (s : State) :=
  run (fun d =>
    let p := part.val
    let r := d.region p
    if d.regionState p ≠ rgVerifying then d
    else
      match d.loadRest p with
      | (d, false) => d
      | (d, true) =>
        if (d.region p).img.length < imgLength r.img then (if r.ended then d.loadFail p ldTruncated 0 0xFFFF else d)
        else d.verifyLoad p) s

/-- REGION_CLEAR_DONE: the clear of a failed load ends, retained ranges included, and the region is EMPTY (R244, R348). -/
def execRegionClearDone (part : PartId) (s : State) :=
  runM (fun d =>
    let p := part.val
    if d.regionState p ≠ rgClearing || d.partState p == 3 then d
    else
      let d := d.clearRegion p [] (d.is (PART_P_CFG_MAP p))
      let d := (d.tilesOf p).foldl (fun d n => d.modTile n fun t => { t with held := false }) d
      (d.modRegion p fun r => { Region.init with lanes := r.lanes }).setRegionState p rgEmpty) s

/-! ## Starting (R82, R352) -/

/-- Strands of frond f start at their entry points under its START_MASK (R82, R355); a PX64 frond has s0 to s3 only
(R118). -/
def Tile.startFrond (t : Tile) (f : Nat) : Tile :=
  let x := t.frond f
  let t := (List.range 8).foldl (fun t s =>
    if x.startMask.getLsbD s && (x.cls != 0 || decide (s < 4)) then
      t.modStrand f s fun y => { y with st := .ready, pc := BitVec.ofNat 13 (x.entries.getD s 0) }
    else t) t
  t.modFrond f fun y => { y with ran := true }

/-- The first instant of a step at or after time t, for the anchor a (R354). -/
def FoldStep.from_ (x : FoldStep) (a period t : Nat) : FoldStep :=
  let first := a + x.offset
  { x with due := if t ≤ first then first else first + ceilDiv (t - first) period * period }

/-- The region runs as from GO with fold anchor a (R352, R363): frond 0 becomes active where it is loaded. Instants that lie before the
region leaves the hold are skipped, those of command switches too (R354, R358). -/
def Dev.launch (d : Dev) (p a : Nat) : Dev :=
  let d := (d.tilesOf p).foldl (fun d n => d.modTile n fun t =>
    let t := { t with held := false, lastIssued := 7 }
    if (t.frond 0).loaded then ({ t with active := some 0 } : Tile).startFrond 0 else { t with active := none }) d
  let d := d.modRegion p fun r =>
    { r with anchor := a, goAt := none, steps := r.steps.map fun x => x.from_ a r.period d.now
             switches := r.switches.filter fun x => decide (d.now ≤ x.due) }
  d.setRegionState p rgRunning

/-- Every queue of tile n announces its epoch to its remote grants (R425). -/
def Dev.announce (d : Dev) (n : Nat) : Dev := (List.range 64).foldl (fun d q => d.reopenQueue n q true) d

/-- REGION_START: at the time GO named, or at once when it has passed, the region leaves the hold (R352, R425). -/
def execRegionStart (part : PartId) (s : State) :=
  run (fun d =>
    let p := part.val
    match (d.region p).goAt with
    | some t =>
      if d.regionState p = rgLoaded && decide (t ≤ lastTime) then
        let d := (d.toTime t).launch p t
        (d.tilesOf p).foldl (fun d n => d.announce n) d
      else d
    | none => d) s

end Sys2Proof.Machine
end

