-- ==== Sys2Proof/Machine/Fold.lean ====
section
/-! DEFINITION. Folding (R59, R354 to R358), drains (R359 to R363), and what restarts a drained region (R245, R363). -/

namespace Sys2Proof.Machine

/-! ## A tile's switch (R355 to R357) -/

/-- A fold mode by its code; a reserved code is never stored. -/
def foldMode (k : Nat) : FoldMode := if k = 1 then .retire else if k = 2 then .forced else .park

/-- An instant reaches a tile in RUN: the active frond is only counted; another begins its switch (R355). -/
def Tile.beginFold (t : Tile) (r : FoldReq) : Tile :=
  let t := { t with foldStep := r.step.getD t.foldStep }
  if t.active = some r.frond then t
  else
    { t with foldReq := some r, foldSt := if r.mode = .retire && t.active.isSome then .drainOld else .wait }

/-- A fold instant for tile n (R355, R357): one that finds an earlier switch under way waits, counts in OVERRUNS and is
recorded once per region load. -/
def Dev.foldAt (d : Dev) (n : Nat) (r : FoldReq) : Dev :=
  let t := d.tile n
  if t.foldSt = .run then
    let d := if t.active = some r.frond then d.add (TILE_FOLD_SWITCHES_V n) 1 else d
    d.modTile n fun t => t.beginFold r
  else
    let first := match t.foldReq with | some x => x.instant | none => d.now
    let d := d.modTile n fun t =>
      { t with foldWait := t.foldWait ++ [r], overruns := min (t.overruns + 1) 65535, overrunLogged := true }
    if t.overrunLogged then d
    else d.log { cls := 9, sev := 2, part := t.part, tile := some n,
                 detail := leBytes 1 (r.step.getD 0xFF) ++ leBytes 1 r.frond ++ [0, 0] ++ leBytes 4 (min (d.now - first) (2 ^ 32 - 1)) }

/-- The tiles of a step's rectangle get its instant. -/
def Dev.foldStepAt (d : Dev) (p : Nat) (x : FoldStep) (step : Option Nat) : Dev :=
  ((rectTiles x.x0 x.y0 x.x1 x.y1).filter fun n => (d.tile n).part == p).foldl
    (fun d n => d.foldAt n ⟨step, x.frond, foldMode x.mode, x.due⟩) d

/-- FOLD_INSTANT: a step of the plan, or the earliest command switch, falls due (R354, R358). -/
def execFoldInstant (part : PartId) (step : Option (Fin 256)) (s : State) :=
  run (fun d =>
    let p := part.val
    let r := d.region p
    let st := d.regionState p
    if !(st = rgRunning || st = rgDraining || st = rgDrained) then d
    else
      match step with
      | some i =>
        match r.steps[i.val]? with
        | some x =>
          if lastTime < x.due then d
          else
            let d := d.toTime x.due
            let d := d.modRegion p fun r => { r with steps := lset r.steps i.val { x with due := x.due + r.period } }
            d.foldStepAt p x (some i.val)
        | none => d
      | none =>
        match r.switches.foldl (fun (m : Option FoldStep) x => match m with
            | some y => if x.due < y.due then some x else some y
            | none => some x) none with
        | some x =>
          if lastTime < x.due then d
          else
            let d := d.toTime x.due
            let d := d.modRegion p fun r => { r with switches := dropFirst (fun y => y == x) r.switches }
            d.foldStepAt p x none
        | none => d) s

/-- No entry of frond f stays in the tile's queues (R355). -/
def Tile.noEntries (t : Tile) (f : Nat) : Bool := t.queues.all fun q => q.2.countOf f == 0 && q.2.extOf f == 0

/-- FOLD_OLD_DRAINED (R355). -/
def execFoldOldDrained (tile : TileId) (s : State) :=
  run (fun d => d.modTile tile.val fun t =>
    match t.foldSt, t.active with
    | .drainOld, some f => if t.noEntries f then { t with foldSt := .wait } else t
    | _, _ => t) s

/-- Nothing of frond f holds the switch: every completion counter is 0 and no send or tally operation is in flight, that of a strand
stopped meanwhile included (R86, R355). -/
def Tile.switchReady (t : Tile) (f : Nat) : Bool :=
  (List.range 8).all fun s =>
    let x := t.strand f s
    x.k.all (fun c => c.cnt == 0) && x.late.isEmpty && !(x.st == .wait && (x.wait == .send || x.wait == .tally))

/-- FOLD_SWITCH_BEGIN: the 16-cycle switch begins, and TILE_FOLD_LATE records its delay (R355). -/
def execFoldSwitchBegin (tile : TileId) (s : State) :=
  run (fun d =>
    let n := tile.val
    let t := d.tile n
    match t.foldSt, t.foldReq with
    | .wait, some r =>
      if (match t.active with | some f => t.switchReady f | none => true) then
        let late := max (d.get (TILE_FOLD_LATE_V n)) (d.now - r.instant)
        (d.set (TILE_FOLD_LATE_V n) late).modTile n fun t => { t with foldSt := .switch, switchAt := d.tick }
      else d
    | _, _ => d) s

/-- Frond f is retired on the tile: its contexts are zeroed and its bights reset (R356). -/
def Tile.retire (t : Tile) (f : Nat) : Tile :=
  let t := (List.range 8).foldl (fun t s => t.modStrand f s fun _ => Strand.init) t
  let t := ((List.range 15).map (· + 1)).foldl (fun t h => t.modBight f h fun b =>
    { Bight.init with valid := b.valid, base := b.base, lines := b.lines }) t
  t.modFrond f fun x => { x with retired := true, ran := false }

/-- Under FORCED every entry of frond f is discarded, counted, and its credit returned (R356). -/
def Dev.forceOut (d : Dev) (n f : Nat) : Dev :=
  (List.range 64).foldl (fun d q =>
    let (d, k) := d.discardFrond n q f
    d.add (TILE_FOLD_DISCARD_V n) k) d

/-- The steps that waited for a switch are taken in order, until one begins another switch (R357). -/
def Dev.foldNext (d : Dev) (n : Nat) : List FoldReq → Dev
  | [] => d
  | x :: rest =>
    let d := (d.modTile n fun t => { t with foldWait := rest }).foldAt n x
    if (d.tile n).foldSt = .run then Dev.foldNext d n rest else d

/-- FOLD_SWITCH_END: the new frond becomes active (R355, R356), and the switches that waited are taken (R357). -/
def execFoldSwitchEnd (tile : TileId) (s : State) :=
  run (fun d =>
    let n := tile.val
    let t := d.tile n
    match t.foldSt, t.foldReq with
    | .switch, some r =>
      let d := d.toTick (t.switchAt + 16)
      let d := match t.active with
        | some f =>
          if r.mode = FoldMode.park then d
          else (if r.mode = FoldMode.forced then d.forceOut n f else d).modTile n fun t => t.retire f
        | none => d
      let g := r.frond
      let d := d.modTile n fun t =>
        let t := { t with active := some g, foldSt := .run, foldReq := none, lastIssued := 7 }
        let t := t.modFrond g fun x => if x.retired then { x with retired := false, gen := (x.gen + 1) % 256 } else x
        if (t.frond g).ran then t else t.startFrond g
      let d := (d.add (TILE_FOLD_SWITCHES_V n) 1).wakeAll n
      d.foldNext n (d.tile n).foldWait
    | _, _ => d) s

/-- A write of PART_Pp_SWITCH (R358, R366). -/
def Dev.switchWr (d : Dev) (c : Cred) (p : Nat) (v : Nat) : Dev × Byte :=
  partWr c p d fun d =>
    let d := (((d.take (PART_P_SWITCH_RECT p) v).take (PART_P_SWITCH_FROND p) v).take (PART_P_SWITCH_MODE p) v).w1c (PART_P_SWITCH_REFUSED p) v
    if bit v 0 = 0 then (d, stOk)
    else
      let w := d.get (PART_P_SWITCH_RECT p)
      let (x0, y0, x1, y1) := (bits w 15 12, bits w 11 8, bits w 7 4, bits w 3 0)
      let f := d.get (PART_P_SWITCH_FROND p)
      let m := d.get (PART_P_SWITCH_MODE p)
      let ts := rectTiles x0 y0 x1 y1
      let ok := decide (x0 ≤ x1) && decide (y0 ≤ y1) && decide (m ≤ 2) &&
        ts.all fun n => (d.tile n).part == p && ((d.tile n).frond f).loaded
      let x : FoldStep := ⟨0, x0, y0, x1, y1, f, m, unpackTime (d.get (PART_P_SWTIME_V p))⟩
      (if ok then d.modRegion p fun r => { r with switches := r.switches ++ [x] } else d.flag (PART_P_SWITCH_REFUSED p) true, stOk)
/-- SWITCH_COMMAND (R358): the value written to PART_Pp_SWITCH with GO set. -/
def execSwitchCommand (cred : Cred) (part : PartId) (value : Word) (s : State) :=
  run (fun d => ended (d.switchWr cred part.val (setBits value.toNat 0 0 1))) s

/-! ## Drains (R359 to R361) -/

/-- The partition holds no flit in any router or link, nor one that waits at a tile (R361). -/
def Dev.meshEmpty (d : Dev) (p : Nat) : Bool :=
  let own (f : Flit) : Bool := f.part == p
  d.routers.all (fun r => r.2.inq.all (fun q => !q.2.any own) && r.2.outs.all (fun c => c.2.lanes.all fun l => !l.2.fly.any own) &&
    r.2.reds.all fun e => !e.2.bufs.any fun b => own b.2) &&
  (d.tilesOf p).all fun n => (d.tile n).arrivals.isEmpty && (d.tile n).outbox.isEmpty

/-- No Nopra message of the partition waits for a window or an acknowledgement (R361). -/
def Dev.nopraEmpty (d : Dev) (p : Nat) : Bool :=
  (d.tilesOf p).all (fun n => (d.tile n).railOut.isEmpty) &&
  d.ctxs.all fun c =>
    c.2.txq.all (fun m => m.part != p) && c.2.unacked.all (fun m => m.part != p) &&
    (c.2.items.isEmpty || d.get (NOP_CTX_CFG_PART c.1) != p)

/-- The tiles of partition p that are not empty (R360). -/
def Dev.notEmpty (d : Dev) (p : Nat) : List Nat := (d.tilesOf p).filter fun n => !(d.tile n).isEmpty

/-- The drain may complete (R361). -/
def Dev.drained (d : Dev) (p : Nat) : Bool :=
  (d.notEmpty p).isEmpty && d.meshEmpty p && d.nopraEmpty p &&
  ((d.region p).drainMode != 0 || d.get (ADM_P_STATUS_OUTSTANDING p) == 0)

/-- Under policy RETAIN a DRAINED region's quarters that hold a retained line go to RETAIN and the others to OFF (R245). -/
def Dev.parkQuarters (d : Dev) (p : Nat) : Dev :=
  if d.get (PART_P_CFG_RETENTION p) ≠ 2 then d
  else (d.tilesOf p).foldl (fun d n =>
    let t := d.tile n
    let code (j : Nat) : Nat :=
      if t.retained.any fun r => linesMeet r.start r.count (j * 24576) 24576 then 1 else 0
    let d := d.set (TILE_SP_POWER_REQ n) ((List.range 4).map fun j => code j * 4 ^ j).sum
    d.modTile n fun t => (List.range 4).foldl (fun t j => t.startPower j (code j)) t) d

/-- A drain ends (R361). After a drain of R362 the requests still outstanding have failed (R431): the
fault has made their delivery impossible, so a promise among them is missed (R71). -/
def Dev.drainEnd (d : Dev) (p : Nat) : Dev :=
  let r := d.region p
  let d := d.set (PART_P_DSTATUS_CYCLES p) (min (d.tick - r.drainAt) (2 ^ 32 - 1))
  let d := d.setRegionState p rgDrained
  let d := if d.is (PART_P_RSTATUS_FAULTED p) then (d.reqs.filter fun x => x.part == p).foldl (fun d x => (d.miss x).withdraw x 4) d else d
  d.parkQuarters p

/-- DRAIN_COMPLETE (R361). -/
def execDrainComplete (part : PartId) (s : State) :=
  run (fun d =>
    let p := part.val
    if d.regionState p = rgDraining && d.drained p then
      (((d.flag (PART_P_RSTATUS_STUCK p) false).set (PART_P_DSTATUS_NOT_EMPTY p) 0).set (PART_P_DSTATUS_FIRST_STUCK p) 0).drainEnd p
    else d) s

/-- DRAIN_LIMIT (R361): a drain that has not completed in LIMIT cycles ends STUCK. -/
def execDrainLimit (part : PartId) (s : State) :=
  run (fun d =>
    let p := part.val
    if d.regionState p ≠ rgDraining || d.drained p then d
    else
      let d := d.toTick ((d.region p).drainAt + d.get (PART_P_DRAIN_LIMIT p))
      let bad := d.notEmpty p
      let d := d.flag (PART_P_RSTATUS_STUCK p) true
      let d := (d.set (PART_P_DSTATUS_NOT_EMPTY p) bad.length).set (PART_P_DSTATUS_FIRST_STUCK p) (bad.headD 0)
      let d := d.log { cls := 0xA, sev := 3, part := p, detail := leBytes 2 bad.length ++ leBytes 1 (bad.headD 0) }
      d.drainEnd p) s

/-! ## RESUME and RESTART (R363) -/

/-- The region's quarters are brought ON (R245). -/
def Dev.wakeRegion (d : Dev) (p : Nat) : Dev :=
  (d.tilesOf p).foldl (fun d n =>
    ((List.range 4).foldl (fun d j => d.loseQuarter n j) (d.set (TILE_SP_POWER_REQ n) 0xAA)).modTile n Tile.allOn) d

/-- RESUME: the region runs on where the drain left it (R363). -/
def Dev.resume (d : Dev) (p : Nat) : Dev :=
  if d.regionState p ≠ rgDrained || d.is (PART_P_RSTATUS_FAULTED p) then d.flag (PART_P_RSTATUS_REFUSED p) true
  else
    let d := (d.flag (PART_P_RSTATUS_STUCK p) false).flag (ADM_P_CTRL_HOLD p) false
    (d.wakeRegion p).setRegionState p rgRunning

/-- What a recovery restart leaves of a tile: contexts, bights, splices, hitches and tallies are reset, its engines hold
nothing, and its fold state is RUN (R363). -/
def Tile.restart (t : Tile) : Tile :=
  { t with
    strands := [], splices := t.splices.map fun e => (e.1, { e.2 with head := 0, overs := false, entries := [] }), smem := []
    bights := t.bights.map fun e => (e.1, { Bight.init with valid := e.2.valid, base := e.2.base, lines := e.2.lines })
    hitches := [], tallies := []
    mx := Engine.init, vx := Engine.init, dma0 := Engine.init, dma1 := Engine.init, fc := Engine.init
    routes := t.routes.map fun e => (e.1, { e.2 with waiters := [] })
    fronds := t.fronds.map fun e => (e.1, { e.2 with ran := false, stopped := false, retired := false })
    foldSt := .run, foldReq := none, foldWait := [] }

/-- RESTART: the recovery restart of a DRAINED region, refused with a fenced tile (R285, R286, R363). -/
def Dev.restart (d : Dev) (p : Nat) : Dev :=
  let ts := d.tilesOf p
  if d.regionState p ≠ rgDrained || ts.any (fun n => (d.tile n).fenced) then d.flag (PART_P_RSTATUS_REFUSED p) true
  else
    let d := (d.flag (PART_P_RSTATUS_FAULTED p) false).flag (PART_P_RSTATUS_STUCK p) false
    let d := d.wakeRegion p
    let d := ts.foldl (fun d n => d.modTile n Tile.restart) d
    let d := ts.foldl (fun d n => (List.range 64).foldl (fun d q => d.advanceEpoch n q) d) d
    let d := if d.is (PART_P_DRAIN_REOPEN p) then
        (ts.foldl (fun d n => (List.range 64).foldl (fun d q => d.reopenQueue n q false) d) d).feedAll p
      else d
    d.launch p (d.region p).anchor

/-- A write of PART_Pp_DRAIN (R359, R363, R366). -/
def Dev.drainWr (d : Dev) (c : Cred) (p : Nat) (v : Nat) : Dev × Byte :=
  partWr c p d fun d =>
    let d := ((d.take (PART_P_DRAIN_LIMIT p) v).take (PART_P_DRAIN_MODE p) v).take (PART_P_DRAIN_REOPEN p) v
    let m := d.get (PART_P_DRAIN_MODE p)
    let d := if bit v 0 = 1 && d.regionState p = rgRunning && m ≤ 1 then d.beginDrain p m false else d
    let d := if bit v 1 = 1 then d.resume p else d
    (if bit v 2 = 1 then d.restart p else d, stOk)

/-- The RW fields of PART_Pp_DRAIN as they stand. -/
def Dev.drainNow (d : Dev) (p : Nat) : Nat :=
  d.get (PART_P_DRAIN_LIMIT p) * 2 ^ 32 + d.get (PART_P_DRAIN_MODE p) * 16 + d.get (PART_P_DRAIN_REOPEN p) * 8

/-- DRAIN_START (R359): the value written to PART_Pp_DRAIN with START set. -/
def execDrainStart (cred : Cred) (part : PartId) (value : Word) (s : State) :=
  run (fun d => ended (d.drainWr cred part.val (setBits value.toNat 0 0 1))) s
/-- RESUME (R363). -/
def execResume (cred : Cred) (part : PartId) (s : State) :=
  run (fun d => ended (d.drainWr cred part.val (d.drainNow part.val + 2))) s
/-- RESTART (R363), with REOPEN as given. -/
def execRestart (cred : Cred) (part : PartId) (reopen : Bool) (s : State) :=
  run (fun d => ended (d.drainWr cred part.val (setBits (d.drainNow part.val) 3 3 (boolBit reopen) + 4))) s

end Sys2Proof.Machine
end

