-- ==== Sys2Proof/Machine/Eth.lean ====
section
/-! DEFINITION. The Ethernet ports (R401 to R408, R436, R438): their states, what they receive and count, LLDP, PTP relay,
cable measurement, and reserve-port failover. -/

namespace Sys2Proof.Machine

/-! ## States (R404) -/

/-- A transmit SAK and a receive SAK are installed (R404, R405). -/
def Port.keyed (x : Port) : Bool := x.sas.any (fun s => !s.rx) && x.sas.any fun s => s.rx

/-- A LINKED port that needs no SAK, or has both, starts LLDP, PTP relay and cable measurement (R404). -/
def Dev.linkGo (d : Dev) (n : Nat) : Dev :=
  if d.ethState n = ethLinked && (!d.is (ETH_P_CTRL_MACSEC_REQ n) || (d.port n).keyed) then
    (d.set (ETH_P_STATUS_STATE n) ethMeasuring).modPort n fun x => { x with measureAt := d.tick }
  else d
/-- The port leaves the state it is in; leaving UP is what failover acts on (R436), and may clear PTP_LOCK (R55). -/
def Dev.leavePort (d : Dev) (n st : Nat) : Dev :=
  let up := d.ethState n == ethUp
  let d := (d.set (ETH_P_STATUS_STATE n) st).set (ETH_P_STATUS_LANES n) 0
  let d := d.modPort n fun x => { x with lost := x.lost || (up && n != 0 && n != portV), trainAt := d.tick, fecSecond := 0, lldpSent := 0 }
  (d.ptpCheck).requality
/-- Loss of alignment, or too many FEC errors (R404): it is counted and the port trains again. -/
def Dev.linkLoss (d : Dev) (n : Nat) : Dev :=
  if d.ethState n = ethDisabled then d
  else (d.add (ETH_P_STATUS_RETRAINS n) 1).leavePort n ethTraining

/-- The RW fields of ETH_Pn_CTRL but EN, of which MEDIUM is taken only while the port is DISABLED (R438). -/
def Dev.ethFields (d : Dev) (n v : Nat) : Dev :=
  let off := d.ethState n == ethDisabled
  let d := d.takeIf (ETH_P_CTRL_MTU n) v fun x => decide (9000 ≤ x) && decide (x ≤ 9216)
  let d := (((d.take (ETH_P_CTRL_VF n) v).take (ETH_P_CTRL_LLDP_S n) v).take (ETH_P_CTRL_XPN n) v).take (ETH_P_CTRL_PTP_EN n) v
  let d := (d.take (ETH_P_CTRL_MACSEC_REQ n) v).take (ETH_P_CTRL_IPV n) v
  if off then d.take (ETH_P_CTRL_MEDIUM n) v else d
/-- What EN, as just written, makes of the port, which was DISABLED before if `off` (R404). -/
def Dev.ethEnable (d : Dev) (n : Nat) (off : Bool) : Dev :=
  if d.is (ETH_P_CTRL_EN n) then (if off then d.leavePort n ethTraining else d.linkGo n)
  else if off then d
  else d.leavePort n ethDisabled
/-- A write of ETH_Pn_CTRL (R404, R438). -/
def Dev.ethCtrlWr (d : Dev) (c : Cred) (n v : Nat) : Dev × Byte :=
  ownerWr c d fun d =>
    (((((d.ethFields n v).take (ETH_P_CTRL_EN n) v).ethEnable n (d.ethState n == ethDisabled)).ptpCheck).requality, stOk)
/-- A write of ETH_Pn_MAC, ETH_Pn_IP0 or ETH_Pn_IP1: only while the port is DISABLED (R438). -/
def Dev.ethAddrWr (d : Dev) (c : Cred) (n : Nat) (f : RF) (v : Nat) : Dev × Byte :=
  ownerWr c d fun d => (if d.ethState n = ethDisabled then d.take f v else d, stOk)

/-- PORT_ENABLE (R404): a write of ETH_Pn_CTRL with EN set. -/
def execPortEnable (cred : Cred) (port : PortId) (value : Word) (s : State) :=
  run (fun d => ended (d.ethCtrlWr cred port.val (setBits value.toNat 0 0 1))) s
/-- PORT_DISABLE (R404): a write of ETH_Pn_CTRL with EN clear. -/
def execPortDisable (cred : Cred) (port : PortId) (value : Word) (s : State) :=
  run (fun d => ended (d.ethCtrlWr cred port.val (setBits value.toNat 0 0 0))) s

/-- PORT_TRAINED (R404): all four lanes trained and FEC aligned. -/
def execPortTrained (port : PortId) (s : State) :=
  run (fun d =>
    let n := port.val
    if d.ethState n = ethTraining then
      ((d.set (ETH_P_STATUS_STATE n) ethLinked).set (ETH_P_STATUS_LANES n) 15).linkGo n
    else d) s
/-- TRAINING_TIMEOUT (R404): 2 s without success, and training starts again. -/
def execTrainingTimeout (port : PortId) (s : State) :=
  run (fun d =>
    let n := port.val
    if d.ethState n = ethTraining then
      let d := d.toTick ((d.port n).trainAt + 2 * secLen)
      (d.add (ETH_P_STATUS_RETRAINS n) 1).modPort n fun x => { x with trainAt := d.tick }
    else d) s
/-- LINK_LOSS (R404). -/
def execLinkLoss (port : PortId) (s : State) := run (fun d => d.linkLoss port.val) s

/-- Length in cm of a cable with a mean link delay in ps (R408). -/
def cableCm (ps vf : Nat) : Nat := (2 * ps * vf * 299792458 + 2560000000000) / (2 * 2560000000000)
/-- CABLE_MEASURED: sixteen exchanges are done, or the partner did not answer within 1 s (R404, R408). A port that is UP
measures again for a survey. -/
def execCableMeasured (port : PortId) (delayPs : Option Nat) (s : State) :=
  run (fun d =>
    let n := port.val
    let st := d.ethState n
    if st = ethMeasuring || st = ethUp then
      let d := match delayPs with
        | some ps =>
          ((d.flag (ETH_P_CABLE_VALID n) true).set (ETH_P_CABLE_LENGTH n) (cableCm ps (d.get (ETH_P_CTRL_VF n)))).set (ETH_P_CABLE_DELAY n) ps
        | none =>
          let d := if st = ethMeasuring then d.toTick ((d.port n).measureAt + secLen) else d
          ((d.flag (ETH_P_CABLE_VALID n) false).set (ETH_P_CABLE_LENGTH n) 0).set (ETH_P_CABLE_DELAY n) 0
      d.set (ETH_P_STATUS_STATE n) ethUp
    else d) s

/-! ## Frames (R402, R403, R405) -/

/-- A frame under MACsec passes (R405): its association is there, its ICV verified, and its packet number is no lower than the next one
expected, since the replay window is 0. -/
def Dev.macsecRx (d : Dev) (n : Nat) (f : FrameRx) : Dev :=
  match (d.port n).sas.find? fun a => a.rx && a.an == f.an with
  | none => d.add (ETH_P_COUNT_V n 4) 1
  | some a =>
    if !f.icvOk then d.add (ETH_P_COUNT_V n 4) 1
    else if f.pn < a.next then d
    else d.modPort n fun y => { y with sas := y.sas.map fun b => if b = a then { b with next := f.pn + 1 } else b }

/-- FRAME_RECEIVE (R402 to R405): counters, MACsec, and the frames that are dropped. What the frame carries reaches the
device by a command of its own. -/
def execFrameReceive (port : PortId) (f : FrameRx) (s : State) :=
  run (fun d =>
    let n := port.val
    let st := d.ethState n
    if st = ethDisabled || st = ethTraining then d
    else
      let d := ((d.add (ETH_P_COUNT_V n 1) 1).add (ETH_P_COUNT_V n 7) f.bytes).add (ETH_P_COUNT_V n 2) f.fecCorrected
      let d := (d.add (ETH_P_COUNT_V n 3) f.fecBad).modPort n fun x => { x with fecSecond := x.fecSecond + f.fecBad }
      let bare := !f.macsec && f.kind != .lldp && ((d.port n).sas.any (fun a => a.rx) || (f.kind == .nopra && d.is (ETH_P_CTRL_MACSEC_REQ n)))
      let d := if f.macsec then d.macsecRx n f else d
      let d :=
        if f.macsec && !f.icvOk then d
        else if f.kind == .fragment || f.kind == .other || bare || (st = ethLinked && f.kind == .nopra) then d.add (ETH_P_COUNT_V n 5) 1
        else d
      if 256 < (d.port n).fecSecond then d.linkLoss n else d) s

/-! ## Frames for open time -/

/-- Kind of a queue entry that is a PTP frame, an LLDPDU, or a Nopra message (R420). -/
def txPtp : Nat := 0x100
def txLldp : Nat := 0x101
/-- Queues a frame or message on a port for open time. -/
def Dev.queueOpen (d : Dev) (n : Nat) (m : TxMsg) : Dev :=
  (d.modPort n fun x => { x with openq := x.openq ++ [{ m with no := d.nop.nextNo }] }).number

/-- The character of a hexadecimal digit; its case is open (log 1). -/
def hexByte (k : Nat) : Byte := BitVec.ofNat 8 (if k < 10 then 0x30 + k else if Config.hexUpper then 0x37 + k else 0x57 + k)
/-- Decimal digits of a number below 100. -/
def decBytes (k : Nat) : List Byte :=
  (if k < 10 then [] else [BitVec.ofNat 8 (0x30 + k / 10)]) ++ [BitVec.ofNat 8 (0x30 + k % 10)]
/-- The port ID of R407: H, S0 to S15, V. -/
def portName (n : Nat) : List Byte := if n = 0 then [0x48] else if n = portV then [0x56] else 0x53 :: decBytes (n - 1)
/-- An LLDP TLV. -/
def lldpTlv (type : Nat) (v : List Byte) : List Byte := beBytes 2 (type * 512 + v.length) ++ v
/-- The LLDPDU of a port, from its destination address (R407). -/
def Dev.lldpFrame (d : Dev) (n : Nat) : List Byte :=
  let ident := (slice d.deviceId 0 16).flatMap fun b => [hexByte (b.toNat / 16), hexByte (b.toNat % 16)]
  [0x01, 0x80, 0xC2, 0x00, 0x00, 0x0E] ++ beBytes 6 (d.get (ETH_P_MAC_MAC n)) ++ [0x88, 0xCC] ++
    lldpTlv 1 (7 :: ident) ++ lldpTlv 2 (7 :: portName n) ++ lldpTlv 3 (beBytes 2 (4 * d.get (ETH_P_CTRL_LLDP_S n))) ++ lldpTlv 0 []

/-- LLDP_TX (R407): with LLDP_S seconds past since the latest, or at the first, an LLDPDU is queued. -/
def execLldpTx (port : PortId) (s : State) :=
  run (fun d =>
    let n := port.val
    let k := d.get (ETH_P_CTRL_LLDP_S n)
    if k = 0 || decide (d.ethState n < ethLinked) then d
    else
      let last := (d.port n).lldpSent
      let d := if last = 0 then d else d.toTime (last + k * secLen)
      (d.modPort n fun x => { x with lldpSent := d.now }).queueOpen n
        { TxMsg.init with type := txLldp, payload := d.lldpFrame n }) s

/-- LLDPDU (R407): the chassis ID and port ID of the latest one are kept. -/
def execLldpdu (port : PortId) (chassis portId : List Byte) (ttl : Nat) (s : State) :=
  run (fun d =>
    if d.ethState port.val < ethLinked then d
    else d.modPort port.val fun x => { x with chassis := chassis, portId := portId, lldpAt := some d.now, lldpTtl := ttl }) s

/-- Kind of a pushed PTP_RX message among the records that wait for delivery. -/
def pushPtp : Nat := 0x54
/-- A PTP_RX payload (R423): port, FRAC, which is a multiple of 1,024 (R406), timestamp and frame. -/
def ptpRx (n frac t : Nat) (frame : List Byte) : List Byte :=
  beBytes 1 n ++ zeros 5 ++ beBytes 2 (frac / 1024 * 1024) ++ beBytes 4 (t / secLen) ++ beBytes 4 (t % secLen) ++ frame

/-- PTP_EVENT_RX (R55, R406, R434): the frame is timestamped and relayed, and a Sync is noted. -/
def execPtpEventRx (port : PortId) (ev : PtpEvent) (s : State) :=
  run (fun d =>
    let n := port.val
    if d.ethState n < ethLinked then d
    else
      let old := d.time.syncs.find? fun e => e.1 == n
      let note (x : SyncRec) (d : Dev) : Dev := { d with time := { d.time with syncs := mset d.time.syncs n x } }
      let d :=
        if ev.sync then note ⟨d.now, if ev.twoStep then none else some ev.origin.toNat⟩ d
        else if ev.followUp then
          match old with
          | some e => note { e.2 with origin := some ev.origin.toNat } d
          | none => d
        else d
      if d.is (ETH_P_CTRL_PTP_EN n) then d.push pushPtp (ptpRx n ev.frac d.now ev.frame) else d) s

/-- PEER_DELAY_REQ (R406): the port answers for cable measurement. The reply's bytes are IEEE 1588's (log 1). -/
def execPeerDelayReq (port : PortId) (frame : List Byte) (s : State) :=
  run (fun d =>
    if d.ethState port.val < ethLinked then d
    else d.queueOpen port.val { TxMsg.init with type := txPtp, payload := Config.pdelayResp frame d.now }) s

/-! ## Reserve-port failover (R436) -/

/-- The record of a port failure (R502). -/
def Dev.failoverRecord (d : Dev) (n : Nat) (moved up : Bool) : Dev :=
  d.log { cls := 0x15, sev := 1, action := (if moved then 8 else 0) + (if up then 16 else 0), detail := [BitVec.ofNat 8 n, if moved then 0 else 1] }

/-- PORT_FAILOVER (R436, R480, R506, R507, R515): a scale-out port has left UP. DESIGN CHOICE (log 32): while the management controller
restarts, the need of the reserve port waits in PENDING, as R547 says of sparing, although R436 names no controller. -/
def execPortFailover (port : PortId) (s : State) :=
  runM (fun d =>
    let n := port.val
    if !(d.port n).lost then d
    else
      let d := d.modPort n fun x => { x with lost := false }
      if d.get ETH_FAILOVER_SERVING ≠ 31 then (d.failoverRecord n false (d.rises 2)).raiseLevel 2 10
      else if d.duty 4 || (d.is ETH_FAILOVER_AUTO && !d.sparesItself) then (d.failoverRecord n false false).addNeed 7 n 0
      else if d.is ETH_FAILOVER_AUTO && d.vReady then (d.failoverRecord n true (d.rises 1)).sparePort n
      else d.failoverRecord n false false) s

/-- A write of ETH_FAILOVER (R436, R438). -/
def Dev.failoverWr (d : Dev) (c : Cred) (v : Nat) : Dev × Byte :=
  ownerWr c d fun d =>
    let d := (d.take ETH_FAILOVER_AUTO v).take ETH_FAILOVER_TARGET v
    let t := d.get ETH_FAILOVER_TARGET
    let d := if ETH_FAILOVER_FORCE.of v = 1 && d.vReady && decide (1 ≤ t) && decide (t ≤ 16) then d.sparePort t else d
    (if ETH_FAILOVER_FAILBACK.of v = 1 then d.flag ETH_FAILOVER_FAILBACK true else d, stOk)
/-- The RW fields of ETH_FAILOVER as they stand. -/
def Dev.failoverNow (d : Dev) : Nat := boolBit (d.is ETH_FAILOVER_AUTO) + d.get ETH_FAILOVER_TARGET % 32 * 256
/-- FAILOVER_FORCE (R436). -/
def execFailoverForce (cred : Cred) (target : PortId) (s : State) :=
  runM (fun d => ended (d.failoverWr cred (boolBit (d.is ETH_FAILOVER_AUTO) + target.val * 256 + 2))) s

/-- Moves the contexts back from V, at a frame boundary once the original port is UP (R436). -/
def Dev.failback (d : Dev) : Dev :=
  let n := d.get ETH_FAILOVER_SERVING
  if !d.is ETH_FAILOVER_FAILBACK then d
  else if n = 31 then d.flag ETH_FAILOVER_FAILBACK false
  else if d.ethState n ≠ ethUp then d
  else
    let d := (List.range 4096).foldl (fun d c =>
      if (d.ctx c).homePort == some n && d.get (NOP_CTX_CFG_PORT c) == portV then
        (d.set (NOP_CTX_CFG_PORT c) n).modCtx c fun x => { x with homePort := none }
      else d) d
    (d.set ETH_FAILOVER_SERVING 31).flag ETH_FAILOVER_FAILBACK false

/-! ## The span frame (R419) -/

/-- FRAME in cycles. -/
def Dev.frameLen (d : Dev) : Nat := d.get NOP_CFG_FRAME
/-- A span frame starts (R413, R398, R436, R419): changes of PORT, a move back from V and HBM lane replacements take
effect. -/
def Dev.frameStart (d : Dev) : Dev :=
  let d := d.ctxs.foldl (fun d e =>
    match e.2.newPort with
    | some p => (d.set (NOP_CTX_CFG_PORT e.1) p).modCtx e.1 fun x => { x with newPort := none, homePort := none }
    | none => d) d
  let d := d.mem.replaced.foldl (fun d e =>
    let k := d.get (HBM_S_STATUS_LANES e.1) + e.2
    let full := decide (Config.hbmSpares e.1 ≤ k)
    let d : Dev := { d with fuses := { d.fuses with hbmLanes := mset d.fuses.hbmLanes e.1 k } }
    let d := (d.set (HBM_S_STATUS_LANES e.1) k).spared 5 none 9 (zeros 11 ++ leBytes 1 (Config.hbmSpares e.1 - k)) (full && d.rises 1)
    if full then (d.raiseLevel 1 6).adviseUnit e.1 else d) { d with mem := { d.mem with replaced := [] } }
  d.failback
/-- SPAN_FRAME_BOUNDARY (R419). -/
def execSpanFrameBoundary (s : State) :=
  runM (fun d =>
    let f := d.frameLen
    (d.toTime ((d.now / f + 1) * f)).frameStart) s
/-- FAILBACK (R436): the command, and the frame boundary at which it takes effect. -/
def execFailback (cred : Cred) (s : State) :=
  runM (fun d =>
    let r := d.failoverWr cred (d.failoverNow + 4)
    let f := d.frameLen
    if r.2 = stOk then ended (((r.1.toTime ((r.1.now / f + 1) * f)).frameStart), stOk) else ended r) s

/-- A write of NOP_CFG (R419, R439). -/
def Dev.nopCfgWr (d : Dev) (c : Cred) (v : Nat) : Dev × Byte :=
  ownerWr c d fun d =>
    let d := d.takeIf NOP_CFG_FRAME v fun x =>
      !d.anyInService && decide (1050 ≤ x) && decide (x ≤ 1050000) && secLen % x == 0
    ((d.take NOP_CFG_DSCP v).take NOP_CFG_UDP v, stOk)

/-- Windows a port's table gives it: entry w's START, LEN and partition; V uses the table of the port it stands in for
(R419, R436). -/
def Dev.windows (d : Dev) (n : Nat) : List (Nat × Nat × Nat) :=
  let k := if n = portV && d.get ETH_FAILOVER_SERVING ≠ 31 then d.get ETH_FAILOVER_SERVING else n
  ((List.range 64).filter fun w => d.is (NOP_P_WIN_VALID k w)).map fun w =>
    (d.get (NOP_P_WIN_START k w), d.get (NOP_P_WIN_LEN k w), d.get (NOP_P_WIN_PART k w))

/-- A write of NOP_Pn_WIN w (R419): refused where it changes an entry of a sealed partition, or where the windows of the
port would leave the frame or overlap. -/
def Dev.winWr (d : Dev) (c : Cred) (n w v : Nat) : Dev × Byte :=
  ownerWr c d fun d =>
    let valid := (NOP_P_WIN_VALID n w).of v == 1
    let start := (NOP_P_WIN_START n w).of v
    let len := (NOP_P_WIN_LEN n w).of v
    let apart := (List.range 64).all fun k =>
      k == w || !d.is (NOP_P_WIN_VALID n k) ||
      decide (start + len ≤ d.get (NOP_P_WIN_START n k)) || decide (d.get (NOP_P_WIN_START n k) + d.get (NOP_P_WIN_LEN n k) ≤ start)
    let old := d.get (NOP_P_WIN_VALID n w) * 2 ^ 63 + d.get (NOP_P_WIN_PART n w) * 2 ^ 56 + d.get (NOP_P_WIN_LEN n w) * 2 ^ 32 +
      d.get (NOP_P_WIN_START n w)
    let new := (NOP_P_WIN_VALID n w).of v * 2 ^ 63 + (NOP_P_WIN_PART n w).of v * 2 ^ 56 + len * 2 ^ 32 + start
    if old ≠ new && (d.sealed (d.get (NOP_P_WIN_PART n w)) || d.sealed ((NOP_P_WIN_PART n w).of v)) then (d, stSealed)
    else if valid && !(apart && decide (start + len ≤ d.frameLen)) then (d, stDenied)
    else ((((d.take (NOP_P_WIN_VALID n w) v).take (NOP_P_WIN_PART n w) v).take (NOP_P_WIN_LEN n w) v).take (NOP_P_WIN_START n w) v, stOk)

end Sys2Proof.Machine
end

