-- ==== Sys2Proof/Machine/Nopra.lean ====
section
/-! DEFINITION. The Nopra endpoint (R409 to R421, R434): contexts as they open and close, the transmission of messages in
windows and open time, their receipt in sequence, and retransmission. -/

namespace Sys2Proof.Machine

/-- A digest in a ROM: 0 the Huarnil image key's, 1 the Huarnil enrolment key's, 2 the SEC ROM's, 3 the meter ROM's. -/
def romDigest (k : Nat) : List Byte := (List.range 64).map (Config.romByte k)

/-! ## Contexts (R413 to R415) -/

/-- The port of a context: none for a RESULT context (R413). -/
def Dev.ctxPort (d : Dev) (c : Nat) : Option Nat :=
  match d.ctxKind c with
  | 1 => some (d.get (NOP_CTX_CFG_PORT c))
  | 2 => some 0
  | _ => none
/-- Partition of a context. -/
def Dev.ctxPart (d : Dev) (c : Nat) : Nat := d.get (NOP_CTX_CFG_PART c)

/-- The request whose final RES a message of the present incarnation of its context is. -/
def Dev.requestOf (d : Dev) (m : TxMsg) : Option Request := d.reqs.find? fun r => d.sentBy r m.ctx && r.tag == m.tag && r.part == m.part
/-- The final RES of a request is discarded with its context, and it counts as delivered (R431). -/
def Dev.dropResult (d : Dev) (m : TxMsg) : Dev :=
  if m.last then
    match d.requestOf m with
    | some r => d.endRequest r
    | none => d
  else d

/-- A meter record whose message is discarded is still to be delivered (R486). -/
def Dev.meterBack (d : Dev) (m : TxMsg) : Dev :=
  match m.record with
  | some q => { d with nop := { d.nop with meterNext := min d.nop.meterNext q, meterSent := d.nop.meterSent.filter (· != q) } }
  | none => d

/-- Answers a memory access with MDATA or MACK (R427). -/
def Dev.memAnswer (d : Dev) (c tag : Nat) (isRead : Bool) (st : Byte) : Dev :=
  d.queueMsg c (mkMsg (if isRead then 0x21 else 0x23) (d.ctxPart c) c true (beBytes 4 tag ++ [st] ++ zeros 3))
/-- Memory accesses of a context that are revoked complete so (R414, R422). -/
def Dev.revokeOps (d : Dev) (c : Nat) (gone : List RemoteOp) : Dev :=
  gone.foldl (fun d o => d.memAnswer c o.tag o.isRead stRevoked) d

/-- Every message and item of a context is discarded and counted, once its memory accesses have completed REVOKED (R414, R415). -/
def Dev.dropCtx (d : Dev) (c : Nat) : Dev :=
  let d := d.revokeOps c (d.ctx c).ops
  let x := d.ctx c
  let mine (a : MemAccess) : Bool := match a.who with | .remote k _ _ => k == c | _ => false
  let d := x.txq.foldl Dev.dropResult d
  let d := (x.txq ++ x.unacked).foldl Dev.meterBack d
  let d := d.ctxDrop c (x.txq.length + x.items.length + x.unacked.length)
  let cut (e : Nat × MemChan) : Nat × MemChan := (e.1, { e.2 with queue := e.2.queue.filter fun a => !mine a })
  let d : Dev := { d with mem := { d.mem with chans := d.mem.chans.map cut }
                          nop := { d.nop with pulls := d.nop.pulls.filter fun p => p.1 != c } }
  d.modCtx c fun x =>
    { x with txq := [], items := [], unacked := [], ackDue := none, nakDue := false, nakFor := none, ops := [] }

/-- Routes of this device that name context c: tile, frond, entry, type. -/
def Dev.ctxRoutes (d : Dev) (c : Nat) : List (Nat × Nat × Nat × Nat) :=
  d.tiles.flatMap fun t =>
    (t.2.routes.filter fun e => e.2.remote && e.2.type != 0 && e.2.peer == c).map fun e => (t.1, e.1 / 128, e.1 % 128, e.2.type)

/-- A context leaves OPEN for `st` with REASON `why` (R414): what it held goes, every route naming it becomes REVOKED, and
a HOST context gives up its credential. -/
def Dev.closeCtx (d : Dev) (c why st : Nat) : Dev :=
  let d := ((d.dropCtx c).set (NOP_CTX_STATE_STATE c) st).set (NOP_CTX_STATE_REASON c) why
  let d := (d.ctxRoutes c).foldl (fun d e => d.revokedTo e.1 e.2.1 e.2.2.1) d
  if d.ctxKind c = 2 then
    (d.set (NOP_CTX_CFG_PART c) 0).modCtx c fun x => { x with cred := .none, challenge := none, tkey := [], ek := [], txKey := [], rxKey := [] }
  else d

/-- Marks a message with the counters of its context as it is sent (R410, R416). -/
def Dev.stamp (d : Dev) (c : Nat) (m : TxMsg) : TxMsg :=
  let x := d.ctx c
  { m with
    seq := if m.tries = 0 then (if m.seqd then d.get (NOP_CTX_SEQ_NEXT_TX c) else 0) else m.seq
    incarn := d.get (NOP_CTX_STATE_INCARN c), txc := x.txc, ack := d.get (NOP_CTX_SEQ_NEXT_RX c), nak := x.nakDue, ackv := d.ctxState c == 2
    tries := m.tries + 1, sentAt := d.tick, again := false, told := 0 }
/-- What sending a message leaves in its context: every message carries the acknowledgement (R416). -/
def Dev.spend (d : Dev) (c : Nat) (seqd : Bool) : Dev :=
  let d := if seqd then d.set (NOP_CTX_SEQ_NEXT_TX c) (d.get (NOP_CTX_SEQ_NEXT_TX c) + 1) else d
  d.modCtx c fun x => { x with txc := x.txc + 1, ackDue := none, nakDue := false }

/-- Sends CLOSE in open time, outside the context, which closes now (R414, R423). -/
def Dev.sendClose (d : Dev) (c code : Nat) : Dev :=
  match d.ctxPort c with
  | none => d
  | some n =>
    let m := d.stamp c (mkMsg 0x03 0 c true (BitVec.ofNat 8 code :: zeros 7))
    (d.spend c true).queueOpen n m

/-- The entry of a queue came through context c, as its tag tells (R271). -/
def tagVia (c : Nat) (tag : Word) : Bool := tag.toNat / 2 ^ 35 % 2 == 1 && tag.toNat / 2 ^ 36 % 2 ^ 12 == c
/-- The route of a remote grant lies beyond context c. -/
def Grant.via (g : Grant) (c : Nat) : Bool := match g.writer with | .remote k _ _ _ => k == c | _ => false

/-- Queue q of tile n gives up the entries that came through context c, and announces its epoch to the grants through it
if its region is RUNNING (R415, R425). -/
def Dev.reopenVia (d : Dev) (n q c : Nat) : Dev :=
  let x := (d.tile n).queue q
  let gone := (x.slots.filter fun e => tagVia c e.tag).length + (x.ext.filter fun e => tagVia c e.tag).length
  let run := d.regionState (d.tile n).part == rgRunning
  let d := d.modQueue n q fun x =>
    { x with
      slots := x.slots.filter fun e => !tagVia c e.tag
      ext := x.ext.filter fun e => !tagVia c e.tag
      grants := x.grants.map fun g => if g.via c && run then { g with announced := true } else g }
  let d := if gone = 0 then d else (d.msgCount n 4 gone).ctxDrop c gone
  if run then (x.grants.filter fun g => g.via c && !g.withdrawn).foldl (fun d g => d.notify n g.writer (.reopen g.credits x.epoch)) d
  else d

/-- What a PEER context's new incarnation does to messaging (R415). -/
def Dev.reopenPeer (d : Dev) (c : Nat) : Dev :=
  let d := (d.ctxRoutes c).foldl (fun d e =>
    if e.2.2.2 = rtQueue then d.staleTo e.1 e.2.1 e.2.2.1
    else if e.2.2.2 = rtSplice then d.revokedTo e.1 e.2.1 e.2.2.1
    else d) d
  let cut (p : Nat × Splice) : Nat × Splice :=
    (p.1, { p.2 with remotes := p.2.remotes.map fun g => if g.via c then { g with revoked := true } else g })
  let cutT (t : Nat × Tile) : Nat × Tile := (t.1, { t.2 with splices := t.2.splices.map cut })
  let d : Dev := { d with tiles := d.tiles.map cutT }
  d.tiles.foldl (fun d t => t.2.queues.foldl (fun d q => d.reopenVia t.1 q.1 c) d) d

/-- A context opens in a new incarnation (R414, R415). TXC starts at 0, but goes on where this side has already sent its OPEN in the
incarnation, for no nonce serves twice (R411). -/
def Dev.openCtx (d : Dev) (c incarn : Nat) : Dev :=
  let begun := d.ctxState c == 1 && d.get (NOP_CTX_STATE_INCARN c) == incarn
  let d := ((d.dropCtx c).set (NOP_CTX_STATE_STATE c) 2).set (NOP_CTX_STATE_INCARN c) incarn
  let d := (d.set (NOP_CTX_SEQ_NEXT_TX c) 0).set (NOP_CTX_SEQ_NEXT_RX c) 0
  let d := d.modCtx c fun x => { x with txc := if begun then x.txc else 0, incarnMax := max x.incarnMax incarn, lastRx := d.now }
  if d.ctxKind c = 1 then d.reopenPeer c else d

/-- The retransmission budget of a context is exhausted (R414, R417): the outstanding requests of its partition note it. -/
def Dev.exhaustCtx (d : Dev) (c : Nat) : Dev :=
  let p := d.ctxPart c
  let note (r : Request) : Request := if r.part = p ∧ r.budget = none then { r with budget := some c } else r
  let d : Dev := { d with reqs := d.reqs.map note }
  d.closeCtx c 4 (if d.ctxKind c = 1 then 3 else 0)

/-! ## Retransmission (R417, R418) -/

/-- The RECORD of KIND 5 (R418). -/
def Dev.recoverRecord (d : Dev) (c cause : Nat) (m : TxMsg) : List Byte :=
  leBytes 2 c ++ leBytes 1 cause ++ leBytes 1 m.tries ++ leBytes 4 m.seq ++ timeBytes d.now
/-- Retransmits from the oldest unacknowledged message, under the budget (R417). -/
def Dev.resend (d : Dev) (c : Nat) : Dev :=
  let x := d.ctx c
  if x.unacked.isEmpty then d
  else if x.unacked.any fun m => !m.again && decide (d.get (NOP_CTX_CFG_RETRY_MAX c) + 1 ≤ m.tries) then d.exhaustCtx c
  else d.modCtx c fun x => { x with unacked := x.unacked.map fun m => { m with again := true } }
/-- The retransmission decision on an RTO expiry (cause 0) or a NAK (cause 1): by the device, or reported to the host. A
pending change of NOPRA_RECOVERY takes effect here (R32). -/
def Dev.recover (d : Dev) (c cause : Nat) : Dev :=
  let d := d.applyPend 6
  match (d.ctx c).unacked with
  | [] => d
  | m :: _ => if d.duty 6 then d.push 5 (d.recoverRecord c cause m) else d.resend c

/-- Acknowledgement up to `a` (R416). -/
def Dev.acked (d : Dev) (c a : Nat) : Dev :=
  let gone := ((d.ctx c).unacked.filter fun m => decide (m.seq < a)).filterMap (·.record)
  let d := d.modCtx c fun x => { x with unacked := x.unacked.filter fun m => decide (a ≤ m.seq) }
  { d with nop := { d.nop with meterSent := d.nop.meterSent.filter fun q => !gone.contains q } }

/-! ## Receipt (R411, R412, R416) -/

/-- An acknowledgement is owed. -/
def Dev.ackOwed (d : Dev) (c : Nat) : Dev :=
  match (d.ctx c).ackDue with
  | some _ => d
  | none => (d.modCtx c fun x => { x with ackDue := some d.nop.nextNo }).number

/-- No boot image runs yet, so that few messages are served (R468). -/
def Dev.booting (d : Dev) : Bool := d.get SEC_BOOT_STATUS_STATE != 6

/-- The datagram is the device's to take (R409): its destination port is NOP_CFG.UDP and its checksum is right, or 0 under IPv4. -/
def Dev.hears (d : Dev) (h : NHdr) : Bool :=
  h.dport == d.get NOP_CFG_UDP && (h.sum == .good || (h.sum == .zero && d.is (ETH_P_CTRL_IPV h.port.val)))
/-- LEN is that of a payload of n bytes, and no more than a message carries (R409, R412). -/
def hasLen (h : NHdr) (n : Nat) : Bool := h.len == n && decide (n ≤ 8192)

/-- A Nopra message reaches the device (R409, R412, R416): accepted, acknowledged and put in sequence; `k` is what a good message
of its type does, and `reply` answers one that is malformed, or not served while the device boots (R468). `seqd` says
whether its type is sequenced, `boot` whether it is served before the boot image runs, and `ok` whether LEN is one its type allows. -/
def Dev.nopraRx (d : Dev) (h : NHdr) (seqd boot ok : Bool) (reply : Byte → Dev → Dev) (k : Dev → Dev) : Dev :=
  let c := h.dctx.val
  if !d.hears h then d
  else if d.ethState h.port.val ≠ ethUp || d.ctxState c ≠ 2 then d.ctxDrop c 1
  else if !h.authOk then d.add (NOP_CTX_COUNT_V c 1) 1
  else if h.incarn ≠ d.get (NOP_CTX_STATE_INCARN c) then d.ctxDrop c 1
  else
    let d := (d.set (NOP_CTX_ADDR0_V c) (h.src / 2 ^ 64)).set (NOP_CTX_ADDR1_V c) h.src
    let d := d.modCtx c fun x => { x with lastRx := d.now }
    let d := if h.ackv then d.acked c h.ack else d
    let d := if h.nak then d.recover c 1 else d
    let give (d : Dev) : Dev :=
      if h.reserved then d.ctxDrop c 1
      else if !(h.version == 1 && ok && h.seqv == seqd) then reply 0x42 (d.ctxDrop c 1)
      else if d.booting && !boot then reply 0x43 d
      else k d
    if d.ctxState c ≠ 2 then d
    else if !h.seqv then give d
    else
      let e := d.get (NOP_CTX_SEQ_NEXT_RX c)
      if h.seq < e then d.ackOwed c
      else if e < h.seq then
        if (d.ctx c).nakFor = some e then d
        else (d.ackOwed c).modCtx c fun x => { x with nakDue := true, nakFor := some e }
      else give ((d.set (NOP_CTX_SEQ_NEXT_RX c) (e + 1)).ackOwed c)

/-- A message of a type that has no reply. -/
def Dev.nopraPlain (d : Dev) (h : NHdr) (seqd boot ok : Bool) (k : Dev → Dev) : Dev := d.nopraRx h seqd boot ok (fun _ d => d) k

/-! ## Items (R424) -/

/-- TYPE of the message that carries an item. -/
def itemType : RemoteItem → Nat
  | .queue _ _ _ _ _ _ _ _ _ _ _ _ => 0x10
  | .splice _ _ _ _ _ _ _ _ => 0x11
  | .hitch _ _ _ => 0x12
  | .credit _ _ _ _ _ _ _ _ => 0x13
/-- COUNT limit of a type (R423). -/
def itemLimit (type : Nat) : Nat := if type = 0x10 then 64 else if type = 0x11 then 30 else 1000
/-- Bytes of an item of a type (R424). -/
def itemSize (type : Nat) : Nat := if type = 0x10 then 80 else if type = 0x11 then 272 else 8
/-- Layout of an item (R424). -/
def itemBytes : RemoteItem → List Byte
  | .queue dt q ep user st sr df sf light len ss data =>
    beBytes 1 dt ++ beBytes 1 q ++ beBytes 2 ep ++ beBytes 2 user ++ beBytes 1 st ++ beBytes 1 sr ++
      beBytes 1 (df % 8 + sf % 8 * 8 + if light then 64 else 0) ++ beBytes 1 (len - 1) ++ beBytes 1 (ss % 8) ++ zeros 5 ++ slice data 0 64
  | .splice dt k seq w st sr sf vs =>
    beBytes 1 dt ++ beBytes 1 k ++ beBytes 2 seq ++ beBytes 2 w ++ beBytes 1 st ++ beBytes 1 sr ++ beBytes 1 (sf % 8) ++ zeros 7 ++
      vs.flatMap (leBytes 4)
  | .hitch dt h ps => beBytes 1 dt ++ beBytes 1 h ++ beBytes 2 (ps.map (·.2)).sum ++ zeros 4
  | .credit _ wt wr kind wf n a b =>
    beBytes 1 wt ++ beBytes 1 wr ++ beBytes 1 (kind % 16 + wf % 8 * 16) ++ beBytes 1 n ++ beBytes 2 a ++ beBytes 2 b

/-- Hitch tokens for one hitch that wait for the same message are one item (R424), which keeps what came from each tile. -/
def mergeHitch (dt h : Nat) (ps : List (Nat × Nat)) : List (Nat × RemoteItem) → Option (List (Nat × RemoteItem))
  | [] => none
  | (i, .hitch dt' h' qs) :: r =>
    if dt' = dt ∧ h' = h ∧ (qs.map (·.2)).sum + (ps.map (·.2)).sum < 2 ^ 16 then some ((i, .hitch dt h (qs ++ ps)) :: r)
    else (mergeHitch dt h ps r).map ((i, .hitch dt' h' qs) :: ·)
  | x :: r => (mergeHitch dt h ps r).map (x :: ·)
/-- An item joins those that wait at a context's endpoint; a context that is not open discards it (R414, R424). -/
def Dev.queueItem (d : Dev) (c : Nat) (it : RemoteItem) : Dev :=
  if d.ctxState c ≠ 2 then d.ctxDrop c 1
  else
    let merged := match it with
      | .hitch dt h ps => mergeHitch dt h ps (d.ctx c).items
      | _ => none
    match merged with
    | some l => d.modCtx c fun x => { x with items := l }
    | none => (d.modCtx c fun x => { x with items := x.items ++ [(d.nop.nextNo, it)] }).number

/-- The items of one message: the oldest of those a choice allows and those of its type that follow, up to the limit. -/
def packRun (ok : Nat → Bool) (items : List (Nat × RemoteItem)) : List (Nat × RemoteItem) :=
  match items.filter fun i => ok (itemType i.2) with
  | [] => []
  | i :: r => (i :: r.takeWhile fun j => itemType j.2 == itemType i.2).take (itemLimit (itemType i.2))
/-- The message that carries them. -/
def packMsg (part c : Nat) (run : List (Nat × RemoteItem)) : TxMsg :=
  match run with
  | [] => TxMsg.init
  | i :: _ =>
    { mkMsg (itemType i.2) part c true (beBytes 2 run.length ++ zeros 6 ++ run.flatMap fun j => itemBytes j.2) with no := i.1 }

/-! ## What a port sends next (R420, R421) -/

/-- A message that may be sent: its place in the order, its context, where it comes from, the message, and the numbers of
the items packed into it. -/
inductive TxFrom where
  | ack | again | queued | items | opened
  deriving DecidableEq, Repr
structure TxCand where
  cls : Nat
  no : Nat
  ctx : Nat
  via : TxFrom
  msg : TxMsg
  nos : List Nat
  deriving DecidableEq, Repr

/-- Types that go in open time before any partition's messages (R420). -/
def openType (t : Nat) : Bool :=
  [0x01, 0x02, 0x03, 0x05, 0x31, 0x42, 0x45, 0x50, 0x52, 0x54, txPtp, txLldp].contains t
/-- O of R421, or the overhead of a bare frame: FCS, preamble and gap. -/
def Dev.txOver (d : Dev) (n : Nat) (type : Nat) : Nat :=
  let sec := if (d.port n).sas.any (fun s => !s.rx) && type != txLldp then 24 else 0
  if txPtp ≤ type then 24 + sec else (if d.is (ETH_P_CTRL_IPV n) then 114 else 134) + sec
/-- Cycles that a message occupies its port (R421). -/
def Dev.txCycles (d : Dev) (n : Nat) (m : TxMsg) : Nat := ceilDiv ((m.payload.length + d.txOver n m.type) * 21) 2000

/-- Bytes of the unacknowledged messages of the ports of port n's I/O die (R416). -/
def Dev.heldBytes (d : Dev) (n : Nat) : Nat :=
  (d.ctxs.map fun e =>
    match d.ctxPort e.1 with
    | some k => if decide (k < 9) == decide (n < 9) then (e.2.unacked.map fun m => m.payload.length + 48).sum else 0
    | none => 0).sum
/-- A new sequenced message would find a limit full (R416). -/
def Dev.txFull (d : Dev) (n c : Nat) (m : TxMsg) : Bool :=
  m.seqd && (decide (256 ≤ (d.ctx c).unacked.length) || decide (2 ^ 25 < d.heldBytes n + m.payload.length + 48))

/-- What context c could send on its port: in a window of partition `w`, or outside every window (R420). -/
def Dev.ctxCands (d : Dev) (c : Nat) (w : Option Nat) : List TxCand :=
  let x := d.ctx c
  let p := d.ctxPart c
  let ackMsg := mkMsg 0x04 p c false []
  let ack (k : Nat) : List TxCand :=
    match x.ackDue with
    | some no => [⟨k, no, c, .ack, ackMsg, []⟩]
    | none => []
  let items (k : Nat) (ok : Nat → Bool) : List TxCand :=
    match packRun ok x.items with
    | [] => []
    | i :: r => [⟨k, i.1, c, .items, packMsg p c (i :: r), (i :: r).map (·.1)⟩]
  let first (v : TxFrom) (k : Nat) (l : List TxMsg) (ok : TxMsg → Bool) : List TxCand :=
    ((l.find? ok).map fun m => (⟨k, m.no, c, v, m, []⟩ : TxCand)).toList
  let note (t : Nat) : Bool := t == 0x12 || t == 0x13
  match w with
  | some q =>
    (if p = q then ack 0 ++ items 0 note ++ items 2 (fun t => !note t) else []) ++
      first .again 1 x.unacked (fun m => m.again && m.part == q && !openType m.type) ++
      first .queued 2 x.txq (fun m => m.part == q && !openType m.type)
  | none =>
    ack 1 ++ items 1 (fun _ => true) ++
      ((x.unacked.find? fun m => m.again).map fun m => (⟨if openType m.type then 0 else 1, m.no, c, .again, m, []⟩ : TxCand)).toList ++
      first .queued 0 x.txq (fun m => openType m.type) ++ first .queued 1 x.txq (fun m => !openType m.type)

/-- The first of two candidates. -/
def TxCand.before (a b : TxCand) : Bool := decide (a.cls < b.cls) || (a.cls == b.cls && decide (a.no ≤ b.no))
/-- The first of a list. -/
def firstCand : List TxCand → Option TxCand
  | [] => none
  | a :: r => match firstCand r with
    | none => some a
    | some b => some (if a.before b then a else b)

/-- The window at the present instant, and the cycles left in it; outside every window, the cycles to the next one, none
without windows (R419, R420). -/
def Dev.windowNow (d : Dev) (n : Nat) : Option Nat × Option Nat :=
  let pos := d.now % secLen % d.frameLen
  let ws := d.windows n
  match ws.find? fun w => decide (w.1 ≤ pos) && decide (pos < w.1 + w.2.1) with
  | some w => (some w.2.2, some (w.1 + w.2.1 - pos))
  | none =>
    (none, (ws.map fun w => if pos < w.1 then w.1 - pos else w.1 + d.frameLen - pos).foldl
      (fun m k => match m with | some x => some (min x k) | none => some k) none)

/-! ## Frames as bytes (R10, R403, R409 to R411) -/

/-- The 32-byte header of a message (R410). -/
def nopraHeader (dctx sctx : Nat) (m : TxMsg) : List Byte :=
  beBytes 1 1 ++ beBytes 1 m.type ++ beBytes 2 (boolBit m.seqd + 2 * boolBit m.ackv + 4 * boolBit m.nak) ++ beBytes 2 dctx ++
    beBytes 2 sctx ++ beBytes 4 m.incarn ++ beBytes 8 m.txc ++ beBytes 4 m.seq ++ beBytes 4 m.ack ++ beBytes 2 m.payload.length ++ zeros 2
/-- Header, payload and tag: under AES-256-GCM with the context's transmit key, but for a host's OPEN_ACK, whose tag is 16 zero bytes
(R411). -/
def nopraBytes (key : List Byte) (plain : Bool) (dctx sctx : Nat) (m : TxMsg) : List Byte :=
  let h := nopraHeader dctx sctx m
  h ++ (if plain then m.payload ++ zeros 16 else gcmSeal key (beBytes 4 m.incarn ++ beBytes 8 m.txc) h m.payload)

/-- The 16-bit words of a string of bytes, the last padded with 0, added up. -/
def sum16 : List Byte → Nat
  | [] => 0
  | [a] => a.toNat * 256
  | a :: b :: r => a.toNat * 256 + b.toNat + sum16 r
/-- The internet checksum of bytes that add up to k: the complement of the sum with its carries added in. -/
def inetSum (k : Nat) : Nat := if k = 0 then 0xFFFF else 0xFFFF - (if k % 0xFFFF = 0 then 0xFFFF else k % 0xFFFF)
/-- IP addresses of a port and of the partner as bytes (R438). -/
def ipBytes (v4 : Bool) (a : Nat) : List Byte := if v4 then beBytes 4 (a % 2 ^ 32) else beBytes 16 (a % 2 ^ 128)
/-- A UDP datagram between two addresses, its checksum always there (R409). -/
def udpBytes (src dst : List Byte) (sport dport : Nat) (body : List Byte) : List Byte :=
  let len := 8 + body.length
  let ports := beBytes 2 sport ++ beBytes 2 dport ++ beBytes 2 len
  let sum := inetSum (sum16 src + sum16 dst + 17 + len + sum16 ports + sum16 body)
  ports ++ beBytes 2 (if sum = 0 then 0xFFFF else sum) ++ body
/-- An IP datagram that carries UDP (R403, R409): no options, never a fragment. -/
def ipDatagram (v4 : Bool) (free dscp : Nat) (src dst udp : List Byte) : List Byte :=
  let tc := dscp % 64 * 4 + Config.headerField free 0 % 4
  if v4 then
    let a := beBytes 1 0x45 ++ beBytes 1 tc ++ beBytes 2 (20 + udp.length) ++ beBytes 2 (Config.headerField free 3 % 2 ^ 16) ++
      beBytes 2 (Config.headerField free 4 % 2 * 2 ^ 14) ++ beBytes 1 (Config.headerField free 2 % 256) ++ beBytes 1 17
    a ++ beBytes 2 (inetSum (sum16 a + sum16 src + sum16 dst)) ++ src ++ dst ++ udp
  else
    beBytes 4 (6 * 2 ^ 28 + tc * 2 ^ 20 + Config.headerField free 1 % 2 ^ 20) ++ beBytes 2 udp.length ++ beBytes 1 17 ++
      beBytes 1 (Config.headerField free 2 % 256) ++ src ++ dst ++ udp

/-- The frame in which port n sends a message, before MACsec (R403, R409); a PTP or LLDP frame is its own bytes. -/
def Dev.frameBytes (d : Dev) (n : Nat) (m : TxMsg) : List Byte :=
  if txPtp ≤ m.type then m.payload
  else
    let v4 := d.is (ETH_P_CTRL_IPV n)
    let c := m.ctx
    let peer : Nat × Nat := match m.replyTo with
      | some e => e
      | none => (d.get (NOP_CTX_ADDR0_V c) * 2 ^ 64 + d.get (NOP_CTX_ADDR1_V c), d.get (NOP_CTX_CFG_RCTX c))
    let own := if m.replyTo.isSome then Config.headerField d.free 5 % 4096 else c
    let src := ipBytes v4 (d.get (ETH_P_IP0_V n) * 2 ^ 64 + d.get (ETH_P_IP1_V n))
    let dst := ipBytes v4 peer.1
    let plain := m.type == 0x02 && (m.replyTo.isSome || d.ctxKind c == 2)
    beBytes 6 (Config.nextHop n peer.1) ++ beBytes 6 (d.get (ETH_P_MAC_MAC n)) ++ (if v4 then [0x08, 0x00] else [0x86, 0xDD]) ++
      ipDatagram v4 d.free (d.get NOP_CFG_DSCP) src dst
        (udpBytes src dst (0xC000 + own) (d.get NOP_CFG_UDP) (nopraBytes (d.ctx c).txKey plain peer.2 own m))

/-- The association that port n sends under: the one installed last (R405). -/
def Port.txSa (p : Port) : Option Sa := (p.sas.filter fun a => !a.rx).getLast?
/-- A frame under MACsec (R405, IEEE 802.1AE): a SecTAG without SCI after the addresses, the rest encrypted, and the ICV. -/
def Dev.macsecBytes (d : Dev) (n : Nat) (a : Sa) (f : List Byte) : List Byte :=
  let body := f.drop 12
  let head := f.take 12 ++ [0x88, 0xE5, BitVec.ofNat 8 (Config.headerField d.free 6 % 2 * 64 + 12 + a.an % 4),
    BitVec.ofNat 8 (if body.length < 48 then body.length else 0)] ++ beBytes 4 (a.next % 2 ^ 32)
  let nonce := if d.is (ETH_P_CTRL_XPN n) then xorBytes (beBytes 4 a.ssci ++ beBytes 8 a.next) a.salt
    else beBytes 6 (d.get (ETH_P_MAC_MAC n)) ++ [0, 1] ++ beBytes 4 a.next
  head ++ gcmSeal a.sak nonce head body
/-- Port n sends a frame: its bytes as they leave, and the packet number that it used (R405). -/
def Dev.wireOut (d : Dev) (n : Nat) (m : TxMsg) : Dev :=
  let f := d.frameBytes n m
  match (if m.type = txLldp then none else (d.port n).txSa) with
  | none => d.modPort n fun y => { y with wire := f }
  | some a => d.modPort n fun y =>
    { y with wire := d.macsecBytes n a f, sas := y.sas.map fun b => if b = a then { b with next := b.next + 1 } else b }

/-- Takes a sent message out of where it waited. -/
def Dev.takeCand (d : Dev) (n : Nat) (x : TxCand) (m : TxMsg) : Dev :=
  match x.via with
  | .ack => d
  | .opened => d.modPort n fun y => { y with openq := y.openq.filter fun k => k.no != x.no }
  | .again => d.modCtx x.ctx fun y => { y with unacked := y.unacked.map fun k => if k.seq = m.seq then m else k }
  | .queued =>
    d.modCtx x.ctx fun y =>
      { y with txq := y.txq.filter (fun k => k.no != x.no), unacked := if m.seqd then y.unacked ++ [m] else y.unacked }
  | .items =>
    d.modCtx x.ctx fun y =>
      { y with items := y.items.filter (fun i => !x.nos.contains i.1), unacked := y.unacked ++ [m] }

/-- The final RES of a request leaves port H (R64, R71): it is delivered when its last byte has left. -/
def Dev.delivered (d : Dev) (m : TxMsg) (upTo : Nat) : Dev :=
  match d.requestOf m with
  | none => d
  | some r =>
    let gap := upTo - d.tick
    let late := match r.promise with
      | some t => !r.late && decide (t < d.now + gap)
      | none => false
    let d := if late then (d.toTime (r.promise.getD 0)).miss r else d
    (d.toTick upTo).endRequest r

/-- STATUS of a RES as it is sent: OK becomes LATE after a missed-promise record (R71, R431). -/
def Dev.resStatus (d : Dev) (m : TxMsg) : TxMsg :=
  if m.type = 0x32 && m.tries = 0 &&
      ((d.requestOf m).any fun r => r.late) && m.payload.getD 8 0 == 0 then
    { m with payload := m.payload.set 8 1 }
  else m

/-- Sends a chosen message on port n. -/
def Dev.sendCand (d : Dev) (n : Nat) (x : TxCand) : Dev :=
  let len := x.msg.payload.length
  let ov := d.txOver n x.msg.type
  let upTo := d.tick + d.txCycles n x.msg
  let bare := x.via == .opened
  let m := if bare then x.msg else d.stamp x.ctx (d.resStatus x.msg)
  let d := if bare then d else d.spend x.ctx (m.seqd && x.via != .again)
  let d := (d.wireOut n m).draw
  let d := d.takeCand n x m
  let d := if bare then d else d.modCtx x.ctx fun y => { y with waits := y.waits.filter (· != x.no) }
  let d := (d.add (ETH_P_COUNT_V n 0) 1).add (ETH_P_COUNT_V n 6) (len + ov - 20)
  let d := d.modPort n fun y => { y with busyUntil := upTo, last := some m }
  let d := if x.via = .again then d.add (NOP_CTX_COUNT_V x.ctx 0) 1 else d
  let d :=
    if m.type = 0x32 && n == 0 then
      { d with nop := { d.nop with resBytes := mset d.nop.resBytes m.part (mget d.nop.resBytes 0 m.part + len) } }
    else d
  let d := if m.type = txPtp && m.seqd then
      (d.queueMsg m.ctx (mkMsg 0x56 0 m.ctx true
        (beBytes 4 (m.tag.toNat % 2 ^ 32) ++ zeros 2 ++ beBytes 2 ((Config.txFrac d.free).toNat * 1024) ++ beBytes 4 (d.now / secLen) ++
          beBytes 4 (d.now % secLen)))).draw
    else d
  let d := if m.last && x.via == .queued then d.delivered m upTo else d
  -- a context closes before a counter runs out (R411)
  if !bare && (d.get (NOP_CTX_SEQ_NEXT_TX x.ctx) == 2 ^ 32 - 2 || decide (2 ^ 64 - 2 ≤ (d.ctx x.ctx).txc)) then
    (d.sendClose x.ctx 0).closeCtx x.ctx 1 0
  else d

/-- A port starts its next message, if one is ready and may start (R404, R416, R420). -/
def Dev.transmit (d : Dev) (n : Nat) : Dev :=
  let st := d.ethState n
  if st < ethLinked then d
  else
    let w := d.windowNow n
    let all : List TxCand := if st = ethUp then
        (d.ctxs.filter fun e => d.ctxPort e.1 == some n).flatMap fun e => d.ctxCands e.1 w.1
      else []
    let full := all.filter fun x => x.via != .again && d.txFull n x.ctx x.msg
    let d := full.foldl (fun d x => d.modCtx x.ctx fun y =>
      if y.waits.contains x.no then y else { y with waited := y.waited + 1, waits := y.waits ++ [x.no] }) d
    let bare := (d.port n).openq.filter fun m => st = ethUp || txPtp ≤ m.type
    let opened : List TxCand := if w.1.isSome then [] else bare.map fun m => ⟨0, m.no, m.ctx, .opened, m, []⟩
    match firstCand ((all.filter fun x => !(x.via != .again && d.txFull n x.ctx x.msg)) ++ opened) with
    | none => d
    | some x =>
      match w.2 with
      | some room => if d.txCycles n x.msg ≤ room then d.sendCand n x else d
      | none => d.sendCand n x

/-! ## Pushed records (R434) -/

/-- Kinds of telemetry sets 1 and 2 among the records that wait (R545). -/
def pushTelem (set : Nat) : Nat := 0x100 + set
/-- The message that carries a record. -/
def pushMsg (c : Nat) (r : PushRec) : TxMsg :=
  if r.kind = pushPtp then mkMsg 0x54 0 c true r.bytes
  else if 0x100 ≤ r.kind then
    mkMsg 0x52 0 c true (beBytes 2 (r.kind - 0x100) ++ zeros 2 ++ beBytes 4 r.bytes.length ++ r.bytes)
  else mkMsg 0x50 0 c true (beBytes 2 r.kind ++ beBytes 2 1 ++ zeros 4 ++ r.bytes)
/-- Records of a kind are pushed; meter records have a command of their own. -/
def Dev.pushes (d : Dev) (k : Nat) : Bool := k == pushPtp || (k != 3 && !d.duty 10)
/-- A context is named for pushed messages and open, and the DMC runs (R434, R437). -/
def Dev.pushReady (d : Dev) : Bool :=
  d.is NOP_PUSH_VALID && d.ctxState (d.get NOP_PUSH_CTX) == 2 && d.ctxKind (d.get NOP_PUSH_CTX) == 2 && !d.dmcDown
/-- The records that wait go to the context named in NOP_PUSH, in the order written. -/
def Dev.pumpPush (d : Dev) : Dev :=
  if d.pushReady then
    let c := d.get NOP_PUSH_CTX
    let go := d.nop.pushq.filter fun r => d.pushes r.kind
    go.foldl (fun d r => d.queueMsg c (pushMsg c r)) { d with nop := { d.nop with pushq := d.nop.pushq.filter fun r => !d.pushes r.kind } }
  else d

/-- PORT_TRANSMIT (R420, R421). -/
def execPortTransmit (port : PortId) (s : State) :=
  run (fun d =>
    let n := port.val
    let d := d.toTick (d.port n).busyUntil
    (if n = 0 then d.pumpPush else d).transmit n) s

end Sys2Proof.Machine
end

