-- ==== Sys2Proof/Machine/Peer.lean ====
section
/-! DEFINITION. The commands of Nopra contexts (R414 to R418, R428, R435) and the messages between devices: remote queues,
splices, hitches and credits (R424 to R426), and remote memory (R427). -/

namespace Sys2Proof.Machine

/-! ## Opening and closing (R414, R428) -/

/-- A write of NOP_CTXc_STATE (R414, R439): OPEN on a CLOSED or FAILED PEER context that has keys; CLOSE on an open one. -/
def Dev.ctxStateWr (d : Dev) (c : Cred) (k v : Nat) : Dev × Byte :=
  ownerWr c d fun d =>
    let d :=
      if bit v 6 = 1 && d.ctxState k == 2 then (d.sendClose k 2).closeCtx k 3 0 else d
    if bit v 7 = 1 && d.ctxKind k == 1 && (d.ctxState k == 0 || d.ctxState k == 3) && (d.ctx k).keyed then
      let i := (d.ctx k).incarnMax + 1
      let d := ((d.set (NOP_CTX_STATE_STATE k) 1).set (NOP_CTX_STATE_INCARN k) i).modCtx k fun x =>
        { x with incarnMax := i, openedAt := d.tick, txc := 0 }
      (d.queueMsg k (mkMsg 0x01 0 k false (beBytes 4 i ++ beBytes 2 1 ++ zeros 2)), stOk)
    else (d, stOk)
/-- CONTEXT_OPEN (R414). -/
def execContextOpen (cred : Cred) (ctx : CtxId) (s : State) := run (fun d => ended (d.ctxStateWr cred ctx.val 0x80)) s
/-- CONTEXT_CLOSE (R414). -/
def execContextClose (cred : Cred) (ctx : CtxId) (s : State) := run (fun d => ended (d.ctxStateWr cred ctx.val 0x40)) s

/-- An OPENING context gives up (R414). -/
def Dev.openFailed (d : Dev) (c why : Nat) : Dev := ((d.dropCtx c).set (NOP_CTX_STATE_STATE c) 0).set (NOP_CTX_STATE_REASON c) why
/-- OPEN_TIMEOUT (R414): 10,500,000 cycles without an OPEN_ACK. -/
def execOpenTimeout (ctx : CtxId) (s : State) :=
  run (fun d =>
    let c := ctx.val
    if d.ctxState c = 1 then (d.toTick ((d.ctx c).openedAt + 10500000)).openFailed c 5 else d) s

/-- OPEN_ACK of a PEER context: INCARN, STATUS, CTX (R423). -/
def Dev.openAck (d : Dev) (c incarn : Nat) (st : Byte) : Dev :=
  d.queueMsg c (mkMsg 0x02 0 c false (beBytes 4 incarn ++ [st, 0] ++ beBytes 2 c))

/-- An OPEN reaches PEER context c in incarnation i (R414, R435), which counts among those used: accepted above every incarnation used, and on a tie won by the
other side; else answered STALE_INCARN. A FAILED context waits for its own OPEN. -/
def Dev.peerOpen (d : Dev) (c sctx i versions : Nat) : Dev :=
  let st := d.ctxState c
  let top := (d.ctx c).incarnMax
  let wins := if st = 1 then decide (top < i) || (i == top && decide (sctx < c)) else decide (top < i)
  let d := d.modCtx c fun x => { x with incarnMax := max top i }
  if st = 3 && top < i then d.ctxDrop c 1
  else if !wins then d.openAck c top 0x44
  else if versions % 2 = 0 then d.openAck c i 0x45
  else ((d.openCtx c i).openAck c i stOk).sendCaps c

/-- The CT of an OPEN_ACK, and the bytes of a host's OPEN (R423, R428). -/
def openCt (no : Nat) : List Byte := (List.range 1568).map (Config.ctByte no)
def openBytes (m : OpenMsg) : List Byte := beBytes 4 m.incarn ++ beBytes 2 m.versions ++ zeros 2 ++ m.ek.getD []
/-- CDI0 of the device: from its secret and the ROM of the security engine (R451). -/
def Dev.cdi0 (d : Dev) : List Byte := sha3 (d.fuses.uds ++ romDigest 2)
/-- Seed of the device identity key (R451). -/
def Dev.devidSeed (d : Dev) : List Byte := (sha3 (d.cdi0 ++ [1])).take 32
/-- Seed of the alias key, which the running boot image's digest and svn fix, or 64 zero bytes and 0 before one runs (R451). -/
def Dev.aliasSeed (d : Dev) : List Byte :=
  (sha3 (sha3 (d.cdi0 ++ slice d.sec.aliasDigest 0 64 ++ leBytes 4 d.sec.aliasSvn) ++ [2])).take 32
/-- A signature by the alias key. -/
def Dev.aliasSig (d : Dev) (bs : List Byte) : List Byte := (List.range 4627).map (Config.signByte 3 (d.aliasSeed ++ bs))

/-- A host's OPEN takes the lowest-numbered free context of KIND 2, with the keys that both sides derive (R428). DESIGN CHOICE (log 33):
INCARN enters the derivation as the four bytes of the message. -/
def Dev.hostOpen (d : Dev) (h : NHdr) (m : OpenMsg) : Dev :=
  let refuse (st : Byte) : Dev :=
    d.queueOpen 0 { mkMsg 0x02 0 0xFFFF false (beBytes 4 m.incarn ++ [st, 0] ++ beBytes 2 0xFFFF) with
      incarn := m.incarn, replyTo := some (h.src, h.sctx) }
  if h.version ≠ 1 || !hasLen h 1576 then refuse 0x42
  else if m.versions % 2 = 0 then refuse 0x45
  else
    match (List.range 4096).find? fun c => d.ctxKind c == 2 && d.ctxState c == 0 with
    | none => refuse 0x43
    | some c =>
      let k := sha3 ((List.range 32).map (Config.sharedByte d.free) ++ sha3 (m.ek.getD []) ++ beBytes 4 m.incarn)
      let d := d.openCtx c m.incarn
      let d := (d.set (NOP_CTX_ADDR0_V c) (h.src / 2 ^ 64)).set (NOP_CTX_ADDR1_V c) h.src
      let d := (d.set (NOP_CTX_CFG_RCTX c) h.sctx).modCtx c fun x =>
        { x with cred := .none, challenge := none, tkey := [], ek := m.ek.getD [], incarnMax := m.incarn,
                 rxKey := slice k 0 32, txKey := slice k 32 32 }
      let bs := beBytes 4 m.incarn ++ [stOk, 0] ++ beBytes 2 c ++ openCt d.free
      (d.queueMsg c (mkMsg 0x02 0 c false (bs ++ d.aliasSig (openBytes m ++ bs)))).draw

/-- OPEN (R414, R428). -/
def execOpenRx (h : NHdr) (m : OpenMsg) (s : State) :=
  run (fun d =>
    if h.reserved then d.nopraPlain h false true true fun d => d
    else if !d.hears h then d
    else
      match m.ek with
      | some _ => if d.ethState h.port.val = ethUp && h.port.val == 0 then d.hostOpen h m else d
      | none =>
        let c := h.dctx.val
        if d.ethState h.port.val ≠ ethUp then d.ctxDrop c 1
        else if d.ctxKind c ≠ 1 || d.booting then d.ctxDrop c 1
        else if !h.authOk || !(d.ctx c).keyed then d.add (NOP_CTX_COUNT_V c 1) 1
        else if h.version ≠ 1 || !hasLen h 8 then (d.ctxDrop c 1).openAck c m.incarn 0x42
        else
          let d := (d.set (NOP_CTX_ADDR0_V c) (h.src / 2 ^ 64)).set (NOP_CTX_ADDR1_V c) h.src
          d.peerOpen c h.sctx m.incarn m.versions) s

/-- OPEN_ACK (R414): with status OK for the incarnation that this side opened, the context opens; another status closes
it. CAPS goes out as it opens (R435). -/
def execOpenAck (h : NHdr) (incarn : Nat) (status : Byte) (s : State) :=
  run (fun d =>
    let c := h.dctx.val
    if h.reserved then d.nopraPlain h false true true fun d => d
    else if !d.hears h then d
    else if d.ethState h.port.val ≠ ethUp || d.ctxState c ≠ 1 || h.version ≠ 1 || !hasLen h 8 then d.ctxDrop c 1
    else if !h.authOk then d.add (NOP_CTX_COUNT_V c 1) 1
    else if status = stOk then
      if incarn = d.get (NOP_CTX_STATE_INCARN c) then (d.openCtx c incarn).sendCaps c else d.ctxDrop c 1
    else
      (d.modCtx c fun x => { x with incarnMax := max x.incarnMax incarn }).openFailed c
        (if status = 0x45 then 6 else (Config.openReason status).toNat)) s

/-- CLOSE (R414, R423). -/
def execCloseRx (h : NHdr) (reason : Byte) (s : State) :=
  run (fun d => d.nopraPlain h true true (hasLen h 8) fun d =>
    d.closeCtx h.dctx.val (if reason.toNat ≤ 2 then reason.toNat + 1 else 1) 0) s
/-- ACK (R416). -/
def execAckRx (h : NHdr) (s : State) := run (fun d => d.nopraPlain h false true (hasLen h 0) fun d => d) s
/-- CAPS (R435): recorded; without a common version the context is closed. -/
def execCapsRx (h : NHdr) (body : List Byte) (s : State) :=
  run (fun d => d.nopraPlain h true false (hasLen h 88) fun d =>
    let c := h.dctx.val
    let d := d.modCtx c fun x => { x with caps := some body }
    if (body.getD 1 0).getLsbD 0 then d else (d.sendClose c 0).closeCtx c 6 0) s

/-- HOST_IDLE_TIMEOUT (R428): 60 s of device time without an accepted message. -/
def execHostIdleTimeout (ctx : CtxId) (s : State) :=
  run (fun d =>
    let c := ctx.val
    if d.ctxKind c = 2 && d.ctxState c == 2 then
      ((d.toTime ((d.ctx c).lastRx + 60 * secLen)).sendClose c 1).closeCtx c 2 0
    else d) s

/-! ## Retransmission (R417, R418) -/

/-- An uncorrectable error in the retransmission buffer of context c (R498): recorded, and the context fails as under R414. -/
def Dev.bufferUe (d : Dev) (c : Nat) : Dev :=
  let d := d.log { cls := 2, sev := 3, part := d.ctxPart c, unit := 11, detail := [0, BitVec.ofNat 8 rdRemote] }
  d.closeCtx c 4 (if d.ctxKind c = 1 then 3 else 0)

/-- One more expiry of the oldest unacknowledged message of context c has been told of (R418). -/
def Dev.tellOldest (d : Dev) (c : Nat) : Dev :=
  d.modCtx c fun x => { x with unacked := match x.unacked with | y :: r => { y with told := y.told + 1 } :: r | [] => [] }
/-- RTO_EXPIRY (R417, R418): the oldest unacknowledged message has waited RTO cycles since its latest transmission. `ue`
says that the buffer's check bits found an uncorrectable error as it was read for the retransmission (R498). -/
def execRtoExpiry (ctx : CtxId) (ue : Bool) (s : State) :=
  run (fun d =>
    let c := ctx.val
    match (d.ctx c).unacked with
    | [] => d
    | m :: _ =>
      if m.again then d
      else
        let d := d.toTick (m.sentAt + d.get (NOP_CTX_CFG_RTO c) * (m.told + 1))
        let d := d.tellOldest c
        if ue then d.bufferUe c else d.recover c 0) s

/-- A write of NOP_RECOVER (R418), which the device heeds only under NOPRA_RECOVERY 1. -/
def Dev.recoverWr (d : Dev) (c : Cred) (v : Nat) : Dev × Byte :=
  ownerWr c d fun d =>
    let k := NOP_RECOVER_CTX.of v
    let a := NOP_RECOVER_ACTION.of v
    if !d.duty 6 || d.ctxState k ≠ 2 then (d, stOk)
    else if a = 1 then (d.resend k, stOk)
    else if a = 2 then (d.exhaustCtx k, stOk)
    else (d, stOk)
/-- RECOVER_RETRANSMIT (R418). -/
def execRecoverRetransmit (cred : Cred) (ctx : CtxId) (s : State) :=
  run (fun d => ended (d.recoverWr cred (ctx.val * 2 ^ 32 + 1))) s
/-- RECOVER_EXHAUST (R418). -/
def execRecoverExhaust (cred : Cred) (ctx : CtxId) (s : State) :=
  run (fun d => ended (d.recoverWr cred (ctx.val * 2 ^ 32 + 2))) s

/-! ## Items between devices (R424 to R426) -/

/-- REMOTE_ITEM_ENQUEUE (R424): the oldest item that left a tile for a context on another device reaches its endpoint. -/
def execRemoteItemEnqueue (tile : TileId) (s : State) :=
  run (fun d =>
    match (d.tile tile.val).railOut.find? fun e => d.ctxKind e.1 != 3 with
    | none => d
    | some e =>
      let d := d.modTile tile.val fun t => { t with railOut := dropFirst (fun x => d.ctxKind x.1 != 3) t.railOut }
      d.queueItem e.1 e.2) s

/-- The tile of a remote grant's writer is the one that its items name (R424). -/
def learnTile (c stile sroute sfrond : Nat) (g : Grant) : Grant :=
  match g.writer with
  | .remote k _ f e => if k = c ∧ f = sfrond ∧ e = sroute then { g with writer := .remote c stile sfrond sroute } else g
  | _ => g
/-- A message of items for partition p's tiles on a PEER context; `n` items, `k` what they do. -/
def Dev.itemsRx (d : Dev) (h : NHdr) (type n : Nat) (k : Dev → Dev) : Dev :=
  d.nopraPlain h true false (hasLen h (8 + itemSize type * n) && decide (1 ≤ n) && decide (n ≤ itemLimit type)) fun d =>
    if d.ctxKind h.dctx.val = 1 then k d else d.ctxDrop h.dctx.val n

/-- A queue item reaches its tile (R424, R425); for a fenced tile the writer's route is revoked (R287). -/
def Dev.queueItemTo (d : Dev) (c : Nat) (it : QItem) : Dev :=
  let n := it.dtile.val
  if (d.tile n).part ≠ d.ctxPart c then d.ctxDrop c 1
  else if (d.tile n).fenced then
    (d.ctxDrop c 1).queueItem c (.credit 256 (it.stile % 256) (it.sroute % 128) 2 it.sfrond.val 0 0 0)
  else
    let d := d.modQueue n it.queue.val fun q => { q with grants := q.grants.map (learnTile c it.stile it.sroute it.sfrond.val) }
    d.entryArrive n it.queue.val
      { ref := .remote c it.stile it.sfrond.val it.sroute, frond := it.dfrond.val,
        tag := entryTag it.user c true it.sstrand it.stile it.len it.light it.dfrond.val,
        data := if it.light then it.data.take it.len else it.data, epoch := some it.epoch }
/-- QENTRY (R424, R425). -/
def execQentryRx (h : NHdr) (items : List QItem) (s : State) :=
  run (fun d => d.itemsRx h 0x10 items.length fun d => items.foldl (fun d i => d.queueItemTo h.dctx.val i) d) s

/-- A splice item reaches its splice (R426), if a remote grant of the splice names its route. -/
def Dev.spliceItemTo (d : Dev) (c : Nat) (it : SItem) : Dev :=
  let n := it.dtile.val
  let t := d.tile n
  let named (g : Grant) : Bool :=
    match g.writer with
    | .remote k _ f e => k == c && f == it.sfrond.val && e == it.sroute
    | _ => false
  if t.part ≠ d.ctxPart c then d.ctxDrop c 1
  else if t.fenced then
    (d.ctxDrop c 1).queueItem c (.credit 256 (it.stile % 256) (it.sroute % 128) 2 it.sfrond.val 0 0 0)
  else if !((t.splice it.splice.val).remotes.any fun g => named g && !g.revoked && !g.withdrawn) then d.msgCount n 5 1
  else
    let d := d.modTile n fun t => t.modSplice it.splice.val fun x =>
      { x with remotes := x.remotes.map (learnTile c it.stile it.sroute it.sfrond.val) }
    d.contribArrive n it.splice.val it.seq it.weight it.values [.remote c it.stile it.sfrond.val it.sroute]
/-- CONTRIB (R426). -/
def execContribRx (h : NHdr) (items : List SItem) (s : State) :=
  run (fun d => d.itemsRx h 0x11 items.length fun d => items.foldl (fun d i => d.spliceItemTo h.dctx.val i) d) s

/-- A hitch item reaches its tile (R426). -/
def Dev.hitchItemTo (d : Dev) (c : Nat) (it : HItem) : Dev :=
  let t := d.tile it.dtile.val
  if t.part ≠ d.ctxPart c || t.fenced then d.ctxDrop c 1 else d.tokens it.dtile.val it.hitch.val it.count
/-- HITCH (R426). -/
def execHitchRx (h : NHdr) (items : List HItem) (s : State) :=
  run (fun d => d.itemsRx h 0x12 items.length fun d => items.foldl (fun d i => d.hitchItemTo h.dctx.val i) d) s

/-- A credit item reaches the writing route (R269, R274, R425). -/
def Dev.creditItemTo (d : Dev) (c : Nat) (it : CItem) : Dev :=
  let n := it.wtile.val
  let f := it.wfrond.val
  let e := it.wroute.val
  let t := d.tile n
  let r := t.route f e
  if t.part ≠ d.ctxPart c || !r.remote || r.peer != c || r.type == 0 || t.held || t.clearing then d.ctxDrop c 1
  else
    match it.kind with
    | 1 => d.creditTo n f e 0 it.count
    | 2 => d.revokedTo n f e
    | 3 => d.closeTo n f e
    | 4 => if it.epochA = r.epoch then d.staleTo n f e else d
    | 5 => d.routeReopen n f e it.count it.epochB
    | 6 => if it.epochA = r.epoch then (d.staleTo n f e).routeReopen n f e it.count it.epochB else d
    | _ => d.ctxDrop c 1
/-- CREDIT (R425). -/
def execCreditRx (h : NHdr) (items : List CItem) (s : State) :=
  run (fun d => d.itemsRx h 0x13 items.length fun d => items.foldl (fun d i => d.creditItemTo h.dctx.val i) d) s

/-! ## Remote memory (R427) -/

/-- Partition whose ranges a context's access must lie in, 0 for the owner's; none without a credential. -/
def Dev.memRight (d : Dev) (c : Nat) : Option Nat :=
  if d.ctxKind c = 1 then (if d.ctxPart c = 0 then none else some (d.ctxPart c))
  else
    match (d.ctx c).cred with
    | .owner => some 0
    | .tenant p => if p.val = 0 then none else some p.val
    | _ => none

/-- A remote access begins (R427): refused, or put behind the context's earlier ones. -/
def Dev.remoteAccess (d : Dev) (c addr len tag : Nat) (isRead : Bool) (data : List Byte) : Dev :=
  match d.memRight c with
  | none => d.memAnswer c tag isRead stDenied
  | some p =>
    if d.memStatus p addr len ≠ stOk then d.memAnswer c tag isRead stDenied
    else
      let lo := d.pageOwner (memTier addr) (memPage addr)
      let d := d.modCtx c fun x =>
        { x with
          nextOp := x.nextOp + 1
          ops := x.ops ++ [{ RemoteOp.init with op := x.nextOp, tag := tag, isRead := isRead, part := lo, addr := addr, len := len, data := data }] }
      d.issueRemote c

/-- MREAD (R427). -/
def execMread (h : NHdr) (addr bytes tag : Nat) (s : State) :=
  run (fun d =>
    let c := h.dctx.val
    d.nopraRx h true false (hasLen h 16 && decide (1 ≤ bytes) && decide (bytes ≤ 8176))
      (fun st d => d.memAnswer c tag true st) fun d => d.remoteAccess c addr bytes tag true []) s
/-- MWRITE (R427). -/
def execMwrite (h : NHdr) (addr tag : Nat) (data : List Byte) (s : State) :=
  run (fun d =>
    let c := h.dctx.val
    d.nopraRx h true false (hasLen h (16 + data.length) && decide (1 ≤ data.length))
      (fun st d => d.memAnswer c tag false st) fun d => d.remoteAccess c addr data.length tag false data) s

end Sys2Proof.Machine
end

