-- ==== Sys2Proof/Machine/Boot.lean ====
section
/-! DEFINITION. The boot of the device (R461 to R469): the image's checks, the states of SEC_BOOT_STATUS, and the host
port's stream. -/

namespace Sys2Proof.Machine

/-! ## Flash and ROM -/

/-- A byte of the boot flash: cells hold the complement, so that an unlisted byte is erased, 0xFF. -/
def Dev.flashByte (d : Dev) (a : Nat) : Byte := cget d.fuses.flash a ^^^ 0xFF
/-- Bytes of the flash. -/
def Dev.flashRead (d : Dev) (a n : Nat) : List Byte := (List.range n).map fun i => d.flashByte (a + i)
/-- Where the image starts (R461). -/
def bootBase : Nat := 0x10000

/-! ## States (R465) -/

def bsRom : Nat := 0
def bsFetch : Nat := 1
def bsWait : Nat := 2
def bsReceive : Nat := 3
def bsVerify : Nat := 4
def bsApply : Nat := 5
def bsRun : Nat := 6
/-- State of the boot. -/
def Dev.bootState (d : Dev) : Nat := d.get SEC_BOOT_STATUS_STATE
/-- Length of the image by its header (R462). -/
def bootLength (b : List Byte) : Nat := fieldAt b 32 8

/-- The ROM brings port H up on its own (R468), and, since a host opens a context under R428, holds a HOST context for it:
context 0 where none is configured. -/
def Dev.bootPort (d : Dev) : Dev :=
  let id := d.deviceId
  let d :=
    if d.ethState 0 = ethDisabled then
      let d := d.set (ETH_P_CTRL_MEDIUM 0) (if bits d.pins.straps.toNat 2 1 = 1 then 1 else 0)
      let d := (d.set (ETH_P_CTRL_MACSEC_REQ 0) 0).set (ETH_P_CTRL_IPV 0) 0
      let d := d.set (ETH_P_MAC_MAC 0) (0x02 * 2 ^ 40 + leNat (slice id 0 5).reverse)
      let d := d.set (ETH_P_IP0_V 0) 0xFE80000000000000
      let d := d.set (ETH_P_IP1_V 0) (leNat (([0x00] ++ slice id 0 2 ++ [0xFF, 0xFE] ++ slice id 2 3).reverse))
      (d.set (ETH_P_CTRL_EN 0) 1).leavePort 0 ethTraining
    else d
  if (List.range 4096).any fun c => d.ctxKind c == 2 then d else d.set (NOP_CTX_CFG_KIND 0) 2

/-- WAIT_HOST is entered (R465, R468): bytes received are discarded. -/
def Dev.waitHost (d : Dev) : Dev :=
  let d : Dev := { d with sec := { d.sec with bootImg := [], bootCtx := none, bootDone := false } }
  (d.set SEC_BOOT_STATUS_STATE bsWait).bootPort
/-- An image is refused with a RESULT (R465, R466). -/
def Dev.bootRefuse (d : Dev) (code : Nat) : Dev :=
  ((d.add SEC_BOOT_STATUS_ATTEMPTS 1).set SEC_BOOT_STATUS_RESULT code).waitHost

/-! ## Checks (R466) -/

/-- Checks 1 to 6, made on the header: the RESULT of the first that fails, 0 for none. -/
def Dev.bootHeader (d : Dev) (b : List Byte) : Nat :=
  let f (o n : Nat) : Nat := fieldAt b o n
  let checks : List (Nat × Bool) := [
    (2, f 0 8 == 0x544F4F424E594C50 && f 8 2 == 1),
    (3, f 10 2 == 0x504C),
    (4, f 12 2 == 0x0256),
    (5, decide (d.fuses.stepping < 32) && bit (f 16 4) d.fuses.stepping == 1),
    (6, bit (f 20 4) 0 == 0 || slice b 64 64 == d.deviceId),
    (7, decide (d.fuses.svn ≤ f 24 4))]
  match checks.find? fun c => !c.2 with
  | some c => c.1
  | none => 0

/-- The frames of an image: type, offset, size (R463). -/
def bootFrames (b : List Byte) : List (Nat × Nat × Nat) :=
  (List.range (fieldAt b 28 4)).map fun i => (fieldAt b (128 + 32 * i) 2, fieldAt b (136 + 32 * i) 8, fieldAt b (144 + 32 * i) 8)
/-- Frames lie in ascending order, apart, between `lo` and `hi`. -/
def framesApart (lo hi : Nat) : List (Nat × Nat × Nat) → Bool
  | [] => true
  | f :: r => decide (lo ≤ f.2.1) && f.2.1 % 64 == 0 && decide (f.2.1 + f.2.2 ≤ hi) && framesApart (f.2.1 + f.2.2) hi r
/-- Check 8: the frame table (R463). -/
def bootTableOk (b : List Byte) : Bool :=
  let n := fieldAt b 28 4
  let fs := bootFrames b
  let count (t : Nat) : Nat := (fs.filter fun f => f.1 == t).length
  decide (1 ≤ n) && decide (n ≤ 64) && decide (128 + 32 * n + 7283 ≤ bootLength b) &&
  (List.range n).all (fun k => fieldAt b (128 + 32 * k + 2) 6 == 0 && fieldAt b (128 + 32 * k + 24) 8 == 0) &&
  fs.all (fun f => decide (1 ≤ f.1) && decide (f.1 ≤ 6)) && count 1 == 1 && count 2 == 1 &&
  [3, 4, 5, 6].all (fun t => decide (count t ≤ 1)) && framesApart (128 + 32 * n) (bootLength b - 7283) fs
/-- The first frame of a type. -/
def bootFrame (b : List Byte) (t : Nat) : List Byte :=
  match (bootFrames b).find? fun f => f.1 == t with
  | some f => slice b f.2.1 f.2.2
  | none => []

/-- The image digest, and the digest of the signer's key (R464). -/
def bootDigest (b : List Byte) : List Byte := sha3 (b.take (bootLength b - 7283))
def bootSigner (b : List Byte) : List Byte := sha3 (slice b (bootLength b - 7283 + 64) 2592)
/-- The owner image key signed, and not Huarnil's. -/
def Dev.ownerSigned (d : Dev) (b : List Byte) : Bool :=
  bootSigner b != romDigest 0 && (match d.fuses.imgKeys.getLast? with | some k => bootSigner b == k | none => false)

/-- Checks 8 to 11 (R466); whether the signature verifies comes with the command. -/
def Dev.bootChecks (d : Dev) (b : List Byte) (sigOk : Bool) : Nat :=
  if !bootTableOk b then 2
  else if slice b (bootLength b - 7283) 64 != bootDigest b then 8
  else if bootSigner b != romDigest 0 && !d.ownerSigned b then 9
  else if !sigOk then 0xA
  else 0

/-! ## Fetching and receiving -/

/-- BOOT_IMAGE_READ: the flash has been read (R461, R465, R466): the header's checks, and whether the image fits. -/
def execBootImageRead (s : State) :=
  run (fun d =>
    if d.bootState ≠ bsFetch then d
    else if d.fuses.flashSize = 0 then (d.set SEC_BOOT_STATUS_RESULT 0xB).waitHost
    else
      let h := d.flashRead bootBase 128
      let e := d.bootHeader h
      if e ≠ 0 then d.bootRefuse e
      else if bootBase + bootLength h ≤ d.fuses.flashSize && decide (bootLength h ≤ 2 ^ 26) then
        ({ d with sec := { d.sec with bootImg := d.flashRead bootBase (bootLength h), bootDone := true } } : Dev).set SEC_BOOT_STATUS_STATE bsVerify
      else d.bootRefuse 1) s

/-- What a stream holds after some bytes more (R465, R466): its header's checks once its 128 bytes are there, and
VERIFYING at its last byte. -/
def Dev.bootBytes (d : Dev) (bs : List Byte) : Dev :=
  let b := d.sec.bootImg ++ bs
  let d : Dev := { d with sec := { d.sec with bootImg := b, bootLast := d.tick } }
  if b.length < 128 then d
  else
    let e := d.bootHeader b
    if e ≠ 0 then d.bootRefuse e
    else if 2 ^ 26 < bootLength b then d.bootRefuse 1
    else if bootLength b ≤ b.length then
      ({ d with sec := { d.sec with bootImg := b.take (bootLength b), bootDone := true } } : Dev).set SEC_BOOT_STATUS_STATE bsVerify
    else d

/-- LOAD_DATA is answered BUSY (R468): the spec gives no type of message for it, so that its TYPE and bytes are free. -/
def Dev.loadBusy (d : Dev) (c offset : Nat) : Dev :=
  d.queueMsg c (mkMsg Config.loadBusyType 0 c true (Config.loadBusyBytes offset))
/-- LOAD_DATA with PART 0 on context c (R465, R468, R469): while one context streams an image, another's is answered BUSY. -/
def Dev.bootData (d : Dev) (c offset : Nat) (bs : List Byte) : Dev :=
  if d.bootState = bsWait && offset == 0 then
    let d : Dev := { d with sec := { d.sec with bootImg := [], bootCtx := some c } }
    ((d.set SEC_BOOT_STATUS_SOURCE 1).set SEC_BOOT_STATUS_STATE bsReceive).bootBytes bs
  else if d.bootState = bsReceive && d.sec.bootCtx == some c then
    if offset = d.sec.bootImg.length then d.bootBytes bs else d.bootRefuse 1
  else if d.bootState = bsReceive then d.loadBusy c offset
  else d.ctxDrop c 1
/-- LOAD_END with PART 0 on context c: early, it truncates the stream. -/
def Dev.bootEnd (d : Dev) (c : Nat) : Dev :=
  if d.bootState = bsReceive && d.sec.bootCtx == some c then d.bootRefuse 1 else d.ctxDrop c 1
/-- BOOT_STREAM_TIMEOUT (R466): 105,000,000 cycles without a byte. -/
def execBootStreamTimeout (s : State) :=
  run (fun d =>
    if d.bootState = bsReceive then (d.toTick (d.sec.bootLast + 105000000)).bootRefuse 1 else d) s

/-! ## Verification and application -/

/-- BOOT_VERIFY (R464 to R466): digest, signer and signature; the alias key is then derived from the image (R451). -/
def execBootVerify (sigOk : Bool) (s : State) :=
  run (fun d =>
    if d.bootState ≠ bsVerify then d
    else
      let b := d.sec.bootImg
      let e := d.bootChecks b sigOk
      if e ≠ 0 then d.bootRefuse e
      else
        let d := (d.flag SEC_BOOT_STATUS_SIGNER (d.ownerSigned b)).set SEC_BOOT_STATUS_STATE bsApply
        { d with sec := { d.sec with aliasDigest := bootDigest b, aliasSvn := fieldAt b 24 4 } }) s

/-- The eight 64-bit words of a digest into a row of registers. -/
def Dev.setDigest (d : Dev) (f : Nat → RF) (bs : List Byte) : Dev :=
  (List.range 8).foldl (fun d k => d.set (f k) (fieldAt bs (8 * k) 8)) d

/-- The port defaults frame (R463, R527): which ports it enables and which contexts it makes HOST slots is the frame's, whose
layout the spec does not give (log 1). -/
def Dev.portDefaults (d : Dev) (frame : List Byte) : Dev :=
  let d := (List.range 18).foldl (fun d n =>
    if d.ethState n = ethDisabled && Config.portDefault frame n then (d.set (ETH_P_CTRL_EN n) 1).leavePort n ethTraining else d) d
  (List.range 4096).foldl (fun d c => if Config.hostDefault frame c then d.set (NOP_CTX_CFG_KIND c) 2 else d) d

/-- The frames of an accepted image reach their consumers (R463, R527): port defaults, where there are any, and the memory units
begin to train. -/
def Dev.bootDefaults (d : Dev) (b : List Byte) : Dev :=
  let d := if (bootFrames b).any fun f => f.1 == 6 then d.portDefaults (bootFrame b 6) else d
  (List.range 20).foldl (fun d u => d.set (unitState u) usTrain) d
/-- The image runs (R465, R472, R527): its digests and SVN stand in the registers, and the training stage begins, in the mode
of MEM_TRAINING that then takes effect (R32). The management controller runs from here, and serves the needs of sparing that the fuses
have left (R505, R507). -/
def Dev.bootRun (d : Dev) (b : List Byte) : Dev :=
  let d := d.set SEC_SVN_IMAGE_SVN (fieldAt b 24 4)
  let d := (d.setDigest SEC_IMAGE_DIGEST_V (bootDigest b)).setDigest SEC_DMC_DIGEST_V (sha3 (bootFrame b 1))
  let d : Dev := { d with sec := { d.sec with
    dmcFrame := bootFrame b 1, tileFrame := bootFrame b 2, powerFrame := bootFrame b 5, bootImg := [], bootCtx := none } }
  ((((d.set SEC_BOOT_STATUS_STATE bsRun).set SEC_BOOT_STATUS_RESULT 0).set DMC_STATUS_STAGE 2).applyPend 5).resumeSparing

/-- BOOT_APPLY (R465, R480, R527): every frame is accepted and the DMC starts, or a consumer refuses the frame of an index. -/
def execBootApply (refused : Option (Fin 64)) (s : State) :=
  runM (fun d =>
    if d.bootState ≠ bsApply then d
    else
      match refused with
      | some k => (({ d with sec := { d.sec with aliasDigest := [], aliasSvn := 0 } } : Dev).set SEC_BOOT_STATUS_FRAME k.val).bootRefuse 0xC
      | none =>
        let b := d.sec.bootImg
        (d.bootDefaults b).bootRun b) s

end Sys2Proof.Machine
end

