-- ==== Sys2Proof/Machine/Host.lean ====
section
/-! DEFINITION. Admission (R60 to R77, R80) and the host protocol: REQ, DECISION and results (R429 to R431), image streams
(R433), records on demand and PTP frames (R434). -/

namespace Sys2Proof.Machine

/-! ## Admission (R60 to R70) -/

/-- Matrix issue duty of an envelope mode, in sixteenths (R535). -/
def envDuty (m : Nat) : Nat := modeDuty m

/-- What R63 computes of a class for lengths and a duty e: bfix + bmx, and the spacing. -/
def TimingClass.need (c : TimingClass) (lin lout e : Nat) : Nat :=
  c.f0 + c.fin * lin + c.fout * lout + ceilDiv ((c.m0 + c.min_ * lin + c.mout * lout) * 16) e
def TimingClass.space (c : TimingClass) (e : Nat) : Nat := c.ifx + ceilDiv (c.im * 16) e

/-- The lane of a class that is free earliest, with that time (R63). -/
def firstLane (n : Nat) (free : List Nat) : Nat × Nat :=
  (List.range (n - 1)).foldl (fun m i => if free.getD (i + 1) 0 < m.2 then (i + 1, free.getD (i + 1) 0) else m) (0, free.getD 0 0)

/-- A decision: a code of R66 with its time, or an admission with promise, start, lane and host schedule entry. -/
inductive Verdict where
  | reject (code : Nat) (t : Option Nat)
  | taken (promise start : Nat) (lane : Nat) (entry : Option Nat)
  deriving DecidableEq, Repr

/-- Fields of entry k of partition p's host schedule (R74). -/
structure SchedEntry where
  start : Nat
  offset : Nat
  lin : Nat
  lout : Nat
  cls : Nat
  valid : Bool
  deriving DecidableEq, Repr
def Dev.schedEntry (d : Dev) (p k : Nat) : SchedEntry :=
  let w (i : Nat) : Nat := d.get (schedWord p k i)
  { start := w 0 % 2 ^ 32 * secLen + w 0 / 2 ^ 32, offset := w 1 % 2 ^ 32, lin := w 1 / 2 ^ 32, lout := w 2 % 2 ^ 32,
    cls := bits (w 2) 39 32, valid := bit (w 2) 40 == 1 }
/-- The entry was claimed or refused. -/
def Dev.schedMark (d : Dev) (p k : Nat) : Option Bool := (d.sched.find? fun e => e.1 == p * 256 + k).map (·.2)

/-- The entry of a host schedule that a request takes: the earliest that qualifies (R76). -/
def Dev.schedPick (d : Dev) (p cls lin lout now : Nat) : Option Nat :=
  let ok (k : Nat) : Bool :=
    let e := d.schedEntry p k
    e.valid && (d.schedMark p k).isNone && e.cls == cls && decide (now + 2100 ≤ e.start) && decide (lin ≤ e.lin) && decide (lout ≤ e.lout)
  ((List.range 256).filter ok).foldl (fun m k =>
    match m with
    | none => some k
    | some j => if (d.schedEntry p k).start < (d.schedEntry p j).start then some k else m) none

/-- The credential of context c lets it submit requests to partition p (R3, R5, R429). -/
def Dev.mayRequest (d : Dev) (c p : Nat) : Bool :=
  match (d.ctx c).cred with
  | .owner => true
  | .tenant q => q.val == p
  | _ => d.is (ADM_P_CTRL_UNCRED p)

/-- The request is served best-effort (R70, R510). -/
def Region.effort (r : Region) (c : TimingClass) : Bool := r.hashed || r.hwDuty || r.bestEffort || c.unbounded

/-- The partition's region is held (R349). -/
def Dev.regionHeld (d : Dev) (p : Nat) : Bool := [1, 2, 3, 4, 8].contains (d.regionState p)

/-- The decision on a request (R63 to R66, R70, R76, R349). A device time that has stopped rejects every request with TIME (R47).
DESIGN CHOICE (log 32): where several causes of R66 hold, the code is that of the first in this order: CREDENTIAL, HOLD, TIME,
NO_CLASS, TOO_LONG, NO_SLOT, TIME for the promise, DEADLINE. -/
def Dev.verdict (d : Dev) (c : Nat) (m : ReqMsg) : Verdict :=
  let p := m.part.val
  let r := d.region p
  if d.get TIME_STATUS_QUALITY = 6 then .reject 5 none
  else if p = 0 || !d.mayRequest c p then .reject 7 none
  else if m.ref && d.memStatus p m.addr (max 1 (4 * m.lin)) != stOk then .reject 7 none
  else if !d.is (ADM_P_CTRL_ENABLE p) || d.is (ADM_P_CTRL_HOLD p) || d.regionHeld p || decide (2 ≤ d.get PWR_STATUS_STATE) then
    .reject 4 none
  else if d.get TIME_STATUS_QUALITY = 0 then .reject 5 none
  else
    match r.classes.find? fun k => k.cls == m.cls with
    | none => .reject 2 none
    | some k =>
      if k.linMax < m.lin || decide (k.loutMax < m.lout) || (!m.ref && decide (m.lin < m.tokens.length)) then .reject 3 none
      else
        let e := envDuty (d.get PWR_ENVELOPE_ADMIT)
        let judge (promise start lane : Nat) (entry : Option Nat) : Verdict :=
          if r.effort k then .taken promise start lane entry
          else if lastTime < promise then .reject 5 none
          else
            match m.deadline with
            | some t => if t < promise then .reject 1 (some promise) else .taken promise start lane entry
            | none => .taken promise start lane entry
        let l := mget r.lanes Lanes.init m.cls
        let lane := firstLane k.lanes l.free
        if d.duty 1 then
          match d.schedPick p m.cls m.lin m.lout d.now with
          | none => .reject 6 none
          | some j => judge ((d.schedEntry p j).start + (d.schedEntry p j).offset) (d.schedEntry p j).start lane.1 (some j)
        else
          let s := max (max (d.now + 2100) lane.2) (match l.last with | some t => t + k.space e | none => 0)
          judge (s + k.need m.lin m.lout e + d.get (ADM_P_CTRL_GUARD p)) s lane.1 none

/-- A DECISION (R423, R429). -/
def decisionBytes (tag : Word) (code cls : Nat) (t : Option Nat) : List Byte :=
  beBytes 8 tag.toNat ++ beBytes 1 code ++ beBytes 1 cls ++ zeros 6 ++
    (match t with | some x => beBytes 4 (x / secLen) ++ beBytes 4 (x % secLen) | none => List.replicate 8 0xFF)

/-- The header entry and the token entries of a request (R429): tokens as bytes, padded with zeros to whole entries. -/
def entryList (m : ReqMsg) (promise : Option Nat) (c : Nat) (toks : List Byte) : List (List Byte) :=
  let head := leBytes 8 m.tag.toNat ++ timeBytes? promise ++ leBytes 4 m.lin ++ leBytes 4 m.lout ++ leBytes 1 m.cls ++ [0] ++
    leBytes 2 c ++ zeros 36
  head :: (List.range (ceilDiv m.lin 16)).map fun i => slice toks (64 * i) (min 64 (4 * m.lin - 64 * i)) ++ zeros (64 - min 64 (4 * m.lin - 64 * i))

/-- The input of a request by reference (R429): its bytes, and whether some line held an uncorrectable error. -/
def Dev.refTokens (d : Dev) (a n : Nat) : List Byte × Option Nat :=
  let ls := lineParts a n
  (ls.flatMap fun e => d.memRead e.1 e.2, (ls.find? fun e => d.mem.bad.contains (e.1 / 256)).map (·.1))

/-- A rejection is counted and answered (R65, R80). -/
def Dev.rejectReq (d : Dev) (c : Nat) (m : ReqMsg) (code : Nat) (t : Option Nat) : Dev :=
  let p := m.part.val
  let d := if p = 0 then d else (d.add (ADM_P_REJECTED_COUNT p) 1).set (ADM_P_STATUS_LAST_REJECT p) code
  d.queueMsg c (mkMsg 0x31 0 c true (decisionBytes m.tag code m.cls t))

/-- An admission (R63, R64, R76, R429). DESIGN CHOICE (log 30): the lane of a best-effort request too counts as free from the
promise that R63 computes for it, though it is given none (R70). -/
def Dev.admitReq (d : Dev) (c : Nat) (m : ReqMsg) (promise start lane : Nat) (entry : Option Nat) : Dev :=
  let p := m.part.val
  let r := d.region p
  let eff := match r.classes.find? fun k => k.cls == m.cls with
    | some k => r.effort k
    | none => true
  let pr := if eff then none else some promise
  let src : List Byte × Option Nat := if m.ref then d.refTokens m.addr (4 * m.lin) else (m.tokens.flatMap fun t => leBytes 4 t.toNat, none)
  let x : Request :=
    { Request.init with
      tag := m.tag, ctx := c, incarn := d.get (NOP_CTX_STATE_INCARN c), part := p, cls := m.cls, lin := m.lin, lout := m.lout, arrival := d.now, start := start, promise := pr,
      env := d.get PWR_ENVELOPE_ADMIT, lane := lane, claim := promise, tokens := entryList m pr c src.1 }
  let d := d.modRegion p fun r =>
    let l := mget r.lanes Lanes.init m.cls
    { r with lanes := mset r.lanes m.cls { free := lset (l.free ++ List.replicate (lane + 1 - l.free.length) 0) lane promise, last := some start } }
  let d := match entry with
    | some k => { d with sched := (p * 256 + k, true) :: d.sched }
    | none => d
  let d := (({ d with reqs := d.reqs ++ [x] } : Dev).add (ADM_P_STATUS_OUTSTANDING p) 1).add (ADM_P_ADMITTED_COUNT p) 1
  let d := d.remode.queueMsg c (mkMsg 0x31 0 c true (decisionBytes m.tag 0 m.cls pr))
  let d := if m.ref then (lineParts m.addr (4 * m.lin)).foldl (fun d l =>
      (d.countRemote (d.get (NOP_CTX_CFG_PORT c)) (d.unitAt l.1) p false).servedAccess p l.1 false .remote .served) d
    else d
  match src.2 with
  | some a =>
    let running := d.regionState p == rgRunning
    (d.memUeRecord a rdRemote 0 0 3 p none (if running then 2 else 0)).containRegion p
  | none => d.feedAll p

/-- REQ (R60, R61, R429): decided at its arrival. -/
def execReq (h : NHdr) (m : ReqMsg) (s : State) :=
  run (fun d =>
    let c := h.dctx.val
    d.nopraRx h true false (hasLen h (if m.ref then 48 else 32 + 4 * m.lin) && (m.ref || m.tokens.length == m.lin))
      (fun st d => d.queueMsg c (mkMsg 0x31 0 c true (decisionBytes m.tag st.toNat m.cls none))) fun d =>
        if d.ctxKind c ≠ 2 then d.queueMsg c (mkMsg 0x31 0 c true (decisionBytes m.tag 7 m.cls none))
        else
          match d.verdict c m with
          | .reject code t => d.rejectReq c m code t
          | .taken promise start lane entry => d.admitReq c m promise start lane entry) s

/-- PROMISE_EXPIRY (R71): the promise passes without delivery. -/
def execPromiseExpiry (part : PartId) (tag : Word) (s : State) :=
  run (fun d =>
    match d.reqs.find? fun r => r.part == part.val && r.tag == tag && r.promise.isSome && !r.late with
    | none => d
    | some r =>
      let d := d.toTime (r.promise.getD 0 + 1)
      if r.promise.getD 0 < d.now || d.time.exhausted then d.miss r else d) s

/-- The credential of context c covers partition p. -/
def Dev.covers (d : Dev) (c p : Nat) : Bool :=
  match (d.ctx c).cred with
  | .owner => true
  | .tenant q => q.val == p && p != 0
  | _ => false

/-- CANCEL (R430): the context that sent the request, or one whose credential covers its partition, withdraws it. It comes too late
for a request whose final RES is formed. -/
def execCancel (h : NHdr) (tag : Word) (s : State) :=
  run (fun d => d.nopraPlain h true false (hasLen h 8) fun d =>
    let c := h.dctx.val
    match d.reqs.find? fun r => r.tag == tag && !r.last && (d.sentBy r c || d.covers c r.part) with
    | some r => d.withdraw r 3
    | none => d) s

/-- A write of ADM_Pp_CTRL (R80): ENABLE takes a 1 only in service with a timing table loaded. -/
def Dev.admCtrlWr (d : Dev) (c : Cred) (p v : Nat) : Dev × Byte :=
  partWr c p d fun d =>
    let r := Dev.takeRwl (d, stOk) p (ADM_P_CTRL_GUARD p) v fun _ => true
    let r := Dev.takeRwl r p (ADM_P_CTRL_UNCRED p) v fun _ => true
    let d := r.1.take (ADM_P_CTRL_HOLD p) v
    let on := (ADM_P_CTRL_ENABLE p).of v == 1
    (if on && !(d.inService p && (d.region p).timed) then d else d.flag (ADM_P_CTRL_ENABLE p) on, r.2)
/-- ADM_CTRL_WRITE (R80). -/
def execAdmCtrlWrite (cred : Cred) (part : PartId) (value : Word) (s : State) :=
  run (fun d => ended (d.admCtrlWr cred part.val value.toNat)) s

/-! ## Host schedules (R74 to R77) -/

/-- The check of entry k (R75): too short an offset, too close to another valid entry of its class, or more entries of the
class at one time than it has lanes. DESIGN CHOICE (log 32): an entry whose class is not in the timing table is refused, and an entry
that was refused does not count among the others. -/
def Dev.schedRefused (d : Dev) (p k : Nat) : Bool :=
  let e := d.schedEntry p k
  match (d.region p).classes.find? fun c => c.cls == e.cls with
  | none => true
  | some c =>
    let duty := envDuty (d.get PWR_ENVELOPE_ADMIT)
    let others := ((List.range 256).filter fun j => j != k && (d.schedEntry p j).valid && (d.schedEntry p j).cls == e.cls &&
      d.schedMark p j != some false).map (d.schedEntry p)
    let held (t : Nat) : Nat := (others.filter fun o => decide (o.start ≤ t) && decide (t < o.start + o.offset)).length
    decide (e.offset < c.need e.lin e.lout duty + d.get (ADM_P_CTRL_GUARD p)) ||
      (others.any fun o => decide (o.start ≤ e.start) && decide (e.start < o.start + c.space duty)) ||
      ((e.start :: ((others.map (·.start)).filter fun t => decide (e.start ≤ t) && decide (t < e.start + e.offset))).any fun t =>
        decide (c.lanes ≤ held t))

/-- A write of a word of a host schedule (R74, R75, R80). Writing VALID as 1 checks the entry. DESIGN CHOICE (log 32): every write of
the word that holds FLAGS clears CLAIMED and REFUSED. -/
def Dev.schedWr (d : Dev) (c : Cred) (p k w v : Nat) : Dev × Byte :=
  partWr c p d fun d =>
    if w = 3 then (d, stOk)
    else
      let d := d.set (schedWord p k w) (if w = 2 then v % 2 ^ 41 else v)
      if w = 2 then
        let d : Dev := { d with sched := d.sched.filter fun e => e.1 != p * 256 + k }
        if bit v 40 = 1 && d.schedRefused p k then ({ d with sched := (p * 256 + k, false) :: d.sched }, stOk) else (d, stOk)
      else (d, stOk)
/-- HOST_SCHEDULE_VALID (R75): a write of the word that holds LOUT_MAX, CLASS and FLAGS, with VALID set. -/
def execHostScheduleValid (cred : Cred) (part : PartId) (entry : Fin 256) (value : Word) (s : State) :=
  run (fun d => ended (d.schedWr cred part.val entry.val 2 (setBits value.toNat 40 40 1))) s
/-- HOST_SCHEDULE_EXPIRY (R76): an entry whose START passes unclaimed becomes invalid. -/
def execHostScheduleExpiry (part : PartId) (entry : Fin 256) (s : State) :=
  run (fun d =>
    let p := part.val
    let k := entry.val
    let e := d.schedEntry p k
    if e.valid && d.schedMark p k != some true && decide (e.start < lastTime) then
      let d := d.toTime (e.start + 1)
      d.set (schedWord p k 2) (setBits (d.get (schedWord p k 2)) 40 40 0)
    else d) s

/-! ## Results (R66, R431) -/

/-- Tokens that fill a RES message: a payload of 8,192 bytes less its 16 bytes of fields. -/
def resFull : Nat := 2044
/-- Moves a request's tokens into RES messages: the full ones, and at LAST the rest as its final one. -/
def Dev.packResults (d : Dev) (r : Request) : Nat → Dev
  | 0 => d
  | k + 1 =>
    let upd (d : Dev) (x : Request) : Dev :=
      let put (y : Request) : Request := if y.part = r.part ∧ y.tag = r.tag ∧ y.arrival = r.arrival then x else y
      { d with reqs := d.reqs.map put }
    let n := r.outTokens.length / 4
    let st : Byte := if r.late then 1 else 0
    if n < resFull || (n = resFull && r.last) then
      if r.last then
        upd (d.queueMsg r.ctx { mkMsg 0x32 r.part r.ctx true (resPayload r.tag st true r.piece r.outTokens) with tag := r.tag, last := true })
          { r with outTokens := [] }
      else upd d r
    else
      let x := { r with piece := r.piece + 1, outTokens := r.outTokens.drop (4 * resFull) }
      (upd (d.queueMsg r.ctx (mkMsg 0x32 r.part r.ctx true (resPayload r.tag st false r.piece (r.outTokens.take (4 * resFull))))) x).packResults x k

/-- A result entry reaches a RESULT context (R431). A request takes no more than Lout tokens (R66); the results of a request
whose host context has closed are discarded, and its LAST delivers it. -/
def Dev.resultIn (d : Dev) (c : Nat) (data : List Byte) : Dev :=
  let tag : Word := BitVec.ofNat 64 (fieldAt data 0 8)
  let last := bit (fieldAt data 8 1) 0 == 1
  match d.reqs.find? fun r => r.part == d.ctxPart c && r.tag == tag && !r.last with
  | none => d.ctxDrop c 1
  | some r =>
    if d.ctxState r.ctx ≠ 2 || !d.sentBy r r.ctx then
      let d := d.ctxDrop c 1
      if last then d.endRequest r else d
    else
      let n := min (min (fieldAt data 9 1) 13) (r.lout - r.got)
      let x := { r with got := r.got + n, outTokens := r.outTokens ++ slice data 12 (4 * n), last := last }
      d.packResults x 2

/-- RESULT_ENTRY (R431): the oldest entry on its way to the RESULT context is taken, and its credit returns. -/
def execResultEntry (ctx : CtxId) (tile : TileId) (s : State) :=
  run (fun d =>
    let c := ctx.val
    let n := tile.val
    match (d.tile n).railOut.find? fun e => e.1 == c with
    | none => d
    | some e =>
      let d := d.modTile n fun t => { t with railOut := dropFirst (fun x => x.1 == c) t.railOut }
      match e.2 with
      | .queue _ _ _ _ stile sroute _ sfrond _ _ _ data =>
        let d := d.creditTo stile sfrond sroute 0 1
        if d.ctxKind c = 3 && d.ctxPart c == (d.tile n).part then d.resultIn c data else d.ctxDrop c 1
      | _ => d.ctxDrop c 1) s

/-! ## Image streams (R433, R465) -/

/-- The receipt of an image ends early (R346). -/
def Dev.streamCut (d : Dev) (p : Nat) : Dev := d.loadFail p ldTruncated 0 (d.loadSect p)
/-- The region takes image bytes (R333, R433). -/
def Dev.streamTakes (d : Dev) (p : Nat) : Bool :=
  (d.region p).stream && (d.regionState p == rgChecking || d.regionState p == rgLoading || d.regionState p == rgVerifying)

/-- LOAD_DATA (R433, R465). A message refused is counted as discarded, for its type has no reply. -/
def execLoadData (h : NHdr) (part : PartId) (offset : Nat) (bytes : List Byte) (s : State) :=
  runM (fun d => d.nopraPlain h true true (hasLen h (16 + bytes.length)) fun d =>
    let c := h.dctx.val
    let p := part.val
    if p = 0 then d.bootData c offset bytes
    else if d.booting || !d.covers c p || !d.streamTakes p then d.ctxDrop c 1
    else if offset ≠ (d.region p).img.length then d.streamCut p
    else d.modRegion p fun r => { r with img := r.img ++ bytes, lastByte := d.tick }) s

/-- LOAD_END (R433, R465): early, it ends the load. -/
def execLoadEnd (h : NHdr) (part : PartId) (s : State) :=
  runM (fun d => d.nopraPlain h true true (hasLen h 8) fun d =>
    let c := h.dctx.val
    let p := part.val
    if p = 0 then
      d.bootEnd c
    else if d.booting || !d.covers c p || !d.streamTakes p then d.ctxDrop c 1
    else
      let d := d.modRegion p fun r => { r with ended := true }
      let b := (d.region p).img
      if b.length < 64 || decide (b.length < imgLength b) then d.streamCut p else d) s

/-! ## Records on demand (R434, R545) and PTP frames -/

/-- Records of one kind that fit a message: at most `max`, and `room` bytes. -/
def takeRecs (kind : Nat) : Nat → Nat → List PushRec → List PushRec
  | _, _, [] => []
  | max, room, r :: rs =>
    if r.kind ≠ kind then takeRecs kind max room rs
    else if max = 0 || decide (room < r.bytes.length) then []
    else r :: takeRecs kind (max - 1) (room - r.bytes.length) rs

/-- The answer to a PULL of a record KIND (R434). -/
def Dev.pullRecords (d : Dev) (c kind max : Nat) : Dev :=
  let recs := if d.duty 10 then takeRecs kind (if kind = 4 then min max 1 else max) 8184 d.nop.pushq else []
  let gone := recs.length
  let drop : List PushRec → Nat → List PushRec := fun l n =>
    (l.foldl (fun (m : List PushRec × Nat) r => if r.kind = kind && decide (0 < m.2) then (m.1, m.2 - 1) else (m.1 ++ [r], m.2)) ([], n)).1
  ({ d with nop := { d.nop with pushq := drop d.nop.pushq gone } } : Dev).queueMsg c
    (mkMsg 0x50 0 c true (beBytes 2 kind ++ beBytes 2 gone ++ zeros 4 ++ recs.flatMap fun r => r.bytes))

/-- The answer to a PULL of meter records (R434, R486): the next one not delivered. -/
def Dev.pullMeter (d : Dev) (m : Meter) (c : Nat) : Dev :=
  let d := if d.nop.meterSent.isEmpty then d.applyPend 11 else d
  match (if d.duty 11 then m.undelivered d.nop.meterNext else none) with
  | some x =>
    ({ d with nop := { d.nop with meterNext := x.seq + 1, meterSent := d.nop.meterSent ++ [x.seq] } } : Dev).queueMsg c
      { mkMsg 0x50 0 c true (beBytes 2 3 ++ beBytes 2 1 ++ zeros 4 ++ meterBytes x) with record := some x.seq }
  | none => d.queueMsg c (mkMsg 0x50 0 c true (beBytes 2 3 ++ zeros 6))

/-- The answer to a PULL (R434, R545). -/
def Dev.answerPull (d : Dev) (m : Meter) (c kind max : Nat) : Dev :=
  if kind = 0x101 || kind = 0x102 then
    let bs := if kind = 0x101 then d.i3c.set1 else d.i3c.set2
    d.queueMsg c (pushMsg c ⟨kind, if d.duty 10 then bs else []⟩)
  else if kind = 3 then d.pullMeter m c
  else d.pullRecords c kind max

/-- PULL (R434, R545, R547). Only a host context that carries a credential of the owner takes device records; during a
restart of the management controller the answer waits. -/
def execPull (h : NHdr) (kind max : Nat) (s : State) :=
  runRead (fun m d => d.nopraPlain h true false (hasLen h 4 && decide (1 ≤ max) && decide (max ≤ 1000)) fun d =>
    let c := h.dctx.val
    if d.ctxKind c ≠ 2 || (d.ctx c).cred != .owner then d.ctxDrop c 1
    else if !([1, 2, 3, 4, 5, 0x101, 0x102].contains kind) then d.ctxDrop c 1
    else if d.is DMC_STATUS_RESTARTING then { d with nop := { d.nop with pulls := d.nop.pulls ++ [(c, kind, max)] } }
    else d.answerPull m c kind max) s

/-- PTP_TX (R434): its frame goes out on PORT in open time, and its egress timestamp returns. -/
def execPtpTx (h : NHdr) (port : PortId) (tag : Nat) (frame : List Byte) (s : State) :=
  run (fun d => d.nopraPlain h true false (hasLen h (8 + frame.length)) fun d =>
    let c := h.dctx.val
    if d.ctxKind c ≠ 2 || (d.ctx c).cred != .owner || decide (d.ethState port.val < ethLinked) then d.ctxDrop c 1
    else d.queueOpen port.val { TxMsg.init with type := txPtp, ctx := c, payload := frame, tag := BitVec.ofNat 64 tag, seqd := true }) s

end Sys2Proof.Machine
end

