-- ==== Sys2Proof/Machine/Part.lean ====
section
/-! DEFINITION. The life of a partition (R261 to R263, R440 to R448, R471): creation, sealing, teardown, and the registers
that configure it. -/

namespace Sys2Proof.Machine

/-! ## Registers returned to reset -/

/-- Every field of the registers in [lo, hi) has its reset value. -/
def Dev.clearRegs (d : Dev) (lo hi : Nat) : Dev :=
  { d with regs := d.regs.filter fun e => decide (e.1 / 64 < lo) || decide (hi ≤ e.1 / 64) }

/-- A partition command is refused (R441). -/
def Dev.partRefuse (d : Dev) (p reason : Nat) : Dev := (d.flag (PART_P_STATE_REFUSED p) true).set (PART_P_STATE_REASON p) reason
/-- REASON codes (R471). -/
def reRect : Nat := 1
def reTile : Nat := 2
def reState : Nat := 3
def reCred : Nat := 4
def reConfig : Nat := 5

/-! ## CREATE (R442, R528) -/

/-- CREATE: refused before READY or outside FREE, for an empty rectangle, or over a tile that is not free; else the tiles take
the partition's number in this cycle, and it gets its first memory key and key pair. -/
def Dev.createPart (d : Dev) (p : Nat) : Dev :=
  let (x0, y0, x1, y1) := d.rectOf p
  let busy (n : Nat) : Bool := (d.tile n).part != 0 || (d.tile n).fenced || (d.tile n).clearing
  if d.partState p ≠ 0 || d.get DMC_STATUS_STAGE ≠ 4 then d.partRefuse p reState
  else if x1 < x0 || decide (y1 < y0) then d.partRefuse p reRect
  else if (rectTiles x0 y0 x1 y1).any busy then d.partRefuse p reTile
  else
    let d := (rectTiles x0 y0 x1 y1).foldl (fun d n => d.modTile n fun t => { t with part := p }) d
    let d := d.modPart p fun x =>
      { Part.init with pinst := x.pinst + 1, curKey := ⟨d.mem.nextKey⟩, ekSerial := 1, ek := d.sec.nonces + 1 }
    let d : Dev := { d with mem := { d.mem with nextKey := d.mem.nextKey + 1 }, sec := { d.sec with nonces := d.sec.nonces + 1 } }
    (d.set (PART_P_STATE_EXPOSURES p) 0).set (PART_P_STATE_STATE p) 1

/-! ## SEAL (R444) -/

/-- PORT of a context as its configuration gives it, a change that waits for a frame boundary included. -/
def Dev.ctxPortCfg (d : Dev) (c : Nat) : Nat := (d.ctx c).newPort.getD (d.get (NOP_CTX_CFG_PORT c))
/-- Contexts of KIND 1 or 3 whose PART is p, ascending. -/
def Dev.ctxsOf (d : Dev) (p : Nat) : List Nat :=
  (List.range 4096).filter fun c => (d.ctxKind c == 1 || d.ctxKind c == 3) && d.ctxPart c == p
/-- Windows whose PART is p, valid or not (R444): port and entry, ascending. -/
def Dev.winsOf (d : Dev) (p : Nat) : List (Nat × Nat) :=
  (List.range 18).flatMap fun n => ((List.range 64).filter fun w => d.get (NOP_P_WIN_PART n w) == p).map fun w => (n, w)

/-- The configuration cannot be sealed (R444). -/
def Dev.sealBad (d : Dev) (p : Nat) : Bool :=
  let peers := (d.ctxsOf p).filter fun c => d.ctxKind c == 1
  (d.is (NOP_P_ENTRY_VALID p) && !(d.rectList p).contains (d.get (NOP_P_ENTRY_TILE p))) ||
  (peers.any fun c => decide (d.ctxPortCfg c < 1) || decide (17 < d.ctxPortCfg c)) ||
  ((d.winsOf p).any fun w => w.1 != 0 && !(peers.any fun c => d.ctxPortCfg c == w.1))

/-- A register as eight little-endian bytes, with the bits of [hi:lo] zeroed. -/
def Dev.regBytes (d : Dev) (a hi lo : Nat) : List Byte :=
  match findReg a with
  | some r => leBytes 8 (setBits (d.regStored a r) hi lo 0)
  | none => zeros 8
/-- A register as eight little-endian bytes. -/
def Dev.regAll (d : Dev) (a : Nat) : List Byte :=
  match findReg a with
  | some r => leBytes 8 (d.regStored a r)
  | none => zeros 8

/-- What CONFIG_DIGEST is taken over (R444). -/
def Dev.configBytes (d : Dev) (p : Nat) : List Byte :=
  d.regAll (PART_P_CFG p) ++ ((List.range 8).flatMap fun k => d.regAll (PART_P_TKEY p k)) ++ d.regAll (MEM_P_SPLIT p) ++
  ((List.range 8).flatMap fun k => d.regAll (MEM_P_RANGE p k)) ++ d.regBytes (ADM_P_CTRL p) 1 0 ++ d.regAll (MESH_P_CFG p) ++
  d.regAll (NOP_P_ENTRY p) ++ ((d.ctxsOf p).flatMap fun c => leBytes 8 c ++ d.regBytes (NOP_CTX_CFG c) 51 47) ++
  ((d.winsOf p).flatMap fun w => d.regAll (NOP_P_WIN w.1 w.2))

/-- SEAL (R441, R444): a partition that enters service while ADMISSION is effective as 1 admits from its host schedule (R77). -/
def Dev.sealPart (d : Dev) (p : Nat) : Dev :=
  if d.partState p ≠ 1 then d.partRefuse p reState
  else if d.sealBad p then d.partRefuse p reConfig
  else
    let d := (d.setDigest (PART_P_CDIGEST_V p) (sha3 (d.configBytes p))).set (PART_P_STATE_STATE p) 2
    if d.duty 1 then d.flag (ADM_P_STATUS_HOST_SCHEDULE p) true else d

/-! ## TEARDOWN (R261, R446) -/

/-- A tile as its partition's teardown begins: strands and engines stop, and what was under way to it is dropped. -/
def Tile.closing (t : Tile) : Tile :=
  { t with
    clearing := true, strands := [], active := none, arrivals := [], outbox := [], railOut := []
    mx := Engine.init, vx := Engine.init, dma0 := Engine.init, dma1 := Engine.init, fc := Engine.init
    foldSt := .run, foldReq := none, foldWait := [] }

/-- Contexts of KIND 1 and 3 of partition p (R446): CLOSE with REASON 0 on the open PEER contexts, queued messages discarded,
keys zeroed, and the configuration reset. -/
def Dev.dropContexts (d : Dev) (p : Nat) : Dev :=
  (d.ctxsOf p).foldl (fun d c =>
    let d := if d.ctxState c = 2 && d.ctxKind c == 1 then d.sendClose c 0 else d
    let d := if d.ctxState c = 0 then d.dropCtx c else d.closeCtx c 1 0
    (d.modCtx c fun x => { x with keyed := false, txKey := [], rxKey := [], incarnMax := 0, homePort := none, newPort := none }).clearRegs
      (NOP_CTX_CFG c) (NOP_CTX_CFG c + 8)) d

/-- HOST contexts bound to p's tenant credential are closed with REASON 0. -/
def Dev.dropTenants (d : Dev) (p : Nat) : Dev :=
  (d.ctxs.filter fun c => (match c.2.cred with | .tenant q => q.val == p | _ => false)).foldl
    (fun d c => (d.sendClose c.1 0).closeCtx c.1 1 0) d

/-- Accesses of the contexts that stay open to partition p's memory complete REVOKED (R422, R427, R446), and those behind them begin. -/
def Dev.revokePart (d : Dev) (p : Nat) : Dev :=
  d.ctxs.foldl (fun d e =>
    let gone := (d.ctx e.1).ops.filter fun o => o.part == p
    if gone.isEmpty then d
    else ((d.modCtx e.1 fun x => { x with ops := x.ops.filter fun o => o.part != p }).revokeOps e.1 gone).issueRemote e.1) d

/-- TEARDOWN of partition p (R446): admission, region, tiles, memory, contexts, windows, registers and keys. -/
def Dev.teardownPart (d : Dev) (p : Nat) : Dev :=
  if d.partState p ≠ 1 && d.partState p ≠ 2 then d.partRefuse p reState
  else
    let st := d.regionState p
    let d := (d.set (PART_P_STATE_STATE p) 3)
    let d := (d.reqs.filter fun r => r.part == p).foldl (fun d r => d.withdraw r 2) d
    let d := if st = rgChecking || st = rgLoading || st = rgVerifying then d.loadResult p ldAborted 0 0xFFFF else d
    let d := (d.modRegion p fun _ => Region.init).setRegionState p rgClearing
    let d := d.purgeMesh p
    let d := (d.tilesOf p).foldl (fun d n => (d.modTile n Tile.closing).clearF (TILE_CORE_CTRL_FAULT_POLICY n)) d
    let mine (a : MemAccess) : Bool := a.part != p
    let keep (e : Nat × MemChan) : Nat × MemChan := (e.1, { queue := e.2.queue.filter mine, frame := [], pos := 0 })
    let d : Dev := { d with
      trees := d.trees.filter fun t => t.2.part != p
      mem := { d.mem with chans := d.mem.chans.map keep } }
    let d := ((d.dropContexts p).dropTenants p).revokePart p
    let d := (d.winsOf p).foldl (fun d w => d.flag (NOP_P_WIN_VALID w.1 w.2) false) d
    let d := d.clearRegs (ADM_P_CTRL p) (ADM_P_CTRL p + 0x100)
    let d := d.clearRegs (MESH_P_CFG p) (MESH_P_CFG p + 0x20)
    let d := d.clearRegs (NOP_P_ENTRY p) (NOP_P_ENTRY p + 8)
    let d := d.clearRegs (PART_P_CFG p) (PART_P_CFG p + 8)
    let d := d.clearRegs (PART_P_TKEY p 0) (PART_P_TKEY p 8)
    let d := d.clearRegs (MEM_P_SPLIT p) (MEM_P_BYTES p 0)
    let d := d.clearRegs (schedBase + p * 0x2000) (schedBase + (p + 1) * 0x2000)
    let d : Dev := { d with sched := d.sched.filter fun e => e.1 / 256 != p }
    d.modPart p fun x => { Part.init with pinst := x.pinst, clearAt := d.tick }

/-! ## The command register -/

/-- A write of PART_Pp_CMD (R441, R448, R471). TEARDOWN, which contains, comes first, and SEAL beside it is ignored. The
tenant may give TEARDOWN alone. -/
def Dev.partCmdWr (d : Dev) (c : Cred) (p v : Nat) : Dev × Byte :=
  let down := bit v 2 == 1
  let make := bit v 0 == 1
  let sealIt := bit v 1 == 1 && !down
  match c with
  | .none => (d, stDenied)
  | .tenant q =>
    if p = 0 || q.val != p then (d, stDenied)
    else
      let d := if down then d.teardownPart p else d
      if make || sealIt then (d.partRefuse p reCred, stDenied) else (d, stOk)
  | _ =>
    if p = 0 then (d, stUnmapped)
    else
      let d := if down then d.teardownPart p else d
      let d := if make then d.createPart p else d
      (if sealIt then d.sealPart p else d, stOk)

/-- CREATE (R442). -/
def execCreate (cred : Cred) (part : PartId) (s : State) := runM (fun d => ended (d.partCmdWr cred part.val 1)) s
/-- SEAL (R444). -/
def execSeal (cred : Cred) (part : PartId) (s : State) := runM (fun d => ended (d.partCmdWr cred part.val 2)) s
/-- TEARDOWN (R446). -/
def execTeardown (cred : Cred) (part : PartId) (s : State) := runM (fun d => ended (d.partCmdWr cred part.val 4)) s

/-- A clear writes every line: the scratchpad lines that held an uncorrectable word go to a spare (R263, R499). -/
def Dev.clearedLines (d : Dev) (n : Nat) : Dev :=
  (d.modTile n fun t =>
    { t with repairDue := ((t.bad.filter fun w => decide (w < 0x1800000)).map (· / 256)).eraseDups, bad := [] }).dueRepairs n

/-- TILE_CLEAR_DONE (R261, R263): the tile is zero and leaves its partition; one that cannot be cleared stays closed and is
fenced. -/
def execTileClearDone (tile : TileId) (ok : Bool) (s : State) :=
  runM (fun d =>
    let n := tile.val
    let t := d.tile n
    if !t.clearing || t.part == 0 then d
    else if ok then
      (d.clearedLines n).modTile n fun t =>
        { t.wiped with
          part := 0, clearing := false, held := false, active := none, ceLines := [], repairDue := [], scrubDue := [], twice := [], hashed := false
          foldSt := .run, foldReq := none, foldWait := [], overrunLogged := false, foldStep := 0, overruns := 0 }
    else (d.modTile n fun t => { t with part := 0 }).fence n 4) s

/-- TEARDOWN_COMPLETE (R441, R446): no tile is left in the partition, and it is FREE. -/
def execTeardownComplete (part : PartId) (s : State) :=
  runM (fun d =>
    let p := part.val
    if p = 0 || d.partState p ≠ 3 || !(d.tilesOf p).isEmpty then d
    else
      let d := (d.setRegionState p rgEmpty).clearRegs (PART_P_CDIGEST p 0) (PART_P_CDIGEST p 8)
      let d := (d.flag (PART_P_STATE_EXPOSED p) false).flag (PART_P_STATE_OWNER_KEY p) false
      (d.clearF (PART_P_EXPTIME_V p)).set (PART_P_STATE_STATE p) 0) s

/-! ## Configuration registers (R443, R471) -/

/-- A write of PART_Pp_CFG: RECT only while FREE, the other fields only while OPEN. -/
def Dev.partCfgWr (d : Dev) (c : Cred) (p v : Nat) : Dev × Byte :=
  ownerWr c d fun d =>
    if d.partState p = 3 then (d, stDenied)
    else
      let d := if d.partState p = 0 then d.take (PART_P_CFG_RECT p) v else d
      let r := Dev.takeRwl (d, stOk) p (PART_P_CFG_RECT p) v fun _ => false
      let r := Dev.takeRwl r p (PART_P_CFG_STALL_LIMIT p) v fun x => decide (1050 ≤ x)
      let r := Dev.takeRwl r p (PART_P_CFG_RETENTION p) v fun x => decide (x < 3)
      Dev.takeRwl r p (PART_P_CFG_MAP p) v fun _ => true

/-- PART_Pp_TKEY as 64 bytes. -/
def Dev.tkeyBytes (d : Dev) (p : Nat) : List Byte := (List.range 8).flatMap fun k => leBytes 8 (d.get (PART_P_TKEY_V p k))
/-- A write of PART_Pp_TKEY k (R455): contexts bound to another digest lose their binding. -/
def Dev.tkeyWr (d : Dev) (c : Cred) (p k v : Nat) : Dev × Byte :=
  ownerWr c d fun d => rwlOnly p d fun d =>
    let r := Dev.takeRwl (d, stOk) p (PART_P_TKEY_V p k) v fun _ => true
    let key := r.1.tkeyBytes p
    let lost (x : Ctx) : Bool := (match x.cred with | .tenant q => q.val == p | _ => false) && x.tkey != key
    ((r.1.ctxs.filter fun e => lost e.2).foldl (fun d e =>
      (d.set (NOP_CTX_CFG_PART e.1) 0).modCtx e.1 fun x => { x with cred := .none, tkey := [] }) r.1, r.2)

end Sys2Proof.Machine
end

