-- ==== Sys2Proof/Machine/Sec.lean ====
section
/-! DEFINITION. The security engine's calls (R451 to R461, R467): credentials, fuses, secrets, certificates, attestation and
the boot flash. -/

namespace Sys2Proof.Machine

/-! ## Answers (R423, R453) -/

/-- DETAIL codes (R453). -/
def dtNone : Nat := 0
def dtSignature : Nat := 1
def dtDigest : Nat := 2
def dtSerial : Nat := 3
def dtSlots : Nat := 4
def dtState : Nat := 5
def dtDecrypt : Nat := 6
def dtRole : Nat := 7

/-- Status BUSY and MALFORMED (R422). -/
def stNopBusy : Byte := 0x43
def stMalformed : Byte := 0x42

/-- OP of a call (R454). -/
def secOpCode : SecOp → Nat
  | .challenge => 1
  | .bind _ _ _ _ => 2
  | .attest _ _ => 0x10
  | .getCert _ => 0x11
  | .getDigests _ _ => 0x12
  | .kemGet _ => 0x20
  | .secretPut _ => 0x21
  | .enroll _ _ _ _ _ => 0x30
  | .commitSvn => 0x31
  | .flashErase _ _ => 0x40
  | .flashWrite _ _ => 0x41
  | .other op => op
/-- Bytes of a call's body (R454); none for an OP that no operation has. -/
def secBody : SecOp → Option Nat
  | .challenge => some 0
  | .bind _ _ _ _ => some 7227
  | .attest _ _ => some 72
  | .getCert _ => some 1
  | .getDigests _ _ => some 8
  | .kemGet _ => some 1
  | .secretPut _ => some 1656
  | .enroll _ _ _ _ _ => some 7291
  | .commitSvn => some 0
  | .flashErase _ _ => some 8
  | .flashWrite _ data => some (8 + data.length)
  | .other _ => none

/-- SEC_RESP: TAG, STATUS, OP; then DETAIL, seven zero bytes and the result (R423, R453). -/
def Dev.secReply (d : Dev) (c tag op : Nat) (st : Byte) (detail : Nat) (result : List Byte) : Dev :=
  d.queueMsg c (mkMsg 0x45 0 c true (beBytes 4 tag ++ [st, 0] ++ beBytes 2 op ++ leBytes 1 detail ++ zeros 7 ++ result))

/-- What a call does: the device after it, its status, DETAIL and result. -/
structure SecOut where
  dev : Dev
  st : Byte
  detail : Nat
  result : List Byte

/-- The call does not go through. DETAIL 3, 4 and 5 go with BUSY, the others with DENIED (log 18). -/
def secFail (d : Dev) (detail : Nat) : SecOut := ⟨d, if detail = 3 ∨ detail = 4 ∨ detail = 5 then stNopBusy else stDenied, detail, []⟩
/-- The call is malformed. -/
def secBad (d : Dev) : SecOut := ⟨d, stMalformed, 0, []⟩
/-- The call completes. -/
def secOk (d : Dev) (result : List Byte) : SecOut := ⟨d, stOk, 0, result⟩

/-! ## Credentials (R455, R456) -/

/-- The credential of context c is the owner's. -/
def Dev.secOwner (d : Dev) (c : Nat) : Bool := (d.ctx c).cred == .owner
/-- The credential of context c is the owner's, or that of the tenant of partition p. -/
def Dev.secCovers (d : Dev) (c p : Nat) : Bool :=
  match (d.ctx c).cred with
  | .owner => true
  | .tenant q => q.val == p && p != 0
  | _ => false
/-- The digest of the current owner credential: the highest programmed slot, none before the first owner is enrolled. -/
def Fuses.ownerDigest (f : Fuses) : Option (List Byte) := f.owners.getLast?
/-- 64 bytes of a random draw. -/
def randomBytes (k n : Nat) : List Byte := (List.range n).map (Config.randomByte k)

/-- CHALLENGE (R454). -/
def Dev.secChallenge (d : Dev) (c : Nat) : SecOut :=
  if d.ctxKind c ≠ 2 then secFail d dtRole
  else
    let k := d.sec.nonces + 1
    let ch := randomBytes k 64
    let d : Dev := { d with sec := { d.sec with nonces := k } }
    secOk (d.modCtx c fun x => { x with challenge := some ch }) ch

/-- BIND (R455): it takes up the context's challenge whether or not it succeeds. -/
def Dev.secBind (d : Dev) (c role p : Nat) (part : PartId) (pk : List Byte) (sigOk : Bool) : SecOut :=
  if d.ctxKind c ≠ 2 then secFail d dtRole
  else if role ≠ 1 ∧ role ≠ 2 then secBad d
  else
    let fresh := (d.ctx c).challenge.isSome
    let d := d.modCtx c fun x => { x with challenge := none }
    let key := sha3 pk
    if !fresh || !sigOk then secFail d dtSignature
    else if role = 1 then
      if d.fuses.ownerDigest = some key then
        secOk ((d.modCtx c fun x => { x with cred := .owner, tkey := [] }).set (NOP_CTX_CFG_PART c) 0) []
      else secFail d dtDigest
    else if p = 0 || d.tkeyBytes p != key || key == zeros 64 then secFail d dtDigest
    else if d.partState p ≠ 1 && d.partState p ≠ 2 then secFail d dtState
    else secOk ((d.modCtx c fun x => { x with cred := .tenant part, tkey := key }).set (NOP_CTX_CFG_PART c) p) []

/-- ENROLL (R456): the next free slot of its kind. -/
def Dev.secEnroll (d : Dev) (kind auth : Nat) (digest pk : List Byte) (sigOk : Bool) : SecOut :=
  if kind ≠ 1 ∧ kind ≠ 2 then secBad d
  else if 1 < auth then secBad d
  else
    let key := sha3 pk
    let known := if auth = 0 then key == romDigest 1 && d.fuses.owners.isEmpty else d.fuses.ownerDigest == some key
    let used := if kind = 1 then d.fuses.owners else d.fuses.imgKeys
    if !known then secFail d dtDigest
    else if !sigOk then secFail d dtSignature
    else if kind = 1 && allParts.any (fun p => d.partState p != 0) then secFail d dtState
    else if 4 ≤ used.length then secFail d dtSlots
    else
      let d : Dev := { d with fuses :=
        if kind = 1 then { d.fuses with owners := used ++ [slice digest 0 64] } else { d.fuses with imgKeys := used ++ [slice digest 0 64] } }
      let unbind (x : Ctx) : Ctx := if x.cred = .owner then { x with cred := .none } else x
      let d : Dev := if kind = 1 then { d with ctxs := d.ctxs.map fun e => (e.1, unbind e.2) } else d
      secOk d (leBytes 1 used.length)

/-- COMMIT_SVN (R467). -/
def Dev.secCommit (d : Dev) (c : Nat) : SecOut :=
  if !d.secOwner c then secFail d dtRole
  else
    let v := d.get SEC_SVN_IMAGE_SVN
    let n := if d.fuses.svn < v && decide (v ≤ 64) then v else d.fuses.svn
    secOk { d with fuses := { d.fuses with svn := n } } (leBytes 4 n)

/-! ## The boot flash (R454, R461) -/

/-- FLASH_ERASE: COUNT erase sectors from OFFSET. -/
def Dev.secErase (d : Dev) (c offset count : Nat) : SecOut :=
  let size := Config.flashSector
  let hi := offset + count * size
  if !d.secOwner c then secFail d dtRole
  else if offset < bootBase then ⟨d, stDenied, 0, []⟩
  else if d.fuses.flashSize < hi || offset % (max 1 size) != 0 then secBad d
  else secOk { d with fuses := { d.fuses with flash := cclear d.fuses.flash offset hi } } []
/-- FLASH_WRITE: a byte that is erased takes its new value; one that is not takes a value that the flash gives. -/
def Dev.secFlash (d : Dev) (c offset : Nat) (data : List Byte) : SecOut :=
  if !d.secOwner c then secFail d dtRole
  else if data.isEmpty || decide (8000 < data.length) then secBad d
  else if offset < bootBase then ⟨d, stDenied, 0, []⟩
  else if d.fuses.flashSize < offset + data.length then secBad d
  else
    let put (e : Byte × Nat) : Byte :=
      let old := d.flashByte (offset + e.2)
      (if old = 0xFF then e.1 else Config.flashMix old e.1) ^^^ 0xFF
    secOk { d with fuses := { d.fuses with flash := cwrite d.fuses.flash offset (data.zipIdx.map put) } } []

/-! ## Secrets (R457, R458) -/

/-- The encapsulation key of serial draw k. -/
def ekBytes (k : Nat) : List Byte := (List.range 1568).map (Config.keyByte 5 (leBytes 8 k))
/-- KEM_GET (R454, R457). -/
def Dev.secKem (d : Dev) (c p : Nat) : SecOut :=
  if !(if p = 0 then d.secOwner c else d.secCovers c p) then secFail d dtRole
  else if p ≠ 0 && d.partState p != 1 && d.partState p != 2 then secFail d dtState
  else
    let x := d.part p
    let body := leBytes 1 p ++ zeros 3 ++ leBytes 4 x.ekSerial ++ ekBytes x.ek
    secOk d (body ++ d.aliasSig body)

/-- The key pair of PART p is replaced (R457). -/
def Dev.newKem (d : Dev) (p : Nat) : Dev :=
  let k := d.sec.nonces + 1
  ({ d with sec := { d.sec with nonces := k } } : Dev).modPart p fun x => { x with ekSerial := x.ekSerial + 1, ek := k }

/-- A MACsec association is installed on port n (R405, R458): at most two of each direction. -/
def Dev.installSa (d : Dev) (n : Nat) (b : List Byte) : Dev :=
  let x : Sa := { an := fieldAt b 48 1 % 4, rx := bit (fieldAt b 49 1) 0 == 1, sak := slice b 0 32, salt := slice b 32 12,
                  ssci := beNat (slice b 44 4), next := 1 }
  (d.modPort n fun y =>
    let others := y.sas.filter fun s => !(s.an == x.an && s.rx == x.rx)
    let same := others.filter fun s => s.rx == x.rx
    { y with sas := others.filter (fun s => s.rx != x.rx) ++ same.drop (same.length - 1) ++ [x] }).linkGo n

/-- What a secret of a kind needs of the partition, context or port it is for (R458). -/
def Dev.secretFits (d : Dev) (m : SecretMsg) : Bool :=
  let p := m.part.val
  let st := d.partState p
  if m.kind = 1 then
    (st == 1 || st == 2) && m.index == 0 && d.get (MEM_P_KEY_STATE p) == 0 && !d.is (MEM_P_KEY_NEWKEY p)
  else if m.kind = 2 then
    decide (m.index < 4096) && d.ctxKind m.index == 1 && d.ctxPart m.index == p && (d.ctxState m.index == 0 || d.ctxState m.index == 3)
  else decide (m.index < 18)

/-- A secret takes effect (R458). -/
def Dev.takeSecret (d : Dev) (c : Nat) (m : SecretMsg) (b : List Byte) : Dev :=
  let p := m.part.val
  let d := if m.kind ≠ 3 && d.secOwner c then d.flag (PART_P_STATE_OWNER_KEY p) true else d
  if m.kind = 1 then
    let k := d.mem.nextKey
    let d : Dev := { d with mem := { d.mem with nextKey := k + 1, keys := mset d.mem.keys k (slice b 0 64) } }
    (d.modPart p fun x => { x with newKey := ⟨k⟩ }).flag (MEM_P_KEY_NEWKEY p) true
  else if m.kind = 2 then d.modCtx m.index fun x => { x with keyed := true, incarnMax := 0, txKey := slice b 0 32, rxKey := slice b 32 32 }
  else d.installSa m.index b

/-- SECRET_PUT (R457, R458). -/
def Dev.secSecret (d : Dev) (c : Nat) (m : SecretMsg) : SecOut :=
  let p := m.part.val
  let may := if m.kind = 3 || p = 0 then d.secOwner c && p == 0 else d.secCovers c p
  if m.kind < 1 || 3 < m.kind then secBad d
  else if !may then secFail d dtRole
  else if p ≠ 0 && d.partState p != 1 && d.partState p != 2 then secFail d dtState
  else if m.ekSerial ≠ (d.part p).ekSerial then secFail d dtSerial
  else
    let d := d.newKem p
    match m.secret with
    | none => secFail d dtDecrypt
    | some b => if d.secretFits m then secOk (d.takeSecret c m b) [] else secFail d dtState

/-! ## Certificates and attestation (R451, R452, R459, R460) -/

/-- A public key: 0 root, 1 intermediate, 2 device identity, 3 alias, 4 meter. Those of the device come from their seeds (R451). -/
def Dev.publicKey (d : Dev) (k : Nat) : List Byte :=
  (List.range 2592).map (if k = 2 then Config.dsaKeyByte d.devidSeed else if k = 3 then Config.dsaKeyByte d.aliasSeed else Config.keyByte k [])
/-- A signature by key k: the seed of a device key goes into it. -/
def Dev.signedBy (d : Dev) (k : Nat) (bs : List Byte) : List Byte :=
  (List.range 4627).map (Config.signByte k ((if k = 2 then d.devidSeed else if k = 3 then d.aliasSeed else []) ++ bs))
/-- Which key signs the certificate of a role. -/
def certSigner (role : Nat) : Nat := if role = 3 then 2 else if role = 0 then 0 else if role = 1 then 0 else 1
/-- The certificate of a role (R452). -/
def Dev.certificate (d : Dev) (role : Nat) : List Byte :=
  let pk := d.publicKey role
  let subject := if role < 2 then sha3 pk else d.deviceId
  let measure := if role = 3 then slice d.sec.aliasDigest 0 64 else if role = 4 then romDigest 3 else zeros 64
  let svn := if role = 3 then d.sec.aliasSvn else 0
  let body := leBytes 2 0x10 ++ leBytes 1 1 ++ leBytes 1 role ++ leBytes 4 7435 ++ subject ++ sha3 (d.publicKey (certSigner role)) ++
    measure ++ leBytes 4 svn ++ zeros 12 ++ pk
  body ++ d.signedBy (certSigner role) body
/-- GET_CERT. The alias certificate exists once an image has passed. -/
def Dev.secCert (d : Dev) (role : Nat) : SecOut :=
  if 4 < role then secBad d
  else if role = 3 && d.sec.aliasDigest.isEmpty then secFail d dtState
  else secOk d (d.certificate role)

/-- GET_DIGESTS (R460). -/
def Dev.secDigests (d : Dev) (c p first : Nat) : SecOut :=
  if !d.secCovers c p then secFail d dtRole
  else
    let all := (d.region p).digests
    let got := (all.drop first).take 119
    secOk d (leBytes 4 got.length ++ leBytes 4 all.length ++ got.flatMap fun e => e)

/-- Bytes 560 to 839 of a report: the partition's (R459). -/
def Dev.partReport (d : Dev) (p : Nat) : List Byte :=
  let st := d.partState p
  let rg := d.regionState p
  let dg (f : Nat → RF) : List Byte := (List.range 8).flatMap fun k => leBytes 8 (d.get (f k))
  let ws := (d.region p).digests
  let (x0, y0, x1, y1) := d.rectOf p
  d.tkeyBytes p ++ (if st = 1 then zeros 64 else dg (PART_P_CDIGEST_V p)) ++
    (if 4 ≤ rg && rg ≤ 7 then dg (PART_P_RDIGEST_V p) else zeros 64) ++ sha3 (ws.flatMap fun e => e) ++
    leBytes 1 x0 ++ leBytes 1 y0 ++ leBytes 1 x1 ++ leBytes 1 y1 ++ leBytes 1 st ++ leBytes 1 rg ++
    leBytes 1 (d.get (PART_P_STATE_EXPOSED p) + 2 * d.get (PART_P_STATE_OWNER_KEY p) + 4 * d.get (PART_P_RSTATUS_HOSTWALK p) +
      8 * boolBit (d.region p).hashed) ++ [0] ++
    packedBytes (d.get (PART_P_EXPTIME_V p)) ++ leBytes 4 ws.length ++ zeros 4

/-- A report of 5,467 bytes (R459). -/
def Dev.report (d : Dev) (p : Nat) (nonce : List Byte) : List Byte :=
  let dg (f : Nat → RF) : List Byte := (List.range 8).flatMap fun k => leBytes 8 (d.get (f k))
  let boot := d.get SEC_BOOT_STATUS_SOURCE + 2 * d.get SEC_BOOT_STATUS_SIGNER
  let body := leBytes 2 3 ++ leBytes 1 1 ++ leBytes 1 p ++ leBytes 4 5467 ++ slice nonce 0 64 ++ d.deviceId ++
    ((List.range 6).flatMap d.fuses.dieRecord) ++ slice d.fuses.serial 0 12 ++ leBytes 1 d.fuses.stepping ++
    leBytes 1 (d.get TIME_STATUS_QUALITY) ++ timeBytes d.now ++ leBytes 4 (d.get SEC_SVN_IMAGE_SVN) ++ leBytes 4 d.fuses.svn ++
    leBytes 4 d.fuses.meterVersion ++ leBytes 1 boot ++ zeros 3 ++ romDigest 2 ++ dg SEC_IMAGE_DIGEST_V ++ dg SEC_DMC_DIGEST_V ++
    sha3 d.sec.tileFrame ++ slice (d.fuses.ownerDigest.getD []) 0 64 ++ (if p = 0 then zeros 280 else d.partReport p)
  body ++ d.aliasSig body
/-- ATTEST. -/
def Dev.secAttest (d : Dev) (c p : Nat) (nonce : List Byte) : SecOut :=
  if !(if p = 0 then d.secOwner c else d.secCovers c p) then secFail d dtRole else secOk d (d.report p nonce)

/-! ## The engine (R453, R498) -/

/-- A call is carried out. -/
def Dev.secDo (d : Dev) (c : Nat) : SecOp → SecOut
  | .challenge => d.secChallenge c
  | .bind role part pk sigOk => d.secBind c role part.val part pk sigOk
  | .attest part nonce => d.secAttest c part.val nonce
  | .getCert role => d.secCert role
  | .getDigests part first => d.secDigests c part.val first
  | .kemGet part => d.secKem c part.val
  | .secretPut m => d.secSecret c m
  | .enroll kind auth digest pk sigOk => d.secEnroll kind auth digest pk sigOk
  | .commitSvn => d.secCommit c
  | .flashErase offset count => d.secErase c offset count
  | .flashWrite offset data => d.secFlash c offset data
  | .other _ => secBad d

/-- A call is carried out and answered. -/
def Dev.secServe (d : Dev) (c tag : Nat) (op : SecOp) : Dev :=
  let o := d.secDo c op
  o.dev.secReply c tag (secOpCode op) o.st o.detail o.result

/-- An uncorrectable error in SEC memory (R498): the call is answered BUSY and SEC restarts from its ROM. -/
def Dev.secFault (d : Dev) (c tag : Nat) (op : SecOp) : Dev :=
  let d := d.log { cls := 2, sev := 3, unit := 13, detail := [Config.recordByte d.free 0, Config.recordByte d.free 1] }
  let d := d.draw.log { cls := 0x14, sev := 3, related := some d.lastFlt, detail := leBytes 1 2 }
  ({ d with sec := { d.sec with restarting := true } } : Dev).secReply c tag (secOpCode op) stNopBusy 0 []

/-- The one call that is served before the boot image runs (R468). -/
def earlyCall : SecOp → Bool
  | .getCert _ => true
  | _ => false

/-- The operation of a call: that of its command, or none of the table's (R454). -/
def callOp (h : NHdr) (op : SecOp) : SecOp := match h.otherOp with | some n => .other n | none => op
/-- LEN of a SEC_CALL is the one that its operation gives it (R412, R454). -/
def callLen (h : NHdr) (op : SecOp) : Bool :=
  match secBody op with
  | some n => hasLen h (8 + n)
  | none => decide (8 ≤ h.len) && decide (h.len ≤ 8192)

/-- A SEC_CALL arrives (R453): it is served in its turn. `ue` says that SEC's memory fails under it. -/
def Dev.secCall (d : Dev) (h : NHdr) (tag : Nat) (o : SecOp) (ue : Bool) : Dev :=
  let c := h.dctx.val
  let op := callOp h o
  d.nopraRx h true (earlyCall op) (callLen h op) (fun st d => d.secReply c tag (secOpCode op) st 0 []) fun d =>
    if d.sec.restarting then
      if d.sec.calls.length < 64 then { d with sec := { d.sec with calls := d.sec.calls ++ [⟨c, tag, op⟩] } }
      else d.secReply c tag (secOpCode op) stNopBusy 0 []
    else if ue then d.secFault c tag op
    else d.secServe c tag op

/-- CHALLENGE (R454). -/
def execChallenge (h : NHdr) (tag : Nat) (ue : Bool) (s : State) := run (fun d => d.secCall h tag .challenge ue) s
/-- BIND (R455). -/
def execBind (h : NHdr) (tag role : Nat) (part : PartId) (pk : List Byte) (sigOk ue : Bool) (s : State) :=
  run (fun d => d.secCall h tag (.bind role part pk sigOk) ue) s
/-- ATTEST (R459). -/
def execAttest (h : NHdr) (tag : Nat) (part : PartId) (nonce : List Byte) (ue : Bool) (s : State) :=
  run (fun d => d.secCall h tag (.attest part nonce) ue) s
/-- GET_CERT (R452). -/
def execGetCert (h : NHdr) (tag role : Nat) (ue : Bool) (s : State) := run (fun d => d.secCall h tag (.getCert role) ue) s
/-- GET_DIGESTS (R460). -/
def execGetDigests (h : NHdr) (tag : Nat) (part : PartId) (first : Nat) (ue : Bool) (s : State) :=
  run (fun d => d.secCall h tag (.getDigests part first) ue) s
/-- KEM_GET (R457). -/
def execKemGet (h : NHdr) (tag : Nat) (part : PartId) (ue : Bool) (s : State) := run (fun d => d.secCall h tag (.kemGet part) ue) s
/-- SECRET_PUT (R457, R458). -/
def execSecretPut (h : NHdr) (tag : Nat) (m : SecretMsg) (ue : Bool) (s : State) := run (fun d => d.secCall h tag (.secretPut m) ue) s
/-- ENROLL (R456). -/
def execEnroll (h : NHdr) (tag kind auth : Nat) (digest pk : List Byte) (sigOk ue : Bool) (s : State) :=
  run (fun d => d.secCall h tag (.enroll kind auth digest pk sigOk) ue) s
/-- COMMIT_SVN (R467). -/
def execCommitSvn (h : NHdr) (tag : Nat) (ue : Bool) (s : State) := run (fun d => d.secCall h tag .commitSvn ue) s
/-- FLASH_ERASE (R454, R461). -/
def execFlashErase (h : NHdr) (tag offset count : Nat) (ue : Bool) (s : State) :=
  run (fun d => d.secCall h tag (.flashErase offset count) ue) s
/-- FLASH_WRITE (R454, R461). -/
def execFlashWrite (h : NHdr) (tag offset : Nat) (data : List Byte) (ue : Bool) (s : State) :=
  run (fun d => d.secCall h tag (.flashWrite offset data) ue) s

/-- SEC_RESTART_DONE (R498): the calls that waited are served in order. -/
def execSecRestartDone (s : State) :=
  run (fun d =>
    if d.sec.restarting then
      d.sec.calls.foldl (fun d w => if d.ctxState w.ctx = 2 then d.secServe w.ctx w.tag w.op else d)
        { d with sec := { d.sec with restarting := false, calls := [] } }
    else d) s

end Sys2Proof.Machine
end

