-- ==== Sys2Proof/Machine/MeterCmd.lean ====
section
/-! DEFINITION. The commands of the meter (R474 to R487). -/

namespace Sys2Proof.Machine

/-- The meter right after its reset (R474, R476, R484): a new chain, meter time 0, every register of R488 at its reset value. -/
def meterFresh (d : Dev) (chain : List Byte) (romOk calOk : Bool) : Meter :=
  { Meter.init with romOk := romOk, calOk := calOk, chain := slice chain 0 32, snap := meterCounters d }

/-- The delivery logic starts with the new chain (R486). -/
def Dev.newChain (d : Dev) : Dev := { d with nop := { d.nop with meterNext := 0, meterSent := [] } }

/-- The meter is reset: it lays down the old chain (R474, R484). -/
def State.meterReset (s : State) (chain : List Byte) (romOk calOk : Bool) : State :=
  { s with mtr := meterFresh s.dev chain romOk calOk, dev := s.dev.newChain }

/-- METER_RESET: VDD_MTR rises (R474). -/
def execMeterReset (chain : List Byte) (romOk calOk : Bool) (s : State) : Host.Outcome State Fault Refusal :=
  .next (s.meterReset chain romOk calOk)
/-- METER_WATCHDOG (R474): a meter without supply has no watchdog. -/
def execMeterWatchdog (chain : List Byte) (romOk calOk : Bool) (s : State) : Host.Outcome State Fault Refusal :=
  .next (if s.mtr.powered then s.meterReset chain romOk calOk else s)
/-- VDD_MTR_FALL (R474, R484): the meter stops, and its records go with its supply. -/
def execVddMtrFall (s : State) : Host.Outcome State Fault Refusal :=
  runMeter (fun _ m => { m with powered := false, records := [] }) s

/-- Closes the record that ends at the present multiple of INTERVAL, if none closed there yet (R479). -/
def Meter.closeDue (m : Meter) (d : Dev) : Meter :=
  if m.atInterval d && m.start != m.ticks then m.close d d false false else m

/-- Energy of one sample in picojoules: voltage in mV times current in mA over 1 us (R477). -/
def samplePj (r : Nat × Nat) : Nat := r.1 * r.2
/-- The accumulators after one sample of the ten rails (R477, R488). -/
def Meter.sample (m : Meter) (rails : List (Nat × Nat)) : Meter :=
  let pj (i : Nat) : Nat := m.frac.getD i 0 + samplePj (rails.getD i (0, 0))
  let uj (i : Nat) : Nat := pj i / 1000000
  let plus (l : List Nat) : List Nat := (List.range 10).map fun i => l.getD i 0 + uj i
  let n := m.samples + 1
  let sec := plus m.second
  let whole := n % 1000000 == 0
  { m with
    samples := n, frac := (List.range 10).map (fun i => pj i % 1000000), acc := plus m.acc, total := plus m.total
    second := if whole then List.replicate 10 0 else sec
    power := if whole then sec.map (· / 1000) else m.power }
/-- METER_SAMPLE (R477). -/
def execMeterSample (rails : List (Nat × Nat)) (s : State) : Host.Outcome State Fault Refusal :=
  runMeter (fun d m => if m.powered then (m.closeDue d).sample rails else m) s
/-- METER_SEAL_CHECK (R476): a strip that failed keeps the seal broken until the next reset of the meter. -/
def execMeterSealCheck (failed : BitVec 10) (s : State) : Host.Outcome State Fault Refusal :=
  runMeter (fun _ m => if m.powered then { m with strips := m.strips ||| failed } else m) s

/-- Samples at the next multiple of INTERVAL; the present one while its record is still open. -/
def Meter.nextDue (m : Meter) (d : Dev) : Nat :=
  let n := d.fuses.interval * 1000000
  if m.atInterval d && m.start != m.ticks then m.samples else (m.samples / n + 1) * n
/-- Meter time goes on to `n` samples, a whole number of seconds, and no command has brought the samples between: the meter second that
ends there holds those that came (R488). -/
def Meter.goTo (m : Meter) (n : Nat) : Meter :=
  if n ≤ m.samples then m
  else { m with
    samples := n, second := List.replicate 10 0
    power := if n ≤ m.samples + 1000000 then m.second.map (· / 1000) else List.replicate 10 0 }
/-- METER_INTERVAL_CLOSE (R479): meter time reaches the next multiple of INTERVAL, and the record closes. -/
def execMeterIntervalClose (s : State) : Host.Outcome State Fault Refusal :=
  runMeter (fun d m => if m.powered then (m.goTo (m.nextDue d)).closeDue d else m) s

/-- METER_RECORD_DELIVER (R434, R437, R486): the next record goes to the context of NOP_PUSH, which must be the owner's. A
change of METER_DELIVERY takes effect between two records (R32). -/
def execMeterRecordDeliver (s : State) : Host.Outcome State Fault Refusal :=
  runRead (fun m d =>
    if !d.nop.meterSent.isEmpty then d
    else
      let d := d.applyPend 11
      let c := d.get NOP_PUSH_CTX
      if d.duty 11 || !d.pushReady || (d.ctx c).cred != .owner then d
      else
        match m.undelivered d.nop.meterNext with
        | some x =>
          ({ d with nop := { d.nop with meterNext := x.seq + 1, meterSent := [x.seq] } } : Dev).queueMsg c
            { mkMsg 0x50 0 c true (beBytes 2 3 ++ beBytes 2 1 ++ zeros 4 ++ meterBytes x) with record := some x.seq }
        | none => d) s

end Sys2Proof.Machine
end

