-- ==== Sys2Proof/Machine/Spare.lean ====
section
/-! DEFINITION. Sparing, scrubbing and ageing (R491 to R496, R505 to R517): tile shifts, repairs of rows, lines and lanes, the
walkers, the checks of the arrays, and the commands of SPR_CMD and FLT_SCRUB_CMD. -/

namespace Sys2Proof.Machine

/-! ## Tile shifts (R507 to R510) -/

/-- The positions that the tiles of a segment take: the spare, and each the one its neighbour frees (R508). -/
def Dev.shiftPlaces (d : Dev) (n : Nat) : List (Nat × Nat) :=
  let seg := segment n
  seg.zip (spareFor n :: seg.map d.physOf)

/-- What the repair fuses say of a position goes with the tile that moves there (R150, R260, R505). What TILE_MX_REPAIR shows is copied with
the tile's registers, and does not change (R18, R508). -/
def Dev.loadRepairs (d : Dev) (n : Nat) : Dev :=
  let ph := d.physOf n
  let rc := mget d.fuses.mxRepairs ([], []) ph
  (d.modTile n fun t =>
    { t with badRows := rc.1, badCols := rc.2, repairWait := [], lineRepairs := mget d.fuses.lineSpares [] ph, repairDue := [], scrubDue := [] }).set
    (SPR_T_HEALTH_MARGIN n) (mget d.power.margins 0 ph)

/-- The segment of a shift is quiet (R507): in partition 0, or its region does not run and, for a fenced tile, does not drain
either, or no request is outstanding and the segment is empty (R360). -/
def Dev.shiftIsQuiet (d : Dev) (x : Shift) : Bool :=
  let seg := segment x.target
  let p := (d.tile (seg.headD 0)).part
  let st := d.regionState p
  p == 0 || (st != rgRunning && !(x.fenced && st == rgDraining)) ||
    (st == rgRunning && d.get (ADM_P_STATUS_OUTSTANDING p) == 0 && seg.all fun n => (d.tile n).isEmpty)

/-- SHIFT_RESUME: a DEFERRED shift finds R309 holding. A shift that has not come to COPY waits while the management controller restarts
(R547), and so it does in QUIET. -/
def execShiftResume (s : State) :=
  runM (fun d =>
    match d.spare.shift with
    | some x => if d.shiftState = 1 && (d.shiftBlock x.target).isNone && !d.shiftWaits then d.shiftQuiet x.target else d
    | none => d) s

/-- SHIFT_QUIET_DONE: HOLD is set where the region runs without it; a quiet segment starts to be copied. -/
def execShiftQuietDone (s : State) :=
  runM (fun d =>
    match d.spare.shift with
    | some x =>
      if d.shiftState ≠ 2 || d.shiftWaits then d
      else
        let p := (d.tile x.target).part
        let late := p != 0 && d.regionState p == rgRunning && !d.is (ADM_P_CTRL_HOLD p)
        let d := if late then
            ({ d with spare := { d.spare with shift := some { x with setHold := true } } } : Dev).flag (ADM_P_CTRL_HOLD p) true
          else d
        if d.shiftIsQuiet x then d.setShift 3 fun y => { y with copyFrom := d.regionState p } else d
    | none => d) s

/-- SHIFT_QUIET_TIMEOUT: LIMIT cycles after the last request ended, the segment is still not empty; the HOLD that QUIET set is
cleared, and the shift is DEFERRED. -/
def execShiftQuietTimeout (s : State) :=
  runM (fun d =>
    match d.spare.shift with
    | some x =>
      let p := (d.tile x.target).part
      match x.zeroAt with
      | some t =>
        if d.shiftState ≠ 2 || p == 0 || d.regionState p != rgRunning || d.shiftIsQuiet x then d
        else
          let d := d.toTick (t + d.get (PART_P_DRAIN_LIMIT p))
          let d := if x.setHold then d.flag (ADM_P_CTRL_HOLD p) false else d
          (d.set SPR_ACTION_BLOCKING p).setShift 1 fun y => { y with setHold := false, deferred := true, blocking := p, zeroAt := none }
      | none => d
    | none => d) s

/-- The tile is a source of the copy of a shift (R508, R509): a moved tile of a partition, but for the fenced one. -/
def Dev.copySource (d : Dev) (x : Shift) (n : Nat) : Bool :=
  (segment x.target).contains n && (d.tile n).part != 0 && !(x.fenced && n == x.target)
/-- The copy meets an uncorrectable word of tile n: one that is known, else a fresh one at a free place (R498, R507). Tile n is fenced and
becomes what the shift is for. -/
def Dev.copyMet (d : Dev) (x : Shift) (n : Nat) : Dev :=
  let off := match (d.tile n).bad with
    | w :: ws => ws.foldl min w
    | [] => Config.copyError d.free
  let d := d.draw.modTile n fun t => t.markBad off
  let d := d.setShift 2 fun y => { y with target := n, fenced := true, zeroAt := none }
  let d := d.set SPR_ACTION_TARGET n
  let d := if x.fenced then d.addNeed 1 x.target 0 else d
  (d.ueRecord n off rdCopy 0 0 3 4).fence n 1
/-- SHIFT_COPY_DONE: every moved tile's state is copied; or a source tile holds an uncorrectable word, known before or met now, is
fenced, and becomes what the shift is for. The tile nearest the spare row is copied first (R508). -/
def execShiftCopyDone (badTile : Option TileId) (s : State) :=
  runM (fun d =>
    match d.spare.shift with
    | some x =>
      if d.shiftState ≠ 3 then d
      else
        match (segment x.target).find? fun n => d.copySource x n && (badTile.map (·.val) == some n || !(d.tile n).bad.isEmpty) with
        | some n => d.copyMet x n
        | none => if badTile.isNone then d.setShift 4 fun y => y else d
    | none => d) s

/-- The reduction entries of partition p follow the tiles' new positions (R326); once revoked, they stay so (R327). -/
def Dev.replaceReductions (d : Dev) (p : Nat) : Dev :=
  let b := (d.region p).img
  let gone := (d.tilesOf p).any (fun n => (d.tile n).fenced) ||
    d.routers.any fun r => r.2.reds.any fun e => (d.tile (e.1 / 16)).part == p && e.2.revoked
  let old (r k : Nat) : Reduction := { mget (d.router r).reds Reduction.init k with revoked := gone }
  let new : List (Nat × Nat × Reduction) := ((imgSplices b).filter fun s => s.2.flags == 1).flatMap fun s =>
    (d.reductionInputs b s.1 s.2.s).map fun x => (x.1, s.1 * 16 + s.2.s, { old x.1 (s.1 * 16 + s.2.s) with inputs := x.2 })
  let strip (r : Nat × Router) : Nat × Router := (r.1, { r.2 with reds := r.2.reds.filter fun e => (d.tile (e.1 / 16)).part != p })
  new.foldl (fun d e => d.modRouter e.1 fun y => { y with reds := mset y.reds e.2.1 e.2.2 }) { d with routers := d.routers.map strip }

/-- The fenced tile's identity gets a position that holds zeros; its region is cleared to EMPTY, but for the retained ranges of
its other tiles (R509). -/
def Dev.fencedAnew (d : Dev) (n : Nat) : Dev :=
  let p := (d.tile n).part
  let fresh (d : Dev) : Dev := d.clearRegs (0xFF0600000000 + n * 0x10000) (0xFF0600000000 + (n + 1) * 0x10000)
  let zero (t : Tile) : Tile := { t.loadClear [] t.hashed with held := false, clearing := false, q0 := .on, q1 := .on, q2 := .on, q3 := .on, scrubPos := 0, twice := [] }
  if p = 0 then fresh (d.modTile n zero)
  else
    let keep := ((d.tilesOf p).filter (· != n)).flatMap fun m => (d.tile m).retained.map fun r => (m, r)
    let d := d.clearRegion p keep (d.is (PART_P_CFG_MAP p))
    let d := (d.tilesOf p).foldl (fun d m => d.modTile m fun t => { t with held := false }) d
    let d := { d with trees := d.trees.filter fun t => t.2.part != p }
    fresh ((d.modRegion p fun r => { Region.init with lanes := r.lanes }).setRegionState p rgEmpty)

/-- The segment's tiles take their new positions, and the fuses keep the spare and the position given up (R505, R508); the HOLD that
QUIET set is cleared. -/
def Dev.shiftMoved (d : Dev) (x : Shift) : Dev :=
  let n := x.target
  let old := d.physOf n
  let places := d.shiftPlaces n
  let d : Dev := { d with
    spare := { d.spare with
      phys := places.foldl (fun m e => mset m e.1 e.2) d.spare.phys
      arrayFaults := d.spare.arrayFaults.filter fun e => e.1 != n }
    fuses := { d.fuses with
      spares := d.fuses.spares ++ [(spareFor n, old)]
      retired := old :: d.fuses.retired.filter (· != old) } }
  let d := places.foldl (fun d e => d.loadRepairs e.1) d
  if x.setHold then d.flag (ADM_P_CTRL_HOLD (d.tile n).part) false else d

/-- What goes on at the new positions (R509, R510): a fenced tile anew, the reductions of a running region. -/
def Dev.shiftResumed (d : Dev) (x : Shift) : Dev :=
  let n := x.target
  if x.fenced then (d.fencedAnew n |>.modTile n fun t => { t with fenced := false }).flag (SPR_T_HEALTH_FENCED n) false
  else if (d.tile n).part = 0 then d
  else d.replaceReductions (d.tile n).part

/-- A timed region whose paths have lengthened without a detour runs best effort from now on (R510). -/
def Dev.shiftSlow (d : Dev) (x : Shift) : Bool :=
  let p := (d.tile x.target).part
  !x.fenced && p != 0 && (d.region p).timed && !(d.region p).detour

/-- The shift ends: its SPARE record (R502), the level, and the next one that waits (R507, R515). -/
def Dev.shiftEnded (d : Dev) (x : Shift) (old : Nat) (moved : Nat) (slow : Bool) : Dev :=
  let n := x.target
  let flags := (if x.fenced && (d.tile n).part != 0 then 1 else 0) + (if slow then 2 else 0) + (if x.deferred then 4 else 0)
  let d := d.spared 1 (some n) 0xFF (leBytes 1 moved ++ leBytes 2 old ++ leBytes 2 (d.physOf n) ++ leBytes 1 flags ++
    leBytes 1 x.blocking ++ leBytes 4 (min (d.tick - x.began) (2 ^ 32 - 1)) ++ leBytes 1 0) (d.rises 1)
  let d := ({ d with spare := { d.spare with shift := none } } : Dev).set SPR_ACTION_STATE 0
  (((d.set SPR_ACTION_BLOCKING 0).dropNeed 1 n 0).raiseLevel 1 0).nextShift

/-- Tiles of partitions that a shift has moved. -/
def Dev.shiftCount (d : Dev) (x : Shift) (places : List (Nat × Nat)) : Nat :=
  (places.filter fun e => (d.tile e.1).part != 0 && !(x.fenced && e.1 == x.target)).length

/-- SHIFT_SWITCH_DONE: 64 cycles after SWITCH began, the routers take the new positions (R507 to R510). -/
def execShiftSwitchDone (s : State) :=
  runM (fun d =>
    match d.spare.shift with
    | some x =>
      if d.shiftState ≠ 4 then d
      else
        let e := d.toTick (x.since + 64)
        let z := (e.shiftMoved x).shiftResumed x
        let w := if z.shiftSlow x then z.modRegion (z.tile x.target).part fun r => { r with bestEffort := true } else z
        w.shiftEnded x (e.physOf x.target) (w.shiftCount x (e.shiftPlaces x.target)) (z.shiftSlow x)
    | none => d) s

/-! ## Rows and lanes (R398, R512) -/

/-- The row buffers of a unit in use, in its status register. -/
def rowField (u : Nat) : RF := if u < 12 then HBM_S_STATUS_ROWBUF u else DDR_C_STATUS_ROWBUF (u - 12)
/-- ROW_COPY (R376, R398, R516): the row, copied in slots that nobody used, is in its buffer. How many slots a row takes is not stated, so one
at least (log 31). -/
def execRowCopy (unit : Fin 20) (row : Nat) (s : State) :=
  runM (fun d =>
    let u := unit.val
    if !(d.mem.rowCopy.contains (u, row) && d.mem.rowGiven.contains (u, row)) then d
    else
      let d : Dev := { d with mem := { d.mem with
        rowCopy := d.mem.rowCopy.filter (· != (u, row)), rowGiven := d.mem.rowGiven.filter (· != (u, row))
        rowBufs := d.mem.rowBufs ++ [(u, row)] } }
      let used := (d.mem.rowBufs.filter (·.1 == u)).length
      let full := used == rowRoom u
      let d := (d.set (rowField u) used).spared 6 none (if u < 12 then 9 else 10) (zeros 11 ++ leBytes 1 (rowRoom u - used)) (full && d.rises 1)
      if full then (d.raiseLevel 1 (if u < 12 then 6 else 8)).adviseUnit u else d) s

/-- The router and output that send on a die crossing's forward or reverse channel (R332). -/
def crossingEnd (k : Nat) (fwd : Bool) : Nat × Dir :=
  if k < 16 then (if fwd then (physAt 7 k, .e) else (physAt 8 k, .w))
  else if fwd then (physAt (k - 16) 7, .s) else (physAt (k - 16) 8, .n)
/-- LANE_REPAIR (R321, R512): the spare lane of a group takes over for the crossing's lane that has waited longest, with a pause that
counts as a replay of its channel. -/
def execLaneRepair (link : Fin 32) (s : State) :=
  runM (fun d =>
    let k := link.val
    match d.spare.laneWait.find? fun l => laneLink l == k with
    | none => d
    | some l =>
      let g := laneGroup l
      let d : Dev := { d with
        spare := { d.spare with laneWait := d.spare.laneWait.filter (· != l), lanesUsed := mset d.spare.lanesUsed g 1 }
        fuses := { d.fuses with laneSpares := g :: d.fuses.laneSpares.filter (· != g) } }
      let c := crossingEnd k (l / 1024 % 2 == 0)
      let d := (d.set (MESH_XLINK_SPARES_USED k) (d.sparesUsed k)).countReplay c.1 c.2
      (d.spared 4 none 8 (zeros 12) (d.rises 1)).raiseLevel 1 4) s

/-! ## Array checks and ageing (R511, R514) -/

/-- The ARRAY record: row or lane, column, which of them, and the time of the last good check (R502). -/
def Dev.arrayRecord (d : Dev) (n unit row col which action : Nat) : Dev :=
  d.log { cls := 0x11, sev := 3, part := (d.tile n).part, tile := some n, unit := unit, action := action,
          detail := leBytes 1 row ++ leBytes 1 col ++ leBytes 1 which ++ zeros 5 ++ timeBytes (d.tile n).lastCheck }
/-- A faulty row (or column) is mapped out while one can be; the third fences the tile (R150, R511). -/
def Dev.arrayFault (d : Dev) (n : Nat) (isRow : Bool) (i : Nat) : Dev :=
  let t := d.tile n
  let mapped := if isRow then t.badRows else t.badCols
  let waiting := ((t.repairWait.filter fun e => e.1 == isRow).map (·.2)) ++
    ((d.spare.arrayFaults.filter fun e => e.1 == n && e.2.1 == isRow).map (·.2.2))
  if mapped.contains i || waiting.contains i then d
  else
    let last := decide (2 ≤ mapped.length + waiting.length)
    let action := if last then (if t.fenced then 0 else 4) + (if d.rises 2 then 16 else 0) else 0
    let d := if isRow then d.arrayRecord n 14 i 0 1 action else d.arrayRecord n 14 0 i 2 action
    if last then (d.raiseLevel 2 2).fence n 2
    else if !d.sparesItself then
      ({ d with spare := { d.spare with arrayFaults := d.spare.arrayFaults ++ [(n, isRow, i)] } } : Dev).addNeed 2 n i
    else d.modTile n fun t => { t with repairWait := t.repairWait ++ [(isRow, i)] }
/-- ARRAY_CHECK (R511): made once the engine has been idle for 2,048 cycles with an empty queue. -/
def execArrayCheck (tile : TileId) (fault : Option ArrayFault) (s : State) :=
  runM (fun d =>
    let n := tile.val
    if (d.tile n).mx.busy then d
    else
      let d := d.toTick ((d.tile n).mxIdle + 2048)
      match fault with
      | none => d.modTile n fun t => { t with lastCheck := d.now }
      | some (.row i) => d.arrayFault n true i
      | some (.col i) => d.arrayFault n false i
      | some (.lane i) => (d.arrayRecord n 15 i 0xFF 4 (if (d.tile n).fenced then 0 else 4)).fence n 2) s

/-- The logical tile that a position hosts. -/
def Dev.hosted (d : Dev) (ph : Nat) : Option Nat := allTiles.find? fun n => d.physOf n == ph
/-- The margin of a position that has no AGEING record yet lies below ADVISE_PS: the record, once (R502, R514). -/
def Dev.ageRecord (d : Dev) (ph margin : Nat) (tile : Option Nat) (action : Nat) : Dev :=
  if d.power.aged.contains ph then d
  else
    ({ d with power := { d.power with aged := d.power.aged ++ [ph] } } : Dev).log
      { cls := 0x0E, sev := 1, part := (match tile with | some n => (d.tile n).part | none => 0), tile := tile, action := action,
        detail := leBytes 2 margin ++ leBytes 1 (mget d.power.temps 0 ph) }
/-- The margin of a tile: below ADVISE_PS one AGEING record and advice; below FAIL_PS the tile is fenced (R514). -/
def Dev.aged (d : Dev) (n margin : Nat) : Dev :=
  let low := decide (margin < d.get SPR_CFG_ADVISE_PS)
  let fails := decide (margin < d.get SPR_CFG_FAIL_PS)
  let up := !d.is (SPR_T_HEALTH_ADVISED n) && d.rises 1
  let d := if low then d.ageRecord (d.physOf n) margin (some n) ((if fails && !(d.tile n).fenced then 4 else 0) + (if up then 16 else 0)) else d
  let d := if fails then d.fence n 3 else d
  if low then d.adviseTile n else d
/-- The margin of a spare that hosts no tile: below ADVISE_PS one AGEING record, and its pool counts it as used (R506, R514, R515). -/
def Dev.agedSpare (d : Dev) (ph margin : Nat) : Dev :=
  if isSpare ph && decide (margin < d.get SPR_CFG_ADVISE_PS) then
    (d.ageRecord ph margin none (if d.rises 1 then 16 else 0)).raiseLevel 1 0
  else d
/-- AGEING_MEASURE (R506, R514, R516): the margin of a position, spares included. -/
def execAgeingMeasure (phys : Fin 512) (margin : Nat) (s : State) :=
  runM (fun d =>
    let ph := phys.val
    let m := min margin 65535
    if 68 ≤ ph % 128 then d
    else
      let d : Dev := { d with power := { d.power with margins := mset d.power.margins ph m } }
      match d.hosted ph with
      | some n => ((d.set (SPR_T_HEALTH_MARGIN n) m).aged n m).nextShift
      | none => (d.agedSpare ph m).nextShift) s

/-- FAULT_PULSE_END (R517): 1 ms after the latest record of severity 3 or 4. -/
def execFaultPulseEnd (s : State) := runM (fun d => (d.toTick d.power.faultUntil).faultLine) s

/-! ## The walkers (R493, R494) -/

/-- Walker w is reset from its hard-wired defaults, at the start of the tile it was scrubbing, its first where it had come to none; the
sixteenth reset within a second stops it (R494, R515), and its partner scrubs its tiles too. -/
def Dev.walkerReset (d : Dev) (w reason : Nat) : Dev :=
  let x := mget d.scrub.walkers Walker.init w
  let k := x.resetsSecond + 1
  let ts := d.walkerTiles w
  let pos := if ts.contains x.pos then x.pos else ts.headD 0
  let d := d.modWalker w fun y => { y with pos := pos, flops := (64, 64, 64), resetsSecond := k, beatAt := d.tick, moved := true }
  let d := ((d.modTile pos fun t => { t with scrubPos := 0 }).set (FLT_WALKER_POSITION w) pos).add (FLT_WALKER_RESETS w) 1
  let d := d.log { cls := 0x0B, sev := 1, action := if k = 16 && d.rises 1 then 16 else 0
                   detail := leBytes 1 (w / 2) ++ leBytes 1 (if w % 2 = 0 then 1 else 2) ++ leBytes 1 reason }
  if k = 16 then (d.flag (FLT_WALKER_STOPPED w) true).raiseLevel 1 11 else d
/-- Walker w and its partner run. -/
def Dev.walkersUp (d : Dev) (w : Nat) : Bool := !d.is (FLT_WALKER_STOPPED w) && !d.is (FLT_WALKER_STOPPED (walkerPartner w))
/-- The votes on walker w's configuration since its latest heartbeat (R493): the disagreements are counted, and every bit is its majority in
all three flops, which upsets of two flops of one bit have changed where `ok` says that the CRC differs (R494). -/
def Dev.walkerVoted (d : Dev) (w : Nat) (ok : Bool) : Dev :=
  let k := Config.walkerVotes d.free
  let u := Config.walkerUpset d.free
  (d.draw.add (FLT_WALKER_VOTES w) k).modWalker w fun x =>
    (if ok then x else { x with flops := (x.flops.1 ^^^ u.1, x.flops.2.1 ^^^ u.2.1, x.flops.2.2 ^^^ u.2.2) }).vote
/-- WALKER_HEARTBEAT (R493, R494): 1,024 cycles after the last one; its partner resets a walker whose configuration CRC differs. -/
def execWalkerHeartbeat (die : Fin 4) (b configOk : Bool) (s : State) :=
  runM (fun d =>
    let w := 2 * die.val + (if b then 1 else 0)
    if d.is (FLT_WALKER_STOPPED w) then d
    else
      let d := d.toTick ((mget d.scrub.walkers Walker.init w).beatAt + 1024)
      let d := (d.modWalker w fun x => { x with beatAt := d.tick }).walkerVoted w configOk
      if configOk || !d.walkersUp w then d else d.walkerReset w 1) s
/-- WALKER_HEARTBEAT_TIMEOUT (R494): 4,096 cycles without a heartbeat, or, where the walker is stuck, without an advance of its
position. -/
def execWalkerHeartbeatTimeout (die : Fin 4) (b stuck : Bool) (s : State) :=
  runM (fun d =>
    let w := 2 * die.val + (if b then 1 else 0)
    let x := mget d.scrub.walkers Walker.init w
    if !d.walkersUp w then d
    else if stuck then
      if x.moved then d.modWalker w fun y => { y with moved := false } else d.walkerReset w 2
    else (d.toTick (x.beatAt + 4096)).walkerReset w 0) s

/-! ## Host-named scrubbing (R496) -/

/-- Lines or 64-byte accesses of a command: where it starts, and how many it makes. -/
def Dev.scrubRange (d : Dev) (tier first count : Nat) : Nat × Nat :=
  if tier = 0 then (first, min count (scrubLen - first))
  else
    let pages := (if tier = 1 then d.hbmBytes else d.ddrBytes) / pageBytes
    (first * 32768, min count (pages - first) * 32768)
/-- A write of FLT_SCRUB_CMD: GO starts a command where none runs and SCRUB is effective as 1; one that names nothing ends at
once. -/
def Dev.scrubCmdWr (d : Dev) (c : Cred) (v : Nat) : Dev × Byte :=
  ownerWr c d fun d =>
    let d := ((d.take FLT_SCRUB_CMD_TIER v).take FLT_SCRUB_CMD_TILE v).take FLT_SCRUB_CMD_FIRST v
    let d := d.take FLT_SCRUB_CMD_COUNT v
    let tier := d.get FLT_SCRUB_CMD_TIER
    if FLT_SCRUB_CMD_GO.of v = 0 || !d.duty 3 || d.scrub.cmd.isSome || tier == 3 then (d, stOk)
    else
      let r := d.scrubRange tier (d.get FLT_SCRUB_CMD_FIRST) (d.get FLT_SCRUB_CMD_COUNT)
      if r.2 = 0 then (d.flag FLT_SCRUB_CMD_DONE true, stOk)
      else
        (({ d with scrub := { d.scrub with cmd := some (tier, d.get FLT_SCRUB_CMD_TILE, r.1, r.2) } } : Dev).flag FLT_SCRUB_CMD_DONE false, stOk)
/-- SCRUB_COMMAND (R496): a write of FLT_SCRUB_CMD with GO set. -/
def execScrubCommand (cred : Cred) (value : Word) (s : State) :=
  run (fun d => ended (d.scrubCmdWr cred (setBits value.toNat 62 62 1))) s

/-! ## SPR_CMD (R506, R507, R518) -/

/-- The action of SPR_CMD; none where a precondition fails. -/
def Dev.sprAction (d : Dev) (kind target line : Nat) : Option Dev :=
  if kind = 1 then
    if target < 256 && d.spare.shift.isNone && d.spareFree (spareFor target) then some ((d.dropNeed 1 target 0).startShift target) else none
  else if kind = 15 then
    if target < 256 && !(d.tile target).fenced then
      some { d with spare := { d.spare with fenceNext := d.spare.fenceNext.filter (· != target) ++ [target] } }
    else none
  else d.repairAction kind target line

/-- A write of SPR_CMD: GO starts the action or is refused. A fence ordered so takes effect as the next cycle begins (R500). -/
def Dev.sprCmdWr (d : Dev) (c : Cred) (v : Nat) : Dev × Byte :=
  ownerWr c d fun d =>
    let d := ((d.take SPR_CMD_TARGET v).take SPR_CMD_LINE v).take SPR_CMD_KIND v
    let d := d.w1c SPR_CMD_REFUSED v
    if SPR_CMD_GO.of v = 0 then (d, stOk)
    else
      match d.sprAction (d.get SPR_CMD_KIND) (d.get SPR_CMD_TARGET) (d.get SPR_CMD_LINE) with
      | some d' => (d'.flag SPR_CMD_REFUSED false, stOk)
      | none => (d.flag SPR_CMD_REFUSED true, stOk)

/-- A value of SPR_CMD with GO set. -/
def sprCmd (kind target line : Nat) : Nat := target * 2 ^ 32 + line * 2 ^ 16 + kind * 2 ^ 8 + 1
/-- FENCE_CMD (R500). -/
def execFenceCmd (cred : Cred) (tile : TileId) (s : State) := runM (fun d => ended (d.sprCmdWr cred (sprCmd 15 tile.val 0))) s
/-- SPARE_CMD_TILE (R507). -/
def execSpareCmdTile (cred : Cred) (tile : TileId) (s : State) := runM (fun d => ended (d.sprCmdWr cred (sprCmd 1 tile.val 0))) s
/-- SPARE_CMD_ARRAY (R511). -/
def execSpareCmdArray (cred : Cred) (tile : TileId) (s : State) := runM (fun d => ended (d.sprCmdWr cred (sprCmd 2 tile.val 0))) s
/-- SPARE_CMD_LINE (R512): LINE has 16 bits. -/
def execSpareCmdLine (cred : Cred) (tile : TileId) (line : Nat) (s : State) :=
  runM (fun d => ended (d.sprCmdWr cred (sprCmd 3 tile.val (line % 2 ^ 16)))) s
/-- SPARE_CMD_LANE (R512). -/
def execSpareCmdLane (cred : Cred) (link : Fin 32) (s : State) := runM (fun d => ended (d.sprCmdWr cred (sprCmd 4 link.val 0))) s
/-- SPARE_CMD_HBM_LANE (R398). -/
def execSpareCmdHbmLane (cred : Cred) (stack : Fin 12) (s : State) := runM (fun d => ended (d.sprCmdWr cred (sprCmd 5 stack.val 0))) s
/-- SPARE_CMD_ROW (R398): LINE has 16 bits. -/
def execSpareCmdRow (cred : Cred) (unit : Fin 20) (row : Nat) (s : State) :=
  runM (fun d => ended (d.sprCmdWr cred (sprCmd 6 unit.val (row % 2 ^ 16)))) s
/-- SPARE_CMD_PORT (R436). -/
def execSpareCmdPort (cred : Cred) (port : PortId) (s : State) := runM (fun d => ended (d.sprCmdWr cred (sprCmd 7 port.val 0))) s

end Sys2Proof.Machine
end

