-- ==== Sys2Proof/Machine/Power.lean ====
section
/-! DEFINITION. Power, thermal and telemetry control (R535 to R546): envelope modes, adaptive voltage, PMBus, the thermal states,
the telemetry sets and the I3C target. -/

namespace Sys2Proof.Machine

/-! ## Envelope modes (R535 to R537) -/

/-- Package power limit of a mode, mW. -/
def modeLimit (m : Nat) : Nat := if m = 0 then 2800000 else if m = 1 then 2200000 else 1600000
/-- 10 s in array cycles. -/
def tenSeconds : Nat := 10 * secLen
/-- Whether the conditions of a rise of CAP hold (R537): NORMAL, and the average below 90 % of the limit of the mode above. -/
def Dev.capCool (d : Dev) : Bool :=
  d.get PWR_STATUS_STATE == 0 && 0 < d.get PWR_ENVELOPE_CAP &&
    decide (d.power.avg * 10 < modeLimit (d.get PWR_ENVELOPE_CAP - 1) * 9)
/-- Notes since when they have held. -/
def Dev.capWatch (d : Dev) : Dev :=
  { d with power := { d.power with coolSince := if d.capCool then some (d.power.coolSince.getD d.tick) else none } }
/-- CAP takes a mode, and ADMIT and ARRAY follow (R536); its latest step is noted, since CAP is lowered for power again only once that has
reached ARRAY (R549). -/
def Dev.setCap (d : Dev) (m : Nat) : Dev :=
  if d.get PWR_ENVELOPE_CAP = m then d
  else
    let d := (d.set PWR_ENVELOPE_CAP m).remode
    ({ d with power := { d.power with coolSince := none, capStep := m } } : Dev).capWatch
/-- CAP falls by one mode. -/
def Dev.capDown (d : Dev) : Dev := d.setCap (min 2 (d.get PWR_ENVELOPE_CAP + 1))

/-- A write of PWR_ENVELOPE (R536, R551). -/
def Dev.envWr (d : Dev) (c : Cred) (v : Nat) : Dev × Byte :=
  ownerWr c d fun d => (((d.takeIf PWR_ENVELOPE_REQ v fun x => decide (x < 3)).take PWR_ENVELOPE_AUTO v).remode, stOk)
/-- ENVELOPE_REQ (R536). -/
def execEnvelopeReq (cred : Cred) (value : Word) (s : State) := run (fun d => ended (d.envWr cred value.toNat)) s

/-- A THERMAL record (R543). -/
def Dev.thermalRecord (d : Dev) (event : Nat) (what : List Byte) : Dev :=
  d.log { cls := 0x12, sev := if event = 2 then 4 else 1,
          detail := leBytes 1 event ++ slice what 0 5 ++ leBytes 1 (d.get PWR_ENVELOPE_ADMIT) ++ leBytes 1 (d.get PWR_ENVELOPE_ARRAY) ++
            leBytes 4 d.power.avg }
/-- SOURCE, INDEX, temperature and threshold of a record that no single sensor causes (log 1). -/
def Dev.noSource (d : Dev) : List Byte := (List.range 5).map (Config.recordByte d.free)

/-- The sum over the rails of VOUT × IOUT, in mW, as PMBus last gave them (R537). -/
def Dev.railPower (d : Dev) : Nat := (d.power.rails.map fun e => e.2.vout * e.2.iout).sum / 10
/-- Notes the sum, and forgets those older than 100 ms. -/
def Dev.samplePower (d : Dev) : Dev :=
  { d with power := { d.power with
      samples := (d.power.samples.filter fun x => decide (d.tick < x.1 + 100 * msLen)) ++ [(d.tick, d.railPower)] } }
/-- The average of the sums of the last 100 ms; `mw` where PMBus gave none in that time (log 31). -/
def Dev.meanPower (d : Dev) (mw : Nat) : Nat :=
  let l := (d.power.samples.filter fun x => decide (d.tick < x.1 + 100 * msLen)).map (·.2)
  if l.isEmpty then mw else l.sum / l.length
/-- POWER_AVERAGE (R537, R539, R549): the average over 100 ms; the meter's rail powers stand in while a VDD_CORE regulator does
not answer. Above the limit of ARRAY's mode CAP falls, once its last step has reached ARRAY. -/
def execPowerAverage (mw : Nat) (s : State) :=
  runRead (fun m d =>
    let avg := if d.power.railTold.contains 0 then m.power.sum else d.meanPower mw
    let d := ({ d with power := { d.power with avg := avg } } : Dev).set PWR_STATUS_PKG_W (min (avg / 1000) 65535)
    let d :=
      if d.is PWR_ENVELOPE_AUTO && decide (modeLimit (d.get PWR_ENVELOPE_ARRAY) < avg) then
        let d := if d.get PWR_ENVELOPE_CAP < 2 && decide (d.power.capStep ≤ d.get PWR_ENVELOPE_ARRAY) then d.capDown else d
        (d.thermalRecord 4 d.noSource).draw
      else d
    d.capWatch) s

/-- CAP_RISE (R537): the conditions have held for 10 s. -/
def execCapRise (s : State) :=
  run (fun d =>
    match d.power.coolSince with
    | some t =>
      let d := d.toTick (t + tenSeconds)
      if d.capCool then d.setCap (d.get PWR_ENVELOPE_CAP - 1) else d.capWatch
    | none => d) s

/-! ## Adaptive voltage and the regulator stage (R538, R539) -/

/-- M of R538: the smallest margin among the positions that host a logical tile; none before one is measured. -/
def Dev.marginM (d : Dev) : Option Nat :=
  (allTiles.filterMap fun n => (d.power.margins.find? fun e => e.1 == d.physOf n).map (·.2)).foldl
    (fun m x => match m with | some y => some (min x y) | none => some x) none
/-- The boot stage has ended. -/
def Dev.pastBoot (d : Dev) : Bool := decide (2 ≤ d.get DMC_STATUS_STAGE)
/-- The VDD_CORE request changes. -/
def Dev.setAvs (d : Dev) (v : Nat) : Dev :=
  if d.get PWR_AVS_SET = v then d
  else ({ d with power := { d.power with avsAt := d.tick } } : Dev).set PWR_AVS_SET v
/-- AVS_ADJUST (R538). -/
def execAvsAdjust (s : State) :=
  run (fun d =>
    if !d.pastBoot then d
    else if !d.is PWR_AVS_EN then d.setAvs (d.get PWR_AVS_FIXED)
    else
      match d.marginM with
      | none => d
      | some m =>
        let v := d.get PWR_AVS_SET
        if m < d.get PWR_AVS_TARGET_PS then d.setAvs (min 7500 (v + 50))
        else if d.get PWR_AVS_TARGET_PS + 10 ≤ m && decide (d.power.avsAt + 100 * msLen ≤ d.tick) then d.setAvs (max 6000 (v - 25))
        else d) s
/-- A write of PWR_AVS (R551). -/
def Dev.avsWr (d : Dev) (c : Cred) (v : Nat) : Dev × Byte :=
  ownerWr c d fun d =>
    let d := d.takeIf PWR_AVS_FIXED v fun x => decide (6000 ≤ x) && decide (x ≤ 7500)
    let d := d.takeIf PWR_AVS_TARGET_PS v fun x => decide (d.get SPR_CFG_ADVISE_PS < x)
    let d := d.take PWR_AVS_EN v
    (if d.pastBoot && !d.is PWR_AVS_EN then d.setAvs (d.get PWR_AVS_FIXED) else d, stOk)

/-- The PMBus address of a rail, 0 for none (R539). -/
def Dev.railAddr (d : Dev) (r : Nat) : Nat := (Config.pmbusAddr d.sec.powerFrame r).toNat
/-- PMBUS_POLL (R539): a reading of a rail. A bit that STATUS_WORD has newly set gives a THERMAL record with EVENT 5. -/
def execPmbusPoll (rail : Fin 10) (r : RailRx) (s : State) :=
  run (fun d =>
    let k := rail.val
    if !d.pastBoot || d.railAddr k == 0 then d
    else
      let old := d.get (PWR_RAIL_STATUS_WORD k)
      let d := ((d.set (PWR_RAIL_IOUT k) r.iout).set (PWR_RAIL_VOUT k) r.vout).set (PWR_RAIL_TEMP k) r.temp
      let d := d.set (PWR_RAIL_STATUS_WORD k) r.status
      let d : Dev := { d with power := { d.power with
        rails := mset d.power.rails k r, railAt := mset d.power.railAt k d.tick, railTold := d.power.railTold.filter (· != k) } }
      let d := d.samplePower
      if (List.range 16).any fun i => bit r.status i == 1 && bit old i == 0 then
        (d.thermalRecord 5 (leBytes 1 3 ++ leBytes 2 k ++ leBytes 1 r.temp ++ [Config.recordByte d.free 4])).draw
      else d) s
/-- REGULATOR_TIMEOUT (R539): 100 ms without an answer. -/
def execRegulatorTimeout (rail : Fin 10) (s : State) :=
  run (fun d =>
    let k := rail.val
    if !d.pastBoot || d.railAddr k == 0 || d.power.railTold.contains k then d
    else
      let d := d.toTick (mget d.power.railAt 0 k + 100 * msLen)
      let d : Dev := { d with power := { d.power with railTold := d.power.railTold ++ [k] } }
      (d.thermalRecord 5 (leBytes 1 3 ++ leBytes 2 k ++ leBytes 1 (d.get (PWR_RAIL_TEMP k)) ++ [Config.recordByte d.free 4])).draw) s

/-! ## Thermal states (R540 to R542) -/

/-- Sensors: tiles, spares included, by physical identifier, stacks from 512, I/O dies 524 and 525. -/
def sensorIds : List Nat := (List.range 526).filter fun i => decide (512 ≤ i) || decide (i % 128 < 68)
/-- A sensor of a stack. -/
def isStack (i : Nat) : Bool := decide (512 ≤ i) && decide (i < 524)
/-- Threshold of a state for a sensor. -/
def Dev.threshold (d : Dev) (st i : Nat) : Nat :=
  if st = 1 then d.get (if isStack i then PWR_THERMAL_HBM_WARN else PWR_THERMAL_WARN)
  else if st = 2 then d.get (if isStack i then PWR_THERMAL_HBM_HOLD else PWR_THERMAL_HOLD)
  else 100
/-- Consecutive readings of a sensor at or above the threshold of a state. -/
def Dev.hotCount (d : Dev) (st i : Nat) : Nat :=
  let c := mget d.power.hot (0, 0, 0) i
  if st = 1 then c.1 else if st = 2 then c.2.1 else c.2.2
/-- The first sensor that has held at or above the threshold of a state for its last ten readings. -/
def Dev.hotFor (d : Dev) (st : Nat) : Option Nat := sensorIds.find? fun i => decide (10 ≤ d.hotCount st i)
/-- SOURCE, INDEX, temperature and threshold of a sensor's record. -/
def Dev.sensorBytes (d : Dev) (st i : Nat) : List Byte :=
  let src := if i < 512 then 0 else if i < 524 then 1 else 2
  let idx := if i < 512 then i else if i < 524 then i - 512 else i - 520
  leBytes 1 src ++ leBytes 2 idx ++ leBytes 1 (mget d.power.temps 0 i) ++ leBytes 1 (d.threshold st i)

/-- The thermal state changes (R541, R546). -/
def Dev.setThermal (d : Dev) (st : Nat) : Dev :=
  let d := (d.set PWR_STATUS_STATE st).ibi 1
  ({ d with power := { d.power with stateSince := d.tick, below := 0 } } : Dev).capWatch.faultLine
/-- A state is entered from a lower one, for sensor i (R541). -/
def Dev.thermalUp (d : Dev) (st i : Nat) : Dev :=
  let old := d.get PWR_STATUS_STATE
  let d := d.setThermal st
  let d :=
    if st = 1 then (if d.is PWR_ENVELOPE_AUTO then d.capDown else d)
    else if old < 2 then d.setCap 2
    else d
  d.thermalRecord (st - 1) (d.sensorBytes st i)
/-- The present state is left for the highest lower one that some sensor still holds at, else for NORMAL (R540). -/
def Dev.thermalDown (d : Dev) : Dev :=
  let cur := d.get PWR_STATUS_STATE
  let next := ([2, 1].filter fun k => decide (k < cur)).find? fun k => (d.hotFor k).isSome
  let d := d.setThermal (next.getD 0)
  let d := (d.thermalRecord 3 d.noSource).draw
  match next with
  | some k => d.thermalRecord (k - 1) (d.sensorBytes k ((d.hotFor k).getD 0))
  | none => d

/-- The hottest of some sensors: the first with the greatest reading. -/
def Dev.hottest (d : Dev) (l : List Nat) : Nat × Nat :=
  l.foldl (fun m i => if m.2 < mget d.power.temps 0 i then (i, mget d.power.temps 0 i) else m) (l.headD 0, mget d.power.temps 0 (l.headD 0))
/-- Readings of the sensors show in their registers (R379, R518, R551). -/
def Dev.showTemps (d : Dev) : Dev :=
  let t (i : Nat) : Nat := mget d.power.temps 0 i
  let d := allTiles.foldl (fun d n => d.set (SPR_T_HEALTH_TEMP n) (t (d.physOf n))) d
  let d := (List.range 12).foldl (fun d k => (d.set (HBM_S_STATUS_TEMP k) (t (512 + k))).flag (HBM_S_STATUS_REFRATE k) (decide (85 < t (512 + k)))) d
  let tiles := d.hottest (sensorIds.filter fun i => decide (i < 512))
  let io := max (t 524) (t 525)
  let d := ((d.set PWR_STATUS_TJ_MAX (max tiles.2 io)).set PWR_STATUS_HOT_TILE tiles.1).set PWR_STATUS_IO_TMAX io
  d.set PWR_STATUS_HBM_TMAX (d.hottest ((List.range 12).map (512 + ·))).2

/-- What sensor i reads, in °C: a sensor that the command does not name reads as before. -/
def Dev.sensorRead (d : Dev) (temps : List (Nat × Int)) (i : Nat) : Nat :=
  match temps.find? fun e => e.1 == i with
  | some e => min e.2.toNat 255
  | none => mget d.power.temps 0 i
/-- Readings in a row of sensor i at or above 105 °C (R542). -/
def Dev.tripCount (d : Dev) (v i : Nat) : Nat := if 105 ≤ v then mget d.power.trip 0 i + 1 else 0
/-- One reading of every sensor (R540, R542). -/
def Dev.readSensors (d : Dev) (temps : List (Nat × Int)) : Dev :=
  let val (i : Nat) : Nat := d.sensorRead temps i
  let d : Dev := { d with power := { d.power with temps := sensorIds.map fun i => (i, val i) } }
  let next (st i : Nat) : Nat := if d.threshold st i ≤ val i then d.hotCount st i + 1 else 0
  let cur := d.get PWR_STATUS_STATE
  let cool := cur != 0 && sensorIds.all fun i => decide (val i + 3 ≤ d.threshold cur i)
  { d with power := { d.power with
      hot := sensorIds.map fun (i : Nat) => (i, next 1 i, next 2 i, next 3 i)
      trip := sensorIds.map fun (i : Nat) => (i, d.tripCount (val i) i)
      below := if cool then d.power.below + 1 else 0 } }

/-- THERMAL_SAMPLE (R540 to R542). -/
def execThermalSample (temps : List (Nat × Int)) (s : State) :=
  run (fun d =>
    let d := (d.readSensors temps).showTemps
    if d.power.trip.any fun e => decide (2 ≤ e.2) then
      { d with stopped := true, pins := { d.pins with thermtripN := false } }
    else
      let cur := d.get PWR_STATUS_STATE
      match ([3, 2, 1].filter fun k => decide (cur < k)).find? fun k => (d.hotFor k).isSome with
      | some k => d.thermalUp k ((d.hotFor k).getD 0)
      | none => if cur ≠ 0 && decide (1000 ≤ d.power.below) then d.thermalDown else d) s

/-- WARN_STEP (R541): one more second in WARN. -/
def execWarnStep (s : State) :=
  run (fun d =>
    if d.get PWR_STATUS_STATE ≠ 1 then d
    else
      let d := d.toTick (d.power.stateSince + secLen)
      let d : Dev := { d with power := { d.power with stateSince := d.tick } }
      if d.is PWR_ENVELOPE_AUTO then d.capDown else d) s

/-- A write of PWR_THERMAL (R551): one that breaks a limit leaves the register unchanged. -/
def Dev.thermalWr (d : Dev) (c : Cred) (v : Nat) : Dev × Byte :=
  ownerWr c d fun d =>
    let ok := decide (PWR_THERMAL_HBM_HOLD.of v ≤ 95) && decide (PWR_THERMAL_HBM_WARN.of v < PWR_THERMAL_HBM_HOLD.of v) &&
      decide (PWR_THERMAL_HOLD.of v ≤ 95) && decide (PWR_THERMAL_WARN.of v < PWR_THERMAL_HOLD.of v)
    (if ok then
      (((d.take PWR_THERMAL_HBM_HOLD v).take PWR_THERMAL_HBM_WARN v).take PWR_THERMAL_HOLD v).take PWR_THERMAL_WARN v
    else d, stOk)

/-! ## Telemetry (R544, R545) -/

/-- The 16 bytes that start a set. -/
def Dev.telemHead (d : Dev) (set : Nat) : List Byte :=
  leBytes 2 5 ++ leBytes 1 1 ++ leBytes 1 set ++ leBytes 4 d.i3c.seq1 ++ timeBytes d.now
/-- Set 1. -/
def Dev.telemSet1 (d : Dev) (sealOk : Bool) : List Byte :=
  d.telemHead 1 ++ leBytes 4 d.power.avg ++ leBytes 2 (min 65535 (d.get (PWR_RAIL_VOUT 0) * 10)) ++ leBytes 2 (d.get (PWR_RAIL_IOUT 0)) ++
    leBytes 1 (d.get PWR_STATUS_TJ_MAX) ++ leBytes 1 (d.get PWR_STATUS_HBM_TMAX) ++ leBytes 1 (d.get PWR_STATUS_IO_TMAX) ++
    leBytes 1 (d.get PWR_STATUS_STATE) ++ leBytes 1 (d.get PWR_ENVELOPE_ADMIT) ++ leBytes 1 (d.get PWR_ENVELOPE_ARRAY) ++
    leBytes 1 (d.get PWR_ENVELOPE_CAP) ++ leBytes 1 (d.get SPR_STATUS_LEVEL) ++ leBytes 1 (d.get TIME_STATUS_QUALITY) ++
    leBytes 1 d.bootState ++ leBytes 1 (d.get DMC_STATUS_STAGE) ++
    leBytes 1 (d.get DMC_STATUS_READY + 2 * d.get DMC_STATUS_RESTARTING + 4 * boolBit sealOk + 8 * boolBit (!d.pins.faultN)) ++
    leBytes 2 (bitMap 16 fun p => p != 0 && d.inService p) ++ leBytes 2 (d.marginM.getD 0) ++
    leBytes 4 (bitMap 18 fun n => d.ethState n == ethUp) ++ leBytes 4 d.power.sev34 ++ leBytes 4 (d.get ADM_MISS_SEQ_SEQ) ++
    leBytes 4 (d.tick / secLen) ++ zeros 8
/-- Set 2. -/
def Dev.telemSet2 (d : Dev) : List Byte :=
  let t (i : Nat) : Byte := BitVec.ofNat 8 (mget d.power.temps 0 i)
  d.telemHead 2 ++ allTiles.map (fun n => t (d.physOf n)) ++
    ((List.range 4).flatMap fun k => (List.range 4).map fun i => t (k * 128 + 64 + i)) ++
    (List.range 12).map (fun k => t (512 + k)) ++ [t 524, t 525] ++ zeros 2
/-- TELEMETRY_COMPOSE (R32, R545, R547, R548): the sets are composed at the end of a period, from reset on, and pushed where TELEMETRY is 0.
A change of TELEMETRY takes effect here, also while the management controller is stopped: then nothing is composed in hardware mode, and
in host-assisted mode the sets stay in service. During a restart the last composition stands. -/
def execTelemetryCompose (s : State) :=
  runRead (fun m d =>
    if d.is DMC_STATUS_RESTARTING then d
    else
      let d := (d.toTick (d.power.telemAt + d.get PWR_TELEM_PERIOD * msLen)).applyPend 10
      let d : Dev := { d with power := { d.power with telemAt := d.tick } }
      if d.is DMC_STATUS_STOPPED && !d.duty 10 then d
      else
        let d : Dev := { d with i3c := { d.i3c with set1 := d.telemSet1 m.sealOk, set2 := d.telemSet2, seq1 := d.i3c.seq1 + 1 } }
        if d.duty 10 then d else (d.push (pushTelem 1) d.i3c.set1).push (pushTelem 2) d.i3c.set2) s

/-! ## The I3C target (R546) -/

/-- I3C_PRIVATE_WRITE: two bytes set the read index; any other write is ignored. -/
def execI3cPrivateWrite (bytes : List Byte) (s : State) :=
  run (fun d => if bytes.length = 2 then { d with i3c := { d.i3c with index := leNat bytes } } else d) s
/-- A byte of the target's space, as the sets stand at the start of a read; a restart of the management controller shows in the
flags of set 1 (R547). -/
def Dev.i3cByte (d : Dev) (a : Nat) : Byte :=
  if a < 0x40 then
    let b := d.i3c.set1.getD a 0
    if a = 35 && !d.i3c.set1.isEmpty && d.is DMC_STATUS_RESTARTING then b ||| 2 else b
  else if 0x100 ≤ a && decide (a < 0x230) then d.i3c.set2.getD (a - 0x100) 0
  else 0
/-- I3C_PRIVATE_READ. -/
def execI3cPrivateRead (n : Nat) (s : State) :=
  run (fun d => { d with i3c := { d.i3c with out := (List.range n).map fun i => d.i3cByte ((d.i3c.index + i) % 2 ^ 16) } }) s
/-- The target takes a dynamic address if it has none. -/
def Dev.i3cAddr (d : Dev) (a : Nat) : Dev := { d with i3c := { d.i3c with dyn := some (d.i3c.dyn.getD a) } }
/-- ENTDAA. -/
def execEntdaa (addr : BitVec 7) (s : State) := run (fun d => d.i3cAddr addr.toNat) s
/-- SETDASA. -/
def execSetdasa (addr : BitVec 7) (s : State) := run (fun d => d.i3cAddr addr.toNat) s
/-- RSTDAA. -/
def execRstdaa (s : State) := run (fun d => { d with i3c := { d.i3c with dyn := none } }) s
/-- GETPID. -/
def execGetpid (s : State) := run (fun d => { d with i3c := { d.i3c with out := (List.range 6).map Config.i3cPid } }) s
/-- GETBCR. -/
def execGetbcr (s : State) := run (fun d => { d with i3c := { d.i3c with out := [Config.i3cBcr] } }) s
/-- GETDCR. -/
def execGetdcr (s : State) := run (fun d => { d with i3c := { d.i3c with out := [Config.i3cDcr] } }) s
/-- ENEC: in-band interrupts are enabled. -/
def execEnec (s : State) := run (fun d => { d with i3c := { d.i3c with ibiOn := true } }) s
/-- DISEC: they are disabled. -/
def execDisec (s : State) := run (fun d => { d with i3c := { d.i3c with ibiOn := false } }) s

end Sys2Proof.Machine
end

