-- ==== Sys2Proof/Machine/Start.lean ====
section
/-! DEFINITION. Resets and start-up (R520 to R528), the survey (R529 to R534), restarts of the management controller (R547, R548)
and the TAP (R571). -/

namespace Sys2Proof

/-! ## What the commands bring of modules and surveys -/

/-- The modules of a channel, by slot. -/
def DdrRx.mods (x : DdrRx) : List ModRx := x.slot0.toList ++ x.slot1.toList
/-- TYPE of a channel (R385, R400): that of its modules, 3 where they differ, 0 with none. -/
def DdrRx.type (x : DdrRx) : Nat :=
  match x.mods with
  | [] => 0
  | [a] => a.type
  | a :: b :: _ => if a.type = b.type then a.type else 3
/-- Modules in the channel. -/
def DdrRx.dpc (x : DdrRx) : Nat := x.mods.length
/-- WIDTH of the first module. -/
def DdrRx.width (x : DdrRx) : Nat := match x.mods with | a :: _ => a.width | [] => 0
/-- Capacity in GiB. -/
def DdrRx.gib (x : DdrRx) : Nat := (x.mods.map (·.gib)).sum
/-- The rate that every module allows. -/
def DdrRx.rate (x : DdrRx) : Nat := match x.mods.map (·.rate) with | a :: l => l.foldl min a | [] => 0
/-- Every module is supported: an RDIMM or MRDIMM of up to 256 GiB (R385). -/
def DdrRx.supported (x : DdrRx) : Bool := x.mods.all fun a => (a.type == 1 || a.type == 2) && decide (a.gib ≤ 256)
/-- An item of the survey could not be read (R532). -/
def SurveyRx.unread (r : SurveyRx) : Bool :=
  (r.supplies.any fun x => x.isNone) || (r.hbm.any fun x => x.isNone) || r.dimms.any fun x => !x

end Sys2Proof

namespace Sys2Proof.Machine

/-! ## Device reset (R523 to R525) -/

/-- The device held in reset: fuses, flash and TAP remain, and the meter runs on; all else is at its reset value. The
counters that number free values, random draws and keys go on, so that none of them comes again (log 1). -/
def Dev.inResetState (d : Dev) : Dev :=
  { Dev.init with
    inReset := true, stopped := d.stopped, free := d.free, fuses := d.fuses, jtag := d.jtag
    sec := { Sec.init with nonces := d.sec.nonces }
    mem := { MemUnit.init with nextKey := d.mem.nextKey }
    pins := { d.pins with faultN := true } }

/-- RESET_N_ASSERT (R524, R525): the meter sees the land by itself. BOOT_FETCH as it stands decides the next fetch (R32, R465).
A device that THERMTRIP_N has stopped stays so (R542). -/
def execResetNAssert (s : State) :=
  runAlways (fun d =>
    if !d.pins.resetN then d
    else
      let r := d.inResetState
      let r : Dev := { r with pins := { r.pins with resetN := false } }
      if d.inReset || d.stopped then { r with bootFetch := d.bootFetch, regs := d.regs.filter fun e => e.1 == DMC_RESET_CAUSE.key }
      else ({ r with bootFetch := some (d.is DMC_DUTY_MAP_BOOT_FETCH) } : Dev).set DMC_RESET_CAUSE 1) s

/-- PWR_GOOD_FALL (R520, R523, R525, R542): the device is in reset as though RESET_N had fallen; with the rails the TAP loses its state, and
THERMTRIP_N is released. -/
def execPwrGoodFall (s : State) :=
  runAlways (fun d =>
    let r := d.inResetState
    { r with stopped := false, bootFetch := none, jtag := Jtag.init, pins := { r.pins with pwrGood := false, thermtripN := true } }) s

/-- What the repair fuses say of tile shifts: the positions of the tiles of each segment that moved (R505, R507). -/
def Dev.fuseShifts (d : Dev) : Dev :=
  let homes (ph : Nat) : Option Nat := allTiles.find? fun n => homePhys n == ph
  d.fuses.spares.foldl (fun d e =>
    match homes e.2 with
    | some n =>
      let seg := segment n
      let places := seg.zip (e.1 :: seg.map homePhys)
      { d with spare := { d.spare with phys := places.foldl (fun m x => mset m x.1 x.2) d.spare.phys } }
    | none => d) d
/-- SPR_STATUS as the repair fuses give it (R515, R518): pools with nothing left, and tiles retired without a spare. -/
def Dev.fuseLevel (d : Dev) : Dev :=
  let f := d.fuses
  let lost := allTiles.any fun n => f.retired.contains (d.physOf n) && !d.spareFree (spareFor n)
  let arrays := f.mxRepairs.any fun e => e.2.1.length == 2 || e.2.2.length == 2
  let banks := f.lineSpares.any fun e => (List.range 16).any fun b => decide (32 ≤ (e.2.filter fun x => x.2 == b).length)
  let rs := boolBit (!f.spares.isEmpty) + 2 * boolBit lost + 4 * boolBit arrays + 8 * boolBit banks + 16 * boolBit (!f.laneSpares.isEmpty) +
    64 * boolBit (f.hbmLanes.any fun e => decide (Config.hbmSpares e.1 ≤ e.2))
  (d.set SPR_STATUS_REASONS rs).set SPR_STATUS_LEVEL (if lost then 2 else if rs = 0 then 0 else 1)
/-- The fuses take effect as a reset ends (R150, R260, R505): positions, repairs, lanes and level. A tile whose position is retired hosts
nothing: it needs a shift where its column pair has a spare left, and is lost otherwise (R506, R515; log 32). -/
def Dev.readFuses (d : Dev) : Dev :=
  let d := d.fuseShifts
  let d := allTiles.foldl (fun d n =>
    let ph := d.physOf n
    if d.fuses.mxRepairs.any (fun e => e.1 == ph) || d.fuses.lineSpares.any (fun e => e.1 == ph) then
      (d.loadRepairs n).modTile n fun t => { t with mxShown := (t.badRows, t.badCols) }
    else d) d
  let d := allTiles.foldl (fun d n =>
    if d.fuses.retired.contains (d.physOf n) then (d.modTile n fun t => { t with fenced := true }).flag (SPR_T_HEALTH_FENCED n) true else d) d
  let d : Dev := { d with spare := { d.spare with lanesUsed := d.fuses.laneSpares.foldl (fun m g => mset m g 1) d.spare.lanesUsed } }
  let d := d.fuses.laneSpares.foldl (fun d g => d.set (MESH_XLINK_SPARES_USED (g / 128)) (d.sparesUsed (g / 128))) d
  let d := d.fuses.hbmLanes.foldl (fun d e => d.set (HBM_S_STATUS_LANES e.1) e.2) d
  let d := allTiles.foldl (fun d n => if (d.tile n).fenced && d.spareFree (spareFor n) then d.addNeed 1 n 0 else d) d
  d.fuseLevel.faultLine

/-- RESET_N_RELEASE (R522, R526, R572): with PWR_GOOD high, reset ends at the rising edge of RESET_N, the straps are taken, and
the ROM stage begins. The TAP keeps no instruction that RESET_N high forbids (R571). -/
def execResetNRelease (straps : BitVec 4) (s : State) :=
  runAlways (fun d =>
    if d.pins.resetN then d
    else if d.stopped then { d with pins := { d.pins with resetN := true } }
    else
      let host := straps.getLsbD 0
      let d : Dev := { d with
        inReset := false
        pins := { d.pins with resetN := true, pwrGood := true, straps := straps }
        i3c := { I3c.init with static := if straps.getLsbD 3 then 0x51 else 0x50 }
        jtag := { d.jtag with ir := if d.jtag.ir = 1 then 1 else 0xF, driving := false } }
      let d := (d.flag DMC_DUTY_MAP_BOOT_FETCH host).set DMC_DUTY_STATE_EFFECTIVE (boolBit host)
      (d.flag SEC_BOOT_STATUS_SOURCE host).readFuses) s

/-! ## The stages (R527) -/

/-- BOOT_FETCH as it stood at reset, where the rails stayed up through it; else STRAP[0] (R32, R465, R526). -/
def Dev.fetchesHost (d : Dev) : Bool :=
  let strap := d.pins.straps.getLsbD 0
  if d.is DMC_RESET_CAUSE then d.bootFetch.getD strap else strap
/-- ROM_STAGE_DONE (R450, R465, R472, R527): the device identity is known, and the boot stage begins. -/
def execRomStageDone (flashOk : Bool) (s : State) :=
  run (fun d =>
    if d.get DMC_STATUS_STAGE ≠ 0 then d
    else
      let d := (d.set DMC_STATUS_STAGE 1).setDigest SEC_DEVICE_ID_V d.deviceId
      let d := d.flag SEC_BOOT_STATUS_SOURCE d.fetchesHost
      if d.fetchesHost then d.waitHost
      else if flashOk && d.fuses.flashSize != 0 then d.set SEC_BOOT_STATUS_STATE bsFetch
      else (d.set SEC_BOOT_STATUS_RESULT 0xB).waitHost) s

/-- The highest rate of a channel's modules (R385); 0 for a module that is not supported. -/
def ddrTop (x : DdrRx) : Nat :=
  if x.type = 1 then (if x.dpc = 1 then 6400 else if x.dpc = 2 then 5600 else 0)
  else if x.type = 2 then (if x.dpc = 1 then 8800 else if x.dpc = 2 then 6400 else 0)
  else 0
/-- The rate that a channel can run at. -/
def ddrRate (x : DdrRx) : Nat := min x.rate (ddrTop x)
/-- A channel can be used: readable SPD hubs, supported modules, 4,800 MT/s, and training that passed (R385). -/
def ddrUsable (x : DdrRx) : Bool := x.spd && x.supported && decide (4800 ≤ ddrRate x) && x.ok
/-- Two channels hold identical populations: modules of the same type, width, capacity and rate in the same slots (R386). -/
def ddrSame (a b : DdrRx) : Bool :=
  let key (m : ModRx) : Nat × Nat × Nat × Nat := (m.type, m.width, m.gib, m.rate)
  a.slot0.map key == b.slot0.map key && a.slot1.map key == b.slot1.map key
/-- The groups of R386, in order. -/
def ddrGroups : List (List Nat) :=
  [List.range 8, [0, 1, 2, 3], [4, 5, 6, 7], [0, 1], [2, 3], [4, 5], [6, 7], [0], [1], [2], [3], [4], [5], [6], [7]]
/-- The channels that are used (R386). -/
def ddrGrouped (l : List DdrRx) : List Nat :=
  let ok (g : List Nat) : Bool :=
    g.all fun c => match l[c]?, l[g.headD 0]? with
      | some x, some y => ddrUsable x && ddrSame x y
      | _, _ => false
  (ddrGroups.find? ok).getD []
/-- REASON of a channel (R532): why it is not used, 0 for one in use or empty. Where several hold, the first in this order is given
(DESIGN CHOICE, log 32). -/
def ddrReason (x : DdrRx) (used : Bool) : Nat :=
  if used || x.mods.isEmpty then 0
  else if !x.spd then 5
  else if !x.supported then 6
  else if x.type = 3 then 1
  else if ddrRate x < 4800 then 2
  else if !x.ok then 4
  else 3

/-- What the SPD hubs tell of a channel shows in its registers, and is kept for the survey (R400, R529). -/
def Dev.ddrShow (d : Dev) (c : Nat) (x : DdrRx) (used : Bool) : Dev :=
  let d := ((d.set (DDR_C_STATUS_TYPE c) x.type).set (DDR_C_STATUS_DPC c) x.dpc).set (DDR_C_STATUS_WIDTH c) x.width
  let d := d.set (DDR_C_STATUS_GIB c) (if used then x.gib else 0)
  let put (m : List (Nat × ModRx)) (k : Nat) (o : Option ModRx) : List (Nat × ModRx) :=
    match o with
    | some a => (m.filter fun e => e.1 != k) ++ [(k, a)]
    | none => m.filter fun e => e.1 != k
  { d with mem := { d.mem with
      dimms := put (put d.mem.dimms (2 * c) x.slot0) (2 * c + 1) x.slot1, ddrWhy := mset d.mem.ddrWhy c (ddrReason x used) } }
/-- A channel that had been in use is not used any more, which is a loss without a spare (R513, R515). -/
def Dev.ddrLost (d : Dev) (c : Nat) : Dev :=
  if d.fuses.ddrSeen.contains c then
    ({ d with fuses := { d.fuses with ddrSeen := d.fuses.ddrSeen.filter (· != c) } } : Dev).raiseLevel 2 9
  else d
/-- What training and the SPD hubs tell of the DDR5 channels (R385, R386, R399, R400): the used ones enter service. Under MEM_TRAINING 1
(`wait`) every channel that holds modules stops in TRAIN_WAIT, and the host accepts the margins. -/
def Dev.ddrTrained (d : Dev) (l : List DdrRx) (wait : Bool) : Dev :=
  let l := if wait then l.map fun x => { x with ok := true } else l
  let used := ddrGrouped l
  let mts := ((used.filterMap fun c => l[c]?).map ddrRate).foldl (fun m r => if m = 0 then r else min m r) 0
  let d := ((d.set DDR_CFG_MTS mts).set DDR_CFG_USED (bitMap 8 used.contains)).set DDR_CFG_PRESENT
    (bitMap 8 fun c => match l[c]? with | some x => x.dpc != 0 | none => false)
  (List.range 8).foldl (fun d c =>
    match l[c]? with
    | none => (d.set (unitState (12 + c)) usUnused).ddrLost c
    | some x =>
      let d := d.ddrShow c x (used.contains c)
      let d := if used.contains c then d else d.ddrLost c
      if x.dpc = 0 then d.set (unitState (12 + c)) usUnused
      else if wait then d.set (unitState (12 + c)) usWait
      else if used.contains c then d.unitReady (12 + c)
      else d.set (unitState (12 + c)) (if x.ok then usUnused else usFailed)) d
/-- The stacks (R368, R399, R515): under MEM_TRAINING 1 every one stops in TRAIN_WAIT. -/
def Dev.hbmTrained (d : Dev) (ok : BitVec 12) (wait : Bool) : Dev :=
  (List.range 12).foldl (fun d k =>
    if wait then d.set (unitState k) usWait
    else if ok.getLsbD k then d.unitReady k
    else (d.set (unitState k) usFailed).raiseLevel 2 7) d

/-- The start-up survey begins, if the device surveys (R527, R530, R531). -/
def Dev.startSurvey (d : Dev) (startup second : Bool) : Dev :=
  let x : SurveyUnit := { d.survey with startup := startup, since := d.tick, second := d.survey.second || second }
  ({ d with survey := x } : Dev).flag SRV_STATUS_RUNNING true
/-- TRAINING_STAGE_DONE (R399, R527). Under MEM_TRAINING 1 every unit first stops in TRAIN_WAIT, and the stage ends once the host
has accepted them all. -/
def execTrainingStageDone (t : TrainResult) (s : State) :=
  run (fun d =>
    if d.get DMC_STATUS_STAGE ≠ 2 then d
    else
      let next (d : Dev) : Dev :=
        let d := (d.set DMC_STATUS_STAGE 3).applyPend 9
        if d.duty 9 then d else d.startSurvey true false
      if !d.duty 5 then next ((d.hbmTrained t.hbm false).ddrTrained t.ddr false)
      else if (List.range 20).any fun u => d.get (unitState u) == usTrain then (d.hbmTrained t.hbm true).ddrTrained t.ddr true
      else if (List.range 20).any fun u => d.get (unitState u) == usWait then d
      else next d) s

/-! ## The survey (R529 to R534) -/

/-- A write of SRV_CTRL (R530, R552): GO starts a survey, or is refused while one runs, during a restart of the management
controller, or under SURVEY 1. -/
def Dev.srvCtrlWr (d : Dev) (c : Cred) (v : Nat) : Dev × Byte :=
  ownerWr c d fun d =>
    let d := d.w1c SRV_CTRL_REFUSED v
    if SRV_CTRL_GO.of v = 0 then (d, stOk)
    else
      let d := if d.is SRV_STATUS_RUNNING then d else d.applyPend 9
      (if d.is SRV_STATUS_RUNNING || d.dmcDown || d.duty 9 then d.flag SRV_CTRL_REFUSED true else d.startSurvey false false, stOk)
/-- SURVEY_GO (R530). -/
def execSurveyGo (cred : Cred) (s : State) := run (fun d => ended (d.srvCtrlWr cred 1)) s

/-- The latest CAPS of a context as a partner entry keeps it: little-endian, but for the device ID (R533). -/
def capsLe (b : List Byte) : List Byte :=
  (slice b 0 2).reverse ++ (slice b 2 2).reverse ++ slice b 4 2 ++ (slice b 6 2).reverse ++ (slice b 8 8).reverse ++
    (slice b 16 2).reverse ++ zeros 6 ++ slice b 24 64
/-- The partner entries, in ascending context number (R533). -/
def Dev.partnerEntries (d : Dev) : List (List Byte) :=
  d.ctxs.filterMap fun e =>
    match e.2.caps with
    | some b =>
      if d.ctxKind e.1 = 1 then some (leBytes 2 e.1 ++ leBytes 1 (d.get (NOP_CTX_CFG_PORT e.1)) ++ [0] ++ capsLe b ++ zeros 4) else none
    | none => none
/-- The partner records of a survey: 80 entries to each (R533). -/
def partnerRecords (seq : Nat) (es : List (List Byte)) : List (List Byte) :=
  (List.range (ceilDiv es.length 80)).map fun j =>
    let part := (es.drop (80 * j)).take 80
    leBytes 2 7 ++ [1, 0] ++ leBytes 4 (16 + 96 * part.length) ++ leBytes 4 seq ++ leBytes 2 (80 * j) ++ leBytes 2 part.length ++
      part.flatMap fun e => e

/-- A port's entry of the base record. -/
def Dev.portEntry (d : Dev) (n : Nat) : List Byte :=
  let x := d.port n
  let heard := match x.lldpAt with
    | some t => decide (d.now < t + x.lldpTtl * secLen)
    | none => false
  leBytes 1 (d.ethState n) ++ leBytes 1 (d.get (ETH_P_CABLE_VALID n) + 2 * boolBit heard) ++ leBytes 2 (d.get (ETH_P_CABLE_LENGTH n)) ++
    leBytes 4 (d.get (ETH_P_CABLE_DELAY n)) ++ slice (if heard then x.chassis else []) 0 32 ++ slice (if heard then x.portId else []) 0 8
/-- A rail's entry. -/
def Dev.railEntry (d : Dev) (k : Nat) : List Byte :=
  match d.power.rails.find? fun e => e.1 == k with
  | some e =>
    leBytes 1 k ++ leBytes 1 (d.railAddr k) ++ leBytes 2 e.2.status ++ leBytes 2 e.2.vout ++ leBytes 2 e.2.iout ++ leBytes 2 e.2.vin ++
      leBytes 1 e.2.temp ++ zeros 5
  | none => leBytes 1 k ++ leBytes 1 (d.railAddr k) ++ zeros 14
/-- The DIMM entry of slot k (channel * 2 + slot), formed from what the SPD hub told and from how the channel is used (R385, R386, R529);
zero where the hub does not answer now. -/
def Dev.dimmEntry (d : Dev) (k : Nat) (read : Bool) : List Byte :=
  match d.mem.dimms.find? fun e => e.1 == k with
  | some e =>
    if !read then zeros 64
    else
      let m := e.2
      leBytes 1 1 ++ leBytes 1 m.type ++ leBytes 1 m.width ++ leBytes 1 (bit (d.get DDR_CFG_USED) (k / 2)) ++
        leBytes 1 (mget d.mem.ddrWhy 0 (k / 2)) ++ [0] ++ leBytes 2 m.gib ++ leBytes 2 m.rate ++ leBytes 2 m.maker ++ leBytes 4 m.serial ++
        slice m.part 0 30 ++ zeros 18
  | none => zeros 64
/-- The base record (R532): the entry of an item that could not be read is zero. -/
def Dev.baseRecord (d : Dev) (r : SurveyRx) (peers : Nat) : List Byte :=
  let sup (k : Nat) : List Byte :=
    match r.supplies.getD k none with
    | some (mean, lo, hi) =>
      let p := (Config.sensePoint k).toNat
      leBytes 1 (p % 16) ++ leBytes 1 (p / 16 % 8) ++ leBytes 2 mean ++ leBytes 2 lo ++ leBytes 2 hi
    | none => zeros 8
  let hbm (k : Nat) : List Byte :=
    match r.hbm.getD k none with
    | some bs =>
      leBytes 1 (d.get (unitState k)) ++ leBytes 1 (if d.fuses.build = 0 then 16 else 12) ++ leBytes 2 d.stackGib ++ slice bs 0 16 ++
        leBytes 1 (d.get (HBM_S_STATUS_LANES k)) ++ leBytes 1 (d.get (HBM_S_STATUS_ROWBUF k)) ++ zeros 10
    | none => zeros 32
  leBytes 2 6 ++ leBytes 1 1 ++ leBytes 1 (boolBit d.survey.startup + 2 * boolBit r.unread) ++ leBytes 4 2800 ++ leBytes 4 d.survey.count ++
    leBytes 2 peers ++ leBytes 2 (ceilDiv peers 80) ++ timeBytes d.now ++ d.deviceId ++ leBytes 1 d.fuses.stepping ++
    leBytes 1 d.fuses.build ++ leBytes 1 d.pins.straps.toNat ++ leBytes 1 (d.get TIME_STATUS_QUALITY) ++ zeros 4 ++
    (List.range 32).flatMap sup ++ (List.range 10).flatMap d.railEntry ++ (List.range 12).flatMap hbm ++
    ((List.range 16).flatMap fun k => d.dimmEntry k (r.dimms.getD k true)) ++ (List.range 18).flatMap d.portEntry ++ zeros 16

/-- The survey's results are recorded and delivered (R532 to R534). -/
def Dev.surveyRecords (d : Dev) (r : SurveyRx) : Dev :=
  let es := d.partnerEntries
  let base := d.baseRecord r es.length
  let recs := partnerRecords d.survey.count es
  let d := ((d.set SRV_STATUS_SEQ d.survey.count).set SRV_STATUS_PEERS es.length).flag SRV_STATUS_RUNNING false
  let d : Dev := { d with survey := { d.survey with
    inv := base, partners := recs, count := d.survey.count + 1, startup := false
    supplies := r.supplies.map fun x => x.getD (0, 0, 0), sensedAt := d.tick } }
  recs.foldl (fun d b => d.push 4 b) (d.push 4 base)
/-- The device is READY (R527, R550). -/
def Dev.becomeReady (d : Dev) : Dev :=
  if d.get DMC_STATUS_STAGE ≠ 3 then d
  else (((d.set DMC_STATUS_STAGE 4).flag DMC_STATUS_READY true).set DMC_READY_TIME_V d.tick).ibi 3
/-- SURVEY_DONE (R527, R532, R547): a survey waits while the management controller restarts. The start-up survey leads to READY;
under SURVEY 1 that stage ends without a record (R531). -/
def execSurveyDone (r : SurveyRx) (s : State) :=
  run (fun d =>
    if d.is SRV_STATUS_RUNNING then (if d.dmcDown then d else (d.surveyRecords r).becomeReady)
    else if d.duty 9 then d.becomeReady
    else d) s
/-- SECOND_SURVEY (R528): five seconds after READY, with SURVEY 0. -/
def execSecondSurvey (s : State) :=
  run (fun d =>
    if !d.is DMC_STATUS_READY || d.survey.second || d.is SRV_STATUS_RUNNING || d.dmcDown then d
    else
      let d := (d.toTick (d.get DMC_READY_TIME_V + 5 * secLen)).applyPend 9
      if d.duty 9 then d else d.startSurvey false true) s

/-- A write of SRV_SPD_CMD (R531, R552). -/
def Dev.spdWr (d : Dev) (c : Cred) (v : Nat) : Dev × Byte :=
  ownerWr c d fun d =>
    let d := ((d.take SRV_SPD_CMD_BLOCK v).take SRV_SPD_CMD_CHANNEL v).take SRV_SPD_CMD_SLOT v
    if SRV_SPD_CMD_GO.of v = 0 || d.survey.spdBusy then (d, stOk)
    else ((({ d with survey := { d.survey with spdBusy := true } } : Dev).flag SRV_SPD_CMD_DONE false).flag SRV_SPD_CMD_ERR false, stOk)
/-- SPD_READ (R531). -/
def execSpdRead (cred : Cred) (value : Word) (s : State) := run (fun d => ended (d.spdWr cred (setBits value.toNat 61 61 1))) s
/-- SPD_READ_DONE (R531): 64 bytes, or no answer. -/
def execSpdReadDone (data : Option (List Byte)) (s : State) :=
  run (fun d =>
    if !d.survey.spdBusy then d
    else
      let d := ({ d with survey := { d.survey with spdBusy := false } } : Dev).flag SRV_SPD_CMD_DONE true
      match data with
      | some bs => d.setDigest SRV_SPD_DATA_V bs
      | none => d.flag SRV_SPD_CMD_ERR true) s

/-! ## Restarts of the management controller (R547, R548) -/

/-- The PULLs that waited are answered, where the context is still open and still carries the owner's credential; those of a context that
closed went with it (R434, R486, R547). -/
def Dev.answerPulls (d : Dev) (m : Meter) : Dev :=
  d.nop.pulls.foldl (fun d x =>
    if d.ctxState x.1 = 2 ∧ (d.ctx x.1).cred = .owner then d.answerPull m x.1 x.2.1 x.2.2 else d.ctxDrop x.1 1)
    { d with nop := { d.nop with pulls := [] } }
/-- A restart begins: cause 0 command, 1 watchdog, 2 uncorrectable error. The sixteenth within 60 s leaves the controller
stopped. -/
def Dev.dmcRestart (d : Dev) (m : Meter) (cause : Nat) (related : Option Nat) : Dev :=
  let d := (d.add DMC_STATUS_RESTARTS 1).log { cls := 0x13, sev := 0, unit := 12, related := related, detail := leBytes 1 cause }
  let ts := (d.dmcTimes.filter fun t => decide (d.now < t + 60 * secLen)) ++ [d.now]
  let d : Dev := { d with dmcTimes := ts }
  if 16 ≤ ts.length then ((d.flag DMC_STATUS_STOPPED true).flag DMC_STATUS_RESTARTING false).answerPulls m
  else d.flag DMC_STATUS_RESTARTING true
/-- A write of DMC_CTRL (R547, R550): ignored while STOPPED, and while a restart is under way. -/
def Dev.dmcCtrlWr (d : Dev) (m : Meter) (c : Cred) (v : Nat) : Dev × Byte :=
  ownerWr c d fun d => (if DMC_CTRL_RESTART.of v = 1 && !d.dmcDown && d.pastBoot then d.dmcRestart m 0 none else d, stOk)
/-- DMC_RESTART (R547): a write of DMC_CTRL, which answers BUSY during a restart. -/
def execDmcRestart (cred : Cred) (s : State) :=
  runRead (fun m d => ended (if d.dmcBusy DMC_CTRL then (d, stNopBusy) else d.dmcCtrlWr m cred 1)) s
/-- DMC_WATCHDOG (R498, R547): no service for 1 s, or an uncorrectable error in the controller's memory. -/
def execDmcWatchdog (ue : Bool) (s : State) :=
  runRead (fun m d =>
    if d.dmcDown || !d.pastBoot then d
    else if ue then
      let d := (d.log { cls := 2, sev := 3, unit := 12, detail := [Config.recordByte d.free 0, Config.recordByte d.free 1] }).draw
      d.dmcRestart m 2 (some d.lastFlt)
    else d.dmcRestart m 1 none) s
/-- DMC_RESTART_DONE (R547): what waited goes on. -/
def execDmcRestartDone (s : State) :=
  runRead (fun m d =>
    if d.is DMC_STATUS_RESTARTING then ((d.flag DMC_STATUS_RESTARTING false).answerPulls m).resumeSparing else d) s

/-! ## The TAP (R571) -/

/-- The level of a land of the chain: the cell's bit where EXTEST drives it, else what the model knows of it, and a free value where it
knows nothing (R562, R571). -/
def Dev.landLevel (d : Dev) (x : Singular) : Bool :=
  let k := scanCells.findIdx (· == x)
  if d.jtag.driving && landOut x && scanCells.contains x then d.jtag.chain.getD k false
  else
    match x with
    | .resetN => d.pins.resetN
    | .pwrGood => d.pins.pwrGood
    | .faultN => d.pins.faultN
    | .thermtripN => d.pins.thermtripN
    | .strap i => d.pins.straps.getLsbD i
    | _ => Config.landLevel d.free k
/-- Every land of the chain, as SAMPLE captures it. -/
def Dev.scanSample (d : Dev) : List Bool := scanCells.map d.landLevel
/-- Bits shifted into the chain: as many as it has cells. -/
def scanBits (l : List Bool) : List Bool := (List.range scanCells.length).map fun i => l.getD i false

/-- Loads a TAP instruction: a code other than those of R571 acts as BYPASS, and with RESET_N high so do EXTEST and SAMPLE/PRELOAD. -/
def Dev.tapLoad (d : Dev) (ir : BitVec 4) (f : Jtag → Jtag) : Dev :=
  if !([0, 1, 2, 0xF] : List (BitVec 4)).contains ir then { d with jtag := { d.jtag with ir := 0xF, driving := false } }
  else if d.pins.resetN && ir != 0xF && ir != 1 then { d with jtag := { d.jtag with ir := 0xF, driving := false } }
  else { d with jtag := f { d.jtag with ir := ir, driving := false } }
/-- JTAG_BYPASS. -/
def execJtagBypass (s : State) := runAlways (fun d => d.tapLoad 0xF fun j => j) s
/-- JTAG_IDCODE: 0xs256_0C3D. -/
def execJtagIdcode (s : State) :=
  runAlways (fun d => d.tapLoad 1 fun j => { j with idcode := BitVec.ofNat 32 (d.fuses.stepping % 16 * 2 ^ 28 + 0x2560C3D) }) s
/-- JTAG_SAMPLE_PRELOAD: the levels of the lands are captured, and the boundary-scan chain takes the bits shifted in. -/
def execJtagSamplePreload (preload : List Bool) (s : State) :=
  runAlways (fun d =>
    let e := d.tapLoad 2 fun j => { j with sample := d.scanSample, chain := scanBits preload }
    if d.pins.resetN then e else e.draw) s
/-- JTAG_EXTEST: the chain drives the lands that the device can drive. -/
def execJtagExtest (s : State) := runAlways (fun d => d.tapLoad 0 fun j => { j with driving := true }) s

/-! ## Lands of the DDR5 channels (R560) -/

/-- A land that serves the second module of a channel alone (R560). -/
def secondModule : DdrPin → Bool
  | .cs k => decide (1 ≤ k)
  | .ck k _ => k == 1
  | _ => false
/-- The device drives a DDR5 land inactive (R560): it serves a second module, and the channel has one. -/
def Dev.ddrInactive (d : Dev) (c r : Nat) : Bool :=
  match landNet c r with
  | some (.ddr ch _ pin) => secondModule pin && ((d.mem.dimms.filter fun e => e.1 / 2 == ch).length == 1)
  | _ => false

end Sys2Proof.Machine
end

