-- ==== Sys2Proof/Machine/Access.lean ====
section
/-! DEFINITION. Register and window accesses from outside the tiles (R11 to R15, R22, R23, R25, R26, R95, R262, R432,
R443, R447, R547, R576): a write or a read on a credential, and REG_READ and REG_WRITE. -/

namespace Sys2Proof.Machine

/-! ## Writers of single registers -/

/-- TILE_CORE_CTRL (R5, R121): RWL fields on either credential before sealing, the others on the owner's. A tenant's write that
would change HALT_REQ or STEP_STRAND or set STEP, and any of its writes once the partition is sealed, is DENIED and has no
effect. DESIGN CHOICE (log 32): in one write the change of HALT_REQ comes before STEP, so that a step finds its strand as the new HALT_REQ
leaves it. -/
def Dev.coreCtrlWr (d : Dev) (c : Cred) (n v : Nat) : Dev × Byte :=
  let p := (d.tile n).part
  partWr c p d fun d =>
    if isOwner c then
      let r := Dev.takeRwl (d, stOk) p (TILE_CORE_CTRL_FAULT_POLICY n) v fun _ => true
      let d := r.1.take (TILE_CORE_CTRL_STEP_STRAND n) v
      let d := (d.haltReqWr c n (bit v 0 == 1)).1
      (if bit v 1 = 1 then (d.stepWr c n (d.get (TILE_CORE_CTRL_STEP_STRAND n))).1 else d, r.2)
    else if d.sealed p || (bit v 0 == 1) != (d.tile n).haltReq || bit v 1 == 1 ||
        (TILE_CORE_CTRL_STEP_STRAND n).of v != d.get (TILE_CORE_CTRL_STEP_STRAND n) then (d, stDenied)
    else rwlOnly p d fun d => Dev.takeRwl (d, stOk) p (TILE_CORE_CTRL_FAULT_POLICY n) v fun _ => true

/-- Number of bits set. -/
def popcount (w v : Nat) : Nat := ((List.range w).map fun i => bit v i).sum

/-- MESH_Pp_CFG (R316, R317, R332). -/
def Dev.meshCfgWr (d : Dev) (c : Cred) (p v : Nat) : Dev × Byte :=
  ownerWr c d fun d => rwlOnly p d fun d =>
    let nz (x : Nat) : Bool := x != 0
    let r := Dev.takeRwl (d, stOk) p (MESH_P_CFG_MSLOT p) v fun x => x != 0 && decide (popcount 16 x ≤ 8)
    let r := Dev.takeRwl r p (MESH_P_CFG_WT p) v nz
    let r := Dev.takeRwl r p (MESH_P_CFG_WG p) v nz
    Dev.takeRwl r p (MESH_P_CFG_WQ p) v nz

/-- NOP_Pp_ENTRY (R429, R439). -/
def Dev.entryWr (d : Dev) (c : Cred) (p v : Nat) : Dev × Byte :=
  ownerWr c d fun d => rwlOnly p d fun d =>
    let all (_ : Nat) : Bool := true
    let r := Dev.takeRwl (d, stOk) p (NOP_P_ENTRY_VALID p) v all
    let r := Dev.takeRwl r p (NOP_P_ENTRY_TILE p) v all
    let r := Dev.takeRwl r p (NOP_P_ENTRY_FROND p) v all
    Dev.takeRwl r p (NOP_P_ENTRY_QUEUE p) v all

/-- NOP_CTXc_CFG (R413, R439, R443): the RWL fields go by the partition the context has and the one it is given; PART
of a HOST slot is not the owner's to write; PORT waits for the frame boundary (R436). DESIGN CHOICE (log 32): RETRY_MAX 0 is refused
in any case, so that it changes nothing of a sealed partition and completes OK. -/
def Dev.ctxCfgWr (d : Dev) (c : Cred) (k v : Nat) : Dev × Byte :=
  ownerWr c d fun d =>
    let old := d.get (NOP_CTX_CFG_PART k)
    let slot := d.get (NOP_CTX_CFG_KIND k) == 2 || (NOP_CTX_CFG_KIND k).of v == 2
    let new := if slot then old else (NOP_CTX_CFG_PART k).of v
    let fs := [NOP_CTX_CFG_KIND k, NOP_CTX_CFG_RETRY_MAX k, NOP_CTX_CFG_RCTX k, NOP_CTX_CFG_RTO k]
    let takes (f : RF) : Bool := !(f.lo == (NOP_CTX_CFG_RETRY_MAX k).lo && f.of v == 0)
    let changes := new != old || fs.any fun f => takes f && f.of v != d.get f
    let sealed := d.sealed old || d.sealed new
    let shut (p : Nat) : Bool := p != 0 && d.partState p != 1
    let d := if shut old || shut new then d
      else (fs.foldl (fun d f => if takes f then d.take f v else d) d).set (NOP_CTX_CFG_PART k) new
    let port := (NOP_CTX_CFG_PORT k).of v
    let d := if port = d.get (NOP_CTX_CFG_PORT k) then d.modCtx k fun x => { x with newPort := none }
      else d.modCtx k fun x => { x with newPort := some port }
    (d, if sealed && changes then stSealed else stOk)

/-- SPR_CFG (R490, R514, R517): ADVISE_PS and FAIL_PS are checked together. -/
def Dev.sprCfgWr (d : Dev) (c : Cred) (v : Nat) : Dev × Byte :=
  ownerWr c d fun d =>
    let d := d.take SPR_CFG_CE_LIMIT v
    let d := if SPR_CFG_FAIL_PS.of v < SPR_CFG_ADVISE_PS.of v then (d.take SPR_CFG_ADVISE_PS v).take SPR_CFG_FAIL_PS v else d
    ((d.takeIf SPR_CFG_FAULT_LEVEL v (fun x => x != 0)).faultLine, stOk)

/-- MEM_Pp_KEY (R391, R400): ROTATE on either credential, REFUSED on the owner's. -/
def Dev.keyWr (d : Dev) (c : Cred) (p v : Nat) : Dev × Byte :=
  partWr c p d fun d =>
    let d := if isOwner c then d.w1c (MEM_P_KEY_REFUSED p) v else d
    if bit v 0 = 1 then d.rotateWr c p else (d, stOk)

/-- A register with plain fields that the owner writes. -/
def Dev.ownerPlain (d : Dev) (c : Cred) (a p v : Nat) (r : RegAt) : Dev × Byte := ownerWr c d fun d => d.writeFields a p v r
/-- A register with plain fields that partition p's tenant may write too. -/
def Dev.partPlain (d : Dev) (c : Cred) (a p v : Nat) (r : RegAt) : Dev × Byte := partWr c p d fun d => d.writeFields a p v r

/-! ## Which writer a register has -/

/-- Unit of a TRAIN register. -/
def trainUnit (a i : Nat) : Nat := if a < 0xFF0A00000000 then i else 12 + i

/-- A write of a tile register (R121, R122, R265). -/
def Dev.tileRegWr (d : Dev) (c : Cred) (n off v a : Nat) (r : RegAt) : Dev × Byte :=
  if off = 8 then d.coreCtrlWr c n v
  else if 0x1000 ≤ off && off < 0x1800 then d.gprWr c n ((off - 0x1000) / 0x100) ((off - 0x1000) % 0x100 / 8) (BitVec.ofNat 64 v)
  else if off = 0x2208 then d.spPowerWr c n (BitVec.ofNat 64 v)
  else d.ownerPlain c a 0 v r

/-- A write of a DMC_, TIME_, ADM_ or PART_ register; `i` and `j` are its indices. -/
def Dev.lowRegWr (d : Dev) (m : Meter) (c : Cred) (a i j v : Nat) (r : RegAt) : Dev × Byte :=
  if a = DMC_DUTY_MAP then d.dutyMapWr c v
  else if a = DMC_CTRL then d.dmcCtrlWr m c v
  else if a = TIME_SET then d.timeSetWr c v
  else if a = TIME_CTRL then d.timeCtrlWr c v
  else if a = TIME_STEER then d.timeSteerWr c v
  else if inSched a then let (p, k, w) := schedAt a; d.schedWr c p k w v
  else if a = ADM_P_CTRL i then d.admCtrlWr c i v
  else if a = PART_P_CFG i then d.partCfgWr c i v
  else if a = PART_P_CMD i then d.partCmdWr c i v
  else if a = PART_P_STATE i then d.ownerPlain c a i v r
  else if PART_P_TKEY i j = a then d.tkeyWr c i j v
  else if a = PART_P_RCMD i then d.rcmdWr c i v
  else if a = PART_P_DRAIN i then d.drainWr c i v
  else if a = PART_P_SWITCH i then d.switchWr c i v
  else if r.own = .part then d.partPlain c a i v r
  else d.ownerPlain c a 0 v r

/-- A write of a MESH_, SPR_, FLT_, HBM_, DDR_ or MEM_ register. -/
def Dev.midRegWr (d : Dev) (c : Cred) (a i j v : Nat) (r : RegAt) : Dev × Byte :=
  if a = MESH_P_CFG i then d.meshCfgWr c i v
  else if a = SPR_CFG then d.sprCfgWr c v
  else if a = SPR_CMD then d.sprCmdWr c v
  else if a = FLT_SCRUB_CFG then
    ownerWr c d fun d => (d.takeIf FLT_SCRUB_CFG_INTERVAL v fun x => decide (16 ≤ x) && decide (x ≤ 1024), stOk)
  else if a = FLT_SCRUB_CMD then d.scrubCmdWr c v
  else if a = HBM_CFG then d.hbmCfgWr c (BitVec.ofNat 64 v)
  else if a = HBM_S_TRAIN i || a = DDR_C_TRAIN i then
    let u := trainUnit a i
    -- the step's outcome, which no command brings here, is a free value
    (if bit v 0 = 1 then d.draw else d).trainWr c u (BitVec.ofNat 64 v) (Config.trainStepOk d.free) (Config.trainStepResult d.free)
  else if a = MEM_P_SPLIT i then d.splitWr c i (BitVec.ofNat 64 v)
  else if a = MEM_P_RANGE i j then d.rangeWr c i j (BitVec.ofNat 64 v)
  else if a = MEM_P_KEY i then d.keyWr c i v
  else if a = MEM_P_SWEEP i then d.sweepWr c i (BitVec.ofNat 64 v)
  else d.ownerPlain c a i v r

/-- A write of an ETH_, NOP_, SEC_, PWR_ or SRV_ register. -/
def Dev.highRegWr (d : Dev) (c : Cred) (a i j v : Nat) (r : RegAt) : Dev × Byte :=
  if a = ETH_P_CTRL i then d.ethCtrlWr c i v
  else if a = ETH_P_MAC i then d.ethAddrWr c i (ETH_P_MAC_MAC i) v
  else if a = ETH_P_IP0 i then d.ethAddrWr c i (ETH_P_IP0_V i) v
  else if a = ETH_P_IP1 i then d.ethAddrWr c i (ETH_P_IP1_V i) v
  else if a = ETH_FAILOVER then d.failoverWr c v
  else if a = NOP_CFG then d.nopCfgWr c v
  else if a = NOP_RECOVER then d.recoverWr c v
  else if a = NOP_P_WIN i j then d.winWr c i j v
  else if a = NOP_P_ENTRY i then d.entryWr c i v
  else if a = NOP_CTX_CFG i then d.ctxCfgWr c i v
  else if a = NOP_CTX_STATE i then d.ctxStateWr c i v
  else if a = PWR_ENVELOPE then d.envWr c v
  else if a = PWR_THERMAL then d.thermalWr c v
  else if a = PWR_AVS then d.avsWr c v
  else if a = PWR_TELEM then
    ownerWr c d fun d => (d.takeIf PWR_TELEM_PERIOD v fun x => decide (10 ≤ x) && decide (x ≤ 10000), stOk)
  else if a = SRV_CTRL then d.srvCtrlWr c v
  else if a = SRV_SPD_CMD then d.spdWr c v
  else d.ownerPlain c a 0 v r

/-- A write of the register at a canonical address. -/
def Dev.regWr (d : Dev) (m : Meter) (c : Cred) (a v : Nat) (r : RegAt) : Dev × Byte :=
  let i := r.idx.getD 0 0
  let j := r.idx.getD 1 0
  if a < 0xFF0400000000 then d.lowRegWr m c a i j v r
  else if 0xFF0600000000 ≤ a && a < 0xFF0700000000 then d.tileRegWr c i (a % 0x10000) v a r
  else if a < 0xFF0C00000000 then d.midRegWr c a i j v r
  else d.highRegWr c a i j v r

/-! ## Accesses -/

/-- The address lies in the MTR_ page (R24). -/
def inMeterPage (a : Nat) : Bool := decide (0xFF0F00000000 ≤ a) && decide (a < 0xFF1000000000)
/-- The partition whose memory ranges a credential reaches, 0 for every partition's; none without one. -/
def memScope (c : Cred) : Option Nat :=
  match c with
  | .owner => some 0
  | .dmc => some 0
  | .tenant p => if p.val = 0 then none else some p.val
  | .none => none
/-- The address lies in the HBM or the DDR5 window (R20). -/
def inMemory (a : Nat) : Bool := decide (a < 0x90000000000)
/-- Status of an 8-byte access of memory on a credential (R22, R23). DESIGN CHOICE (log 32): an access with no credential is DENIED before
it is asked whether the address is populated; on a tenant's credential an unpopulated address is UNMAPPED before its right is asked. -/
def Dev.memStatus8 (d : Dev) (c : Cred) (a : Nat) : Byte :=
  match memScope c with
  | none => stDenied
  | some p => d.memStatus p a 8
/-- The host's 8-byte accesses pass through IO-N on the REMOTE stream, and take their slots there (R375, R400). -/
def Dev.hostAccess (d : Dev) (p a : Nat) (isWrite : Bool) : Dev :=
  (d.countRemote 0 (d.unitAt a) p isWrite).servedAccess p a isWrite .remote .served

/-- An 8-byte write of memory on a credential. -/
def Dev.memoryWr (d : Dev) (c : Cred) (a v : Nat) : Dev × Byte :=
  let st := d.memStatus8 c a
  if st ≠ stOk then (d, st)
  else
    let p := d.pageOwner (memTier a) (memPage a)
    let d := d.hostAccess p a true
    if d.mem.bad.contains (a / 256) && (d.inSweep a).isNone then
      ((d.memUeRecord a rdRemote 0 0 3 p none 2).containRegion p, stUncorrectable)
    else
      let d := d.memWrite a (leBytes 8 v)
      (if isOwner c then d.expose p else d, stOk)

/-- An 8-byte write on a credential: of a register, of tile memory through its window, or of memory. -/
def Dev.access8Wr (d : Dev) (m : Meter) (c : Cred) (addr v : Nat) : Dev × Byte :=
  let a := canonAddr addr
  if d.winShut addr then (d, stDenied)
  else if inMeterPage a then (d, stDenied)
  else
    match findReg a with
    | some r => if d.dmcBusy a then (d, stNopBusy) else d.regWr m c a v r
    | none =>
      if inMemory addr then d.memoryWr c addr v
      else if !inWindows addr then (d, stUnmapped)
      else
        let n := winTile addr
        let off := winOffset addr
        if !d.reaches c n then (d, stDenied)
        else
          let st := d.winStatus n off 8 true
          if st ≠ stOk then (d, st)
          else
            let d := d.modTile n fun t => t.winWrite off (leBytes 8 v)
            (if isOwner c then d.expose (d.tile n).part else d, stOk)

/-- A read's outcome: the device, the status and the value. -/
structure ReadOut where
  dev : Dev
  st : Byte
  val : Nat

/-- An 8-byte read of tile memory through its window; `ecc` is what its error correction finds (R498). -/
def Dev.windowRd (d : Dev) (c : Cred) (addr : Nat) (ecc : Ecc) : ReadOut :=
  let n := winTile addr
  let off := winOffset addr
  if !d.reaches c n then ⟨d, stDenied, 0⟩
  else
    let st := d.winStatus n off 8 false
    if st ≠ stOk then ⟨d, st, 0⟩
    else if ecc == .uncorrectable || (d.tile n).ueIn off 8 then ⟨d.memUeLatent n ((d.tile n).ueAddr off 8) 10, stUncorrectable, 0⟩
    else
      let v := leNat ((d.tile n).winRead off 8)
      let d := if ecc == .corrected then d.corrected n off else d
      ⟨if isOwner c then d.expose (d.tile n).part else d, stOk, v⟩

/-- An 8-byte read of memory on a credential (R397, R427). -/
def Dev.memoryRd (d : Dev) (c : Cred) (a : Nat) (ecc : Ecc) : ReadOut :=
  let st := d.memStatus8 c a
  if st ≠ stOk then ⟨d, st, 0⟩
  else
    let p := d.pageOwner (memTier a) (memPage a)
    let d := d.hostAccess p a false
    if ecc == .uncorrectable || (d.mem.bad.contains (a / 256) && (d.inSweep a).isNone) then
      ⟨((d.markLine a).memUeRecord a rdRemote 0 0 3 p none 2).containRegion p, stUncorrectable, 0⟩
    else
      let v := leNat (d.memRead a 8)
      let d := if ecc == .corrected then d.memCorrected a else d
      ⟨if isOwner c then d.expose p else d, stOk, v⟩

/-- The tile registers (R121). -/
def inTileRegs (a : Nat) : Bool := decide (0xFF0600000000 ≤ a) && decide (a < 0xFF0601000000)
/-- An uncorrectable error in a register of tile n that a read from outside meets (R498, R500): the tile is fenced. -/
def Dev.tileRegUe (d : Dev) (n off : Nat) : Dev := (d.ueRecord n (0x1A00000 + off) rdWindow 0 0 3 4).fence n 1

/-- An 8-byte read on a credential: of a register, whose read-clear fields it clears (R12, R15), of tile memory, or of
memory. -/
def Dev.access8Rd (d : Dev) (m : Meter) (c : Cred) (addr : Nat) (ecc : Ecc) : ReadOut :=
  let a := canonAddr addr
  if d.winShut addr then ⟨d, stDenied, 0⟩
  else
    match findReg a with
    | some r =>
      if !d.mayRead c r then ⟨d, stDenied, 0⟩
      else if d.dmcBusy a then ⟨d, stNopBusy, 0⟩
      else if inTileRegs a && ecc == .uncorrectable then ⟨d.tileRegUe ((a - 0xFF0600000000) / 0x10000) (a % 0x10000), stUncorrectable, 0⟩
      else
        let v := d.regValue m a r
        let d := d.readClear a r
        let n := (a - 0xFF0600000000) / 0x10000
        let d := if inTileRegs a && ecc == .corrected then d.modTile n fun t => { t with ceSecond := t.ceSecond + 1 } else d
        let shows := inTileRegs a && exposingReg (a % 0x10000) && isOwner c
        ⟨if shows then d.expose (d.tile n).part else d, stOk, v⟩
    | none =>
      if inMemory addr then d.memoryRd c addr ecc
      else if inWindows addr then d.windowRd c addr ecc
      else ⟨d, stUnmapped, 0⟩

/-- REGISTER_WRITE (R11 to R14, R22): an access of another width or alignment finds no register. -/
def execRegisterWrite (cred : Cred) (addr width : Nat) (value : Word) (s : State) :=
  runRead (fun m d =>
    if width ≠ 8 || addr % 8 ≠ 0 then d.completed stUnmapped 0 else ended (d.access8Wr m cred addr value.toNat)) s

/-- READ_CLEAR (R11, R12, R15): an access of another width or alignment finds no register. -/
def execReadClear (cred : Cred) (addr : RegSpan) (s : State) :=
  runRead (fun m d =>
    if addr.width ≠ 8 || addr.addr % 8 ≠ 0 then d.completed stUnmapped 0
    else
      let o := d.access8Rd m cred addr.addr .ok
      o.dev.completed o.st o.val) s

/-! ## REG_READ and REG_WRITE (R423, R432) -/

/-- REG_RESP: TAG, STATUS, 0, DONE and the values read, which are device-memory bytes. -/
def Dev.regReply (d : Dev) (c tag : Nat) (st : Byte) (done : Nat) (vals : List Nat) : Dev :=
  d.queueMsg c (mkMsg 0x42 (d.ctxPart c) c true (beBytes 4 tag ++ [st, 0] ++ beBytes 2 done ++ vals.flatMap (leBytes 8)))

/-- `k` registers are read from `a` upward until one does not complete OK. -/
def Dev.regReads (m : Meter) (c : Cred) (ecc : Ecc) : Nat → Nat → Dev → Dev × Byte × List Nat
  | 0, _, d => (d, stOk, [])
  | k + 1, a, d =>
    if a % 8 ≠ 0 then (d, stUnmapped, [])
    else
      let o := d.access8Rd m c a ecc
      if o.st ≠ stOk then (o.dev, o.st, [])
      else
        let (d, st, vs) := Dev.regReads m c ecc k (a + 8) o.dev
        (d, st, o.val :: vs)
/-- Registers are written from `a` upward until one does not complete OK. -/
def Dev.regWrites (m : Meter) (c : Cred) : List Word → Nat → Nat → Dev → Dev × Byte × Nat
  | [], _, k, d => (d, stOk, k)
  | v :: vs, a, k, d =>
    if a % 8 ≠ 0 then (d, stUnmapped, k)
    else
      let r := d.access8Wr m c a v.toNat
      if r.2 ≠ stOk then (r.1, r.2, k) else Dev.regWrites m c vs (a + 8) (k + 1) r.1

/-- REG_READ (R432). -/
def execRegRead (h : NHdr) (tag count addr : Nat) (ecc : Ecc) (s : State) :=
  runRead (fun m d =>
    let c := h.dctx.val
    d.nopraRx h true false (hasLen h 16 && decide (1 ≤ count) && decide (count ≤ 128))
      (fun st d => d.regReply c tag st 0 []) fun d =>
        if d.ctxKind c ≠ 2 then d.regReply c tag stDenied 0 []
        else
          let (d, st, vs) := Dev.regReads m (d.ctx c).cred ecc count addr d
          d.regReply c tag st vs.length vs) s
/-- REG_WRITE (R432). -/
def execRegWrite (h : NHdr) (tag addr : Nat) (values : List Word) (s : State) :=
  runRead (fun m d =>
    let c := h.dctx.val
    let n := values.length
    d.nopraRx h true false (hasLen h (16 + 8 * n))
      (fun st d => d.regReply c tag st 0 []) fun d =>
        if d.ctxKind c ≠ 2 then d.regReply c tag stDenied 0 []
        else
          let (d, st, k) := Dev.regWrites m (d.ctx c).cred values addr 0 d
          d.regReply c tag st k []) s

end Sys2Proof.Machine
end

