-- ==== Sys2Proof/Machine/Alu.lean ====
section
/-! DEFINITION. The scalar instructions ADD to SEL, the compares, the predicate logic and the load-immediates (R91 to
R93), and the branches (R94). -/

namespace Sys2Proof.Machine

/-- High 64 bits of the signed product (R91). -/
def mulHigh (a b : Word) : Word := BitVec.ofInt 64 (a.toInt * b.toInt / 2 ^ 64)
/-- High 64 bits of the unsigned product (R91). -/
def mulHighU (a b : Word) : Word := BitVec.ofNat 64 (a.toNat * b.toNat / 2 ^ 64)
/-- Leading zeros of a number of w bits. -/
def leadingZeros (v : Nat) : Nat → Nat
  | 0 => 0
  | w + 1 => if bit v w = 1 then 0 else 1 + leadingZeros v w
/-- Set bits among the low w bits of a number. -/
def setBitCount (v : Nat) : Nat → Nat
  | 0 => 0
  | w + 1 => bit v w + setBitCount v w
/-- Leading zeros, 0 to 64 (R91). -/
def clzW (a : Word) : Word := BitVec.ofNat 64 (leadingZeros a.toNat 64)
/-- Set bits (R91). -/
def popcW (a : Word) : Word := BitVec.ofNat 64 (setBitCount a.toNat 64)
/-- Shift count: b[5:0] (R91). -/
def shiftCount (b : Word) : Nat := b.toNat % 64

/-- ADD (R91). -/
def execAdd (x : Iss) (rd ra : GReg) (b : Opnd) (s : State) := aluRun (fun a b => a + b) x rd ra b s
/-- SUB (R91). -/
def execSub (x : Iss) (rd ra : GReg) (b : Opnd) (s : State) := aluRun (fun a b => a - b) x rd ra b s
/-- AND (R91). -/
def execAnd (x : Iss) (rd ra : GReg) (b : Opnd) (s : State) := aluRun (fun a b => a &&& b) x rd ra b s
/-- OR (R91). -/
def execOr (x : Iss) (rd ra : GReg) (b : Opnd) (s : State) := aluRun (fun a b => a ||| b) x rd ra b s
/-- XOR (R91). -/
def execXor (x : Iss) (rd ra : GReg) (b : Opnd) (s : State) := aluRun (fun a b => a ^^^ b) x rd ra b s
/-- ANDN (R91). -/
def execAndn (x : Iss) (rd ra : GReg) (b : Opnd) (s : State) := aluRun (fun a b => a &&& ~~~b) x rd ra b s
/-- SHL (R91). -/
def execShl (x : Iss) (rd ra : GReg) (b : Opnd) (s : State) := aluRun (fun a b => a <<< shiftCount b) x rd ra b s
/-- SHR (R91). -/
def execShr (x : Iss) (rd ra : GReg) (b : Opnd) (s : State) := aluRun (fun a b => a >>> shiftCount b) x rd ra b s
/-- SAR (R91). -/
def execSar (x : Iss) (rd ra : GReg) (b : Opnd) (s : State) := aluRun (fun a b => a.sshiftRight (shiftCount b)) x rd ra b s
/-- MUL (R91). -/
def execMul (x : Iss) (rd ra : GReg) (b : Opnd) (s : State) := aluRun (fun a b => a * b) x rd ra b s 3
/-- MULH (R91). -/
def execMulh (x : Iss) (rd ra : GReg) (b : Opnd) (s : State) := aluRun mulHigh x rd ra b s 3
/-- MULHU (R91). -/
def execMulhu (x : Iss) (rd ra : GReg) (b : Opnd) (s : State) := aluRun mulHighU x rd ra b s 3
/-- MIN (R91). -/
def execMin (x : Iss) (rd ra : GReg) (b : Opnd) (s : State) := aluRun (fun a b => if a.slt b then a else b) x rd ra b s
/-- MAX (R91). -/
def execMax (x : Iss) (rd ra : GReg) (b : Opnd) (s : State) := aluRun (fun a b => if a.slt b then b else a) x rd ra b s
/-- MINU (R91). -/
def execMinu (x : Iss) (rd ra : GReg) (b : Opnd) (s : State) := aluRun (fun a b => if a.ult b then a else b) x rd ra b s
/-- MAXU (R91). -/
def execMaxu (x : Iss) (rd ra : GReg) (b : Opnd) (s : State) := aluRun (fun a b => if a.ult b then b else a) x rd ra b s
/-- CLZ (R91): b is ignored. -/
def execClz (x : Iss) (rd ra : GReg) (b : Opnd) (s : State) := aluRun (fun a _ => clzW a) x rd ra b s
/-- POPC (R91): b is ignored. -/
def execPopc (x : Iss) (rd ra : GReg) (b : Opnd) (s : State) := aluRun (fun a _ => popcW a) x rd ra b s
/-- SEL (R91): ga if p[IMM[2:0]] is 1, else gb. -/
def execSel (x : Iss) (rd ra rb : GReg) (p : PReg) (s : State) : Host.Outcome State Fault Refusal :=
  run (fun d => d.issue x [ra.val, rb.val] 1 fun d n f s st =>
    putReg d n f s rd.val (if st.predBit p.val then st.reg ra.val else st.reg rb.val)) s

/-- CMP_EQ (R92). -/
def execCmpEq (x : Iss) (pd : PReg) (ra : GReg) (b : Opnd) (s : State) := cmpRun condEq x pd ra b s
/-- CMP_NE (R92). -/
def execCmpNe (x : Iss) (pd : PReg) (ra : GReg) (b : Opnd) (s : State) := cmpRun condNe x pd ra b s
/-- CMP_LT (R92). -/
def execCmpLt (x : Iss) (pd : PReg) (ra : GReg) (b : Opnd) (s : State) := cmpRun condLt x pd ra b s
/-- CMP_LTU (R92). -/
def execCmpLtu (x : Iss) (pd : PReg) (ra : GReg) (b : Opnd) (s : State) := cmpRun condLtu x pd ra b s
/-- CMP_GE (R92). -/
def execCmpGe (x : Iss) (pd : PReg) (ra : GReg) (b : Opnd) (s : State) := cmpRun condGe x pd ra b s
/-- CMP_GEU (R92). -/
def execCmpGeu (x : Iss) (pd : PReg) (ra : GReg) (b : Opnd) (s : State) := cmpRun condGeu x pd ra b s

/-- PAND (R93). -/
def execPand (x : Iss) (pd pa pb : PReg) (s : State) := predRun (fun a b => a && b) x pd pa pb s
/-- POR (R93). -/
def execPor (x : Iss) (pd pa pb : PReg) (s : State) := predRun (fun a b => a || b) x pd pa pb s
/-- PXOR (R93). -/
def execPxor (x : Iss) (pd pa pb : PReg) (s : State) := predRun (fun a b => a != b) x pd pa pb s
/-- PANDN (R93). -/
def execPandn (x : Iss) (pd pa pb : PReg) (s : State) := predRun predAndn x pd pa pb s
/-- PTST (R93). -/
def execPtst (x : Iss) (pd : PReg) (ra : GReg) (imm : Imm) (s : State) : Host.Outcome State Fault Refusal :=
  run (fun d => d.issue x [ra.val] 1 fun d n f s st => putPred d n f s pd.val (condTst (st.reg ra.val) imm)) s
/-- PGET (R93): p7 to p0 in bits [7:0]. -/
def execPget (x : Iss) (rd : GReg) (s : State) : Host.Outcome State Fault Refusal :=
  run (fun d => d.issue x [] 1 fun d n f s st =>
    putReg d n f s rd.val ((st.p ||| 1).zeroExtend 64)) s
/-- LI (R93). -/
def execLi (x : Iss) (rd : GReg) (imm : Imm) (s : State) : Host.Outcome State Fault Refusal :=
  run (fun d => d.issue x [] 1 fun d n f s _ => putReg d n f s rd.val (sext32 imm)) s
/-- LIU (R93). -/
def execLiu (x : Iss) (rd : GReg) (imm : Imm) (s : State) : Host.Outcome State Fault Refusal :=
  run (fun d => d.issue x [] 1 fun d n f s _ => putReg d n f s rd.val (zext32 imm)) s
/-- LIH (R93). -/
def execLih (x : Iss) (rd ra : GReg) (imm : Imm) (s : State) : Host.Outcome State Fault Refusal :=
  run (fun d => d.issue x [ra.val] 1 fun d n f s st =>
    putReg d n f s rd.val ((st.reg ra.val &&& 0xFFFFFFFF) ||| (zext32 imm <<< (32 : Nat)))) s

/-- BR (R94). -/
def execBr (x : Iss) (imm : Imm) (s : State) : Host.Outcome State Fault Refusal :=
  run (fun d => d.issue x [] 1 fun d _ _ _ st => (d, .jump (st.pc.toNat + imm.toInt))) s
/-- JL (R94): rd takes PC + 1. -/
def execJl (x : Iss) (rd : GReg) (imm : Imm) (s : State) : Host.Outcome State Fault Refusal :=
  run (fun d => d.issue x [] 1 fun d n f s st =>
    ((putReg d n f s rd.val (BitVec.ofNat 64 (st.pc.toNat + 1))).1, .jump (st.pc.toNat + imm.toInt))) s
/-- JLR (R94): to ga + IMM, with ga read before rd is written. The target is the sum modulo 2^64. -/
def execJlr (x : Iss) (rd ra : GReg) (imm : Imm) (s : State) : Host.Outcome State Fault Refusal :=
  run (fun d => d.issue x [ra.val] 1 fun d n f s st =>
    ((putReg d n f s rd.val (BitVec.ofNat 64 (st.pc.toNat + 1))).1,
     .jump ((st.reg ra.val + sext32 imm).toNat : Int))) s

end Sys2Proof.Machine
end

