-- ==== Sys2Proof/Machine/Dispatch.lean ====
section
/-! DEFINITION. The dispatcher: one arm for each command. -/

namespace Sys2Proof.Machine

def exec (i : Instr) (s : State) : Host.Outcome State Fault Refusal :=
  match i with
  | .registerWrite cred addr width value => Sys2Proof.Machine.execRegisterWrite cred addr width value s
  | .readClear cred addr => Sys2Proof.Machine.execReadClear cred addr s
  | .dutyMapWrite cred value => Sys2Proof.Machine.execDutyMapWrite cred value s
  | .dutyChangeEffect field => Sys2Proof.Machine.execDutyChangeEffect field s
  | .timeSet cred value => Sys2Proof.Machine.execTimeSet cred value s
  | .timeSetApply => Sys2Proof.Machine.execTimeSetApply s
  | .timeCtrlWrite cred value => Sys2Proof.Machine.execTimeCtrlWrite cred value s
  | .timeSteerWrite cred value => Sys2Proof.Machine.execTimeSteerWrite cred value s
  | .ppsEdge offset => Sys2Proof.Machine.execPpsEdge offset s
  | .ppsMissed => Sys2Proof.Machine.execPpsMissed s
  | .secondBoundary => Sys2Proof.Machine.execSecondBoundary s
  | .ppsOutFall => Sys2Proof.Machine.execPpsOutFall s
  | .timeExhausted => Sys2Proof.Machine.execTimeExhausted s
  | .ptpSyncTimeout => Sys2Proof.Machine.execPtpSyncTimeout s
  | .ptpEventRx port ev => Sys2Proof.Machine.execPtpEventRx port ev s
  | .peerDelayReq port frame => Sys2Proof.Machine.execPeerDelayReq port frame s
  | .req h m => Sys2Proof.Machine.execReq h m s
  | .promiseExpiry part tag => Sys2Proof.Machine.execPromiseExpiry part tag s
  | .admCtrlWrite cred part value => Sys2Proof.Machine.execAdmCtrlWrite cred part value s
  | .hostScheduleValid cred part entry value => Sys2Proof.Machine.execHostScheduleValid cred part entry value s
  | .hostScheduleExpiry part entry => Sys2Proof.Machine.execHostScheduleExpiry part entry s
  | .add x rd ra b => Sys2Proof.Machine.execAdd x rd ra b s
  | .sub x rd ra b => Sys2Proof.Machine.execSub x rd ra b s
  | .and_ x rd ra b => Sys2Proof.Machine.execAnd x rd ra b s
  | .or_ x rd ra b => Sys2Proof.Machine.execOr x rd ra b s
  | .xor_ x rd ra b => Sys2Proof.Machine.execXor x rd ra b s
  | .andn x rd ra b => Sys2Proof.Machine.execAndn x rd ra b s
  | .shl x rd ra b => Sys2Proof.Machine.execShl x rd ra b s
  | .shr x rd ra b => Sys2Proof.Machine.execShr x rd ra b s
  | .sar x rd ra b => Sys2Proof.Machine.execSar x rd ra b s
  | .mul x rd ra b => Sys2Proof.Machine.execMul x rd ra b s
  | .mulh x rd ra b => Sys2Proof.Machine.execMulh x rd ra b s
  | .mulhu x rd ra b => Sys2Proof.Machine.execMulhu x rd ra b s
  | .min_ x rd ra b => Sys2Proof.Machine.execMin x rd ra b s
  | .max_ x rd ra b => Sys2Proof.Machine.execMax x rd ra b s
  | .minu x rd ra b => Sys2Proof.Machine.execMinu x rd ra b s
  | .maxu x rd ra b => Sys2Proof.Machine.execMaxu x rd ra b s
  | .clz x rd ra b => Sys2Proof.Machine.execClz x rd ra b s
  | .popc x rd ra b => Sys2Proof.Machine.execPopc x rd ra b s
  | .sel x rd ra rb p => Sys2Proof.Machine.execSel x rd ra rb p s
  | .cmpEq x pd ra b => Sys2Proof.Machine.execCmpEq x pd ra b s
  | .cmpNe x pd ra b => Sys2Proof.Machine.execCmpNe x pd ra b s
  | .cmpLt x pd ra b => Sys2Proof.Machine.execCmpLt x pd ra b s
  | .cmpLtu x pd ra b => Sys2Proof.Machine.execCmpLtu x pd ra b s
  | .cmpGe x pd ra b => Sys2Proof.Machine.execCmpGe x pd ra b s
  | .cmpGeu x pd ra b => Sys2Proof.Machine.execCmpGeu x pd ra b s
  | .pand x pd pa pb => Sys2Proof.Machine.execPand x pd pa pb s
  | .por x pd pa pb => Sys2Proof.Machine.execPor x pd pa pb s
  | .pxor x pd pa pb => Sys2Proof.Machine.execPxor x pd pa pb s
  | .pandn x pd pa pb => Sys2Proof.Machine.execPandn x pd pa pb s
  | .ptst x pd ra imm => Sys2Proof.Machine.execPtst x pd ra imm s
  | .pget x rd => Sys2Proof.Machine.execPget x rd s
  | .li x rd imm => Sys2Proof.Machine.execLi x rd imm s
  | .liu x rd imm => Sys2Proof.Machine.execLiu x rd imm s
  | .lih x rd ra imm => Sys2Proof.Machine.execLih x rd ra imm s
  | .br x imm => Sys2Proof.Machine.execBr x imm s
  | .jl x rd imm => Sys2Proof.Machine.execJl x rd imm s
  | .jlr x rd ra imm => Sys2Proof.Machine.execJlr x rd ra imm s
  | .ldB x rd ra imm zext => Sys2Proof.Machine.execLdB x rd ra imm zext s
  | .ldH x rd ra imm zext => Sys2Proof.Machine.execLdH x rd ra imm zext s
  | .ldW x rd ra imm zext => Sys2Proof.Machine.execLdW x rd ra imm zext s
  | .ldD x rd ra imm => Sys2Proof.Machine.execLdD x rd ra imm s
  | .stB x ra rb imm => Sys2Proof.Machine.execStB x ra rb imm s
  | .stH x ra rb imm => Sys2Proof.Machine.execStH x ra rb imm s
  | .stW x ra rb imm => Sys2Proof.Machine.execStW x ra rb imm s
  | .stD x ra rb imm => Sys2Proof.Machine.execStD x ra rb imm s
  | .loadReturn tile strand rd ecc => Sys2Proof.Machine.execLoadReturn tile strand rd ecc s
  | .storeBufferWrite tile strand ecc => Sys2Proof.Machine.execStoreBufferWrite tile strand ecc s
  | .illegal tile strand word => Sys2Proof.Machine.execIllegal tile strand word s
  | .quSend x rd ra rb => Sys2Proof.Machine.execQuSend x rd ra rb s
  | .quSendt x rd ra rb imm => Sys2Proof.Machine.execQuSendt x rd ra rb imm s
  | .quSendn x rd ra rb => Sys2Proof.Machine.execQuSendn x rd ra rb s
  | .quSendl x rd ra rb imm => Sys2Proof.Machine.execQuSendl x rd ra rb imm s
  | .quRecv x rd ra q => Sys2Proof.Machine.execQuRecv x rd ra q s
  | .quPoll x rd q => Sys2Proof.Machine.execQuPoll x rd q s
  | .quStat x rd q => Sys2Proof.Machine.execQuStat x rd q s
  | .quClose x q => Sys2Proof.Machine.execQuClose x q s
  | .quSpc x rd ra rb => Sys2Proof.Machine.execQuSpc x rd ra rb s
  | .quSprd x rd ra st0 => Sys2Proof.Machine.execQuSprd x rd ra st0 s
  | .quTadd x rd ra rb => Sys2Proof.Machine.execQuTadd x rd ra rb s
  | .quTset x rd ra rb => Sys2Proof.Machine.execQuTset x rd ra rb s
  | .sendTimeout tile strand => Sys2Proof.Machine.execSendTimeout tile strand s
  | .hiArm x rd ra h => Sys2Proof.Machine.execHiArm x rd ra h s
  | .hiSig x rd rb => Sys2Proof.Machine.execHiSig x rd rb s
  | .hiWait x rd h => Sys2Proof.Machine.execHiWait x rd h s
  | .hiGen x rd h => Sys2Proof.Machine.execHiGen x rd h s
  | .tmNow x rd => Sys2Proof.Machine.execTmNow x rd s
  | .tmCyc x rd => Sys2Proof.Machine.execTmCyc x rd s
  | .tmAdd x rd ra rb => Sys2Proof.Machine.execTmAdd x rd ra rb s
  | .tmAt x rd ra => Sys2Proof.Machine.execTmAt x rd ra s
  | .tmAtExpiry tile strand => Sys2Proof.Machine.execTmAtExpiry tile strand s
  | .tmWait x ra imm => Sys2Proof.Machine.execTmWait x ra imm s
  | .tmWaitExpiry tile strand => Sys2Proof.Machine.execTmWaitExpiry tile strand s
  | .syHalt x => Sys2Proof.Machine.execSyHalt x s
  | .syYield x => Sys2Proof.Machine.execSyYield x s
  | .syYieldExpiry tile strand => Sys2Proof.Machine.execSyYieldExpiry tile strand s
  | .syFence x => Sys2Proof.Machine.execSyFence x s
  | .syWait x rd k imm => Sys2Proof.Machine.execSyWait x rd k imm s
  | .syStart x rd ra imm => Sys2Proof.Machine.execSyStart x rd ra imm s
  | .syStop x rd ra => Sys2Proof.Machine.execSyStop x rd ra s
  | .syTrap x imm => Sys2Proof.Machine.execSyTrap x imm s
  | .syRte x imm => Sys2Proof.Machine.execSyRte x imm s
  | .syCsr x rd imm => Sys2Proof.Machine.execSyCsr x rd imm s
  | .syFault x imm => Sys2Proof.Machine.execSyFault x imm s
  | .syKstat x rd k => Sys2Proof.Machine.execSyKstat x rd k s
  | .haltReq cred tile set => Sys2Proof.Machine.execHaltReq cred tile set s
  | .step_ cred tile strand => Sys2Proof.Machine.execStep cred tile strand s
  | .gprWrite cred tile strand r value => Sys2Proof.Machine.execGprWrite cred tile strand r value s
  | .mmMm x m => Sys2Proof.Machine.execMmMm x m s
  | .mmZero x m => Sys2Proof.Machine.execMmZero x m s
  | .mmOut x m => Sys2Proof.Machine.execMmOut x m s
  | .mmSpl x m => Sys2Proof.Machine.execMmSpl x m s
  | .mmF2 x m => Sys2Proof.Machine.execMmF2 x m s
  | .mmAtt x m => Sys2Proof.Machine.execMmAtt x m s
  | .mmWg x m => Sys2Proof.Machine.execMmWg x m s
  | .vxRun x m => Sys2Proof.Machine.execVxRun x m s
  | .vxClose x m => Sys2Proof.Machine.execVxClose x m s
  | .vxOpt x m => Sys2Proof.Machine.execVxOpt x m s
  | .dmGet x m => Sys2Proof.Machine.execDmGet x m s
  | .dmPut x m => Sys2Proof.Machine.execDmPut x m s
  | .dmMput x m => Sys2Proof.Machine.execDmMput x m s
  | .dmMcopy x m => Sys2Proof.Machine.execDmMcopy x m s
  | .spFill x m => Sys2Proof.Machine.execSpFill x m s
  | .spCopy x m => Sys2Proof.Machine.execSpCopy x m s
  | .spBfill x m => Sys2Proof.Machine.execSpBfill x m s
  | .spBdrain x m => Sys2Proof.Machine.execSpBdrain x m s
  | .spBreset x m => Sys2Proof.Machine.execSpBreset x m s
  | .macroStart tile engine => Sys2Proof.Machine.execMacroStart tile engine s
  | .macroComplete tile engine => Sys2Proof.Machine.execMacroComplete tile engine s
  | .engineLineAccess tile port ecc => Sys2Proof.Machine.execEngineLineAccess tile port ecc s
  | .mxWriteOut tile => Sys2Proof.Machine.execMxWriteOut tile s
  | .spliceContributionSend tile => Sys2Proof.Machine.execSpliceContributionSend tile s
  | .functionPass tile ecc => Sys2Proof.Machine.execFunctionPass tile ecc s
  | .dutyFrameBoundary => Sys2Proof.Machine.execDutyFrameBoundary s
  | .arrayRepair tile => Sys2Proof.Machine.execArrayRepair tile s
  | .spPowerReq cred tile value => Sys2Proof.Machine.execSpPowerReq cred tile value s
  | .spQuarterQuiesced tile quarter => Sys2Proof.Machine.execSpQuarterQuiesced tile quarter s
  | .spPowerTransitionDone tile quarter => Sys2Proof.Machine.execSpPowerTransitionDone tile quarter s
  | .scrubAccess tile ecc => Sys2Proof.Machine.execScrubAccess tile ecc s
  | .creditArrive tile => Sys2Proof.Machine.execCreditArrive tile s
  | .queueEntryArrive tile => Sys2Proof.Machine.execQueueEntryArrive tile s
  | .extensionSpill tile q => Sys2Proof.Machine.execExtensionSpill tile q s
  | .extensionRefill tile q => Sys2Proof.Machine.execExtensionRefill tile q s
  | .closeNotice tile => Sys2Proof.Machine.execCloseNotice tile s
  | .staleNotice tile => Sys2Proof.Machine.execStaleNotice tile s
  | .reopenNotice tile => Sys2Proof.Machine.execReopenNotice tile s
  | .revokedCredit tile => Sys2Proof.Machine.execRevokedCredit tile s
  | .stallProbe tile waiter => Sys2Proof.Machine.execStallProbe tile waiter s
  | .stallProbeArrive tile => Sys2Proof.Machine.execStallProbeArrive tile s
  | .spliceContributionArrive tile => Sys2Proof.Machine.execSpliceContributionArrive tile s
  | .spliceEntryComplete tile st0 => Sys2Proof.Machine.execSpliceEntryComplete tile st0 s
  | .hitchTokenArrive tile => Sys2Proof.Machine.execHitchTokenArrive tile s
  | .tallyOpArrive tile => Sys2Proof.Machine.execTallyOpArrive tile s
  | .tallyReplyArrive tile => Sys2Proof.Machine.execTallyReplyArrive tile s
  | .flitReceive r dir cls crcOk => Sys2Proof.Machine.execFlitReceive r dir cls crcOk s
  | .flitForward r dir cls => Sys2Proof.Machine.execFlitForward r dir cls s
  | .flitReplay r dir cls crcOk => Sys2Proof.Machine.execFlitReplay r dir cls crcOk s
  | .reductionCombine r splice => Sys2Proof.Machine.execReductionCombine r splice s
  | .regionLoad cred part value => Sys2Proof.Machine.execRegionLoad cred part value s
  | .regionAbort cred part => Sys2Proof.Machine.execRegionAbort cred part s
  | .regionCheckDone part => Sys2Proof.Machine.execRegionCheckDone part s
  | .imageSectionWrite part => Sys2Proof.Machine.execImageSectionWrite part s
  | .regionVerify part => Sys2Proof.Machine.execRegionVerify part s
  | .regionClearDone part => Sys2Proof.Machine.execRegionClearDone part s
  | .loadStreamTimeout part => Sys2Proof.Machine.execLoadStreamTimeout part s
  | .regionGo cred part => Sys2Proof.Machine.execRegionGo cred part s
  | .regionStart part => Sys2Proof.Machine.execRegionStart part s
  | .foldInstant part step => Sys2Proof.Machine.execFoldInstant part step s
  | .foldOldDrained tile => Sys2Proof.Machine.execFoldOldDrained tile s
  | .foldSwitchBegin tile => Sys2Proof.Machine.execFoldSwitchBegin tile s
  | .foldSwitchEnd tile => Sys2Proof.Machine.execFoldSwitchEnd tile s
  | .switchCommand cred part value => Sys2Proof.Machine.execSwitchCommand cred part value s
  | .drainStart cred part value => Sys2Proof.Machine.execDrainStart cred part value s
  | .drainComplete part => Sys2Proof.Machine.execDrainComplete part s
  | .drainLimit part => Sys2Proof.Machine.execDrainLimit part s
  | .resume cred part => Sys2Proof.Machine.execResume cred part s
  | .restart cred part reopen => Sys2Proof.Machine.execRestart cred part reopen s
  | .hbmIlvWrite cred value => Sys2Proof.Machine.execHbmIlvWrite cred value s
  | .memSplitWrite cred part value => Sys2Proof.Machine.execMemSplitWrite cred part value s
  | .memRangeWrite cred part k value => Sys2Proof.Machine.execMemRangeWrite cred part k value s
  | .dmaLineIssue tile eng ecc => Sys2Proof.Machine.execDmaLineIssue tile eng ecc s
  | .dmaLineComplete tile eng => Sys2Proof.Machine.execDmaLineComplete tile eng s
  | .channelSlot chan owner ecc => Sys2Proof.Machine.execChannelSlot chan owner ecc s
  | .refresh chan => Sys2Proof.Machine.execRefresh chan s
  | .keyRotate cred part => Sys2Proof.Machine.execKeyRotate cred part s
  | .sweepPage cred part value => Sys2Proof.Machine.execSweepPage cred part value s
  | .keySweepLine part ecc => Sys2Proof.Machine.execKeySweepLine part ecc s
  | .keyRetire part => Sys2Proof.Machine.execKeyRetire part s
  | .rowCopy unit row => Sys2Proof.Machine.execRowCopy unit row s
  | .trainStep cred unit value pass result => Sys2Proof.Machine.execTrainStep cred unit value pass result s
  | .trainDone cred unit => Sys2Proof.Machine.execTrainDone cred unit s
  | .portEnable cred port value => Sys2Proof.Machine.execPortEnable cred port value s
  | .portDisable cred port value => Sys2Proof.Machine.execPortDisable cred port value s
  | .portTrained port => Sys2Proof.Machine.execPortTrained port s
  | .trainingTimeout port => Sys2Proof.Machine.execTrainingTimeout port s
  | .cableMeasured port delayPs => Sys2Proof.Machine.execCableMeasured port delayPs s
  | .linkLoss port => Sys2Proof.Machine.execLinkLoss port s
  | .portFailover port => Sys2Proof.Machine.execPortFailover port s
  | .failoverForce cred target => Sys2Proof.Machine.execFailoverForce cred target s
  | .failback cred => Sys2Proof.Machine.execFailback cred s
  | .frameReceive port f => Sys2Proof.Machine.execFrameReceive port f s
  | .lldpTx port => Sys2Proof.Machine.execLldpTx port s
  | .lldpdu port chassis portId ttl => Sys2Proof.Machine.execLldpdu port chassis portId ttl s
  | .portTransmit port => Sys2Proof.Machine.execPortTransmit port s
  | .spanFrameBoundary => Sys2Proof.Machine.execSpanFrameBoundary s
  | .openRx h m => Sys2Proof.Machine.execOpenRx h m s
  | .openAck h incarn status => Sys2Proof.Machine.execOpenAck h incarn status s
  | .closeRx h reason => Sys2Proof.Machine.execCloseRx h reason s
  | .ackRx h => Sys2Proof.Machine.execAckRx h s
  | .capsRx h body => Sys2Proof.Machine.execCapsRx h body s
  | .qentryRx h items => Sys2Proof.Machine.execQentryRx h items s
  | .contribRx h items => Sys2Proof.Machine.execContribRx h items s
  | .hitchRx h items => Sys2Proof.Machine.execHitchRx h items s
  | .creditRx h items => Sys2Proof.Machine.execCreditRx h items s
  | .mread h addr bytes tag => Sys2Proof.Machine.execMread h addr bytes tag s
  | .mwrite h addr tag data => Sys2Proof.Machine.execMwrite h addr tag data s
  | .cancel h tag => Sys2Proof.Machine.execCancel h tag s
  | .regRead h tag count addr ecc => Sys2Proof.Machine.execRegRead h tag count addr ecc s
  | .regWrite h tag addr values => Sys2Proof.Machine.execRegWrite h tag addr values s
  | .loadData h part offset bytes => Sys2Proof.Machine.execLoadData h part offset bytes s
  | .loadEnd h part => Sys2Proof.Machine.execLoadEnd h part s
  | .pull h kind max => Sys2Proof.Machine.execPull h kind max s
  | .ptpTx h port tag frame => Sys2Proof.Machine.execPtpTx h port tag frame s
  | .resultEntry ctx tile => Sys2Proof.Machine.execResultEntry ctx tile s
  | .remoteItemEnqueue tile => Sys2Proof.Machine.execRemoteItemEnqueue tile s
  | .contextOpen cred ctx => Sys2Proof.Machine.execContextOpen cred ctx s
  | .contextClose cred ctx => Sys2Proof.Machine.execContextClose cred ctx s
  | .openTimeout ctx => Sys2Proof.Machine.execOpenTimeout ctx s
  | .rtoExpiry ctx ue => Sys2Proof.Machine.execRtoExpiry ctx ue s
  | .hostIdleTimeout ctx => Sys2Proof.Machine.execHostIdleTimeout ctx s
  | .recoverRetransmit cred ctx => Sys2Proof.Machine.execRecoverRetransmit cred ctx s
  | .recoverExhaust cred ctx => Sys2Proof.Machine.execRecoverExhaust cred ctx s
  | .create cred part => Sys2Proof.Machine.execCreate cred part s
  | .seal cred part => Sys2Proof.Machine.execSeal cred part s
  | .teardown cred part => Sys2Proof.Machine.execTeardown cred part s
  | .tileClearDone tile ok => Sys2Proof.Machine.execTileClearDone tile ok s
  | .teardownComplete part => Sys2Proof.Machine.execTeardownComplete part s
  | .challenge h tag ue => Sys2Proof.Machine.execChallenge h tag ue s
  | .bind_ h tag role part pk sigOk ue => Sys2Proof.Machine.execBind h tag role part pk sigOk ue s
  | .attest h tag part nonce ue => Sys2Proof.Machine.execAttest h tag part nonce ue s
  | .getCert h tag role ue => Sys2Proof.Machine.execGetCert h tag role ue s
  | .getDigests h tag part first ue => Sys2Proof.Machine.execGetDigests h tag part first ue s
  | .kemGet h tag part ue => Sys2Proof.Machine.execKemGet h tag part ue s
  | .secretPut h tag m ue => Sys2Proof.Machine.execSecretPut h tag m ue s
  | .enroll h tag kind auth digest pk sigOk ue => Sys2Proof.Machine.execEnroll h tag kind auth digest pk sigOk ue s
  | .commitSvn h tag ue => Sys2Proof.Machine.execCommitSvn h tag ue s
  | .flashErase h tag offset count ue => Sys2Proof.Machine.execFlashErase h tag offset count ue s
  | .flashWrite h tag offset data ue => Sys2Proof.Machine.execFlashWrite h tag offset data ue s
  | .secRestartDone => Sys2Proof.Machine.execSecRestartDone s
  | .bootImageRead => Sys2Proof.Machine.execBootImageRead s
  | .bootVerify sigOk => Sys2Proof.Machine.execBootVerify sigOk s
  | .bootApply refused => Sys2Proof.Machine.execBootApply refused s
  | .meterReset chain romOk calOk => Sys2Proof.Machine.execMeterReset chain romOk calOk s
  | .meterWatchdog chain romOk calOk => Sys2Proof.Machine.execMeterWatchdog chain romOk calOk s
  | .meterSample rails => Sys2Proof.Machine.execMeterSample rails s
  | .meterSealCheck failed => Sys2Proof.Machine.execMeterSealCheck failed s
  | .meterIntervalClose => Sys2Proof.Machine.execMeterIntervalClose s
  | .meterRecordDeliver => Sys2Proof.Machine.execMeterRecordDeliver s
  | .walkerHeartbeat die b configOk => Sys2Proof.Machine.execWalkerHeartbeat die b configOk s
  | .walkerHeartbeatTimeout die b stuck => Sys2Proof.Machine.execWalkerHeartbeatTimeout die b stuck s
  | .scrubCommand cred value => Sys2Proof.Machine.execScrubCommand cred value s
  | .fenceNotice tile => Sys2Proof.Machine.execFenceNotice tile s
  | .fenceCmd cred tile => Sys2Proof.Machine.execFenceCmd cred tile s
  | .spareCmdTile cred tile => Sys2Proof.Machine.execSpareCmdTile cred tile s
  | .spareCmdArray cred tile => Sys2Proof.Machine.execSpareCmdArray cred tile s
  | .spareCmdLine cred tile line => Sys2Proof.Machine.execSpareCmdLine cred tile line s
  | .spareCmdLane cred link => Sys2Proof.Machine.execSpareCmdLane cred link s
  | .spareCmdHbmLane cred stack => Sys2Proof.Machine.execSpareCmdHbmLane cred stack s
  | .spareCmdRow cred unit row => Sys2Proof.Machine.execSpareCmdRow cred unit row s
  | .spareCmdPort cred port => Sys2Proof.Machine.execSpareCmdPort cred port s
  | .shiftResume => Sys2Proof.Machine.execShiftResume s
  | .shiftQuietDone => Sys2Proof.Machine.execShiftQuietDone s
  | .shiftQuietTimeout => Sys2Proof.Machine.execShiftQuietTimeout s
  | .shiftCopyDone badTile => Sys2Proof.Machine.execShiftCopyDone badTile s
  | .shiftSwitchDone => Sys2Proof.Machine.execShiftSwitchDone s
  | .laneRepair link => Sys2Proof.Machine.execLaneRepair link s
  | .arrayCheck tile fault => Sys2Proof.Machine.execArrayCheck tile fault s
  | .ageingMeasure phys margin => Sys2Proof.Machine.execAgeingMeasure phys margin s
  | .faultPulseEnd => Sys2Proof.Machine.execFaultPulseEnd s
  | .resetNAssert => Sys2Proof.Machine.execResetNAssert s
  | .resetNRelease straps => Sys2Proof.Machine.execResetNRelease straps s
  | .pwrGoodFall => Sys2Proof.Machine.execPwrGoodFall s
  | .romStageDone flashOk => Sys2Proof.Machine.execRomStageDone flashOk s
  | .trainingStageDone t => Sys2Proof.Machine.execTrainingStageDone t s
  | .surveyGo cred => Sys2Proof.Machine.execSurveyGo cred s
  | .surveyDone r => Sys2Proof.Machine.execSurveyDone r s
  | .secondSurvey => Sys2Proof.Machine.execSecondSurvey s
  | .spdRead cred value => Sys2Proof.Machine.execSpdRead cred value s
  | .spdReadDone data => Sys2Proof.Machine.execSpdReadDone data s
  | .envelopeReq cred value => Sys2Proof.Machine.execEnvelopeReq cred value s
  | .powerAverage mw => Sys2Proof.Machine.execPowerAverage mw s
  | .capRise => Sys2Proof.Machine.execCapRise s
  | .avsAdjust => Sys2Proof.Machine.execAvsAdjust s
  | .pmbusPoll rail r => Sys2Proof.Machine.execPmbusPoll rail r s
  | .regulatorTimeout rail => Sys2Proof.Machine.execRegulatorTimeout rail s
  | .thermalSample temps => Sys2Proof.Machine.execThermalSample temps s
  | .warnStep => Sys2Proof.Machine.execWarnStep s
  | .telemetryCompose => Sys2Proof.Machine.execTelemetryCompose s
  | .i3cPrivateWrite bytes => Sys2Proof.Machine.execI3cPrivateWrite bytes s
  | .i3cPrivateRead n => Sys2Proof.Machine.execI3cPrivateRead n s
  | .entdaa addr => Sys2Proof.Machine.execEntdaa addr s
  | .setdasa addr => Sys2Proof.Machine.execSetdasa addr s
  | .rstdaa => Sys2Proof.Machine.execRstdaa s
  | .getpid => Sys2Proof.Machine.execGetpid s
  | .getbcr => Sys2Proof.Machine.execGetbcr s
  | .getdcr => Sys2Proof.Machine.execGetdcr s
  | .enec => Sys2Proof.Machine.execEnec s
  | .disec => Sys2Proof.Machine.execDisec s
  | .dmcRestart cred => Sys2Proof.Machine.execDmcRestart cred s
  | .dmcWatchdog ue => Sys2Proof.Machine.execDmcWatchdog ue s
  | .dmcRestartDone => Sys2Proof.Machine.execDmcRestartDone s
  | .jtagBypass => Sys2Proof.Machine.execJtagBypass s
  | .jtagIdcode => Sys2Proof.Machine.execJtagIdcode s
  | .jtagSamplePreload preload => Sys2Proof.Machine.execJtagSamplePreload preload s
  | .jtagExtest => Sys2Proof.Machine.execJtagExtest s
  | .vddMtrFall => Sys2Proof.Machine.execVddMtrFall s
  | .bootStreamTimeout => Sys2Proof.Machine.execBootStreamTimeout s

end Sys2Proof.Machine
end

