-- ==== Sys2Proof/Machine/Idle.lean ====
section
/-! DEFINITION. What a step does when no command waits: one array cycle passes. -/

namespace Sys2Proof.Machine

/-- One array cycle without a command (log 2): the tile cycle count (R102) and device time (R43) advance by 1, through a
second boundary with all that happens then (R48). A device held in reset or stopped keeps both. -/
def idle (s : State) : Host.Outcome State Fault Refusal := run (fun d => d.passCycles 1) s

end Sys2Proof.Machine
end

