-- ==== Sys2Proof/Machine/Chesha.lean ====
section
/-! DEFINITION. The Chesha instruction word (R87, R89 to R94, R96, R100 to R104): the fields of a word, and the command
that a word of a strand is. Commands come from outside one at a time, so no step calls this; it says which command of
the table the 64 bits of an instruction stand for. -/

namespace Sys2Proof.Machine

/-- A field of a word as a general register. -/
def gregAt (w hi lo : Nat) : GReg := ⟨bits w hi lo % 32, Nat.mod_lt _ (by decide)⟩
/-- A field of a word as a predicate register. -/
def pregAt (w hi lo : Nat) : PReg := ⟨bits w hi lo % 8, Nat.mod_lt _ (by decide)⟩
/-- A field of a word as a number below 64: a descriptor slot or a queue. -/
def six (w hi lo : Nat) : Fin 64 := ⟨bits w hi lo % 64, Nat.mod_lt _ (by decide)⟩
/-- A field of a word as a splice number. -/
def sixteenth (w hi lo : Nat) : Fin 16 := ⟨bits w hi lo % 16, Nat.mod_lt _ (by decide)⟩
/-- A field of a word as a completion counter. -/
def counterAt (w hi lo : Nat) : Fin 4 := ⟨bits w hi lo % 4, Nat.mod_lt _ (by decide)⟩

/-- OP [63:58] (R87). -/
def wordOp (w : Nat) : Nat := bits w 63 58
/-- FN [38:32] (R87). -/
def wordFn (w : Nat) : Nat := bits w 38 32
/-- IMM [31:0] (R87). -/
def wordImm (w : Nat) : Imm := BitVec.ofNat 32 w
/-- The strand that issues the word, with PRED [57:55] and PN [54] (R87, R88). -/
def wordIss (tile : TileId) (strand : StrandId) (w : Nat) : Iss := ⟨tile, strand, pregAt w 57 55, bit w 54 == 1⟩
/-- DA [53:48], DB [47:42], DC [41:36], DD [35:30], K [29:28] and SPEC [27:0] of a macro-instruction (R104). -/
def wordMac (w : Nat) : Mac :=
  ⟨six w 53 48, six w 47 42, six w 41 36, six w 35 30, counterAt w 29 28, BitVec.ofNat 28 w, .ok⟩

/-- The ALU instruction of a function code, with its second operand (R91). -/
def aluOf (x : Iss) (rd ra : GReg) (b : Opnd) (fn : Nat) : Option Instr :=
  match fn with
  | 0x00 => some (.add x rd ra b)
  | 0x01 => some (.sub x rd ra b)
  | 0x02 => some (.and_ x rd ra b)
  | 0x03 => some (.or_ x rd ra b)
  | 0x04 => some (.xor_ x rd ra b)
  | 0x05 => some (.andn x rd ra b)
  | 0x06 => some (.shl x rd ra b)
  | 0x07 => some (.shr x rd ra b)
  | 0x08 => some (.sar x rd ra b)
  | 0x09 => some (.mul x rd ra b)
  | 0x0A => some (.mulh x rd ra b)
  | 0x0B => some (.mulhu x rd ra b)
  | 0x0C => some (.min_ x rd ra b)
  | 0x0D => some (.max_ x rd ra b)
  | 0x0E => some (.minu x rd ra b)
  | 0x0F => some (.maxu x rd ra b)
  | 0x10 => some (.clz x rd ra b)
  | 0x11 => some (.popc x rd ra b)
  | _ => none

/-- The compare of a function code (R92). -/
def compareOf (x : Iss) (pd : PReg) (ra : GReg) (b : Opnd) (fn : Nat) : Option Instr :=
  match fn with
  | 0 => some (.cmpEq x pd ra b)
  | 1 => some (.cmpNe x pd ra b)
  | 2 => some (.cmpLt x pd ra b)
  | 3 => some (.cmpLtu x pd ra b)
  | 4 => some (.cmpGe x pd ra b)
  | 5 => some (.cmpGeu x pd ra b)
  | _ => none

/-- Predicate logic (R93). -/
def predOf (x : Iss) (pd pa pb : PReg) (rd ra : GReg) (imm : Imm) (fn : Nat) : Option Instr :=
  match fn with
  | 0 => some (.pand x pd pa pb)
  | 1 => some (.por x pd pa pb)
  | 2 => some (.pxor x pd pa pb)
  | 3 => some (.pandn x pd pa pb)
  | 4 => some (.ptst x pd ra imm)
  | 5 => some (.pget x rd)
  | _ => none

/-- A load of a function code; FN[2] selects zero extension (R96). -/
def loadOf (x : Iss) (rd ra : GReg) (imm : Imm) (fn : Nat) : Option Instr :=
  match fn with
  | 0 => some (.ldB x rd ra imm false)
  | 1 => some (.ldH x rd ra imm false)
  | 2 => some (.ldW x rd ra imm false)
  | 3 => some (.ldD x rd ra imm)
  | 4 => some (.ldB x rd ra imm true)
  | 5 => some (.ldH x rd ra imm true)
  | 6 => some (.ldW x rd ra imm true)
  | _ => none

/-- A store of a function code (R96). -/
def storeOf (x : Iss) (ra rb : GReg) (imm : Imm) (fn : Nat) : Option Instr :=
  match fn with
  | 0 => some (.stB x ra rb imm)
  | 1 => some (.stH x ra rb imm)
  | 2 => some (.stW x ra rb imm)
  | 3 => some (.stD x ra rb imm)
  | _ => none

/-- A qu. instruction (R100), with what the memory's check bits show of the lines it reads. -/
def quOf (x : Iss) (rd ra rb : GReg) (w : Nat) (ecc : Ecc) : Option Instr :=
  match wordFn w with
  | 0x0 => some (.quSend ⟨x, ecc⟩ rd ra rb)
  | 0x1 => some (.quSendt ⟨x, ecc⟩ rd ra rb (wordImm w))
  | 0x2 => some (.quSendn ⟨x, ecc⟩ rd ra rb)
  | 0x3 => some (.quSendl ⟨x, ecc⟩ rd ra rb (wordImm w))
  | 0x4 => some (.quRecv ⟨x, ecc⟩ rd ra (six w 5 0))
  | 0x5 => some (.quPoll x rd (six w 5 0))
  | 0x6 => some (.quStat x rd (six w 5 0))
  | 0x7 => some (.quClose x (six w 5 0))
  | 0x8 => some (.quSpc ⟨x, ecc⟩ rd ra rb)
  | 0x9 => some (.quSprd ⟨x, ecc⟩ rd ra (sixteenth w 3 0))
  | 0xA => some (.quTadd x rd ra rb)
  | 0xB => some (.quTset x rd ra rb)
  | _ => none

/-- A hi. instruction (R101). -/
def hiOf (x : Iss) (rd ra rb : GReg) (w : Nat) : Option Instr :=
  match wordFn w with
  | 0 => some (.hiArm x rd ra (BitVec.ofNat 8 w))
  | 1 => some (.hiSig x rd rb)
  | 2 => some (.hiWait x rd (BitVec.ofNat 8 w))
  | 3 => some (.hiGen x rd (BitVec.ofNat 8 w))
  | _ => none

/-- A tm. instruction (R102). -/
def tmOf (x : Iss) (rd ra rb : GReg) (w : Nat) : Option Instr :=
  match wordFn w with
  | 0 => some (.tmNow x rd)
  | 1 => some (.tmCyc x rd)
  | 2 => some (.tmAdd x rd ra rb)
  | 3 => some (.tmAt x rd ra)
  | 4 => some (.tmWait x ra (wordImm w))
  | _ => none

/-- A sy. instruction (R103). -/
def syOf (x : Iss) (rd ra : GReg) (w : Nat) : Option Instr :=
  match wordFn w with
  | 0x0 => some (.syHalt x)
  | 0x1 => some (.syYield x)
  | 0x2 => some (.syFence x)
  | 0x3 => some (.syWait x rd (counterAt w 45 44) (wordImm w))
  | 0x4 => some (.syStart x rd ra (wordImm w))
  | 0x5 => some (.syStop x rd ra)
  | 0x6 => some (.syTrap x (wordImm w))
  | 0x7 => some (.syRte x (wordImm w))
  | 0x8 => some (.syCsr x rd (wordImm w))
  | 0x9 => some (.syFault x (wordImm w))
  | 0xA => some (.syKstat x rd (counterAt w 45 44))
  | _ => none

/-- A macro-instruction: mm. under 0x20 to 0x27, vx. under 0x28 to 0x2B, dm. under 0x2C and sp. under 0x2E, the function
in SPEC[27:24] where one opcode carries several (R134, R148, R182, R205, R223, R224, R255, R381). -/
def macroInstr (x : Iss) (w : Nat) : Option Instr :=
  let m := wordMac w
  let fn := bits w 27 24
  match wordOp w with
  | 0x20 => some (.mmMm x m)
  | 0x21 => [Instr.mmZero x m, .mmOut x m, .mmSpl x m][fn]?
  | 0x24 => some (.mmF2 x m)
  | 0x25 => some (.mmAtt x m)
  | 0x27 => some (.mmWg x m)
  | 0x28 => some (.vxRun x m)
  | 0x2A => some (.vxClose x m)
  | 0x2B => some (.vxOpt x m)
  | 0x2C => [Instr.dmGet x m, .dmPut x m, .dmMput x m, .dmMcopy x m][fn]?
  | 0x2E => [Instr.spFill x m, .spCopy x m, .spBfill x m, .spBdrain x m, .spBreset x m][fn]?
  | _ => none

/-- The instruction whose fields a word gives by its opcode and function, before R89 is asked of it (R87, R90). -/
def fieldsOf (x : Iss) (w : Nat) (ecc : Ecc) : Option Instr :=
  let rd := gregAt w 53 49
  let ra := gregAt w 48 44
  let rb := gregAt w 43 39
  let fn := wordFn w
  let imm := wordImm w
  match wordOp w with
  | 0x01 => if fn = 0x12 then some (.sel x rd ra rb (pregAt w 2 0)) else aluOf x rd ra (.reg rb) fn
  | 0x02 => aluOf x rd ra (.imm imm) fn
  | 0x03 => compareOf x (pregAt w 51 49) ra (.reg rb) fn
  | 0x04 => compareOf x (pregAt w 51 49) ra (.imm imm) fn
  | 0x05 => predOf x (pregAt w 51 49) (pregAt w 46 44) (pregAt w 41 39) rd ra imm fn
  | 0x06 => [Instr.li x rd imm, .liu x rd imm, .lih x rd ra imm][fn]?
  | 0x08 => [Instr.br x imm][fn]?
  | 0x09 => [Instr.jl x rd imm, .jlr x rd ra imm][fn]?
  | 0x0C => loadOf x rd ra imm fn
  | 0x0D => storeOf x ra rb imm fn
  | 0x10 => quOf x rd ra rb w ecc
  | 0x11 => hiOf x rd ra rb w
  | 0x12 => tmOf x rd ra rb w
  | 0x13 => syOf x rd ra w
  | _ => macroInstr x w

/-- The command that a strand's instruction word is. A word that R89 refuses is ILLEGAL. `ecc` is what the check bits show
of the scratchpad lines the instruction itself reads. -/
def decodeChesha (tile : TileId) (strand : StrandId) (w : Word) (ecc : Ecc) : Instr :=
  if illegalWord w.toNat then .illegal tile strand w
  else (fieldsOf (wordIss tile strand w.toNat) w.toNat ecc).getD (.illegal tile strand w)

end Sys2Proof.Machine
end

