-- ==== Sys2Proof/Safety.lean ====
section
/-! DEFINITION. What counts as a safe state and a safe step, and the frames in whose terms the statements say what a command
leaves alone. -/

namespace Sys2Proof.Machine

/-- The outcome is a next state. -/
def answers (o : Host.Outcome State Fault Refusal) : Prop := ∃ t, o = .next t

/-- Every byte memory of a tile is in canonical form: addresses rise and no byte 0 is listed. -/
def Tile.memWf (t : Tile) : Bool :=
  Memory.wf t.scratch && Memory.wf t.acc && Memory.wf t.fstore && Memory.wf t.qmem && Memory.wf t.smem && Memory.wf t.desc

/-- The chain of the meter's records is sound (R479, R482 to R484): a record kept lies in the slot of its SEQ and was closed
before the one now open, its lines' apportioned energies add up to its total in the unsigned 128-bit integers of R482 and its rails'
energies add up to it exactly, and the cumulative energy is at least its total in the record and never falls after it. -/
def Meter.sound (m : Meter) : Prop :=
  ∀ r ∈ m.records, r.1 = r.2.seq % 256 ∧ r.2.seq < m.nextSeq ∧ (r.2.lines.map (·.app)).sum % 2 ^ 128 = r.2.total % 2 ^ 128 ∧
    r.2.rails.sum = r.2.total ∧ r.2.total ≤ r.2.cum ∧ r.2.cum ≤ m.cum

/-- The meter's measured energies: what it samples, apart from what it has put into records (R477). -/
def Meter.measured (m : Meter) : Nat × List Nat × List Nat × List Nat × List Nat :=
  (m.samples, m.frac, m.total, m.second, m.power)

/-- A command of the meter itself (R474, R476, R477, R479). -/
def ofMeter : Instr → Prop
  | .meterReset .. => True
  | .meterWatchdog .. => True
  | .vddMtrFall => True
  | .meterSample .. => True
  | .meterSealCheck .. => True
  | .meterIntervalClose => True
  | _ => False

/-- A command that the pins, the boundary scan or the meter take in any state of the device (R474, R523, R524). -/
def ofPins : Instr → Prop
  | .resetNAssert .. => True
  | .resetNRelease .. => True
  | .pwrGoodFall .. => True
  | .jtagBypass .. => True
  | .jtagIdcode .. => True
  | .jtagSamplePreload .. => True
  | .jtagExtest .. => True
  | _ => False

/-- The partition map is as before: each tile's partition, and which partitions are FREE (R475). -/
def sameMap (d e : Dev) : Prop :=
  (∀ n : TileId, (e.tile n.val).part = (d.tile n.val).part) ∧
  (∀ p : PartId, (e.partState p.val == 0) = (d.partState p.val == 0)) ∧ e.spare.switches = d.spare.switches

/-! ## Frames -/

/-- The meter and the queue are as before. -/
def DevOnly (s t : State) : Prop := t.mtr = s.mtr ∧ t.pending = s.pending

/-- Beside the meter and the queue, everything but tiles and register fields is as before. -/
def TilesRegsOnly (s t : State) : Prop :=
  t.dev = { s.dev with tiles := t.dev.tiles, regs := t.dev.regs } ∧ DevOnly s t

/-- Every register field is as before but those whose keys are listed. -/
def RegsBut (s t : State) (l : List RF) : Prop :=
  ∀ r : RF, (∀ q ∈ l, r.key ≠ q.key) → t.dev.get r = s.dev.get r

/-- Every tile but `n` is as before. -/
def TilesBut (s t : State) (n : Nat) : Prop := ∀ m, m ≠ n → t.dev.tile m = s.dev.tile m

/-! ## The strands of a tile -/

/-- The context of the strand that an instruction is for, in frond f. -/
def strandOf (s : State) (x : Iss) (f : Nat) : Strand := (s.dev.tile x.tile.val).strand f x.strand.val

/-- The strand may issue an instruction that reads the registers `srcs` (R83, R84, R86), its guard holds (R88), and it neither
stands at the last instruction of its store nor has ended a wait there (R94). -/
def Ready (s : State) (x : Iss) (f : Nat) (srcs : List Nat) : Prop :=
  s.dev.live = true ∧ (s.dev.tile x.tile.val).active = some f ∧ s.dev.canIssue x.tile.val f x.strand.val srcs = true ∧
  guard (strandOf s x f) x = true ∧ (strandOf s x f).pc.toNat < 8191 ∧ (strandOf s x f).atEnd = false

/-- The strand and guard of an instruction that a strand issues, and how many words of the frond store it takes: one, and for
vx.run its chain words too (R83, R88, R205). -/
def issueOf : Instr → Option (Iss × Nat)
  | .add x _ _ _ => some (x, 1)
  | .sub x _ _ _ => some (x, 1)
  | .and_ x _ _ _ => some (x, 1)
  | .or_ x _ _ _ => some (x, 1)
  | .xor_ x _ _ _ => some (x, 1)
  | .andn x _ _ _ => some (x, 1)
  | .shl x _ _ _ => some (x, 1)
  | .shr x _ _ _ => some (x, 1)
  | .sar x _ _ _ => some (x, 1)
  | .mul x _ _ _ => some (x, 1)
  | .mulh x _ _ _ => some (x, 1)
  | .mulhu x _ _ _ => some (x, 1)
  | .min_ x _ _ _ => some (x, 1)
  | .max_ x _ _ _ => some (x, 1)
  | .minu x _ _ _ => some (x, 1)
  | .maxu x _ _ _ => some (x, 1)
  | .clz x _ _ _ => some (x, 1)
  | .popc x _ _ _ => some (x, 1)
  | .sel x _ _ _ _ => some (x, 1)
  | .cmpEq x _ _ _ => some (x, 1)
  | .cmpNe x _ _ _ => some (x, 1)
  | .cmpLt x _ _ _ => some (x, 1)
  | .cmpLtu x _ _ _ => some (x, 1)
  | .cmpGe x _ _ _ => some (x, 1)
  | .cmpGeu x _ _ _ => some (x, 1)
  | .pand x _ _ _ => some (x, 1)
  | .por x _ _ _ => some (x, 1)
  | .pxor x _ _ _ => some (x, 1)
  | .pandn x _ _ _ => some (x, 1)
  | .ptst x _ _ _ => some (x, 1)
  | .pget x _ => some (x, 1)
  | .li x _ _ => some (x, 1)
  | .liu x _ _ => some (x, 1)
  | .lih x _ _ _ => some (x, 1)
  | .br x _ => some (x, 1)
  | .jl x _ _ => some (x, 1)
  | .jlr x _ _ _ => some (x, 1)
  | .ldB x _ _ _ _ => some (x, 1)
  | .ldH x _ _ _ _ => some (x, 1)
  | .ldW x _ _ _ _ => some (x, 1)
  | .ldD x _ _ _ => some (x, 1)
  | .stB x _ _ _ => some (x, 1)
  | .stH x _ _ _ => some (x, 1)
  | .stW x _ _ _ => some (x, 1)
  | .stD x _ _ _ => some (x, 1)
  | .quSend x _ _ _ => some (x.toIss, 1)
  | .quSendt x _ _ _ _ => some (x.toIss, 1)
  | .quSendn x _ _ _ => some (x.toIss, 1)
  | .quSendl x _ _ _ _ => some (x.toIss, 1)
  | .quRecv x _ _ _ => some (x.toIss, 1)
  | .quPoll x _ _ => some (x, 1)
  | .quStat x _ _ => some (x, 1)
  | .quClose x _ => some (x, 1)
  | .quSpc x _ _ _ => some (x.toIss, 1)
  | .quSprd x _ _ _ => some (x.toIss, 1)
  | .quTadd x _ _ _ => some (x, 1)
  | .quTset x _ _ _ => some (x, 1)
  | .hiArm x _ _ _ => some (x, 1)
  | .hiSig x _ _ => some (x, 1)
  | .hiWait x _ _ => some (x, 1)
  | .hiGen x _ _ => some (x, 1)
  | .tmNow x _ => some (x, 1)
  | .tmCyc x _ => some (x, 1)
  | .tmAdd x _ _ _ => some (x, 1)
  | .tmAt x _ _ => some (x, 1)
  | .tmWait x _ _ => some (x, 1)
  | .syHalt x => some (x, 1)
  | .syYield x => some (x, 1)
  | .syFence x => some (x, 1)
  | .syWait x _ _ _ => some (x, 1)
  | .syStart x _ _ _ => some (x, 1)
  | .syStop x _ _ => some (x, 1)
  | .syTrap x _ => some (x, 1)
  | .syRte x _ => some (x, 1)
  | .syCsr x _ _ => some (x, 1)
  | .syFault x _ => some (x, 1)
  | .syKstat x _ _ => some (x, 1)
  | .mmMm x _ => some (x, 1)
  | .mmZero x _ => some (x, 1)
  | .mmOut x _ => some (x, 1)
  | .mmSpl x _ => some (x, 1)
  | .mmF2 x _ => some (x, 1)
  | .mmAtt x _ => some (x, 1)
  | .mmWg x _ => some (x, 1)
  | .vxRun x m => some (x, 1 + chainLen .vxRun m)
  | .vxClose x _ => some (x, 1)
  | .vxOpt x _ => some (x, 1)
  | .dmGet x _ => some (x, 1)
  | .dmPut x _ => some (x, 1)
  | .dmMput x _ => some (x, 1)
  | .dmMcopy x _ => some (x, 1)
  | .spFill x _ => some (x, 1)
  | .spCopy x _ => some (x, 1)
  | .spBfill x _ => some (x, 1)
  | .spBdrain x _ => some (x, 1)
  | .spBreset x _ => some (x, 1)
  | _ => none

/-- One instruction was issued on the strand's tile: TILE_ISSUE_COUNT counts it and the tile notes who issued last (R83).
Every other tile, every other register field, the rest of the device, the meter and the queue are as before. -/
def IssuedOn (s t : State) (n k : Nat) : Prop :=
  TilesRegsOnly s t ∧ TilesBut s t n ∧ RegsBut s t [TILE_ISSUE_COUNT_V n] ∧
  t.dev.get (TILE_ISSUE_COUNT_V n) = min (s.dev.get (TILE_ISSUE_COUNT_V n) + 1) (2 ^ 64 - 1) ∧
  (t.dev.tile n).lastIssued = k ∧ (t.dev.tile n).stepping = none

/-- One instruction was issued, and of its tile only the strand's own context has changed, to `y`: every other strand and
every other part of the tile, its memories among them, is as before. -/
def StrandBecomes (s t : State) (x : Iss) (f : Nat) (y : Strand) : Prop :=
  IssuedOn s t x.tile.val x.strand.val ∧ strandOf t x f = y ∧
  (∀ f' k' : Nat, f' * 8 + k' ≠ f * 8 + x.strand.val →
    (t.dev.tile x.tile.val).strand f' k' = (s.dev.tile x.tile.val).strand f' k') ∧
  t.dev.tile x.tile.val =
    { s.dev.tile x.tile.val with
      strands := (t.dev.tile x.tile.val).strands, lastIssued := x.strand.val, stepping := none }

/-- The program counter moves past one instruction. -/
def Strand.advance (y : Strand) : Strand := { y with pc := BitVec.ofNat 13 (y.pc.toNat + 1) }

/-- Of the whole machine only strand k of frond f of tile n has changed, to `y`; no instruction was issued. -/
def OnlyStrand (s t : State) (n f k : Nat) (y : Strand) : Prop :=
  t = { s with dev := { s.dev with tiles := t.dev.tiles } } ∧ TilesBut s t n ∧ (t.dev.tile n).strand f k = y ∧
  (∀ f' k' : Nat, f' * 8 + k' ≠ f * 8 + k → (t.dev.tile n).strand f' k' = (s.dev.tile n).strand f' k') ∧
  t.dev.tile n = { s.dev.tile n with strands := (t.dev.tile n).strands }

/-- The device as an issued instruction of tile n leaves the counts of R83, before its own effect. -/
def Dev.noted (d : Dev) (n k : Nat) : Dev :=
  (d.modTile n fun t => { t with lastIssued := k, stepping := none }).add (TILE_ISSUE_COUNT_V n) 1

/-- The strand's context as it has issued an instruction that may keep it from being ready for `k` cycles: until so many more
instructions of its tile, or ticks, another's turn may come before its own (R83). -/
def Strand.slowed (y : Strand) (s : State) (n k : Nat) : Strand :=
  { y with slow := (min (s.dev.get (TILE_ISSUE_COUNT_V n) + 1) (2 ^ 64 - 1) + k, s.dev.tick + k) }

/-- The state after an instruction of one word whose effect has left the device `d`: the program counter moves on. -/
def goesOn (s : State) (x : Iss) (f : Nat) (d : Dev) : State :=
  let pc := BitVec.ofNat 13 ((strandOf s x f).pc.toNat + 1)
  { s with dev := d.modStrand x.tile.val f x.strand.val fun y => { y with pc := pc } }

/-- A strand's context with rd and LAST_STATUS written (R99). -/
def Strand.answered (y : Strand) (rd : Nat) (v : Word) (st : Byte) : Strand := { y.setReg rd v with last := st }

/-- The strand of an instruction is given rd and LAST_STATUS (R99). -/
def Dev.replies (d : Dev) (x : Iss) (f : Nat) (rd : GReg) (v : Word) (st : Byte) : Dev :=
  d.modStrand x.tile.val f x.strand.val fun y => y.answered rd.val v st

/-- A strand's context in WAIT (R85, R86). -/
def Strand.waits (y : Strand) (tick : Nat) (w : WaitReason) (op : WaitOp) : Strand :=
  { y with st := .wait, wait := w, op := op, waitFrom := tick, probed := 0 }

/-- A strand's context after its wait has ended (R85). -/
def Strand.resumed (y : Strand) : Strand := { y with st := .ready, wait := .none, op := .none }

/-- The descriptor and record slots that a macro-instruction copies (R106). -/
def namedSlots (m : Mac) (k : MacroKind) (chain : List Word) : List Nat :=
  ((slotList m (slotsUsed k m.spec.toNat (chain.map cword))).filter (·.2)).map (·.1) ++ (recSlot k m.spec.toNat).toList

/-- What a macro-instruction needs to be issued without a trap (R89, R94, R106, R113, R117, R118): a SPEC without reserved values,
chain words and copied slots that hold no error, slots named that it uses and its frond's class sees, checks that pass, and
no store left in the strand's buffer. -/
structure MacroFits (d : Dev) (n f : Nat) (y : Strand) (k : MacroKind) (m : Mac) (chain : List Word) : Prop where
  spec : specBad k m.spec.toNat ((d.tile n).bightFor f) = false
  room : y.pc.toNat + (1 + chainLen k m) ≤ 8191
  words : (d.tile n).ueIn (0x1900000 + f * 0x10000 + (y.pc.toNat + 1) * 8) (chainLen k m * 8) = false
  isChain : (d.tile n).chainWords f y.pc.toNat (chainLen k m) = chain
  good : chain.find? cwordBad = none
  unused : ((slotList m (slotsUsed k m.spec.toNat (chain.map cword))).any fun u => !u.2 && u.1 != 0) = false
  cls : d.px64 n f = true → newOnly k m.spec.toNat = false ∧ ∀ u ∈ namedSlots m k chain, u < 32
  close_ : k = .vxClose → m.spec.toNat % 2 ^ 19 * 64 + 64 ≤ 0x1800000
  stores : y.stores = []
  slots : (d.tile n).badSlots (namedSlots m k chain) = none

/-- The strand waits in a qu.sendt, which has a limit (R276). -/
def Strand.sendsTimed (y : Strand) : Bool :=
  match y.op with
  | .send _ _ _ _ _ _ (some _) => true
  | _ => false

/-- The region of a tile's partition runs, and the frond has not stopped on the tile. -/
def FrondRuns (s : State) (n f : Nat) : Prop := s.dev.live = true ∧ s.dev.stoppedF n f = false

/-! ## What a tile has received -/

/-- The command that takes up a flit that has reached its tile, by a number; both kinds of credit have one (R274, R293). -/
def FlitBody.kind : FlitBody → Nat
  | .hitch .. => 0
  | .credit .. => 1
  | .spliceCredit .. => 1
  | .revoked .. => 2
  | .closeN .. => 3
  | .staleN .. => 4
  | .reopenN .. => 5
  | .tally .. => 6
  | .tallyReply .. => 7
  | .entry .. => 8
  | .probe .. => 9
  | .fence .. => 10
  | .contrib .. => 11
  | .read .. => 12
  | .readData .. => 13
  | .write .. => 14

/-- The flit `f` is the oldest of its kind that has reached tile n, and `rest` is what else has, in order. -/
def Dev.oldestIs (d : Dev) (n : Nat) (f : Flit) (rest : List Flit) : Prop :=
  ∃ pre post, (d.tile n).arrivals = pre ++ f :: post ∧ rest = pre ++ post ∧ ∀ g ∈ pre, g.body.kind ≠ f.body.kind

/-- Only `l` is left of what has reached tile n. -/
def Dev.took (d : Dev) (n : Nat) (l : List Flit) : Dev := d.modTile n fun t => { t with arrivals := l }

/-! ## Messages of a Nopra context (R411, R412, R416) -/

/-- The header of a Nopra message on a context that is open, and whether its type is sequenced (R423). -/
def messageOf : Instr → Option (NHdr × Bool)
  | .req h _ => some (h, true)
  | .closeRx h _ => some (h, true)
  | .ackRx h => some (h, false)
  | .capsRx h _ => some (h, true)
  | .qentryRx h _ => some (h, true)
  | .contribRx h _ => some (h, true)
  | .hitchRx h _ => some (h, true)
  | .creditRx h _ => some (h, true)
  | .mread h _ _ _ => some (h, true)
  | .mwrite h _ _ _ => some (h, true)
  | .cancel h _ => some (h, true)
  | .regRead h _ _ _ _ => some (h, true)
  | .regWrite h _ _ _ => some (h, true)
  | .loadData h _ _ _ => some (h, true)
  | .loadEnd h _ => some (h, true)
  | .pull h _ _ => some (h, true)
  | .ptpTx h _ _ _ => some (h, true)
  | .challenge h _ _ => some (h, true)
  | .bind_ h _ _ _ _ _ _ => some (h, true)
  | .attest h _ _ _ _ => some (h, true)
  | .getCert h _ _ _ => some (h, true)
  | .getDigests h _ _ _ _ => some (h, true)
  | .kemGet h _ _ _ => some (h, true)
  | .secretPut h _ _ _ => some (h, true)
  | .enroll h _ _ _ _ _ _ _ => some (h, true)
  | .commitSvn h _ _ => some (h, true)
  | .flashErase h _ _ _ _ => some (h, true)
  | .flashWrite h _ _ _ _ => some (h, true)
  | _ => none

/-- The device once it has accepted a message's header (R412, R415, R417): the source's address and the time are noted, what the
message acknowledges is released, and a NAK is answered. -/
def Dev.heard (d : Dev) (h : NHdr) : Dev :=
  let c := h.dctx.val
  let d := (d.set (NOP_CTX_ADDR0_V c) (h.src / 2 ^ 64)).set (NOP_CTX_ADDR1_V c) h.src
  let d := d.modCtx c fun x => { x with lastRx := d.now }
  let d := if h.ackv then d.acked c h.ack else d
  if h.nak then d.recover c 1 else d

/-- The device once the message has taken its place in the sequence and is owed its acknowledgement (R416). -/
def Dev.inTurn (d : Dev) (h : NHdr) (seqd : Bool) : Dev :=
  let c := h.dctx.val
  let d := d.heard h
  if seqd then (d.set (NOP_CTX_SEQ_NEXT_RX c) (d.get (NOP_CTX_SEQ_NEXT_RX c) + 1)).ackOwed c else d

/-- The message is accepted (R409, R412): its datagram is the device's, its port is UP, its context open and of its incarnation, and its
tag verifies; and the context is open still after what it acknowledges. -/
structure Accepts (d : Dev) (h : NHdr) : Prop where
  heard : d.hears h = true
  up : d.ethState h.port.val = 4
  opened : d.ctxState h.dctx.val = 2
  auth : h.authOk = true
  incarn : h.incarn = d.get (NOP_CTX_STATE_INCARN h.dctx.val)
  stays : (d.heard h).ctxState h.dctx.val = 2

/-- The message is accepted, stands next in the sequence and has the form of its type, which is served in this stage of the boot
(R412, R416, R422, R468): `ok` says that LEN is one its type allows. -/
structure Served (d : Dev) (h : NHdr) (seqd boot ok : Bool) : Prop extends Accepts d h where
  turn : seqd = true → h.seq = (d.heard h).get (NOP_CTX_SEQ_NEXT_RX h.dctx.val)
  version : h.version = 1
  typed : h.reserved = false
  length : ok = true
  kind : h.seqv = seqd
  runs : (d.inTurn h seqd).booting = false ∨ boot = true

/-- The call of the security engine that a command carries: its header, tag and operation, and whether SEC's memory fails under it. -/
def callOf : Instr → Option (NHdr × Nat × SecOp × Bool)
  | .challenge h tag ue => some (h, tag, .challenge, ue)
  | .bind_ h tag role part pk sigOk ue => some (h, tag, .bind role part pk sigOk, ue)
  | .attest h tag part nonce ue => some (h, tag, .attest part nonce, ue)
  | .getCert h tag role ue => some (h, tag, .getCert role, ue)
  | .getDigests h tag part first ue => some (h, tag, .getDigests part first, ue)
  | .kemGet h tag part ue => some (h, tag, .kemGet part, ue)
  | .secretPut h tag m ue => some (h, tag, .secretPut m, ue)
  | .enroll h tag kind auth digest pk sigOk ue => some (h, tag, .enroll kind auth digest pk sigOk, ue)
  | .commitSvn h tag ue => some (h, tag, .commitSvn, ue)
  | .flashErase h tag offset count ue => some (h, tag, .flashErase offset count, ue)
  | .flashWrite h tag offset data ue => some (h, tag, .flashWrite offset data, ue)
  | _ => none

/-- The item of a request in the order of R65: the checks that come before the class is looked up pass. -/
def Dev.asks (d : Dev) (c : Nat) (m : ReqMsg) : Prop :=
  m.part.val ≠ 0 ∧ d.mayRequest c m.part.val = true ∧ (m.ref = true → d.memStatus m.part.val m.addr (max 1 (4 * m.lin)) = 0)

/-- The partition takes requests: ADM_Pp_CTRL.ENABLE is 1 and HOLD 0, and the power state is below HOLD (R65). -/
def Dev.takesRequests (d : Dev) (p : Nat) : Prop :=
  d.is (ADM_P_CTRL_ENABLE p) = true ∧ d.is (ADM_P_CTRL_HOLD p) = false ∧ d.regionHeld p = false ∧ d.get PWR_STATUS_STATE < 2

/-! ## Credentials -/

/-- The credential may command partition p's region: the owner's and the management controller's, and the partition's own tenant's
(R366). -/
def mayCommand (c : Cred) (p : Nat) : Bool :=
  match c with
  | .owner => true
  | .dmc => true
  | .tenant q => q.val == p && p != 0
  | .none => false

/-- The next state of a command on the device that the meter observes too (R475). -/
def State.metered (s : State) (d : Dev) : State := { s with dev := d, mtr := s.mtr.observe s.dev d }

end Sys2Proof.Machine
end

