-- ==== Sys2Proof/Certificates/Slice0/Obligations.lean ====
section
/-! DEFINITION. The statements for the provers: what the spec's numbered rules say of the commands, of the machine's state
after them, and of the whole machine. Each docstring names the rules it formalises. -/

open Sys2Proof Sys2Proof.Machine

/-! ## The machine: the queue, reset, the meter's inputs -/

/-- A step takes the command at the front of the queue and runs it on the state with the queue's rest. The queue is the model's
(the commands are the spec's). -/
def Obligations.StepFront : Prop :=
  ∀ (c : Instr) (rest : List Instr) (s : State), s.pending = c :: rest → step s = exec c { s with pending := rest }

/-- With no command waiting a step is one array cycle (log 2, a design choice): with no fence ordered for the next cycle (R500) and
away from a second's end, the tile cycle count (R102) and device time (R43) advance by one and nothing else changes; a device
time that is exhausted stands still (R47), it is exhausted as it comes to 4,294,967,295:1,049,999,999, and a device held in
reset or stopped keeps both. -/
def Obligations.StepIdle : Prop :=
  ∀ (s : State), s.pending = [] →
    (s.dev.live = false → step s = .next s) ∧
    (s.dev.live = true → s.dev.spare.fenceNext = [] →
      (s.dev.time.exhausted = true → step s = .next { s with dev := { s.dev with tick := s.dev.tick + 1 } }) ∧
      (s.dev.time.exhausted = false → s.dev.now % 1050000000 + 1 < 1050000000 →
        (s.dev.now + 1 ≠ 2 ^ 32 * 1050000000 - 1 →
          step s = .next { s with dev := { s.dev with tick := s.dev.tick + 1, now := s.dev.now + 1 } }) ∧
        (s.dev.now + 1 = 2 ^ 32 * 1050000000 - 1 →
          ∃ t, step s = .next t ∧ t.dev.time.exhausted = true ∧ t.dev.now = s.dev.now + 1 ∧ t.dev.tick = s.dev.tick + 1 ∧
            t.dev.get TIME_STATUS_QUALITY = 6)))

/-- Every command answers a next state and leaves the queue to `step`: none of the spec's commands stops the machine. -/
def Obligations.EveryCommandAnswers : Prop :=
  ∀ (c : Instr) (s : State), ∃ t, exec c s = .next t ∧ t.pending = s.pending

/-- R440, R465, R524 to R526, R536: right after reset every register field reads its reset value, no partition is defined, no
tile belongs to one, every strand is IDLE with PC 0, no region is loaded, boot is in ROM, TIME_STATUS.QUALITY is UNSET, no
memory byte is written, no request is admitted, no fault is recorded, and no command waits. The reset values of fuses and
straps are the model's (log 3). -/
def Obligations.ResetState : Prop :=
  let d := State.reset.dev
  State.reset.pending = [] ∧ d.live = true ∧ (∀ r : RF, d.get r = r.rst) ∧
  (∀ p, d.partState p = 0 ∧ d.regionState p = 0) ∧
  (∀ n f k, (d.tile n).part = 0 ∧ ((d.tile n).strand f k).st = .idle ∧ ((d.tile n).strand f k).pc = 0 ∧
    (∀ r, ((d.tile n).strand f k).reg r = 0) ∧ (d.tile n).memWf = true ∧ (d.tile n).scratch = []) ∧
  d.get SEC_BOOT_STATUS_STATE = 0 ∧ d.now = 0 ∧ d.tick = 0 ∧ d.mem.cells = [] ∧ d.get TIME_STATUS_QUALITY = 0 ∧ d.reqs = [] ∧ d.fltLog = [] ∧
  State.reset.mtr.nextSeq = 0 ∧ State.reset.mtr.records = []

/-- R524, R542: a device that is held in reset, or whose clocks a thermal trip has stopped, does nothing: no command but those of the
pins, of the boundary scan and of the meter changes anything. -/
def Obligations.HeldDevice : Prop :=
  ∀ (c : Instr) (s : State), s.dev.live = false → ¬ ofMeter c → ¬ ofPins c → exec c s = .next s

/-- R475: no command but the meter's own alters a measured energy, and one under which the partition map stays as it was, nothing
is spared and neither RESET_N nor PWR_GOOD falls leaves the whole meter as it was. -/
def Obligations.MeterInputs : Prop :=
  ∀ (c : Instr) (s t : State), ¬ ofMeter c → exec c s = .next t →
    t.mtr.measured = s.mtr.measured ∧
    (sameMap s.dev t.dev → ¬ (s.dev.pins.resetN = true ∧ t.dev.pins.resetN = false) →
      ¬ (s.dev.pins.pwrGood = true ∧ t.dev.pins.pwrGood = false) → t.mtr = s.mtr)

/-- The chain of the meter's records is sound after reset. -/
def Obligations.MeterSoundAtReset : Prop := State.reset.mtr.sound

/-- R479, R482 to R484: every step, whatever the command, keeps the meter's chain sound: a record lies in the slot of its SEQ, its
lines always sum to its total in unsigned 128-bit integers, its rails sum to it exactly, and the cumulative energy never falls. -/
def Obligations.MeterSoundKept : Prop :=
  ∀ s t : State, s.mtr.sound → step s = .next t → t.mtr.sound

/-- R26: a write of a register of the MTR_ page completes with DENIED, whatever the credential, and changes nothing, whether it is a
direct access or one of the registers of a REG_WRITE (R432), which ends there. -/
def Obligations.MeterPageDenied : Prop :=
  ∀ (s : State) (cred : Cred) (addr : Nat) (v : Word), 0xFF0F00000000 ≤ addr → addr < 0xFF1000000000 → addr % 8 = 0 →
    (s.dev.live = true → exec (.registerWrite cred addr 8 v) s = .next { s with dev := { s.dev with bus := ⟨7, 0⟩ } }) ∧
    (∀ (vs : List Word) (done : Nat), Dev.regWrites s.mtr cred (v :: vs) addr done s.dev = (s.dev, 7, done))

/-! ## Tile core: scalar instructions (R83 to R94) -/

/-- R91: rd takes the function of ga and b that the table of R91 gives the instruction, modulo 2^64; b is gb or the
sign-extended IMM. The strand notes how long an instruction that reads rd would wait, the latency of R91 where that is 3. Nothing
else of the machine changes but what issuing changes (R83): g0 discards the write (R81). -/
def Obligations.AluResult : Prop :=
  ∀ e ∈ ([(.add, 1, fun a b => a + b), (.sub, 1, fun a b => a - b), (.and_, 1, fun a b => a &&& b), (.or_, 1, fun a b => a ||| b),
      (.xor_, 1, fun a b => a ^^^ b), (.andn, 1, fun a b => a &&& ~~~b), (.shl, 1, fun a b => a <<< (b.toNat % 64)),
      (.shr, 1, fun a b => a >>> (b.toNat % 64)), (.sar, 1, fun a b => a.sshiftRight (b.toNat % 64)),
      (.mul, 3, fun a b => BitVec.ofNat 64 (a.toNat * b.toNat)), (.mulh, 3, fun a b => BitVec.ofInt 64 (a.toInt * b.toInt / 2 ^ 64)),
      (.mulhu, 3, fun a b => BitVec.ofNat 64 (a.toNat * b.toNat / 2 ^ 64)),
      (.min_, 1, fun a b => if a.toInt < b.toInt then a else b), (.max_, 1, fun a b => if a.toInt < b.toInt then b else a),
      (.minu, 1, fun a b => if a.toNat < b.toNat then a else b), (.maxu, 1, fun a b => if a.toNat < b.toNat then b else a),
      (.clz, 1, fun a _ => BitVec.ofNat 64 (if a.toNat = 0 then 64 else 63 - Nat.log2 a.toNat)),
      (.popc, 1, fun a _ => BitVec.ofNat 64 ((List.range 64).countP fun i => a.getLsbD i))] :
      List ((Iss → GReg → GReg → Opnd → Instr) × Nat × (Word → Word → Word))),
    ∀ (s : State) (x : Iss) (rd ra : GReg) (b : Opnd) (f : Nat), Ready s x f (ra.val :: opndReg b) →
      let y := if e.2.1 = 1 then strandOf s x f else (strandOf s x f).slowed s x.tile.val e.2.1
      ∃ t, exec (e.1 x rd ra b) s = .next t ∧
        StrandBecomes s t x f
          (y.setReg rd.val (e.2.2 ((strandOf s x f).reg ra.val) (opndVal (strandOf s x f) b))).advance

/-- R92, R93: the compares and the predicate logic write pd, whose new value the tables give; p0 discards the write (R81). -/
def Obligations.PredicateResult : Prop :=
  (∀ e ∈ ([(.cmpEq, fun a b => decide (a = b)), (.cmpNe, fun a b => decide (a ≠ b)),
      (.cmpLt, fun a b => decide (a.toInt < b.toInt)), (.cmpLtu, fun a b => decide (a.toNat < b.toNat)),
      (.cmpGe, fun a b => decide (b.toInt ≤ a.toInt)), (.cmpGeu, fun a b => decide (b.toNat ≤ a.toNat))] :
      List ((Iss → PReg → GReg → Opnd → Instr) × (Word → Word → Bool))),
    ∀ (s : State) (x : Iss) (pd : PReg) (ra : GReg) (b : Opnd) (f : Nat), Ready s x f (ra.val :: opndReg b) →
      ∃ t, exec (e.1 x pd ra b) s = .next t ∧
        StrandBecomes s t x f
          ((strandOf s x f).setPred pd.val (e.2 ((strandOf s x f).reg ra.val) (opndVal (strandOf s x f) b))).advance) ∧
  (∀ e ∈ ([(.pand, and), (.por, or), (.pxor, xor), (.pandn, fun a b => a && !b)] :
      List ((Iss → PReg → PReg → PReg → Instr) × (Bool → Bool → Bool))),
    ∀ (s : State) (x : Iss) (pd pa pb : PReg) (f : Nat), Ready s x f [] →
      ∃ t, exec (e.1 x pd pa pb) s = .next t ∧
        StrandBecomes s t x f
          ((strandOf s x f).setPred pd.val (e.2 ((strandOf s x f).predBit pa.val) ((strandOf s x f).predBit pb.val))).advance) ∧
  (∀ (s : State) (x : Iss) (pd : PReg) (ra : GReg) (imm : Imm) (f : Nat), Ready s x f [ra.val] →
    ∃ t, exec (.ptst x pd ra imm) s = .next t ∧
      StrandBecomes s t x f
        ((strandOf s x f).setPred pd.val (decide ((strandOf s x f).reg ra.val &&& imm.zeroExtend 64 ≠ 0))).advance)

/-- R91 (sel), R93, R102, R103: what the instructions without a second operand, the time reads, sy.csr and sy.kstat write to
rd. tm.add and sy.kstat need class PX256 (R118); the time reads give the count as it stands at the issue (R57). The strand notes the
latencies of tm.now, tm.add, sy.kstat and sy.csr (R102, R103). -/
def Obligations.RegisterResult : Prop :=
  (∀ (s : State) (x : Iss) (rd ra rb : GReg) (p : PReg) (f : Nat), Ready s x f [ra.val, rb.val] →
    ∃ t, exec (.sel x rd ra rb p) s = .next t ∧
      StrandBecomes s t x f ((strandOf s x f).setReg rd.val
        (if (strandOf s x f).predBit p.val then (strandOf s x f).reg ra.val else (strandOf s x f).reg rb.val)).advance) ∧
  (∀ (s : State) (x : Iss) (rd : GReg) (imm : Imm) (f : Nat), Ready s x f [] →
    (∃ t, exec (.li x rd imm) s = .next t ∧
      StrandBecomes s t x f ((strandOf s x f).setReg rd.val (imm.signExtend 64)).advance) ∧
    (∃ t, exec (.liu x rd imm) s = .next t ∧
      StrandBecomes s t x f ((strandOf s x f).setReg rd.val (imm.zeroExtend 64)).advance) ∧
    (∃ t, exec (.pget x rd) s = .next t ∧
      StrandBecomes s t x f ((strandOf s x f).setReg rd.val (((strandOf s x f).p ||| 1).zeroExtend 64)).advance) ∧
    (∃ t, exec (.tmNow x rd) s = .next t ∧
      StrandBecomes s t x f (((strandOf s x f).slowed s x.tile.val 4).setReg rd.val
        (BitVec.ofNat 64 (s.dev.now / 1050000000 * 2 ^ 32 + s.dev.now % 1050000000))).advance) ∧
    (∃ t, exec (.tmCyc x rd) s = .next t ∧
      StrandBecomes s t x f ((strandOf s x f).setReg rd.val
        (BitVec.ofNat 64 (s.dev.tick - (s.dev.tile x.tile.val).resetTick))).advance)) ∧
  (∀ (s : State) (x : Iss) (rd ra : GReg) (imm : Imm) (f : Nat), Ready s x f [ra.val] →
    ∃ t, exec (.lih x rd ra imm) s = .next t ∧
      StrandBecomes s t x f ((strandOf s x f).setReg rd.val
        (imm ++ ((strandOf s x f).reg ra.val).extractLsb' 0 32)).advance) ∧
  (∀ (s : State) (x : Iss) (rd ra rb : GReg) (f : Nat), Ready s x f [ra.val, rb.val] → s.dev.px64 x.tile.val f = false →
    ∃ t, exec (.tmAdd x rd ra rb) s = .next t ∧
      StrandBecomes s t x f (((strandOf s x f).slowed s x.tile.val 2).setReg rd.val
        (addTime ((strandOf s x f).reg ra.val) ((strandOf s x f).reg rb.val))).advance) ∧
  (∀ (s : State) (x : Iss) (rd : GReg) (k : Fin 4) (f : Nat), Ready s x f [] → s.dev.px64 x.tile.val f = false →
    ∃ t, exec (.syKstat x rd k) s = .next t ∧
      StrandBecomes s t x f (((strandOf s x f).slowed s x.tile.val 2).setReg rd.val (BitVec.ofNat 64
        (((strandOf s x f).kcnt k.val).cnt % 256 + ((strandOf s x f).kcnt k.val).err.toNat * 256))).advance) ∧
  (∀ (s : State) (x : Iss) (rd : GReg) (imm : Imm) (f v : Nat), Ready s x f [] →
    s.dev.csr x.tile.val f x.strand.val (strandOf s x f) imm.toNat = some v →
    ∃ t, exec (.syCsr x rd imm) s = .next t ∧
      StrandBecomes s t x f (((strandOf s x f).slowed s x.tile.val 2).setReg rd.val (BitVec.ofNat 64 v)).advance)

/-- R94: a branch goes to its target, an instruction number from 0 to 8,191; JL and JLR write PC + 1 to rd, and JLR reads ga
before that. The strand is not ready for the 2 cycles after, which it notes. -/
def Obligations.BranchResult : Prop :=
  ∀ (s : State) (x : Iss) (rd ra : GReg) (imm : Imm) (f : Nat), Ready s x f [ra.val] → Ready s x f [] →
    let y := (strandOf s x f).slowed s x.tile.val 3
    let rel : Int := y.pc.toNat + imm.toInt
    let abs : Nat := (y.reg ra.val + imm.signExtend 64).toNat
    let link := y.setReg rd.val (BitVec.ofNat 64 (y.pc.toNat + 1))
    (0 ≤ rel → rel ≤ 8191 →
      (∃ t, exec (.br x imm) s = .next t ∧ StrandBecomes s t x f { y with pc := BitVec.ofNat 13 rel.toNat }) ∧
      (∃ t, exec (.jl x rd imm) s = .next t ∧ StrandBecomes s t x f { link with pc := BitVec.ofNat 13 rel.toNat })) ∧
    (abs ≤ 8191 →
      ∃ t, exec (.jlr x rd ra imm) s = .next t ∧ StrandBecomes s t x f { link with pc := BitVec.ofNat 13 abs })

/-- R88: an instruction, whatever it is, whose guard does not hold takes its issue cycle and changes nothing else but the program
counter, which moves past its words; PRED 0 with PN 1 never executes, and add under it is the canonical nop. R84, R86, R349: a
strand that may not issue does nothing, whatever its instruction. Past instruction 8,191 a strand that goes on raises PC_RANGE
(R94), which is not said here. -/
def Obligations.IssueWithheld : Prop :=
  ∀ (s : State) (i : Instr) (x : Iss) (len : Nat), issueOf i = some (x, len) →
    (∀ f, s.dev.live = true → (s.dev.tile x.tile.val).active = some f → s.dev.canIssue x.tile.val f x.strand.val [] = true →
      let y := strandOf s x f
      (guard y x = true ↔ (y.predBit x.pred.val ^^ x.pn) = true) ∧ (x.pred.val = 0 → x.pn = true → guard y x = false) ∧
      (guard y x = false → y.pc.toNat + len ≤ 8191 → y.atEnd = false →
        ∃ t, exec i s = .next t ∧ StrandBecomes s t x f { y with pc := BitVec.ofNat 13 (y.pc.toNat + len) })) ∧
    ((∀ f, (s.dev.tile x.tile.val).active = some f → ∀ l, s.dev.canIssue x.tile.val f x.strand.val l = false) → exec i s = .next s) ∧
    (x.pred.val = 0 → x.pn = true → scalarWord x 0x01 0 0 0 0x00 0 = 0x0440000000000000)

/-! ## Loads, stores, traps, strand control, time (R84 to R86, R95 to R97, R102, R103, R114 to R116) -/

/-- R95, R96: a load that raises no trap goes in flight: its register, offset, width and order are noted, and nothing else
happens until LOAD_RETURN. An earlier load still in flight to rd is overtaken.
R96, R97: a store that raises no trap, with room in the buffer of 4, enters the strand's store buffer with the low bytes
of gb; memory is unchanged until STORE_BUFFER_WRITE. -/
def Obligations.LoadStoreIssues : Prop :=
  (∀ e ∈ ([(fun x rd ra m => .ldB x rd ra m false, 1, true), (fun x rd ra m => .ldB x rd ra m true, 1, false),
       (fun x rd ra m => .ldH x rd ra m false, 2, true), (fun x rd ra m => .ldH x rd ra m true, 2, false),
       (fun x rd ra m => .ldW x rd ra m false, 4, true), (fun x rd ra m => .ldW x rd ra m true, 4, false),
       (.ldD, 8, true)] : List ((Iss → GReg → GReg → Imm → Instr) × Nat × Bool)),
     ∀ (s : State) (x : Iss) (rd ra : GReg) (imm : Imm) (f : Nat), Ready s x f [ra.val] →
       let y := strandOf s x f
       let off := (y.reg ra.val + imm.signExtend 64).toNat
       s.dev.loadTrap x.tile.val off e.2.1 = none →
       ∃ t, exec (e.1 x rd ra imm) s = .next t ∧
         StrandBecomes s t x f
           ({ y.setReg rd.val (y.reg rd.val) with
               loads := (y.setReg rd.val (y.reg rd.val)).loads ++ [⟨rd.val, off, e.2.1, e.2.2, y.seq, none⟩]
               seq := y.seq + 1 } : Strand).advance) ∧
  (∀ e ∈ ([(.stB, 1), (.stH, 2), (.stW, 4), (.stD, 8)] : List ((Iss → GReg → GReg → Imm → Instr) × Nat)),
     ∀ (s : State) (x : Iss) (ra rb : GReg) (imm : Imm) (f : Nat), Ready s x f [ra.val, rb.val] →
       let y := strandOf s x f
       let off := (y.reg ra.val + imm.signExtend 64).toNat
       s.dev.storeTrap x.tile.val f off e.2 = none → y.stores.length < 4 →
       ∃ t, exec (e.1 x ra rb imm) s = .next t ∧
         StrandBecomes s t x f
           ({ y with stores := y.stores ++ [⟨off, e.2, y.reg rb.val, y.seq⟩], seq := y.seq + 1 } : Strand).advance)


/-- R96, R97: the oldest load in flight to rd returns from memory without an error: rd takes its bytes, with the strand's own
earlier stores over them, sign- or zero-extended (R96), and it is in flight no more. Of the machine only the strand changes.
R97, R240, R253: the oldest store of a strand's buffer is written: a store into a scratchpad quarter that is ON, into a
line that is not FULL, leaves its bytes at its offset, and every byte of the tile's memories outside them reads as before. -/
def Obligations.LoadStoreComplete : Prop :=
  (∀ (s : State) (tile : TileId) (strand : StrandId) (rd : GReg) (f : Nat) (l : LoadEntry),
     let t0 := s.dev.tile tile.val
     let y := t0.strand f strand.val
     s.dev.live = true → (t0.frondWith strand.val fun x => x.loads.any fun l => l.rd == rd.val) = some f →
     (y.loads.find? fun e => e.rd == rd.val) = some l → winRegion l.off ≠ .regs → t0.ueIn l.off l.width = false →
     rd.val ≠ 0 → s.dev.stoppedF tile.val f = false →
     ∃ t, exec (.loadReturn tile strand rd .ok) s = .next t ∧
       OnlyStrand s t tile.val f strand.val
         { y with loads := dropFirst (fun e => e.rd == rd.val) y.loads
                  g := lset y.g rd.val (loadValue l (s.dev.loadBytes tile.val y l)) }) ∧
  (∀ (s : State) (tile : TileId) (strand : StrandId) (f : Nat) (e : StoreEntry) (rest : List StoreEntry),
     let t0 := s.dev.tile tile.val
     let y := t0.strand f strand.val
     s.dev.live = true → t0.memWf = true → (t0.frondWith strand.val fun x => !x.stores.isEmpty) = some f →
     y.stores = e :: rest → y.op = .none → e.off + e.width ≤ 0x1800000 → 0 < e.width → t0.storeOn e.off = true →
     t0.lineFull f (e.off / 256) = false → t0.uePartial e.off e.width = false →
     ∃ t, exec (.storeBufferWrite tile strand .ok) s = .next t ∧
       ((t.dev.tile tile.val).strand f strand.val).stores = rest ∧
       (∀ i < e.width, cget (t.dev.tile tile.val).scratch (e.off + i) = (leBytes e.width e.value.toNat).getD i 0) ∧
       (∀ a, a < e.off ∨ e.off + e.width ≤ a → cget (t.dev.tile tile.val).scratch a = cget t0.scratch a) ∧
       (∃ u w, t.dev.tile tile.val =
         { t0 with strands := u, bad := w, scratch := (t.dev.tile tile.val).scratch }) ∧
       TilesBut s t tile.val ∧ t = { s with dev := { s.dev with tiles := t.dev.tiles } })


/-- R114, R115: while INTRAP is 0 and the frond has a trap entry, a trap of causes 0x01 to 0x08 is taken by it: CAUSE, EPC (the
instruction's own number) and TVAL are recorded, INTRAP is set and the strand goes on at TRAP_ENTRY, not ready for 2 cycles, which it
notes; the instruction has no other effect. sy.trap raises SOFT with its sign-extended IMM, a reserved word ILLEGAL with the
word, and a misaligned load MISALIGNED with its offset.
R114 to R116: sy.fault raises PROGRAM, which no handler takes: with FAULT_POLICY 1 the strand alone goes to FAULT, with CAUSE
0x09, its own instruction as EPC and the sign-extended IMM as TVAL, and a fault record of class PROGRAM names them.
R87, R89, R90: a word stands for the instruction that its opcode and function code give, with the strand's own tile, and for
the reserved word it is where R89 calls it illegal; three words are written out. -/
def Obligations.TrapOrFault : Prop :=
  (∀ (s : State) (x : Iss) (f : Nat) (ra rd : GReg) (imm : Imm) (w : Word),
     let y := strandOf s x f
     let fr := (s.dev.tile x.tile.val).frond f
     let off := (y.reg ra.val + imm.signExtend 64).toNat
     Ready s x f [] → y.inTrap = false → fr.trapValid = true →
     let taken (cause : Nat) (tval : Word) : Strand :=
       { y with cause := BitVec.ofNat 8 cause, epc := BitVec.ofNat 13 y.pc.toNat, tval := tval, inTrap := true, pc := fr.trapEntry
                slow := (y.slowed s x.tile.val 3).slow }
     (∃ t, exec (.syTrap x imm) s = .next t ∧ StrandBecomes s t x f (taken 8 (imm.signExtend 64))) ∧
     (illegalWord w.toNat = true → x.pred.val = bits w.toNat 57 55 → x.pn = (bit w.toNat 54 == 1) →
       ∃ t, exec (.illegal x.tile x.strand w) s = .next t ∧ StrandBecomes s t x f (taken 1 w)) ∧
     (Ready s x f [ra.val] → off % 8 ≠ 0 →
       ∃ t, exec (.ldD x rd ra imm) s = .next t ∧ StrandBecomes s t x f (taken 3 (BitVec.ofNat 64 off)))) ∧
  (∀ (s : State) (x : Iss) (f : Nat) (imm : Imm),
     let y := strandOf s x f
     let n := x.tile.val
     Ready s x f [] → s.dev.get (TILE_CORE_CTRL_FAULT_POLICY n) = 1 →
     ∃ t, exec (.syFault x imm) s = .next t ∧
       strandOf t x f =
         { y with st := .fault, wait := .none, op := .none, cause := 9, epc := BitVec.ofNat 13 y.pc.toNat
                  tval := imm.signExtend 64 } ∧
       (∀ f' k' : Nat, f' * 8 + k' ≠ f * 8 + x.strand.val → (t.dev.tile n).strand f' k' = (s.dev.tile n).strand f' k') ∧
       t.dev.tile n = { s.dev.tile n with strands := (t.dev.tile n).strands, lastIssued := x.strand.val, stepping := none } ∧
       t.dev.get FLT_SEQ_SEQ = (s.dev.get FLT_SEQ_SEQ + 1) % 2 ^ 32 ∧
       (let r := mget t.dev.fltLog [] (s.dev.get FLT_SEQ_SEQ % 256)
        fieldAt r 3 1 = 1 ∧ fieldAt r 16 1 = 3 ∧ fieldAt r 18 2 = n ∧ fieldAt r 64 1 = x.strand.val ∧
        fieldAt r 65 1 = f % 256 ∧ fieldAt r 66 1 = 9 ∧ fieldAt r 68 2 = y.pc.toNat ∧
        fieldAt r 72 8 = (imm.signExtend 64).toNat) ∧
       TilesBut s t n ∧ RegsBut s t [TILE_ISSUE_COUNT_V n, FLT_SEQ_SEQ, FLT_COUNT_V 3] ∧ DevOnly s t) ∧
  (∀ (tile : TileId) (strand : StrandId) (w : Word) (ecc : Ecc),
     (illegalWord w.toNat = true → decodeChesha tile strand w ecc = .illegal tile strand w) ∧
     decodeChesha tile strand 0x0546110000000000 ecc = .add ⟨tile, strand, 2, true⟩ 3 1 (.reg 2) ∧
     decodeChesha tile strand 0x0440000000000000 ecc = .add ⟨tile, strand, 0, true⟩ 0 0 (.reg 0) ∧
     decodeChesha tile strand 0x0000000000000000 ecc = .illegal tile strand 0)


/-- R86, R98, R103, R115: what the strand-control instructions leave: HALT; not ready for 8 cycles; FENCE with an empty store
buffer goes on and with stores in it waits; sy.rte clears INTRAP and goes on at EPC or past it; sy.wait writes a counter's error
field to rd and LAST_STATUS once its count is at or below IMM, and waits before that. sy.rte and sy.wait note how long the strand may not be ready after them (R94, R103). -/
def Obligations.StrandControl : Prop :=
  ∀ (s : State) (x : Iss) (f : Nat), Ready s x f [] →
    let y := strandOf s x f
    (∃ t, exec (.syHalt x) s = .next t ∧ StrandBecomes s t x f ({ y with st := .halt } : Strand).advance) ∧
    (∃ t, exec (.syYield x) s = .next t ∧
      StrandBecomes s t x f ({ y with yielding := true, yieldUntil := s.dev.tick + 8 } : Strand).advance) ∧
    (∃ t, exec (.syFence x) s = .next t ∧
      StrandBecomes s t x f (if y.stores.isEmpty then y.advance else (y.waits s.dev.tick .fence .fence).advance)) ∧
    (∀ (imm : Imm), y.inTrap = true → imm.toNat ≤ 1 → y.epc.toNat + imm.toNat ≤ 8191 →
      ∃ t, exec (.syRte x imm) s = .next t ∧
        StrandBecomes s t x f { y.slowed s x.tile.val 3 with inTrap := false, pc := BitVec.ofNat 13 (y.epc.toNat + imm.toNat) }) ∧
    (∀ (rd : GReg) (k : Fin 4) (imm : Imm),
      ∃ t, exec (.syWait x rd k imm) s = .next t ∧
        StrandBecomes s t x f
          (if (y.kcnt k.val).cnt ≤ imm.toNat then
             ((((y.slowed s x.tile.val 2).modK k.val fun c => { c with err := 0 }).answered rd.val ((y.kcnt k.val).err.zeroExtend 64) (y.kcnt k.val).err)).advance
           else ((y.slowed s x.tile.val 2).waits s.dev.tick .completion (.completion rd.val k.val imm.toNat)).advance))

/-- R57, R102: tm.at goes on with OK once device time has reached the target, and waits with reason TIME before; a target past
the last representable time is EXHAUSTED. tm.wait with a sum of 0 goes on, and otherwise waits that many cycles.
R57, R102, R103: once the instant has come, a waiting tm.at ends with OK in rd and LAST_STATUS, a waiting tm.wait ends and
writes nothing, and a yielding strand is ready again. Only the strand changes. -/
def Obligations.TimeWaitsAndEnds : Prop :=
  (∀ (s : State) (x : Iss) (rd ra : GReg) (imm : Imm) (f : Nat), Ready s x f [ra.val] →
     let y := strandOf s x f
     let v := (y.reg ra.val).toNat
     let target := v / 2 ^ 32 * 1050000000 + min (v % 2 ^ 32) 1050000000
     let k := v + imm.toNat
     (∃ t, exec (.tmAt x rd ra) s = .next t ∧
       StrandBecomes s t x f
         (if 2 ^ 32 * 1050000000 - 1 < target ∨ v = 2 ^ 64 - 1 then (y.answered rd.val (stWord stExhausted) stExhausted).advance
          else if target ≤ s.dev.now then (y.answered rd.val 0 0).advance
          else (y.waits s.dev.tick .time (.timeAt rd.val target)).advance)) ∧
     (∃ t, exec (.tmWait x ra imm) s = .next t ∧
       StrandBecomes s t x f
         (if k = 0 then y.advance else (y.waits s.dev.tick .time (.timeFor (s.dev.tick + k))).advance))) ∧
  (∀ (s : State) (tile : TileId) (strand : StrandId) (f : Nat),
     let y := (s.dev.tile tile.val).strand f strand.val
     FrondRuns s tile.val f → (s.dev.tile tile.val).active = some f →
     (∀ (rd at_ : Nat), y.st = .wait → y.op = .timeAt rd at_ → at_ ≤ s.dev.now →
       ∃ t, exec (.tmAtExpiry tile strand) s = .next t ∧
         OnlyStrand s t tile.val f strand.val (y.answered rd 0 0).resumed) ∧
     (∀ (until_ : Nat), y.st = .wait → y.op = .timeFor until_ → until_ ≤ s.dev.tick →
       ∃ t, exec (.tmWaitExpiry tile strand) s = .next t ∧ OnlyStrand s t tile.val f strand.val y.resumed) ∧
     ((s.dev.tile tile.val).frondWith strand.val (fun z => z.yielding) = some f → y.yieldUntil ≤ s.dev.tick →
       ∃ t, exec (.syYieldExpiry tile strand) s = .next t ∧
         OnlyStrand s t tile.val f strand.val { y with yielding := false }))


/-- R86, R94, R103, R118: sy.start sets an idle or halted strand going at IMM with OK, and one that would start past instruction
8,191 takes PC_RANGE there; sy.stop halts a ready, waiting or halted one, its own among them, with OK: a waiting send gives up
its place, and a tally request under way is still answered. Any other strand, one in DEBUG among them, is left alone with BUSY,
and where the frond's class does not see the strand, sy.start and sy.stop raise CLASS. The issuing strand notes their cost of 2 cycles, and that of a trap.
R4, R86, R121, R122: the owner's writes of HALT_REQ and STEP, and of a general register of a strand in DEBUG, complete OK, and
each that changes a strand's state exposes its partition (R447); a strand not in DEBUG takes no step and no register write,
and without the owner's rights each is DENIED. -/
def Obligations.StartStopAndHold : Prop :=
  (∀ (s : State) (x : Iss) (rd ra : GReg) (imm : Imm) (f : Nat), Ready s x f [ra.val] →
     let y := strandOf s x f
     let n := x.tile.val
     let k := (y.reg ra.val).toNat % 8
     let z := (s.dev.tile n).strand f k
     let d := (s.dev.noted n x.strand.val).hold n f x.strand.val 2
     let debug := (d.tile n).haltReq && (d.tile n).act == f &&
       (decide (z.st = .ready) || decide (z.st = .wait) || decide (z.st = .halt))
     let ans (d : Dev) (st : Byte) : Dev := d.modStrand n f x.strand.val fun y => y.answered rd.val (stWord st) st
     let going : Dev := d.modStrand n f k fun z =>
       { z with st := .ready, wait := .none, op := .none, yielding := false, atEnd := false
                pc := BitVec.ofNat 13 (min imm.toNat 8191) }
     let left : Dev := match z.op with
       | .send _ _ _ _ e _ _ => d.modRoute n f e fun r => { r with waiters := r.waiters.filter fun w => w != .strand k }
       | _ => d
     let halted : Dev := left.modStrand n f k fun z =>
       { z with st := .halt, wait := .none, op := .none
                late := match z.op with | .tally rd _ home => z.late ++ [(rd, home)] | _ => z.late }
     (s.dev.hidden n f k = false →
       ((z.st = .idle ∨ z.st = .halt) → debug = false →
         exec (.syStart x rd ra imm) s = .next (goesOn s x f (ans (if imm.toNat ≤ 8191 then going
           else going.takeTrap n f k trPcRange 8191 (imm.signExtend 64)) stOk))) ∧
       ((z.st ≠ .idle ∧ z.st ≠ .halt) ∨ debug = true → exec (.syStart x rd ra imm) s = .next (goesOn s x f (ans d stBusy))) ∧
       (z.st = .ready ∨ z.st = .wait ∨ z.st = .halt → k = x.strand.val ∨ debug = false →
         exec (.syStop x rd ra) s = .next (goesOn s x f (ans halted stOk))) ∧
       (z.st = .idle ∨ z.st = .fault ∨ (k ≠ x.strand.val ∧ debug = true) →
         exec (.syStop x rd ra) s = .next (goesOn s x f (ans d stBusy)))) ∧
     (s.dev.hidden n f k = true → y.inTrap = false → ((s.dev.tile n).frond f).trapValid = true →
       let taken (w : Word) : Strand :=
         { y with cause := BitVec.ofNat 8 trClass, epc := BitVec.ofNat 13 y.pc.toNat, tval := w, inTrap := true
                  pc := ((s.dev.tile n).frond f).trapEntry, slow := (y.slowed s n 3).slow }
       (∃ t, exec (.syStart x rd ra imm) s = .next t ∧ StrandBecomes s t x f (taken (scalarWord x 0x13 rd.val ra.val 0 4 imm))) ∧
       (∃ t, exec (.syStop x rd ra) s = .next t ∧ StrandBecomes s t x f (taken (scalarWord x 0x13 rd.val ra.val 0 5 0))))) ∧
  (∀ (s : State) (tile : TileId) (k : StrandId) (r : GReg) (v : Word) (b : Bool), s.dev.live = true →
     let n := tile.val
     let p := (s.dev.tile n).part
     let now (d : Dev) (st : Byte) : Host.Outcome State Fault Refusal := .next { s with dev := d.completed st 0 }
     let chosen := s.dev.set (TILE_CORE_CTRL_STEP_STRAND n) k.val
     (exec (.haltReq .owner tile b) s = if b = (s.dev.tile n).haltReq then now s.dev stOk
       else now ((s.dev.modTile n fun t => { t with haltReq := b, stepping := none }).expose p) stOk) ∧
     (exec (.step_ .owner tile k) s = if strandCode (s.dev.tile n) k.val = 5
       then now ((chosen.modTile n fun t => { t with stepping := some k.val }).expose p) stOk else now chosen stOk) ∧
     (exec (.gprWrite .owner tile k r v) s = if strandCode (s.dev.tile n) k.val = 5
       then now ((s.dev.modStrand n (s.dev.tile n).act k.val fun y => y.setReg r.val v).expose p) stOk else now s.dev stDenied) ∧
     (∀ c, isOwner c = false → exec (.haltReq c tile b) s = now s.dev stDenied ∧ exec (.step_ c tile k) s = now s.dev stDenied ∧
       exec (.gprWrite c tile k r v) s = now s.dev stDenied))


/-! ## Tile messaging: sends, queues, splices, tallies, hitches (R266 to R302) -/

/-- R259, R268, R269, R274 to R276: a send whose route is OPEN, whose payload lies in scratchpad that is ON and holds no
uncorrectable word, and that finds credit with nobody waiting, goes out with the payload's bytes as they stand, and completes
OK; a corrected error in them is counted, and an uncorrectable one is contained in place of the send. Without
credit qu.send waits with reason SEND, qu.sendn completes FULL, and qu.sendt waits until its limit or, with IMM 0, ends with
TIMEOUT. The strand notes the latency that R100 gives.
R276: a qu.sendt that still waits when its limit has come gives up its place on the route and ends with TIMEOUT. -/
def Obligations.SendAndTimeout : Prop :=
  (∀ (s : State) (x : Iss) (rd ra rb : GReg) (imm : Imm) (ecc : Ecc) (f : Nat) (r : Route), Ready s x f [ra.val, rb.val] →
     let y := strandOf s x f
     let n := x.tile.val
     let k := x.strand.val
     let off := (y.reg ra.val).toNat
     let w := y.reg rb.val
     let d0 := s.dev.noted n k
     let after (c : Nat) : Dev := if ecc = .corrected then (d0.hold n f k c).corrected n off else d0.hold n f k c
     let d := after 21
     let data (len : Nat) := (d0.tile n).winRead off len
     let z : IssRead := ⟨x, ecc⟩
     let ok (d : Dev) := goesOn s x f (d.replies x f rd (stWord stOk) stOk)
     let fits (len align : Nat) := off % align = 0 ∧ d0.inScratch n off len = true ∧ (d0.tile n).ueIn off len = false ∧ ecc ≠ .uncorrectable
     let waits (limit : Option Nat) := goesOn s x f ((d.modRoute n f (rwEntry w) fun r =>
         { r with waiters := r.waiters ++ [.strand k] }).modStrand n f k fun y =>
           y.waits d.tick .send (.send .full rd.val (data 64) 64 (rwEntry w) (rwUser w) limit))
     (d0.routeFor n f w 1 = some r → r.st = .open_ → fits 64 64 →
       (0 < r.credit → r.waiters = [] →
         ∀ i ∈ ([.quSend z rd ra rb, .quSendt z rd ra rb imm, .quSendn z rd ra rb] : List Instr),
           exec i s = .next (ok (d.sendEntry n f (rwEntry w) false (data 64) 64 (rwUser w) k))) ∧
       (r.credit = 0 →
         exec (.quSend z rd ra rb) s = .next (waits none) ∧
         exec (.quSendn z rd ra rb) s = .next (goesOn s x f (d.replies x f rd (stWord stFull) stFull)) ∧
         exec (.quSendt z rd ra rb imm) s = .next (if imm.toNat = 0
           then goesOn s x f (d.replies x f rd (stWord stTimeout) stTimeout) else waits (some (d.tick + imm.toNat))))) ∧
     (d0.routeFor n f w 1 = some r → r.st = .open_ → fits imm.toNat 8 → 0 < r.credit → r.waiters = [] →
       1 ≤ imm.toNat → imm.toNat ≤ 56 → d0.px64 n f = false →
       exec (.quSendl z rd ra rb imm) s =
         .next (ok ((after 19).sendEntry n f (rwEntry w) true (data imm.toNat) imm.toNat (rwUser w) k))) ∧
     (d0.routeFor n f w 2 = some r → r.st = .open_ → fits 256 256 → 0 < r.credit → r.waiters = [] →
       exec (.quSpc z rd ra rb) s = .next (ok (d.sendContrib n f (rwEntry w) (fp32s (data 256)) k))) ∧
     (d0.routeFor n f w 1 = some r → r.st = .open_ → off % 64 = 0 → d0.inScratch n off 64 = true →
       (d0.tile n).ueIn off 64 = true ∨ ecc = .uncorrectable →
       ∀ i ∈ ([.quSend z rd ra rb, .quSendt z rd ra rb imm, .quSendn z rd ra rb] : List Instr),
         exec i s = .next (goesOn s x f ((d0.hold n f k 21).memUe n ((d0.tile n).ueAddr off 64) rdMessaging f k)))) ∧
  (∀ (s : State) (tile : TileId) (strand : StrandId) (f rd len e user limit : Nat) (kind : SendKind) (data : List Byte),
     let n := tile.val
     let k := strand.val
     let y := (s.dev.tile n).strand f k
     FrondRuns s n f → (s.dev.tile n).frondWith k Strand.sendsTimed = some f →
     y.op = .send kind rd data len e user (some limit) → y.st = .wait → limit ≤ s.dev.tick →
     let d := s.dev.modRoute n f e fun r => { r with waiters := r.waiters.filter (· != .strand k) }
     let d := d.modStrand n f k fun y => (y.answered rd (stWord stTimeout) stTimeout).resumed
     exec (.sendTimeout tile strand) s = .next { s with dev := d })


/-- R278 to R280, R284: qu.recv takes the frond's oldest entry, with its tag in rd, and otherwise completes EMPTY, CLOSED or, for a
queue the frond does not read, DENIED; qu.poll waits while the queue is empty and otherwise gives its status word, as
qu.stat does at once; qu.close closes the queue for the frond. The strand notes the latencies that R100 gives, and qu.recv, whose
entry may complete a line that is to move to a spare (R499), is one that the meter observes. -/
def Obligations.QueueReads : Prop :=
  ∀ (s : State) (x : Iss) (rd ra : GReg) (q : Fin 64) (ecc : Ecc) (f : Nat), Ready s x f [ra.val] → Ready s x f [] →
    let y := strandOf s x f
    let n := x.tile.val
    let k := x.strand.val
    let d0 := s.dev.noted n k
    let d := d0.hold n f k 21
    let d2 := d0.hold n f k 2
    let qu := (d.tile n).queue q.val
    let off := (y.reg ra.val).toNat
    let z : IssRead := ⟨x, ecc⟩
    let put (d : Dev) (v : Word) (st : Byte) := (.next (goesOn s x f (d.replies x f rd v st)) : Host.Outcome State Fault Refusal)
    let recv := exec (.quRecv z rd ra q) s
    let is (d : Dev) := recv = .next (s.metered (goesOn s x f d).dev)
    (off % 64 = 0 → qu.readBy f = true → d.inScratch n off 64 = true →
      (∀ e, qu.closedFor f = false → qu.oldest f = some e →
        ((d.tile n).ueIn (slotOff q.val e.slot) 64 = false → ecc ≠ .uncorrectable →
          is (((if ecc = .corrected then d.corrected n (slotOff q.val e.slot) else d).takeEntry n q.val off e
              ((d.tile n).winRead (slotOff q.val e.slot) 64)).replies x f rd e.tag stOk)) ∧
        ((d.tile n).ueIn (slotOff q.val e.slot) 64 = true ∨ ecc = .uncorrectable →
          is (d.memUe n ((d.tile n).ueAddr (slotOff q.val e.slot) 64) rdMessaging f k))) ∧
      (qu.closedFor f = false → qu.oldest f = none → is (d.replies x f rd (stWord stEmpty) stEmpty)) ∧
      (qu.closedFor f = true → is (d.replies x f rd (stWord stClosed) stClosed))) ∧
    (off % 64 = 0 → qu.readBy f = false → is (d.replies x f rd (stWord stDenied) stDenied)) ∧
    (qu.readBy f = true → qu.status f ≠ stEmpty → exec (.quPoll x rd q) s = put d2 (qu.word f (qu.status f)) (qu.status f)) ∧
    (qu.readBy f = true → qu.status f = stEmpty →
      exec (.quPoll x rd q) s = .next (goesOn s x f (d2.modStrand n f k fun y => y.waits d2.tick .poll (.poll rd.val q.val qu.epoch)))) ∧
    exec (.quStat x rd q) s = put d2 (qu.word f (qu.status f)) (qu.status f) ∧
    (qu.readBy f = true → exec (.quClose x q) s =
      .next (goesOn s x f (((d0.closeQueue n q.val f).feedAll (d.tile n).part).replies x f 0 0 stOk)))

/-- R293, R300, R302: qu.sprd moves a complete head entry of the frond's splice to the scratchpad and returns its credits, and
completes EMPTY while the head is not complete; qu.tadd and qu.tset send their request to the tally's home tile and wait for
its reply, and qu.tset does so only on that tile. -/
def Obligations.SpliceAndTally : Prop :=
  ∀ (s : State) (x : Iss) (rd ra rb : GReg) (sp : Fin 16) (ecc : Ecc) (f : Nat) (r : Route), Ready s x f [ra.val] → Ready s x f [ra.val, rb.val] →
    let y := strandOf s x f
    let n := x.tile.val
    let k := x.strand.val
    let d0 := s.dev.noted n k
    let d := d0.hold n f k 21
    let d2 := d0.hold n f k 2
    let z := (d.tile n).splice sp.val
    let off := (y.reg ra.val).toNat
    let ready := (mget z.entries SpliceEntry.init z.head).done
    let asks (set : Bool) := goesOn s x f ((d2.sendFlit n .c f k r.dest 0 (.tally set r.index (y.reg ra.val) (k + 8 * rd.val))).modStrand n f k
      fun y => y.waits (d2.sendFlit n .c f k r.dest 0 (.tally set r.index (y.reg ra.val) (k + 8 * rd.val))).tick .tally (.tally rd.val set r.dest))
    let sprd (d : Dev) := exec (.quSprd ⟨x, ecc⟩ rd ra sp) s = .next (s.metered (goesOn s x f d).dev)
    (off % 256 = 0 → z.valid = true → z.frond = f → d.inScratch n off 256 = true →
      (ready = true → (d.tile n).ueIn (spliceOff sp.val z.head) 256 = false → ecc ≠ .uncorrectable →
        sprd (((if ecc = .corrected then d.corrected n (spliceOff sp.val z.head)
          else d).takeSplice n sp.val off ((d.tile n).winRead (spliceOff sp.val z.head) 256)).replies x f rd (stWord stOk) stOk)) ∧
      (ready = false → sprd (d.replies x f rd (stWord stEmpty) stEmpty))) ∧
    (d.routeFor n f (y.reg rb.val) 4 = some r → r.st = .open_ →
      exec (.quTadd x rd ra rb) s = .next (asks false) ∧
      (r.dest = n → exec (.quTset x rd ra rb) s = .next (asks true)) ∧
      (r.dest ≠ n → exec (.quTset x rd ra rb) s = .next (goesOn s x f (d2.replies x f rd 0 stDenied))))

/-- R296 to R299: hi.arm sets EXPECT, marks the generation seen and lets counting go on; hi.sig sends one token over a HITCH route,
or completes REVOKED where it leads to a fenced tile; hi.wait answers at once with a generation not yet seen, and waits
otherwise; hi.gen reads the generation and marks it seen. -/
def Obligations.HitchResult : Prop :=
  ∀ (s : State) (x : Iss) (rd ra rb : GReg) (h : BitVec 8) (f : Nat), Ready s x f [] →
    let y := strandOf s x f
    let n := x.tile.val
    let k := x.strand.val
    let d0 := s.dev.noted n k
    let d := d0.hold n f k 2
    let d4 := d0.hold n f k 4
    let hi := (d.tile n).hitch h.toNat
    let seen (y : Strand) : Strand := { y with seen := mset y.seen h.toNat hi.gen }
    let gen : Word := BitVec.ofNat 64 hi.gen
    (Ready s x f [ra.val] → h.toNat < 32 → (y.reg ra.val).toNat ≤ 65535 → hi.revoked = false →
      exec (.hiArm x rd ra h) s = .next (goesOn s x f ((((d.modTile n fun t =>
        t.modHitch h.toNat fun z => { z with expect := (y.reg ra.val).toNat }).modStrand n f k seen).hitchRun n h.toNat hi.count).replies x f rd (stWord stOk) stOk))) ∧
    (∀ r, Ready s x f [rb.val] → d.routeFor n f (y.reg rb.val) 3 = some r → r.st ≠ .revoked →
      (d.leadsFenced r = false →
        exec (.hiSig x rd rb) s = .next (goesOn s x f ((d4.sendToken n f k r).replies x f rd (stWord stOk) stOk))) ∧
      (d.leadsFenced r = true →
        exec (.hiSig x rd rb) s = .next (goesOn s x f (d4.replies x f rd (stWord stRevoked) stRevoked)))) ∧
    (h.toNat < 32 → hi.revoked = false →
      (hi.gen ≠ y.seenGen h.toNat → exec (.hiWait x rd h) s = .next (goesOn s x f ((d.modStrand n f k seen).replies x f rd gen stOk))) ∧
      (hi.gen = y.seenGen h.toNat →
        exec (.hiWait x rd h) s = .next (goesOn s x f (d.modStrand n f k fun y => y.waits d.tick .hitch (.hitch rd.val h.toNat))))) ∧
    (h.toNat < 32 → d.px64 n f = false → exec (.hiGen x rd h) s =
      .next (goesOn s x f ((d.modStrand n f k seen).modStrand n f k fun y => y.setReg rd.val gen)))

/-! ## Macro-instructions, engines, scratchpad power and scrubbing (R104 to R109, R125 to R265) -/

/-- R105, R106, R108: a macro-instruction that raises no trap copies its descriptors and enters its engine's queue while that has
room, and its counter K counts it; the program counter moves past it and its chain words. With the queue full it waits with
reason ENGINE instead. R259, R498: a corrected error in a slot it copies is counted, and an uncorrectable one contained in its
place. The strand notes that it can issue again 2 cycles after (R106). -/
def Obligations.MacroIssues : Prop :=
  ∀ e ∈ ([(.mmMm, .mmMm), (.mmZero, .mmZero), (.mmOut, .mmOut), (.mmSpl, .mmSpl), (.mmF2, .mmF2), (.mmAtt, .mmAtt), (.mmWg, .mmWg),
      (.vxRun, .vxRun), (.vxClose, .vxClose), (.vxOpt, .vxOpt), (.dmGet, .dmGet), (.dmPut, .dmPut), (.dmMput, .dmMput),
      (.dmMcopy, .dmMcopy), (.spFill, .spFill), (.spCopy, .spCopy), (.spBfill, .spBfill), (.spBdrain, .spBdrain),
      (.spBreset, .spBreset)] : List ((Iss → Mac → Instr) × MacroKind)),
    ∀ (s : State) (x : Iss) (m : Mac) (f : Nat) (chain : List Word), Ready s x f [] →
      let y := strandOf s x f
      let n := x.tile.val
      let d0 := (s.dev.noted n x.strand.val).hold n f x.strand.val 2
      let k := e.2
      let eng := engineOf k m.spec.toNat
      let past (d : Dev) : Dev := d.modStrand n f x.strand.val fun z => { z with pc := BitVec.ofNat 13 (y.pc.toNat + (1 + chainLen k m)) }
      let goes (d : Dev) : Prop := exec (e.1 x m) s = .next { s with dev := past d }
      let c := min 1 (chainLen k m)
      let i := Config.eccLine d0.free % (c + (namedSlots m k chain).length)
      let met := if c ≤ i then (namedSlots m k chain)[i - c]? else none
      let word := someWord d0.free (descOff (met.getD 0)) 64
      let d := if m.ecc = .ok then d0 else d0.draw.corrected n word
      let mac := (d.tile n).copyMacro k f x.strand.val m chain
      MacroFits d0 n f y k m chain →
      (m.ecc = .ok ∨ (m.ecc = .corrected ∧ met.isSome) → d.checkMacro n f mac = none →
        (((d.tile n).engine eng).full eng = false → goes (d.enqueue n eng mac)) ∧
        (((d.tile n).engine eng).full eng = true →
          goes (d.modStrand n f x.strand.val fun z => z.waits d.tick .engine (.engine k m chain)))) ∧
      (m.ecc = .uncorrectable → met.isSome → goes (d0.draw.memUe n word rdStrand f x.strand.val))

/-- R107, R108, R176, R222, R249, R251: an engine that can start it takes the macro-instruction at the head of its queue, claims its
bights, reads its mask and its scale record and begins its walk, or has nothing to walk and UNMAPPED where those cannot be
accessed; a corrected error in them is counted (R259) and an uncorrectable one contained instead, and an engine that cannot start it,
or whose sides another holds, takes none.
R108, R109, R176, R249, R251: the first that an engine started completes once its walk has ended with nothing in flight: its last
lines fill or drain, its record is written back, its claims go, LAST_ERR takes its error, its counter K counts down and keeps its
first error, and what waits for the counter or the engine goes on. An error in the words of the record that the completion merges is
counted or contained. -/
def Obligations.MacroRuns : Prop :=
  ∀ (s : State) (tile : TileId) (ecc : Ecc) (e : EngineId), s.dev.live = true →
    let n := tile.val
    let t := s.dev.tile n
    let x := t.engine e
    let starts (d : Dev) : Prop := exec (.macroStart ⟨tile, ecc⟩ e) s = .next { s with dev := d }
    let completes (d : Dev) : Prop := exec (.macroComplete ⟨tile, ecc⟩ e) s = .next { s with dev := d }
    (x.queue = [] → starts s.dev) ∧
    (∀ m rest, x.queue = m :: rest →
      (t.held = true ∨ t.clearing = true ∨ x.free e m = false ∨ t.claimed e m = true → starts s.dev) ∧
      (t.held = false → t.clearing = false → x.free e m = true → t.claimed e m = false →
        (∀ w, t.startError s.dev.free m ecc = some w → starts (s.dev.draw.memUe n w (readerOf e) m.frond m.strand)) ∧
        (t.startError s.dev.free m ecc = none →
          let d := if ecc = .corrected ∧ m.startReads ≠ [] then s.dev.draw.corrected n (someRead s.dev.free m.startReads) else s.dev
          let ok := m.startReads.all fun a => t.canAccess a.1 a.2
          let sides := (m.produces ++ m.consumes).eraseDups.map fun h => (h, (t.bight m.frond h).fill, (t.bight m.frond h).drain)
          let r : Run := { Run.init with
            macro_ := m, plan := if ok then t.planOf e m else [], err := if ok then 0 else 6, started := s.dev.tick, starts := sides }
          let r : Run := match m.record? with
            | none => r
            | some p =>
              let b := t.winRead p 64
              { r with scale := fieldAt b 0 4, amax := fieldAt b 4 4, seed := BitVec.ofNat 64 (fieldAt b 40 8), step := fieldAt b 48 4
                       recStep := fieldAt b 48 4, flags := fieldAt b 57 1, sat := fieldAt b 60 4 }
          starts (d.modTile n fun t => (t.setEngine e { queue := rest, run := x.run ++ [r], nextId := x.nextId }).claim e m)))) ∧
    (x.run = [] → completes s.dev) ∧
    (∀ r more, x.run = r :: more →
      let m := r.macro_
      (r.plan ≠ [] ∨ r.flight ≠ [] → completes s.dev) ∧
      (r.plan = [] → r.flight = [] →
        (m.record? = none → completes (s.dev.complete n e r)) ∧
        (m.record? = none → more = [] →
          let left (t : Tile) : Tile := (if r.err = 0 then t.lastLines r else t).setEngine e { x with run := [] }
          let idle (t : Tile) : Tile := if t.mx.busy then t else { t with mxIdle := s.dev.tick }
          let d := s.dev.modTile n fun t => (idle (left t)).release e m.frond
          let d := (d.lastErr n e r.err).modStrand n m.frond m.strand fun y =>
            y.modK m.k fun c => { cnt := c.cnt - 1, err := if c.err = 0 then r.err else c.err }
          completes ((d.wakeStrand n m.frond m.strand).admitWaiter n e)) ∧
        (∀ p, m.record? = some p →
          (∀ w, t.endError s.dev.free p ecc = some w → completes (s.dev.draw.memUe n w (readerOf e) m.frond m.strand)) ∧
          (t.endError s.dev.free p ecc = none → completes
            ((if ecc = .corrected then s.dev.draw.corrected n (someRead s.dev.free (recMerged p)) else s.dev).complete n e r)))))

/-- R126, R138, R140, R147, R151, R190, R201, R234, R249, R256: the next access of an engine's walk makes the step that stands
next for its unit, on what it reads: a stationary line loaded, a streamed row multiplied and counted by its products while the
duty lets the array run, a row written out, a splice line sent with credit in hand, a row of a function pass computed and
counted, the row of a final pass, a row cleared, a line of a transposed fill, a query tile begun, a beat of a vector chain or of an
optimizer step, a record closed, a line of a row filled or copied, a bight operation done. `ecc` is the error that one of its lines
meets, and what a write of its brings in as a spare is the meter's to note.
R109, R239, R249, R250, R252: a step of a walk whose next line read has to wait is not made; one that meets a claim broken
by a strand gives it up and ends its macro-instruction early with BIGHT, one that would go back over a drained line too, and one
that cannot be accessed with UNMAPPED. -/
def Obligations.EngineStepsAndStops : Prop :=
  (∀ (s : State) (tile : TileId) (ecc : Ecc) (r : Run) (mi : Micro) (i : Nat), s.dev.live = true →
     let n := tile.val
     let t := s.dev.tile n
     let m := r.macro_
     let mx (eff : Dev → Run → Dev × Run) : Host.Outcome State Fault Refusal :=
       .next (s.metered (s.dev.engineStep n .mx r (r.accessMx t i mi) ecc eff))
     let vx (eff : Dev → Run → Dev × Run) : Host.Outcome State Fault Refusal :=
       .next (s.metered (s.dev.engineStep n .vx r (r.accessVx mi) ecc eff))
     let fc (eff : Dev → Run → Dev × Run) : Host.Outcome State Fault Refusal :=
       .next (s.metered (s.dev.engineStep n .fc r (r.accessFc mi) ecc eff))
     (t.head .mx = some r → r.nextOf mi.unit = some (i, mi) →
       (∀ second b kc at_ tn nb ln pos, mi = .load second b kc at_ tn nb ln pos → s.dev.arrayCycle = true →
         exec (.engineLineAccess tile .mxW ecc) s = mx fun d r =>
           let k := if ln = 0 then (d.tile n).loadTime (r.macro_.prod second b kc at_ tn nb) else 0
           ((d.add (TILE_MX_LOAD_V n) k).add (TILE_MX_ARRAY_V n) k, (d.tile n).loadLine r second b kc at_ tn nb ln)) ∧
       (∀ second b kc at_ tm tn nb row pos, mi = .stream second b kc at_ tm tn nb row pos → s.dev.arrayCycle = true →
         exec (.engineLineAccess tile .mxA ecc) s = mx fun d r =>
           let p := r.macro_.prod second b kc at_ tn nb
           (((d.modTile n fun t => t.streamRow r second b kc at_ tm tn nb row pos).add
               (TILE_MX_MACS_V n (macsClass p.stat.fmt)) (p.kn * p.cn)).add (TILE_MX_ARRAY_V n) 1, r)) ∧
       (∀ b kc grp ln pos, mi = .fill b kc grp ln pos → s.dev.arrayCycle = true →
         exec (.engineLineAccess tile .mxA ecc) s = mx fun d r => (d, (d.tile n).fillLine r b kc grp ln)) ∧
       (∀ b tm, mi = .begin_ b tm → s.dev.arrayCycle = true →
         exec (.engineLineAccess tile .mxW ecc) s = mx fun d r => (d, (d.tile n).attBegin r b tm)) ∧
       (∀ b row, mi = .zero b row → exec (.mxWriteOut ⟨tile, ecc⟩) s = mx fun d r => (d.modTile n fun t =>
         (r.macro_.da.segs row b 0 r.macro_.da.across).foldl (fun t x => t.winWrite x.at_.toNat (zeros x.len)) t, r)) ∧
       (∀ b tm row, mi = .final b tm row → exec (.functionPass tile ecc) s = mx fun d r =>
         ((d.modTile n fun _ => (d.tile n).attFinal r b tm row).add (TILE_MX_FUNC_V n) (ceilDiv m.dc.across 128), r)) ∧
       (∀ b tm tn pos row, mi = .out b tm tn pos row →
         exec (.mxWriteOut ⟨tile, ecc⟩) s = mx fun d r => (d.modTile n fun t => t.writeRow r b tm tn pos row, { r with bufs := [] })) ∧
       (∀ b tm at_ row pos, mi = .func b tm at_ row pos → m.kind ≠ .mmAtt →
         exec (.functionPass tile ecc) s = mx fun d r =>
           ((d.modTile n fun _ => ((d.tile n).funcRow r b tm at_ row pos).1).add (TILE_MX_FUNC_V n)
             (rfPasses m.rf * ceilDiv (m.aWidth at_) 128), ((d.tile n).funcRow r b tm at_ row pos).2)) ∧
       (∀ b tm at_ row pos, mi = .func b tm at_ row pos → m.kind = .mmAtt →
         exec (.functionPass tile ecc) s = mx fun d r =>
           ((d.modTile n fun _ => ((d.tile n).attRow r b tm at_ row pos).1).add (TILE_MX_FUNC_V n) (2 * ceilDiv m.db.tm 128),
             ((d.tile n).attRow r b tm at_ row pos).2)) ∧
       (∀ b tm tn pos row j vs, mi = .splice b tm tn pos row j → t.spliceLine m b tm tn pos row j = some vs →
         let rt := t.route m.frond m.routeEntry
         rt.st = .open_ → 0 < rt.credit → rt.waiters = [] →
         exec (.spliceContributionSend ⟨tile, ecc⟩) s = mx fun d r =>
           (((d.modRoute n m.frond m.routeEntry fun x => { x with waiters := x.waiters.filter (· != .engine) }).sendContrib
             n m.frond m.routeEntry vs m.strand).serveWaiters n m.frond m.routeEntry 9, r))) ∧
     (∀ rest, t.head .vx = some r → r.plan = mi :: rest → ∀ p ∈ [SpPort.vxI0a, .vxI0b, .vxI1a, .vxI1b, .vxOa, .vxOb],
       (∀ i3 i2 i1 bt last, mi = .beat i3 i2 i1 bt last →
         exec (.engineLineAccess tile p ecc) s = vx fun d r =>
           ((((d.modTile n fun _ => ((d.tile n).beat r i3 i2 i1 bt last).1).add (TILE_VX_BEATS_V n) 1).add
             (TILE_VX_SPECIAL_V n) (m.beatLanes bt * (m.words.filter fun w => fnSpecial w.fn).length)).add
             (TILE_VX_LANEOPS_V n) (m.beatLanes bt * m.words.length), ((d.tile n).beat r i3 i2 i1 bt last).2)) ∧
       (∀ i3 i2 i1 bt, mi = .opt i3 i2 i1 bt →
         exec (.engineLineAccess tile p ecc) s = vx fun d r =>
           let k := min 128 (m.da.ext0 - bt * 128)
           ((((d.modTile n fun t => t.optBeat r i3 i2 i1 bt).add (TILE_VX_BEATS_V n) 1).add
             (TILE_VX_SPECIAL_V n) (if m.adam then 2 * k else 0)).add (TILE_VX_LANEOPS_V n) (k * if m.adam then 7 else 4), r)) ∧
       (mi = .close → exec (.engineLineAccess tile p ecc) s = vx fun d r =>
         let p := m.spec % 2 ^ 19 * 64
         (d.modTile n fun t => t.winWrite p (closePass (t.winRead p 64)), r))) ∧
     (∀ rest, t.head .fc = some r → r.plan = mi :: rest → ∀ i3 i2 i1 c len,
       (mi = .copyRow i3 i2 i1 c len → exec (.engineLineAccess tile .fill ecc) s = fc fun d r =>
         (d.modTile n fun _ => ((d.tile n).fcRow r i3 i2 i1 c len true).1, ((d.tile n).fcRow r i3 i2 i1 c len true).2)) ∧
       (mi = .fillRow i3 i2 i1 c len → exec (.engineLineAccess tile .fill ecc) s = fc fun d r =>
         (d.modTile n fun _ => ((d.tile n).fcRow r i3 i2 i1 c len false).1, ((d.tile n).fcRow r i3 i2 i1 c len false).2)) ∧
       (mi = .bightOp →
         let h := bits m.spec 19 16
         exec (.engineLineAccess tile .fill ecc) s = .next (s.metered
           (match (t.bight m.frond h).strandOp m.kind (m.spec % 2 ^ 16) with
            | none => s.dev.endEarly n .fc r 0 0x0B
            | some x => s.dev.modTile n fun t => (t.modBight m.frond h fun _ => x).setHead .fc { r with plan := [] }))))) ∧
  (∀ (s : State) (tile : TileId) (ecc : Ecc) (r : Run) (i3 i2 i1 c len h : Nat) (rest : List Micro) (x : Rng) (xs : List Rng),
     s.dev.live = true →
     let n := tile.val
     let t := s.dev.tile n
     let mi := Micro.copyRow i3 i2 i1 c len
     let d := if ecc = .ok then s.dev else s.dev.draw
     let early (t : Tile) (st : Byte) : Tile :=
       t.setHead .fc { r with plan := [], progs := [], err := if r.err = 0 then st else r.err }
     t.head .fc = some r → r.plan = mi :: rest → r.progs = [] → r.bufs = [] → (r.macro_.rdFc mi).flatMap Rng.lines = x :: xs →
     let stop := t.readStop .fc r x
     let becomes (t : Tile) : Host.Outcome State Fault Refusal := .next (s.metered (d.modTile n fun _ => t))
     (stop = some .wait → exec (.engineLineAccess tile .fill ecc) s = .next (s.metered d)) ∧
     (stop = some .unmapped → exec (.engineLineAccess tile .fill ecc) s = becomes (early t 6)) ∧
     (stop = some .backward → exec (.engineLineAccess tile .fill ecc) s = becomes (early t 0x0B)) ∧
     (stop = some (.broken h) → exec (.engineLineAccess tile .fill ecc) s = becomes (early (t.modBight r.macro_.frond h fun b =>
        { b with pBroken := b.pBroken && b.pclaim != some .fc, cBroken := b.cBroken && b.cclaim != some .fc
                 pclaim := if b.pclaim == some .fc then none else b.pclaim
                 cclaim := if b.cclaim == some .fc then none else b.cclaim }) 0x0B)))


/-- R69, R126, R240, R241, R281, R535: at the next duty frame boundary, a multiple of 16 cycles, every tile takes the issue duty of
PWR_ENVELOPE.ARRAY, which sy.csr reads; a request of
quarter power (a code of 3 left out) starts each quarter towards its state, needs the owner's rights and makes an ON quarter
leave it, which it does once no store to it is left; the end of a transition leaves the quarter in its state, in OFF with its
contents gone, the queue entries there counted as lost, and starts what REQ asks for since.
R150, R259, R492, R494, R505: an array repair that waits takes effect while the engine is idle, and the repair fuses keep it; the
tile's scrub engine, which its walker drives, or once that is stopped its partner, reads the line at its position (past quarters that
are not ON), rewrites one that waits for it, and moves on; the walker's position follows the tile that ends, and with the last
of its tiles its pass ends. -/
def Obligations.TilePowerAndRepairs : Prop :=
  (∀ (s : State) (tile : TileId) (j : Fin 4) (k : Nat) (v : Word), s.dev.live = true →
     let n := tile.val
     let t := s.dev.tile n
     let onTile (g : Tile → Tile) : Host.Outcome State Fault Refusal := .next { s with dev := s.dev.modTile n g }
     let d := s.dev.toTime ((s.dev.now + 15) / 16 * 16)
     let duty := if d.get PWR_ENVELOPE_ARRAY = 0 then 16 else if d.get PWR_ENVELOPE_ARRAY = 1 then 12 else 8
     (let u : Dev := { d with power := { d.power with frameDuty := duty } }
      exec .dutyFrameBoundary s = .next { s with dev := u } ∧ ∀ m f k y, u.csr m f k y 7 = some duty) ∧
     (t.quarter j.val = .leaving k → t.storesIn j.val = false →
       exec (.spQuarterQuiesced tile j) s = onTile fun t => t.setQuarter j.val (.changing k false)) ∧
     (t.quarter j.val = .changing 0 false → bits (s.dev.get (TILE_SP_POWER_REQ n)) (2 * j.val + 1) (2 * j.val) = 0 →
       exec (.spPowerTransitionDone tile j) s =
         .next { s with dev := (s.dev.msgCount n 8 (t.extCount j.val)).modTile n fun t => (t.clearQuarter j.val).setQuarter j.val .off }) ∧
     (∀ k up, t.quarter j.val = .changing k up →
       let state : QPower := if k = 0 then .off else if k = 1 then .retain else .on
       let req := bits (s.dev.get (TILE_SP_POWER_REQ n)) (2 * j.val + 1) (2 * j.val)
       exec (.spPowerTransitionDone tile j) s =
         .next { s with dev := (s.dev.loseQuarter n j.val).modTile n fun t => (t.setQuarter j.val state).startPower j.val req }) ∧
     (let old := s.dev.get (TILE_SP_POWER_REQ n)
      let code (i : Nat) : Nat := if bits v.toNat (2 * i + 1) (2 * i) = 3 then bits old (2 * i + 1) (2 * i) else bits v.toNat (2 * i + 1) (2 * i)
      let d := (s.dev.set (TILE_SP_POWER_REQ n) (code 0 + code 1 * 4 + code 2 * 16 + code 3 * 64)).modTile n fun t =>
        (((t.startPower 0 (code 0)).startPower 1 (code 1)).startPower 2 (code 2)).startPower 3 (code 3)
      exec (.spPowerReq .owner tile v) s = .next { s with dev := d.completed 0 0 } ∧
        ∀ c, isOwner c = false → exec (.spPowerReq c tile v) s = .next { s with dev := s.dev.completed 7 0 }) ∧
     (v.toNat = 0 → t.q0 = .on → t.q1 = .on → t.q2 = .on → t.q3 = .on →
       let d := (s.dev.set (TILE_SP_POWER_REQ n) 0).modTile n fun t =>
         { t with q0 := .leaving 0, q1 := .leaving 0, q2 := .leaving 0, q3 := .leaving 0 }
       exec (.spPowerReq .owner tile v) s = .next { s with dev := d.completed 0 0 })) ∧
  (∀ (s : State) (tile : TileId) (row : Nat) (ecc : Ecc), s.dev.live = true →
     let n := tile.val
     let t := s.dev.tile n
     let scrubs (ecc : Ecc) (d : Dev) : Prop := exec (.scrubAccess tile ecc) s = .next (s.metered d)
     (t.mx.busy = true → ∃ u, exec (.arrayRepair tile) s = .next u ∧ u.dev = s.dev.modTile n fun _ => t) ∧
     (t.mx.busy = false →
       ∃ u, exec (.arrayRepair tile) s = .next u ∧ (u.dev.tile n).badRows = t.arrayRepair.badRows ∧
         (u.dev.tile n).badCols = t.arrayRepair.badCols ∧ (u.dev.tile n).repairWait = [] ∧ TilesBut s u n) ∧
     (t.mx.busy = false → t.repairWait = [(true, row)] → t.badRows = [] → t.badCols = [] →
       ∃ u, exec (.arrayRepair tile) s = .next u ∧ (u.dev.tile n).badRows = [row] ∧ (u.dev.tile n).repairWait = [] ∧
         u.dev.fuses.mxRepairs = (s.dev.fuses.mxRepairs.filter fun e => e.1 != s.dev.physOf n) ++ [(s.dev.physOf n, [row], [])] ∧
         TilesBut s u n) ∧
     (bit (s.dev.get DMC_DUTY_STATE_PENDING) 3 = 0 → s.dev.duty 3 = false →
       let w := s.dev.driverOf n
       let k := t.scrubNext t.scrubPos
       let d := (s.dev.scrubAt n k ecc).modWalker w fun x => { x with moved := true }
       (s.dev.is (FLT_WALKER_STOPPED w) = true → scrubs ecc s.dev) ∧
       (s.dev.is (FLT_WALKER_STOPPED w) = false →
         (k + 1 < 105488 → scrubs ecc (d.modTile n fun t => { t with scrubPos := k + 1 })) ∧
         (105488 ≤ k + 1 →
           let d := d.modTile n fun t => { t with scrubPos := 0, twice := [] }
           let next := ((d.walkerTiles w).find? fun m => decide (n < m)).getD ((d.walkerTiles w).headD 0)
           let d := (d.modWalker w fun x => { x with pos := next }).set (FLT_WALKER_POSITION w) next
           scrubs ecc (if next ≤ n then d.passEnd w else d)) ∧
         (k < 98304 → t.scrubDue.contains k = false → t.ueIn (k * 256) 256 = false →
           s.dev.scrubAt n k .ok = s.dev.modTile n fun t => { t with ceLines := t.ceLines.filter (· != k) }))))


/-! ## What reaches a tile, and the mesh (R269, R274 to R302, R313 to R328, R504) -/

/-- R269, R274, R276, R284 to R287: a credit adds to what its route holds of the sender; a close notice closes an OPEN route, a stale
notice makes it STALE, a revoked credit REVOKED, and the strand that waits to send on it completes with that status and is
counted; a reopen opens a CLOSED or STALE route with its grant and the queue's epoch. -/
def Obligations.RouteNotices : Prop :=
  ∀ (s : State) (tile : TileId) (f : Flit) (rest : List Flit) (wf e : Nat), s.dev.live = true → s.dev.oldestIs tile.val f rest →
    let n := tile.val
    let d := s.dev.took n rest
    let r := (d.tile n).route wf e
    let now (g : Route → Route) : Host.Outcome State Fault Refusal := .next { s with dev := d.modRoute n wf e g }
    (∀ k, f.body = .credit wf e k → r.remote = false → r.waiters = [] →
      exec (.creditArrive tile) s = now fun r => r.give f.src k) ∧
    (∀ g ep, f.body = .reopenN wf e g ep → r.mcast = false → r.st = .closed ∨ r.st = .stale →
      exec (.reopenNotice tile) s = now fun r => { r.refill g with st := .open_, epoch := ep }) ∧
    (∀ k kind rd data len e' user lim, r.waiters = [.strand k] → d.stoppedF n wf = false → r.st = .open_ →
      ((d.tile n).strand wf k).op = .send kind rd data len e' user lim → ((d.tile n).strand wf k).st = .wait →
      let ended (st : RouteSt) (code : Byte) (c : Nat) : Dev :=
        ((d.modRoute n wf e fun r => { r with st := st, waiters := [] }).modStrand n wf k fun y =>
          (y.answered rd (stWord code) code).resumed).msgCount n c 1
      let ends (st : RouteSt) (code : Byte) (c : Nat) : Host.Outcome State Fault Refusal := .next { s with dev := ended st code c }
      (f.body = .closeN wf e → exec (.closeNotice tile) s = ends .closed stClosed 0) ∧
      (f.body = .staleN wf e → exec (.staleNotice tile) s = ends .stale stStale 1) ∧
      (f.body = .revoked wf e → exec (.revokedCredit tile) s = ends .revoked stRevoked 2))

/-- R272, R277, R281, R282, R284, R285: an entry of a granted route with the queue's epoch takes the lowest free slot, with the next
number in the order of arrival, and ends the waits that it meets; one of another epoch is discarded, counted and answered with a
stale notice, and one for a closed queue is discarded, counted and its credit returned. The oldest entry that is to spill moves to
the extension and returns its credit, or stays in its slot where the room has gone; the oldest one of the active frond in the
extension moves back into a slot, in the place of its arrival. What is written whole replaces its bad words (R499).
R259: a corrected error in what moves is counted, and an uncorrectable one contained. -/
def Obligations.EntryMoves : Prop :=
  ∀ (s : State) (tile : TileId) (q : Fin 64), s.dev.live = true →
    let n := tile.val
    let qoff (j : Nat) := slotOff q.val j
    let read (ecc : Ecc) (off : Nat) : Dev := if ecc = .corrected then s.dev.corrected n off else s.dev
    let ends (off f : Nat) : Host.Outcome State Fault Refusal :=
      .next { s with dev := s.dev.memUe n ((s.dev.tile n).ueAddr off 64) rdMessaging f 0 }
    let bad (ecc : Ecc) (off : Nat) : Prop := (s.dev.tile n).ueIn off 64 = true ∨ ecc = .uncorrectable
    (∀ (f : Flit) (rest : List Flit) (len ep e : Nat) (data : List Byte) (g : Grant), s.dev.oldestIs n f rest →
      f.body = .entry false q.val len ep e data →
      let d := s.dev.took n rest
      let t := d.tile n
      let qu := t.queue q.val
      let ref := CreditRef.local_ f.src (e / 128) (e % 128)
      let tag := entryTag f.user 0 false f.sstr f.src len false f.frond
      t.held = false → t.clearing = false → t.part ≠ 0 → qu.grantOf ref = some g → g.withdrawn = false →
      (ep ≠ qu.epoch → exec (.queueEntryArrive tile) s = .next { s with dev := (d.msgCount n 4 1).notify n ref (.stale ep) }) ∧
      (ep = qu.epoch → (t.frond f.frond).retired = false → qu.closedFor f.frond = true →
        exec (.queueEntryArrive tile) s = .next { s with dev := (d.msgCount n 3 1).notify n ref (.credit 1) }) ∧
      (∀ j, ep = qu.epoch → (t.frond f.frond).retired = false → qu.closedFor f.frond = false → qu.freeSlot = some j → qu.extLen = 0 →
        let slot : SlotEntry := { slot := j, tag := tag, frond := f.frond, credit := ref, fromExt := false, spill := false, no := qu.nextNo }
        let d := d.modTile n fun t => { t with qmem := cwrite t.qmem (qoff j) (slice data 0 64), bad := coveredWords t.bad (qoff j) 64 }
        let d := d.modQueue n q.val fun x =>
          { x with grants := (x.modGrant ref fun g => { g with dfrond := some f.frond }).grants, slots := x.slots ++ [slot]
                   nextNo := x.nextNo + 1 }
        exec (.queueEntryArrive tile) s = .next { s with dev := d.wakeAll n })) ∧
    (∀ x ecc, let t := s.dev.tile n
      let qu := t.queue q.val
      let room : Prop := qu.ext.length < qu.extLen ∧ t.rangeOn (qu.extBase * 256) (qu.extLen * 64) = true
      (qu.slots.find? fun e => e.spill) = some x →
      (room → ¬ bad ecc (qoff x.slot) →
        let d := (read ecc (qoff x.slot)).modTile n fun y => y.winWrite (qu.extOff qu.extTail) (t.winRead (qoff x.slot) 64)
        let d := d.modQueue n q.val fun y =>
          { y with slots := y.slots.filter (fun z => z.slot != x.slot), ext := y.ext ++ [⟨qu.extTail, x.tag, x.frond, x.no⟩] }
        exec (.extensionSpill tile ⟨q, ecc⟩) s = .next { s with dev := (d.notify n x.credit (.credit 1)).feedAll (d.tile n).part }) ∧
      (room → bad ecc (qoff x.slot) → exec (.extensionSpill tile ⟨q, ecc⟩) s = ends (qoff x.slot) x.frond) ∧
      (¬ room → exec (.extensionSpill tile ⟨q, ecc⟩) s = .next { s with dev := s.dev.modQueue n q.val fun y =>
        { y with slots := y.slots.map fun z => if z.slot = x.slot then { z with spill := false } else z } })) ∧
    (∀ f x j ecc, let t := s.dev.tile n
      let qu := t.queue q.val
      t.active = some f → (qu.ext.find? fun e => e.frond == f) = some x → qu.freeSlot = some j →
      (qu.slots.filter fun y => y.frond == f && decide (y.no < x.no)).length < qu.spillAt →
      (qu.slots.filter fun y => y.fromExt).length < 4 → t.rangeOn (qu.extOff x.pos) 64 = true →
      (¬ bad ecc (qu.extOff x.pos) →
        let slot : SlotEntry := { slot := j, tag := x.tag, frond := f, credit := .none_, fromExt := true, spill := false, no := x.no }
        let d := (read ecc (qu.extOff x.pos)).modTile n fun y =>
          { y with qmem := cwrite y.qmem (qoff j) (t.winRead (qu.extOff x.pos) 64), bad := coveredWords y.bad (qoff j) 64 }
        let d := d.modQueue n q.val fun y => { y with slots := placeBack slot y.slots, ext := y.ext.filter fun z => z.pos != x.pos }
        exec (.extensionRefill tile ⟨q, ecc⟩) s = .next { s with dev := d.wakeAll n }) ∧
      (bad ecc (qu.extOff x.pos) → exec (.extensionRefill tile ⟨q, ecc⟩) s = ends (qu.extOff x.pos) f))

/-- R292, R294, R297, R300, R301, R504: a contribution that fits is added exactly to its splice entry, value by value, and one
outside the window sets OVER and is discarded and counted; an entry whose weights have reached CNT is rounded, written out and becomes readable; tokens
are counted, and with EXPECT reached the generation advances; a tally's home tile adds or sets and replies with the value
from before, and the reply ends the strand's wait, or, where the strand was halted in it, writes its register and leaves a later
wait alone; a fence notice reaches the routes, splices, hitches and waits of its tile. -/
def Obligations.Arrivals : Prop :=
  ∀ (s : State) (tile : TileId), s.dev.live = true →
    let n := tile.val
    let now (d : Dev) : Host.Outcome State Fault Refusal := .next { s with dev := d }
    (∀ (f : Flit) (rest : List Flit), s.dev.oldestIs n f rest →
      let d := s.dev.took n rest
      let t := d.tile n
      (∀ k seq w e vs, f.body = .contrib k seq w e vs → t.held = false → t.clearing = false → t.part ≠ 0 →
        (∀ w ∈ f.writers, (d.tile w.1).fenced = false) →
        let z := t.splice k
        let x := mget z.entries SpliceEntry.init seq
        z.valid = true → (t.frond z.frond).retired = false →
        let inside := (seq + 2 ^ 16 - z.head) % 2 ^ 16 < 32 ∧ x.weight + w ≤ z.cnt ∧ x.done = false
        (¬ inside → exec (.spliceContributionArrive tile) s = now (d.modTile n fun t => t.modSplice k fun y =>
          { y with overs := true, dropped := y.dropped + 1 })) ∧
        (inside → x.sums ≠ [] →
          let sums := (List.range 64).map fun i => (x.sums.getD i ExactSum.init).plus (vs.getD i 0)
          let x' : SpliceEntry := { x with weight := x.weight + w, sums := sums, credits := x.credits ++ f.writers.map (·.1) }
          exec (.spliceContributionArrive tile) s =
            now (d.modTile n fun t => t.modSplice k fun y => { y with entries := mset y.entries seq x' }))) ∧
      (∀ h k, f.body = .hitch h k → t.held = false → t.clearing = false → t.part ≠ 0 →
        let x := t.hitch h
        x.count + k ≤ 131071 →
        let d' := d.modTile n fun t => t.modHitch h fun x => { x with count := x.count + k }
        (x.expect = 0 ∨ x.count + k < x.expect → exec (.hitchTokenArrive tile) s = now d') ∧
        (0 < x.expect → x.expect ≤ x.count + k → x.count + k < 2 * x.expect →
          exec (.hitchTokenArrive tile) s = now ((d'.modTile n fun t => t.modHitch h fun x =>
            { x with gen := (x.gen + 1) % 2 ^ 16, count := x.count - x.expect }).wakeAll n))) ∧
      (∀ isSet y v st, f.body = .tally isSet y v st → t.held = false → t.clearing = false →
        let d' := d.modTile n fun t => { t with tallies := mset t.tallies y (if isSet = true then v else t.tally y + v) }
        exec (.tallyOpArrive tile) s = now (d'.sendNote n f.frond f.src y 0 (.tallyReply (t.tally y) stOk st))) ∧
      (∀ v st k, f.body = .tallyReply v st k → d.stoppedF n f.frond = false →
        let z := t.strand f.frond (k % 8)
        (∀ set, (k / 8, f.src) ∉ z.late → z.op = .tally (k / 8) set f.src → z.st = .wait →
          exec (.tallyReplyArrive tile) s = now (d.modStrand n f.frond (k % 8) fun y => (y.answered (k / 8) v st).resumed)) ∧
        ((k / 8, f.src) ∈ z.late →
          exec (.tallyReplyArrive tile) s = now (d.modStrand n f.frond (k % 8) fun y =>
            { y.answered (k / 8) v st with late := dropFirst (fun e => e == (k / 8, f.src)) y.late }))) ∧
      (∀ b, f.body = .fence b → ∃ u, exec (.fenceNotice tile) s = .next u ∧ u = { s with dev := d.fenceNotice n b } ∧
        ∀ h, h < 32 → ((u.dev.tile n).hitch h).revoked = true ∧ ((u.dev.tile n).hitch h).expect = 0)) ∧
    (∀ (k : Fin 16) seq x, let z := (s.dev.tile n).splice k.val
      (z.entries.find? fun e => !e.2.done && e.2.weight == z.cnt) = some (seq, x) →
      let at_ := spliceOff k.val seq
      let d := s.dev.modTile n fun t =>
        { t with smem := cwrite t.smem at_ (x.sums.flatMap fun v => leBytes 4 v.value), bad := coveredWords t.bad at_ 256 }
      exec (.spliceEntryComplete tile k) s = now (d.modTile n fun t => t.modSplice k.val fun y =>
        { y with entries := mset y.entries seq { x with done := true, sums := [] } }))

/-- R288, R289: a send that has waited STALL_LIMIT cycles, a strand's or the matrix engine's, sends a probe to its destination's tile; one on a remote queue is counted
there and sends none. A probed tile that finds the waiter gone, or no send of its own stalled on the waiter's tile, counts
the probe; two sends each stalled on the other's tile are recorded as a MUTUAL_STALL and handled. -/
def Obligations.StallProbes : Prop :=
  ∀ (s : State) (tile : TileId) (k : Option StrandId) (w : StallWait), s.dev.live = true →
    let n := tile.val
    let limit := s.dev.stallLimit n
    let r := (s.dev.tile n).route w.frond w.entry
    let k' := match k with | some x => x.val | none => 8
    ((s.dev.tile n).stallWait limit k' = some w → w.since + limit * ((s.dev.tile n).probesOf w + 1) ≤ s.dev.tick →
      let d := s.dev.modTile n fun t => t.probeSent w
      (r.remote = true → exec (.stallProbe tile k) s = .next { s with dev := d.msgCount n 6 1 }) ∧
      (r.remote = false → r.mcast = false →
        exec (.stallProbe tile k) s =
          .next { s with dev := d.inject n { d.mkFlit n .c w.frond 0 r.dest 0
            (.probe k' r.index n (w.frond * 128 + w.entry)) with seq := r.epoch } })) ∧
    (∀ f rest who q a e, s.dev.oldestIs n f rest → f.body = .probe who q a e →
      let d := s.dev.took n rest
      ((d.tile a).stallWait (d.stallLimit a) who = none →
        exec (.stallProbeArrive tile) s = .next { s with dev := d.msgCount n 6 1 }) ∧
      ((d.tile a).stallWait (d.stallLimit a) who = some w → w.frond * 128 + w.entry = e →
        (∀ v, d.stalledTo n a = some v → ¬ (n = a ∧ v.who = w.who) →
          let rec_ : FltRec := { cls := 7, sev := 3, part := (d.tile n).part, tile := some a,
                                 detail := leBytes 1 a ++ leBytes 1 who ++ leBytes 1 q ++ [0] ++ leBytes 1 n ++ leBytes 1 v.who ++
                                   leBytes 1 ((d.tile n).route v.frond v.entry).index ++ [0] ++ leBytes 4 (min (d.tick - w.since) (2 ^ 32 - 1)) }
          exec (.stallProbeArrive tile) s = .next { s with dev := ((d.log rec_).stallHandle a w).stallHandle n v }) ∧
        (d.stalledTo n a = none → ((d.tile a).route w.frond w.entry).type ≠ rtQueue →
          exec (.stallProbeArrive tile) s = .next { s with dev := d.msgCount n 6 1 })))

/-- R312 to R317, R321, R322, R324, R326: an output sends the flit that its class's rule names (the earliest injected of class C, the
inputs in turn within the data-path class that its round serves) and hitch tokens at once; a flit that passes its CRC goes on at
the next router, and one that fails it waits there for a replay, which is counted, and whose eighth failure in a row fails the channel; a reduction entry that holds one contribution
of every input sends their sum, once there is room for it, or gives it to the tile it is for. What a lane's replays bring in as a spare
(R506) is the meter's to note. -/
def Obligations.MeshMoves : Prop :=
  ∀ (s : State) (r : RouterId) (dir : Dir), s.dev.live = true →
    let now (d : Dev) : Host.Outcome State Fault Refusal := .next (s.metered d)
    let laneTo (x : Nat) (o : Dir) (cls : FClass) (g : Lane → Lane) := s.dev.modRouter x fun y => y.modChan o fun z => z.modLane cls g
    (∀ cls f rest r' o, meshSource r.val dir = some (r', o) → (((s.dev.router r').chan o).lane cls).fly = f :: rest →
      (((s.dev.router r').chan o).lane cls).wait = false →
      exec (.flitReceive r dir cls true) s = now ((laneTo r' o cls fun l => { l with fly := rest, replays := 0 }).takeFlit r.val dir f) ∧
      (∀ n, s.dev.hostOf r.val = some n → exec (.flitReceive r dir cls false) s =
        now ((laneTo r' o cls fun l => { l with wait := true }).add (MESH_R_ERR_CRC n) 1))) ∧
    (∀ i f, s.dev.nextFlit r.val dir .c = some (i, f) → exec (.flitForward r dir .c) s = now (s.dev.sendOn r.val i f)) ∧
    (∀ cls k, cls ∈ [FClass.m, .q, .g, .t] → s.dev.dataClass r.val dir = some k →
      (k ≠ cls → exec (.flitForward r dir cls) s = now s.dev) ∧
      (∀ i f, k = cls → s.dev.nextFlit r.val dir cls = some (i, f) → exec (.flitForward r dir cls) s = now (s.dev.sendOn r.val i f))) ∧
    (∀ i f h k n, s.dev.ready r.val dir .hitch = [(i, f)] → f.body = .hitch h k → f.dests = [n] → s.dev.nextDir r.val n = dir →
      exec (.flitForward r dir .hitch) s = now ((s.dev.modRouter r.val fun x => x.dropHead i f).leaveBy r.val f (dir, [n]))) ∧
    (∀ cls f rest r' i, (((s.dev.router r.val).chan dir).lane cls).wait = true → (((s.dev.router r.val).chan dir).lane cls).fly = f :: rest →
      meshNeighbour r.val dir = some (r', i) →
      let d := (s.dev.countReplay r.val dir).laneReplay r.val dir
      (((d.router r.val).chan dir).failed = true → ∀ ok, exec (.flitReplay r dir cls ok) s = now d) ∧
      (((d.router r.val).chan dir).failed = false →
      exec (.flitReplay r dir cls true) s = now ((d.modRouter r.val fun x => x.modChan dir fun y => y.modLane cls fun l =>
        { l with fly := rest, wait := false, replays := 0 }).takeFlit r' i f) ∧
        (∀ n, s.dev.hostOf r' = some n → d.hostOf r' = some n →
          let k := (((s.dev.router r.val).chan dir).lane cls).replays + 1
          let e := (d.modRouter r.val fun x => x.modChan dir fun y => y.modLane cls fun l => { l with replays := l.replays + 1 }).add
            (MESH_R_ERR_CRC n) 1
          exec (.flitReplay r dir cls false) s = now (if 8 ≤ k then e.failChannel r.val dir else e)))) ∧
    (∀ (z : TileId × Fin 16) (i j : Dir) (f g : Flit) (e : Reduction), (s.dev.router r.val).red z.1.val z.2.val = some e →
      (allDirs.filter fun x => e.inputs.contains x) = [i, j] → e.inputs.length = 2 → e.revoked = false → i ≠ j →
      e.bufs = [(i, f), (j, g)] → contribSeq f = contribSeq g →
      ∀ sum, combine [f, g] = some sum →
        let drop (o : Dir) (x : Flit) (l : List (Dir × Flit)) := dropFirst (fun y => y == (o, x)) l
        let d := s.dev.modRouter r.val fun x => { x with reds := x.reds.map fun y =>
          if y.1 = z.1.val * 16 + z.2.val then (y.1, { y.2 with bufs := drop j g (drop i f y.2.bufs) }) else y }
        (s.dev.nextDir r.val z.1.val ≠ .l → (((s.dev.router r.val).inputQ .l .g).filter fun x => !x.mcast).length < 8 →
          exec (.reductionCombine r z) s = now ((d.modRouter r.val fun x => x.setInputQ .l .g (x.inputQ .l .g ++ [sum])).refill r.val)) ∧
        (s.dev.nextDir r.val z.1.val = .l →
          exec (.reductionCombine r z) s = now ((d.leaveBy r.val sum (.l, [z.1.val])).refill r.val)))

/-! ## Partitions and their regions (R261 to R263, R333 to R366, R440 to R448) -/

/-- R441, R442, R444, R446: CREATE of a FREE partition over free tiles, after READY, gives its tiles to it in one cycle, with a new
memory key and key pair, and it is OPEN; it is refused for an empty rectangle, a tile not free, or another state. SEAL of an OPEN
partition whose configuration is right records CONFIG_DIGEST and SEALs it, admitting from its host schedule where ADMISSION is
effective (R77). TEARDOWN of an OPEN or SEALED one begins its clearing
and refuses any other; a tile whose clear has ended is zero and in no partition (a command for a tile that is not being cleared does nothing; other tiles
keep all they hold where no word of it was uncorrectable), one that cannot be cleared is fenced, and the
partition is FREE once no tile is left in it. -/
def Obligations.PartitionLife : Prop :=
  ∀ (s : State) (part : PartId) (cred : Cred), s.dev.live = true → part.val ≠ 0 → isOwner cred = true →
    let p := part.val
    let d := s.dev
    let now (d : Dev) : Host.Outcome State Fault Refusal := .next (s.metered (d.completed stOk 0))
    let tiles := d.rectList p
    let busy (n : Nat) : Bool := (d.tile n).part != 0 || (d.tile n).fenced || (d.tile n).clearing
    let empty : Prop := (d.rectOf p).2.2.1 < (d.rectOf p).1 ∨ (d.rectOf p).2.2.2 < (d.rectOf p).2.1
    (d.partState p ≠ 0 ∨ d.get DMC_STATUS_STAGE ≠ 4 → exec (.create cred part) s = now (d.partRefuse p 3)) ∧
    (d.partState p = 0 → d.get DMC_STATUS_STAGE = 4 →
      (empty → exec (.create cred part) s = now (d.partRefuse p 1)) ∧
      (¬ empty → tiles.any busy = true → exec (.create cred part) s = now (d.partRefuse p 2)) ∧
      (¬ empty → tiles.any busy = false →
        let given := tiles.foldl (fun d n => d.modTile n fun t => { t with part := p }) d
        let keyed := given.modPart p fun x =>
          { Part.init with pinst := x.pinst + 1, curKey := ⟨given.mem.nextKey⟩, ekSerial := 1, ek := given.sec.nonces + 1 }
        let drawn : Dev := { keyed with mem := { keyed.mem with nextKey := keyed.mem.nextKey + 1 },
                                        sec := { keyed.sec with nonces := keyed.sec.nonces + 1 } }
        exec (.create cred part) s = now ((drawn.set (PART_P_STATE_EXPOSURES p) 0).set (PART_P_STATE_STATE p) 1))) ∧
    (d.partState p ≠ 1 → exec (.seal cred part) s = now (d.partRefuse p 3)) ∧
    (d.partState p = 1 → d.sealBad p = true → exec (.seal cred part) s = now (d.partRefuse p 5)) ∧
    (d.partState p = 1 → d.sealBad p = false →
      let put := (d.setDigest (PART_P_CDIGEST_V p) (sha3 (d.configBytes p))).set (PART_P_STATE_STATE p) 2
      exec (.seal cred part) s = now (if put.duty 1 = true then put.flag (ADM_P_STATUS_HOST_SCHEDULE p) true else put)) ∧
    (d.partState p ≠ 1 → d.partState p ≠ 2 → exec (.teardown cred part) s = now (d.partRefuse p 3)) ∧
    (d.partState p = 1 ∨ d.partState p = 2 → exec (.teardown cred part) s = now (d.teardownPart p)) ∧
    (∀ (tile : TileId) (ok : Bool), (d.tile tile.val).clearing = false ∨ (d.tile tile.val).part = 0 →
      exec (.tileClearDone tile ok) s = .next (s.metered d)) ∧
    (∀ tile : TileId, (d.tile tile.val).clearing = true → (d.tile tile.val).part ≠ 0 →
      (∃ u, exec (.tileClearDone tile true) s = .next u ∧
        ((d.tile tile.val).bad = [] → TilesBut s u tile.val) ∧ (u.dev.tile tile.val).part = 0 ∧
        (u.dev.tile tile.val).clearing = false ∧ (u.dev.tile tile.val).scratch = [] ∧ (u.dev.tile tile.val).acc = [] ∧
        (u.dev.tile tile.val).fstore = [] ∧ (u.dev.tile tile.val).qmem = [] ∧ (u.dev.tile tile.val).smem = [] ∧
        (u.dev.tile tile.val).desc = [] ∧ (u.dev.tile tile.val).strands = [] ∧ (u.dev.tile tile.val).routes = []) ∧
      exec (.tileClearDone tile false) s =
        .next (s.metered ((d.modTile tile.val fun t => { t with part := 0 }).fence tile.val 4))) ∧
    (d.partState p = 3 → d.tilesOf p = [] →
      let d := (d.setRegionState p 0).clearRegs (PART_P_CDIGEST p 0) (PART_P_CDIGEST p 8)
      let d := (d.flag (PART_P_STATE_EXPOSED p) false).flag (PART_P_STATE_OWNER_KEY p) false
      exec (.teardownComplete part) s = .next (s.metered ((d.clearF (PART_P_EXPTIME_V p)).set (PART_P_STATE_STATE p) 0)))

/-- R333, R345 to R348, R350, R351, R445: LOAD holds the region's tiles and begins its check; it is refused unless the partition is
SEALED (LOAD_DENIED) and the region EMPTY, LOADED or DRAINED (LOAD_BUSY), and ABORT ends it. A check whose header, table, claims
and ranges are right clears the region and it is LOADING, with SECTION 0; the sections are written in order, SECTION naming the next one, and the last one makes it VERIFYING; the
digest, the expected digest and the further checks decide between LOADED and CLEARING, which ends EMPTY. -/
def Obligations.RegionLoad : Prop :=
  ∀ (s : State) (part : PartId) (cred : Cred), s.dev.live = true → mayCommand cred part.val = true →
    let p := part.val
    let d := s.dev
    let r := d.region p
    let now (d : Dev) : Host.Outcome State Fault Refusal := .next { s with dev := d }
    let nowM (d : Dev) : Host.Outcome State Fault Refusal := .next (s.metered d)
    let st := d.regionState p
    let sec := sectAt r.img r.sect
    let took (v : Nat) := (d.take (PART_P_RCMD_EXPECT p) v).take (PART_P_RCMD_SOURCE p) v
    (∀ v : Word, let w := setBits v.toNat 0 0 1
      bit w 1 = 0 → bit w 5 = 0 → bits w 3 2 ≤ 1 →
      ∃ u, exec (.regionLoad cred part v) s = .next u ∧ u.dev = ((took w).loadCmd p).completed stOk 0 ∧
        (d.sealed p = false → u.dev.get (PART_P_RSTATUS_RESULT p) = 0x11 ∧ u.dev.regionState p = st) ∧
        (d.sealed p = true → st ≠ 0 → st ≠ 4 → st ≠ 7 → u.dev.get (PART_P_RSTATUS_RESULT p) = 0x10 ∧ u.dev.regionState p = st) ∧
        (d.sealed p = true → st = 0 ∨ st = 4 ∨ st = 7 → u.dev.get (PART_P_RSTATUS_RESULT p) = 0 ∧ u.dev.regionState p = 1)) ∧
    (st = 1 ∨ st = 2 ∨ st = 3 → d.rcmdNow p < 32 →
      exec (.regionAbort cred part) s = now (((took (d.rcmdNow p + 2)).loadFail p 0x12 0 (if st = 2 then r.sect else 0xFFFF)).completed stOk 0)) ∧
    (st = 1 → r.stream = true → r.img.length < 128 →
      (r.ended = false → exec (.regionCheckDone part) s = nowM d) ∧
      (r.ended = true → exec (.regionCheckDone part) s = nowM (d.loadFail p 1 0 0xFFFF))) ∧
    (∀ e, st = 1 → r.stream = true → 128 ≤ r.img.length → d.headerCheck p r.img = some e →
      exec (.regionCheckDone part) s = nowM (d.loadFail p e 0 0xFFFF)) ∧
    (∀ cs, st = 1 → r.stream = true → 128 ≤ r.img.length → d.headerCheck p r.img = none → imgHead r.img + 64 ≤ imgLength r.img →
      imgHead r.img ≤ r.img.length → tableOk r.img (d.rectList p) = true → checkBytes r.img ≤ r.img.length →
      d.readClaims r.img = some cs → rangesApart ((imgSects r.img).filterMap Sect.lines ++ cs.map fun c => (c.1, c.2.start, c.2.count)) = true →
      let cleared := d.clearRegion p cs (d.is (PART_P_CFG_MAP p))
      exec (.regionCheckDone part) s =
        nowM (((cleared.modRegion p fun y => { y with claims := cs, sect := 0 }).setRegionState p 2).set (PART_P_RSTATUS_SECTION p) 0)) ∧
    (∀ u, st = 2 → d.loadTake p sec.off sec.size (if sec.tile < 256 then some sec.tile else none) = (u, true) →
      let b := (u.region p).img
      sec.off + sec.size ≤ b.length →
      (sec.layoutOk b = false → exec (.imageSectionWrite part) s = nowM (u.loadFail p 2 0 r.sect)) ∧
      (sec.layoutOk b = true →
        let put := (u.putSect p b sec).modRegion p fun r => { r with sect := r.sect + 1 }
        exec (.imageSectionWrite part) s = nowM (if r.sect + 1 = imgCount b then put.setRegionState p 3
          else put.set (PART_P_RSTATUS_SECTION p) (r.sect + 1)))) ∧
    (∀ u, st = 3 → d.loadRest p = (u, true) → imgLength r.img ≤ (u.region p).img.length →
      let len := imgLength (u.region p).img
      let b := (u.region p).img.take len
      let dig := slice b (len - 64) 64
      let want := (List.range 8).flatMap fun k => leBytes 8 (u.get (PART_P_RDIGEST_EXP_V p k))
      let d := u.modRegion p fun r => { r with img := b }
      (sha3 (b.take (len - 64)) ≠ dig → exec (.regionVerify part) s = now (d.loadFail p 9 0 0xFFFF)) ∧
      (sha3 (b.take (len - 64)) = dig → u.is (PART_P_RCMD_EXPECT p) = true → want ≠ dig →
        exec (.regionVerify part) s = now (d.loadFail p 0xA 0 0xFFFF)) ∧
      (sha3 (b.take (len - 64)) = dig → u.is (PART_P_RCMD_EXPECT p) = false ∨ want = dig →
        d.configCheck p b (d.rectList p) (d.region p).claims = none → d.meshCheck b = none → d.timingCheck p b = none →
        d.resourceOk b = true → exec (.regionVerify part) s = now (d.loadDone p))) ∧
    (st = 8 → d.partState p ≠ 3 →
      let cleared := d.clearRegion p [] (d.is (PART_P_CFG_MAP p))
      let freed := (cleared.tilesOf p).foldl (fun d n => d.modTile n fun t => { t with held := false }) cleared
      exec (.regionClearDone part) s = nowM ((freed.modRegion p fun r => { Region.init with lanes := r.lanes }).setRegionState p 0)) ∧
    (st = 2 → r.stream = true → r.img.length < imgLength r.img → r.lastByte + 105000000 ≤ d.tick →
      exec (.loadStreamTimeout part) s = now (d.loadFail p 1 0 r.sect))

/-- R352, R359 to R363: GO keeps the instant and START, when it comes, launches the region. A drain begins on a RUNNING region in the
mode written; it completes once the partition holds nothing, and otherwise ends STUCK at its limit, with the tiles not empty
counted and a record. RESUME lets a DRAINED region run on unless it FAULTED; RESTART, unless a tile of it is fenced, resets it and
launches it anew. A command without the owner's, the controller's or the tenant's credential is DENIED and changes nothing. -/
def Obligations.RegionRuns : Prop :=
  ∀ (s : State) (part : PartId) (cred : Cred), s.dev.live = true →
    let p := part.val
    let d := s.dev
    let now (d : Dev) : Host.Outcome State Fault Refusal := .next { s with dev := d }
    let st := d.regionState p
    let rc (v : Nat) := (d.take (PART_P_RCMD_EXPECT p) v).take (PART_P_RCMD_SOURCE p) v
    let dr (v : Nat) := ((d.take (PART_P_DRAIN_LIMIT p) v).take (PART_P_DRAIN_MODE p) v).take (PART_P_DRAIN_REOPEN p) v
    (mayCommand cred p = false → ∀ (v : Word) (b : Bool), ∀ c ∈ ([.regionLoad cred part v, .regionAbort cred part, .regionGo cred part,
        .switchCommand cred part v, .drainStart cred part v, .resume cred part, .restart cred part b] : List Instr),
      exec c s = now { d with bus := ⟨stDenied, 0⟩ }) ∧
    (mayCommand cred p = true →
      (st = 4 → d.rcmdNow p < 32 →
        let t := d.get (PART_P_RSTART_SECOND p) * 1050000000 + d.get (PART_P_RSTART_CYCLE p)
        exec (.regionGo cred part) s = now (((rc (d.rcmdNow p + 32)).modRegion p fun r => { r with goAt := some t }).completed stOk 0)) ∧
      (∀ v : Word, let w := setBits v.toNat 0 0 1
        st = 5 → bits w 5 4 ≤ 1 → bit w 1 = 0 → bit w 2 = 0 →
        exec (.drainStart cred part v) s = now (((dr w).beginDrain p (bits w 5 4) false).completed stOk 0)) ∧
      (st = 7 → d.is (PART_P_RSTATUS_FAULTED p) = false →
        let d := ((dr (d.drainNow p + 2)).flag (PART_P_RSTATUS_STUCK p) false).flag (ADM_P_CTRL_HOLD p) false
        exec (.resume cred part) s = now (((d.wakeRegion p).setRegionState p 5).completed stOk 0)) ∧
      (st ≠ 7 ∨ d.is (PART_P_RSTATUS_FAULTED p) = true →
        exec (.resume cred part) s = now (((dr (d.drainNow p + 2)).flag (PART_P_RSTATUS_REFUSED p) true).completed stOk 0)) ∧
      (∀ b, let v := setBits (d.drainNow p) 3 3 (boolBit b) + 4
        (st ≠ 7 → exec (.restart cred part b) s = now (((dr v).flag (PART_P_RSTATUS_REFUSED p) true).completed stOk 0)) ∧
        (st = 7 → (d.tilesOf p).any (fun n => (d.tile n).fenced) = false →
          exec (.restart cred part b) s = now (((dr v).restart p).completed stOk 0) ∧ ((dr v).restart p).regionState p = 5))) ∧
    (∀ t, (d.region p).goAt = some t → st = 4 → t ≤ lastTime →
      let run := (d.toTime t).launch p t
      exec (.regionStart part) s = now ((run.tilesOf p).foldl (fun d n => d.announce n) run) ∧ run.regionState p = 5) ∧
    (st = 6 → d.drained p = true →
      let d := ((d.flag (PART_P_RSTATUS_STUCK p) false).set (PART_P_DSTATUS_NOT_EMPTY p) 0).set (PART_P_DSTATUS_FIRST_STUCK p) 0
      exec (.drainComplete part) s = now (d.drainEnd p)) ∧
    (st = 6 → d.drained p = false → (d.region p).drainAt + d.get (PART_P_DRAIN_LIMIT p) ≤ d.tick →
      let bad := d.notEmpty p
      let d := (d.flag (PART_P_RSTATUS_STUCK p) true).set (PART_P_DSTATUS_NOT_EMPTY p) bad.length
      let d := (d.set (PART_P_DSTATUS_FIRST_STUCK p) (bad.headD 0)).log
        { cls := 0xA, sev := 3, part := p, detail := leBytes 2 bad.length ++ leBytes 1 (bad.headD 0) }
      exec (.drainLimit part) s = now (d.drainEnd p))

/-- R354 to R358: an instant of the fold plan or of a command switch that has come reaches the tiles of its rectangle and moves on by
the period; a tile in RUN begins its switch, which waits for the old frond to drain under RETIRE, for its completions and sends,
takes 16 cycles, and ends with the new frond active, started if it has not run; steps that waited are then taken in order until one
begins another switch. A command switch over tiles of the partition that
hold the frond is kept until its time, and any other is REFUSED. -/
def Obligations.Folds : Prop :=
  ∀ (s : State) (part : PartId) (tile : TileId), s.dev.live = true →
    let p := part.val
    let n := tile.val
    let d := s.dev
    let t := d.tile n
    let now (d : Dev) : Host.Outcome State Fault Refusal := .next { s with dev := d }
    let st := d.regionState p
    (∀ (i : Fin 256) x, st = 5 ∨ st = 6 ∨ st = 7 → (d.region p).steps[i.val]? = some x → x.due ≤ d.now → x.due ≤ lastTime →
      let moved := d.modRegion p fun r => { r with steps := lset r.steps i.val { x with due := x.due + r.period } }
      exec (.foldInstant part (some i)) s = now (moved.foldStepAt p x (some i.val))) ∧
    (∀ x, st = 5 ∨ st = 6 ∨ st = 7 → (d.region p).switches = [x] → x.due ≤ d.now → x.due ≤ lastTime →
      exec (.foldInstant part none) s = now ((d.modRegion p fun r => { r with switches := [] }).foldStepAt p x none)) ∧
    (∀ f, t.foldSt = .drainOld → t.active = some f → t.noEntries f = true →
      exec (.foldOldDrained tile) s = now (d.modTile n fun t => { t with foldSt := .wait })) ∧
    (∀ f r, t.foldSt = .wait → t.foldReq = some r → t.active = some f →
      (t.switchReady f = false → exec (.foldSwitchBegin tile) s = now d) ∧
      (t.switchReady f = true → exec (.foldSwitchBegin tile) s =
        now ((d.set (TILE_FOLD_LATE_V n) (max (d.get (TILE_FOLD_LATE_V n)) (d.now - r.instant))).modTile n fun t =>
          { t with foldSt := .switch, switchAt := d.tick }))) ∧
    (∀ f r, t.foldSt = .switch → t.foldReq = some r → t.active = some f → t.switchAt + 16 ≤ d.tick →
      let left := if r.mode = .park then d
        else (if r.mode = .forced then d.forceOut n f else d).modTile n fun t => t.retire f
      let entered := left.modTile n fun t =>
        let t := { t with active := some r.frond, foldSt := .run, foldReq := none, lastIssued := 7 }
        let t := t.modFrond r.frond fun x => if x.retired = true then { x with retired := false, gen := (x.gen + 1) % 256 } else x
        if (t.frond r.frond).ran = true then t else t.startFrond r.frond
      let d := (entered.add (TILE_FOLD_SWITCHES_V n) 1).wakeAll n
      ((d.tile n).foldWait = [] → exec (.foldSwitchEnd tile) s = now d) ∧
      (∀ x rest, (d.tile n).foldWait = x :: rest →
        let u := (d.modTile n fun t => { t with foldWait := rest }).foldAt n x
        exec (.foldSwitchEnd tile) s = now (if (u.tile n).foldSt = .run then u.foldNext n rest else u))) ∧
    (∀ (cred : Cred) (v : Word), mayCommand cred p = true →
      let w := setBits v.toNat 0 0 1
      let d := (((d.take (PART_P_SWITCH_RECT p) w).take (PART_P_SWITCH_FROND p) w).take (PART_P_SWITCH_MODE p) w).w1c
        (PART_P_SWITCH_REFUSED p) w
      let rect := d.get (PART_P_SWITCH_RECT p)
      let f := d.get (PART_P_SWITCH_FROND p)
      let m := d.get (PART_P_SWITCH_MODE p)
      let fits : Prop := bits rect 15 12 ≤ bits rect 7 4 ∧ bits rect 11 8 ≤ bits rect 3 0 ∧ m ≤ 2 ∧
        ∀ n ∈ rectTiles (bits rect 15 12) (bits rect 11 8) (bits rect 7 4) (bits rect 3 0), (d.tile n).part = p ∧ ((d.tile n).frond f).loaded = true
      let x : FoldStep := ⟨0, bits rect 15 12, bits rect 11 8, bits rect 7 4, bits rect 3 0, f, m, unpackTime (d.get (PART_P_SWTIME_V p))⟩
      (fits → exec (.switchCommand cred part v) s =
        now ((d.modRegion p fun r => { r with switches := r.switches ++ [x] }).completed stOk 0)) ∧
      (¬ fits → exec (.switchCommand cred part v) s = now ((d.flag (PART_P_SWITCH_REFUSED p) true).completed stOk 0)))
/-! ## Registers, the duty map and device time (R11 to R15, R22, R30 to R34, R43 to R57, R406, R568) -/

/-- R11 to R13, R15, R22, R23: an access of another width or alignment finds no register and completes UNMAPPED; a write reaches the
register at its address (FLT_SCRUB_CFG takes an INTERVAL from 16 to 1,024 from the owner, keeps its value under any other value,
and answers DENIED to any other credential), and a read that its credential allows answers the register's value and clears its
read-clear fields. -/
def Obligations.RegisterAccess : Prop :=
  ∀ (s : State) (cred : Cred) (addr width : Nat) (v : Word) (r : RegAt), s.dev.live = true →
    let d := s.dev
    let a := canonAddr addr
    let answers (d : Dev) (st : Byte) (x : Nat) : Host.Outcome State Fault Refusal := .next (s.metered (d.completed st x))
    (width ≠ 8 ∨ addr % 8 ≠ 0 → exec (.registerWrite cred addr width v) s = .next { s with dev := d.completed stUnmapped 0 }) ∧
    (width ≠ 8 ∨ addr % 8 ≠ 0 → exec (.readClear cred ⟨addr, width⟩) s = .next { s with dev := d.completed stUnmapped 0 }) ∧
    (addr % 8 = 0 → d.winShut addr = false → d.dmcBusy a = false → findReg a = some r →
      (inMeterPage a = false →
        let out := d.regWr s.mtr cred a v.toNat r
        exec (.registerWrite cred addr 8 v) s = answers out.1 out.2 0) ∧
      (d.mayRead cred r = false → exec (.readClear cred ⟨addr, 8⟩) s = answers d stDenied 0) ∧
      (d.mayRead cred r = true → ¬ (0xFF0600000000 ≤ a ∧ a < 0xFF0601000000) →
        let value := d.regValue s.mtr a r
        let cleared := (r.fields.filter fun f => f.acc == .rc).foldl (fun d f => d.set ⟨a, f.hi, f.lo, f.rst⟩ 0) d
        exec (.readClear cred ⟨addr, 8⟩) s = answers cleared stOk value)) ∧
    (let x := FLT_SCRUB_CFG_INTERVAL.of v.toNat
     (isOwner cred = true → 16 ≤ x → x ≤ 1024 →
       exec (.registerWrite cred FLT_SCRUB_CFG 8 v) s = .next { s with dev := (d.set FLT_SCRUB_CFG_INTERVAL x).completed stOk 0 }) ∧
     (isOwner cred = true → x < 16 ∨ 1024 < x →
       exec (.registerWrite cred FLT_SCRUB_CFG 8 v) s = .next { s with dev := d.completed stOk 0 }) ∧
     (isOwner cred = false → exec (.registerWrite cred FLT_SCRUB_CFG 8 v) s = .next { s with dev := d.completed stDenied 0 }))

/-- R31 to R33: a write of the duty map by the owner makes the changes of its fields in turn; a change of field k that is pending
takes effect at its point, and a field with none has no effect. A write that changes one field alone (not SPARING, whose change also lets a waiting repair go on) is
refused with a REASON where its precondition does not hold; ADMISSION, TILING_WALK and KEY_SWEEP change at once, every other
field is marked PENDING and changes at its point: SCRUB between two lines, METER_DELIVERY between two records, TIME_DISCIPLINE at
the next second boundary, and the others within the commands that are their points. Without the owner's credential nothing changes but the marks REFUSED with
REASON 3 of the fields that the write would change. -/
def Obligations.DutyMap : Prop :=
  ∀ (s : State) (cred : Cred) (v : Word) (k : Fin 12), s.dev.live = true → k.val ≠ 4 →
    let d := s.dev
    let b := bit v.toNat k.val == 1
    let now (d : Dev) : Host.Outcome State Fault Refusal := .next (s.metered d)
    let mark (d : Dev) (x : Nat) := d.set DMC_DUTY_STATE_PENDING (setBits (d.get DMC_DUTY_STATE_PENDING) k.val k.val x)
    (d.is (dutyField k.val) ≠ b → (∀ j, j < 12 → j ≠ k.val → d.is (dutyField j) = (bit v.toNat j == 1)) →
      (isOwner cred = true → d.dutyReason k.val b ≠ 0 →
        exec (.dutyMapWrite cred v) s = now ((d.dutyRefuse k.val (d.dutyReason k.val b)).completed stOk 0)) ∧
      (isOwner cred = true → d.dutyReason k.val b = 0 → d.duty k.val ≠ b →
        let d := d.flag (dutyField k.val) b
        let d : Dev := { d with dmcPend := (d.dmcPend.filter fun x => x.1 != k.val) ++ [(k.val, b)] }
        (k.val ∉ [1, 2, 7] → exec (.dutyMapWrite cred v) s = now ((mark d 1).completed stOk 0)) ∧
        (k.val ∈ [1, 2, 7] → exec (.dutyMapWrite cred v) s = now (((mark d 1).applyPend k.val).completed stOk 0))) ∧
      (isOwner cred = false → exec (.dutyMapWrite cred v) s = now ((d.dutyRefuse k.val 3).completed stDenied 0))) ∧
    (isOwner cred = true →
      exec (.dutyMapWrite cred v) s =
        now (((List.range 12).foldl (fun d j => d.dutyWrite j (bit v.toNat j == 1)) d).completed stOk 0)) ∧
    (d.dmcPend.any (fun e => e.1 == k.val) = false → exec (.dutyChangeEffect k) s = now d) ∧
    (d.dmcPend.any (fun e => e.1 == k.val) = true → k.val = 3 ∨ (k.val = 11 ∧ d.nop.meterSent = []) →
      exec (.dutyChangeEffect k) s = now (d.applyPend k.val)) ∧
    (∀ b, d.dmcPend = [(k.val, b)] →
      let u := d.set DMC_DUTY_STATE_EFFECTIVE (setBits (d.get DMC_DUTY_STATE_EFFECTIVE) k.val k.val (boolBit b))
      let due : Prop := k.val = 3 ∨ (k.val = 11 ∧ d.nop.meterSent = [])
      (due → exec (.dutyChangeEffect k) s = now { (mark u 0) with dmcPend := [] }) ∧
      (k.val = 8 → exec (.dutyChangeEffect k) s = now d.toSecond) ∧
      (¬ due → k.val ≠ 8 → exec (.dutyChangeEffect k) s = now d))

/-- R45 to R57, R406, R568: TIME_SET arms unless a partition is in service; the next cycle 0, to which the count moves, applies or
refuses it, and in the last second the count stops instead; a stopped count takes or refuses the set at once. TIME_CTRL takes its
fields, with a change of PTP_PORT clearing PTP_LOCK; TIME_STEER, under host steering, is clamped, waits for cycle 0 and takes FREE
or HOLDOVER to ACQUIRE; the three are DENIED to any credential but the owner's. A pulse, compensated by PPS_COMP and heeded at the later of
its two instants, that lies outside the window (except in FREE) is only noted; one inside it gives LAST_OFFSET and, but for host
steering, drives the loop; a missing one is noted as its window closes. PPS_OUT falls after its time; PTP_LOCK goes 2 s after the
last Sync; on a port at least LINKED PTP frames are timestamped and relayed, and delay requests answered. -/
def Obligations.TimeKeeping : Prop :=
  ∀ (s : State) (cred : Cred) (v : Word) (port : PortId), s.dev.live = true →
    let d := s.dev
    let n := port.val
    let now (d : Dev) : Host.Outcome State Fault Refusal := .next { s with dev := d }
    let taken := (d.take TIME_SET_SECOND v.toNat).take TIME_SET_SOURCE v.toNat
    (isOwner cred = false → ∀ c ∈ ([.timeSet cred v, .timeCtrlWrite cred v, .timeSteerWrite cred v] : List Instr),
      exec c s = now (d.completed stDenied 0)) ∧
    (isOwner cred = true →
      (TIME_SET_ARM.of v.toNat = 0 → exec (.timeSet cred v) s = now (taken.completed stOk 0)) ∧
      (TIME_SET_ARM.of v.toNat = 1 → taken.anyInService = false →
        exec (.timeSet cred v) s = now ((taken.flag TIME_SET_ARM true).completed stOk 0)) ∧
      (TIME_SET_ARM.of v.toNat = 1 → taken.anyInService = true →
        exec (.timeSet cred v) s = now (((taken.flag TIME_SET_ARM false).flag TIME_EVENTS_SET_REFUSED true).completed stOk 0))) ∧
    exec .secondBoundary s = now d.toSecond ∧
    (d.time.exhausted = false → d.now / 1050000000 < 2 ^ 32 - 1 → d.toSecond.now % 1050000000 = 0) ∧
    (d.is TIME_SET_ARM = false → exec .timeSetApply s = now d) ∧
    (d.is TIME_SET_ARM = true → d.time.exhausted = false → exec .timeSetApply s = now d.toSecond) ∧
    (d.is TIME_SET_ARM = true → d.time.exhausted = true →
      ((d.setSecond (2 ^ 32 - 1)).isSome = true →
        exec .timeSetApply s = now (({ d with time := { d.time with exhausted := false } } : Dev).secondBegin (2 ^ 32 - 1))) ∧
      (d.setSecond (2 ^ 32 - 1) = none →
        exec .timeSetApply s = now (((d.flag TIME_SET_ARM false).flag TIME_EVENTS_SET_REFUSED true).requality))) ∧
    (d.time.exhausted = false → d.now / 1050000000 = 2 ^ 32 - 1 →
      ∃ u, exec .timeExhausted s = .next u ∧ u.dev.now = 2 ^ 32 * 1050000000 - 1 ∧ u.dev.time.exhausted = true) ∧
    (isOwner cred = true →
      let x := ((d.take TIME_CTRL_HOLD_PPB v.toNat).take TIME_CTRL_PPS_COMP v.toNat).take TIME_CTRL_PTP_PORT v.toNat
      let x := x.take TIME_CTRL_PPS_OUT_EN v.toNat
      let x := if TIME_CTRL_PTP_PORT.of v.toNat ≠ d.get TIME_CTRL_PTP_PORT then x.flag TIME_CTRL_PTP_LOCK false
        else x.take TIME_CTRL_PTP_LOCK v.toNat
      (x.is TIME_CTRL_PPS_OUT_EN = true → exec (.timeCtrlWrite cred v) s = now (x.requality.completed stOk 0)) ∧
      (x.is TIME_CTRL_PPS_OUT_EN = false →
        exec (.timeCtrlWrite cred v) s =
          now (({ x with time := { x.time with ppsOut := false } } : Dev).requality.completed stOk 0))) ∧
    (isOwner cred = true → d.hostSteers = false → exec (.timeSteerWrite cred v) s = now (d.completed stOk 0)) ∧
    (isOwner cred = true → d.hostSteers = true →
      let x := signedOf 32 (TIME_STEER_STEER.of v.toNat)
      let y := max (-25000) (min 25000 x)
      let e := if x.natAbs ≤ 25000 then d else d.flag TIME_EVENTS_STEER_CLAMPED true
      let e := { e with time := { e.time with steerNext := some y, steered := true } }
      let e := if (d.tdState = 0 ∨ d.tdState = 3) ∧ d.time.handover = false then e.tdEnter 1 else e
      exec (.timeSteerWrite cred v) s = now (e.requality.completed stOk 0)) ∧
    (∀ raw : Int, d.ppsHeeded = true →
      let o := raw + signedOf 16 (d.get TIME_CTRL_PPS_COMP)
      let e := d.toEdge (max raw o)
      let ahead := decide (max raw o < 0)
      let slew := if ahead then e.slewLeft else e.time.slew
      let seen := e.set TIME_STATUS_LAST_OFFSET ((max (-32767) (min 32767 o)) % 2 ^ 16).toNat
      let x : Dev := { seen with time := { seen.time with edgeFor := (if ahead then e.now / 1050000000 + 1 else e.now / 1050000000) + 1 } }
      (0 ≤ max raw o → d.now % 1050000000 = (max raw o).toNat → e = d) ∧
      (e.tdState ≠ 0 → e.windowHalf slew < o.natAbs → exec (.ppsEdge raw) s = now (e.flag TIME_EVENTS_PPS_SPURIOUS true)) ∧
      (e.tdState = 0 ∨ o.natAbs ≤ e.windowHalf slew →
        (e.hostSteers = true → exec (.ppsEdge raw) s = now x) ∧
        (e.hostSteers = false → exec (.ppsEdge raw) s = now (x.edgeCaptured o ahead (max raw o - o).toNat)))) ∧
    (d.ppsHeeded = true → d.hostSteers = false →
      let e := d.toTime (d.windowFor * 1050000000)
      let e := e.toTime (e.now / 1050000000 * 1050000000 + e.windowHalf e.time.slew)
      let x : Dev := { e with time := { e.time with edgeFor := e.now / 1050000000 + 1 } }
      exec .ppsMissed s = now ((x.flag TIME_EVENTS_PPS_MISSED true).pulseMissing.requality)) ∧
    (d.ppsHeeded = false ∨ d.hostSteers = true → exec .ppsMissed s = now d) ∧
    (d.ppsHeeded = false → ∀ raw, exec (.ppsEdge raw) s = now d) ∧
    (d.time.ppsOut = true →
      let e := d.toTick (d.time.ppsRose + 105000)
      exec .ppsOutFall s = now { e with time := { e.time with ppsOut := false } }) ∧
    (d.time.ppsOut = false → exec .ppsOutFall s = now d) ∧
    (d.is TIME_CTRL_PTP_LOCK = false → exec .ptpSyncTimeout s = now d) ∧
    (∀ e, d.is TIME_CTRL_PTP_LOCK = true → (d.time.syncs.find? fun e => e.1 == d.get TIME_CTRL_PTP_PORT) = some e →
      exec .ptpSyncTimeout s = now (d.toTime (e.2.at_ + 2 * 1050000000 + 1)).ptpCheck.requality ∧
      (e.2.at_ + 2 * 1050000000 < d.now →
        exec .ptpSyncTimeout s = now ((d.flag TIME_CTRL_PTP_LOCK false).flag TIME_EVENTS_PTP_UNLOCK true).requality)) ∧
    (∀ ev : PtpEvent, 2 ≤ d.ethState n →
      let note (y : SyncRec) : Dev := { d with time := { d.time with syncs := mset d.time.syncs n y } }
      let x := if ev.sync = true then note ⟨d.now, if ev.twoStep then none else some ev.origin.toNat⟩
        else match ev.followUp, d.time.syncs.find? fun e => e.1 == n with
          | true, some e => note { e.2 with origin := some ev.origin.toNat }
          | _, _ => d
      (d.is (ETH_P_CTRL_PTP_EN n) = false → exec (.ptpEventRx port ev) s = now x) ∧
      (d.is (ETH_P_CTRL_PTP_EN n) = true → exec (.ptpEventRx port ev) s = now (x.push 0x54 (ptpRx n ev.frac d.now ev.frame)))) ∧
    (∀ frame, 2 ≤ d.ethState n →
      exec (.peerDelayReq port frame) s = now (d.queueOpen n { TxMsg.init with type := 0x100, payload := Config.pdelayResp frame d.now }))

/-! ## Messages, admission and results (R60 to R77, R411 to R417, R429 to R431) -/

/-- R409, R411, R412, R416: every Nopra message. A datagram for another UDP port, or with a wrong checksum, is dropped as any host drops it (log 33).
Where its port is not UP or its context not open it is discarded and counted;
one that fails authentication is counted; one of another incarnation is discarded, and so is an accepted one that is next in the sequence and of a reserved type. An accepted one that was received before is
acknowledged again and has no other effect, and one beyond the next number is not taken: it is asked for, once. -/
def Obligations.MessageReceipt : Prop :=
  ∀ (s : State) (i : Instr) (h : NHdr) (seqd : Bool), s.dev.live = true → messageOf i = some (h, seqd) →
    let c := h.dctx.val
    let d := s.dev
    let e := d.heard h
    let next := e.get (NOP_CTX_SEQ_NEXT_RX c)
    let now (d : Dev) : Host.Outcome State Fault Refusal := .next { s with dev := d }
    (d.hears h = false → exec i s = now d) ∧
    (d.hears h = true → d.ethState h.port.val ≠ 4 ∨ d.ctxState c ≠ 2 → exec i s = now (d.ctxDrop c 1)) ∧
    (d.hears h = true → d.ethState h.port.val = 4 → d.ctxState c = 2 →
      (h.authOk = false → exec i s = now (d.add (NOP_CTX_COUNT_V c 1) 1)) ∧
      (h.authOk = true → h.incarn ≠ d.get (NOP_CTX_STATE_INCARN c) → exec i s = now (d.ctxDrop c 1))) ∧
    (Accepts d h → h.seqv = true →
      let becomes (d : Dev) : Prop :=
        ∃ u, exec i s = .next u ∧ u.dev = d ∧ u.pending = s.pending ∧ (u.mtr = s.mtr ∨ u.mtr = s.mtr.observe s.dev d)
      (h.seq = next → h.reserved = true → becomes (((e.set (NOP_CTX_SEQ_NEXT_RX c) (next + 1)).ackOwed c).ctxDrop c 1)) ∧
      (h.seq < next → becomes (e.ackOwed c)) ∧
      (next < h.seq → (e.ctx c).nakFor = some next → becomes e) ∧
      (next < h.seq → (e.ctx c).nakFor ≠ some next →
        becomes ((e.ackOwed c).modCtx c fun x => { x with nakDue := true, nakFor := some next })))

/-- R60 to R66, R70, R74 to R76, R429: a request on a HOST context is decided as it arrives. In the order of the model (log 32) it is rejected with
TIME where device time has stopped, for its credential, HOLD, TIME, no class, its lengths, and for a promise later than its deadline;
else it is admitted. Without a host
schedule the promise is s + B + the guard, where s is at least 2,100 cycles away, its lane is free and the class's spacing has
passed; under one it is that of the entry it takes. A best-effort request needs no promise. -/
def Obligations.RequestDecided : Prop :=
  ∀ (s : State) (h : NHdr) (m : ReqMsg) (k : TimingClass), s.dev.live = true →
    Served s.dev h true false (hasLen h (if m.ref then 48 else 32 + 4 * m.lin) && (m.ref || m.tokens.length == m.lin)) →
    let c := h.dctx.val
    let p := m.part.val
    let d := s.dev.inTurn h true
    let r := d.region p
    let now (d : Dev) : Host.Outcome State Fault Refusal := .next { s with dev := d }
    let reject (code : Nat) (t : Option Nat) := exec (.req h m) s = now (d.rejectReq c m code t)
    let admitted (promise start lane : Nat) (entry : Option Nat) := exec (.req h m) s = now (d.admitReq c m promise start lane entry)
    (d.ctxKind c ≠ 2 → exec (.req h m) s = now (d.queueMsg c (mkMsg 0x31 0 c true (decisionBytes m.tag 7 m.cls none)))) ∧
    (d.ctxKind c = 2 →
      (d.get TIME_STATUS_QUALITY = 6 → reject 5 none) ∧
      (d.get TIME_STATUS_QUALITY ≠ 6 → ¬ d.asks c m → reject 7 none) ∧
      (d.get TIME_STATUS_QUALITY ≠ 6 → d.asks c m → ¬ d.takesRequests p → reject 4 none) ∧
      (d.get TIME_STATUS_QUALITY ≠ 6 → d.asks c m → d.takesRequests p →
        (d.get TIME_STATUS_QUALITY = 0 → reject 5 none) ∧
        (d.get TIME_STATUS_QUALITY ≠ 0 →
          ((∀ k ∈ r.classes, k.cls ≠ m.cls) → reject 2 none) ∧
          (r.classes.find? (fun k => k.cls == m.cls) = some k →
            (k.linMax < m.lin ∨ k.loutMax < m.lout → reject 3 none) ∧
            (m.lin ≤ k.linMax → m.lout ≤ k.loutMax →
              let e := modeDuty (d.get PWR_ENVELOPE_ADMIT)
              let l := mget r.lanes Lanes.init m.cls
              let lane := firstLane k.lanes l.free
              let start := max (max (d.now + 2100) lane.2) (match l.last with | some t => t + k.space e | none => 0)
              let busy := k.f0 + k.fin * m.lin + k.fout * m.lout + ceilDiv ((k.m0 + k.min_ * m.lin + k.mout * m.lout) * 16) e
              let promise := start + busy + d.get (ADM_P_CTRL_GUARD p)
              (d.duty 1 = false →
                (r.effort k = true → admitted promise start lane.1 none) ∧
                (r.effort k = false → lastTime < promise → reject 5 none) ∧
                (r.effort k = false → promise ≤ lastTime → (∀ t, m.deadline = some t → promise ≤ t) → admitted promise start lane.1 none) ∧
                (∀ t, r.effort k = false → promise ≤ lastTime → m.deadline = some t → t < promise → reject 1 (some promise))) ∧
              (d.duty 1 = true → d.schedPick p m.cls m.lin m.lout d.now = none → reject 6 none) ∧
              (∀ j, d.duty 1 = true → d.schedPick p m.cls m.lin m.lout d.now = some j →
                let x := d.schedEntry p j
                let promise := x.start + x.offset
                (r.effort k = true → admitted promise x.start lane.1 (some j)) ∧
                (r.effort k = false → lastTime < promise → reject 5 none) ∧
                (r.effort k = false → promise ≤ lastTime → (∀ t, m.deadline = some t → promise ≤ t) →
                  admitted promise x.start lane.1 (some j)) ∧
                (∀ t, r.effort k = false → promise ≤ lastTime → m.deadline = some t → t < promise →
                  reject 1 (some promise))))))))

/-- R71, R74 to R76, R80, R430, R431: a promise that passes undelivered is missed, once. ADM_Pp_CTRL takes GUARD and UNCRED while the
partition is unsealed, HOLD always, and ENABLE as 1 only in service with a timing table. A host schedule entry made VALID is checked,
and one whose START passes unclaimed becomes invalid. CANCEL withdraws a request whose final result is not
formed yet, for the context that sent it, in the incarnation in which it did, or that covers its partition.
A result entry returns its credit; its tokens are added to its request, and one for no request, or a closed context, is discarded. -/
def Obligations.AdmissionLife : Prop :=
  ∀ (s : State) (cred : Cred) (part : PartId) (v : Word) (tag : Word) (k : Fin 256), s.dev.live = true →
    let p := part.val
    let d := s.dev
    let now (d : Dev) : Host.Outcome State Fault Refusal := .next { s with dev := d }
    let open_ (r : Request) : Bool := r.part == p && r.tag == tag && r.promise.isSome && !r.late
    (d.reqs.find? open_ = none → exec (.promiseExpiry part tag) s = now d) ∧
    (∀ r t, d.reqs.find? open_ = some r → r.promise = some t →
      t < (d.toTime (t + 1)).now ∨ (d.toTime (t + 1)).time.exhausted = true →
      exec (.promiseExpiry part tag) s = now ((d.toTime (t + 1)).miss r)) ∧
    let held (d : Dev) := d.take (ADM_P_CTRL_HOLD p) v.toNat
    let enabled (d : Dev) : Dev :=
      if (ADM_P_CTRL_ENABLE p).of v.toNat = 1 ∧ (d.inService p = false ∨ (d.region p).timed = false) then d
      else d.flag (ADM_P_CTRL_ENABLE p) ((ADM_P_CTRL_ENABLE p).of v.toNat == 1)
    (mayCommand cred p = true →
      let same : Prop := (ADM_P_CTRL_GUARD p).of v.toNat = d.get (ADM_P_CTRL_GUARD p) ∧
        (ADM_P_CTRL_UNCRED p).of v.toNat = d.get (ADM_P_CTRL_UNCRED p)
      (same ∨ (p ≠ 0 ∧ d.partState p ≠ 1 ∧ d.sealed p = false) →
        exec (.admCtrlWrite cred part v) s = now ((enabled (held d)).completed 0 0)) ∧
      (¬ same → d.sealed p = true → exec (.admCtrlWrite cred part v) s = now ((enabled (held d)).completed 0x40 0))) ∧
    (mayCommand cred p = false → exec (.admCtrlWrite cred part v) s = now (d.completed 7 0) ∧
      exec (.hostScheduleValid cred part k v) s = now (d.completed 7 0)) ∧
    (mayCommand cred p = true → d.partState p = 1 → d.sealed p = false →
      let e := (d.take (ADM_P_CTRL_GUARD p) v.toNat).take (ADM_P_CTRL_UNCRED p) v.toNat
      exec (.admCtrlWrite cred part v) s = now ((enabled (held e)).completed 0 0)) ∧
    (mayCommand cred p = true →
      let w := setBits v.toNat 40 40 1
      let put := d.set (schedWord p k.val 2) (w % 2 ^ 41)
      let x : Dev := { put with sched := put.sched.filter fun e => e.1 != p * 256 + k.val }
      (x.schedRefused p k.val = false → exec (.hostScheduleValid cred part k v) s = now (x.completed 0 0)) ∧
      (x.schedRefused p k.val = true →
        exec (.hostScheduleValid cred part k v) s =
          now (({ x with sched := (p * 256 + k.val, false) :: x.sched } : Dev).completed 0 0))) ∧
    (let e := d.schedEntry p k.val
     let d1 := d.toTime (e.start + 1)
     (e.valid = true → d.schedMark p k.val ≠ some true → e.start < lastTime →
       exec (.hostScheduleExpiry part k) s =
         now (d1.set (schedWord p k.val 2) (setBits (d1.get (schedWord p k.val 2)) 40 40 0))) ∧
     (e.valid = false ∨ d.schedMark p k.val = some true ∨ lastTime ≤ e.start → exec (.hostScheduleExpiry part k) s = now d)) ∧
    (∀ (h : NHdr) (r : Request), Served d h true false (hasLen h 8) →
      let e := d.inTurn h true
      let mine (r : Request) : Bool := r.tag == tag && !r.last && (e.sentBy r h.dctx.val || e.covers h.dctx.val r.part)
      (e.reqs.find? mine = some r → exec (.cancel h tag) s = now (e.withdraw r 3)) ∧
      (e.reqs.find? mine = none → exec (.cancel h tag) s = now e)) ∧
    (∀ (ctx : CtxId) (tile : TileId), (d.tile tile.val).railOut.find? (fun e => e.1 == ctx.val) = none →
      exec (.resultEntry ctx tile) s = now d) ∧
    (∀ (ctx : CtxId) (tile : TileId) (e : Nat × RemoteItem) dt q ep user st sr df sf light len ss data,
      (d.tile tile.val).railOut.find? (fun e => e.1 == ctx.val) = some e →
      e.2 = .queue dt q ep user st sr df sf light len ss data →
      let x := (d.modTile tile.val fun t => { t with railOut := dropFirst (fun x => x.1 == ctx.val) t.railOut }).creditTo st sf sr 0 1
      let mine (r : Request) : Bool :=
        r.part == x.ctxPart ctx.val && r.tag == BitVec.ofNat 64 (fieldAt data 0 8) && !r.last
      (x.ctxKind ctx.val ≠ 3 ∨ x.ctxPart ctx.val ≠ (x.tile tile.val).part →
        exec (.resultEntry ctx tile) s = now (x.ctxDrop ctx.val 1)) ∧
      (x.ctxKind ctx.val = 3 → x.ctxPart ctx.val = (x.tile tile.val).part →
        (x.reqs.find? mine = none → exec (.resultEntry ctx tile) s = now (x.ctxDrop ctx.val 1)) ∧
        (∀ r, x.reqs.find? mine = some r →
          (x.ctxState r.ctx ≠ 2 ∨ x.sentBy r r.ctx = false →
            (bit (fieldAt data 8 1) 0 = 0 → exec (.resultEntry ctx tile) s = now (x.ctxDrop ctx.val 1)) ∧
            (bit (fieldAt data 8 1) 0 = 1 → exec (.resultEntry ctx tile) s = now ((x.ctxDrop ctx.val 1).endRequest r))) ∧
          (x.ctxState r.ctx = 2 → x.sentBy r r.ctx = true →
            let n := min (min (fieldAt data 9 1) 13) (r.lout - r.got)
            let y := { r with got := r.got + n, outTokens := r.outTokens ++ slice data 12 (4 * n), last := bit (fieldAt data 8 1) 0 == 1 }
            exec (.resultEntry ctx tile) s = now (x.packResults y 2)))))
/-! ## Contexts and the messages between devices (R413 to R418, R424 to R428, R432 to R435) -/

/-- R413 to R418, R423, R424, R428, R435: OPEN of a PEER context that has keys sends OPEN in a new incarnation, which becomes OPEN on
an OPEN_ACK, with its sequence counters at 0, and CLOSED with REASON 5 after 10,500,000 cycles without one; a higher incarnation from the
other side opens it too, and another is answered STALE_INCARN. A host's OPEN takes the lowest free HOST context, with both keys. CLOSE, either way,
closes it and REVOKES the routes that name it; so does silence for 60 s on a HOST context, with REASON 2, and CAPS without a common
version. An RTO expiry retransmits, or is reported; RETRANSMIT and EXHAUST of NOP_RECOVER do so by the host. -/
def Obligations.ContextLife : Prop :=
  ∀ (s : State) (cred : Cred) (ctx : CtxId) (h : NHdr), s.dev.live = true →
    let c := ctx.val
    let d := s.dev
    let now (d : Dev) : Host.Outcome State Fault Refusal := .next { s with dev := d }
    let mine (n : Nat) : Prop := d.hears h = true ∧ d.ethState h.port.val = 4 ∧ h.reserved = false ∧ hasLen h n = true ∧ h.version = 1
    let closes (d : Dev) (why : Nat) := d.closeCtx c why 0
    (isOwner cred = true → d.ctxKind c = 1 → (d.ctxState c = 0 ∨ d.ctxState c = 3) → (d.ctx c).keyed = true →
      let i := (d.ctx c).incarnMax + 1
      let d := ((d.set (NOP_CTX_STATE_STATE c) 1).set (NOP_CTX_STATE_INCARN c) i).modCtx c fun x =>
        { x with incarnMax := i, openedAt := d.tick, txc := 0 }
      exec (.contextOpen cred ctx) s = now ((d.queueMsg c (mkMsg 0x01 0 c false (beBytes 4 i ++ beBytes 2 1 ++ zeros 2))).completed 0 0)) ∧
    (isOwner cred = true → d.ctxKind c ≠ 1 ∨ (d.ctx c).keyed = false ∨ (d.ctxState c ≠ 0 ∧ d.ctxState c ≠ 3) → exec (.contextOpen cred ctx) s = now (d.completed 0 0)) ∧
    (isOwner cred = true → d.ctxState c = 2 →
      exec (.contextClose cred ctx) s = now ((closes (d.sendClose c 2) 3).completed 0 0)) ∧
    (isOwner cred = true → d.ctxState c ≠ 2 → exec (.contextClose cred ctx) s = now (d.completed 0 0)) ∧
    (isOwner cred = false → exec (.contextOpen cred ctx) s = now (d.completed 7 0) ∧
      exec (.contextClose cred ctx) s = now (d.completed 7 0)) ∧
    (d.ctxState c = 1 → exec (.openTimeout ctx) s = now ((d.toTick ((d.ctx c).openedAt + 10500000)).openFailed c 5)) ∧
    (d.ctxState c ≠ 1 → exec (.openTimeout ctx) s = now d) ∧
    (∀ m : OpenMsg, mine 1576 → h.port.val = 0 → m.ek ≠ none →
      let refuse (st : Byte) := d.queueOpen 0 { mkMsg 0x02 0 0xFFFF false (beBytes 4 m.incarn ++ [st, 0] ++ beBytes 2 0xFFFF) with
        incarn := m.incarn, replyTo := some (h.src, h.sctx) }
      let free (c : Nat) : Bool := d.ctxKind c == 2 && d.ctxState c == 0
      (m.versions % 2 = 0 → exec (.openRx h m) s = now (refuse 0x45)) ∧
      (m.versions % 2 = 1 → (∀ c : CtxId, free c.val = false) → exec (.openRx h m) s = now (refuse 0x43)) ∧
      (m.versions % 2 = 1 → free c = true → (∀ j, j < c → free j = false) →
        let key := sha3 ((List.range 32).map (Config.sharedByte d.free) ++ sha3 (m.ek.getD []) ++ beBytes 4 m.incarn)
        let d := ((d.openCtx c m.incarn).set (NOP_CTX_ADDR0_V c) (h.src / 2 ^ 64)).set (NOP_CTX_ADDR1_V c) h.src
        let d := (d.set (NOP_CTX_CFG_RCTX c) h.sctx).modCtx c fun x =>
          { x with cred := .none, challenge := none, tkey := [], ek := m.ek.getD [], incarnMax := m.incarn,
                   rxKey := slice key 0 32, txKey := slice key 32 32 }
        let bs := beBytes 4 m.incarn ++ [0, 0] ++ beBytes 2 c ++ openCt d.free
        exec (.openRx h m) s = now ((d.queueMsg c (mkMsg 0x02 0 c false (bs ++ d.aliasSig (openBytes m ++ bs)))).draw))) ∧
    (∀ m : OpenMsg, d.hears h = true → h.reserved = false → m.ek = none → h.dctx = ctx →
      (d.ethState h.port.val ≠ 4 ∨ d.ctxKind c ≠ 1 ∨ d.booting = true → exec (.openRx h m) s = now (d.ctxDrop c 1)) ∧
      (d.ethState h.port.val = 4 → d.ctxKind c = 1 → d.booting = false →
        (h.authOk = false ∨ (d.ctx c).keyed = false → exec (.openRx h m) s = now (d.add (NOP_CTX_COUNT_V c 1) 1)) ∧
        (h.authOk = true → (d.ctx c).keyed = true →
          (h.version ≠ 1 ∨ hasLen h 8 = false → exec (.openRx h m) s = now ((d.ctxDrop c 1).openAck c m.incarn 0x42)) ∧
          (h.version = 1 → hasLen h 8 = true →
            let top := (d.ctx c).incarnMax
            let d1 := (d.set (NOP_CTX_ADDR0_V c) (h.src / 2 ^ 64)).set (NOP_CTX_ADDR1_V c) h.src
            let d1 := d1.modCtx c fun x => { x with incarnMax := max top m.incarn }
            let wins : Prop := top < m.incarn ∨ (d.ctxState c = 1 ∧ m.incarn = top ∧ h.sctx < c)
            (d.ctxState c = 3 → top < m.incarn → exec (.openRx h m) s = now (d1.ctxDrop c 1)) ∧
            (¬ wins → exec (.openRx h m) s = now (d1.openAck c top 0x44)) ∧
            (wins → d.ctxState c ≠ 3 → m.versions % 2 = 0 → exec (.openRx h m) s = now (d1.openAck c m.incarn 0x45)) ∧
            (wins → d.ctxState c ≠ 3 → m.versions % 2 = 1 →
              exec (.openRx h m) s = now (((d1.openCtx c m.incarn).openAck c m.incarn 0).sendCaps c)))))) ∧
    (∀ i st, mine 8 → h.dctx = ctx → d.ctxState c = 1 → h.authOk = true →
      (st = 0 → i = d.get (NOP_CTX_STATE_INCARN c) → exec (.openAck h i st) s = now ((d.openCtx c i).sendCaps c)) ∧
      (st = 0 → i ≠ d.get (NOP_CTX_STATE_INCARN c) → exec (.openAck h i st) s = now (d.ctxDrop c 1)) ∧
      (st ≠ 0 → ∃ why, exec (.openAck h i st) s =
        now ((d.modCtx c fun x => { x with incarnMax := max x.incarnMax i }).openFailed c why) ∧ (st = 0x45 → why = 6))) ∧
    (∀ r : Byte, Served d h true true (hasLen h 8) → h.dctx = ctx →
      exec (.closeRx h r) s = now (closes (d.inTurn h true) (if r.toNat ≤ 2 then r.toNat + 1 else 1))) ∧
    (Served d h false true (hasLen h 0) → exec (.ackRx h) s = now (d.heard h)) ∧
    (∀ b : List Byte, Served d h true false (hasLen h 88) → h.dctx = ctx →
      let d := (d.inTurn h true).modCtx c fun x => { x with caps := some b }
      ((b.getD 1 0).getLsbD 0 = true → exec (.capsRx h b) s = now d) ∧
      ((b.getD 1 0).getLsbD 0 = false → exec (.capsRx h b) s = now (closes (d.sendClose c 0) 6))) ∧
    (d.ctxKind c ≠ 2 ∨ d.ctxState c ≠ 2 → exec (.hostIdleTimeout ctx) s = now d) ∧
    (d.ctxKind c = 2 → d.ctxState c = 2 →
      exec (.hostIdleTimeout ctx) s = now (closes ((d.toTime ((d.ctx c).lastRx + 60 * secLen)).sendClose c 1) 2)) ∧
    (∀ m l, (d.ctx c).unacked = m :: l → m.again = false →
      let d := (d.toTick (m.sentAt + d.get (NOP_CTX_CFG_RTO c) * (m.told + 1))).tellOldest c
      exec (.rtoExpiry ctx false) s = now (d.recover c 0) ∧ exec (.rtoExpiry ctx true) s = now (d.bufferUe c)) ∧
    (isOwner cred = true → d.duty 6 = true → d.ctxState c = 2 →
      exec (.recoverRetransmit cred ctx) s = now ((d.resend c).completed 0 0) ∧
      exec (.recoverExhaust cred ctx) s = now ((d.exhaustCtx c).completed 0 0)) ∧
    (isOwner cred = true → d.duty 6 = false ∨ d.ctxState c ≠ 2 →
      exec (.recoverRetransmit cred ctx) s = now (d.completed 0 0) ∧ exec (.recoverExhaust cred ctx) s = now (d.completed 0 0)) ∧
    ((d.ctx c).unacked = [] → ∀ ue, exec (.rtoExpiry ctx ue) s = now d) ∧
    (∀ tile : TileId, (d.tile tile.val).railOut.find? (fun e => d.ctxKind e.1 != 3) = none →
      exec (.remoteItemEnqueue tile) s = now d) ∧
    (∀ (tile : TileId) e, (d.tile tile.val).railOut.find? (fun e => d.ctxKind e.1 != 3) = some e →
      exec (.remoteItemEnqueue tile) s = now ((d.modTile tile.val fun t =>
        { t with railOut := dropFirst (fun x => d.ctxKind x.1 != 3) t.railOut }).queueItem e.1 e.2))

/-- R424 to R427, R432 to R434, R465, R545: what a served message does on the device that has taken it in turn. Items of a PEER context
reach their tiles, item by item, and those of another kind are discarded; MREAD and MWRITE begin an access of their range; register
accesses are for HOST contexts, one register after another until one fails; image bytes that stand next are kept, and others end the
load; PULL and PTP_TX are for a HOST context with a credential of the owner. -/
def Obligations.MessagesServed : Prop :=
  ∀ (s : State) (h : NHdr), s.dev.live = true →
    let served (n : Nat) : Prop := Served s.dev h true false (hasLen h n)
    let c := h.dctx.val
    let d := s.dev.inTurn h true
    let now (d : Dev) : Host.Outcome State Fault Refusal := .next { s with dev := d }
    (∀ items : List QItem, served (8 + 80 * items.length) → 1 ≤ items.length → items.length ≤ 64 →
      (d.ctxKind c = 1 → exec (.qentryRx h items) s = now (items.foldl (fun d i => d.queueItemTo c i) d)) ∧
      (d.ctxKind c ≠ 1 → exec (.qentryRx h items) s = now (d.ctxDrop c items.length))) ∧
    (∀ items : List SItem, served (8 + 272 * items.length) → 1 ≤ items.length → items.length ≤ 30 →
      (d.ctxKind c = 1 → exec (.contribRx h items) s = now (items.foldl (fun d i => d.spliceItemTo c i) d)) ∧
      (d.ctxKind c ≠ 1 → exec (.contribRx h items) s = now (d.ctxDrop c items.length))) ∧
    (∀ items : List HItem, served (8 + 8 * items.length) → 1 ≤ items.length → items.length ≤ 1000 →
      (d.ctxKind c = 1 → exec (.hitchRx h items) s = now (items.foldl (fun d i => d.hitchItemTo c i) d)) ∧
      (d.ctxKind c ≠ 1 → exec (.hitchRx h items) s = now (d.ctxDrop c items.length))) ∧
    (∀ items : List CItem, served (8 + 8 * items.length) → 1 ≤ items.length → items.length ≤ 1000 →
      (d.ctxKind c = 1 → exec (.creditRx h items) s = now (items.foldl (fun d i => d.creditItemTo c i) d)) ∧
      (d.ctxKind c ≠ 1 → exec (.creditRx h items) s = now (d.ctxDrop c items.length))) ∧
    (∀ addr n tag, served 16 → 1 ≤ n → n ≤ 8176 → exec (.mread h addr n tag) s = now (d.remoteAccess c addr n tag true [])) ∧
    (∀ addr tag (data : List Byte), served (16 + data.length) → 1 ≤ data.length → data.length ≤ 8176 →
      exec (.mwrite h addr tag data) s = now (d.remoteAccess c addr data.length tag false data)) ∧
    (∀ tag n addr ecc, served 16 → 1 ≤ n → n ≤ 128 →
      (d.ctxKind c ≠ 2 → exec (.regRead h tag n addr ecc) s = .next (s.metered (d.regReply c tag 7 0 []))) ∧
      (∀ x st vs, d.ctxKind c = 2 → Dev.regReads s.mtr (d.ctx c).cred ecc n addr d = (x, st, vs) →
        exec (.regRead h tag n addr ecc) s = .next (s.metered (x.regReply c tag st vs.length vs)))) ∧
    (∀ tag addr (vs : List Word), served (16 + 8 * vs.length) →
      (d.ctxKind c ≠ 2 → exec (.regWrite h tag addr vs) s = .next (s.metered (d.regReply c tag 7 0 []))) ∧
      (∀ x st k, d.ctxKind c = 2 → Dev.regWrites s.mtr (d.ctx c).cred vs addr 0 d = (x, st, k) →
        exec (.regWrite h tag addr vs) s = .next (s.metered (x.regReply c tag st k [])))) ∧
    (∀ (part : PartId) off (bs : List Byte), part.val ≠ 0 →
      let p := part.val
      let nowM (d : Dev) : Host.Outcome State Fault Refusal := .next (s.metered d)
      (d.covers c p = false ∨ d.streamTakes p = false →
        (served (16 + bs.length) → exec (.loadData h part off bs) s = nowM (d.ctxDrop c 1)) ∧
        (served 8 → exec (.loadEnd h part) s = nowM (d.ctxDrop c 1))) ∧
      (d.covers c p = true → d.streamTakes p = true →
        (served (16 + bs.length) → off ≠ (d.region p).img.length → exec (.loadData h part off bs) s = nowM (d.streamCut p)) ∧
        (served (16 + bs.length) → off = (d.region p).img.length →
          exec (.loadData h part off bs) s = nowM (d.modRegion p fun r => { r with img := r.img ++ bs, lastByte := d.tick })) ∧
        (served 8 →
         let x := d.modRegion p fun r => { r with ended := true }
         let b := (x.region p).img
         (b.length < 64 ∨ b.length < imgLength b → exec (.loadEnd h part) s = nowM (x.streamCut p)) ∧
         (64 ≤ b.length → imgLength b ≤ b.length → exec (.loadEnd h part) s = nowM x)))) ∧
    (∀ kind n, served 4 → 1 ≤ n → n ≤ 1000 →
      (d.ctxKind c ≠ 2 ∨ (d.ctx c).cred ≠ .owner → exec (.pull h kind n) s = .next (s.metered (d.ctxDrop c 1))) ∧
      (d.ctxKind c = 2 → (d.ctx c).cred = .owner → kind ∉ [1, 2, 3, 4, 5, 0x101, 0x102] →
        exec (.pull h kind n) s = .next (s.metered (d.ctxDrop c 1))) ∧
      (d.ctxKind c = 2 → (d.ctx c).cred = .owner → kind ∈ [1, 2, 3, 4, 5, 0x101, 0x102] →
        (d.is DMC_STATUS_RESTARTING = false → exec (.pull h kind n) s = .next (s.metered (d.answerPull s.mtr c kind n))) ∧
        (d.is DMC_STATUS_RESTARTING = true → exec (.pull h kind n) s =
          .next (s.metered { d with nop := { d.nop with pulls := d.nop.pulls ++ [(c, kind, n)] } })))) ∧
    (∀ (port : PortId) tag frame, served (8 + frame.length) → d.ctxKind c ≠ 2 ∨ (d.ctx c).cred ≠ .owner ∨ d.ethState port.val < 2 →
      exec (.ptpTx h port tag frame) s = now (d.ctxDrop c 1)) ∧
    (∀ (port : PortId) tag frame, served (8 + frame.length) → d.ctxKind c = 2 → (d.ctx c).cred = .owner → 2 ≤ d.ethState port.val →
      exec (.ptpTx h port tag frame) s =
        now (d.queueOpen port.val { TxMsg.init with type := txPtp, ctx := c, payload := frame, tag := BitVec.ofNat 64 tag, seqd := true }))
/-! ## Ethernet ports (R401 to R408, R419 to R421, R436) -/

/-- R404: a port's states. EN takes a DISABLED port to TRAINING and its clearing takes any port to DISABLED; trained, it is LINKED on
all four lanes, and goes on to MEASURING where no SAK is missing; 2 s without success begin training again; the cable measurement
takes it UP with LENGTH by R408, or without a length after 1 s; a loss of alignment is counted and trains again. -/
def Obligations.PortStates : Prop :=
  ∀ (s : State) (cred : Cred) (port : PortId) (v : Word), s.dev.live = true →
    let n := port.val
    let d := s.dev
    let now (d : Dev) : Host.Outcome State Fault Refusal := .next { s with dev := d }
    let on := setBits v.toNat 0 0 1
    let off := setBits v.toNat 0 0 0
    let set (v : Nat) (en : Bool) := (d.ethFields n v).flag (ETH_P_CTRL_EN n) en
    let ends (d : Dev) := now (d.ptpCheck.requality.completed 0 0)
    (isOwner cred = true → d.ethState n = 0 →
      exec (.portEnable cred port v) s = ends ((set on true).leavePort n 1) ∧
      exec (.portDisable cred port v) s = ends (set off false)) ∧
    (isOwner cred = true → d.ethState n ≠ 0 →
      exec (.portEnable cred port v) s = ends ((set on true).linkGo n) ∧
      exec (.portDisable cred port v) s = ends ((set off false).leavePort n 0)) ∧
    (isOwner cred = false → exec (.portEnable cred port v) s = now (d.completed 7 0) ∧
      exec (.portDisable cred port v) s = now (d.completed 7 0)) ∧
    (d.ethState n = 1 →
      let linked := (d.set (ETH_P_STATUS_STATE n) 2).set (ETH_P_STATUS_LANES n) 15
      (d.is (ETH_P_CTRL_MACSEC_REQ n) = true → (d.port n).keyed = false → exec (.portTrained port) s = now linked) ∧
      (d.is (ETH_P_CTRL_MACSEC_REQ n) = false ∨ (d.port n).keyed = true →
        exec (.portTrained port) s =
          now ((linked.set (ETH_P_STATUS_STATE n) 3).modPort n fun x => { x with measureAt := d.tick })) ∧
      (let d := d.toTick ((d.port n).trainAt + 2 * secLen)
       exec (.trainingTimeout port) s =
         now ((d.add (ETH_P_STATUS_RETRAINS n) 1).modPort n fun x => { x with trainAt := d.tick }))) ∧
    (d.ethState n ≠ 1 → exec (.portTrained port) s = now d ∧ exec (.trainingTimeout port) s = now d) ∧
    (d.ethState n ≠ 0 → exec (.linkLoss port) s = now ((d.add (ETH_P_STATUS_RETRAINS n) 1).leavePort n 1)) ∧
    (d.ethState n = 0 → exec (.linkLoss port) s = now d) ∧
    (∀ ps, d.ethState n = 3 ∨ d.ethState n = 4 →
      let cm := (2 * ps * d.get (ETH_P_CTRL_VF n) * 299792458 + 2560000000000) / (2 * 2560000000000)
      let x := ((d.flag (ETH_P_CABLE_VALID n) true).set (ETH_P_CABLE_LENGTH n) cm).set (ETH_P_CABLE_DELAY n) ps
      exec (.cableMeasured port (some ps)) s = now (x.set (ETH_P_STATUS_STATE n) 4)) ∧
    (d.ethState n = 3 →
      let d := d.toTick ((d.port n).measureAt + secLen)
      let x := ((d.flag (ETH_P_CABLE_VALID n) false).set (ETH_P_CABLE_LENGTH n) 0).set (ETH_P_CABLE_DELAY n) 0
      exec (.cableMeasured port none) s = now (x.set (ETH_P_STATUS_STATE n) 4)) ∧
    (d.ethState n ≠ 3 → d.ethState n ≠ 4 → ∀ x, exec (.cableMeasured port x) s = now d)

/-- R402, R403, R405, R407, R413, R419 to R421, R436: frames received are counted, and one that MACsec or its kind drops is counted as
such, but for a replayed one (log 33), while one whose ICV verifies sets the next packet number; LLDP sends the port's frame each LLDP_S seconds and keeps the partner's. A port that can transmit sends the first message that
is ready and fits. A scale-out port that left UP is recorded; its contexts move to V, as a repair of KIND 7, by AUTO or FORCE
while V is UP and free, its need waits while the controller restarts (log 32) or SPARING is 1, and they move back
at the frame boundary after FAILBACK; there a changed PORT takes effect too. -/
def Obligations.PortTraffic : Prop :=
  ∀ (s : State) (cred : Cred) (port : PortId), s.dev.live = true →
    let n := port.val
    let d := s.dev
    let now (d : Dev) : Host.Outcome State Fault Refusal := .next { s with dev := d }
    let nowM (d : Dev) : Host.Outcome State Fault Refusal := .next (s.metered d)
    let frame := d.frameLen
    (∀ f : FrameRx, d.ethState n ≠ 0 → d.ethState n ≠ 1 →
      let x := ((d.add (ETH_P_COUNT_V n 1) 1).add (ETH_P_COUNT_V n 7) f.bytes).add (ETH_P_COUNT_V n 2) f.fecCorrected
      let x := (x.add (ETH_P_COUNT_V n 3) f.fecBad).modPort n fun y => { y with fecSecond := y.fecSecond + f.fecBad }
      let shut : Bool := f.kind != .lldp && ((x.port n).sas.any (fun a => a.rx) || (f.kind == .nopra && x.is (ETH_P_CTRL_MACSEC_REQ n)))
      let other : Bool := f.kind == .fragment || f.kind == .other || (d.ethState n == 2 && f.kind == .nopra)
      let ends (x : Dev) : Dev := if 256 < (x.port n).fecSecond then x.linkLoss n else x
      let sa := (x.port n).sas.find? fun a => a.rx && a.an == f.an
      let done (x : Dev) : Dev := ends (if other then x.add (ETH_P_COUNT_V n 5) 1 else x)
      (f.macsec = true → f.icvOk = false → exec (.frameReceive port f) s = now (ends (x.add (ETH_P_COUNT_V n 4) 1))) ∧
      (f.macsec = true → f.icvOk = true → sa = none → exec (.frameReceive port f) s = now (done (x.add (ETH_P_COUNT_V n 4) 1))) ∧
      (∀ a, f.macsec = true → f.icvOk = true → sa = some a →
        (f.pn < a.next → exec (.frameReceive port f) s = now (done x)) ∧
        (a.next ≤ f.pn → exec (.frameReceive port f) s =
          now (done (x.modPort n fun y => { y with sas := y.sas.map fun b => if b = a then { b with next := f.pn + 1 } else b })))) ∧
      (f.macsec = false → shut = false → other = false → exec (.frameReceive port f) s = now (ends x)) ∧
      (f.macsec = false → shut = true ∨ other = true → exec (.frameReceive port f) s = now (ends (x.add (ETH_P_COUNT_V n 5) 1)))) ∧
    (d.ethState n = 0 ∨ d.ethState n = 1 → ∀ f, exec (.frameReceive port f) s = now d) ∧
    (d.ethState n < 2 → exec (.lldpTx port) s = now d ∧
      ∀ chassis id ttl, exec (.lldpdu port chassis id ttl) s = now d) ∧
    (2 ≤ d.ethState n →
      let k := d.get (ETH_P_CTRL_LLDP_S n)
      let send (d : Dev) := (d.modPort n fun x => { x with lldpSent := d.now }).queueOpen n
        { TxMsg.init with type := 0x101, payload := d.lldpFrame n }
      (k = 0 → exec (.lldpTx port) s = now d) ∧
      (k ≠ 0 → (d.port n).lldpSent = 0 → exec (.lldpTx port) s = now (send d)) ∧
      (k ≠ 0 → (d.port n).lldpSent ≠ 0 →
        exec (.lldpTx port) s = now (send (d.toTime ((d.port n).lldpSent + k * secLen)))) ∧
      (∀ chassis id ttl, exec (.lldpdu port chassis id ttl) s =
        now (d.modPort n fun x => { x with chassis := chassis, portId := id, lldpAt := some d.now, lldpTtl := ttl }))) ∧
    (let free := d.toTick (d.port n).busyUntil
     (n ≠ 0 → exec (.portTransmit port) s = now (free.transmit n)) ∧
     (n = 0 → exec (.portTransmit port) s = now (free.pumpPush.transmit 0))) ∧
    ((d.port n).lost = false → exec (.portFailover port) s = nowM d) ∧
    ((d.port n).lost = true →
      let x := d.modPort n fun y => { y with lost := false }
      (d.get ETH_FAILOVER_SERVING ≠ 31 → exec (.portFailover port) s = nowM ((x.failoverRecord n false (d.rises 2)).raiseLevel 2 10)) ∧
      (d.get ETH_FAILOVER_SERVING = 31 → d.duty 4 = true ∨ (d.is ETH_FAILOVER_AUTO = true ∧ d.dmcDown = true) →
        exec (.portFailover port) s = nowM ((x.failoverRecord n false false).addNeed 7 n 0)) ∧
      (d.get ETH_FAILOVER_SERVING = 31 → d.duty 4 = false → d.is ETH_FAILOVER_AUTO = true → d.dmcDown = false → d.ethState 17 = 4 →
        exec (.portFailover port) s = nowM ((x.failoverRecord n true (d.rises 1)).sparePort n)) ∧
      (d.get ETH_FAILOVER_SERVING = 31 → d.duty 4 = false →
        d.is ETH_FAILOVER_AUTO = false ∨ (d.dmcDown = false ∧ d.ethState 17 ≠ 4) →
        exec (.portFailover port) s = nowM (x.failoverRecord n false false))) ∧
    (isOwner cred = false → exec (.failoverForce cred port) s = nowM (d.completed 7 0) ∧ exec (.failback cred) s = nowM (d.completed 7 0)) ∧
    (isOwner cred = true → n = 0 ∨ n = 17 →
      let v := boolBit (d.is ETH_FAILOVER_AUTO) + n * 256 + 2
      exec (.failoverForce cred port) s = nowM (((d.take ETH_FAILOVER_AUTO v).take ETH_FAILOVER_TARGET v).completed 0 0)) ∧
    (isOwner cred = true → 1 ≤ n → n ≤ 16 →
      let v := boolBit (d.is ETH_FAILOVER_AUTO) + n * 256 + 2
      let x := (d.take ETH_FAILOVER_AUTO v).take ETH_FAILOVER_TARGET v
      (d.ethState 17 = 4 → d.get ETH_FAILOVER_SERVING = 31 →
        exec (.failoverForce cred port) s = nowM ((x.sparePort n).completed 0 0)) ∧
      (d.ethState 17 ≠ 4 ∨ d.get ETH_FAILOVER_SERVING ≠ 31 → exec (.failoverForce cred port) s = nowM (x.completed 0 0))) ∧
    (isOwner cred = true →
      let v := d.failoverNow + 4
      let x := ((d.take ETH_FAILOVER_AUTO v).take ETH_FAILOVER_TARGET v).flag ETH_FAILOVER_FAILBACK true
      exec (.failback cred) s =
        .next (s.metered (((x.toTime ((x.now / frame + 1) * frame)).frameStart).completed 0 0))) ∧
    exec .spanFrameBoundary s = .next (s.metered ((d.toTime ((d.now / frame + 1) * frame)).frameStart))
/-! ## Memory: configuration, keys, accesses, training (R370 to R399) -/

/-- R368, R371, R374 to R376, R379, R382, R384, R390 to R396, R399: HBM_CFG.ILV changes only while no partition holds an HBM range, and
moves no data; shares and ranges keep to a sealed partition and are DENIED for a FREE or CLEARING one, shares to 64 in
all, ranges to pages that exist and no other partition has, and no range is mapped while a stack has failed. ROTATE takes the new key into use from an idle state and counts the
generation; its sweep takes a page, then its lines in order, under the new key; a retired key is gone. TRAIN runs a step, and DONE
takes a waiting unit into service, a DDR5 channel outside the group in use as UNUSED. A DMA engine issues the next line of its first transfer that has one, if fewer than 192 are out; answered
lines return at the drop, where a put's are done, a get's reach the scratchpad, a copy's read lets its write go on, and an error ends the
transfer. A slot is given as the shares allow (log 31); it serves the oldest access of its owner's stream, else another of the partition,
with what the check bits showed, else the partition's key sweep or row copies, or the patrol. Which waiting accesses waited for a refresh is free (log 24); each is counted. -/
def Obligations.MemoryRules : Prop :=
  ∀ (s : State) (cred : Cred) (part : PartId) (v : Word) (ecc : Ecc), s.dev.live = true →
    let p := part.val
    let d := s.dev
    let now (d : Dev) : Host.Outcome State Fault Refusal := .next { s with dev := d }
    let ok (d : Dev) := now (d.completed 0 0)
    let held : Bool := allParts.any fun p => (List.range 8).any fun k => d.is (MEM_P_RANGE_VALID p k) && d.get (MEM_P_RANGE_TIER p k) == 0
    let shut : Prop := p ≠ 0 ∧ (d.partState p = 0 ∨ d.partState p = 3)
    (isOwner cred = false → ∀ (k : Fin 8) (unit : Fin 20) (pass : Bool) (result : Nat), ∀ c ∈ ([.hbmIlvWrite cred v, .memSplitWrite cred part v,
        .memRangeWrite cred part k v, .trainStep cred unit v pass result, .trainDone cred unit] : List Instr), exec c s = now (d.completed 7 0)) ∧
    (isOwner cred = true → shut → exec (.memSplitWrite cred part v) s = now (d.completed 7 0) ∧
      ∀ k : Fin 8, exec (.memRangeWrite cred part k v) s = now (d.completed 7 0)) ∧
    (isOwner cred = true → held = true → exec (.hbmIlvWrite cred v) s = now (d.completed 7 0)) ∧
    (isOwner cred = true → held = false → exec (.hbmIlvWrite cred v) s = ok (d.newInterleave v.toNat)) ∧
    (isOwner cred = true → ¬ shut →
      let fs := [MEM_P_SPLIT_READ p, MEM_P_SPLIT_WRITE p, MEM_P_SPLIT_REMOTE p]
      let same : Prop := ∀ f ∈ fs, f.of v.toNat = d.get f
      let much : Prop := (∃ f ∈ fs, 64 < f.of v.toNat) ∨
        (d.holdsRange p = true ∧ 64 < d.shareSum (some (p, (fs.map fun f => f.of v.toNat).sum)))
      (same → exec (.memSplitWrite cred part v) s = ok d) ∧
      (¬ same → d.sealed p = true → exec (.memSplitWrite cred part v) s = now (d.completed 0x40 0)) ∧
      (¬ same → d.sealed p = false → much → exec (.memSplitWrite cred part v) s = ok (d.flag MEM_CFG_STATUS_SPLIT_REFUSED true)) ∧
      (¬ same → d.sealed p = false → ¬ much →
        exec (.memSplitWrite cred part v) s = ok (fs.foldl (fun d f => d.take f v.toNat) d).retotal)) ∧
    (∀ k : Fin 8, isOwner cred = true → ¬ shut →
      let fs := [MEM_P_RANGE_VALID p k.val, MEM_P_RANGE_TIER p k.val, MEM_P_RANGE_COUNT p k.val, MEM_P_RANGE_BASE p k.val]
      let same : Prop := ∀ f ∈ fs, f.of v.toNat = d.get f
      (same → exec (.memRangeWrite cred part k v) s = ok d) ∧
      (¬ same → d.sealed p = true → exec (.memRangeWrite cred part k v) s = now (d.completed 0x40 0)) ∧
      (¬ same → d.sealed p = false → (MEM_P_RANGE_VALID p k.val).of v.toNat = 1 →
        let base := (MEM_P_RANGE_BASE p k.val).of v.toNat
        let count := (MEM_P_RANGE_COUNT p k.val).of v.toNat
        let clash : Prop := ∃ q ∈ allParts, q ≠ p ∧ ∃ j : Fin 8, d.is (MEM_P_RANGE_VALID q j.val) = true ∧
          d.get (MEM_P_RANGE_TIER q j.val) = (MEM_P_RANGE_TIER p k.val).of v.toNat ∧
          base < d.get (MEM_P_RANGE_BASE q j.val) + d.get (MEM_P_RANGE_COUNT q j.val) ∧ d.get (MEM_P_RANGE_BASE q j.val) < base + count
        let failed : Prop := ∃ j : Fin 12, d.get (HBM_S_STATUS_STATE j.val) = 4
        let pages := (if (MEM_P_RANGE_TIER p k.val).of v.toNat = 0 then d.hbmBytes else d.ddrBytes) / pageBytes
        (clash ∨ failed ∨ pages < base + count → exec (.memRangeWrite cred part k v) s = ok (d.flag MEM_CFG_STATUS_RANGE_REFUSED true)) ∧
        (¬ clash → ¬ failed → base + count ≤ pages → exec (.memRangeWrite cred part k v) s = ok (d.rangeTake p k.val v))) ∧
      (¬ same → d.sealed p = false → (MEM_P_RANGE_VALID p k.val).of v.toNat = 0 →
        exec (.memRangeWrite cred part k v) s = ok (d.rangeTake p k.val v))) ∧
    (mayCommand cred p = true →
      (d.get (MEM_P_KEY_STATE p) ≠ 0 ∨ (d.part p).newKey.serial = 0 →
        exec (.keyRotate cred part) s = ok (d.flag (MEM_P_KEY_REFUSED p) true)) ∧
      (d.get (MEM_P_KEY_STATE p) = 0 → (d.part p).newKey.serial ≠ 0 →
        let x := ((d.addWrap (MEM_P_KEY_GEN p) 1).set (MEM_P_KEY_STATE p) 1).flag (MEM_P_KEY_NEWKEY p) false
        let x := x.set (MEM_P_SWSTAT_OLDPAGES p) (d.pagesOf p).length
        exec (.keyRotate cred part) s = ok ((x.modPart p fun y =>
          { y with oldKey := y.curKey, curKey := y.newKey, newKey := ⟨0⟩, movedOld := d.pagesOf p }).sweepDone p)) ∧
      (let tier := (MEM_P_SWEEP_TIER p).of v.toNat
       let pg := (MEM_P_SWEEP_PAGE p).of v.toNat
       (d.duty 7 = true → d.get (MEM_P_KEY_STATE p) = 1 → d.is (MEM_P_SWSTAT_MOVING p) = false → pageKey tier pg ∈ (d.part p).movedOld →
         exec (.sweepPage cred part v) s = ok (d.sweepPage p tier pg)) ∧
       (d.duty 7 = false ∨ d.get (MEM_P_KEY_STATE p) ≠ 1 ∨ d.is (MEM_P_SWSTAT_MOVING p) = true ∨ pageKey tier pg ∉ (d.part p).movedOld →
         exec (.sweepPage cred part v) s = ok (d.flag (MEM_P_SWSTAT_REFUSED p) true)))) ∧
    (mayCommand cred p = false → exec (.keyRotate cred part) s = now (d.completed 7 0) ∧
      exec (.sweepPage cred part v) s = now (d.completed 7 0)) ∧
    (d.get (MEM_P_KEY_STATE p) ≠ 1 ∨ d.is (MEM_P_SWSTAT_STALLED p) = true → exec (.keySweepLine part ecc) s = now d) ∧
    (d.get (MEM_P_KEY_STATE p) = 1 → d.is (MEM_P_SWSTAT_STALLED p) = false →
      (d.is (MEM_P_SWSTAT_MOVING p) = true → exec (.keySweepLine part ecc) s = now (d.sweepLine p ecc)) ∧
      (d.is (MEM_P_SWSTAT_MOVING p) = false → d.duty 7 = true → exec (.keySweepLine part ecc) s = now d) ∧
      (d.is (MEM_P_SWSTAT_MOVING p) = false → d.duty 7 = false → (d.part p).movedOld = [] →
        exec (.keySweepLine part ecc) s = now (d.sweepDone p)) ∧
      (∀ g l, d.is (MEM_P_SWSTAT_MOVING p) = false → d.duty 7 = false → (d.part p).movedOld = g :: l →
        exec (.keySweepLine part ecc) s = now ((d.sweepPage p (g / 2 ^ 22) (g % 2 ^ 22)).sweepLine p ecc))) ∧
    (d.get (MEM_P_KEY_STATE p) = 2 →
      exec (.keyRetire part) s = now ((d.set (MEM_P_KEY_STATE p) 0).modPart p fun x => { x with oldKey := ⟨0⟩ })) ∧
    (d.get (MEM_P_KEY_STATE p) ≠ 2 → exec (.keyRetire part) s = now d) ∧
    (∀ (unit : Fin 20) (pass : Bool) (result : Nat), isOwner cred = true →
      let u := unit.val
      (d.get (unitState u) = 2 → exec (.trainDone cred unit) s = ok (d.unitAccepted u)) ∧
      (d.get (unitState u) = 2 → u < 12 ∨ u - 12 ∈ d.ddrUsed → d.unitAccepted u = d.unitReady u) ∧
      (d.get (unitState u) ≠ 2 → exec (.trainDone cred unit) s = ok d) ∧
      (let x := (d.takeIf (trainStep u) v.toNat fun x => decide (x < 5)).take (trainChan u) v.toNat
       let ran := if bit v.toNat 0 = 1 then (x.flag (trainPass u) pass).set (trainResult u) result else x
       (x.get (unitState u) = 2 →
         exec (.trainStep cred unit v pass result) s = ok (if bit v.toNat 2 = 1 then ran.unitAccepted u else ran)) ∧
       (x.get (unitState u) ≠ 2 → exec (.trainStep cred unit v pass result) s = ok x))) ∧
    (∀ (tile : TileId) (eng : Fin 2),
      let n := tile.val
      let x := (d.tile n).engine (dmaEng eng.val)
      let has (i : Nat) : Bool := (x.run[i]?.map fun r => !r.plan.isEmpty).getD false
      ((d.tile n).held = true ∨ (d.tile n).clearing = true ∨ 192 ≤ (x.run.map fun r => r.flight.length).sum →
        exec (.dmaLineIssue tile eng ecc) s = now d) ∧
      ((List.range x.run.length).find? has = none → exec (.dmaLineIssue tile eng ecc) s = now d) ∧
      (∀ i r src dst len rest, (d.tile n).held = false → (d.tile n).clearing = false → (x.run.map fun r => r.flight.length).sum < 192 →
        (List.range x.run.length).find? has = some i → x.run[i]? = some r → r.plan = .dma src dst len :: rest →
        exec (.dmaLineIssue tile eng ecc) s = now (d.dmaIssue n eng.val i r src dst len rest ecc)) ∧
      (let back (r : Run) (a : DmaAccess) : Bool := a.done || (r.macro_.kind == .dmMcopy && a.left == 1 && a.data.isSome)
       let due (i : Nat) : Bool := (x.run[i]?.map fun r => r.flight.any (back r)).getD false
       let e := dmaEng eng.val
       let now (d : Dev) : Host.Outcome State Fault Refusal := .next (s.metered d)
       let completes (ecc : Ecc) : Host.Outcome State Fault Refusal := exec (.dmaLineComplete tile ⟨eng, ecc⟩) s
       ((List.range x.run.length).find? due = none → completes ecc = now d) ∧
       (∀ i r a, (List.range x.run.length).find? due = some i → x.run[i]? = some r → r.flight.find? (back r) = some a →
         let gone := { r with flight := r.flight.filter fun b => b.id != a.id }
         let plain := ecc = .ok ∨ a.windowRead r.macro_ = none
         (∀ w, a.status = 0 → a.windowRead r.macro_ = some w →
           completes .uncorrectable = now (d.memUeFor (winTile w) (winOffset w) rdDma n r.macro_.frond r.macro_.strand) ∧
           completes .corrected = now ((d.corrected (winTile w) (winOffset w)).dmaBack n eng.val i r a)) ∧
         (a.status ≠ 0 → completes ecc = now ((d.dmaCopyOff n eng.val a).dmaEnd n e i gone a.status)) ∧
         (a.status = 0 → plain → r.err ≠ 0 →
           completes ecc = now ((d.dmaCopyOff n eng.val a).modTile n fun t => t.setRun e i gone)) ∧
         (a.status = 0 → plain → r.err = 0 → a.done = true → r.macro_.dmaWrite = true →
           completes ecc = now (d.dmaTake n e i r a)) ∧
         (a.status = 0 → plain → r.err = 0 → a.done = true → r.macro_.bightDst = true →
           completes ecc = now (d.modTile n fun t => t.dmaLand e i r a)) ∧
         (a.status = 0 → plain → r.err = 0 → a.done = true → r.macro_.dmaWrite = false → r.macro_.bightDst = false →
           completes ecc = now (d.modTile n fun t => t.setRun e i gone)) ∧
         (a.status = 0 → plain → r.err = 0 → a.done = false →
           let left := { r with flight := r.flight.map fun b => if b.id = a.id then { b with data := none } else b }
           completes ecc = now ((d.modTile n fun t => t.setRun e i left).dmaCopyOn n eng.val a))))) ∧
    (∀ (chan : Fin 392) (owner : Option (PartId × StreamId)),
      let c := mget d.mem.chans MemChan.init chan.val
      let o := owner.map fun x => (x.1.val, x.2)
      let passed := c.passSlot o
      let at_ (c : MemChan) : Dev := { d with mem := { d.mem with chans := mset d.mem.chans chan.val c } }
      (d.slotIs c o = false → exec (.channelSlot chan owner ecc) s = now d) ∧
      (d.slotIs c o = true → passed.pick owner = none →
        exec (.channelSlot chan owner ecc) s = now ((at_ passed).idleSlot chan.val owner ecc)) ∧
      (∀ i x, d.slotIs c o = true → passed.pick owner = some i → c.queue[i]? = some x →
        let counted := (at_ passed).add (MEM_P_BYTES_V x.part (streamNo x.stream)) 64
        let counted := match ecc with
          | .ok => counted
          | .corrected => counted.memCorrected x.addr
          | .uncorrectable => if (x.isWrite = true ∧ x.len = 256) ∨ x.who = Requester.served then counted else counted.markLine x.addr
        let put (q : List MemAccess) : Dev :=
          { counted with mem := { counted.mem with chans := mset counted.mem.chans chan.val { passed with queue := q } } }
        (x.left ≤ 1 → exec (.channelSlot chan owner ecc) s = now ((put (c.queue.eraseIdx i)).finishAccess x)) ∧
        (1 < x.left → exec (.channelSlot chan owner ecc) s = now (put (c.queue.set i { x with left := x.left - 1 })))) ∧
      (let waited (d : Dev) (k : Nat) : Dev :=
         if chan.val < 384 then d.add (HBM_S_REFWAIT_V (chan.val / 32)) k else d.add (DDR_C_REFWAIT_V (chan.val - 384)) k
       let put (d : Dev) (free : Nat) (q : List MemAccess) : Dev :=
         { d with free := free, mem := { d.mem with chans := mset d.mem.chans chan.val { c with queue := q } } }
       let w := refreshWaits d.free c.queue
       exec (.refresh chan) s = now (put (waited d w.2.1) w.2.2 w.1) ∧
       (∀ x, c.queue = [x] → x.refresh = false → Config.refreshHeld d.free = true →
         exec (.refresh chan) s = now (put (waited d 1) (d.free + 1) [{ x with refresh := true }]))))

/-! ## The security engine (R451 to R461, R467, R498) -/

/-- R451 to R461, R467, R468, R498: a call (of an OP that R454 does not name: MALFORMED) is served in its turn and answered; while SEC restarts, up to 64 wait and are served in
order when it is back, and more are BUSY. CHALLENGE gives the context 64 fresh bytes; BIND takes them up, and gives the context the
owner's credential for the owner's key, or the tenant's for the partition's TKEY while it is OPEN or SEALED. ENROLL programs the
next of four slots of its kind and, for an owner, unbinds the contexts. COMMIT_SVN raises the fused minimum to the image's. The flash
below its boot base is not written. The key pair of a partition changes with each secret put, and a secret for the wrong serial, or
one that does not decrypt, has no other effect. Reports and digests are for the owner or the partition's tenant, who may also have its
encapsulation key; a certificate is for anyone, the alias key's once an image has passed. -/
def Obligations.SecurityCalls : Prop :=
  ∀ (s : State) (i : Instr) (h : NHdr) (tag : Nat) (o : SecOp) (ue : Bool), s.dev.live = true → callOf i = some (h, tag, o, ue) →
    Served s.dev h true (earlyCall (callOp h o)) (callLen h (callOp h o)) →
    let op := callOp h o
    let c := h.dctx.val
    let d := s.dev.inTurn h true
    let now (d : Dev) : Host.Outcome State Fault Refusal := .next { s with dev := d }
    (d.sec.restarting = true → d.sec.calls.length < 64 →
      exec i s = now { d with sec := { d.sec with calls := d.sec.calls ++ [⟨c, tag, op⟩] } }) ∧
    (d.sec.restarting = true → 64 ≤ d.sec.calls.length → exec i s = now (d.secReply c tag (secOpCode op) 0x43 0 [])) ∧
    (d.sec.restarting = false → ue = true → exec i s = now (d.secFault c tag op)) ∧
    (d.sec.restarting = false → ue = false →
      (∀ x, d.secDo c op = x → exec i s = now (x.dev.secReply c tag (secOpCode op) x.st x.detail x.result)) ∧
      (∀ n, op = .other n → exec i s = now (d.secReply c tag n 0x42 0 [])) ∧
      (op = .challenge → d.ctxKind c = 2 →
        let ch := randomBytes (d.sec.nonces + 1) 64
        let drawn : Dev := { d with sec := { d.sec with nonces := d.sec.nonces + 1 } }
        exec i s = now ((drawn.modCtx c fun x => { x with challenge := some ch }).secReply c tag 1 0 0 ch)) ∧
      (∀ role part pk sigOk, op = .bind role part pk sigOk → d.ctxKind c = 2 → (role = 1 ∨ role = 2) →
        let used := d.modCtx c fun x => { x with challenge := none }
        let p := part.val
        let said (d : Dev) (st : Byte) (detail : Nat) := exec i s = now (d.secReply c tag 2 st detail [])
        ((d.ctx c).challenge = none ∨ sigOk = false → said used 7 1) ∧
        ((d.ctx c).challenge ≠ none → sigOk = true →
          (role = 1 → d.fuses.ownerDigest = some (sha3 pk) →
            said ((used.modCtx c fun x => { x with cred := .owner, tkey := [] }).set (NOP_CTX_CFG_PART c) 0) 0 0) ∧
          (role = 1 → d.fuses.ownerDigest ≠ some (sha3 pk) → said used 7 2) ∧
          (role = 2 → p = 0 ∨ d.tkeyBytes p ≠ sha3 pk ∨ sha3 pk = zeros 64 → said used 7 2) ∧
          (role = 2 → p ≠ 0 → d.tkeyBytes p = sha3 pk → sha3 pk ≠ zeros 64 →
            (d.partState p = 1 ∨ d.partState p = 2 →
              said ((used.modCtx c fun x => { x with cred := .tenant part, tkey := sha3 pk }).set (NOP_CTX_CFG_PART c) p) 0 0) ∧
            (d.partState p ≠ 1 → d.partState p ≠ 2 → said used 0x43 5)))) ∧
      (op = .commitSvn → d.secOwner c = true →
        let v := d.get SEC_SVN_IMAGE_SVN
        let n := if d.fuses.svn < v ∧ v ≤ 64 then v else d.fuses.svn
        exec i s = now (({ d with fuses := { d.fuses with svn := n } } : Dev).secReply c tag 0x31 0 0 (leBytes 4 n))) ∧
      (op = .commitSvn → d.secOwner c = false → exec i s = now (d.secReply c tag 0x31 7 7 [])) ∧
      (∀ off n, op = .flashErase off n → d.secOwner c = true →
        (off < bootBase → exec i s = now (d.secReply c tag 0x40 7 0 [])) ∧
        (bootBase ≤ off → off + n * Config.flashSector ≤ d.fuses.flashSize → off % max 1 Config.flashSector = 0 →
          let wiped := cclear d.fuses.flash off (off + n * Config.flashSector)
          exec i s = now (({ d with fuses := { d.fuses with flash := wiped } } : Dev).secReply c tag 0x40 0 0 []))) ∧
      (∀ off data, op = .flashWrite off data → d.secOwner c = true → data ≠ [] → data.length ≤ 8000 → off < bootBase →
        exec i s = now (d.secReply c tag 0x41 7 0 [])) ∧
      (∀ off data, op = .flashWrite off data → d.secOwner c = true → data ≠ [] → data.length ≤ 8000 → bootBase ≤ off →
        off + data.length ≤ d.fuses.flashSize →
        let put (e : Byte × Nat) : Byte :=
          (if d.flashByte (off + e.2) = 0xFF then e.1 else Config.flashMix (d.flashByte (off + e.2)) e.1) ^^^ 0xFF
        exec i s = now (({ d with fuses := { d.fuses with flash := cwrite d.fuses.flash off (data.zipIdx.map put) } } : Dev).secReply c tag 0x41 0 0 [])) ∧
      (∀ part nonce, op = .attest part nonce → part.val ≠ 0 →
        (d.secCovers c part.val = true → exec i s = now (d.secReply c tag 0x10 0 0 (d.report part.val nonce))) ∧
        (d.secCovers c part.val = false → exec i s = now (d.secReply c tag 0x10 7 7 []))) ∧
      (∀ m b, op = .secretPut m → 1 ≤ m.kind → m.kind ≤ 2 → m.part.val ≠ 0 → d.secCovers c m.part.val = true →
        let up := d.partState m.part.val = 1 ∨ d.partState m.part.val = 2
        (¬ up → exec i s = now (d.secReply c tag 0x21 0x43 5 [])) ∧
        (up → m.ekSerial ≠ (d.part m.part.val).ekSerial → exec i s = now (d.secReply c tag 0x21 0x43 3 [])) ∧
        (up → m.ekSerial = (d.part m.part.val).ekSerial →
          let x := d.newKem m.part.val
          (m.secret = none → exec i s = now (x.secReply c tag 0x21 7 6 [])) ∧
          (m.secret = some b → x.secretFits m = true → exec i s = now ((x.takeSecret c m b).secReply c tag 0x21 0 0 [])) ∧
          (m.secret = some b → x.secretFits m = false → exec i s = now (x.secReply c tag 0x21 0x43 5 [])))) ∧
      (∀ role, op = .getCert role →
        (4 < role → exec i s = now (d.secReply c tag 0x11 0x42 0 [])) ∧
        (role = 3 → d.sec.aliasDigest = [] → exec i s = now (d.secReply c tag 0x11 0x43 5 [])) ∧
        (role ≤ 4 → (role = 3 → d.sec.aliasDigest ≠ []) → exec i s = now (d.secReply c tag 0x11 0 0 (d.certificate role)))) ∧
      (∀ part first, op = .getDigests part first →
        let all := (d.region part.val).digests
        let got := (all.drop first).take 119
        (d.secCovers c part.val = true →
          exec i s = now (d.secReply c tag 0x12 0 0 (leBytes 4 got.length ++ leBytes 4 all.length ++ got.flatten))) ∧
        (d.secCovers c part.val = false → exec i s = now (d.secReply c tag 0x12 7 7 []))) ∧
      (∀ part, op = .kemGet part →
        let p := part.val
        let may := if p = 0 then d.secOwner c else d.secCovers c p
        let body := leBytes 1 p ++ zeros 3 ++ leBytes 4 (d.part p).ekSerial ++ ekBytes (d.part p).ek
        (may = false → exec i s = now (d.secReply c tag 0x20 7 7 [])) ∧
        (may = true → p ≠ 0 → d.partState p ≠ 1 → d.partState p ≠ 2 → exec i s = now (d.secReply c tag 0x20 0x43 5 [])) ∧
        (may = true → p = 0 ∨ d.partState p = 1 ∨ d.partState p = 2 →
          exec i s = now (d.secReply c tag 0x20 0 0 (body ++ d.aliasSig body)))) ∧
      (∀ kind auth digest pk sigOk, op = .enroll kind auth digest pk sigOk → (kind = 1 ∨ kind = 2) → auth ≤ 1 →
        let used := if kind = 1 then d.fuses.owners else d.fuses.imgKeys
        let known : Prop := (auth = 0 → sha3 pk = romDigest 1 ∧ d.fuses.owners = []) ∧ (auth = 1 → d.fuses.ownerDigest = some (sha3 pk))
        let held : Prop := kind = 1 ∧ ∃ p ∈ allParts, d.partState p ≠ 0
        let told (d : Dev) (st : Byte) (detail : Nat) (bs : List Byte) : Prop := exec i s = now (d.secReply c tag 0x30 st detail bs)
        (¬ known → told d 7 2 []) ∧
        (known → sigOk = false → told d 7 1 []) ∧
        (known → sigOk = true → held → told d 0x43 5 []) ∧
        (known → sigOk = true → ¬ held → 4 ≤ used.length → told d 0x43 4 []) ∧
        (known → sigOk = true → ¬ held → used.length < 4 → kind = 1 →
          told { d with fuses := { d.fuses with owners := used ++ [slice digest 0 64] }
                        ctxs := d.ctxs.map fun e => (e.1, if e.2.cred = .owner then { e.2 with cred := .none } else e.2) }
            0 0 (leBytes 1 used.length)) ∧
        (known → sigOk = true → ¬ held → used.length < 4 → kind = 2 →
          told { d with fuses := { d.fuses with imgKeys := used ++ [slice digest 0 64] } } 0 0 (leBytes 1 used.length)))) ∧
    (s.dev.sec.restarting = true →
      exec .secRestartDone s =
        now (s.dev.sec.calls.foldl (fun d w => if d.ctxState w.ctx = 2 then d.secServe w.ctx w.tag w.op else d)
          { s.dev with sec := { s.dev.sec with restarting := false, calls := [] } })) ∧
    (s.dev.sec.restarting = false → exec .secRestartDone s = now s.dev)
/-! ## Reset, boot and start-up (R32, R461 to R469, R522 to R534, R547, R548) -/

/-- R32, R523 to R526, R542: as RESET_N falls, or PWR_GOOD does, every register is at its reset value and all else as after reset, but
the fuses and the flash, and, where the rails stay, the TAP; RESET_CAUSE tells one from the other, and the fetch of the boot after a fall of RESET_N alone is
the one that BOOT_FETCH then named. As RESET_N rises the straps are taken and the device runs. In any other state these do nothing. -/
def Obligations.Resets : Prop :=
  ∀ (s : State) (straps : BitVec 4),
    let d := s.dev
    let cleared (u : State) (keep : List RF) (tap : Jtag) : Prop :=
      (∀ r : RF, (∀ q ∈ keep, r.key ≠ q.key) → u.dev.get r = r.rst) ∧ u.dev.tiles = [] ∧ u.dev.inReset = true ∧
      u.dev.fuses = d.fuses ∧ u.dev.jtag = tap ∧ u.dev.reqs = [] ∧ u.dev.ctxs = [] ∧ u.dev.ports = []
    (d.pins.resetN = true → d.inReset = false → d.stopped = false →
      ∃ u, exec .resetNAssert s = .next u ∧ cleared u [DMC_RESET_CAUSE] d.jtag ∧ u.dev.pins.resetN = false ∧ u.dev.get DMC_RESET_CAUSE = 1 ∧
        u.dev.bootFetch = some (d.is DMC_DUTY_MAP_BOOT_FETCH)) ∧
    (d.pins.resetN = true → d.inReset = true ∨ d.stopped = true →
      ∃ u, exec .resetNAssert s = .next u ∧ cleared u [DMC_RESET_CAUSE] d.jtag ∧ u.dev.pins.resetN = false ∧ u.dev.stopped = d.stopped ∧
        u.dev.bootFetch = d.bootFetch) ∧
    (d.pins.resetN = false → exec .resetNAssert s = .next (s.metered d)) ∧
    (∃ u, exec .pwrGoodFall s = .next u ∧ cleared u [] Jtag.init ∧ u.dev.pins.pwrGood = false ∧ u.dev.pins.thermtripN = true ∧
      u.dev.stopped = false ∧ u.dev.bootFetch = none ∧ u.dev.pins.resetN = d.pins.resetN) ∧
    (d.pins.resetN = true → exec (.resetNRelease straps) s = .next (s.metered d)) ∧
    (d.pins.resetN = false → d.stopped = false →
      let host := straps.getLsbD 0
      let x : Dev := { d with
        inReset := false
        pins := { d.pins with resetN := true, pwrGood := true, straps := straps }
        i3c := { I3c.init with static := if straps.getLsbD 3 then 0x51 else 0x50 }
        jtag := { d.jtag with ir := if d.jtag.ir = 1 then 1 else 0xF, driving := false } }
      let x := (x.flag DMC_DUTY_MAP_BOOT_FETCH host).set DMC_DUTY_STATE_EFFECTIVE (boolBit host)
      exec (.resetNRelease straps) s = .next (s.metered (x.flag SEC_BOOT_STATUS_SOURCE host).readFuses)) ∧
    (d.pins.resetN = false → d.stopped = true →
      exec (.resetNRelease straps) s = .next (s.metered { d with pins := { d.pins with resetN := true } }))

/-- R450, R461 to R468, R472, R527: after the ROM stage the image is fetched from flash, or waited for from the host; its header is
checked in the order of R466 and a refusal counts an attempt and waits for the host; a stream that pauses too long, ends early or
skips is truncated, and another context's is answered BUSY while one runs. The digest, the signer and the signature decide whether it is applied, and its frames start the
controller, which then serves the needs of sparing that wait. -/
def Obligations.BootStates : Prop :=
  ∀ (s : State) (part : PartId) (h : NHdr), s.dev.live = true →
    let d := s.dev
    let st := d.get SEC_BOOT_STATUS_STATE
    let now (d : Dev) : Host.Outcome State Fault Refusal := .next { s with dev := d }
    (∀ ok, d.get DMC_STATUS_STAGE = 0 →
      let x := ((d.set DMC_STATUS_STAGE 1).setDigest SEC_DEVICE_ID_V d.deviceId)
      let y := x.flag SEC_BOOT_STATUS_SOURCE x.fetchesHost
      (y.fetchesHost = true → exec (.romStageDone ok) s = now y.waitHost) ∧
      (y.fetchesHost = false → ok = true → y.fuses.flashSize ≠ 0 → exec (.romStageDone ok) s = now (y.set SEC_BOOT_STATUS_STATE 1)) ∧
      (y.fetchesHost = false → ok = false ∨ y.fuses.flashSize = 0 →
        exec (.romStageDone ok) s = now (y.set SEC_BOOT_STATUS_RESULT 0xB).waitHost)) ∧
    (∀ ok, d.get DMC_STATUS_STAGE ≠ 0 → exec (.romStageDone ok) s = now d) ∧
    (st = 1 → d.fuses.flashSize = 0 → exec .bootImageRead s = now (d.set SEC_BOOT_STATUS_RESULT 0xB).waitHost) ∧
    (st = 1 → d.fuses.flashSize ≠ 0 →
      let b := d.flashRead bootBase 128
      let n := bootLength b
      (d.bootHeader b ≠ 0 → exec .bootImageRead s = now (d.bootRefuse (d.bootHeader b))) ∧
      (d.bootHeader b = 0 → bootBase + n ≤ d.fuses.flashSize → n ≤ 2 ^ 26 →
        let x : Dev := { d with sec := { d.sec with bootImg := d.flashRead bootBase n, bootDone := true } }
        exec .bootImageRead s = now (x.set SEC_BOOT_STATUS_STATE 4)) ∧
      (d.bootHeader b = 0 → d.fuses.flashSize < bootBase + n ∨ 2 ^ 26 < n → exec .bootImageRead s = now (d.bootRefuse 1))) ∧
    (st ≠ 1 → exec .bootImageRead s = now d) ∧
    (st = 3 → exec .bootStreamTimeout s = now ((d.toTick (d.sec.bootLast + 105000000)).bootRefuse 1)) ∧
    (st ≠ 3 → exec .bootStreamTimeout s = now d) ∧
    (part.val = 0 →
      let served (n : Nat) : Prop := Served d h true true (hasLen h n)
      let now (d : Dev) : Host.Outcome State Fault Refusal := .next (s.metered d)
      let c := h.dctx.val
      let e := d.inTurn h true
      let st := e.get SEC_BOOT_STATUS_STATE
      (∀ off bs, served (16 + bs.length) → st = 2 → off = 0 →
        let x : Dev := { e with sec := { e.sec with bootImg := [], bootCtx := some c } }
        exec (.loadData h part off bs) s = now (((x.set SEC_BOOT_STATUS_SOURCE 1).set SEC_BOOT_STATUS_STATE 3).bootBytes bs)) ∧
      (∀ off bs, served (16 + bs.length) → st = 3 → e.sec.bootCtx = some c → off = e.sec.bootImg.length → exec (.loadData h part off bs) s = now (e.bootBytes bs)) ∧
      (∀ off bs, served (16 + bs.length) → st = 3 → e.sec.bootCtx = some c → off ≠ e.sec.bootImg.length → exec (.loadData h part off bs) s = now (e.bootRefuse 1)) ∧
      (∀ off bs, served (16 + bs.length) → st = 3 → e.sec.bootCtx ≠ some c → exec (.loadData h part off bs) s = now (e.loadBusy c off)) ∧
      (∀ off bs, served (16 + bs.length) → st ≠ 3 → st ≠ 2 ∨ off ≠ 0 → exec (.loadData h part off bs) s = now (e.ctxDrop c 1)) ∧
      (served 8 → st = 3 → e.sec.bootCtx = some c → exec (.loadEnd h part) s = now (e.bootRefuse 1)) ∧
      (served 8 → st ≠ 3 ∨ e.sec.bootCtx ≠ some c → exec (.loadEnd h part) s = now (e.ctxDrop c 1))) ∧
    (∀ sigOk, st = 4 →
      let b := d.sec.bootImg
      (d.bootChecks b sigOk ≠ 0 → exec (.bootVerify sigOk) s = now (d.bootRefuse (d.bootChecks b sigOk))) ∧
      (d.bootChecks b sigOk = 0 →
        let x := (d.flag SEC_BOOT_STATUS_SIGNER (d.ownerSigned b)).set SEC_BOOT_STATUS_STATE 5
        exec (.bootVerify sigOk) s = now { x with sec := { x.sec with aliasDigest := bootDigest b, aliasSvn := fieldAt b 24 4 } })) ∧
    (∀ sigOk, st ≠ 4 → exec (.bootVerify sigOk) s = now d) ∧
    (∀ k : Fin 64, st = 5 →
      let x : Dev := { d with sec := { d.sec with aliasDigest := [], aliasSvn := 0 } }
      exec (.bootApply (some k)) s = .next (s.metered ((x.set SEC_BOOT_STATUS_FRAME k.val).bootRefuse 0xC))) ∧
    (st = 5 → ∃ x : Dev, exec (.bootApply none) s = .next (s.metered x.resumeSparing) ∧
      (d.bootDefaults d.sec.bootImg).bootRun d.sec.bootImg = x.resumeSparing ∧
      x.get SEC_BOOT_STATUS_STATE = 6 ∧ x.get SEC_BOOT_STATUS_RESULT = 0 ∧ x.get DMC_STATUS_STAGE = 2 ∧
      x.sec.dmcFrame = bootFrame d.sec.bootImg 1 ∧ x.sec.tileFrame = bootFrame d.sec.bootImg 2) ∧
    (∀ r, st ≠ 5 → exec (.bootApply r) s = .next (s.metered d))

/-- R399, R527 to R534, R547, R548, R552: training makes the units READY, or under MEM_TRAINING 1 waits for the host to accept them, and
then the survey begins; its records are delivered, and the start-up survey leads to READY; five seconds later there is a second. GO
begins one, unless one runs, the controller restarts, or the host surveys. A read of a module's SPD gives its bytes, or ERR. A restart
of the controller, asked for while one runs, is BUSY; else it is counted and recorded, and the sixteenth within 60 s stops it. -/
def Obligations.StartUp : Prop :=
  ∀ (s : State) (cred : Cred) (v : Word), s.dev.live = true →
    let d := s.dev
    let now (d : Dev) : Host.Outcome State Fault Refusal := .next { s with dev := d }
    (∀ t : TrainResult, d.get DMC_STATUS_STAGE ≠ 2 → exec (.trainingStageDone t) s = now d) ∧
    (∀ t : TrainResult, d.get DMC_STATUS_STAGE = 2 →
      let e := d
      let next (d : Dev) : Dev :=
        let d := (d.set DMC_STATUS_STAGE 3).applyPend 9
        if d.duty 9 then d else d.startSurvey true false
      (e.duty 5 = false → exec (.trainingStageDone t) s = now (next ((e.hbmTrained t.hbm false).ddrTrained t.ddr false))) ∧
      (e.duty 5 = true → (∃ u : Fin 20, e.get (unitState u.val) = 1) →
        exec (.trainingStageDone t) s = now ((e.hbmTrained t.hbm true).ddrTrained t.ddr true)) ∧
      (e.duty 5 = true → (∀ u : Fin 20, e.get (unitState u.val) ≠ 1) → (∃ u : Fin 20, e.get (unitState u.val) = 2) →
        exec (.trainingStageDone t) s = now e) ∧
      (e.duty 5 = true → (∀ u : Fin 20, e.get (unitState u.val) ≠ 1) → (∀ u : Fin 20, e.get (unitState u.val) ≠ 2) →
        exec (.trainingStageDone t) s = now (next e))) ∧
    (isOwner cred = true →
      let e := d.w1c SRV_CTRL_REFUSED 1
      (e.is SRV_STATUS_RUNNING = true → exec (.surveyGo cred) s = now ((e.flag SRV_CTRL_REFUSED true).completed 0 0)) ∧
      (e.is SRV_STATUS_RUNNING = false →
        let x := e.applyPend 9
        (x.is SRV_STATUS_RUNNING = true ∨ x.dmcDown = true ∨ x.duty 9 = true →
          exec (.surveyGo cred) s = now ((x.flag SRV_CTRL_REFUSED true).completed 0 0)) ∧
        (x.is SRV_STATUS_RUNNING = false → x.dmcDown = false → x.duty 9 = false →
          exec (.surveyGo cred) s = now ((x.startSurvey false false).completed 0 0)))) ∧
    (∀ r : SurveyRx, (d.is SRV_STATUS_RUNNING = true → d.dmcDown = true → exec (.surveyDone r) s = now d) ∧
      (d.is SRV_STATUS_RUNNING = true → d.dmcDown = false → exec (.surveyDone r) s = now (d.surveyRecords r).becomeReady) ∧
      (d.is SRV_STATUS_RUNNING = false → d.duty 9 = true → exec (.surveyDone r) s = now d.becomeReady) ∧
      (d.is SRV_STATUS_RUNNING = false → d.duty 9 = false → exec (.surveyDone r) s = now d)) ∧
    (let e := (d.toTick (d.get DMC_READY_TIME_V + 5 * secLen)).applyPend 9
     (d.is DMC_STATUS_READY = true → d.survey.second = false → d.is SRV_STATUS_RUNNING = false → d.dmcDown = false →
       (e.duty 9 = false → exec .secondSurvey s = now (e.startSurvey false true)) ∧
       (e.duty 9 = true → exec .secondSurvey s = now e)) ∧
     (d.is DMC_STATUS_READY = false ∨ d.survey.second = true ∨ d.is SRV_STATUS_RUNNING = true ∨ d.dmcDown = true →
       exec .secondSurvey s = now d)) ∧
    (isOwner cred = true →
      let w := setBits v.toNat 61 61 1
      let x := ((d.take SRV_SPD_CMD_BLOCK w).take SRV_SPD_CMD_CHANNEL w).take SRV_SPD_CMD_SLOT w
      (d.survey.spdBusy = true → exec (.spdRead cred v) s = now (x.completed 0 0)) ∧
      (d.survey.spdBusy = false →
        let y : Dev := { x with survey := { x.survey with spdBusy := true } }
        exec (.spdRead cred v) s = now (((y.flag SRV_SPD_CMD_DONE false).flag SRV_SPD_CMD_ERR false).completed 0 0))) ∧
    (d.survey.spdBusy = true →
      let x := ({ d with survey := { d.survey with spdBusy := false } } : Dev).flag SRV_SPD_CMD_DONE true
      (∀ bs, exec (.spdReadDone (some bs)) s = now (x.setDigest SRV_SPD_DATA_V bs)) ∧
      exec (.spdReadDone none) s = now (x.flag SRV_SPD_CMD_ERR true)) ∧
    (d.survey.spdBusy = false → ∀ x, exec (.spdReadDone x) s = now d) ∧
    (isOwner cred = false →
      exec (.surveyGo cred) s = now (d.completed 7 0) ∧ exec (.spdRead cred v) s = now (d.completed 7 0)) ∧
    (d.dmcBusy DMC_CTRL = true → exec (.dmcRestart cred) s = .next (s.metered (d.completed 0x43 0))) ∧
    (d.dmcBusy DMC_CTRL = false → isOwner cred = false → exec (.dmcRestart cred) s = .next (s.metered (d.completed 7 0))) ∧
    (d.dmcBusy DMC_CTRL = false → isOwner cred = true →
      (d.dmcDown = false → d.pastBoot = true →
        exec (.dmcRestart cred) s = .next (s.metered ((d.dmcRestart s.mtr 0 none).completed 0 0))) ∧
      (d.dmcDown = true ∨ d.pastBoot = false → exec (.dmcRestart cred) s = .next (s.metered (d.completed 0 0)))) ∧
    (d.dmcDown = false → d.pastBoot = true → exec (.dmcWatchdog false) s = .next (s.metered (d.dmcRestart s.mtr 1 none)) ∧
      (let x := (d.log { cls := 2, sev := 3, unit := 12, detail := [Config.recordByte d.free 0, Config.recordByte d.free 1] }).draw
       exec (.dmcWatchdog true) s = .next (s.metered (x.dmcRestart s.mtr 2 (some x.lastFlt))))) ∧
    (d.dmcDown = true ∨ d.pastBoot = false → ∀ ue, exec (.dmcWatchdog ue) s = .next (s.metered d)) ∧
    (d.is DMC_STATUS_RESTARTING = true →
      exec .dmcRestartDone s = .next (s.metered ((d.flag DMC_STATUS_RESTARTING false).answerPulls s.mtr).resumeSparing)) ∧
    (d.is DMC_STATUS_RESTARTING = false → exec .dmcRestartDone s = .next (s.metered d))
/-! ## The meter's commands (R474 to R480, R486) -/

/-- R474, R476, R477, R479, R486: a reset of the meter, or its watchdog while it is powered, begins a new chain with meter time 0 and every
counter 0; loss of its supply takes its records. Each sample adds voltage times current over 1 us to every rail, and the millionth of a
second makes the power registers; a failed strip breaks the seal for good. At a multiple of INTERVAL the open record closes, and the
oldest undelivered record goes to the owner's pushed context, one at a time, unless the host reads them itself. -/
def Obligations.MeterCommands : Prop :=
  ∀ (s : State) (chain : List Byte) (romOk calOk : Bool) (rails : List (Nat × Nat)) (failed : BitVec 10),
    let m := s.mtr
    let d := s.dev
    let fresh (u : State) : Prop := u.pending = s.pending ∧ u.dev = { d with nop := { d.nop with meterNext := 0, meterSent := [] } } ∧
      u.mtr.powered = true ∧ u.mtr.chain = slice chain 0 32 ∧ u.mtr.samples = 0 ∧ u.mtr.nextSeq = 0 ∧ u.mtr.records = [] ∧ u.mtr.cum = 0 ∧
      u.mtr.start = 0 ∧ u.mtr.total = List.replicate 10 0 ∧ u.mtr.power = List.replicate 10 0 ∧ u.mtr.first = true ∧
      u.mtr.sealOk = (romOk && calOk)
    (∃ u, exec (.meterReset chain romOk calOk) s = .next u ∧ fresh u) ∧
    (m.powered = true → ∃ u, exec (.meterWatchdog chain romOk calOk) s = .next u ∧ fresh u) ∧
    (m.powered = false → exec (.meterWatchdog chain romOk calOk) s = .next s ∧ exec (.meterSample rails) s = .next s ∧
      exec (.meterSealCheck failed) s = .next s ∧ exec .meterIntervalClose s = .next s) ∧
    exec .vddMtrFall s = .next { s with mtr := { m with powered := false, records := [] } } ∧
    (m.powered = true →
      (∃ u, exec (.meterSample rails) s = .next u ∧ u.dev = d ∧ u.pending = s.pending ∧ u.mtr.samples = m.samples + 1 ∧
        (m.atInterval d = true → m.start ≠ m.ticks → u.mtr.nextSeq = m.nextSeq + 1 ∧ u.mtr.start = m.ticks) ∧
        (m.atInterval d = false ∨ m.start = m.ticks → u.mtr.nextSeq = m.nextSeq ∧ u.mtr.start = m.start ∧ u.mtr.records = m.records) ∧
        ∀ i : Fin 10,
          let pj := m.frac.getD i.val 0 + (rails.getD i.val (0, 0)).1 * (rails.getD i.val (0, 0)).2
          u.mtr.frac.getD i.val 0 = pj % 1000000 ∧ u.mtr.total.getD i.val 0 = m.total.getD i.val 0 + pj / 1000000 ∧
          (m.atInterval d = false ∨ m.start = m.ticks → u.mtr.acc.getD i.val 0 = m.acc.getD i.val 0 + pj / 1000000) ∧
          ((m.samples + 1) % 1000000 = 0 → u.mtr.second.getD i.val 0 = 0 ∧
            u.mtr.power.getD i.val 0 = (m.second.getD i.val 0 + pj / 1000000) / 1000) ∧
          ((m.samples + 1) % 1000000 ≠ 0 → u.mtr.power = m.power ∧
            u.mtr.second.getD i.val 0 = m.second.getD i.val 0 + pj / 1000000)) ∧
      (∃ u, exec (.meterSealCheck failed) s = .next u ∧ u = { s with mtr := { m with strips := m.strips ||| failed } } ∧
        (m.sealOk = false ∨ failed ≠ 0 → u.mtr.sealOk = false) ∧ (failed = 0 → u.mtr.sealOk = m.sealOk)) ∧
      (let n := d.fuses.interval * 1000000
       (m.atInterval d = true → m.start ≠ m.ticks → exec .meterIntervalClose s = .next { s with mtr := m.close d d false false }) ∧
       (m.atInterval d = false ∨ m.start = m.ticks → 0 < n →
         let t := m.goTo ((m.samples / n + 1) * n)
         t.samples = (m.samples / n + 1) * n ∧ t.second = List.replicate 10 0 ∧
         (m.start ≠ t.ticks → exec .meterIntervalClose s = .next { s with mtr := t.close d d false false }) ∧
         (m.start = t.ticks → exec .meterIntervalClose s = .next { s with mtr := t })))) ∧
    (d.live = true →
      let e := d.applyPend 11
      let c := e.get NOP_PUSH_CTX
      (d.nop.meterSent ≠ [] → exec .meterRecordDeliver s = .next (s.metered d)) ∧
      (d.nop.meterSent = [] → e.duty 11 = true ∨ e.pushReady = false ∨ (e.ctx c).cred ≠ .owner ∨ m.undelivered e.nop.meterNext = none →
        exec .meterRecordDeliver s = .next (s.metered e)) ∧
      (∀ x, d.nop.meterSent = [] → e.duty 11 = false → e.pushReady = true → (e.ctx c).cred = .owner →
        m.undelivered e.nop.meterNext = some x →
        let y : Dev := { e with nop := { e.nop with meterNext := x.seq + 1, meterSent := [x.seq] } }
        exec .meterRecordDeliver s = .next (s.metered (y.queueMsg c
          { mkMsg 0x50 0 c true (beBytes 2 3 ++ beBytes 2 1 ++ zeros 4 ++ meterBytes x) with record := some x.seq }))))

/-! ## Sparing and repair (R398, R505 to R517) -/

/-- R500, R506, R507, R511, R512: a command of SPR_CMD starts its action, or sets REFUSED where a precondition fails: a tile that is not
fenced yet is fenced as the next cycle begins; a shift starts where none runs and the spare is free; the mapping out of found array
faults, the repair of a line where its bank has a spare, of the crossing's lane that needs one where its group has a spare, of a row
with a buffer (a line or row that still holds an uncorrectable word is refused, log 32), and the failover of a port that
is not UP to a V port that is ready. Without the owner's credential each completes with DENIED. -/
def Obligations.SpareCommands : Prop :=
  ∀ (s : State) (cred : Cred) (tile : TileId) (link : Fin 32) (stack : Fin 12) (unit : Fin 20) (port : PortId) (line : Nat),
    s.dev.live = true →
    let d := s.dev
    let y (kind target line : Nat) : Dev :=
      (((d.set SPR_CMD_TARGET target).set SPR_CMD_LINE line).set SPR_CMD_KIND kind).w1c SPR_CMD_REFUSED (sprCmd kind target line)
    let done (e : Instr) (x : Dev) : Prop := exec e s = .next (s.metered ((x.flag SPR_CMD_REFUSED false).completed 0 0))
    let refused (e : Instr) (x : Dev) : Prop := exec e s = .next (s.metered ((x.flag SPR_CMD_REFUSED true).completed 0 0))
    let n := tile.val
    let l := line % 2 ^ 16
    (isOwner cred = true →
      (let x := y 15 n 0
       ((x.tile n).fenced = true → refused (.fenceCmd cred tile) x) ∧
       ((x.tile n).fenced = false → done (.fenceCmd cred tile)
          { x with spare := { x.spare with fenceNext := x.spare.fenceNext.filter (· != n) ++ [n] } })) ∧
      (let x := y 1 n 0
       (x.spare.shift.isSome = true ∨ x.spareFree (spareFor n) = false → refused (.spareCmdTile cred tile) x) ∧
       (x.spare.shift = none → x.spareFree (spareFor n) = true → done (.spareCmdTile cred tile) ((x.dropNeed 1 n 0).startShift n))) ∧
      (let x := y 2 n 0
       let mine := x.spare.arrayFaults.filter fun e => e.1 == n
       (mine = [] → refused (.spareCmdArray cred tile) x) ∧
       (mine ≠ [] →
          let z := mine.foldl (fun d e => (d.dropNeed 2 n e.2.2).modTile n fun t => { t with repairWait := t.repairWait ++ [e.2] }) x
          done (.spareCmdArray cred tile) { z with spare := { z.spare with arrayFaults := z.spare.arrayFaults.filter fun e => e.1 != n } })) ∧
      (let x := y 3 n l
       let t := x.tile n
       let used := (t.lineRepairs.filter fun e => e.2 == bankOf t.hashed l).length
       (98304 ≤ l ∨ (t.lineRepairs.any fun e => e.1 == l) = true ∨ t.lineBad l = true ∨ 32 ≤ used → refused (.spareCmdLine cred tile line) x) ∧
       (l < 98304 → (t.lineRepairs.any fun e => e.1 == l) = false → t.lineBad l = false → used < 32 →
          done (.spareCmdLine cred tile line) ((x.dropNeed 3 n l).lineRepair n l))) ∧
      (let x := y 4 link.val 0
       let lane := x.laneTarget link.val
       let z := x.dropNeed 4 link.val (lane % 2048)
       (z.groupTaken (laneGroup lane) = true → refused (.spareCmdLane cred link) x) ∧
       (z.groupTaken (laneGroup lane) = false →
          done (.spareCmdLane cred link) { z with spare := { z.spare with laneWait := z.spare.laneWait ++ [lane] } })) ∧
      (let x := y 5 stack.val 0
       let used := x.get (HBM_S_STATUS_LANES stack.val) + mget x.mem.replaced 0 stack.val
       (Config.hbmSpares stack.val ≤ used → refused (.spareCmdHbmLane cred stack) x) ∧
       (used < Config.hbmSpares stack.val →
          let z := x.dropNeed 5 stack.val 0
          done (.spareCmdHbmLane cred stack) { z with mem := { z.mem with replaced := mset z.mem.replaced stack.val (mget z.mem.replaced 0 stack.val + 1) } })) ∧
      (let x := y 6 unit.val l
       let used := (x.mem.rowBufs.filter (·.1 == unit.val)).length + (x.mem.rowCopy.filter (·.1 == unit.val)).length
       (rowRoom unit.val ≤ used ∨ (unit.val, l) ∈ x.mem.rowBufs ∨ (unit.val, l) ∈ x.mem.rowCopy ∨ x.rowBad unit.val l = true →
          refused (.spareCmdRow cred unit line) x) ∧
       (used < rowRoom unit.val → (unit.val, l) ∉ x.mem.rowBufs → (unit.val, l) ∉ x.mem.rowCopy → x.rowBad unit.val l = false →
          done (.spareCmdRow cred unit line) ((x.dropNeed 6 unit.val l).startRow unit.val l))) ∧
      (let x := y 7 port.val 0
       let fits := 1 ≤ port.val ∧ port.val ≤ 16 ∧ x.ethState port.val ≠ ethUp ∧ x.vReady = true
       (¬ fits → refused (.spareCmdPort cred port) x) ∧
       (fits → done (.spareCmdPort cred port) (x.sparePort port.val)))) ∧
    (isOwner cred = false →
      ∀ e ∈ [Instr.fenceCmd cred tile, .spareCmdTile cred tile, .spareCmdArray cred tile, .spareCmdLine cred tile line, .spareCmdLane cred link,
        .spareCmdHbmLane cred stack, .spareCmdRow cred unit line, .spareCmdPort cred port],
        exec e s = .next (s.metered (d.completed 7 0)))

/-- R309, R326, R507 to R510: a deferred shift resumes once its segment lies in one partition; QUIET puts a running region on HOLD and
ends as the segment is quiet, or is given up after LIMIT cycles; in hardware mode both wait while the management controller is down (R547); an uncorrectable word that COPY meets in the first source tile that
holds one, known before or not (then at a free place), fences that tile and makes the shift its own; 64 cycles after SWITCH began the segment's tiles take their new positions, each its neighbour's, and the shift ends. -/
def Obligations.Shifts : Prop :=
  ∀ (s : State), s.dev.live = true →
    let d := s.dev
    let now (x : Dev) : Host.Outcome State Fault Refusal := .next (s.metered x)
    (d.spare.shift = none → ∀ b, exec .shiftResume s = now d ∧ exec .shiftQuietDone s = now d ∧ exec .shiftQuietTimeout s = now d ∧
      exec (.shiftCopyDone b) s = now d ∧ exec .shiftSwitchDone s = now d) ∧
    (∀ x, d.spare.shift = some x →
      let n := x.target
      let p := (d.tile n).part
      (d.shiftState = 1 → d.shiftBlock n = none → d.shiftWaits = false → exec .shiftResume s = now (d.shiftQuiet n)) ∧
      (d.shiftState ≠ 1 ∨ (d.shiftBlock n).isSome = true ∨ d.shiftWaits = true → exec .shiftResume s = now d) ∧
      (d.shiftState ≠ 2 → exec .shiftQuietDone s = now d ∧ exec .shiftQuietTimeout s = now d) ∧
      (d.shiftState = 2 →
        let late := p ≠ 0 ∧ d.regionState p = 5 ∧ d.is (ADM_P_CTRL_HOLD p) = false
        let y : Dev := ({ d with spare := { d.spare with shift := some { x with setHold := true } } } : Dev).flag (ADM_P_CTRL_HOLD p) true
        let copied (e : Dev) : Dev := e.setShift 3 fun y => { y with copyFrom := e.regionState p }
        (d.shiftWaits = true → exec .shiftQuietDone s = now d) ∧
        (d.shiftWaits = false → late → y.shiftIsQuiet x = true → exec .shiftQuietDone s = now (copied y)) ∧
        (d.shiftWaits = false → late → y.shiftIsQuiet x = false → exec .shiftQuietDone s = now y) ∧
        (d.shiftWaits = false → ¬ late → d.shiftIsQuiet x = true → exec .shiftQuietDone s = now (copied d)) ∧
        (¬ late → d.shiftIsQuiet x = false → exec .shiftQuietDone s = now d) ∧
        (x.zeroAt = none ∨ p = 0 ∨ d.regionState p ≠ 5 ∨ d.shiftIsQuiet x = true → exec .shiftQuietTimeout s = now d) ∧
        (∀ t, x.zeroAt = some t → p ≠ 0 → d.regionState p = 5 → d.shiftIsQuiet x = false →
          let e := d.toTick (t + d.get (PART_P_DRAIN_LIMIT p))
          let f := if x.setHold then e.flag (ADM_P_CTRL_HOLD p) false else e
          exec .shiftQuietTimeout s = now ((f.set SPR_ACTION_BLOCKING p).setShift 1
            fun y => { y with setHold := false, deferred := true, blocking := p, zeroAt := none }))) ∧
      (d.shiftState ≠ 3 → ∀ b, exec (.shiftCopyDone b) s = now d) ∧
      (d.shiftState = 3 → ∀ b : Option TileId,
        let met := (segment n).find? fun m => d.copySource x m && (b.map (·.val) == some m || !(d.tile m).bad.isEmpty)
        (met = none → b = none → exec (.shiftCopyDone b) s = now (d.setShift 4 fun y => y)) ∧
        (met = none → b ≠ none → exec (.shiftCopyDone b) s = now d) ∧
        (∀ m, met = some m →
          let off := match (d.tile m).bad with
            | w :: ws => ws.foldl min w
            | [] => Config.copyError d.free
          let e := (d.draw.modTile m fun t => t.markBad off).setShift 2 fun y => { y with target := m, fenced := true, zeroAt := none }
          let e := e.set SPR_ACTION_TARGET m
          let f := if x.fenced then e.addNeed 1 n 0 else e
          exec (.shiftCopyDone b) s = now ((f.ueRecord m off rdCopy 0 0 3 4).fence m 1))) ∧
      (d.shiftState ≠ 4 → exec .shiftSwitchDone s = now d) ∧
      (d.shiftState = 4 →
        let e := d.toTick (x.since + 64)
        let z := (e.shiftMoved x).shiftResumed x
        let w := z.modRegion (z.tile n).part fun r => { r with bestEffort := true }
        (z.shiftSlow x = false →
          exec .shiftSwitchDone s = now (z.shiftEnded x (e.physOf n) (z.shiftCount x (e.shiftPlaces n)) false)) ∧
        (z.shiftSlow x = true →
          exec .shiftSwitchDone s = now (w.shiftEnded x (e.physOf n) (w.shiftCount x (e.shiftPlaces n)) true)) ∧
        ∀ q ∈ e.shiftPlaces n, n < 256 → (e.shiftMoved x).physOf q.1 = q.2))

/-- R150, R376, R398, R502, R506, R511, R512, R547: a row that has been given a slot to be copied in (log 31) fills a buffer of its unit, whose last one advises the
unit; a group's spare lane takes over for the crossing's lane that has waited longest, with a replay of its channel, and both are recorded. The check of an idle array records a faulty row, column or lane; a row or column is mapped out, or waits for the host
under SPARING 1 or while the controller is down, the third one and any lane fence the tile. -/
def Obligations.Repairs : Prop :=
  ∀ (s : State) (unit : Fin 20) (row : Nat) (link : Fin 32) (tile : TileId), s.dev.live = true →
    let d := s.dev
    let now (x : Dev) : Host.Outcome State Fault Refusal := .next (s.metered x)
    let u := unit.val
    let n := tile.val
    ((u, row) ∉ d.mem.rowCopy ∨ (u, row) ∉ d.mem.rowGiven → exec (.rowCopy unit row) s = now d) ∧
    ((u, row) ∈ d.mem.rowCopy → (u, row) ∈ d.mem.rowGiven →
      let e : Dev := { d with mem := { d.mem with
        rowCopy := d.mem.rowCopy.filter (· != (u, row)), rowGiven := d.mem.rowGiven.filter (· != (u, row))
        rowBufs := d.mem.rowBufs ++ [(u, row)] } }
      let used := (e.mem.rowBufs.filter (·.1 == u)).length
      let z := (e.set (rowField u) used).spared 6 none (if u < 12 then 9 else 10) (zeros 11 ++ leBytes 1 (rowRoom u - used)) (used == rowRoom u && e.rises 1)
      (used ≠ rowRoom u → exec (.rowCopy unit row) s = now z) ∧
      (used = rowRoom u → exec (.rowCopy unit row) s = now ((z.raiseLevel 1 (if u < 12 then 6 else 8)).adviseUnit u))) ∧
    (d.spare.laneWait.find? (fun l => laneLink l == link.val) = none → exec (.laneRepair link) s = now d) ∧
    (∀ l, d.spare.laneWait.find? (fun l => laneLink l == link.val) = some l →
      let k := link.val
      let g := laneGroup l
      let e : Dev := { d with
        spare := { d.spare with laneWait := d.spare.laneWait.filter (· != l), lanesUsed := mset d.spare.lanesUsed g 1 }
        fuses := { d.fuses with laneSpares := g :: d.fuses.laneSpares.filter (· != g) } }
      let c := crossingEnd k (l / 1024 % 2 == 0)
      let z := (e.set (MESH_XLINK_SPARES_USED k) (e.sparesUsed k)).countReplay c.1 c.2
      exec (.laneRepair link) s = now ((z.spared 4 none 8 (zeros 12) (z.rises 1)).raiseLevel 1 4)) ∧
    ((d.tile n).mx.busy = true → ∀ x, exec (.arrayCheck tile x) s = now d) ∧
    ((d.tile n).mx.busy = false →
      let e := d.toTick ((d.tile n).mxIdle + 2048)
      let t := e.tile n
      exec (.arrayCheck tile none) s = now (e.modTile n fun t => { t with lastCheck := e.now }) ∧
      (∀ i, exec (.arrayCheck tile (some (.lane i))) s = now ((e.arrayRecord n 15 i 0xFF 4 (if t.fenced then 0 else 4)).fence n 2)) ∧
      ∀ (isRow : Bool) (i : Nat),
        let c := Instr.arrayCheck tile (some (if isRow then .row i else .col i))
        let mapped := if isRow then t.badRows else t.badCols
        let waiting := ((t.repairWait.filter fun e => e.1 == isRow).map (·.2)) ++
          ((e.spare.arrayFaults.filter fun e => e.1 == n && e.2.1 == isRow).map (·.2.2))
        let last : Bool := decide (2 ≤ mapped.length + waiting.length)
        let action := if last then (if t.fenced then 0 else 4) + (if e.rises 2 then 16 else 0) else 0
        let x := if isRow then e.arrayRecord n 14 i 0 1 action else e.arrayRecord n 14 0 i 2 action
        (i ∈ mapped ∨ i ∈ waiting → exec c s = now e) ∧
        (i ∉ mapped → i ∉ waiting → 2 ≤ mapped.length + waiting.length → exec c s = now ((x.raiseLevel 2 2).fence n 2)) ∧
        (i ∉ mapped → i ∉ waiting → mapped.length + waiting.length < 2 → x.sparesItself = false →
          exec c s = now (({ x with spare := { x.spare with arrayFaults := x.spare.arrayFaults ++ [(n, isRow, i)] } } : Dev).addNeed 2 n i)) ∧
        (i ∉ mapped → i ∉ waiting → mapped.length + waiting.length < 2 → x.sparesItself = true →
          exec c s = now (x.modTile n fun t => { t with repairWait := t.repairWait ++ [(isRow, i)] })))

/-! ## Upkeep, power and heat (R493 to R496, R506, R514, R517, R535 to R545) -/

/-- R493, R494, R496, R506, R514, R516, R517: a walker's heartbeat is 1,024 cycles after the last, with the votes on its configuration
(what upset its flops is free), and one whose configuration differs is reset by
its partner, as is one that is stuck or has given no heartbeat for 4,096 cycles, unless either walker has stopped. A host-named scrub starts
where none runs and scrubbing is effective as 1. Each position's margin is measured, and the tile it hosts, or a spare that hosts none, ages by it; FAULT_N is
released 1 ms after the latest record of severity 3 or 4 unless something else asserts it. -/
def Obligations.Upkeep : Prop :=
  ∀ (s : State) (cred : Cred) (v : Word) (die : Fin 4) (b : Bool) (phys : Fin 512) (margin : Nat), s.dev.live = true →
    let d := s.dev
    let now (x : Dev) : Host.Outcome State Fault Refusal := .next (s.metered x)
    let w := 2 * die.val + (if b then 1 else 0)
    let x := mget d.scrub.walkers Walker.init w
    (d.is (FLT_WALKER_STOPPED w) = true → ∀ ok, exec (.walkerHeartbeat die b ok) s = now d) ∧
    (d.is (FLT_WALKER_STOPPED w) = false →
      let t := d.toTick (x.beatAt + 1024)
      let e (ok : Bool) := (t.modWalker w fun x => { x with beatAt := t.tick }).walkerVoted w ok
      (∀ ok, ok = true ∨ (e ok).walkersUp w = false → exec (.walkerHeartbeat die b ok) s = now (e ok)) ∧
      ((e false).walkersUp w = true → exec (.walkerHeartbeat die b false) s = now ((e false).walkerReset w 1))) ∧
    (d.walkersUp w = false → ∀ stuck, exec (.walkerHeartbeatTimeout die b stuck) s = now d) ∧
    (d.walkersUp w = true →
      exec (.walkerHeartbeatTimeout die b false) s = now ((d.toTick (x.beatAt + 4096)).walkerReset w 0) ∧
      (x.moved = true → exec (.walkerHeartbeatTimeout die b true) s = now (d.modWalker w fun y => { y with moved := false })) ∧
      (x.moved = false → exec (.walkerHeartbeatTimeout die b true) s = now (d.walkerReset w 2))) ∧
    (isOwner cred = true →
      let g := setBits v.toNat 62 62 1
      let y := (((d.take FLT_SCRUB_CMD_TIER g).take FLT_SCRUB_CMD_TILE g).take FLT_SCRUB_CMD_FIRST g).take FLT_SCRUB_CMD_COUNT g
      let tier := y.get FLT_SCRUB_CMD_TIER
      let r := y.scrubRange tier (y.get FLT_SCRUB_CMD_FIRST) (y.get FLT_SCRUB_CMD_COUNT)
      let done (z : Dev) : Prop := exec (.scrubCommand cred v) s = .next { s with dev := z.completed 0 0 }
      (y.duty 3 = false ∨ y.scrub.cmd.isSome = true ∨ tier = 3 → done y) ∧
      (y.duty 3 = true → y.scrub.cmd = none → tier ≠ 3 → r.2 = 0 → done (y.flag FLT_SCRUB_CMD_DONE true)) ∧
      (y.duty 3 = true → y.scrub.cmd = none → tier ≠ 3 → r.2 ≠ 0 →
        let z : Dev := { y with scrub := { y.scrub with cmd := some (tier, y.get FLT_SCRUB_CMD_TILE, r.1, r.2) } }
        done (z.flag FLT_SCRUB_CMD_DONE false))) ∧
    (68 ≤ phys.val % 128 → exec (.ageingMeasure phys margin) s = now d) ∧
    (phys.val % 128 < 68 →
      let m := min margin 65535
      let e : Dev := { d with power := { d.power with margins := mset d.power.margins phys.val m } }
      (∀ n, e.hosted phys.val = some n →
        exec (.ageingMeasure phys margin) s =
          now ((e.set (SPR_T_HEALTH_MARGIN n) m).aged n m).nextShift) ∧
      (e.hosted phys.val = none → isSpare phys.val = true → m < e.get SPR_CFG_ADVISE_PS →
        exec (.ageingMeasure phys margin) s =
          now ((e.ageRecord phys.val m none (if e.rises 1 then 16 else 0)).raiseLevel 1 0).nextShift) ∧
      (e.hosted phys.val = none → isSpare phys.val = false ∨ e.get SPR_CFG_ADVISE_PS ≤ m →
        exec (.ageingMeasure phys margin) s = now e.nextShift)) ∧
    (isOwner cred = false → exec (.scrubCommand cred v) s = .next { s with dev := d.completed 7 0 }) ∧
    (let e := d.toTick d.power.faultUntil
     let asserted := e.get SPR_CFG_FAULT_LEVEL ≤ e.get SPR_STATUS_LEVEL ∨ e.get PWR_STATUS_STATE = 3 ∨ e.tick < e.power.faultUntil
     (asserted → exec .faultPulseEnd s = now { e with pins := { e.pins with faultN := false } }) ∧
     (¬ asserted → exec .faultPulseEnd s = now { e with pins := { e.pins with faultN := true } }))

/-- R536 to R539, R549: the owner requests a mode; a 100 ms average of the rails' powers (the operand where PMBus gave none, log 31) above the limit of ARRAY's mode lowers CAP by one once its last step
has reached ARRAY, and is recorded; CAP rises after 10 s of room. The core voltage rises 5 mV where the worst margin is below target, falls
2.5 mV at most every 100 ms where it is 10 ps above, and is fixed with EN 0. Rails are polled once the boot stage has ended, a new warning
or 100 ms of silence is recorded. -/
def Obligations.PowerControl : Prop :=
  ∀ (s : State) (cred : Cred) (v : Word) (mw : Nat) (rail : Fin 10) (r : RailRx), s.dev.live = true →
    let d := s.dev
    let now (d : Dev) : Host.Outcome State Fault Refusal := .next { s with dev := d }
    (isOwner cred = true →
      (PWR_ENVELOPE_REQ.of v.toNat < 3 → exec (.envelopeReq cred v) s =
        now ((((d.set PWR_ENVELOPE_REQ (PWR_ENVELOPE_REQ.of v.toNat)).take PWR_ENVELOPE_AUTO v.toNat).remode).completed 0 0)) ∧
      (3 ≤ PWR_ENVELOPE_REQ.of v.toNat → exec (.envelopeReq cred v) s = now (((d.take PWR_ENVELOPE_AUTO v.toNat).remode).completed 0 0))) ∧
    (isOwner cred = false → exec (.envelopeReq cred v) s = now (d.completed 7 0)) ∧
    (let avg := if d.power.railTold.contains 0 then s.mtr.power.sum else d.meanPower mw
     let e := ({ d with power := { d.power with avg := avg } } : Dev).set PWR_STATUS_PKG_W (min (avg / 1000) 65535)
     let above := e.is PWR_ENVELOPE_AUTO = true ∧ modeLimit (e.get PWR_ENVELOPE_ARRAY) < avg
     let falls := e.get PWR_ENVELOPE_CAP < 2 ∧ e.power.capStep ≤ e.get PWR_ENVELOPE_ARRAY
     let told (d : Dev) : Dev := ((d.thermalRecord 4 d.noSource).draw).capWatch
     (¬ above → exec (.powerAverage mw) s = .next (s.metered e.capWatch)) ∧
     (above → ¬ falls → exec (.powerAverage mw) s = .next (s.metered (told e))) ∧
     (above → falls →
       let x := e.capDown
       x.get PWR_ENVELOPE_CAP = e.get PWR_ENVELOPE_CAP + 1 ∧
       exec (.powerAverage mw) s = .next (s.metered (told x)))) ∧
    (d.power.coolSince = none → exec .capRise s = now d) ∧
    (∀ t, d.power.coolSince = some t →
      let e := d.toTick (t + tenSeconds)
      let m := e.get PWR_ENVELOPE_CAP - 1
      (e.capCool = true → exec .capRise s =
        now (e.setCap m)) ∧
      (e.capCool = false → exec .capRise s = now e.capWatch)) ∧
    (d.pastBoot = false → exec .avsAdjust s = now d ∧ exec (.pmbusPoll rail r) s = now d ∧ exec (.regulatorTimeout rail) s = now d) ∧
    (d.pastBoot = true →
      let set := d.get PWR_AVS_SET
      let target := d.get PWR_AVS_TARGET_PS
      (d.is PWR_AVS_EN = false → exec .avsAdjust s = now (d.setAvs (d.get PWR_AVS_FIXED))) ∧
      (d.is PWR_AVS_EN = true → d.marginM = none → exec .avsAdjust s = now d) ∧
      (∀ m, d.is PWR_AVS_EN = true → d.marginM = some m →
        (m < target → exec .avsAdjust s = now (d.setAvs (min 7500 (set + 50)))) ∧
        (target + 10 ≤ m → d.power.avsAt + 100 * msLen ≤ d.tick → exec .avsAdjust s = now (d.setAvs (max 6000 (set - 25)))) ∧
        (target ≤ m → m < target + 10 ∨ d.tick < d.power.avsAt + 100 * msLen → exec .avsAdjust s = now d))) ∧
    (let k := rail.val
     let told (d : Dev) : Dev :=
       (d.thermalRecord 5 (leBytes 1 3 ++ leBytes 2 k ++ leBytes 1 (d.get (PWR_RAIL_TEMP k)) ++ [Config.recordByte d.free 4])).draw
     (d.railAddr k = 0 → exec (.pmbusPoll rail r) s = now d ∧ exec (.regulatorTimeout rail) s = now d) ∧
     (d.railAddr k ≠ 0 → d.pastBoot = true →
       let x := (((d.set (PWR_RAIL_IOUT k) r.iout).set (PWR_RAIL_VOUT k) r.vout).set (PWR_RAIL_TEMP k) r.temp).set (PWR_RAIL_STATUS_WORD k) r.status
       let y : Dev := { x with power := { x.power with
         rails := mset d.power.rails k r, railAt := mset d.power.railAt k d.tick, railTold := d.power.railTold.filter (· != k) } }
       let y := y.samplePower
       let news := ∃ i : Fin 16, bit r.status i.val = 1 ∧ bit (d.get (PWR_RAIL_STATUS_WORD k)) i.val = 0
       (¬ news → exec (.pmbusPoll rail r) s = now y) ∧
       (news → exec (.pmbusPoll rail r) s =
         now (y.thermalRecord 5 (leBytes 1 3 ++ leBytes 2 k ++ leBytes 1 r.temp ++ [Config.recordByte y.free 4])).draw) ∧
       (k ∈ d.power.railTold → exec (.regulatorTimeout rail) s = now d) ∧
       (k ∉ d.power.railTold →
         let e := d.toTick (mget d.power.railAt 0 k + 100 * msLen)
         exec (.regulatorTimeout rail) s = now (told { e with power := { e.power with railTold := e.power.railTold ++ [k] } }))))

/-- R540 to R545, R547: one reading of every sensor trips the device where a sensor has read 105 °C or more twice running, else takes it to
the highest higher state some sensor has held at for ten readings, else down after a thousand cool ones; each second in WARN lowers CAP by
one under AUTO. The telemetry sets are composed at the end of a period, share its sequence number, and are pushed where TELEMETRY is 0, but not
once the controller has stopped. -/
def Obligations.ThermalControl : Prop :=
  ∀ (s : State) (temps : List (Nat × Int)), s.dev.live = true →
    let d := s.dev
    let now (d : Dev) : Host.Outcome State Fault Refusal := .next { s with dev := d }
    (let e := (d.readSensors temps).showTemps
     let trips := ∃ q ∈ e.power.trip, 2 ≤ q.2
     let cur := e.get PWR_STATUS_STATE
     (trips → exec (.thermalSample temps) s = now { e with stopped := true, pins := { e.pins with thermtripN := false } }) ∧
     (¬ trips →
       (∀ k i, 1 ≤ k → k ≤ 3 → cur < k → e.hotFor k = some i → (∀ j, k < j → j ≤ 3 → e.hotFor j = none) →
         exec (.thermalSample temps) s = now (e.thermalUp k i)) ∧
       ((∀ k, cur < k → k ≤ 3 → e.hotFor k = none) →
         (cur ≠ 0 → 1000 ≤ e.power.below → exec (.thermalSample temps) s = now e.thermalDown) ∧
         (cur = 0 ∨ e.power.below < 1000 → exec (.thermalSample temps) s = now e)))) ∧
    (d.get PWR_STATUS_STATE ≠ 1 → exec .warnStep s = now d) ∧
    (d.get PWR_STATUS_STATE = 1 →
      let t := d.toTick (d.power.stateSince + secLen)
      let e : Dev := { t with power := { t.power with stateSince := t.tick } }
      (e.is PWR_ENVELOPE_AUTO = true → exec .warnStep s = now e.capDown) ∧
      (e.is PWR_ENVELOPE_AUTO = false → exec .warnStep s = now e)) ∧
    (d.is DMC_STATUS_RESTARTING = true → exec .telemetryCompose s = .next (s.metered d)) ∧
    (d.is DMC_STATUS_RESTARTING = false →
      let e := (d.toTick (d.power.telemAt + d.get PWR_TELEM_PERIOD * msLen)).applyPend 10
      let e : Dev := { e with power := { e.power with telemAt := e.tick } }
      let stays := e.is DMC_STATUS_STOPPED = true ∧ e.duty 10 = false
      let y : Dev := { e with
        i3c := { e.i3c with set1 := e.telemSet1 s.mtr.sealOk, set2 := e.telemSet2, seq1 := e.i3c.seq1 + 1 } }
      (stays → exec .telemetryCompose s = .next (s.metered e)) ∧
      (y.duty 10 = true → exec .telemetryCompose s = .next (s.metered y)) ∧
      (¬ stays → y.duty 10 = false →
        exec .telemetryCompose s = .next (s.metered ((y.push (pushTelem 1) y.i3c.set1).push (pushTelem 2) y.i3c.set2))))

/-! ## The board's sidebands: the I3C target and boundary scan (R546, R571) -/

/-- R546: a private write of two bytes sets the read index and any other is ignored; a private read returns bytes from that index out of
the two sets as last composed, and 0x00 elsewhere, with the flag of R547 while the controller restarts; a dynamic address is taken once
and reset; GETPID, GETBCR and GETDCR return six, one and one bytes; ENEC and DISEC switch in-band interrupts. That the index wraps at
2^16 and that an address already held is kept are the model's (log 27). R571: BYPASS and IDCODE load with RESET_N high too, and
SAMPLE/PRELOAD and EXTEST then load BYPASS; with RESET_N low SAMPLE/PRELOAD captures the levels of the lands, a bit for each, and the
chain takes the bits shifted in, and EXTEST drives the lands. The TAP changes
nothing inside. -/
def Obligations.Sidebands : Prop :=
  (∀ (s : State) (bytes : List Byte) (n : Nat) (a : BitVec 7), s.dev.live = true →
     let z := s.dev.i3c
     let now (x : I3c) : Host.Outcome State Fault Refusal := .next { s with dev := { s.dev with i3c := x } }
     (bytes.length = 2 →
       exec (.i3cPrivateWrite bytes) s = now { z with index := (bytes.getD 0 0).toNat + 256 * (bytes.getD 1 0).toNat }) ∧
     (bytes.length ≠ 2 → exec (.i3cPrivateWrite bytes) s = .next s) ∧
     (∃ l, exec (.i3cPrivateRead n) s = now { z with out := l } ∧ l.length = n ∧
       ∀ i < n,
         let k := (z.index + i) % 2 ^ 16
         let plain := s.dev.is DMC_STATUS_RESTARTING = false ∨ z.set1 = []
         (k < 0x40 → k ≠ 35 ∨ plain → l.getD i 0 = z.set1.getD k 0) ∧
         (k = 35 → ¬ plain → l.getD i 0 = z.set1.getD k 0 ||| 2) ∧
         (0x100 ≤ k → k < 0x230 → l.getD i 0 = z.set2.getD (k - 0x100) 0) ∧
         (0x40 ≤ k → k < 0x100 ∨ 0x230 ≤ k → l.getD i 0 = 0)) ∧
     (z.dyn = none → exec (.entdaa a) s = now { z with dyn := some a.toNat } ∧ exec (.setdasa a) s = now { z with dyn := some a.toNat }) ∧
     (∀ b, z.dyn = some b → exec (.entdaa a) s = .next s ∧ exec (.setdasa a) s = .next s) ∧
     exec .rstdaa s = now { z with dyn := none } ∧
     (∃ l, exec .getpid s = now { z with out := l } ∧ l.length = 6) ∧
     (∃ b, exec .getbcr s = now { z with out := [b] }) ∧
     (∃ b, exec .getdcr s = now { z with out := [b] }) ∧
     exec .enec s = now { z with ibiOn := true } ∧
     exec .disec s = now { z with ibiOn := false }) ∧
  (∀ (s : State) (chain : List Bool),
     let j := s.dev.jtag
     let now (x : Jtag) : Host.Outcome State Fault Refusal := .next { s with dev := { s.dev with jtag := x } }
     exec .jtagBypass s = now { j with ir := 0xF, driving := false } ∧
     exec .jtagIdcode s =
       now { j with ir := 1, driving := false, idcode := BitVec.ofNat 32 (s.dev.fuses.stepping % 16 * 2 ^ 28 + 0x2560C3D) } ∧
     (s.dev.pins.resetN = true →
       exec (.jtagSamplePreload chain) s = now { j with ir := 0xF, driving := false } ∧
       exec .jtagExtest s = now { j with ir := 0xF, driving := false }) ∧
     (s.dev.pins.resetN = false →
       exec (.jtagSamplePreload chain) s = .next { s with dev := ({ s.dev with
         jtag := { j with ir := 2, driving := false, sample := s.dev.scanSample, chain := scanBits chain } } : Dev).draw } ∧
       s.dev.scanSample.length = (scanBits chain).length ∧
       exec .jtagExtest s = now { j with ir := 0, driving := true }))
end

