-- ==== Sys2Proof/Laws/Bytes.lean ====
section
/-! SUPPORT. Little-endian bytes (R9): lengths, the value read back, and a field read at its place in a record. -/

namespace Sys2Proof

@[simp] theorem leBytes_length (n v : Nat) : (leBytes n v).length = n := by
  induction n generalizing v with
  | zero => rfl
  | succ n ih => simp [leBytes, ih]
@[simp] theorem zeros_length (n : Nat) : (zeros n).length = n := by simp [zeros]

/-- Bytes written from a value give it back, cut to their number. -/
theorem leNat_leBytes (n v : Nat) : leNat (leBytes n v) = v % 256 ^ n := by
  induction n generalizing v with
  | zero => simp [leBytes, leNat, Nat.mod_one]
  | succ n ih =>
    rw [leBytes, leNat, ih, BitVec.toNat_ofNat, show 256 ^ (n + 1) = 256 * 256 ^ n from Nat.pow_succ', Nat.mod_mul]

/-- A slice that lies within a list. -/
theorem slice_of_le (bs : List Byte) (o n : Nat) (h : o + n ≤ bs.length) : slice bs o n = (bs.drop o).take n := by
  have : ((bs.drop o).take n).length = n := by simp; omega
  simp [slice, this, zeros]

/-- A slice always has its length. -/
@[simp] theorem slice_length (bs : List Byte) (o n : Nat) : (slice bs o n).length = n := by
  simp [slice]

/-- A field that starts where the first part of a record ends. -/
theorem fieldAt_append (a b c : List Byte) (o n : Nat) (h : a.length = o) (hn : b.length = n) :
    fieldAt (a ++ (b ++ c)) o n = leNat b := by
  subst h hn
  rw [fieldAt, slice_of_le _ _ _ (by simp)]
  simp

/-- A field past the first part of a record. -/
theorem fieldAt_skip (a b : List Byte) (o n : Nat) (h : a.length ≤ o) : fieldAt (a ++ b) o n = fieldAt b (o - a.length) n := by
  simp [fieldAt, slice, List.drop_append, List.drop_eq_nil_of_le h]

/-- A field at the start of a list. -/
theorem fieldAt_head (b c : List Byte) (n : Nat) (hn : b.length = n) : fieldAt (b ++ c) 0 n = leNat b := by
  simpa using fieldAt_append [] b c 0 n rfl hn

end Sys2Proof
end

