-- ==== Sys2Proof/Laws/State.lean ====
section
/-! SUPPORT. One lemma per field of the device, of a tile and of a strand for each named update: what the update leaves alone
is definitional, so later proofs need not unfold it. -/

namespace Sys2Proof.Machine

variable (d : Dev) (t : Tile)

@[simp] theorem Dev.set_inReset (f : RF) (v : Nat) : (d.set f v).inReset = d.inReset := rfl
@[simp] theorem Dev.set_stopped (f : RF) (v : Nat) : (d.set f v).stopped = d.stopped := rfl
@[simp] theorem Dev.set_tick (f : RF) (v : Nat) : (d.set f v).tick = d.tick := rfl
@[simp] theorem Dev.set_free (f : RF) (v : Nat) : (d.set f v).free = d.free := rfl
@[simp] theorem Dev.set_now (f : RF) (v : Nat) : (d.set f v).now = d.now := rfl
@[simp] theorem Dev.set_bus (f : RF) (v : Nat) : (d.set f v).bus = d.bus := rfl
@[simp] theorem Dev.set_time (f : RF) (v : Nat) : (d.set f v).time = d.time := rfl
@[simp] theorem Dev.set_reqs (f : RF) (v : Nat) : (d.set f v).reqs = d.reqs := rfl
@[simp] theorem Dev.set_sched (f : RF) (v : Nat) : (d.set f v).sched = d.sched := rfl
@[simp] theorem Dev.set_missLog (f : RF) (v : Nat) : (d.set f v).missLog = d.missLog := rfl
@[simp] theorem Dev.set_fltLog (f : RF) (v : Nat) : (d.set f v).fltLog = d.fltLog := rfl
@[simp] theorem Dev.set_tiles (f : RF) (v : Nat) : (d.set f v).tiles = d.tiles := rfl
@[simp] theorem Dev.set_routers (f : RF) (v : Nat) : (d.set f v).routers = d.routers := rfl
@[simp] theorem Dev.set_trees (f : RF) (v : Nat) : (d.set f v).trees = d.trees := rfl
@[simp] theorem Dev.set_regions (f : RF) (v : Nat) : (d.set f v).regions = d.regions := rfl
@[simp] theorem Dev.set_parts (f : RF) (v : Nat) : (d.set f v).parts = d.parts := rfl
@[simp] theorem Dev.set_mem (f : RF) (v : Nat) : (d.set f v).mem = d.mem := rfl
@[simp] theorem Dev.set_ports (f : RF) (v : Nat) : (d.set f v).ports = d.ports := rfl
@[simp] theorem Dev.set_ctxs (f : RF) (v : Nat) : (d.set f v).ctxs = d.ctxs := rfl
@[simp] theorem Dev.set_nop (f : RF) (v : Nat) : (d.set f v).nop = d.nop := rfl
@[simp] theorem Dev.set_sec (f : RF) (v : Nat) : (d.set f v).sec = d.sec := rfl
@[simp] theorem Dev.set_fuses (f : RF) (v : Nat) : (d.set f v).fuses = d.fuses := rfl
@[simp] theorem Dev.set_spare (f : RF) (v : Nat) : (d.set f v).spare = d.spare := rfl
@[simp] theorem Dev.set_scrub (f : RF) (v : Nat) : (d.set f v).scrub = d.scrub := rfl
@[simp] theorem Dev.set_power (f : RF) (v : Nat) : (d.set f v).power = d.power := rfl
@[simp] theorem Dev.set_survey (f : RF) (v : Nat) : (d.set f v).survey = d.survey := rfl
@[simp] theorem Dev.set_i3c (f : RF) (v : Nat) : (d.set f v).i3c = d.i3c := rfl
@[simp] theorem Dev.set_jtag (f : RF) (v : Nat) : (d.set f v).jtag = d.jtag := rfl
@[simp] theorem Dev.set_pins (f : RF) (v : Nat) : (d.set f v).pins = d.pins := rfl
@[simp] theorem Dev.set_bootFetch (f : RF) (v : Nat) : (d.set f v).bootFetch = d.bootFetch := rfl
@[simp] theorem Dev.set_dmcTimes (f : RF) (v : Nat) : (d.set f v).dmcTimes = d.dmcTimes := rfl
@[simp] theorem Dev.set_dmcPend (f : RF) (v : Nat) : (d.set f v).dmcPend = d.dmcPend := rfl

@[simp] theorem Dev.flag_inReset (f : RF) (b : Bool) : (d.flag f b).inReset = d.inReset := rfl
@[simp] theorem Dev.flag_stopped (f : RF) (b : Bool) : (d.flag f b).stopped = d.stopped := rfl
@[simp] theorem Dev.flag_tick (f : RF) (b : Bool) : (d.flag f b).tick = d.tick := rfl
@[simp] theorem Dev.flag_free (f : RF) (b : Bool) : (d.flag f b).free = d.free := rfl
@[simp] theorem Dev.flag_now (f : RF) (b : Bool) : (d.flag f b).now = d.now := rfl
@[simp] theorem Dev.flag_bus (f : RF) (b : Bool) : (d.flag f b).bus = d.bus := rfl
@[simp] theorem Dev.flag_time (f : RF) (b : Bool) : (d.flag f b).time = d.time := rfl
@[simp] theorem Dev.flag_reqs (f : RF) (b : Bool) : (d.flag f b).reqs = d.reqs := rfl
@[simp] theorem Dev.flag_sched (f : RF) (b : Bool) : (d.flag f b).sched = d.sched := rfl
@[simp] theorem Dev.flag_missLog (f : RF) (b : Bool) : (d.flag f b).missLog = d.missLog := rfl
@[simp] theorem Dev.flag_fltLog (f : RF) (b : Bool) : (d.flag f b).fltLog = d.fltLog := rfl
@[simp] theorem Dev.flag_tiles (f : RF) (b : Bool) : (d.flag f b).tiles = d.tiles := rfl
@[simp] theorem Dev.flag_routers (f : RF) (b : Bool) : (d.flag f b).routers = d.routers := rfl
@[simp] theorem Dev.flag_trees (f : RF) (b : Bool) : (d.flag f b).trees = d.trees := rfl
@[simp] theorem Dev.flag_regions (f : RF) (b : Bool) : (d.flag f b).regions = d.regions := rfl
@[simp] theorem Dev.flag_parts (f : RF) (b : Bool) : (d.flag f b).parts = d.parts := rfl
@[simp] theorem Dev.flag_mem (f : RF) (b : Bool) : (d.flag f b).mem = d.mem := rfl
@[simp] theorem Dev.flag_ports (f : RF) (b : Bool) : (d.flag f b).ports = d.ports := rfl
@[simp] theorem Dev.flag_ctxs (f : RF) (b : Bool) : (d.flag f b).ctxs = d.ctxs := rfl
@[simp] theorem Dev.flag_nop (f : RF) (b : Bool) : (d.flag f b).nop = d.nop := rfl
@[simp] theorem Dev.flag_sec (f : RF) (b : Bool) : (d.flag f b).sec = d.sec := rfl
@[simp] theorem Dev.flag_fuses (f : RF) (b : Bool) : (d.flag f b).fuses = d.fuses := rfl
@[simp] theorem Dev.flag_spare (f : RF) (b : Bool) : (d.flag f b).spare = d.spare := rfl
@[simp] theorem Dev.flag_scrub (f : RF) (b : Bool) : (d.flag f b).scrub = d.scrub := rfl
@[simp] theorem Dev.flag_power (f : RF) (b : Bool) : (d.flag f b).power = d.power := rfl
@[simp] theorem Dev.flag_survey (f : RF) (b : Bool) : (d.flag f b).survey = d.survey := rfl
@[simp] theorem Dev.flag_i3c (f : RF) (b : Bool) : (d.flag f b).i3c = d.i3c := rfl
@[simp] theorem Dev.flag_jtag (f : RF) (b : Bool) : (d.flag f b).jtag = d.jtag := rfl
@[simp] theorem Dev.flag_pins (f : RF) (b : Bool) : (d.flag f b).pins = d.pins := rfl
@[simp] theorem Dev.flag_bootFetch (f : RF) (b : Bool) : (d.flag f b).bootFetch = d.bootFetch := rfl
@[simp] theorem Dev.flag_dmcTimes (f : RF) (b : Bool) : (d.flag f b).dmcTimes = d.dmcTimes := rfl
@[simp] theorem Dev.flag_dmcPend (f : RF) (b : Bool) : (d.flag f b).dmcPend = d.dmcPend := rfl

@[simp] theorem Dev.modTile_inReset (n : Nat) (g : Tile → Tile) : (d.modTile n g).inReset = d.inReset := rfl
@[simp] theorem Dev.modTile_stopped (n : Nat) (g : Tile → Tile) : (d.modTile n g).stopped = d.stopped := rfl
@[simp] theorem Dev.modTile_tick (n : Nat) (g : Tile → Tile) : (d.modTile n g).tick = d.tick := rfl
@[simp] theorem Dev.modTile_free (n : Nat) (g : Tile → Tile) : (d.modTile n g).free = d.free := rfl
@[simp] theorem Dev.modTile_now (n : Nat) (g : Tile → Tile) : (d.modTile n g).now = d.now := rfl
@[simp] theorem Dev.modTile_regs (n : Nat) (g : Tile → Tile) : (d.modTile n g).regs = d.regs := rfl
@[simp] theorem Dev.modTile_bus (n : Nat) (g : Tile → Tile) : (d.modTile n g).bus = d.bus := rfl
@[simp] theorem Dev.modTile_time (n : Nat) (g : Tile → Tile) : (d.modTile n g).time = d.time := rfl
@[simp] theorem Dev.modTile_reqs (n : Nat) (g : Tile → Tile) : (d.modTile n g).reqs = d.reqs := rfl
@[simp] theorem Dev.modTile_sched (n : Nat) (g : Tile → Tile) : (d.modTile n g).sched = d.sched := rfl
@[simp] theorem Dev.modTile_missLog (n : Nat) (g : Tile → Tile) : (d.modTile n g).missLog = d.missLog := rfl
@[simp] theorem Dev.modTile_fltLog (n : Nat) (g : Tile → Tile) : (d.modTile n g).fltLog = d.fltLog := rfl
@[simp] theorem Dev.modTile_routers (n : Nat) (g : Tile → Tile) : (d.modTile n g).routers = d.routers := rfl
@[simp] theorem Dev.modTile_trees (n : Nat) (g : Tile → Tile) : (d.modTile n g).trees = d.trees := rfl
@[simp] theorem Dev.modTile_regions (n : Nat) (g : Tile → Tile) : (d.modTile n g).regions = d.regions := rfl
@[simp] theorem Dev.modTile_parts (n : Nat) (g : Tile → Tile) : (d.modTile n g).parts = d.parts := rfl
@[simp] theorem Dev.modTile_mem (n : Nat) (g : Tile → Tile) : (d.modTile n g).mem = d.mem := rfl
@[simp] theorem Dev.modTile_ports (n : Nat) (g : Tile → Tile) : (d.modTile n g).ports = d.ports := rfl
@[simp] theorem Dev.modTile_ctxs (n : Nat) (g : Tile → Tile) : (d.modTile n g).ctxs = d.ctxs := rfl
@[simp] theorem Dev.modTile_nop (n : Nat) (g : Tile → Tile) : (d.modTile n g).nop = d.nop := rfl
@[simp] theorem Dev.modTile_sec (n : Nat) (g : Tile → Tile) : (d.modTile n g).sec = d.sec := rfl
@[simp] theorem Dev.modTile_fuses (n : Nat) (g : Tile → Tile) : (d.modTile n g).fuses = d.fuses := rfl
@[simp] theorem Dev.modTile_spare (n : Nat) (g : Tile → Tile) : (d.modTile n g).spare = d.spare := rfl
@[simp] theorem Dev.modTile_scrub (n : Nat) (g : Tile → Tile) : (d.modTile n g).scrub = d.scrub := rfl
@[simp] theorem Dev.modTile_power (n : Nat) (g : Tile → Tile) : (d.modTile n g).power = d.power := rfl
@[simp] theorem Dev.modTile_survey (n : Nat) (g : Tile → Tile) : (d.modTile n g).survey = d.survey := rfl
@[simp] theorem Dev.modTile_i3c (n : Nat) (g : Tile → Tile) : (d.modTile n g).i3c = d.i3c := rfl
@[simp] theorem Dev.modTile_jtag (n : Nat) (g : Tile → Tile) : (d.modTile n g).jtag = d.jtag := rfl
@[simp] theorem Dev.modTile_pins (n : Nat) (g : Tile → Tile) : (d.modTile n g).pins = d.pins := rfl
@[simp] theorem Dev.modTile_bootFetch (n : Nat) (g : Tile → Tile) : (d.modTile n g).bootFetch = d.bootFetch := rfl
@[simp] theorem Dev.modTile_dmcTimes (n : Nat) (g : Tile → Tile) : (d.modTile n g).dmcTimes = d.dmcTimes := rfl
@[simp] theorem Dev.modTile_dmcPend (n : Nat) (g : Tile → Tile) : (d.modTile n g).dmcPend = d.dmcPend := rfl

@[simp] theorem Dev.modStrand_inReset (n f s : Nat) (g : Strand → Strand) : (d.modStrand n f s g).inReset = d.inReset := rfl
@[simp] theorem Dev.modStrand_stopped (n f s : Nat) (g : Strand → Strand) : (d.modStrand n f s g).stopped = d.stopped := rfl
@[simp] theorem Dev.modStrand_tick (n f s : Nat) (g : Strand → Strand) : (d.modStrand n f s g).tick = d.tick := rfl
@[simp] theorem Dev.modStrand_free (n f s : Nat) (g : Strand → Strand) : (d.modStrand n f s g).free = d.free := rfl
@[simp] theorem Dev.modStrand_now (n f s : Nat) (g : Strand → Strand) : (d.modStrand n f s g).now = d.now := rfl
@[simp] theorem Dev.modStrand_regs (n f s : Nat) (g : Strand → Strand) : (d.modStrand n f s g).regs = d.regs := rfl
@[simp] theorem Dev.modStrand_bus (n f s : Nat) (g : Strand → Strand) : (d.modStrand n f s g).bus = d.bus := rfl
@[simp] theorem Dev.modStrand_time (n f s : Nat) (g : Strand → Strand) : (d.modStrand n f s g).time = d.time := rfl
@[simp] theorem Dev.modStrand_reqs (n f s : Nat) (g : Strand → Strand) : (d.modStrand n f s g).reqs = d.reqs := rfl
@[simp] theorem Dev.modStrand_sched (n f s : Nat) (g : Strand → Strand) : (d.modStrand n f s g).sched = d.sched := rfl
@[simp] theorem Dev.modStrand_missLog (n f s : Nat) (g : Strand → Strand) : (d.modStrand n f s g).missLog = d.missLog := rfl
@[simp] theorem Dev.modStrand_fltLog (n f s : Nat) (g : Strand → Strand) : (d.modStrand n f s g).fltLog = d.fltLog := rfl
@[simp] theorem Dev.modStrand_routers (n f s : Nat) (g : Strand → Strand) : (d.modStrand n f s g).routers = d.routers := rfl
@[simp] theorem Dev.modStrand_trees (n f s : Nat) (g : Strand → Strand) : (d.modStrand n f s g).trees = d.trees := rfl
@[simp] theorem Dev.modStrand_regions (n f s : Nat) (g : Strand → Strand) : (d.modStrand n f s g).regions = d.regions := rfl
@[simp] theorem Dev.modStrand_parts (n f s : Nat) (g : Strand → Strand) : (d.modStrand n f s g).parts = d.parts := rfl
@[simp] theorem Dev.modStrand_mem (n f s : Nat) (g : Strand → Strand) : (d.modStrand n f s g).mem = d.mem := rfl
@[simp] theorem Dev.modStrand_ports (n f s : Nat) (g : Strand → Strand) : (d.modStrand n f s g).ports = d.ports := rfl
@[simp] theorem Dev.modStrand_ctxs (n f s : Nat) (g : Strand → Strand) : (d.modStrand n f s g).ctxs = d.ctxs := rfl
@[simp] theorem Dev.modStrand_nop (n f s : Nat) (g : Strand → Strand) : (d.modStrand n f s g).nop = d.nop := rfl
@[simp] theorem Dev.modStrand_sec (n f s : Nat) (g : Strand → Strand) : (d.modStrand n f s g).sec = d.sec := rfl
@[simp] theorem Dev.modStrand_fuses (n f s : Nat) (g : Strand → Strand) : (d.modStrand n f s g).fuses = d.fuses := rfl
@[simp] theorem Dev.modStrand_spare (n f s : Nat) (g : Strand → Strand) : (d.modStrand n f s g).spare = d.spare := rfl
@[simp] theorem Dev.modStrand_scrub (n f s : Nat) (g : Strand → Strand) : (d.modStrand n f s g).scrub = d.scrub := rfl
@[simp] theorem Dev.modStrand_power (n f s : Nat) (g : Strand → Strand) : (d.modStrand n f s g).power = d.power := rfl
@[simp] theorem Dev.modStrand_survey (n f s : Nat) (g : Strand → Strand) : (d.modStrand n f s g).survey = d.survey := rfl
@[simp] theorem Dev.modStrand_i3c (n f s : Nat) (g : Strand → Strand) : (d.modStrand n f s g).i3c = d.i3c := rfl
@[simp] theorem Dev.modStrand_jtag (n f s : Nat) (g : Strand → Strand) : (d.modStrand n f s g).jtag = d.jtag := rfl
@[simp] theorem Dev.modStrand_pins (n f s : Nat) (g : Strand → Strand) : (d.modStrand n f s g).pins = d.pins := rfl
@[simp] theorem Dev.modStrand_bootFetch (n f s : Nat) (g : Strand → Strand) : (d.modStrand n f s g).bootFetch = d.bootFetch := rfl
@[simp] theorem Dev.modStrand_dmcTimes (n f s : Nat) (g : Strand → Strand) : (d.modStrand n f s g).dmcTimes = d.dmcTimes := rfl
@[simp] theorem Dev.modStrand_dmcPend (n f s : Nat) (g : Strand → Strand) : (d.modStrand n f s g).dmcPend = d.dmcPend := rfl

@[simp] theorem Dev.modRegion_inReset (p : Nat) (g : Region → Region) : (d.modRegion p g).inReset = d.inReset := rfl
@[simp] theorem Dev.modRegion_stopped (p : Nat) (g : Region → Region) : (d.modRegion p g).stopped = d.stopped := rfl
@[simp] theorem Dev.modRegion_tick (p : Nat) (g : Region → Region) : (d.modRegion p g).tick = d.tick := rfl
@[simp] theorem Dev.modRegion_free (p : Nat) (g : Region → Region) : (d.modRegion p g).free = d.free := rfl
@[simp] theorem Dev.modRegion_now (p : Nat) (g : Region → Region) : (d.modRegion p g).now = d.now := rfl
@[simp] theorem Dev.modRegion_regs (p : Nat) (g : Region → Region) : (d.modRegion p g).regs = d.regs := rfl
@[simp] theorem Dev.modRegion_bus (p : Nat) (g : Region → Region) : (d.modRegion p g).bus = d.bus := rfl
@[simp] theorem Dev.modRegion_time (p : Nat) (g : Region → Region) : (d.modRegion p g).time = d.time := rfl
@[simp] theorem Dev.modRegion_reqs (p : Nat) (g : Region → Region) : (d.modRegion p g).reqs = d.reqs := rfl
@[simp] theorem Dev.modRegion_sched (p : Nat) (g : Region → Region) : (d.modRegion p g).sched = d.sched := rfl
@[simp] theorem Dev.modRegion_missLog (p : Nat) (g : Region → Region) : (d.modRegion p g).missLog = d.missLog := rfl
@[simp] theorem Dev.modRegion_fltLog (p : Nat) (g : Region → Region) : (d.modRegion p g).fltLog = d.fltLog := rfl
@[simp] theorem Dev.modRegion_tiles (p : Nat) (g : Region → Region) : (d.modRegion p g).tiles = d.tiles := rfl
@[simp] theorem Dev.modRegion_routers (p : Nat) (g : Region → Region) : (d.modRegion p g).routers = d.routers := rfl
@[simp] theorem Dev.modRegion_trees (p : Nat) (g : Region → Region) : (d.modRegion p g).trees = d.trees := rfl
@[simp] theorem Dev.modRegion_parts (p : Nat) (g : Region → Region) : (d.modRegion p g).parts = d.parts := rfl
@[simp] theorem Dev.modRegion_mem (p : Nat) (g : Region → Region) : (d.modRegion p g).mem = d.mem := rfl
@[simp] theorem Dev.modRegion_ports (p : Nat) (g : Region → Region) : (d.modRegion p g).ports = d.ports := rfl
@[simp] theorem Dev.modRegion_ctxs (p : Nat) (g : Region → Region) : (d.modRegion p g).ctxs = d.ctxs := rfl
@[simp] theorem Dev.modRegion_nop (p : Nat) (g : Region → Region) : (d.modRegion p g).nop = d.nop := rfl
@[simp] theorem Dev.modRegion_sec (p : Nat) (g : Region → Region) : (d.modRegion p g).sec = d.sec := rfl
@[simp] theorem Dev.modRegion_fuses (p : Nat) (g : Region → Region) : (d.modRegion p g).fuses = d.fuses := rfl
@[simp] theorem Dev.modRegion_spare (p : Nat) (g : Region → Region) : (d.modRegion p g).spare = d.spare := rfl
@[simp] theorem Dev.modRegion_scrub (p : Nat) (g : Region → Region) : (d.modRegion p g).scrub = d.scrub := rfl
@[simp] theorem Dev.modRegion_power (p : Nat) (g : Region → Region) : (d.modRegion p g).power = d.power := rfl
@[simp] theorem Dev.modRegion_survey (p : Nat) (g : Region → Region) : (d.modRegion p g).survey = d.survey := rfl
@[simp] theorem Dev.modRegion_i3c (p : Nat) (g : Region → Region) : (d.modRegion p g).i3c = d.i3c := rfl
@[simp] theorem Dev.modRegion_jtag (p : Nat) (g : Region → Region) : (d.modRegion p g).jtag = d.jtag := rfl
@[simp] theorem Dev.modRegion_pins (p : Nat) (g : Region → Region) : (d.modRegion p g).pins = d.pins := rfl
@[simp] theorem Dev.modRegion_bootFetch (p : Nat) (g : Region → Region) : (d.modRegion p g).bootFetch = d.bootFetch := rfl
@[simp] theorem Dev.modRegion_dmcTimes (p : Nat) (g : Region → Region) : (d.modRegion p g).dmcTimes = d.dmcTimes := rfl
@[simp] theorem Dev.modRegion_dmcPend (p : Nat) (g : Region → Region) : (d.modRegion p g).dmcPend = d.dmcPend := rfl

@[simp] theorem Dev.modPart_inReset (p : Nat) (g : Part → Part) : (d.modPart p g).inReset = d.inReset := rfl
@[simp] theorem Dev.modPart_stopped (p : Nat) (g : Part → Part) : (d.modPart p g).stopped = d.stopped := rfl
@[simp] theorem Dev.modPart_tick (p : Nat) (g : Part → Part) : (d.modPart p g).tick = d.tick := rfl
@[simp] theorem Dev.modPart_free (p : Nat) (g : Part → Part) : (d.modPart p g).free = d.free := rfl
@[simp] theorem Dev.modPart_now (p : Nat) (g : Part → Part) : (d.modPart p g).now = d.now := rfl
@[simp] theorem Dev.modPart_regs (p : Nat) (g : Part → Part) : (d.modPart p g).regs = d.regs := rfl
@[simp] theorem Dev.modPart_bus (p : Nat) (g : Part → Part) : (d.modPart p g).bus = d.bus := rfl
@[simp] theorem Dev.modPart_time (p : Nat) (g : Part → Part) : (d.modPart p g).time = d.time := rfl
@[simp] theorem Dev.modPart_reqs (p : Nat) (g : Part → Part) : (d.modPart p g).reqs = d.reqs := rfl
@[simp] theorem Dev.modPart_sched (p : Nat) (g : Part → Part) : (d.modPart p g).sched = d.sched := rfl
@[simp] theorem Dev.modPart_missLog (p : Nat) (g : Part → Part) : (d.modPart p g).missLog = d.missLog := rfl
@[simp] theorem Dev.modPart_fltLog (p : Nat) (g : Part → Part) : (d.modPart p g).fltLog = d.fltLog := rfl
@[simp] theorem Dev.modPart_tiles (p : Nat) (g : Part → Part) : (d.modPart p g).tiles = d.tiles := rfl
@[simp] theorem Dev.modPart_routers (p : Nat) (g : Part → Part) : (d.modPart p g).routers = d.routers := rfl
@[simp] theorem Dev.modPart_trees (p : Nat) (g : Part → Part) : (d.modPart p g).trees = d.trees := rfl
@[simp] theorem Dev.modPart_regions (p : Nat) (g : Part → Part) : (d.modPart p g).regions = d.regions := rfl
@[simp] theorem Dev.modPart_mem (p : Nat) (g : Part → Part) : (d.modPart p g).mem = d.mem := rfl
@[simp] theorem Dev.modPart_ports (p : Nat) (g : Part → Part) : (d.modPart p g).ports = d.ports := rfl
@[simp] theorem Dev.modPart_ctxs (p : Nat) (g : Part → Part) : (d.modPart p g).ctxs = d.ctxs := rfl
@[simp] theorem Dev.modPart_nop (p : Nat) (g : Part → Part) : (d.modPart p g).nop = d.nop := rfl
@[simp] theorem Dev.modPart_sec (p : Nat) (g : Part → Part) : (d.modPart p g).sec = d.sec := rfl
@[simp] theorem Dev.modPart_fuses (p : Nat) (g : Part → Part) : (d.modPart p g).fuses = d.fuses := rfl
@[simp] theorem Dev.modPart_spare (p : Nat) (g : Part → Part) : (d.modPart p g).spare = d.spare := rfl
@[simp] theorem Dev.modPart_scrub (p : Nat) (g : Part → Part) : (d.modPart p g).scrub = d.scrub := rfl
@[simp] theorem Dev.modPart_power (p : Nat) (g : Part → Part) : (d.modPart p g).power = d.power := rfl
@[simp] theorem Dev.modPart_survey (p : Nat) (g : Part → Part) : (d.modPart p g).survey = d.survey := rfl
@[simp] theorem Dev.modPart_i3c (p : Nat) (g : Part → Part) : (d.modPart p g).i3c = d.i3c := rfl
@[simp] theorem Dev.modPart_jtag (p : Nat) (g : Part → Part) : (d.modPart p g).jtag = d.jtag := rfl
@[simp] theorem Dev.modPart_pins (p : Nat) (g : Part → Part) : (d.modPart p g).pins = d.pins := rfl
@[simp] theorem Dev.modPart_bootFetch (p : Nat) (g : Part → Part) : (d.modPart p g).bootFetch = d.bootFetch := rfl
@[simp] theorem Dev.modPart_dmcTimes (p : Nat) (g : Part → Part) : (d.modPart p g).dmcTimes = d.dmcTimes := rfl
@[simp] theorem Dev.modPart_dmcPend (p : Nat) (g : Part → Part) : (d.modPart p g).dmcPend = d.dmcPend := rfl

@[simp] theorem Dev.modPort_inReset (n : Nat) (g : Port → Port) : (d.modPort n g).inReset = d.inReset := rfl
@[simp] theorem Dev.modPort_stopped (n : Nat) (g : Port → Port) : (d.modPort n g).stopped = d.stopped := rfl
@[simp] theorem Dev.modPort_tick (n : Nat) (g : Port → Port) : (d.modPort n g).tick = d.tick := rfl
@[simp] theorem Dev.modPort_free (n : Nat) (g : Port → Port) : (d.modPort n g).free = d.free := rfl
@[simp] theorem Dev.modPort_now (n : Nat) (g : Port → Port) : (d.modPort n g).now = d.now := rfl
@[simp] theorem Dev.modPort_regs (n : Nat) (g : Port → Port) : (d.modPort n g).regs = d.regs := rfl
@[simp] theorem Dev.modPort_bus (n : Nat) (g : Port → Port) : (d.modPort n g).bus = d.bus := rfl
@[simp] theorem Dev.modPort_time (n : Nat) (g : Port → Port) : (d.modPort n g).time = d.time := rfl
@[simp] theorem Dev.modPort_reqs (n : Nat) (g : Port → Port) : (d.modPort n g).reqs = d.reqs := rfl
@[simp] theorem Dev.modPort_sched (n : Nat) (g : Port → Port) : (d.modPort n g).sched = d.sched := rfl
@[simp] theorem Dev.modPort_missLog (n : Nat) (g : Port → Port) : (d.modPort n g).missLog = d.missLog := rfl
@[simp] theorem Dev.modPort_fltLog (n : Nat) (g : Port → Port) : (d.modPort n g).fltLog = d.fltLog := rfl
@[simp] theorem Dev.modPort_tiles (n : Nat) (g : Port → Port) : (d.modPort n g).tiles = d.tiles := rfl
@[simp] theorem Dev.modPort_routers (n : Nat) (g : Port → Port) : (d.modPort n g).routers = d.routers := rfl
@[simp] theorem Dev.modPort_trees (n : Nat) (g : Port → Port) : (d.modPort n g).trees = d.trees := rfl
@[simp] theorem Dev.modPort_regions (n : Nat) (g : Port → Port) : (d.modPort n g).regions = d.regions := rfl
@[simp] theorem Dev.modPort_parts (n : Nat) (g : Port → Port) : (d.modPort n g).parts = d.parts := rfl
@[simp] theorem Dev.modPort_mem (n : Nat) (g : Port → Port) : (d.modPort n g).mem = d.mem := rfl
@[simp] theorem Dev.modPort_ctxs (n : Nat) (g : Port → Port) : (d.modPort n g).ctxs = d.ctxs := rfl
@[simp] theorem Dev.modPort_nop (n : Nat) (g : Port → Port) : (d.modPort n g).nop = d.nop := rfl
@[simp] theorem Dev.modPort_sec (n : Nat) (g : Port → Port) : (d.modPort n g).sec = d.sec := rfl
@[simp] theorem Dev.modPort_fuses (n : Nat) (g : Port → Port) : (d.modPort n g).fuses = d.fuses := rfl
@[simp] theorem Dev.modPort_spare (n : Nat) (g : Port → Port) : (d.modPort n g).spare = d.spare := rfl
@[simp] theorem Dev.modPort_scrub (n : Nat) (g : Port → Port) : (d.modPort n g).scrub = d.scrub := rfl
@[simp] theorem Dev.modPort_power (n : Nat) (g : Port → Port) : (d.modPort n g).power = d.power := rfl
@[simp] theorem Dev.modPort_survey (n : Nat) (g : Port → Port) : (d.modPort n g).survey = d.survey := rfl
@[simp] theorem Dev.modPort_i3c (n : Nat) (g : Port → Port) : (d.modPort n g).i3c = d.i3c := rfl
@[simp] theorem Dev.modPort_jtag (n : Nat) (g : Port → Port) : (d.modPort n g).jtag = d.jtag := rfl
@[simp] theorem Dev.modPort_pins (n : Nat) (g : Port → Port) : (d.modPort n g).pins = d.pins := rfl
@[simp] theorem Dev.modPort_bootFetch (n : Nat) (g : Port → Port) : (d.modPort n g).bootFetch = d.bootFetch := rfl
@[simp] theorem Dev.modPort_dmcTimes (n : Nat) (g : Port → Port) : (d.modPort n g).dmcTimes = d.dmcTimes := rfl
@[simp] theorem Dev.modPort_dmcPend (n : Nat) (g : Port → Port) : (d.modPort n g).dmcPend = d.dmcPend := rfl

@[simp] theorem Dev.modCtx_inReset (c : Nat) (g : Ctx → Ctx) : (d.modCtx c g).inReset = d.inReset := rfl
@[simp] theorem Dev.modCtx_stopped (c : Nat) (g : Ctx → Ctx) : (d.modCtx c g).stopped = d.stopped := rfl
@[simp] theorem Dev.modCtx_tick (c : Nat) (g : Ctx → Ctx) : (d.modCtx c g).tick = d.tick := rfl
@[simp] theorem Dev.modCtx_free (c : Nat) (g : Ctx → Ctx) : (d.modCtx c g).free = d.free := rfl
@[simp] theorem Dev.modCtx_now (c : Nat) (g : Ctx → Ctx) : (d.modCtx c g).now = d.now := rfl
@[simp] theorem Dev.modCtx_regs (c : Nat) (g : Ctx → Ctx) : (d.modCtx c g).regs = d.regs := rfl
@[simp] theorem Dev.modCtx_bus (c : Nat) (g : Ctx → Ctx) : (d.modCtx c g).bus = d.bus := rfl
@[simp] theorem Dev.modCtx_time (c : Nat) (g : Ctx → Ctx) : (d.modCtx c g).time = d.time := rfl
@[simp] theorem Dev.modCtx_reqs (c : Nat) (g : Ctx → Ctx) : (d.modCtx c g).reqs = d.reqs := rfl
@[simp] theorem Dev.modCtx_sched (c : Nat) (g : Ctx → Ctx) : (d.modCtx c g).sched = d.sched := rfl
@[simp] theorem Dev.modCtx_missLog (c : Nat) (g : Ctx → Ctx) : (d.modCtx c g).missLog = d.missLog := rfl
@[simp] theorem Dev.modCtx_fltLog (c : Nat) (g : Ctx → Ctx) : (d.modCtx c g).fltLog = d.fltLog := rfl
@[simp] theorem Dev.modCtx_tiles (c : Nat) (g : Ctx → Ctx) : (d.modCtx c g).tiles = d.tiles := rfl
@[simp] theorem Dev.modCtx_routers (c : Nat) (g : Ctx → Ctx) : (d.modCtx c g).routers = d.routers := rfl
@[simp] theorem Dev.modCtx_trees (c : Nat) (g : Ctx → Ctx) : (d.modCtx c g).trees = d.trees := rfl
@[simp] theorem Dev.modCtx_regions (c : Nat) (g : Ctx → Ctx) : (d.modCtx c g).regions = d.regions := rfl
@[simp] theorem Dev.modCtx_parts (c : Nat) (g : Ctx → Ctx) : (d.modCtx c g).parts = d.parts := rfl
@[simp] theorem Dev.modCtx_mem (c : Nat) (g : Ctx → Ctx) : (d.modCtx c g).mem = d.mem := rfl
@[simp] theorem Dev.modCtx_ports (c : Nat) (g : Ctx → Ctx) : (d.modCtx c g).ports = d.ports := rfl
@[simp] theorem Dev.modCtx_nop (c : Nat) (g : Ctx → Ctx) : (d.modCtx c g).nop = d.nop := rfl
@[simp] theorem Dev.modCtx_sec (c : Nat) (g : Ctx → Ctx) : (d.modCtx c g).sec = d.sec := rfl
@[simp] theorem Dev.modCtx_fuses (c : Nat) (g : Ctx → Ctx) : (d.modCtx c g).fuses = d.fuses := rfl
@[simp] theorem Dev.modCtx_spare (c : Nat) (g : Ctx → Ctx) : (d.modCtx c g).spare = d.spare := rfl
@[simp] theorem Dev.modCtx_scrub (c : Nat) (g : Ctx → Ctx) : (d.modCtx c g).scrub = d.scrub := rfl
@[simp] theorem Dev.modCtx_power (c : Nat) (g : Ctx → Ctx) : (d.modCtx c g).power = d.power := rfl
@[simp] theorem Dev.modCtx_survey (c : Nat) (g : Ctx → Ctx) : (d.modCtx c g).survey = d.survey := rfl
@[simp] theorem Dev.modCtx_i3c (c : Nat) (g : Ctx → Ctx) : (d.modCtx c g).i3c = d.i3c := rfl
@[simp] theorem Dev.modCtx_jtag (c : Nat) (g : Ctx → Ctx) : (d.modCtx c g).jtag = d.jtag := rfl
@[simp] theorem Dev.modCtx_pins (c : Nat) (g : Ctx → Ctx) : (d.modCtx c g).pins = d.pins := rfl
@[simp] theorem Dev.modCtx_bootFetch (c : Nat) (g : Ctx → Ctx) : (d.modCtx c g).bootFetch = d.bootFetch := rfl
@[simp] theorem Dev.modCtx_dmcTimes (c : Nat) (g : Ctx → Ctx) : (d.modCtx c g).dmcTimes = d.dmcTimes := rfl
@[simp] theorem Dev.modCtx_dmcPend (c : Nat) (g : Ctx → Ctx) : (d.modCtx c g).dmcPend = d.dmcPend := rfl

@[simp] theorem Dev.push_inReset (k : Nat) (b : List Byte) : (d.push k b).inReset = d.inReset := rfl
@[simp] theorem Dev.push_stopped (k : Nat) (b : List Byte) : (d.push k b).stopped = d.stopped := rfl
@[simp] theorem Dev.push_tick (k : Nat) (b : List Byte) : (d.push k b).tick = d.tick := rfl
@[simp] theorem Dev.push_free (k : Nat) (b : List Byte) : (d.push k b).free = d.free := rfl
@[simp] theorem Dev.push_now (k : Nat) (b : List Byte) : (d.push k b).now = d.now := rfl
@[simp] theorem Dev.push_regs (k : Nat) (b : List Byte) : (d.push k b).regs = d.regs := rfl
@[simp] theorem Dev.push_bus (k : Nat) (b : List Byte) : (d.push k b).bus = d.bus := rfl
@[simp] theorem Dev.push_time (k : Nat) (b : List Byte) : (d.push k b).time = d.time := rfl
@[simp] theorem Dev.push_reqs (k : Nat) (b : List Byte) : (d.push k b).reqs = d.reqs := rfl
@[simp] theorem Dev.push_sched (k : Nat) (b : List Byte) : (d.push k b).sched = d.sched := rfl
@[simp] theorem Dev.push_missLog (k : Nat) (b : List Byte) : (d.push k b).missLog = d.missLog := rfl
@[simp] theorem Dev.push_fltLog (k : Nat) (b : List Byte) : (d.push k b).fltLog = d.fltLog := rfl
@[simp] theorem Dev.push_tiles (k : Nat) (b : List Byte) : (d.push k b).tiles = d.tiles := rfl
@[simp] theorem Dev.push_routers (k : Nat) (b : List Byte) : (d.push k b).routers = d.routers := rfl
@[simp] theorem Dev.push_trees (k : Nat) (b : List Byte) : (d.push k b).trees = d.trees := rfl
@[simp] theorem Dev.push_regions (k : Nat) (b : List Byte) : (d.push k b).regions = d.regions := rfl
@[simp] theorem Dev.push_parts (k : Nat) (b : List Byte) : (d.push k b).parts = d.parts := rfl
@[simp] theorem Dev.push_mem (k : Nat) (b : List Byte) : (d.push k b).mem = d.mem := rfl
@[simp] theorem Dev.push_ports (k : Nat) (b : List Byte) : (d.push k b).ports = d.ports := rfl
@[simp] theorem Dev.push_ctxs (k : Nat) (b : List Byte) : (d.push k b).ctxs = d.ctxs := rfl
@[simp] theorem Dev.push_sec (k : Nat) (b : List Byte) : (d.push k b).sec = d.sec := rfl
@[simp] theorem Dev.push_fuses (k : Nat) (b : List Byte) : (d.push k b).fuses = d.fuses := rfl
@[simp] theorem Dev.push_spare (k : Nat) (b : List Byte) : (d.push k b).spare = d.spare := rfl
@[simp] theorem Dev.push_scrub (k : Nat) (b : List Byte) : (d.push k b).scrub = d.scrub := rfl
@[simp] theorem Dev.push_power (k : Nat) (b : List Byte) : (d.push k b).power = d.power := rfl
@[simp] theorem Dev.push_survey (k : Nat) (b : List Byte) : (d.push k b).survey = d.survey := rfl
@[simp] theorem Dev.push_i3c (k : Nat) (b : List Byte) : (d.push k b).i3c = d.i3c := rfl
@[simp] theorem Dev.push_jtag (k : Nat) (b : List Byte) : (d.push k b).jtag = d.jtag := rfl
@[simp] theorem Dev.push_pins (k : Nat) (b : List Byte) : (d.push k b).pins = d.pins := rfl
@[simp] theorem Dev.push_bootFetch (k : Nat) (b : List Byte) : (d.push k b).bootFetch = d.bootFetch := rfl
@[simp] theorem Dev.push_dmcTimes (k : Nat) (b : List Byte) : (d.push k b).dmcTimes = d.dmcTimes := rfl
@[simp] theorem Dev.push_dmcPend (k : Nat) (b : List Byte) : (d.push k b).dmcPend = d.dmcPend := rfl

@[simp] theorem Dev.draw_inReset : (d.draw).inReset = d.inReset := rfl
@[simp] theorem Dev.draw_stopped : (d.draw).stopped = d.stopped := rfl
@[simp] theorem Dev.draw_tick : (d.draw).tick = d.tick := rfl
@[simp] theorem Dev.draw_now : (d.draw).now = d.now := rfl
@[simp] theorem Dev.draw_regs : (d.draw).regs = d.regs := rfl
@[simp] theorem Dev.draw_bus : (d.draw).bus = d.bus := rfl
@[simp] theorem Dev.draw_time : (d.draw).time = d.time := rfl
@[simp] theorem Dev.draw_reqs : (d.draw).reqs = d.reqs := rfl
@[simp] theorem Dev.draw_sched : (d.draw).sched = d.sched := rfl
@[simp] theorem Dev.draw_missLog : (d.draw).missLog = d.missLog := rfl
@[simp] theorem Dev.draw_fltLog : (d.draw).fltLog = d.fltLog := rfl
@[simp] theorem Dev.draw_tiles : (d.draw).tiles = d.tiles := rfl
@[simp] theorem Dev.draw_routers : (d.draw).routers = d.routers := rfl
@[simp] theorem Dev.draw_trees : (d.draw).trees = d.trees := rfl
@[simp] theorem Dev.draw_regions : (d.draw).regions = d.regions := rfl
@[simp] theorem Dev.draw_parts : (d.draw).parts = d.parts := rfl
@[simp] theorem Dev.draw_mem : (d.draw).mem = d.mem := rfl
@[simp] theorem Dev.draw_ports : (d.draw).ports = d.ports := rfl
@[simp] theorem Dev.draw_ctxs : (d.draw).ctxs = d.ctxs := rfl
@[simp] theorem Dev.draw_nop : (d.draw).nop = d.nop := rfl
@[simp] theorem Dev.draw_sec : (d.draw).sec = d.sec := rfl
@[simp] theorem Dev.draw_fuses : (d.draw).fuses = d.fuses := rfl
@[simp] theorem Dev.draw_spare : (d.draw).spare = d.spare := rfl
@[simp] theorem Dev.draw_scrub : (d.draw).scrub = d.scrub := rfl
@[simp] theorem Dev.draw_power : (d.draw).power = d.power := rfl
@[simp] theorem Dev.draw_survey : (d.draw).survey = d.survey := rfl
@[simp] theorem Dev.draw_i3c : (d.draw).i3c = d.i3c := rfl
@[simp] theorem Dev.draw_jtag : (d.draw).jtag = d.jtag := rfl
@[simp] theorem Dev.draw_pins : (d.draw).pins = d.pins := rfl
@[simp] theorem Dev.draw_bootFetch : (d.draw).bootFetch = d.bootFetch := rfl
@[simp] theorem Dev.draw_dmcTimes : (d.draw).dmcTimes = d.dmcTimes := rfl
@[simp] theorem Dev.draw_dmcPend : (d.draw).dmcPend = d.dmcPend := rfl

@[simp] theorem Tile.modFrond_part (f : Nat) (g : Frond → Frond) : (t.modFrond f g).part = t.part := rfl
@[simp] theorem Tile.modFrond_held (f : Nat) (g : Frond → Frond) : (t.modFrond f g).held = t.held := rfl
@[simp] theorem Tile.modFrond_clearing (f : Nat) (g : Frond → Frond) : (t.modFrond f g).clearing = t.clearing := rfl
@[simp] theorem Tile.modFrond_fenced (f : Nat) (g : Frond → Frond) : (t.modFrond f g).fenced = t.fenced := rfl
@[simp] theorem Tile.modFrond_active (f : Nat) (g : Frond → Frond) : (t.modFrond f g).active = t.active := rfl
@[simp] theorem Tile.modFrond_strands (f : Nat) (g : Frond → Frond) : (t.modFrond f g).strands = t.strands := rfl
@[simp] theorem Tile.modFrond_haltReq (f : Nat) (g : Frond → Frond) : (t.modFrond f g).haltReq = t.haltReq := rfl
@[simp] theorem Tile.modFrond_stepping (f : Nat) (g : Frond → Frond) : (t.modFrond f g).stepping = t.stepping := rfl
@[simp] theorem Tile.modFrond_lastIssued (f : Nat) (g : Frond → Frond) : (t.modFrond f g).lastIssued = t.lastIssued := rfl
@[simp] theorem Tile.modFrond_resetTick (f : Nat) (g : Frond → Frond) : (t.modFrond f g).resetTick = t.resetTick := rfl
@[simp] theorem Tile.modFrond_scratch (f : Nat) (g : Frond → Frond) : (t.modFrond f g).scratch = t.scratch := rfl
@[simp] theorem Tile.modFrond_acc (f : Nat) (g : Frond → Frond) : (t.modFrond f g).acc = t.acc := rfl
@[simp] theorem Tile.modFrond_fstore (f : Nat) (g : Frond → Frond) : (t.modFrond f g).fstore = t.fstore := rfl
@[simp] theorem Tile.modFrond_qmem (f : Nat) (g : Frond → Frond) : (t.modFrond f g).qmem = t.qmem := rfl
@[simp] theorem Tile.modFrond_smem (f : Nat) (g : Frond → Frond) : (t.modFrond f g).smem = t.smem := rfl
@[simp] theorem Tile.modFrond_desc (f : Nat) (g : Frond → Frond) : (t.modFrond f g).desc = t.desc := rfl
@[simp] theorem Tile.modFrond_bad (f : Nat) (g : Frond → Frond) : (t.modFrond f g).bad = t.bad := rfl
@[simp] theorem Tile.modFrond_ceLines (f : Nat) (g : Frond → Frond) : (t.modFrond f g).ceLines = t.ceLines := rfl
@[simp] theorem Tile.modFrond_ceSecond (f : Nat) (g : Frond → Frond) : (t.modFrond f g).ceSecond = t.ceSecond := rfl
@[simp] theorem Tile.modFrond_bights (f : Nat) (g : Frond → Frond) : (t.modFrond f g).bights = t.bights := rfl
@[simp] theorem Tile.modFrond_routes (f : Nat) (g : Frond → Frond) : (t.modFrond f g).routes = t.routes := rfl
@[simp] theorem Tile.modFrond_queues (f : Nat) (g : Frond → Frond) : (t.modFrond f g).queues = t.queues := rfl
@[simp] theorem Tile.modFrond_splices (f : Nat) (g : Frond → Frond) : (t.modFrond f g).splices = t.splices := rfl
@[simp] theorem Tile.modFrond_hitches (f : Nat) (g : Frond → Frond) : (t.modFrond f g).hitches = t.hitches := rfl
@[simp] theorem Tile.modFrond_tallies (f : Nat) (g : Frond → Frond) : (t.modFrond f g).tallies = t.tallies := rfl
@[simp] theorem Tile.modFrond_mx (f : Nat) (g : Frond → Frond) : (t.modFrond f g).mx = t.mx := rfl
@[simp] theorem Tile.modFrond_vx (f : Nat) (g : Frond → Frond) : (t.modFrond f g).vx = t.vx := rfl
@[simp] theorem Tile.modFrond_dma0 (f : Nat) (g : Frond → Frond) : (t.modFrond f g).dma0 = t.dma0 := rfl
@[simp] theorem Tile.modFrond_dma1 (f : Nat) (g : Frond → Frond) : (t.modFrond f g).dma1 = t.dma1 := rfl
@[simp] theorem Tile.modFrond_fc (f : Nat) (g : Frond → Frond) : (t.modFrond f g).fc = t.fc := rfl
@[simp] theorem Tile.modFrond_q0 (f : Nat) (g : Frond → Frond) : (t.modFrond f g).q0 = t.q0 := rfl
@[simp] theorem Tile.modFrond_q1 (f : Nat) (g : Frond → Frond) : (t.modFrond f g).q1 = t.q1 := rfl
@[simp] theorem Tile.modFrond_q2 (f : Nat) (g : Frond → Frond) : (t.modFrond f g).q2 = t.q2 := rfl
@[simp] theorem Tile.modFrond_q3 (f : Nat) (g : Frond → Frond) : (t.modFrond f g).q3 = t.q3 := rfl
@[simp] theorem Tile.modFrond_hashed (f : Nat) (g : Frond → Frond) : (t.modFrond f g).hashed = t.hashed := rfl
@[simp] theorem Tile.modFrond_retained (f : Nat) (g : Frond → Frond) : (t.modFrond f g).retained = t.retained := rfl
@[simp] theorem Tile.modFrond_railOut (f : Nat) (g : Frond → Frond) : (t.modFrond f g).railOut = t.railOut := rfl
@[simp] theorem Tile.modFrond_arrivals (f : Nat) (g : Frond → Frond) : (t.modFrond f g).arrivals = t.arrivals := rfl
@[simp] theorem Tile.modFrond_foldSt (f : Nat) (g : Frond → Frond) : (t.modFrond f g).foldSt = t.foldSt := rfl
@[simp] theorem Tile.modFrond_foldReq (f : Nat) (g : Frond → Frond) : (t.modFrond f g).foldReq = t.foldReq := rfl
@[simp] theorem Tile.modFrond_foldWait (f : Nat) (g : Frond → Frond) : (t.modFrond f g).foldWait = t.foldWait := rfl
@[simp] theorem Tile.modFrond_switchAt (f : Nat) (g : Frond → Frond) : (t.modFrond f g).switchAt = t.switchAt := rfl
@[simp] theorem Tile.modFrond_overrunLogged (f : Nat) (g : Frond → Frond) : (t.modFrond f g).overrunLogged = t.overrunLogged := rfl
@[simp] theorem Tile.modFrond_foldStep (f : Nat) (g : Frond → Frond) : (t.modFrond f g).foldStep = t.foldStep := rfl
@[simp] theorem Tile.modFrond_overruns (f : Nat) (g : Frond → Frond) : (t.modFrond f g).overruns = t.overruns := rfl
@[simp] theorem Tile.modFrond_lineRepairs (f : Nat) (g : Frond → Frond) : (t.modFrond f g).lineRepairs = t.lineRepairs := rfl
@[simp] theorem Tile.modFrond_twice (f : Nat) (g : Frond → Frond) : (t.modFrond f g).twice = t.twice := rfl
@[simp] theorem Tile.modFrond_repairDue (f : Nat) (g : Frond → Frond) : (t.modFrond f g).repairDue = t.repairDue := rfl
@[simp] theorem Tile.modFrond_scrubPos (f : Nat) (g : Frond → Frond) : (t.modFrond f g).scrubPos = t.scrubPos := rfl
@[simp] theorem Tile.modFrond_badRows (f : Nat) (g : Frond → Frond) : (t.modFrond f g).badRows = t.badRows := rfl
@[simp] theorem Tile.modFrond_badCols (f : Nat) (g : Frond → Frond) : (t.modFrond f g).badCols = t.badCols := rfl
@[simp] theorem Tile.modFrond_repairWait (f : Nat) (g : Frond → Frond) : (t.modFrond f g).repairWait = t.repairWait := rfl
@[simp] theorem Tile.modFrond_lastCheck (f : Nat) (g : Frond → Frond) : (t.modFrond f g).lastCheck = t.lastCheck := rfl
@[simp] theorem Tile.modFrond_mxIdle (f : Nat) (g : Frond → Frond) : (t.modFrond f g).mxIdle = t.mxIdle := rfl
@[simp] theorem Tile.modFrond_outbox (f : Nat) (g : Frond → Frond) : (t.modFrond f g).outbox = t.outbox := rfl
@[simp] theorem Tile.modFrond_scrubDue (f : Nat) (g : Frond → Frond) : (t.modFrond f g).scrubDue = t.scrubDue := rfl
@[simp] theorem Tile.modFrond_mxShown (f : Nat) (g : Frond → Frond) : (t.modFrond f g).mxShown = t.mxShown := rfl

@[simp] theorem Tile.modStrand_part (f s : Nat) (g : Strand → Strand) : (t.modStrand f s g).part = t.part := rfl
@[simp] theorem Tile.modStrand_held (f s : Nat) (g : Strand → Strand) : (t.modStrand f s g).held = t.held := rfl
@[simp] theorem Tile.modStrand_clearing (f s : Nat) (g : Strand → Strand) : (t.modStrand f s g).clearing = t.clearing := rfl
@[simp] theorem Tile.modStrand_fenced (f s : Nat) (g : Strand → Strand) : (t.modStrand f s g).fenced = t.fenced := rfl
@[simp] theorem Tile.modStrand_active (f s : Nat) (g : Strand → Strand) : (t.modStrand f s g).active = t.active := rfl
@[simp] theorem Tile.modStrand_fronds (f s : Nat) (g : Strand → Strand) : (t.modStrand f s g).fronds = t.fronds := rfl
@[simp] theorem Tile.modStrand_haltReq (f s : Nat) (g : Strand → Strand) : (t.modStrand f s g).haltReq = t.haltReq := rfl
@[simp] theorem Tile.modStrand_stepping (f s : Nat) (g : Strand → Strand) : (t.modStrand f s g).stepping = t.stepping := rfl
@[simp] theorem Tile.modStrand_lastIssued (f s : Nat) (g : Strand → Strand) : (t.modStrand f s g).lastIssued = t.lastIssued := rfl
@[simp] theorem Tile.modStrand_resetTick (f s : Nat) (g : Strand → Strand) : (t.modStrand f s g).resetTick = t.resetTick := rfl
@[simp] theorem Tile.modStrand_scratch (f s : Nat) (g : Strand → Strand) : (t.modStrand f s g).scratch = t.scratch := rfl
@[simp] theorem Tile.modStrand_acc (f s : Nat) (g : Strand → Strand) : (t.modStrand f s g).acc = t.acc := rfl
@[simp] theorem Tile.modStrand_fstore (f s : Nat) (g : Strand → Strand) : (t.modStrand f s g).fstore = t.fstore := rfl
@[simp] theorem Tile.modStrand_qmem (f s : Nat) (g : Strand → Strand) : (t.modStrand f s g).qmem = t.qmem := rfl
@[simp] theorem Tile.modStrand_smem (f s : Nat) (g : Strand → Strand) : (t.modStrand f s g).smem = t.smem := rfl
@[simp] theorem Tile.modStrand_desc (f s : Nat) (g : Strand → Strand) : (t.modStrand f s g).desc = t.desc := rfl
@[simp] theorem Tile.modStrand_bad (f s : Nat) (g : Strand → Strand) : (t.modStrand f s g).bad = t.bad := rfl
@[simp] theorem Tile.modStrand_ceLines (f s : Nat) (g : Strand → Strand) : (t.modStrand f s g).ceLines = t.ceLines := rfl
@[simp] theorem Tile.modStrand_ceSecond (f s : Nat) (g : Strand → Strand) : (t.modStrand f s g).ceSecond = t.ceSecond := rfl
@[simp] theorem Tile.modStrand_bights (f s : Nat) (g : Strand → Strand) : (t.modStrand f s g).bights = t.bights := rfl
@[simp] theorem Tile.modStrand_routes (f s : Nat) (g : Strand → Strand) : (t.modStrand f s g).routes = t.routes := rfl
@[simp] theorem Tile.modStrand_queues (f s : Nat) (g : Strand → Strand) : (t.modStrand f s g).queues = t.queues := rfl
@[simp] theorem Tile.modStrand_splices (f s : Nat) (g : Strand → Strand) : (t.modStrand f s g).splices = t.splices := rfl
@[simp] theorem Tile.modStrand_hitches (f s : Nat) (g : Strand → Strand) : (t.modStrand f s g).hitches = t.hitches := rfl
@[simp] theorem Tile.modStrand_tallies (f s : Nat) (g : Strand → Strand) : (t.modStrand f s g).tallies = t.tallies := rfl
@[simp] theorem Tile.modStrand_mx (f s : Nat) (g : Strand → Strand) : (t.modStrand f s g).mx = t.mx := rfl
@[simp] theorem Tile.modStrand_vx (f s : Nat) (g : Strand → Strand) : (t.modStrand f s g).vx = t.vx := rfl
@[simp] theorem Tile.modStrand_dma0 (f s : Nat) (g : Strand → Strand) : (t.modStrand f s g).dma0 = t.dma0 := rfl
@[simp] theorem Tile.modStrand_dma1 (f s : Nat) (g : Strand → Strand) : (t.modStrand f s g).dma1 = t.dma1 := rfl
@[simp] theorem Tile.modStrand_fc (f s : Nat) (g : Strand → Strand) : (t.modStrand f s g).fc = t.fc := rfl
@[simp] theorem Tile.modStrand_q0 (f s : Nat) (g : Strand → Strand) : (t.modStrand f s g).q0 = t.q0 := rfl
@[simp] theorem Tile.modStrand_q1 (f s : Nat) (g : Strand → Strand) : (t.modStrand f s g).q1 = t.q1 := rfl
@[simp] theorem Tile.modStrand_q2 (f s : Nat) (g : Strand → Strand) : (t.modStrand f s g).q2 = t.q2 := rfl
@[simp] theorem Tile.modStrand_q3 (f s : Nat) (g : Strand → Strand) : (t.modStrand f s g).q3 = t.q3 := rfl
@[simp] theorem Tile.modStrand_hashed (f s : Nat) (g : Strand → Strand) : (t.modStrand f s g).hashed = t.hashed := rfl
@[simp] theorem Tile.modStrand_retained (f s : Nat) (g : Strand → Strand) : (t.modStrand f s g).retained = t.retained := rfl
@[simp] theorem Tile.modStrand_railOut (f s : Nat) (g : Strand → Strand) : (t.modStrand f s g).railOut = t.railOut := rfl
@[simp] theorem Tile.modStrand_arrivals (f s : Nat) (g : Strand → Strand) : (t.modStrand f s g).arrivals = t.arrivals := rfl
@[simp] theorem Tile.modStrand_foldSt (f s : Nat) (g : Strand → Strand) : (t.modStrand f s g).foldSt = t.foldSt := rfl
@[simp] theorem Tile.modStrand_foldReq (f s : Nat) (g : Strand → Strand) : (t.modStrand f s g).foldReq = t.foldReq := rfl
@[simp] theorem Tile.modStrand_foldWait (f s : Nat) (g : Strand → Strand) : (t.modStrand f s g).foldWait = t.foldWait := rfl
@[simp] theorem Tile.modStrand_switchAt (f s : Nat) (g : Strand → Strand) : (t.modStrand f s g).switchAt = t.switchAt := rfl
@[simp] theorem Tile.modStrand_overrunLogged (f s : Nat) (g : Strand → Strand) : (t.modStrand f s g).overrunLogged = t.overrunLogged := rfl
@[simp] theorem Tile.modStrand_foldStep (f s : Nat) (g : Strand → Strand) : (t.modStrand f s g).foldStep = t.foldStep := rfl
@[simp] theorem Tile.modStrand_overruns (f s : Nat) (g : Strand → Strand) : (t.modStrand f s g).overruns = t.overruns := rfl
@[simp] theorem Tile.modStrand_lineRepairs (f s : Nat) (g : Strand → Strand) : (t.modStrand f s g).lineRepairs = t.lineRepairs := rfl
@[simp] theorem Tile.modStrand_twice (f s : Nat) (g : Strand → Strand) : (t.modStrand f s g).twice = t.twice := rfl
@[simp] theorem Tile.modStrand_repairDue (f s : Nat) (g : Strand → Strand) : (t.modStrand f s g).repairDue = t.repairDue := rfl
@[simp] theorem Tile.modStrand_scrubPos (f s : Nat) (g : Strand → Strand) : (t.modStrand f s g).scrubPos = t.scrubPos := rfl
@[simp] theorem Tile.modStrand_badRows (f s : Nat) (g : Strand → Strand) : (t.modStrand f s g).badRows = t.badRows := rfl
@[simp] theorem Tile.modStrand_badCols (f s : Nat) (g : Strand → Strand) : (t.modStrand f s g).badCols = t.badCols := rfl
@[simp] theorem Tile.modStrand_repairWait (f s : Nat) (g : Strand → Strand) : (t.modStrand f s g).repairWait = t.repairWait := rfl
@[simp] theorem Tile.modStrand_lastCheck (f s : Nat) (g : Strand → Strand) : (t.modStrand f s g).lastCheck = t.lastCheck := rfl
@[simp] theorem Tile.modStrand_mxIdle (f s : Nat) (g : Strand → Strand) : (t.modStrand f s g).mxIdle = t.mxIdle := rfl
@[simp] theorem Tile.modStrand_outbox (f s : Nat) (g : Strand → Strand) : (t.modStrand f s g).outbox = t.outbox := rfl
@[simp] theorem Tile.modStrand_scrubDue (f s : Nat) (g : Strand → Strand) : (t.modStrand f s g).scrubDue = t.scrubDue := rfl
@[simp] theorem Tile.modStrand_mxShown (f s : Nat) (g : Strand → Strand) : (t.modStrand f s g).mxShown = t.mxShown := rfl

@[simp] theorem Tile.modBight_part (f h : Nat) (g : Bight → Bight) : (t.modBight f h g).part = t.part := rfl
@[simp] theorem Tile.modBight_held (f h : Nat) (g : Bight → Bight) : (t.modBight f h g).held = t.held := rfl
@[simp] theorem Tile.modBight_clearing (f h : Nat) (g : Bight → Bight) : (t.modBight f h g).clearing = t.clearing := rfl
@[simp] theorem Tile.modBight_fenced (f h : Nat) (g : Bight → Bight) : (t.modBight f h g).fenced = t.fenced := rfl
@[simp] theorem Tile.modBight_active (f h : Nat) (g : Bight → Bight) : (t.modBight f h g).active = t.active := rfl
@[simp] theorem Tile.modBight_fronds (f h : Nat) (g : Bight → Bight) : (t.modBight f h g).fronds = t.fronds := rfl
@[simp] theorem Tile.modBight_strands (f h : Nat) (g : Bight → Bight) : (t.modBight f h g).strands = t.strands := rfl
@[simp] theorem Tile.modBight_haltReq (f h : Nat) (g : Bight → Bight) : (t.modBight f h g).haltReq = t.haltReq := rfl
@[simp] theorem Tile.modBight_stepping (f h : Nat) (g : Bight → Bight) : (t.modBight f h g).stepping = t.stepping := rfl
@[simp] theorem Tile.modBight_lastIssued (f h : Nat) (g : Bight → Bight) : (t.modBight f h g).lastIssued = t.lastIssued := rfl
@[simp] theorem Tile.modBight_resetTick (f h : Nat) (g : Bight → Bight) : (t.modBight f h g).resetTick = t.resetTick := rfl
@[simp] theorem Tile.modBight_scratch (f h : Nat) (g : Bight → Bight) : (t.modBight f h g).scratch = t.scratch := rfl
@[simp] theorem Tile.modBight_acc (f h : Nat) (g : Bight → Bight) : (t.modBight f h g).acc = t.acc := rfl
@[simp] theorem Tile.modBight_fstore (f h : Nat) (g : Bight → Bight) : (t.modBight f h g).fstore = t.fstore := rfl
@[simp] theorem Tile.modBight_qmem (f h : Nat) (g : Bight → Bight) : (t.modBight f h g).qmem = t.qmem := rfl
@[simp] theorem Tile.modBight_smem (f h : Nat) (g : Bight → Bight) : (t.modBight f h g).smem = t.smem := rfl
@[simp] theorem Tile.modBight_desc (f h : Nat) (g : Bight → Bight) : (t.modBight f h g).desc = t.desc := rfl
@[simp] theorem Tile.modBight_bad (f h : Nat) (g : Bight → Bight) : (t.modBight f h g).bad = t.bad := rfl
@[simp] theorem Tile.modBight_ceLines (f h : Nat) (g : Bight → Bight) : (t.modBight f h g).ceLines = t.ceLines := rfl
@[simp] theorem Tile.modBight_ceSecond (f h : Nat) (g : Bight → Bight) : (t.modBight f h g).ceSecond = t.ceSecond := rfl
@[simp] theorem Tile.modBight_routes (f h : Nat) (g : Bight → Bight) : (t.modBight f h g).routes = t.routes := rfl
@[simp] theorem Tile.modBight_queues (f h : Nat) (g : Bight → Bight) : (t.modBight f h g).queues = t.queues := rfl
@[simp] theorem Tile.modBight_splices (f h : Nat) (g : Bight → Bight) : (t.modBight f h g).splices = t.splices := rfl
@[simp] theorem Tile.modBight_hitches (f h : Nat) (g : Bight → Bight) : (t.modBight f h g).hitches = t.hitches := rfl
@[simp] theorem Tile.modBight_tallies (f h : Nat) (g : Bight → Bight) : (t.modBight f h g).tallies = t.tallies := rfl
@[simp] theorem Tile.modBight_mx (f h : Nat) (g : Bight → Bight) : (t.modBight f h g).mx = t.mx := rfl
@[simp] theorem Tile.modBight_vx (f h : Nat) (g : Bight → Bight) : (t.modBight f h g).vx = t.vx := rfl
@[simp] theorem Tile.modBight_dma0 (f h : Nat) (g : Bight → Bight) : (t.modBight f h g).dma0 = t.dma0 := rfl
@[simp] theorem Tile.modBight_dma1 (f h : Nat) (g : Bight → Bight) : (t.modBight f h g).dma1 = t.dma1 := rfl
@[simp] theorem Tile.modBight_fc (f h : Nat) (g : Bight → Bight) : (t.modBight f h g).fc = t.fc := rfl
@[simp] theorem Tile.modBight_q0 (f h : Nat) (g : Bight → Bight) : (t.modBight f h g).q0 = t.q0 := rfl
@[simp] theorem Tile.modBight_q1 (f h : Nat) (g : Bight → Bight) : (t.modBight f h g).q1 = t.q1 := rfl
@[simp] theorem Tile.modBight_q2 (f h : Nat) (g : Bight → Bight) : (t.modBight f h g).q2 = t.q2 := rfl
@[simp] theorem Tile.modBight_q3 (f h : Nat) (g : Bight → Bight) : (t.modBight f h g).q3 = t.q3 := rfl
@[simp] theorem Tile.modBight_hashed (f h : Nat) (g : Bight → Bight) : (t.modBight f h g).hashed = t.hashed := rfl
@[simp] theorem Tile.modBight_retained (f h : Nat) (g : Bight → Bight) : (t.modBight f h g).retained = t.retained := rfl
@[simp] theorem Tile.modBight_railOut (f h : Nat) (g : Bight → Bight) : (t.modBight f h g).railOut = t.railOut := rfl
@[simp] theorem Tile.modBight_arrivals (f h : Nat) (g : Bight → Bight) : (t.modBight f h g).arrivals = t.arrivals := rfl
@[simp] theorem Tile.modBight_foldSt (f h : Nat) (g : Bight → Bight) : (t.modBight f h g).foldSt = t.foldSt := rfl
@[simp] theorem Tile.modBight_foldReq (f h : Nat) (g : Bight → Bight) : (t.modBight f h g).foldReq = t.foldReq := rfl
@[simp] theorem Tile.modBight_foldWait (f h : Nat) (g : Bight → Bight) : (t.modBight f h g).foldWait = t.foldWait := rfl
@[simp] theorem Tile.modBight_switchAt (f h : Nat) (g : Bight → Bight) : (t.modBight f h g).switchAt = t.switchAt := rfl
@[simp] theorem Tile.modBight_overrunLogged (f h : Nat) (g : Bight → Bight) : (t.modBight f h g).overrunLogged = t.overrunLogged := rfl
@[simp] theorem Tile.modBight_foldStep (f h : Nat) (g : Bight → Bight) : (t.modBight f h g).foldStep = t.foldStep := rfl
@[simp] theorem Tile.modBight_overruns (f h : Nat) (g : Bight → Bight) : (t.modBight f h g).overruns = t.overruns := rfl
@[simp] theorem Tile.modBight_lineRepairs (f h : Nat) (g : Bight → Bight) : (t.modBight f h g).lineRepairs = t.lineRepairs := rfl
@[simp] theorem Tile.modBight_twice (f h : Nat) (g : Bight → Bight) : (t.modBight f h g).twice = t.twice := rfl
@[simp] theorem Tile.modBight_repairDue (f h : Nat) (g : Bight → Bight) : (t.modBight f h g).repairDue = t.repairDue := rfl
@[simp] theorem Tile.modBight_scrubPos (f h : Nat) (g : Bight → Bight) : (t.modBight f h g).scrubPos = t.scrubPos := rfl
@[simp] theorem Tile.modBight_badRows (f h : Nat) (g : Bight → Bight) : (t.modBight f h g).badRows = t.badRows := rfl
@[simp] theorem Tile.modBight_badCols (f h : Nat) (g : Bight → Bight) : (t.modBight f h g).badCols = t.badCols := rfl
@[simp] theorem Tile.modBight_repairWait (f h : Nat) (g : Bight → Bight) : (t.modBight f h g).repairWait = t.repairWait := rfl
@[simp] theorem Tile.modBight_lastCheck (f h : Nat) (g : Bight → Bight) : (t.modBight f h g).lastCheck = t.lastCheck := rfl
@[simp] theorem Tile.modBight_mxIdle (f h : Nat) (g : Bight → Bight) : (t.modBight f h g).mxIdle = t.mxIdle := rfl
@[simp] theorem Tile.modBight_outbox (f h : Nat) (g : Bight → Bight) : (t.modBight f h g).outbox = t.outbox := rfl
@[simp] theorem Tile.modBight_scrubDue (f h : Nat) (g : Bight → Bight) : (t.modBight f h g).scrubDue = t.scrubDue := rfl
@[simp] theorem Tile.modBight_mxShown (f h : Nat) (g : Bight → Bight) : (t.modBight f h g).mxShown = t.mxShown := rfl

@[simp] theorem Tile.modRoute_part (f r : Nat) (g : Route → Route) : (t.modRoute f r g).part = t.part := rfl
@[simp] theorem Tile.modRoute_held (f r : Nat) (g : Route → Route) : (t.modRoute f r g).held = t.held := rfl
@[simp] theorem Tile.modRoute_clearing (f r : Nat) (g : Route → Route) : (t.modRoute f r g).clearing = t.clearing := rfl
@[simp] theorem Tile.modRoute_fenced (f r : Nat) (g : Route → Route) : (t.modRoute f r g).fenced = t.fenced := rfl
@[simp] theorem Tile.modRoute_active (f r : Nat) (g : Route → Route) : (t.modRoute f r g).active = t.active := rfl
@[simp] theorem Tile.modRoute_fronds (f r : Nat) (g : Route → Route) : (t.modRoute f r g).fronds = t.fronds := rfl
@[simp] theorem Tile.modRoute_strands (f r : Nat) (g : Route → Route) : (t.modRoute f r g).strands = t.strands := rfl
@[simp] theorem Tile.modRoute_haltReq (f r : Nat) (g : Route → Route) : (t.modRoute f r g).haltReq = t.haltReq := rfl
@[simp] theorem Tile.modRoute_stepping (f r : Nat) (g : Route → Route) : (t.modRoute f r g).stepping = t.stepping := rfl
@[simp] theorem Tile.modRoute_lastIssued (f r : Nat) (g : Route → Route) : (t.modRoute f r g).lastIssued = t.lastIssued := rfl
@[simp] theorem Tile.modRoute_resetTick (f r : Nat) (g : Route → Route) : (t.modRoute f r g).resetTick = t.resetTick := rfl
@[simp] theorem Tile.modRoute_scratch (f r : Nat) (g : Route → Route) : (t.modRoute f r g).scratch = t.scratch := rfl
@[simp] theorem Tile.modRoute_acc (f r : Nat) (g : Route → Route) : (t.modRoute f r g).acc = t.acc := rfl
@[simp] theorem Tile.modRoute_fstore (f r : Nat) (g : Route → Route) : (t.modRoute f r g).fstore = t.fstore := rfl
@[simp] theorem Tile.modRoute_qmem (f r : Nat) (g : Route → Route) : (t.modRoute f r g).qmem = t.qmem := rfl
@[simp] theorem Tile.modRoute_smem (f r : Nat) (g : Route → Route) : (t.modRoute f r g).smem = t.smem := rfl
@[simp] theorem Tile.modRoute_desc (f r : Nat) (g : Route → Route) : (t.modRoute f r g).desc = t.desc := rfl
@[simp] theorem Tile.modRoute_bad (f r : Nat) (g : Route → Route) : (t.modRoute f r g).bad = t.bad := rfl
@[simp] theorem Tile.modRoute_ceLines (f r : Nat) (g : Route → Route) : (t.modRoute f r g).ceLines = t.ceLines := rfl
@[simp] theorem Tile.modRoute_ceSecond (f r : Nat) (g : Route → Route) : (t.modRoute f r g).ceSecond = t.ceSecond := rfl
@[simp] theorem Tile.modRoute_bights (f r : Nat) (g : Route → Route) : (t.modRoute f r g).bights = t.bights := rfl
@[simp] theorem Tile.modRoute_queues (f r : Nat) (g : Route → Route) : (t.modRoute f r g).queues = t.queues := rfl
@[simp] theorem Tile.modRoute_splices (f r : Nat) (g : Route → Route) : (t.modRoute f r g).splices = t.splices := rfl
@[simp] theorem Tile.modRoute_hitches (f r : Nat) (g : Route → Route) : (t.modRoute f r g).hitches = t.hitches := rfl
@[simp] theorem Tile.modRoute_tallies (f r : Nat) (g : Route → Route) : (t.modRoute f r g).tallies = t.tallies := rfl
@[simp] theorem Tile.modRoute_mx (f r : Nat) (g : Route → Route) : (t.modRoute f r g).mx = t.mx := rfl
@[simp] theorem Tile.modRoute_vx (f r : Nat) (g : Route → Route) : (t.modRoute f r g).vx = t.vx := rfl
@[simp] theorem Tile.modRoute_dma0 (f r : Nat) (g : Route → Route) : (t.modRoute f r g).dma0 = t.dma0 := rfl
@[simp] theorem Tile.modRoute_dma1 (f r : Nat) (g : Route → Route) : (t.modRoute f r g).dma1 = t.dma1 := rfl
@[simp] theorem Tile.modRoute_fc (f r : Nat) (g : Route → Route) : (t.modRoute f r g).fc = t.fc := rfl
@[simp] theorem Tile.modRoute_q0 (f r : Nat) (g : Route → Route) : (t.modRoute f r g).q0 = t.q0 := rfl
@[simp] theorem Tile.modRoute_q1 (f r : Nat) (g : Route → Route) : (t.modRoute f r g).q1 = t.q1 := rfl
@[simp] theorem Tile.modRoute_q2 (f r : Nat) (g : Route → Route) : (t.modRoute f r g).q2 = t.q2 := rfl
@[simp] theorem Tile.modRoute_q3 (f r : Nat) (g : Route → Route) : (t.modRoute f r g).q3 = t.q3 := rfl
@[simp] theorem Tile.modRoute_hashed (f r : Nat) (g : Route → Route) : (t.modRoute f r g).hashed = t.hashed := rfl
@[simp] theorem Tile.modRoute_retained (f r : Nat) (g : Route → Route) : (t.modRoute f r g).retained = t.retained := rfl
@[simp] theorem Tile.modRoute_railOut (f r : Nat) (g : Route → Route) : (t.modRoute f r g).railOut = t.railOut := rfl
@[simp] theorem Tile.modRoute_arrivals (f r : Nat) (g : Route → Route) : (t.modRoute f r g).arrivals = t.arrivals := rfl
@[simp] theorem Tile.modRoute_foldSt (f r : Nat) (g : Route → Route) : (t.modRoute f r g).foldSt = t.foldSt := rfl
@[simp] theorem Tile.modRoute_foldReq (f r : Nat) (g : Route → Route) : (t.modRoute f r g).foldReq = t.foldReq := rfl
@[simp] theorem Tile.modRoute_foldWait (f r : Nat) (g : Route → Route) : (t.modRoute f r g).foldWait = t.foldWait := rfl
@[simp] theorem Tile.modRoute_switchAt (f r : Nat) (g : Route → Route) : (t.modRoute f r g).switchAt = t.switchAt := rfl
@[simp] theorem Tile.modRoute_overrunLogged (f r : Nat) (g : Route → Route) : (t.modRoute f r g).overrunLogged = t.overrunLogged := rfl
@[simp] theorem Tile.modRoute_foldStep (f r : Nat) (g : Route → Route) : (t.modRoute f r g).foldStep = t.foldStep := rfl
@[simp] theorem Tile.modRoute_overruns (f r : Nat) (g : Route → Route) : (t.modRoute f r g).overruns = t.overruns := rfl
@[simp] theorem Tile.modRoute_lineRepairs (f r : Nat) (g : Route → Route) : (t.modRoute f r g).lineRepairs = t.lineRepairs := rfl
@[simp] theorem Tile.modRoute_twice (f r : Nat) (g : Route → Route) : (t.modRoute f r g).twice = t.twice := rfl
@[simp] theorem Tile.modRoute_repairDue (f r : Nat) (g : Route → Route) : (t.modRoute f r g).repairDue = t.repairDue := rfl
@[simp] theorem Tile.modRoute_scrubPos (f r : Nat) (g : Route → Route) : (t.modRoute f r g).scrubPos = t.scrubPos := rfl
@[simp] theorem Tile.modRoute_badRows (f r : Nat) (g : Route → Route) : (t.modRoute f r g).badRows = t.badRows := rfl
@[simp] theorem Tile.modRoute_badCols (f r : Nat) (g : Route → Route) : (t.modRoute f r g).badCols = t.badCols := rfl
@[simp] theorem Tile.modRoute_repairWait (f r : Nat) (g : Route → Route) : (t.modRoute f r g).repairWait = t.repairWait := rfl
@[simp] theorem Tile.modRoute_lastCheck (f r : Nat) (g : Route → Route) : (t.modRoute f r g).lastCheck = t.lastCheck := rfl
@[simp] theorem Tile.modRoute_mxIdle (f r : Nat) (g : Route → Route) : (t.modRoute f r g).mxIdle = t.mxIdle := rfl
@[simp] theorem Tile.modRoute_outbox (f r : Nat) (g : Route → Route) : (t.modRoute f r g).outbox = t.outbox := rfl
@[simp] theorem Tile.modRoute_scrubDue (f r : Nat) (g : Route → Route) : (t.modRoute f r g).scrubDue = t.scrubDue := rfl
@[simp] theorem Tile.modRoute_mxShown (f r : Nat) (g : Route → Route) : (t.modRoute f r g).mxShown = t.mxShown := rfl

@[simp] theorem Tile.modQueue_part (q : Nat) (g : Queue → Queue) : (t.modQueue q g).part = t.part := rfl
@[simp] theorem Tile.modQueue_held (q : Nat) (g : Queue → Queue) : (t.modQueue q g).held = t.held := rfl
@[simp] theorem Tile.modQueue_clearing (q : Nat) (g : Queue → Queue) : (t.modQueue q g).clearing = t.clearing := rfl
@[simp] theorem Tile.modQueue_fenced (q : Nat) (g : Queue → Queue) : (t.modQueue q g).fenced = t.fenced := rfl
@[simp] theorem Tile.modQueue_active (q : Nat) (g : Queue → Queue) : (t.modQueue q g).active = t.active := rfl
@[simp] theorem Tile.modQueue_fronds (q : Nat) (g : Queue → Queue) : (t.modQueue q g).fronds = t.fronds := rfl
@[simp] theorem Tile.modQueue_strands (q : Nat) (g : Queue → Queue) : (t.modQueue q g).strands = t.strands := rfl
@[simp] theorem Tile.modQueue_haltReq (q : Nat) (g : Queue → Queue) : (t.modQueue q g).haltReq = t.haltReq := rfl
@[simp] theorem Tile.modQueue_stepping (q : Nat) (g : Queue → Queue) : (t.modQueue q g).stepping = t.stepping := rfl
@[simp] theorem Tile.modQueue_lastIssued (q : Nat) (g : Queue → Queue) : (t.modQueue q g).lastIssued = t.lastIssued := rfl
@[simp] theorem Tile.modQueue_resetTick (q : Nat) (g : Queue → Queue) : (t.modQueue q g).resetTick = t.resetTick := rfl
@[simp] theorem Tile.modQueue_scratch (q : Nat) (g : Queue → Queue) : (t.modQueue q g).scratch = t.scratch := rfl
@[simp] theorem Tile.modQueue_acc (q : Nat) (g : Queue → Queue) : (t.modQueue q g).acc = t.acc := rfl
@[simp] theorem Tile.modQueue_fstore (q : Nat) (g : Queue → Queue) : (t.modQueue q g).fstore = t.fstore := rfl
@[simp] theorem Tile.modQueue_qmem (q : Nat) (g : Queue → Queue) : (t.modQueue q g).qmem = t.qmem := rfl
@[simp] theorem Tile.modQueue_smem (q : Nat) (g : Queue → Queue) : (t.modQueue q g).smem = t.smem := rfl
@[simp] theorem Tile.modQueue_desc (q : Nat) (g : Queue → Queue) : (t.modQueue q g).desc = t.desc := rfl
@[simp] theorem Tile.modQueue_bad (q : Nat) (g : Queue → Queue) : (t.modQueue q g).bad = t.bad := rfl
@[simp] theorem Tile.modQueue_ceLines (q : Nat) (g : Queue → Queue) : (t.modQueue q g).ceLines = t.ceLines := rfl
@[simp] theorem Tile.modQueue_ceSecond (q : Nat) (g : Queue → Queue) : (t.modQueue q g).ceSecond = t.ceSecond := rfl
@[simp] theorem Tile.modQueue_bights (q : Nat) (g : Queue → Queue) : (t.modQueue q g).bights = t.bights := rfl
@[simp] theorem Tile.modQueue_routes (q : Nat) (g : Queue → Queue) : (t.modQueue q g).routes = t.routes := rfl
@[simp] theorem Tile.modQueue_splices (q : Nat) (g : Queue → Queue) : (t.modQueue q g).splices = t.splices := rfl
@[simp] theorem Tile.modQueue_hitches (q : Nat) (g : Queue → Queue) : (t.modQueue q g).hitches = t.hitches := rfl
@[simp] theorem Tile.modQueue_tallies (q : Nat) (g : Queue → Queue) : (t.modQueue q g).tallies = t.tallies := rfl
@[simp] theorem Tile.modQueue_mx (q : Nat) (g : Queue → Queue) : (t.modQueue q g).mx = t.mx := rfl
@[simp] theorem Tile.modQueue_vx (q : Nat) (g : Queue → Queue) : (t.modQueue q g).vx = t.vx := rfl
@[simp] theorem Tile.modQueue_dma0 (q : Nat) (g : Queue → Queue) : (t.modQueue q g).dma0 = t.dma0 := rfl
@[simp] theorem Tile.modQueue_dma1 (q : Nat) (g : Queue → Queue) : (t.modQueue q g).dma1 = t.dma1 := rfl
@[simp] theorem Tile.modQueue_fc (q : Nat) (g : Queue → Queue) : (t.modQueue q g).fc = t.fc := rfl
@[simp] theorem Tile.modQueue_q0 (q : Nat) (g : Queue → Queue) : (t.modQueue q g).q0 = t.q0 := rfl
@[simp] theorem Tile.modQueue_q1 (q : Nat) (g : Queue → Queue) : (t.modQueue q g).q1 = t.q1 := rfl
@[simp] theorem Tile.modQueue_q2 (q : Nat) (g : Queue → Queue) : (t.modQueue q g).q2 = t.q2 := rfl
@[simp] theorem Tile.modQueue_q3 (q : Nat) (g : Queue → Queue) : (t.modQueue q g).q3 = t.q3 := rfl
@[simp] theorem Tile.modQueue_hashed (q : Nat) (g : Queue → Queue) : (t.modQueue q g).hashed = t.hashed := rfl
@[simp] theorem Tile.modQueue_retained (q : Nat) (g : Queue → Queue) : (t.modQueue q g).retained = t.retained := rfl
@[simp] theorem Tile.modQueue_railOut (q : Nat) (g : Queue → Queue) : (t.modQueue q g).railOut = t.railOut := rfl
@[simp] theorem Tile.modQueue_arrivals (q : Nat) (g : Queue → Queue) : (t.modQueue q g).arrivals = t.arrivals := rfl
@[simp] theorem Tile.modQueue_foldSt (q : Nat) (g : Queue → Queue) : (t.modQueue q g).foldSt = t.foldSt := rfl
@[simp] theorem Tile.modQueue_foldReq (q : Nat) (g : Queue → Queue) : (t.modQueue q g).foldReq = t.foldReq := rfl
@[simp] theorem Tile.modQueue_foldWait (q : Nat) (g : Queue → Queue) : (t.modQueue q g).foldWait = t.foldWait := rfl
@[simp] theorem Tile.modQueue_switchAt (q : Nat) (g : Queue → Queue) : (t.modQueue q g).switchAt = t.switchAt := rfl
@[simp] theorem Tile.modQueue_overrunLogged (q : Nat) (g : Queue → Queue) : (t.modQueue q g).overrunLogged = t.overrunLogged := rfl
@[simp] theorem Tile.modQueue_foldStep (q : Nat) (g : Queue → Queue) : (t.modQueue q g).foldStep = t.foldStep := rfl
@[simp] theorem Tile.modQueue_overruns (q : Nat) (g : Queue → Queue) : (t.modQueue q g).overruns = t.overruns := rfl
@[simp] theorem Tile.modQueue_lineRepairs (q : Nat) (g : Queue → Queue) : (t.modQueue q g).lineRepairs = t.lineRepairs := rfl
@[simp] theorem Tile.modQueue_twice (q : Nat) (g : Queue → Queue) : (t.modQueue q g).twice = t.twice := rfl
@[simp] theorem Tile.modQueue_repairDue (q : Nat) (g : Queue → Queue) : (t.modQueue q g).repairDue = t.repairDue := rfl
@[simp] theorem Tile.modQueue_scrubPos (q : Nat) (g : Queue → Queue) : (t.modQueue q g).scrubPos = t.scrubPos := rfl
@[simp] theorem Tile.modQueue_badRows (q : Nat) (g : Queue → Queue) : (t.modQueue q g).badRows = t.badRows := rfl
@[simp] theorem Tile.modQueue_badCols (q : Nat) (g : Queue → Queue) : (t.modQueue q g).badCols = t.badCols := rfl
@[simp] theorem Tile.modQueue_repairWait (q : Nat) (g : Queue → Queue) : (t.modQueue q g).repairWait = t.repairWait := rfl
@[simp] theorem Tile.modQueue_lastCheck (q : Nat) (g : Queue → Queue) : (t.modQueue q g).lastCheck = t.lastCheck := rfl
@[simp] theorem Tile.modQueue_mxIdle (q : Nat) (g : Queue → Queue) : (t.modQueue q g).mxIdle = t.mxIdle := rfl
@[simp] theorem Tile.modQueue_outbox (q : Nat) (g : Queue → Queue) : (t.modQueue q g).outbox = t.outbox := rfl
@[simp] theorem Tile.modQueue_scrubDue (q : Nat) (g : Queue → Queue) : (t.modQueue q g).scrubDue = t.scrubDue := rfl
@[simp] theorem Tile.modQueue_mxShown (q : Nat) (g : Queue → Queue) : (t.modQueue q g).mxShown = t.mxShown := rfl

@[simp] theorem Tile.modSplice_part (s : Nat) (g : Splice → Splice) : (t.modSplice s g).part = t.part := rfl
@[simp] theorem Tile.modSplice_held (s : Nat) (g : Splice → Splice) : (t.modSplice s g).held = t.held := rfl
@[simp] theorem Tile.modSplice_clearing (s : Nat) (g : Splice → Splice) : (t.modSplice s g).clearing = t.clearing := rfl
@[simp] theorem Tile.modSplice_fenced (s : Nat) (g : Splice → Splice) : (t.modSplice s g).fenced = t.fenced := rfl
@[simp] theorem Tile.modSplice_active (s : Nat) (g : Splice → Splice) : (t.modSplice s g).active = t.active := rfl
@[simp] theorem Tile.modSplice_fronds (s : Nat) (g : Splice → Splice) : (t.modSplice s g).fronds = t.fronds := rfl
@[simp] theorem Tile.modSplice_strands (s : Nat) (g : Splice → Splice) : (t.modSplice s g).strands = t.strands := rfl
@[simp] theorem Tile.modSplice_haltReq (s : Nat) (g : Splice → Splice) : (t.modSplice s g).haltReq = t.haltReq := rfl
@[simp] theorem Tile.modSplice_stepping (s : Nat) (g : Splice → Splice) : (t.modSplice s g).stepping = t.stepping := rfl
@[simp] theorem Tile.modSplice_lastIssued (s : Nat) (g : Splice → Splice) : (t.modSplice s g).lastIssued = t.lastIssued := rfl
@[simp] theorem Tile.modSplice_resetTick (s : Nat) (g : Splice → Splice) : (t.modSplice s g).resetTick = t.resetTick := rfl
@[simp] theorem Tile.modSplice_scratch (s : Nat) (g : Splice → Splice) : (t.modSplice s g).scratch = t.scratch := rfl
@[simp] theorem Tile.modSplice_acc (s : Nat) (g : Splice → Splice) : (t.modSplice s g).acc = t.acc := rfl
@[simp] theorem Tile.modSplice_fstore (s : Nat) (g : Splice → Splice) : (t.modSplice s g).fstore = t.fstore := rfl
@[simp] theorem Tile.modSplice_qmem (s : Nat) (g : Splice → Splice) : (t.modSplice s g).qmem = t.qmem := rfl
@[simp] theorem Tile.modSplice_smem (s : Nat) (g : Splice → Splice) : (t.modSplice s g).smem = t.smem := rfl
@[simp] theorem Tile.modSplice_desc (s : Nat) (g : Splice → Splice) : (t.modSplice s g).desc = t.desc := rfl
@[simp] theorem Tile.modSplice_bad (s : Nat) (g : Splice → Splice) : (t.modSplice s g).bad = t.bad := rfl
@[simp] theorem Tile.modSplice_ceLines (s : Nat) (g : Splice → Splice) : (t.modSplice s g).ceLines = t.ceLines := rfl
@[simp] theorem Tile.modSplice_ceSecond (s : Nat) (g : Splice → Splice) : (t.modSplice s g).ceSecond = t.ceSecond := rfl
@[simp] theorem Tile.modSplice_bights (s : Nat) (g : Splice → Splice) : (t.modSplice s g).bights = t.bights := rfl
@[simp] theorem Tile.modSplice_routes (s : Nat) (g : Splice → Splice) : (t.modSplice s g).routes = t.routes := rfl
@[simp] theorem Tile.modSplice_queues (s : Nat) (g : Splice → Splice) : (t.modSplice s g).queues = t.queues := rfl
@[simp] theorem Tile.modSplice_hitches (s : Nat) (g : Splice → Splice) : (t.modSplice s g).hitches = t.hitches := rfl
@[simp] theorem Tile.modSplice_tallies (s : Nat) (g : Splice → Splice) : (t.modSplice s g).tallies = t.tallies := rfl
@[simp] theorem Tile.modSplice_mx (s : Nat) (g : Splice → Splice) : (t.modSplice s g).mx = t.mx := rfl
@[simp] theorem Tile.modSplice_vx (s : Nat) (g : Splice → Splice) : (t.modSplice s g).vx = t.vx := rfl
@[simp] theorem Tile.modSplice_dma0 (s : Nat) (g : Splice → Splice) : (t.modSplice s g).dma0 = t.dma0 := rfl
@[simp] theorem Tile.modSplice_dma1 (s : Nat) (g : Splice → Splice) : (t.modSplice s g).dma1 = t.dma1 := rfl
@[simp] theorem Tile.modSplice_fc (s : Nat) (g : Splice → Splice) : (t.modSplice s g).fc = t.fc := rfl
@[simp] theorem Tile.modSplice_q0 (s : Nat) (g : Splice → Splice) : (t.modSplice s g).q0 = t.q0 := rfl
@[simp] theorem Tile.modSplice_q1 (s : Nat) (g : Splice → Splice) : (t.modSplice s g).q1 = t.q1 := rfl
@[simp] theorem Tile.modSplice_q2 (s : Nat) (g : Splice → Splice) : (t.modSplice s g).q2 = t.q2 := rfl
@[simp] theorem Tile.modSplice_q3 (s : Nat) (g : Splice → Splice) : (t.modSplice s g).q3 = t.q3 := rfl
@[simp] theorem Tile.modSplice_hashed (s : Nat) (g : Splice → Splice) : (t.modSplice s g).hashed = t.hashed := rfl
@[simp] theorem Tile.modSplice_retained (s : Nat) (g : Splice → Splice) : (t.modSplice s g).retained = t.retained := rfl
@[simp] theorem Tile.modSplice_railOut (s : Nat) (g : Splice → Splice) : (t.modSplice s g).railOut = t.railOut := rfl
@[simp] theorem Tile.modSplice_arrivals (s : Nat) (g : Splice → Splice) : (t.modSplice s g).arrivals = t.arrivals := rfl
@[simp] theorem Tile.modSplice_foldSt (s : Nat) (g : Splice → Splice) : (t.modSplice s g).foldSt = t.foldSt := rfl
@[simp] theorem Tile.modSplice_foldReq (s : Nat) (g : Splice → Splice) : (t.modSplice s g).foldReq = t.foldReq := rfl
@[simp] theorem Tile.modSplice_foldWait (s : Nat) (g : Splice → Splice) : (t.modSplice s g).foldWait = t.foldWait := rfl
@[simp] theorem Tile.modSplice_switchAt (s : Nat) (g : Splice → Splice) : (t.modSplice s g).switchAt = t.switchAt := rfl
@[simp] theorem Tile.modSplice_overrunLogged (s : Nat) (g : Splice → Splice) : (t.modSplice s g).overrunLogged = t.overrunLogged := rfl
@[simp] theorem Tile.modSplice_foldStep (s : Nat) (g : Splice → Splice) : (t.modSplice s g).foldStep = t.foldStep := rfl
@[simp] theorem Tile.modSplice_overruns (s : Nat) (g : Splice → Splice) : (t.modSplice s g).overruns = t.overruns := rfl
@[simp] theorem Tile.modSplice_lineRepairs (s : Nat) (g : Splice → Splice) : (t.modSplice s g).lineRepairs = t.lineRepairs := rfl
@[simp] theorem Tile.modSplice_twice (s : Nat) (g : Splice → Splice) : (t.modSplice s g).twice = t.twice := rfl
@[simp] theorem Tile.modSplice_repairDue (s : Nat) (g : Splice → Splice) : (t.modSplice s g).repairDue = t.repairDue := rfl
@[simp] theorem Tile.modSplice_scrubPos (s : Nat) (g : Splice → Splice) : (t.modSplice s g).scrubPos = t.scrubPos := rfl
@[simp] theorem Tile.modSplice_badRows (s : Nat) (g : Splice → Splice) : (t.modSplice s g).badRows = t.badRows := rfl
@[simp] theorem Tile.modSplice_badCols (s : Nat) (g : Splice → Splice) : (t.modSplice s g).badCols = t.badCols := rfl
@[simp] theorem Tile.modSplice_repairWait (s : Nat) (g : Splice → Splice) : (t.modSplice s g).repairWait = t.repairWait := rfl
@[simp] theorem Tile.modSplice_lastCheck (s : Nat) (g : Splice → Splice) : (t.modSplice s g).lastCheck = t.lastCheck := rfl
@[simp] theorem Tile.modSplice_mxIdle (s : Nat) (g : Splice → Splice) : (t.modSplice s g).mxIdle = t.mxIdle := rfl
@[simp] theorem Tile.modSplice_outbox (s : Nat) (g : Splice → Splice) : (t.modSplice s g).outbox = t.outbox := rfl
@[simp] theorem Tile.modSplice_scrubDue (s : Nat) (g : Splice → Splice) : (t.modSplice s g).scrubDue = t.scrubDue := rfl
@[simp] theorem Tile.modSplice_mxShown (s : Nat) (g : Splice → Splice) : (t.modSplice s g).mxShown = t.mxShown := rfl

@[simp] theorem Tile.modHitch_part (h : Nat) (g : Hitch → Hitch) : (t.modHitch h g).part = t.part := rfl
@[simp] theorem Tile.modHitch_held (h : Nat) (g : Hitch → Hitch) : (t.modHitch h g).held = t.held := rfl
@[simp] theorem Tile.modHitch_clearing (h : Nat) (g : Hitch → Hitch) : (t.modHitch h g).clearing = t.clearing := rfl
@[simp] theorem Tile.modHitch_fenced (h : Nat) (g : Hitch → Hitch) : (t.modHitch h g).fenced = t.fenced := rfl
@[simp] theorem Tile.modHitch_active (h : Nat) (g : Hitch → Hitch) : (t.modHitch h g).active = t.active := rfl
@[simp] theorem Tile.modHitch_fronds (h : Nat) (g : Hitch → Hitch) : (t.modHitch h g).fronds = t.fronds := rfl
@[simp] theorem Tile.modHitch_strands (h : Nat) (g : Hitch → Hitch) : (t.modHitch h g).strands = t.strands := rfl
@[simp] theorem Tile.modHitch_haltReq (h : Nat) (g : Hitch → Hitch) : (t.modHitch h g).haltReq = t.haltReq := rfl
@[simp] theorem Tile.modHitch_stepping (h : Nat) (g : Hitch → Hitch) : (t.modHitch h g).stepping = t.stepping := rfl
@[simp] theorem Tile.modHitch_lastIssued (h : Nat) (g : Hitch → Hitch) : (t.modHitch h g).lastIssued = t.lastIssued := rfl
@[simp] theorem Tile.modHitch_resetTick (h : Nat) (g : Hitch → Hitch) : (t.modHitch h g).resetTick = t.resetTick := rfl
@[simp] theorem Tile.modHitch_scratch (h : Nat) (g : Hitch → Hitch) : (t.modHitch h g).scratch = t.scratch := rfl
@[simp] theorem Tile.modHitch_acc (h : Nat) (g : Hitch → Hitch) : (t.modHitch h g).acc = t.acc := rfl
@[simp] theorem Tile.modHitch_fstore (h : Nat) (g : Hitch → Hitch) : (t.modHitch h g).fstore = t.fstore := rfl
@[simp] theorem Tile.modHitch_qmem (h : Nat) (g : Hitch → Hitch) : (t.modHitch h g).qmem = t.qmem := rfl
@[simp] theorem Tile.modHitch_smem (h : Nat) (g : Hitch → Hitch) : (t.modHitch h g).smem = t.smem := rfl
@[simp] theorem Tile.modHitch_desc (h : Nat) (g : Hitch → Hitch) : (t.modHitch h g).desc = t.desc := rfl
@[simp] theorem Tile.modHitch_bad (h : Nat) (g : Hitch → Hitch) : (t.modHitch h g).bad = t.bad := rfl
@[simp] theorem Tile.modHitch_ceLines (h : Nat) (g : Hitch → Hitch) : (t.modHitch h g).ceLines = t.ceLines := rfl
@[simp] theorem Tile.modHitch_ceSecond (h : Nat) (g : Hitch → Hitch) : (t.modHitch h g).ceSecond = t.ceSecond := rfl
@[simp] theorem Tile.modHitch_bights (h : Nat) (g : Hitch → Hitch) : (t.modHitch h g).bights = t.bights := rfl
@[simp] theorem Tile.modHitch_routes (h : Nat) (g : Hitch → Hitch) : (t.modHitch h g).routes = t.routes := rfl
@[simp] theorem Tile.modHitch_queues (h : Nat) (g : Hitch → Hitch) : (t.modHitch h g).queues = t.queues := rfl
@[simp] theorem Tile.modHitch_splices (h : Nat) (g : Hitch → Hitch) : (t.modHitch h g).splices = t.splices := rfl
@[simp] theorem Tile.modHitch_tallies (h : Nat) (g : Hitch → Hitch) : (t.modHitch h g).tallies = t.tallies := rfl
@[simp] theorem Tile.modHitch_mx (h : Nat) (g : Hitch → Hitch) : (t.modHitch h g).mx = t.mx := rfl
@[simp] theorem Tile.modHitch_vx (h : Nat) (g : Hitch → Hitch) : (t.modHitch h g).vx = t.vx := rfl
@[simp] theorem Tile.modHitch_dma0 (h : Nat) (g : Hitch → Hitch) : (t.modHitch h g).dma0 = t.dma0 := rfl
@[simp] theorem Tile.modHitch_dma1 (h : Nat) (g : Hitch → Hitch) : (t.modHitch h g).dma1 = t.dma1 := rfl
@[simp] theorem Tile.modHitch_fc (h : Nat) (g : Hitch → Hitch) : (t.modHitch h g).fc = t.fc := rfl
@[simp] theorem Tile.modHitch_q0 (h : Nat) (g : Hitch → Hitch) : (t.modHitch h g).q0 = t.q0 := rfl
@[simp] theorem Tile.modHitch_q1 (h : Nat) (g : Hitch → Hitch) : (t.modHitch h g).q1 = t.q1 := rfl
@[simp] theorem Tile.modHitch_q2 (h : Nat) (g : Hitch → Hitch) : (t.modHitch h g).q2 = t.q2 := rfl
@[simp] theorem Tile.modHitch_q3 (h : Nat) (g : Hitch → Hitch) : (t.modHitch h g).q3 = t.q3 := rfl
@[simp] theorem Tile.modHitch_hashed (h : Nat) (g : Hitch → Hitch) : (t.modHitch h g).hashed = t.hashed := rfl
@[simp] theorem Tile.modHitch_retained (h : Nat) (g : Hitch → Hitch) : (t.modHitch h g).retained = t.retained := rfl
@[simp] theorem Tile.modHitch_railOut (h : Nat) (g : Hitch → Hitch) : (t.modHitch h g).railOut = t.railOut := rfl
@[simp] theorem Tile.modHitch_arrivals (h : Nat) (g : Hitch → Hitch) : (t.modHitch h g).arrivals = t.arrivals := rfl
@[simp] theorem Tile.modHitch_foldSt (h : Nat) (g : Hitch → Hitch) : (t.modHitch h g).foldSt = t.foldSt := rfl
@[simp] theorem Tile.modHitch_foldReq (h : Nat) (g : Hitch → Hitch) : (t.modHitch h g).foldReq = t.foldReq := rfl
@[simp] theorem Tile.modHitch_foldWait (h : Nat) (g : Hitch → Hitch) : (t.modHitch h g).foldWait = t.foldWait := rfl
@[simp] theorem Tile.modHitch_switchAt (h : Nat) (g : Hitch → Hitch) : (t.modHitch h g).switchAt = t.switchAt := rfl
@[simp] theorem Tile.modHitch_overrunLogged (h : Nat) (g : Hitch → Hitch) : (t.modHitch h g).overrunLogged = t.overrunLogged := rfl
@[simp] theorem Tile.modHitch_foldStep (h : Nat) (g : Hitch → Hitch) : (t.modHitch h g).foldStep = t.foldStep := rfl
@[simp] theorem Tile.modHitch_overruns (h : Nat) (g : Hitch → Hitch) : (t.modHitch h g).overruns = t.overruns := rfl
@[simp] theorem Tile.modHitch_lineRepairs (h : Nat) (g : Hitch → Hitch) : (t.modHitch h g).lineRepairs = t.lineRepairs := rfl
@[simp] theorem Tile.modHitch_twice (h : Nat) (g : Hitch → Hitch) : (t.modHitch h g).twice = t.twice := rfl
@[simp] theorem Tile.modHitch_repairDue (h : Nat) (g : Hitch → Hitch) : (t.modHitch h g).repairDue = t.repairDue := rfl
@[simp] theorem Tile.modHitch_scrubPos (h : Nat) (g : Hitch → Hitch) : (t.modHitch h g).scrubPos = t.scrubPos := rfl
@[simp] theorem Tile.modHitch_badRows (h : Nat) (g : Hitch → Hitch) : (t.modHitch h g).badRows = t.badRows := rfl
@[simp] theorem Tile.modHitch_badCols (h : Nat) (g : Hitch → Hitch) : (t.modHitch h g).badCols = t.badCols := rfl
@[simp] theorem Tile.modHitch_repairWait (h : Nat) (g : Hitch → Hitch) : (t.modHitch h g).repairWait = t.repairWait := rfl
@[simp] theorem Tile.modHitch_lastCheck (h : Nat) (g : Hitch → Hitch) : (t.modHitch h g).lastCheck = t.lastCheck := rfl
@[simp] theorem Tile.modHitch_mxIdle (h : Nat) (g : Hitch → Hitch) : (t.modHitch h g).mxIdle = t.mxIdle := rfl
@[simp] theorem Tile.modHitch_outbox (h : Nat) (g : Hitch → Hitch) : (t.modHitch h g).outbox = t.outbox := rfl
@[simp] theorem Tile.modHitch_scrubDue (h : Nat) (g : Hitch → Hitch) : (t.modHitch h g).scrubDue = t.scrubDue := rfl
@[simp] theorem Tile.modHitch_mxShown (h : Nat) (g : Hitch → Hitch) : (t.modHitch h g).mxShown = t.mxShown := rfl

/-! ## The wrappers of a command's effect -/

/-- A command on a device that runs. -/
theorem run_live (f : Dev → Dev) (s : State) (h : s.dev.live = true) : run f s = .next { s with dev := f s.dev } := by
  simp [run, h]
/-- A command on a device that is held in reset or stopped. -/
theorem run_dead (f : Dev → Dev) (s : State) (h : s.dev.live = false) : run f s = .next s := by
  simp [run, h]
/-- A command of the device leaves the meter and the queue. -/
theorem run_frame (f : Dev → Dev) (s t : State) (h : run f s = .next t) : t.mtr = s.mtr ∧ t.pending = s.pending := by
  simp only [run, Host.Outcome.next.injEq] at h
  subst h
  exact ⟨rfl, rfl⟩
/-- Everything `runM` can do. -/
theorem runM_live (f : Dev → Dev) (s : State) (h : s.dev.live = true) :
    runM f s = .next { s with dev := f s.dev, mtr := s.mtr.observe s.dev (f s.dev) } := by
  simp [runM, h]
/-- Everything `runRead` can do. -/
theorem runRead_live (f : Meter → Dev → Dev) (s : State) (h : s.dev.live = true) :
    runRead f s = .next { s with dev := f s.mtr s.dev, mtr := s.mtr.observe s.dev (f s.mtr s.dev) } := by
  simp [runRead, h]

end Sys2Proof.Machine
end

