-- ==== Sys2Proof/Laws/Maps.lean ====
section
/-! SUPPORT. Maps kept as lists of pairs: what is read back after a write. The lemmas hold for every list, sorted or not, so
they serve states that no run reaches. Then the named reads after the named updates. -/

namespace Sys2Proof

/-- A map gives back what was just written. -/
@[simp] theorem mget_mset_same {α : Type} (m : List (Nat × α)) (z : α) (k : Nat) (v : α) : mget (mset m k v) z k = v := by
  induction m with
  | nil => simp [mset, mget]
  | cons e r ih =>
    obtain ⟨i, w⟩ := e
    simp only [mset]
    split
    · simp [mget]
    · split
      · simp [mget]
      · next h => simp [mget, h, ih]

/-- A write leaves every other key alone. -/
theorem mget_mset_ne {α : Type} (m : List (Nat × α)) (z : α) (k j : Nat) (v : α) (h : j ≠ k) :
    mget (mset m k v) z j = mget m z j := by
  induction m with
  | nil => simp [mset, mget, Ne.symm h]
  | cons e r ih =>
    obtain ⟨i, w⟩ := e
    simp only [mset]
    split
    · simp [mget, Ne.symm h]
    · split
      · next hik => subst hik; simp [mget, Ne.symm h]
      · simp [mget, ih]

/-- Both cases of a read after a write. -/
theorem mget_mset {α : Type} (m : List (Nat × α)) (z : α) (k j : Nat) (v : α) :
    mget (mset m k v) z j = if j = k then v else mget m z j := by
  by_cases h : j = k
  · subst h; simp
  · simp [h, mget_mset_ne m z k j v h]

/-- Two writes to one key are the second. -/
@[simp] theorem mset_mset {α : Type} (m : List (Nat × α)) (k : Nat) (v w : α) : mset (mset m k v) k w = mset m k w := by
  induction m with
  | nil => simp [mset]
  | cons e r ih =>
    obtain ⟨i, x⟩ := e
    by_cases h : k < i
    · simp [mset, h]
    · by_cases hi : i = k
      · simp [mset, hi]
      · simp [mset, h, hi, ih]

/-- Replacing an element keeps the length. -/
@[simp] theorem lset_length {α : Type} (l : List α) (i : Nat) (v : α) : (lset l i v).length = l.length := by
  induction l generalizing i with
  | nil => rfl
  | cons a r ih => cases i <;> simp [lset, ih]

/-- The element replaced. -/
theorem lset_getD_same {α : Type} (l : List α) (i : Nat) (v z : α) (h : i < l.length) : (lset l i v).getD i z = v := by
  induction l generalizing i with
  | nil => simp at h
  | cons a r ih =>
    cases i with
    | zero => simp [lset]
    | succ i =>
      simp only [List.length_cons, Nat.add_lt_add_iff_right] at h
      simpa [lset] using ih i h

/-- The other elements. -/
theorem lset_getD_ne {α : Type} (l : List α) (i j : Nat) (v z : α) (h : j ≠ i) : (lset l i v).getD j z = l.getD j z := by
  induction l generalizing i j with
  | nil => rfl
  | cons a r ih =>
    cases i with
    | zero =>
      cases j with
      | zero => exact absurd rfl h
      | succ j => simp [lset]
    | succ i =>
      cases j with
      | zero => simp [lset]
      | succ j => simpa [lset] using ih i j (by omega)

namespace Machine

variable (d : Dev) (t : Tile)

/-! ## Register fields -/

/-- A field reads what was written, cut to its width. -/
@[simp] theorem Dev.get_set_same (f : RF) (v : Nat) : (d.set f v).get f = v % 2 ^ f.width := by
  simp [Dev.get, Dev.set]
/-- Another field keeps its value. -/
theorem Dev.get_set_ne (f g : RF) (v : Nat) (h : g.key ≠ f.key) : (d.set f v).get g = d.get g := by
  simp [Dev.get, Dev.set, mget_mset_ne _ _ _ _ _ h]
/-- Both cases. -/
theorem Dev.get_set (f g : RF) (v : Nat) : (d.set f v).get g = if g.key = f.key then v % 2 ^ f.width else d.get g := by
  simp [Dev.get, Dev.set, mget_mset]
/-- A one-bit field as written. -/
theorem Dev.get_flag (f g : RF) (b : Bool) :
    (d.flag f b).get g = if g.key = f.key then (if b then 1 else 0) % 2 ^ f.width else d.get g := by
  simp [Dev.flag, Dev.get_set]
/-- Reads of register fields depend on the register map alone. -/
theorem Dev.get_congr (e : Dev) (f : RF) (h : e.regs = d.regs) : e.get f = d.get f := by simp [Dev.get, h]

/-- No other update touches the register fields. -/
@[simp] theorem Dev.modTile_get (n : Nat) (g : Tile → Tile) (f : RF) : (d.modTile n g).get f = d.get f := rfl
@[simp] theorem Dev.modStrand_get (n f s : Nat) (g : Strand → Strand) (r : RF) : (d.modStrand n f s g).get r = d.get r := rfl
@[simp] theorem Dev.modRegion_get (p : Nat) (g : Region → Region) (f : RF) : (d.modRegion p g).get f = d.get f := rfl
@[simp] theorem Dev.modPart_get (p : Nat) (g : Part → Part) (f : RF) : (d.modPart p g).get f = d.get f := rfl
@[simp] theorem Dev.modPort_get (n : Nat) (g : Port → Port) (f : RF) : (d.modPort n g).get f = d.get f := rfl
@[simp] theorem Dev.modCtx_get (c : Nat) (g : Ctx → Ctx) (f : RF) : (d.modCtx c g).get f = d.get f := rfl
@[simp] theorem Dev.push_get (k : Nat) (b : List Byte) (f : RF) : (d.push k b).get f = d.get f := rfl
@[simp] theorem Dev.draw_get (f : RF) : d.draw.get f = d.get f := rfl

/-! ## Tiles and what they hold -/

@[simp] theorem Dev.tile_modTile_same (n : Nat) (g : Tile → Tile) : (d.modTile n g).tile n = g (d.tile n) := by
  simp [Dev.modTile, Dev.tile]
theorem Dev.tile_modTile_ne (n m : Nat) (g : Tile → Tile) (h : m ≠ n) : (d.modTile n g).tile m = d.tile m := by
  simp [Dev.modTile, Dev.tile, mget_mset_ne _ _ _ _ _ h]
/-- Two changes of one tile are one. -/
theorem Dev.modTile_modTile (n : Nat) (g h : Tile → Tile) : (d.modTile n g).modTile n h = d.modTile n fun t => h (g t) := by
  simp [Dev.modTile, Dev.tile]
@[simp] theorem Dev.set_tile (f : RF) (v n : Nat) : (d.set f v).tile n = d.tile n := rfl
@[simp] theorem Dev.flag_tile (f : RF) (b : Bool) (n : Nat) : (d.flag f b).tile n = d.tile n := rfl
@[simp] theorem Dev.push_tile (k : Nat) (b : List Byte) (n : Nat) : (d.push k b).tile n = d.tile n := rfl
@[simp] theorem Dev.draw_tile (n : Nat) : d.draw.tile n = d.tile n := rfl
@[simp] theorem Dev.modCtx_tile (c : Nat) (g : Ctx → Ctx) (n : Nat) : (d.modCtx c g).tile n = d.tile n := rfl
@[simp] theorem Dev.modRegion_tile (p : Nat) (g : Region → Region) (n : Nat) : (d.modRegion p g).tile n = d.tile n := rfl
@[simp] theorem Dev.modPart_tile (p : Nat) (g : Part → Part) (n : Nat) : (d.modPart p g).tile n = d.tile n := rfl
@[simp] theorem Dev.modPort_tile (p : Nat) (g : Port → Port) (n : Nat) : (d.modPort p g).tile n = d.tile n := rfl

@[simp] theorem Tile.strand_modStrand_same (f s : Nat) (g : Strand → Strand) : (t.modStrand f s g).strand f s = g (t.strand f s) := by
  simp [Tile.modStrand, Tile.strand]
theorem Tile.strand_modStrand_ne (f s f' s' : Nat) (g : Strand → Strand) (h : f' * 8 + s' ≠ f * 8 + s) :
    (t.modStrand f s g).strand f' s' = t.strand f' s' := by
  simp [Tile.modStrand, Tile.strand, mget_mset_ne _ _ _ _ _ h]
/-- Two changes of one strand are one. -/
theorem Tile.modStrand_modStrand (f s : Nat) (g h : Strand → Strand) :
    (t.modStrand f s g).modStrand f s h = t.modStrand f s fun x => h (g x) := by
  simp [Tile.modStrand, Tile.strand]
theorem Dev.modStrand_modStrand (n f s : Nat) (g h : Strand → Strand) :
    (d.modStrand n f s g).modStrand n f s h = d.modStrand n f s fun x => h (g x) := by
  simp only [Dev.modStrand, Dev.modTile_modTile, Tile.modStrand_modStrand]
/-- A change of a strand or a tile is what it does to that one. -/
theorem Dev.modStrand_congr (n f s : Nat) (g h : Strand → Strand) (e : g ((d.tile n).strand f s) = h ((d.tile n).strand f s)) :
    d.modStrand n f s g = d.modStrand n f s h := by
  simp only [Dev.modStrand, Dev.modTile, Tile.modStrand, e]
theorem Dev.modTile_congr (n : Nat) (g h : Tile → Tile) (e : g (d.tile n) = h (d.tile n)) : d.modTile n g = d.modTile n h := by
  simp only [Dev.modTile, e]
/-- Changes of a route that agree on it are one. -/
theorem Dev.modRoute_congr (n f e : Nat) (g h : Route → Route) (w : g ((d.tile n).route f e) = h ((d.tile n).route f e)) :
    d.modRoute n f e g = d.modRoute n f e h := Dev.modTile_congr d n _ _ (by simp only [Tile.modRoute, w])
/-- Two writes of one field are the second. -/
theorem Dev.set_set (f : RF) (v w : Nat) : (d.set f v).set f w = d.set f w := by
  simp [Dev.set]
@[simp] theorem Tile.queue_modQueue_same (q : Nat) (g : Queue → Queue) : (t.modQueue q g).queue q = g (t.queue q) := by
  simp [Tile.modQueue, Tile.queue]
theorem Tile.queue_modQueue_ne (q r : Nat) (g : Queue → Queue) (h : r ≠ q) : (t.modQueue q g).queue r = t.queue r := by
  simp [Tile.modQueue, Tile.queue, mget_mset_ne _ _ _ _ _ h]
@[simp] theorem Tile.route_modRoute_same (f r : Nat) (g : Route → Route) : (t.modRoute f r g).route f r = g (t.route f r) := by
  simp [Tile.modRoute, Tile.route]
@[simp] theorem Tile.frond_modFrond_same (f : Nat) (g : Frond → Frond) : (t.modFrond f g).frond f = g (t.frond f) := by
  simp [Tile.modFrond, Tile.frond]
@[simp] theorem Tile.bight_modBight_same (f h : Nat) (g : Bight → Bight) : (t.modBight f h g).bight f h = g (t.bight f h) := by
  simp [Tile.modBight, Tile.bight]
@[simp] theorem Tile.hitch_modHitch_same (h : Nat) (g : Hitch → Hitch) : (t.modHitch h g).hitch h = g (t.hitch h) := by
  simp [Tile.modHitch, Tile.hitch]
@[simp] theorem Tile.splice_modSplice_same (s : Nat) (g : Splice → Splice) : (t.modSplice s g).splice s = g (t.splice s) := by
  simp [Tile.modSplice, Tile.splice]

@[simp] theorem Dev.region_modRegion_same (p : Nat) (g : Region → Region) : (d.modRegion p g).region p = g (d.region p) := by
  simp [Dev.modRegion, Dev.region]
@[simp] theorem Dev.part_modPart_same (p : Nat) (g : Part → Part) : (d.modPart p g).part p = g (d.part p) := by
  simp [Dev.modPart, Dev.part]
@[simp] theorem Dev.port_modPort_same (n : Nat) (g : Port → Port) : (d.modPort n g).port n = g (d.port n) := by
  simp [Dev.modPort, Dev.port]
@[simp] theorem Dev.ctx_modCtx_same (c : Nat) (g : Ctx → Ctx) : (d.modCtx c g).ctx c = g (d.ctx c) := by
  simp [Dev.modCtx, Dev.ctx]

/-! ## General registers and predicates (R81) -/

/-- g0 reads 0 in every state. -/
@[simp] theorem Strand.reg_zero (x : Strand) : x.reg 0 = 0 := rfl
/-- A write to g0 is discarded. -/
@[simp] theorem Strand.setReg_zero (x : Strand) (v : Word) : x.setReg 0 v = x := rfl
/-- p0 reads 1 in every state. -/
@[simp] theorem Strand.predBit_zero (x : Strand) : x.predBit 0 = true := rfl
/-- A write to p0 is discarded. -/
@[simp] theorem Strand.setPred_zero (x : Strand) (b : Bool) : x.setPred 0 b = x := rfl
/-- A register reads what was written to it. -/
theorem Strand.reg_setReg_same (x : Strand) (r : Nat) (v : Word) (h0 : r ≠ 0) (h : r < x.g.length) : (x.setReg r v).reg r = v := by
  simp only [Strand.setReg, if_neg h0, Strand.reg]
  exact lset_getD_same _ _ _ _ h
/-- The other registers keep their values. -/
theorem Strand.reg_setReg_ne (x : Strand) (r q : Nat) (v : Word) (h : q ≠ r) : (x.setReg r v).reg q = x.reg q := by
  by_cases h0 : r = 0
  · simp [Strand.setReg, h0]
  · simp only [Strand.setReg, if_neg h0, Strand.reg]
    rw [lset_getD_ne _ _ _ _ _ h]

end Machine

end Sys2Proof
end

