-- ==== Sys2Proof/Laws/Memory.lean ====
section
/-! SUPPORT. Byte memories (Ops): every operation keeps the canonical form (addresses strictly rising, no byte 0 listed), and
what is read after a write. -/

namespace Sys2Proof.Machine

/-- Every listed address lies above `a`. -/
def above (a : Nat) (m : List Host.Cell) : Prop := ∀ e ∈ m, a < e.1

/-- The canonical form, one entry at a time. -/
theorem wf_cons (a : Nat) (v : Byte) (r : List Host.Cell) :
    Memory.wf ((a, v) :: r) = true ↔ v ≠ 0 ∧ above a r ∧ Memory.wf r = true := by
  induction r generalizing a v with
  | nil => simp [Memory.wf, above]
  | cons e r ih =>
    obtain ⟨b, w⟩ := e
    simp only [Memory.wf, Bool.and_eq_true, bne_iff_ne, ne_eq, decide_eq_true_eq, above, List.mem_cons, forall_eq_or_imp]
    constructor
    · rintro ⟨⟨hv, hab⟩, hw⟩
      refine ⟨hv, ⟨hab, fun x hx => ?_⟩, hw⟩
      exact Nat.lt_trans hab (((ih b w).1 hw).2.1 x hx)
    · rintro ⟨hv, ⟨hab, _⟩, hw⟩
      exact ⟨⟨hv, hab⟩, hw⟩

/-- Addresses of a byte write are those listed and the one written. -/
theorem cset_mem (m : List Host.Cell) (a : Nat) (v : Byte) (e : Host.Cell) (h : e ∈ cset m a v) : e.1 = a ∨ e ∈ m := by
  induction m with
  | nil =>
    simp only [cset] at h
    split at h <;> simp_all
  | cons x r ih =>
    obtain ⟨i, w⟩ := x
    simp only [cset] at h
    split at h
    · split at h
      · exact .inr h
      · rcases List.mem_cons.1 h with h | h
        · exact .inl (by rw [h])
        · exact .inr h
    · split at h
      · split at h
        · exact .inr (List.mem_cons_of_mem _ h)
        · rcases List.mem_cons.1 h with h | h
          · exact .inl (by rw [h])
          · exact .inr (List.mem_cons_of_mem _ h)
      · rcases List.mem_cons.1 h with h | h
        · exact .inr (by rw [h]; exact List.mem_cons_self ..)
        · rcases ih h with h | h
          · exact .inl h
          · exact .inr (List.mem_cons_of_mem _ h)

/-- A byte write keeps the canonical form. -/
theorem cset_wf (m : List Host.Cell) (a : Nat) (v : Byte) (h : Memory.wf m = true) : Memory.wf (cset m a v) = true := by
  induction m with
  | nil =>
    simp only [cset]
    split
    · rfl
    · next hv => simpa [Memory.wf] using hv
  | cons x r ih =>
    obtain ⟨i, w⟩ := x
    obtain ⟨hw, hab, hr⟩ := (wf_cons i w r).1 h
    simp only [cset]
    split
    · next hai =>
      split
      · exact h
      · next hv =>
        refine (wf_cons _ _ _).2 ⟨hv, fun e he => ?_, h⟩
        rcases List.mem_cons.1 he with he | he
        · rw [he]; exact hai
        · exact Nat.lt_trans hai (hab e he)
    · split
      · split
        · exact hr
        · next hai hv =>
          subst hai
          exact (wf_cons _ _ _).2 ⟨hv, hab, hr⟩
      · next h1 h2 =>
        refine (wf_cons _ _ _).2 ⟨hw, fun e he => ?_, ih hr⟩
        rcases cset_mem r a v e he with he | he
        · rw [he]; omega
        · exact hab e he

/-- A write of bytes keeps the canonical form. -/
theorem cwrite_wf (bs : List Byte) (m : List Host.Cell) (a : Nat) (h : Memory.wf m = true) : Memory.wf (cwrite m a bs) = true := by
  induction bs generalizing m a with
  | nil => exact h
  | cons b bs ih => exact ih _ _ (cset_wf m a b h)

/-- A clear keeps the canonical form. -/
theorem cclear_wf (m : List Host.Cell) (lo hi : Nat) (h : Memory.wf m = true) : Memory.wf (cclear m lo hi) = true := by
  induction m with
  | nil => exact h
  | cons x r ih =>
    obtain ⟨i, w⟩ := x
    obtain ⟨hw, hab, hr⟩ := (wf_cons i w r).1 h
    simp only [cclear] at ih ⊢
    rw [List.filter_cons]
    split
    · exact (wf_cons _ _ _).2 ⟨hw, fun e he => hab e (List.mem_filter.1 he).1, ih hr⟩
    · exact ih hr

/-- A byte below every listed one reads 0. -/
theorem cget_above (a : Nat) (m : List Host.Cell) (h : above a m) : cget m a = 0 := by
  induction m with
  | nil => rfl
  | cons x r ih =>
    obtain ⟨i, w⟩ := x
    have h1 : a < i := h (i, w) (List.mem_cons_self ..)
    have h2 : above a r := fun e he => h e (List.mem_cons_of_mem _ he)
    simp only [cget, mget, show ¬ i = a by omega, if_false]
    exact ih h2

/-- A canonical memory gives back the byte just written, and every other byte as before. -/
theorem cget_cset (m : List Host.Cell) (a b : Nat) (v : Byte) (h : Memory.wf m = true) :
    cget (cset m a v) b = if b = a then v else cget m b := by
  induction m with
  | nil =>
    simp only [cset]
    by_cases hb : b = a
    · subst hb
      split
      · next hv => rw [if_pos rfl, hv]; rfl
      · simp [cget, mget]
    · have : ¬ a = b := fun x => hb x.symm
      split <;> simp [cget, mget, this]
  | cons x r ih =>
    obtain ⟨i, w⟩ := x
    obtain ⟨hw, hab, hr⟩ := (wf_cons i w r).1 h
    have ih := ih hr
    simp only [cset]
    split
    · next hai =>
      have hz : cget ((i, w) :: r) a = 0 := cget_above a _ (fun e he => by
        rcases List.mem_cons.1 he with he | he
        · rw [he]; exact hai
        · exact Nat.lt_trans hai (hab e he))
      split
      · next hv =>
        subst hv
        by_cases hb : b = a
        · subst hb; simp [hz]
        · simp [hb]
      · by_cases hb : b = a
        · subst hb; simp [cget, mget]
        · simp [cget, mget, hb, Ne.symm hb]
    · split
      · next hai =>
        subst hai
        have hz : cget r a = 0 := cget_above a r hab
        split
        · next hv =>
          subst hv
          by_cases hb : b = a
          · subst hb; simpa using hz
          · have : ¬ a = b := fun x => hb x.symm
            simp [cget, mget, hb, this]
        · by_cases hb : b = a
          · subst hb; simp [cget, mget]
          · have : ¬ a = b := fun x => hb x.symm
            simp [cget, mget, hb, this]
      · next hai =>
        simp only [cget] at ih ⊢
        simp only [mget]
        by_cases hb : b = a
        · subst hb
          have : ¬ i = b := fun x => hai x.symm
          rw [if_neg this, ih, if_pos rfl, if_pos rfl]
        · simp only [ih, hb, if_false]

/-- A write of bytes leaves the bytes outside it. -/
theorem cget_cwrite_out (bs : List Byte) (m : List Host.Cell) (a b : Nat) (h : Memory.wf m = true) (hb : b < a ∨ a + bs.length ≤ b) :
    cget (cwrite m a bs) b = cget m b := by
  induction bs generalizing m a with
  | nil => rfl
  | cons x bs ih =>
    simp only [List.length_cons] at hb
    rw [cwrite, ih _ _ (cset_wf m a x h) (by omega), cget_cset m a b x h, if_neg (by omega)]

/-- A write of bytes is read back. -/
theorem cget_cwrite_in (bs : List Byte) (m : List Host.Cell) (a i : Nat) (h : Memory.wf m = true) (hi : i < bs.length) :
    cget (cwrite m a bs) (a + i) = bs.getD i 0 := by
  induction bs generalizing m a i with
  | nil => simp at hi
  | cons x bs ih =>
    cases i with
    | zero =>
      simp only [Nat.add_zero, cwrite]
      rw [cget_cwrite_out bs _ _ _ (cset_wf m a x h) (by omega), cget_cset m a a x h]
      simp
    | succ i =>
      simp only [cwrite, List.length_cons, Nat.add_lt_add_iff_right] at hi ⊢
      have := ih (cset m a x) (a + 1) i (cset_wf m a x h) hi
      rw [show a + (i + 1) = a + 1 + i by omega, this]
      simp

end Sys2Proof.Machine
end

