-- ==== Sys2Proof/Laws/Issue.lean ====
section
/-! SUPPORT. What issuing an instruction can do: one lemma for `Dev.issue` on a strand that may issue, one for a strand that
may not, one for a guard that does not hold, and the frame of an instruction that changes its own strand alone. -/

namespace Sys2Proof.Machine

/-- A strand that may issue and whose guard holds: counted, then the body, then the end of the instruction. -/
theorem issue_ready (s : State) (x : Iss) (f : Nat) (srcs : List Nat) (len : Nat) (body : Body) (h : Ready s x f srcs) :
    s.dev.issue x srcs len body =
      (body (s.dev.noted x.tile.val x.strand.val) x.tile.val f x.strand.val (strandOf s x f)).1.endIssue
        (s.dev.noted x.tile.val x.strand.val) x.tile.val f x.strand.val (strandOf s x f).pc.toNat len
        (body (s.dev.noted x.tile.val x.strand.val) x.tile.val f x.strand.val (strandOf s x f)).2 := by
  obtain ⟨_, ha, hc, hg, _, he⟩ := h
  have hg' : guard ((s.dev.tile x.tile.val).strand f x.strand.val) x = true := hg
  have he' : ((s.dev.tile x.tile.val).strand f x.strand.val).atEnd = false := he
  simp only [Dev.issue, ha, hg', he', hc, Bool.not_false, Bool.not_true, Bool.and_self, Bool.false_eq_true, if_true, if_false]
  rfl

/-- A tile without an active frond, or a strand that may not issue, does nothing (R84, R86). -/
theorem issue_idle (d : Dev) (x : Iss) (srcs : List Nat) (len : Nat) (body : Body)
    (h : ∀ f, (d.tile x.tile.val).active = some f → ∀ l, d.canIssue x.tile.val f x.strand.val l = false) :
    d.issue x srcs len body = d := by
  cases ha : (d.tile x.tile.val).active with
  | none => simp only [Dev.issue, ha]
  | some f =>
    simp only [Dev.issue, ha, h f ha, Bool.not_false, if_true]

/-- Where the guard does not hold, the instruction does nothing but move the program counter (R88). -/
theorem issue_guard (d : Dev) (x : Iss) (f : Nat) (srcs : List Nat) (len : Nat) (body : Body)
    (ha : (d.tile x.tile.val).active = some f) (hc : d.canIssue x.tile.val f x.strand.val [] = true)
    (hg : guard ((d.tile x.tile.val).strand f x.strand.val) x = false)
    (he : ((d.tile x.tile.val).strand f x.strand.val).atEnd = false) :
    d.issue x srcs len body =
      (d.noted x.tile.val x.strand.val).stepPc x.tile.val f x.strand.val ((d.tile x.tile.val).strand f x.strand.val).pc.toNat len := by
  simp only [Dev.issue, ha, hg, he, Bool.not_false, Bool.not_true, Bool.false_and, Bool.false_eq_true, if_false, hc]
  rfl

/-- Every instruction that a strand issues is one issue of its words, with its own registers and effect inside. -/
theorem issueOf_exec (i : Instr) (s : State) (x : Iss) (len : Nat) (h : issueOf i = some (x, len)) :
    ∃ srcs body, exec i s = run (fun d => d.issue x srcs len body) s ∨ exec i s = runM (fun d => d.issue x srcs len body) s := by
  cases i
  all_goals first
    | (cases h; exact ⟨_, _, .inl rfl⟩)
    | (cases h; exact ⟨_, _, .inr rfl⟩)
    | cases h

@[simp] theorem Dev.noted_tile_same (d : Dev) (n k : Nat) :
    (d.noted n k).tile n = { d.tile n with lastIssued := k, stepping := none } := by
  simp [Dev.noted, Dev.add]
@[simp] theorem Dev.noted_tick (d : Dev) (n k : Nat) : (d.noted n k).tick = d.tick := rfl
@[simp] theorem Dev.noted_now (d : Dev) (n k : Nat) : (d.noted n k).now = d.now := rfl
@[simp] theorem Dev.noted_strand (d : Dev) (n k f j : Nat) : ((d.noted n k).tile n).strand f j = (d.tile n).strand f j := by
  simp [Tile.strand]

/-- Two changes of one strand are one. -/
theorem Dev.modStrand_tile (d : Dev) (n f k : Nat) (g : Strand → Strand) :
    (d.modStrand n f k g).tile n = (d.tile n).modStrand f k g := by
  simp [Dev.modStrand]

/-- Everything an instruction can do that changes its own strand by `g` alone: that strand's context, the issue count and who
issued last (R83). -/
theorem strand_becomes1 (s : State) (x : Iss) (f : Nat) (g : Strand → Strand) :
    StrandBecomes s { s with dev := (s.dev.noted x.tile.val x.strand.val).modStrand x.tile.val f x.strand.val g } x f
      (g (strandOf s x f)) := by
  refine ⟨⟨⟨rfl, rfl, rfl⟩, ?_, ?_, ?_, ?_, ?_⟩, ?_, ?_, ?_⟩
  · intro m hm
    simp [Dev.modStrand, Dev.tile_modTile_ne _ _ _ _ hm, Dev.noted, Dev.add]
  · intro r hr
    have hr' : r.key ≠ (TILE_ISSUE_COUNT_V x.tile.val).key := hr _ (List.mem_singleton.2 rfl)
    simp [Dev.noted, Dev.add, Dev.get_set_ne _ _ _ _ hr']
  · simp [Dev.noted, Dev.add, TILE_ISSUE_COUNT_V, RF.width]
  · simp [Dev.modStrand_tile]
  · simp [Dev.modStrand_tile]
  · simp [strandOf, Dev.modStrand_tile]
    rfl
  · intro f' k' hk
    simp [Dev.modStrand_tile, Tile.strand_modStrand_ne _ _ _ _ _ _ hk]
    rfl
  · simp only [Dev.modStrand_tile, Dev.noted_tile_same]
    rfl

/-- What an instruction leaves that may keep its strand from being ready (R83): the strand's own note of it alone. -/
theorem noted_hold (s : State) (x : Iss) (f k : Nat) (h : 1 < k) :
    (s.dev.noted x.tile.val x.strand.val).hold x.tile.val f x.strand.val k =
      (s.dev.noted x.tile.val x.strand.val).modStrand x.tile.val f x.strand.val fun y => y.slowed s x.tile.val k := by
  have e : (s.dev.noted x.tile.val x.strand.val).get (TILE_ISSUE_COUNT_V x.tile.val) =
      min (s.dev.get (TILE_ISSUE_COUNT_V x.tile.val) + 1) (2 ^ 64 - 1) := by
    simp [Dev.noted, Dev.add, TILE_ISSUE_COUNT_V, RF.width]
  simp only [Dev.hold, Nat.not_le.2 h, if_false, e]
  rfl

/-- The same for two changes of the strand, the second of them the program counter's. -/
theorem strand_becomes (s : State) (x : Iss) (f : Nat) (g h : Strand → Strand) :
    StrandBecomes s
      { s with dev := ((s.dev.noted x.tile.val x.strand.val).modStrand x.tile.val f x.strand.val g).modStrand
                x.tile.val f x.strand.val h } x f (h (g (strandOf s x f))) := by
  rw [Dev.modStrand_modStrand]
  exact strand_becomes1 s x f fun y => h (g y)

/-- An instruction of one word whose body changes its strand by `g`, which leaves the program counter, and goes on. -/
theorem issue_strand (s : State) (x : Iss) (f : Nat) (srcs : List Nat) (body : Body) (g : Strand → Strand) (h : Ready s x f srcs)
    (hb : body (s.dev.noted x.tile.val x.strand.val) x.tile.val f x.strand.val (strandOf s x f) =
      ((s.dev.noted x.tile.val x.strand.val).modStrand x.tile.val f x.strand.val g, .next))
    (hp : (g (strandOf s x f)).pc = (strandOf s x f).pc) :
    ∃ t, run (fun d => d.issue x srcs 1 body) s = .next t ∧ StrandBecomes s t x f (g (strandOf s x f)).advance := by
  refine ⟨_, run_live _ _ h.1, ?_⟩
  have hpc : (strandOf s x f).pc.toNat + 1 ≤ 8191 := h.2.2.2.2.1
  rw [issue_ready s x f srcs 1 body h, hb]
  simp only [Dev.endIssue, Dev.stepPc, hpc, if_true]
  have := strand_becomes s x f g fun y => { y with pc := BitVec.ofNat 13 ((strandOf s x f).pc.toNat + 1) }
  simpa [Strand.advance, hp] using this

/-- The same for one whose result comes `k` cycles later. -/
theorem issue_slow (s : State) (x : Iss) (f k : Nat) (srcs : List Nat) (body : Body) (g : Strand → Strand) (h : Ready s x f srcs)
    (hk : 1 < k)
    (hb : ∀ d, body d x.tile.val f x.strand.val (strandOf s x f) = (d.modStrand x.tile.val f x.strand.val g, .next))
    (hp : ∀ y, (g y).pc = y.pc) :
    ∃ t, run (fun d => d.issue x srcs 1 (slowly k body)) s = .next t ∧
      StrandBecomes s t x f (g ((strandOf s x f).slowed s x.tile.val k)).advance := by
  refine issue_strand s x f srcs (slowly k body) (fun y => g (y.slowed s x.tile.val k)) h ?_ (hp _)
  simp only [slowly, hb, noted_hold s x f k hk, Dev.modStrand_modStrand]

/-- An instruction of one word with no effect of its own. -/
theorem issue_nop (s : State) (x : Iss) (f : Nat) (srcs : List Nat) (body : Body) (h : Ready s x f srcs)
    (hb : body (s.dev.noted x.tile.val x.strand.val) x.tile.val f x.strand.val (strandOf s x f) =
      (s.dev.noted x.tile.val x.strand.val, .next)) :
    ∃ t, run (fun d => d.issue x srcs 1 body) s = .next t ∧ StrandBecomes s t x f (strandOf s x f).advance := by
  refine ⟨_, run_live _ _ h.1, ?_⟩
  have hpc : (strandOf s x f).pc.toNat + 1 ≤ 8191 := h.2.2.2.2.1
  rw [issue_ready s x f srcs 1 body h, hb]
  simp only [Dev.endIssue, Dev.stepPc, hpc, if_true]
  exact strand_becomes1 s x f fun y => { y with pc := BitVec.ofNat 13 ((strandOf s x f).pc.toNat + 1) }

/-- An instruction of one word whose body leaves the device `d` and goes on. -/
theorem issue_goes (s : State) (x : Iss) (f : Nat) (srcs : List Nat) (body : Body) (d : Dev) (h : Ready s x f srcs)
    (hb : body (s.dev.noted x.tile.val x.strand.val) x.tile.val f x.strand.val (strandOf s x f) = (d, .next)) :
    run (fun d => d.issue x srcs 1 body) s = .next (goesOn s x f d) := by
  have hpc : (strandOf s x f).pc.toNat + 1 ≤ 8191 := h.2.2.2.2.1
  rw [run_live _ _ h.1, issue_ready s x f srcs 1 body h, hb]
  simp only [Dev.endIssue, Dev.stepPc, hpc, if_true]
  rfl

/-- An instruction whose body raises a trap that the frond's handler takes: the device is as counted but for the strand. -/
theorem issue_trap (s : State) (x : Iss) (f : Nat) (srcs : List Nat) (body : Body) (d : Dev) (c : Nat) (v : Word) (h : Ready s x f srcs)
    (hb : body (s.dev.noted x.tile.val x.strand.val) x.tile.val f x.strand.val (strandOf s x f) = (d, .trap c v))
    (hc : c ≤ 8) (ht : (strandOf s x f).inTrap = false) (hv : ((s.dev.tile x.tile.val).frond f).trapValid = true) :
    ∃ t, run (fun d => d.issue x srcs 1 body) s = .next t ∧
      StrandBecomes s t x f { strandOf s x f with cause := BitVec.ofNat 8 c, epc := BitVec.ofNat 13 (strandOf s x f).pc.toNat, tval := v, inTrap := true, pc := ((s.dev.tile x.tile.val).frond f).trapEntry, slow := ((strandOf s x f).slowed s x.tile.val 3).slow } := by
  refine ⟨_, run_live _ _ h.1, ?_⟩
  rw [issue_ready s x f srcs 1 body h, hb]
  have h1 : (((s.dev.noted x.tile.val x.strand.val).tile x.tile.val).strand f x.strand.val).inTrap = false := by
    rw [Dev.noted_tile_same]; exact ht
  have h2 : (((s.dev.noted x.tile.val x.strand.val).tile x.tile.val).frond f).trapValid = true := by
    rw [Dev.noted_tile_same]; exact hv
  simp only [Dev.endIssue, Dev.takeTrap, hc, decide_true, h1, h2, Bool.not_false, Bool.and_self, if_true]
  have h3 : ((s.dev.noted x.tile.val x.strand.val).tile x.tile.val).frond f = (s.dev.tile x.tile.val).frond f := by
    rw [Dev.noted_tile_same]; rfl
  rw [h3, noted_hold s x f 3 (by decide)]
  exact strand_becomes s x f (fun y => y.slowed s x.tile.val 3) fun y =>
    { y with cause := BitVec.ofNat 8 c, epc := BitVec.ofNat 13 (strandOf s x f).pc.toNat, tval := v, inTrap := true
             pc := ((s.dev.tile x.tile.val).frond f).trapEntry }

/-- A change of one strand alone. -/
theorem only_strand (s : State) (n f k : Nat) (g : Strand → Strand) :
    OnlyStrand s { s with dev := s.dev.modStrand n f k g } n f k (g ((s.dev.tile n).strand f k)) := by
  refine ⟨rfl, ?_, ?_, ?_, ?_⟩
  · intro m hm
    simp [Dev.modStrand, Dev.tile_modTile_ne _ _ _ _ hm]
  · simp [Dev.modStrand_tile]
  · intro f' k' hk
    simp [Dev.modStrand_tile, Tile.strand_modStrand_ne _ _ _ _ _ _ hk]
  · simp only [Dev.modStrand_tile]
    rfl

/-- A register write leaves the program counter. -/
@[simp] theorem Strand.setReg_pc (y : Strand) (r : Nat) (v : Word) : (y.setReg r v).pc = y.pc := by
  unfold Strand.setReg; split <;> rfl
/-- A predicate write leaves the program counter. -/
@[simp] theorem Strand.setPred_pc (y : Strand) (p : Nat) (b : Bool) : (y.setPred p b).pc = y.pc := by
  unfold Strand.setPred; split <;> rfl

end Sys2Proof.Machine
end

