-- ==== Sys2Proof/Laws/Log.lean ====
section
/-! SUPPORT. Everything writing a fault record can do (R434, R501, R517): FLT_LOG, FLT_SEQ and FLT_COUNT, the record's delivery, the
note of R72, and for severity 3 and 4 the FAULT_N pulse. -/

namespace Sys2Proof.Machine

variable (d : Dev) (r : FltRec)

/-- What a record leaves alone, in one equation. -/
theorem Dev.log_frame :
    d.log r = { d with regs := (d.log r).regs, fltLog := (d.log r).fltLog, nop := (d.log r).nop, reqs := (d.log r).reqs,
                       power := (d.log r).power, pins := (d.log r).pins } := by
  by_cases h : 3 ≤ r.sev <;> simp only [Dev.log, h, if_true, if_false] <;> rfl
/-- The register fields after a record. -/
theorem Dev.log_regs :
    (d.log r).regs = ((d.set FLT_SEQ_SEQ (d.get FLT_SEQ_SEQ + 1)).add (FLT_COUNT_V r.sev) 1).regs := by
  by_cases h : 3 ≤ r.sev <;> simp only [Dev.log, h, if_true, if_false] <;> rfl
/-- No tile changes. -/
@[simp] theorem Dev.log_tile (n : Nat) : (d.log r).tile n = d.tile n := by
  have := congrArg (fun e : Dev => e.tile n) (Dev.log_frame d r)
  exact this
/-- Every field but FLT_SEQ and the count of the record's severity keeps its value. -/
theorem Dev.log_get_ne (f : RF) (h1 : f.key ≠ FLT_SEQ_SEQ.key) (h2 : f.key ≠ (FLT_COUNT_V r.sev).key) :
    (d.log r).get f = d.get f := by
  rw [Dev.get_congr _ _ _ (Dev.log_regs d r)]
  simp [Dev.add, Dev.get_set_ne _ _ _ _ h2, Dev.get_set_ne _ _ _ _ h1]
/-- FLT_SEQ counts the record. -/
theorem Dev.log_seq : (d.log r).get FLT_SEQ_SEQ = (d.get FLT_SEQ_SEQ + 1) % 2 ^ 32 := by
  have h : FLT_SEQ_SEQ.key ≠ (FLT_COUNT_V r.sev).key := by
    simp [FLT_SEQ_SEQ, FLT_COUNT_V, RF.key, FLT_SEQ, FLT_COUNT]; omega
  rw [Dev.get_congr _ _ _ (Dev.log_regs d r)]
  rw [Dev.add, Dev.get_set_ne _ _ _ _ h, Dev.get_set_same]; rfl
/-- The record's bytes stand at its place in the log. -/
@[simp] theorem Dev.log_record : mget (d.log r).fltLog [] (d.get FLT_SEQ_SEQ % 256) = fltBytes d r := by
  by_cases h : 3 ≤ r.sev <;> simp only [Dev.log, h, if_true, if_false] <;> exact mget_mset_same ..

/-- The repair fuses, and every other part that a record has nothing to do with. -/
@[simp] theorem Dev.log_fuses : (d.log r).fuses = d.fuses := by
  have := congrArg Dev.fuses (Dev.log_frame d r)
  exact this
/-- A sparing action's record changes no tile and no fuse. -/
@[simp] theorem Dev.spared_tile (k : Nat) (t : Option Nat) (u : Nat) (b : List Byte) (n : Nat) : (d.spared k t u b).tile n = d.tile n := by
  unfold Dev.spared; exact Dev.log_tile _ _ _
@[simp] theorem Dev.spared_fuses (k : Nat) (t : Option Nat) (u : Nat) (b : List Byte) : (d.spared k t u b).fuses = d.fuses := by
  unfold Dev.spared; exact Dev.log_fuses _ _

/-- CLASS, SEVERITY, PARTITION and TILE of a record stand at their offsets (R501). -/
theorem fltBytes_class : fieldAt (fltBytes d r) 3 1 = r.cls % 256 := by
  simp [fltBytes, fieldAt, slice, leBytes, leNat, timeBytes, zeros]
theorem fltBytes_sev : fieldAt (fltBytes d r) 16 1 = r.sev % 256 := by
  simp [fltBytes, fieldAt, slice, leBytes, leNat, timeBytes, zeros]
theorem fltBytes_part : fieldAt (fltBytes d r) 17 1 = r.part % 256 := by
  simp [fltBytes, fieldAt, slice, leBytes, leNat, timeBytes, zeros]
theorem fltBytes_tile (n : Nat) (h : r.tile = some n) : fieldAt (fltBytes d r) 18 2 = n % 65536 := by
  simp only [fltBytes, h, fieldAt, slice, leBytes, timeBytes, List.cons_append, List.nil_append, List.append_assoc, List.drop,
    List.take, leNat, List.length, zeros, BitVec.toNat_ofNat]
  simp [leNat]
  omega
/-- The bytes of DETAIL start at 64 (R501). -/
theorem fltBytes_detail (o n : Nat) (h : o + n ≤ 64) : fieldAt (fltBytes d r) (64 + o) n = fieldAt r.detail o n := by
  have e : fieldAt (slice r.detail 0 64) o n = fieldAt r.detail o n := by
    simp only [fieldAt, slice, List.drop_zero, zeros]
    congr 1
    apply List.ext_getElem
    · simp
    · intro i h1 h2
      simp only [List.length_append, List.length_take, List.length_drop, List.length_replicate] at h1 h2
      simp only [List.getElem_append, List.getElem_take, List.getElem_drop, List.getElem_replicate, List.length_append, List.length_take,
        List.length_drop, List.length_replicate]
      split <;> split <;> (try split) <;> first | rfl | omega
  rw [fltBytes, fieldAt_skip]
  · rw [← e]
    congr 1
    cases r.tile <;> cases r.addr <;> cases r.related <;> simp [timeBytes]
  · cases r.tile <;> cases r.addr <;> cases r.related <;> simp [timeBytes]

end Sys2Proof.Machine
end

