-- ==== Sys2Proof/Laws/Step.lean ====
section
/-! SUPPORT. Everything a step can do, said once: a command acts on the device alone, or on the device with the meter looking on, or
it is a command of the meter itself. -/

namespace Sys2Proof.Machine

/-- A command on the device alone, while the device runs: what it makes of the device is all it does. -/
theorem exec_next {c : Instr} {s : State} {d d' : Dev} (h : exec c s = .next ⟨if s.dev.live then d else s.dev, s.mtr, s.pending⟩)
    (hl : s.dev.live = true) (e : d = d') : exec c s = .next { s with dev := d' } := by
  rw [h, ← e]; simp only [hl, if_true]

/-- The same for a command that the meter observes. -/
theorem exec_nextM {c : Instr} {s : State} {d d' : Dev}
    (h : exec c s = .next ⟨if s.dev.live then d else s.dev, s.mtr.observe s.dev (if s.dev.live then d else s.dev), s.pending⟩)
    (hl : s.dev.live = true) (e : d = d') : exec c s = .next { s with dev := d', mtr := s.mtr.observe s.dev d' } := by
  rw [h, ← e]; simp only [hl, if_true]

/-- Every command but the meter's own has one of three forms. -/
theorem exec_form (c : Instr) (s : State) (h : ¬ ofMeter c) : ∃ d : Dev,
    exec c s = .next ⟨if s.dev.live then d else s.dev, s.mtr, s.pending⟩ ∨
    exec c s = .next ⟨if s.dev.live then d else s.dev, s.mtr.observe s.dev (if s.dev.live then d else s.dev), s.pending⟩ ∨
    (ofPins c ∧ exec c s = .next ⟨d, s.mtr.observe s.dev d, s.pending⟩) := by
  cases c
  all_goals first
    | exact absurd trivial h
    | exact ⟨_, .inl rfl⟩
    | exact ⟨_, .inr (.inl rfl)⟩
    | exact ⟨_, .inr (.inr ⟨trivial, rfl⟩)⟩

end Sys2Proof.Machine
end

