-- ==== Sys2Proof/Laws/Messages.lean ====
section
/-! SUPPORT. What a send answers (R268, R269, R275, R276), said once for its five forms. -/

namespace Sys2Proof.Machine

/-- What every form of send needs before it looks for credit: alignment, an OPEN route of the type, a payload in scratchpad that is ON
and holds no uncorrectable word. -/
structure SendFits (d : Dev) (n f : Nat) (st : Strand) (kind : SendKind) (ra rb : GReg) (len align : Nat) (r : Route) : Prop where
  aligned : (st.reg ra.val).toNat % align = 0
  route : d.routeFor n f (st.reg rb.val) (if kind = .splice then rtSplice else rtQueue) = some r
  open_ : r.st = .open_
  inScratch : d.inScratch n (st.reg ra.val).toNat len = true
  noUe : (d.tile n).ueIn (st.reg ra.val).toNat len = false

/-- A read of scratchpad that holds no uncorrectable word gives its bytes; a corrected error is counted (R259). -/
theorem eccRead_gives (d : Dev) (n off len reader f s : Nat) (ecc : Ecc) (hu : (d.tile n).ueIn off len = false) (he : ecc ≠ .uncorrectable) :
    d.eccRead n off len reader f s ecc =
      (if ecc = .corrected then d.corrected n off else d, some ((d.tile n).winRead off len)) := by
  simp [Dev.eccRead, hu, he]

/-- An uncorrectable error under a read is contained (R259). -/
theorem eccRead_fails (d : Dev) (n off len reader f s : Nat) :
    d.eccRead n off len reader f s .uncorrectable = (d.memUe n ((d.tile n).ueAddr off len) reader f s, none) := by
  simp [Dev.eccRead]

/-- With credit and nobody waiting the send goes out and completes OK. -/
theorem send_goes (d : Dev) (n f s : Nat) (st : Strand) (kind : SendKind) (rd ra rb : GReg) (len align : Nat) (nc : NoCredit) (r : Route)
    (h : SendFits d n f st kind ra rb len align r) (hc : 0 < r.credit) (hw : r.waiters = []) :
    d.send n f s st kind rd ra rb len align .ok nc =
      putStatus (d.strandSend n f s kind ((d.tile n).winRead (st.reg ra.val).toNat len) len (rwEntry (st.reg rb.val)) (rwUser (st.reg rb.val)))
        n f s rd.val (stWord stOk) stOk := by
  have h1 := h.aligned
  have h2 := eccRead_gives d n (st.reg ra.val).toNat len rdMessaging f s .ok h.noUe (by decide)
  simp only [Dev.send, h1, h.route, h.open_, h.inScratch, h2, hc, hw, Bool.not_true, Bool.false_eq_true, decide_true,
    List.isEmpty_nil, Bool.and_self, if_true, if_false, ne_eq, not_true_eq_false, reduceCtorEq]

/-- Without credit a send waits its turn, for good or for a time, or completes FULL (R276). -/
theorem send_holds (d : Dev) (n f s : Nat) (st : Strand) (kind : SendKind) (rd ra rb : GReg) (len align : Nat) (nc : NoCredit) (r : Route)
    (h : SendFits d n f st kind ra rb len align r) (hc : r.credit = 0) :
    d.send n f s st kind rd ra rb len align .ok nc =
      (let hold (limit : Option Nat) : Dev × Flow :=
        enterWait (d.modRoute n f (rwEntry (st.reg rb.val)) fun r => { r with waiters := r.waiters ++ [.strand s] }) n f s .send
          (.send kind rd.val ((d.tile n).winRead (st.reg ra.val).toNat len) len (rwEntry (st.reg rb.val)) (rwUser (st.reg rb.val)) limit)
      match nc with
      | .wait => hold none
      | .waitFor k => if k = 0 then putStatus d n f s rd.val (stWord stTimeout) stTimeout else hold (some (d.tick + k))
      | .full => putStatus d n f s rd.val (stWord stFull) stFull) := by
  have h1 := h.aligned
  have h2 := eccRead_gives d n (st.reg ra.val).toNat len rdMessaging f s .ok h.noUe (by decide)
  have hc' : ¬ 0 < r.credit := by omega
  simp only [Dev.send, h1, h.route, h.open_, h.inScratch, h2, hc', Bool.not_true, Bool.false_eq_true, decide_false,
    Bool.false_and, if_false, ne_eq, not_true_eq_false, reduceCtorEq]
  all_goals cases nc <;> rfl

/-- A send whose payload meets an uncorrectable error is contained, and nothing goes out (R259, R275). -/
theorem send_fails (d : Dev) (n f s : Nat) (st : Strand) (kind : SendKind) (rd ra rb : GReg) (len align : Nat) (nc : NoCredit) (r : Route)
    (h : SendFits d n f st kind ra rb len align r) :
    d.send n f s st kind rd ra rb len align .uncorrectable nc =
      (d.memUe n ((d.tile n).ueAddr (st.reg ra.val).toNat len) rdMessaging f s, .next) := by
  have h1 := h.aligned
  have h2 := eccRead_fails d n (st.reg ra.val).toNat len rdMessaging f s
  simp only [Dev.send, h1, h.route, h.open_, h.inScratch, h2, Bool.not_true, Bool.false_eq_true, if_false, ne_eq,
    not_true_eq_false]

/-- The first entry that meets `p`, when none before it does, is the one found, and the one dropped. -/
theorem find_drop {α : Type} (p : α → Bool) (f : α) (pre post : List α) (hf : p f = true) (hp : ∀ g ∈ pre, p g = false) :
    (pre ++ f :: post).find? p = some f ∧ dropFirst p (pre ++ f :: post) = pre ++ post := by
  induction pre with
  | nil => simp [dropFirst, hf]
  | cons g r ih =>
    have hg := hp g (List.mem_cons_self ..)
    have := ih fun x hx => hp x (List.mem_cons_of_mem _ hx)
    simp [dropFirst, hg, this.1, this.2]

/-- A command that takes up arrivals takes the oldest of its kind. -/
theorem arrival_takes (d : Dev) (n : Nat) (p : FlitBody → Bool) (k : Dev → Flit → Dev) (f : Flit) (rest : List Flit)
    (h : d.oldestIs n f rest) (hp : ∀ b, p b = true ↔ b.kind = f.body.kind) : d.arrival n p k = k (d.took n rest) f := by
  obtain ⟨pre, post, ha, rfl, hn⟩ := h
  have hf : p f.body = true := (hp _).2 rfl
  have hpre : ∀ g ∈ pre, p g.body = false := by
    intro g hg
    cases hb : p g.body with
    | false => rfl
    | true => exact absurd ((hp _).1 hb) (hn g hg)
  have e := find_drop (fun x : Flit => p x.body) f pre post hf hpre
  simp only [Dev.arrival, ha, e.1]
  congr 1
  refine Dev.modTile_congr _ _ _ _ ?_
  simp only [ha, e.2]

/-- Such a command is what it makes of that flit. -/
theorem exec_takes {c : Instr} {s : State} {n : Nat} {p : FlitBody → Bool} {k : Dev → Flit → Dev} {f : Flit} {rest : List Flit} {d' : Dev}
    (h : exec c s = run (fun d => d.arrival n p k) s) (hl : s.dev.live = true) (ha : s.dev.oldestIs n f rest)
    (hp : ∀ b, p b = true ↔ b.kind = f.body.kind) (e : k (s.dev.took n rest) f = d') : exec c s = .next { s with dev := d' } :=
  exec_next h hl ((arrival_takes s.dev n p k f rest ha hp).trans e)

end Sys2Proof.Machine
end

