-- ==== Sys2Proof/Laws/Meter.lean ====
section
/-! SUPPORT. What the meter does as it observes a command, and when it closes a record: its measured energies stay as they are, the
chain stays sound, and where nothing it watches changes it does nothing. -/

namespace Sys2Proof.Machine

/-- The lines of a record share its total in the unsigned 128-bit integers of R482: line 0 takes what is left. -/
theorem meterApportion_sum (total : Nat) (a : List Nat) : (meterApportion total a).sum % 2 ^ 128 = total % 2 ^ 128 := by
  simp only [meterApportion, List.sum_cons, u128]
  generalize (allParts.map (meterShare total a)).sum = r
  omega

/-- A write to a map adds one entry at most. -/
theorem mset_mem {α : Type} (m : List (Nat × α)) (k : Nat) (v : α) (e : Nat × α) (h : e ∈ mset m k v) : e = (k, v) ∨ e ∈ m := by
  induction m with
  | nil => exact .inl (by simpa [mset] using h)
  | cons x r ih =>
    obtain ⟨i, w⟩ := x
    simp only [mset] at h
    split at h
    · rcases List.mem_cons.1 h with h | h
      · exact .inl h
      · exact .inr h
    · split at h
      · rcases List.mem_cons.1 h with h | h
        · exact .inl h
        · exact .inr (List.mem_cons_of_mem _ h)
      · rcases List.mem_cons.1 h with h | h
        · exact .inr (by rw [h]; exact List.mem_cons_self ..)
        · rcases ih h with h | h
          · exact .inl h
          · exact .inr (List.mem_cons_of_mem _ h)

/-- The lines of a record, one for each partition number. -/
theorem meterLines_app (app : List Nat) (f : Nat → MLine) (h : app.length = 16) (hf : ∀ p, (f p).app = app.getD p 0) :
    (((List.range 16).map f).map (·.app)) = app := by
  rw [List.map_map]
  apply List.ext_getElem
  · simp [h]
  · intro i h1 h2
    simp only [List.getElem_map, List.getElem_range, Function.comp, hf]
    exact List.getD_eq_getElem _ _ h2

/-- A snapshot touches no record. -/
theorem Meter.snapshot_records (m : Meter) (d : Dev) :
    ((m.chargeTicks d).snapshot d).records = m.records ∧ ((m.chargeTicks d).snapshot d).nextSeq = m.nextSeq ∧
      ((m.chargeTicks d).snapshot d).cum = m.cum ∧ ((m.chargeTicks d).snapshot d).measured = m.measured := by
  simp only [Meter.snapshot, Meter.chargeTicks]
  split <;> exact ⟨rfl, rfl, rfl, rfl⟩

/-- Closing a record keeps the chain sound. -/
theorem Meter.close_sound (m : Meter) (d d' : Dev) (early r : Bool) (h : m.sound) : (m.close d d' early r).sound := by
  have e := Meter.snapshot_records m d
  intro x hx
  simp only [Meter.close] at hx ⊢
  generalize (m.chargeTicks d).snapshot d = m1 at e hx ⊢
  obtain ⟨e1, e2, e3, _⟩ := e
  rcases mset_mem _ _ _ _ hx with hx | hx
  · subst hx
    refine ⟨rfl, Nat.lt_succ_self _, ?_, rfl, ?_, ?_⟩
    · simp only
      rw [meterLines_app _ _ (by simp [meterApportion, allParts]) (fun _ => rfl), meterApportion_sum]
    · exact Nat.le_add_left ..
    · exact Nat.le_refl _
  · rw [e1] at hx
    obtain ⟨h1, h2, h3, h4, h5, h6⟩ := h x hx
    rw [e2, e3]
    exact ⟨h1, Nat.lt_succ_of_lt h2, h3, h4, h5, Nat.le_trans h6 (Nat.le_add_right ..)⟩

/-- A further point in the cycle of the latest close keeps the chain sound. -/
theorem Meter.amend_sound (m : Meter) (d d' : Dev) (r : Bool) (h : m.sound) : (m.amend d d' r).sound := by
  have e := Meter.snapshot_records m d
  intro x hx
  simp only [Meter.amend] at hx ⊢
  generalize (m.chargeTicks d).snapshot d = m1 at e hx ⊢
  obtain ⟨e1, e2, e3, _⟩ := e
  obtain ⟨y, hy, rfl⟩ := List.mem_map.1 hx
  rw [e1] at hy
  rw [e2, e3]
  have hl : ∀ ls : List MLine, (ls.map fun l : MLine =>
      if (l.part != 0 && l.pstate == 0) = true then l
      else { l with pstate := d'.partState l.part, tiles := meterTilesOf d' l.part }).map (·.app) = ls.map (·.app) := by
    intro ls
    rw [List.map_map]
    apply List.map_congr_left
    intro l _
    simp only [Function.comp]
    split <;> rfl
  obtain ⟨h1, h2, h3, h4, h5, h6⟩ := h y hy
  split
  · exact ⟨h1, h2, by rw [← h3, hl], h4, h5, h6⟩
  · exact ⟨h1, h2, h3, h4, h5, h6⟩

/-- What the meter can do as it observes a command: nothing, a snapshot, the close of a record, or an addition to the record that
closed in the same cycle. -/
theorem Meter.observe_cases (m : Meter) (d d' : Dev) :
    m.observe d d' = m ∨ (∃ l, m.observe d d' = { (m.chargeTicks d).snapshot d with snap := l }) ∨
    (∃ a b l, m.observe d d' = { m.close d d' a b with snap := l }) ∨ (∃ b l, m.observe d d' = { m.amend d d' b with snap := l }) := by
  unfold Meter.observe
  split
  · exact .inl rfl
  · simp only []
    split
    · exact .inr (.inl ⟨_, rfl⟩)
    · split
      · split
        · exact .inr (.inr (.inr ⟨_, _, rfl⟩))
        · exact .inr (.inr (.inl ⟨_, _, _, rfl⟩))
      · split
        · split
          · exact .inr (.inr (.inr ⟨false, (m.amend d d' false).snap, rfl⟩))
          · exact .inr (.inr (.inl ⟨!m.atInterval d, false, (m.close d d' (!m.atInterval d) false).snap, rfl⟩))
        · split
          · exact .inr (.inl ⟨_, rfl⟩)
          · exact .inl rfl

/-- Closing a record alters no measured energy. -/
theorem Meter.close_measured (m : Meter) (d d' : Dev) (a b : Bool) : (m.close d d' a b).measured = m.measured :=
  (show (m.close d d' a b).measured = ((m.chargeTicks d).snapshot d).measured from rfl).trans (Meter.snapshot_records m d).2.2.2

/-- Adding to the latest record alters no measured energy. -/
theorem Meter.amend_measured (m : Meter) (d d' : Dev) (b : Bool) : (m.amend d d' b).measured = m.measured :=
  (show (m.amend d d' b).measured = ((m.chargeTicks d).snapshot d).measured from rfl).trans (Meter.snapshot_records m d).2.2.2

/-- Observing a command keeps the chain sound. -/
theorem Meter.observe_sound (m : Meter) (d d' : Dev) (h : m.sound) : (m.observe d d').sound := by
  rcases Meter.observe_cases m d d' with e | ⟨l, e⟩ | ⟨a, b, l, e⟩ | ⟨b, l, e⟩
  · rw [e]; exact h
  · rw [e]
    obtain ⟨e1, e2, e3, _⟩ := Meter.snapshot_records m d
    intro x hx
    have hx' : x ∈ ((m.chargeTicks d).snapshot d).records := hx
    rw [e1] at hx'
    show _ ∧ _ < ((m.chargeTicks d).snapshot d).nextSeq ∧ _ ∧ _ ∧ _ ∧ _ ≤ ((m.chargeTicks d).snapshot d).cum
    rw [e2, e3]
    exact h x hx'
  · rw [e]
    exact fun x hx => Meter.close_sound m d d' a b h x hx
  · rw [e]
    exact fun x hx => Meter.amend_sound m d d' b h x hx

/-- Observing a command alters no measured energy. -/
theorem Meter.observe_measured (m : Meter) (d d' : Dev) : (m.observe d d').measured = m.measured := by
  rcases Meter.observe_cases m d d' with e | ⟨l, e⟩ | ⟨a, b, l, e⟩ | ⟨b, l, e⟩
  · rw [e]
  · rw [e]; exact (Meter.snapshot_records m d).2.2.2
  · rw [e]; exact Meter.close_measured m d d' a b
  · rw [e]; exact Meter.amend_measured m d d' b

/-- Where the partition map stays, nothing is spared and neither RESET_N nor PWR_GOOD falls, the meter does nothing. -/
theorem Meter.observe_same (m : Meter) (d d' : Dev) (h : sameMap d d') (hr : ¬ (d.pins.resetN = true ∧ d'.pins.resetN = false))
    (hp : ¬ (d.pins.pwrGood = true ∧ d'.pins.pwrGood = false)) : m.observe d d' = m := by
  obtain ⟨h1, h2, h3⟩ := h
  have hr' : (d.pins.resetN && !d'.pins.resetN) = false := by
    rcases hd : d.pins.resetN <;> rcases hd' : d'.pins.resetN <;> simp_all
  have hp' : (d.pins.pwrGood && !d'.pins.pwrGood) = false := by
    rcases hd : d.pins.pwrGood <;> rcases hd' : d'.pins.pwrGood <;> simp_all
  have hf : meterFreeChange d d' = false := by
    simp only [meterFreeChange, List.any_eq_false, bne_iff_ne, ne_eq, not_not, allParts, List.mem_map, List.mem_range]
    rintro p ⟨i, hi, rfl⟩
    exact (h2 ⟨i + 1, by omega⟩).symm
  have ht : allTiles.any (fun n => (d.tile n).part != (d'.tile n).part) = false := by
    simp only [List.any_eq_false, bne_iff_ne, ne_eq, not_not, allTiles, List.mem_range]
    intro n hn
    exact (h1 ⟨n, hn⟩).symm
  unfold Meter.observe
  simp only [hr', hp', Bool.and_assoc, Bool.and_false, hf, ht, h3, bne_self_eq_false, Bool.or_self, Bool.false_eq_true, if_false, ite_self]

end Sys2Proof.Machine
end

