-- ==== Sys2Proof/Laws/Nopra.lean ====
section
/-! SUPPORT. Everything the receipt of a Nopra message can do before the message's own effect, said once. -/

namespace Sys2Proof.Machine

/-- A message that is served has its effect on the device that has taken it in turn. -/
theorem Dev.nopraRx_served {d : Dev} {h : NHdr} {seqd boot ok : Bool} (reply : Byte → Dev → Dev) (k : Dev → Dev)
    (a : Served d h seqd boot ok) : d.nopraRx h seqd boot ok reply k = k (d.inTurn h seqd) := by
  have hs : (d.heard h).ctxState h.dctx.val = 2 := a.stays
  have hr := a.runs
  have ht := a.turn
  have hv : h.seqv = seqd := a.kind
  unfold Dev.nopraRx
  extract_lets c d1 d2 d2a d3 give e
  have h3 : d3 = d.heard h := rfl
  have good (x : Dev) (hx : x.booting = false ∨ boot = true) : give x = k x := by
    show (if h.reserved = true then _ else if (!(h.version == 1 && ok && h.seqv == seqd)) = true then _ else if (x.booting && !boot) = true then _ else _) = _
    rw [a.version, a.length, hv, a.typed]
    rcases hx with hx | hx <;> simp [hx]
  have hu : ¬ ((decide (d.ethState h.port.val ≠ ethUp) || decide (d.ctxState c ≠ 2)) = true) := by
    simp only [Bool.or_eq_true, decide_eq_true_eq, not_or, not_not]
    exact ⟨a.up, a.opened⟩
  have hi : ¬ h.incarn ≠ d.get (NOP_CTX_STATE_INCARN c) := fun n => n a.incarn
  have hs3 : ¬ d3.ctxState c ≠ 2 := fun n => n hs
  rw [if_neg (by simp [a.heard]), if_neg hu, if_neg (by simp [a.auth]), if_neg hi, if_neg hs3]
  cases seqd with
  | false => rw [if_pos (by simp [hv])]; exact good d3 hr
  | true =>
    have he : h.seq = e := ht rfl
    rw [if_neg (by simp [hv]), if_neg (by omega), if_neg (by omega)]
    exact good _ hr

variable {d : Dev} {h : NHdr} {seqd boot ok : Bool} (reply : Byte → Dev → Dev) (k : Dev → Dev)

/-- A datagram that is not the device's changes nothing (R409). -/
theorem Dev.nopraRx_deaf (q : d.hears h = false) : d.nopraRx h seqd boot ok reply k = d := by
  unfold Dev.nopraRx
  simp only
  rw [if_pos (by simp [q])]

/-- A message for a context that is not open, or at a port that is not UP, is discarded and counted. -/
theorem Dev.nopraRx_shut (q : d.hears h = true) (a : d.ethState h.port.val ≠ 4 ∨ d.ctxState h.dctx.val ≠ 2) :
    d.nopraRx h seqd boot ok reply k = d.ctxDrop h.dctx.val 1 := by
  unfold Dev.nopraRx
  simp only
  rw [if_neg (by simp [q]), if_pos (by rcases a with a | a <;> simp [ethUp, a])]

/-- One that fails authentication is counted. -/
theorem Dev.nopraRx_auth (q : d.hears h = true) (u : d.ethState h.port.val = 4) (o : d.ctxState h.dctx.val = 2) (a : h.authOk = false) :
    d.nopraRx h seqd boot ok reply k = d.add (NOP_CTX_COUNT_V h.dctx.val 1) 1 := by
  unfold Dev.nopraRx
  simp only
  rw [if_neg (by simp [q]), if_neg (by simp [ethUp, u, o]), if_pos (by simp [a])]

/-- One of another incarnation is discarded and counted. -/
theorem Dev.nopraRx_incarn (q : d.hears h = true) (u : d.ethState h.port.val = 4) (o : d.ctxState h.dctx.val = 2) (a : h.authOk = true)
    (i : h.incarn ≠ d.get (NOP_CTX_STATE_INCARN h.dctx.val)) :
    d.nopraRx h seqd boot ok reply k = d.ctxDrop h.dctx.val 1 := by
  unfold Dev.nopraRx
  simp only
  rw [if_neg (by simp [q]), if_neg (by simp [ethUp, u, o]), if_neg (by simp [a]), if_pos i]

/-- What an accepted message does, by its place in the sequence. -/
theorem Dev.nopraRx_heard (a : Accepts d h) : d.nopraRx h seqd boot ok reply k =
    let c := h.dctx.val
    let e := d.heard h
    let give (d : Dev) : Dev :=
      if h.reserved then d.ctxDrop c 1
      else if !(h.version == 1 && ok && h.seqv == seqd) then reply 0x42 (d.ctxDrop c 1)
      else if d.booting && !boot then reply 0x43 d
      else k d
    let n := e.get (NOP_CTX_SEQ_NEXT_RX c)
    if !h.seqv then give e
    else if h.seq < n then e.ackOwed c
    else if n < h.seq then
      if (e.ctx c).nakFor = some n then e else (e.ackOwed c).modCtx c fun x => { x with nakDue := true, nakFor := some n }
    else give ((e.set (NOP_CTX_SEQ_NEXT_RX c) (n + 1)).ackOwed c) := by
  have hs : (d.heard h).ctxState h.dctx.val = 2 := a.stays
  unfold Dev.nopraRx
  extract_lets c d1 d2 d2a d3 give
  have hi : ¬ h.incarn ≠ d.get (NOP_CTX_STATE_INCARN c) := fun n => n a.incarn
  have hs3 : ¬ d3.ctxState c ≠ 2 := fun n => n hs
  rw [if_neg (by simp [a.heard]), if_neg (by simp only [Bool.or_eq_true, decide_eq_true_eq, not_or, not_not]; exact ⟨a.up, a.opened⟩),
    if_neg (by simp [a.auth]), if_neg hi, if_neg hs3]
  rfl

/-- Every message runs its receipt, with its own effect inside: the device `x` is what that makes of the device. -/
def IsReceipt (i : Instr) (s : State) (h : NHdr) (seqd : Bool) : Prop :=
  ∃ ok boot reply k,
    exec i s = .next ⟨if s.dev.live then s.dev.nopraRx h seqd boot ok reply k else s.dev, s.mtr, s.pending⟩ ∨
    exec i s = .next ⟨if s.dev.live then s.dev.nopraRx h seqd boot ok reply k else s.dev,
      s.mtr.observe s.dev (if s.dev.live then s.dev.nopraRx h seqd boot ok reply k else s.dev), s.pending⟩

theorem items_receipt (i : Instr) (s : State) (h : NHdr) (type n : Nat) (k : Dev → Dev)
    (e : exec i s = run (fun d => d.itemsRx h type n k) s) : IsReceipt i s h true := by
  unfold run Dev.itemsRx Dev.nopraPlain at e
  exact ⟨_, _, _, _, .inl e⟩
theorem qentryRx_receipt (s : State) (h : NHdr) (items) : IsReceipt (.qentryRx h items) s h true :=
  items_receipt _ s h _ _ _ rfl
theorem contribRx_receipt (s : State) (h : NHdr) (items) : IsReceipt (.contribRx h items) s h true :=
  items_receipt _ s h _ _ _ rfl
theorem hitchRx_receipt (s : State) (h : NHdr) (items) : IsReceipt (.hitchRx h items) s h true :=
  items_receipt _ s h _ _ _ rfl
theorem creditRx_receipt (s : State) (h : NHdr) (items) : IsReceipt (.creditRx h items) s h true :=
  items_receipt _ s h _ _ _ rfl
theorem req_receipt (s : State) (h : NHdr) (m) : IsReceipt (.req h m) s h true := ⟨_, _, _, _, .inl rfl⟩
theorem closeRx_receipt (s : State) (h : NHdr) (r) : IsReceipt (.closeRx h r) s h true := ⟨_, _, _, _, .inl rfl⟩
theorem ackRx_receipt (s : State) (h : NHdr) : IsReceipt (.ackRx h ) s h false := ⟨_, _, _, _, .inl rfl⟩
theorem capsRx_receipt (s : State) (h : NHdr) (b) : IsReceipt (.capsRx h b) s h true := ⟨_, _, _, _, .inl rfl⟩
theorem mread_receipt (s : State) (h : NHdr) (a b t) : IsReceipt (.mread h a b t) s h true := ⟨_, _, _, _, .inl rfl⟩
theorem mwrite_receipt (s : State) (h : NHdr) (a t b) : IsReceipt (.mwrite h a t b) s h true := ⟨_, _, _, _, .inl rfl⟩
theorem cancel_receipt (s : State) (h : NHdr) (t) : IsReceipt (.cancel h t) s h true := ⟨_, _, _, _, .inl rfl⟩
theorem loadData_receipt (s : State) (h : NHdr) (p o b) : IsReceipt (.loadData h p o b) s h true := ⟨_, _, _, _, .inr rfl⟩
theorem loadEnd_receipt (s : State) (h : NHdr) (p) : IsReceipt (.loadEnd h p) s h true := ⟨_, _, _, _, .inr rfl⟩
theorem ptpTx_receipt (s : State) (h : NHdr) (p t f) : IsReceipt (.ptpTx h p t f) s h true := ⟨_, _, _, _, .inl rfl⟩
theorem sec_receipt (i : Instr) (s : State) (h : NHdr) (tag : Nat) (op : SecOp) (ue : Bool)
    (e : exec i s = run (fun d => d.secCall h tag op ue) s) : IsReceipt i s h true := by
  unfold run Dev.secCall at e
  exact ⟨_, _, _, _, .inl e⟩
theorem challenge_receipt (s : State) (h : NHdr) (t u) : IsReceipt (.challenge h t u) s h true :=
  sec_receipt _ s h t .challenge u rfl
theorem bindReceipt (s : State) (h : NHdr) (t r p k o u) : IsReceipt (.bind_ h t r p k o u) s h true :=
  sec_receipt _ s h t (.bind r p k o) u rfl
theorem attest_receipt (s : State) (h : NHdr) (t p n u) : IsReceipt (.attest h t p n u) s h true :=
  sec_receipt _ s h t (.attest p n) u rfl
theorem getCert_receipt (s : State) (h : NHdr) (t r u) : IsReceipt (.getCert h t r u) s h true :=
  sec_receipt _ s h t (.getCert r) u rfl
theorem getDigests_receipt (s : State) (h : NHdr) (t p f u) : IsReceipt (.getDigests h t p f u) s h true :=
  sec_receipt _ s h t (.getDigests p f) u rfl
theorem kemGet_receipt (s : State) (h : NHdr) (t p u) : IsReceipt (.kemGet h t p u) s h true :=
  sec_receipt _ s h t (.kemGet p) u rfl
theorem secretPut_receipt (s : State) (h : NHdr) (t m u) : IsReceipt (.secretPut h t m u) s h true :=
  sec_receipt _ s h t (.secretPut m) u rfl
theorem enroll_receipt (s : State) (h : NHdr) (t k a b p o u) : IsReceipt (.enroll h t k a b p o u) s h true :=
  sec_receipt _ s h t (.enroll k a b p o) u rfl
theorem commitSvn_receipt (s : State) (h : NHdr) (t u) : IsReceipt (.commitSvn h t u) s h true :=
  sec_receipt _ s h t .commitSvn u rfl
theorem flashErase_receipt (s : State) (h : NHdr) (t o c u) : IsReceipt (.flashErase h t o c u) s h true :=
  sec_receipt _ s h t (.flashErase o c) u rfl
theorem flashWrite_receipt (s : State) (h : NHdr) (t o b u) : IsReceipt (.flashWrite h t o b u) s h true :=
  sec_receipt _ s h t (.flashWrite o b) u rfl
theorem regRead_receipt (s : State) (h : NHdr) (t c a e) : IsReceipt (.regRead h t c a e) s h true := ⟨_, _, _, _, .inr rfl⟩
theorem regWrite_receipt (s : State) (h : NHdr) (t a v) : IsReceipt (.regWrite h t a v) s h true := ⟨_, _, _, _, .inr rfl⟩
theorem pull_receipt (s : State) (h : NHdr) (k m) : IsReceipt (.pull h k m) s h true := ⟨_, _, _, _, .inr rfl⟩

theorem message_receipt (i : Instr) (s : State) (h : NHdr) (seqd : Bool) (hm : messageOf i = some (h, seqd)) :
    IsReceipt i s h seqd := by
  cases i
  case qentryRx => cases hm; exact qentryRx_receipt ..
  case contribRx => cases hm; exact contribRx_receipt ..
  case hitchRx => cases hm; exact hitchRx_receipt ..
  case creditRx => cases hm; exact creditRx_receipt ..
  case req => cases hm; exact req_receipt ..
  case closeRx => cases hm; exact closeRx_receipt ..
  case ackRx => cases hm; exact ackRx_receipt ..
  case capsRx => cases hm; exact capsRx_receipt ..
  case mread => cases hm; exact mread_receipt ..
  case mwrite => cases hm; exact mwrite_receipt ..
  case cancel => cases hm; exact cancel_receipt ..
  case loadData => cases hm; exact loadData_receipt ..
  case loadEnd => cases hm; exact loadEnd_receipt ..
  case ptpTx => cases hm; exact ptpTx_receipt ..
  case challenge => cases hm; exact challenge_receipt ..
  case bind_ => cases hm; exact bindReceipt ..
  case attest => cases hm; exact attest_receipt ..
  case getCert => cases hm; exact getCert_receipt ..
  case getDigests => cases hm; exact getDigests_receipt ..
  case kemGet => cases hm; exact kemGet_receipt ..
  case secretPut => cases hm; exact secretPut_receipt ..
  case enroll => cases hm; exact enroll_receipt ..
  case commitSvn => cases hm; exact commitSvn_receipt ..
  case flashErase => cases hm; exact flashErase_receipt ..
  case flashWrite => cases hm; exact flashWrite_receipt ..
  case regRead => cases hm; exact regRead_receipt ..
  case regWrite => cases hm; exact regWrite_receipt ..
  case pull => cases hm; exact pull_receipt ..
  all_goals cases hm

end Sys2Proof.Machine
end

