-- ==== Sys2Proof/WellFormed.lean ====
section
/-! DEFINITION. Well-formed commands: every operand fits the field of the register, message or pin that carries it.
The meanings are total and do not assume it. -/

namespace Sys2Proof

/-- `v` fits `w` bits. -/
def fits (w v : Nat) : Bool := decide (v < 2 ^ w)

/-- A register access: an address of 48 bits (R19) and a width of 1, 2, 4 or 8 bytes (R12). -/
def wfReg (addr : Nat) (width : Nat) : Bool := fits 48 addr && [1, 2, 4, 8].contains width

/-- The fields of a Nopra header that are numbers (R410). -/
def NHdr.wf (h : NHdr) : Bool :=
  fits 16 h.sctx && fits 8 h.version && fits 32 h.incarn && fits 64 h.txc && fits 32 h.seq && fits 32 h.ack && fits 16 h.len &&
  fits 128 h.src && fits 16 h.dport && (match h.otherOp with
    | some op => fits 16 op && !([1, 2, 0x10, 0x11, 0x12, 0x20, 0x21, 0x30, 0x31, 0x40, 0x41].contains op)
    | none => true)

/-- A REQ (R423): at most 2,040 inline tokens, fields of their widths. -/
def ReqMsg.wf (m : ReqMsg) : Bool :=
  fits 8 m.cls && fits 32 m.lin && fits 32 m.lout && decide (m.tokens.length ≤ 2040) && fits 64 m.addr

/-- A list of items within a type's COUNT (R423). -/
def wfCount (n lim : Nat) : Bool := decide (1 ≤ n) && decide (n ≤ lim)

/-- A queue item (R424). -/
def QItem.wf (i : QItem) : Bool :=
  fits 16 i.epoch && fits 16 i.user && fits 8 i.stile && fits 8 i.sroute && wfCount i.len 64 && fits 3 i.sstrand &&
  decide (i.data.length ≤ 64)
/-- A splice item (R424): 64 values of 32 bits. -/
def SItem.wf (i : SItem) : Bool :=
  fits 16 i.seq && fits 16 i.weight && fits 8 i.stile && fits 8 i.sroute && decide (i.values.length = 64) &&
  i.values.all (fits 32)
/-- A hitch item (R424). -/
def HItem.wf (i : HItem) : Bool := fits 16 i.count
/-- A credit item (R424). -/
def CItem.wf (i : CItem) : Bool := fits 4 i.kind && fits 8 i.count && fits 16 i.epochA && fits 16 i.epochB

/-- The operands of a command fit what carries them. -/
def Instr.wf : Instr → Bool
  | .registerWrite _ a w _ => wfReg a w
  | .readClear _ a => wfReg a.addr a.width
  | .ppsEdge o => decide (-525000000 ≤ o) && decide (o < 525000000)
  | .ptpEventRx _ e => decide (e.frac < 2 ^ 16)
  | .req h m => h.wf && m.wf
  | .spareCmdLine _ _ l => decide (l < 98304)
  | .rowCopy _ r => fits 15 r
  | .spareCmdRow _ _ r => fits 15 r
  | .trainStep _ _ _ _ r => fits 32 r
  | .lldpdu _ c p t => wfCount c.length 255 && wfCount p.length 255 && fits 16 t
  | .openRx h m => h.wf && fits 32 m.incarn && fits 16 m.versions && (match m.ek with | some k => decide (k.length = 1568) | none => true)
  | .openAck h i _ => h.wf && fits 32 i
  | .closeRx h _ => h.wf
  | .ackRx h => h.wf
  | .capsRx h _ => h.wf
  | .qentryRx h l => h.wf && wfCount l.length 64 && l.all QItem.wf
  | .contribRx h l => h.wf && wfCount l.length 30 && l.all SItem.wf
  | .hitchRx h l => h.wf && wfCount l.length 1000 && l.all HItem.wf
  | .creditRx h l => h.wf && wfCount l.length 1000 && l.all CItem.wf
  | .mread h a b t => h.wf && fits 64 a && wfCount b 8176 && fits 32 t
  | .mwrite h a t d => h.wf && fits 64 a && fits 32 t && wfCount d.length 8176
  | .cancel h _ => h.wf
  | .regRead h t c a _ => h.wf && fits 32 t && wfCount c 128 && fits 64 a
  | .regWrite h t a v => h.wf && fits 32 t && fits 64 a && wfCount v.length 1022
  | .loadData h _ o b => h.wf && fits 64 o && decide (b.length ≤ 8176)
  | .loadEnd h _ => h.wf
  | .pull h k m => h.wf && fits 16 k && wfCount m 1000
  | .ptpTx h _ t f => h.wf && fits 32 t && decide (f.length ≤ 8184)
  | .challenge h t _ => h.wf && fits 32 t
  | .bind_ h t r _ _ _ _ => h.wf && fits 32 t && fits 8 r
  | .attest h t _ n _ => h.wf && fits 32 t && decide (n.length = 64)
  | .getCert h t r _ => h.wf && fits 32 t && fits 8 r
  | .getDigests h t _ f _ => h.wf && fits 32 t && fits 32 f
  | .kemGet h t _ _ => h.wf && fits 32 t
  | .secretPut h t _ _ => h.wf && fits 32 t
  | .enroll h t _ _ _ _ _ _ => h.wf && fits 32 t
  | .commitSvn h t _ => h.wf && fits 32 t
  | .flashErase h t o c _ => h.wf && fits 32 t && fits 32 o && fits 32 c
  | .flashWrite h t o d _ => h.wf && fits 32 t && fits 32 o && decide (d.length ≤ 8176)
  | .meterReset c _ _ => decide (c.length = 32)
  | .meterWatchdog c _ _ => decide (c.length = 32)
  | .meterSample r => decide (r.length = 10)
  | .i3cPrivateRead n => fits 16 n
  | _ => true

end Sys2Proof
end

