-- ==== Sys2Proof/Tests/Slice0.lean ====
section
/-! SUPPORT. The package's own tests: an ill-formed command for each check of WellFormed, a few single steps whose results are
worked out from the spec by hand, and, for the statements of Obligations.lean that have hypotheses, concrete states and operands
that meet them. -/

namespace Sys2Proof.Tests

open Sys2Proof Sys2Proof.Machine

set_option Elab.async false

/-! ## Well-formed commands -/

def hdr : NHdr :=
  { port := 0, dctx := 5, sctx := 9, version := 1, seqv := true, ackv := false, nak := false, incarn := 0, txc := 0, seq := 1, ack := 0,
    authOk := true, len := 8, src := 0, dport := 49531, sum := .good, reserved := false, otherOp := none }
def reqMsg : ReqMsg := ⟨7, 1, 2, false, 1, 4, none, [3], 0⟩
def qItem : QItem := ⟨0, 0, 0, 0, 0, 0, 0, 0, false, 8, 0, []⟩
def sItem : SItem := ⟨0, 0, 0, 1, 0, 0, 0, List.replicate 64 0⟩
def hItem : HItem := ⟨0, 0, 1⟩
def cItem : CItem := ⟨0, 0, 1, 0, 1, 0, 0⟩

theorem test_wf_accepts : ([.registerWrite .owner 0xFF0000000000 8 0, .req hdr reqMsg, .qentryRx hdr [qItem], .contribRx hdr [sItem],
    .hitchRx hdr [hItem], .creditRx hdr [cItem], .mread hdr 0 64 1, .regRead hdr 1 1 0 .ok, .pull hdr 1 1] : List Instr).all
      Instr.wf = true := by decide
theorem test_wf_register_access : ([.registerWrite .owner (2 ^ 48) 8 0, .registerWrite .owner 0 3 0, .readClear .owner ⟨2 ^ 48, 8⟩, .readClear .owner ⟨0, 3⟩] :
    List Instr).all (fun i => !i.wf) = true := by decide
theorem test_wf_time : ([.ppsEdge (-525000001), .ppsEdge 525000000, .ptpEventRx 0 ⟨true, false, false, 0, 2 ^ 16, []⟩] :
    List Instr).all (fun i => !i.wf) = true := by decide
theorem test_wf_header : ([.ackRx { hdr with sctx := 2 ^ 16 }, .closeRx { hdr with version := 256 } 0, .capsRx { hdr with incarn := 2 ^ 32 } [],
    .cancel { hdr with txc := 2 ^ 64 } 0, .ackRx { hdr with seq := 2 ^ 32 }, .ackRx { hdr with ack := 2 ^ 32 }] :
    List Instr).all (fun i => !i.wf) = true := by decide
theorem test_wf_request : ([.req { hdr with sctx := 2 ^ 16 } reqMsg, .req hdr { reqMsg with cls := 256 }, .req hdr { reqMsg with lin := 2 ^ 32 },
    .req hdr { reqMsg with lout := 2 ^ 32 }, .req hdr { reqMsg with addr := 2 ^ 64 }] :
    List Instr).all (fun i => !i.wf) = true := by decide
theorem test_wf_rows : ([.spareCmdLine .owner 0 98304, .rowCopy 0 (2 ^ 15), .spareCmdRow .owner 0 (2 ^ 15), .trainStep .owner 0 0 true (2 ^ 32)] :
    List Instr).all (fun i => !i.wf) = true := by decide
theorem test_wf_lldp : ([.lldpdu 0 [] [1] 0, .lldpdu 0 [1] [] 0, .lldpdu 0 [1] [1] (2 ^ 16)] :
    List Instr).all (fun i => !i.wf) = true := by decide
theorem test_wf_open : ([.openRx hdr ⟨2 ^ 32, 1, none⟩, .openRx hdr ⟨0, 2 ^ 16, none⟩, .openRx hdr ⟨0, 1, some [0]⟩,
    .openRx { hdr with sctx := 2 ^ 16 } ⟨0, 1, none⟩, .openAck hdr (2 ^ 32) 0, .openAck { hdr with sctx := 2 ^ 16 } 0 0] :
    List Instr).all (fun i => !i.wf) = true := by decide
theorem test_wf_queue_items : ([.qentryRx hdr [], .qentryRx hdr (List.replicate 65 qItem), .qentryRx { hdr with sctx := 2 ^ 16 } [qItem],
    .qentryRx hdr [{ qItem with epoch := 2 ^ 16 }], .qentryRx hdr [{ qItem with user := 2 ^ 16 }], .qentryRx hdr [{ qItem with stile := 256 }],
    .qentryRx hdr [{ qItem with sroute := 256 }], .qentryRx hdr [{ qItem with len := 0 }], .qentryRx hdr [{ qItem with len := 65 }],
    .qentryRx hdr [{ qItem with sstrand := 8 }], .qentryRx hdr [{ qItem with data := List.replicate 65 0 }]] :
    List Instr).all (fun i => !i.wf) = true := by decide
theorem test_wf_splice_items : ([.contribRx hdr [], .contribRx hdr (List.replicate 31 sItem), .contribRx { hdr with sctx := 2 ^ 16 } [sItem],
    .contribRx hdr [{ sItem with seq := 2 ^ 16 }], .contribRx hdr [{ sItem with weight := 2 ^ 16 }], .contribRx hdr [{ sItem with stile := 256 }],
    .contribRx hdr [{ sItem with sroute := 256 }], .contribRx hdr [{ sItem with values := [] }],
    .contribRx hdr [{ sItem with values := List.replicate 64 (2 ^ 32) }]] : List Instr).all (fun i => !i.wf) = true := by decide
theorem test_wf_hitch_credit_items : ([.hitchRx hdr [], .hitchRx hdr [{ hItem with count := 2 ^ 16 }], .hitchRx { hdr with sctx := 2 ^ 16 } [hItem],
    .creditRx hdr [], .creditRx { hdr with sctx := 2 ^ 16 } [cItem], .creditRx hdr [{ cItem with kind := 16 }],
    .creditRx hdr [{ cItem with count := 256 }], .creditRx hdr [{ cItem with epochA := 2 ^ 16 }], .creditRx hdr [{ cItem with epochB := 2 ^ 16 }]] :
    List Instr).all (fun i => !i.wf) = true := by decide
theorem test_wf_memory_messages : ([.mread hdr (2 ^ 64) 1 0, .mread hdr 0 0 0, .mread hdr 0 8177 0, .mread hdr 0 1 (2 ^ 32),
    .mread { hdr with sctx := 2 ^ 16 } 0 1 0, .mwrite hdr (2 ^ 64) 0 [0], .mwrite hdr 0 (2 ^ 32) [0], .mwrite hdr 0 0 [],
    .mwrite { hdr with sctx := 2 ^ 16 } 0 0 [0]] : List Instr).all (fun i => !i.wf) = true := by decide
theorem test_wf_register_messages : ([.regRead hdr (2 ^ 32) 1 0 .ok, .regRead hdr 0 0 0 .ok, .regRead hdr 0 129 0 .ok, .regRead hdr 0 1 (2 ^ 64) .ok,
    .regRead { hdr with sctx := 2 ^ 16 } 0 1 0 .ok, .regWrite hdr (2 ^ 32) 0 [0], .regWrite hdr 0 (2 ^ 64) [0], .regWrite hdr 0 0 [],
    .regWrite { hdr with sctx := 2 ^ 16 } 0 0 [0]] : List Instr).all (fun i => !i.wf) = true := by decide
theorem test_wf_load_pull_ptp : ([.loadData { hdr with sctx := 2 ^ 16 } 0 0 [], .loadData hdr 0 (2 ^ 64) [], .loadEnd { hdr with sctx := 2 ^ 16 } 0,
    .pull { hdr with sctx := 2 ^ 16 } 1 1, .pull hdr (2 ^ 16) 1, .pull hdr 1 0, .pull hdr 1 1001, .ptpTx { hdr with sctx := 2 ^ 16 } 0 0 [],
    .ptpTx hdr 0 (2 ^ 32) []] : List Instr).all (fun i => !i.wf) = true := by decide
theorem test_wf_security_calls : ([.challenge hdr (2 ^ 32) false, .bind_ hdr (2 ^ 32) 1 0 [] true false, .bind_ hdr 0 256 0 [] true false,
    .attest hdr (2 ^ 32) 0 (List.replicate 64 0) false, .attest hdr 0 0 [] false, .getCert hdr (2 ^ 32) 0 false, .getCert hdr 0 256 false,
    .getDigests hdr (2 ^ 32) 0 0 false, .getDigests hdr 0 0 (2 ^ 32) false, .kemGet hdr (2 ^ 32) 0 false,
    .secretPut hdr (2 ^ 32) ⟨0, 0, 0, 0, none⟩ false, .enroll hdr (2 ^ 32) 1 0 [] [] true false, .commitSvn hdr (2 ^ 32) false,
    .flashErase hdr (2 ^ 32) 0 0 false, .flashErase hdr 0 (2 ^ 32) 0 false, .flashErase hdr 0 0 (2 ^ 32) false,
    .flashWrite hdr (2 ^ 32) 0 [] false, .flashWrite hdr 0 (2 ^ 32) [] false] : List Instr).all (fun i => !i.wf) = true := by decide
theorem test_wf_security_headers :
    let h : NHdr := { hdr with sctx := 2 ^ 16 }
    ([.challenge h 0 false, .bind_ h 0 1 0 [] true false, .attest h 0 0 (List.replicate 64 0) false, .getCert h 0 0 false,
      .getDigests h 0 0 0 false, .kemGet h 0 0 false, .secretPut h 0 ⟨0, 0, 0, 0, none⟩ false, .enroll h 0 1 0 [] [] true false,
      .commitSvn h 0 false, .flashErase h 0 0 0 false, .flashWrite h 0 0 [] false] : List Instr).all (fun i => !i.wf) = true := by decide
theorem test_wf_meter_i3c : ([.meterReset [] true true, .meterWatchdog [] true true, .meterSample [], .i3cPrivateRead (2 ^ 16)] :
    List Instr).all (fun i => !i.wf) = true := by decide
theorem test_wf_long_payloads (d : List Byte) :
    (d.length = 8177 → (Instr.mwrite hdr 0 0 d).wf = false ∧ (Instr.loadData hdr 0 0 d).wf = false ∧ (Instr.flashWrite hdr 0 0 d false).wf = false) ∧
    (d.length = 8185 → (Instr.ptpTx hdr 0 0 d).wf = false) ∧ (d.length = 256 → (Instr.lldpdu 0 d [1] 0).wf = false ∧ (Instr.lldpdu 0 [1] d 0).wf = false) := by
  refine ⟨fun h => ?_, fun h => ?_, fun h => ?_⟩ <;> simp [Instr.wf, wfCount, h]
theorem test_wf_long_lists (l : List HItem) (m : List CItem) (v : List Word) (t : List (BitVec 32)) :
    (l.length = 1001 → (Instr.hitchRx hdr l).wf = false) ∧ (m.length = 1001 → (Instr.creditRx hdr m).wf = false) ∧
    (v.length = 1023 → (Instr.regWrite hdr 0 0 v).wf = false) ∧ (t.length = 2041 → (Instr.req hdr { reqMsg with tokens := t }).wf = false) := by
  refine ⟨fun h => ?_, fun h => ?_, fun h => ?_, fun h => ?_⟩ <;> simp [Instr.wf, ReqMsg.wf, wfCount, h]

/-! ## Decoding -/

theorem test_decode_no_row_has_bits : decodeTableWord 64 0x0400000000000000 = none ∧ decodeTableWord 0 0 = none := by decide
theorem test_fetch_word_keeps_queue : (State.reset.withFetchWord 64 5).pending = [] := by decide

/-! ## Words of the Chesha instruction set (R87, R89 to R104), each written out from its fields -/

/-- The word of OP, PRED, PN, RD, RA, RB and FN with IMM. -/
def word (op pred pn rd ra rb fn imm : Nat) : Word :=
  BitVec.ofNat 64 (op * 2 ^ 58 + pred * 2 ^ 55 + pn * 2 ^ 54 + rd * 2 ^ 49 + ra * 2 ^ 44 + rb * 2 ^ 39 + fn * 2 ^ 32 + imm)
theorem test_word_fields : word 1 0 1 3 1 2 0 0 = 0x0446110000000000 := by decide
theorem test_word_add : decodeChesha 5 6 (word 1 2 1 3 1 2 0 0) .ok = .add ⟨5, 6, 2, true⟩ 3 1 (.reg 2) := by decide

/-! ## Lands (R554, R555, R562) -/

theorem test_land_regions : [landRegion 1 24, landRegion 1 25, landRegion 13 25, landRegion 108 96, landRegion 109 96, landRegion 120 97, landRegion 0 5] =
    [some .northIo, some .westHbm, some .core, some .core, some .eastHbm, some .southIo, none] := by decide

/-! ## States for the witnesses -/

/-- After reset, with tile 0 as given and register fields set. -/
def withTile (t : Tile) (regs : List (RF × Nat)) : State :=
  { State.reset with dev := regs.foldl (fun d e => d.set e.1 e.2) { Dev.init with tiles := [(0, t)] } }
/-- Tile 0 in partition 1, whose frond 0 of class PX256 is active, with strand 0 as given. -/
def core (y : Strand) : Tile :=
  { Tile.init with part := 1, active := some 0, strands := [(0, y)], fronds := [(0, { Frond.init with loaded := true, cls := 1, ran := true })] }
/-- A strand that is READY, with g1, g2 and g3. -/
def ready (g1 g2 g3 : Word) : Strand := { Strand.init with st := .ready, g := [0, g1, g2, g3] ++ List.replicate 28 0 }
/-- Strand 0 of tile 0, no guard. -/
def x0 : Iss := ⟨0, 0, 0, false⟩
def sAlu : State := withTile (core (ready 5 7 9)) []
/-- After reset, with the device changed. -/
def dev (f : Dev → Dev) : State := { State.reset with dev := f Dev.init }
/-- After reset with register fields set. -/
def regs (l : List (RF × Nat)) : State := dev fun d => l.foldl (fun d e => d.set e.1 e.2) d

/-! ## Single steps, worked out from the rules by hand -/

/-- g1 of strand 0 of tile 0 after a command. -/
def g1After (i : Instr) (s : State) : Option (Word × Nat) :=
  match exec i s with
  | .next t => some (((t.dev.tile 0).strand 0 0).reg 1, ((t.dev.tile 0).strand 0 0).pc.toNat)
  | _ => none

theorem test_add_wraps : g1After (.add x0 1 1 (.imm (-6))) sAlu = some (-1, 1) := by decide
theorem test_sub_reg : g1After (.sub x0 1 2 (.reg 3)) sAlu = some (-2, 1) := by decide
theorem test_sar_sign : g1After (.sar x0 1 1 (.imm 65)) (withTile (core (ready (-4) 0 0)) []) = some (-2, 1) := by decide
theorem test_mulh_signed : g1After (.mulh x0 1 1 (.reg 2)) (withTile (core (ready (-1) 2 0)) []) = some (-1, 1) := by decide
theorem test_mulhu : g1After (.mulhu x0 1 1 (.reg 2)) (withTile (core (ready (-1) 2 0)) []) = some (1, 1) := by decide
theorem test_minu : g1After (.minu x0 1 1 (.imm (-1))) sAlu = some (5, 1) := by decide
theorem test_min : g1After (.min_ x0 1 1 (.imm (-1))) sAlu = some (-1, 1) := by decide
theorem test_clz_zero : g1After (.clz x0 1 0 (.imm 0)) sAlu = some (64, 1) := by decide
theorem test_popc : g1After (.popc x0 1 3 (.imm 0)) sAlu = some (2, 1) := by decide
theorem test_g0_discards : g1After (.add x0 0 1 (.imm 1)) sAlu = some (5, 1) := by decide
theorem test_guard_false : g1After (.add { x0 with pn := true } 1 1 (.imm 1)) sAlu = some (5, 1) := by decide
theorem test_li_sign : g1After (.li x0 1 0x80000000) sAlu = some (0xFFFFFFFF80000000, 1) := by decide
theorem test_liu_zero : g1After (.liu x0 1 0x80000000) sAlu = some (0x80000000, 1) := by decide
theorem test_lih : g1After (.lih x0 1 1 0xABCD) sAlu = some (0x0000ABCD00000005, 1) := by decide
theorem test_br : g1After (.br x0 3) sAlu = some (5, 3) := by decide
theorem test_jl_link : g1After (.jl x0 1 8) sAlu = some (1, 8) := by decide
theorem test_jlr_same_reg : g1After (.jlr x0 1 1 2) sAlu = some (1, 7) := by decide
theorem test_pget : g1After (.pget x0 1) sAlu = some (1, 1) := by decide
/-- The example of R7: 1,204:1,049,000,000 and 2 ms give 1,205:1,100,000. -/
theorem test_tm_add_carries : g1After (.tmAdd x0 1 1 2)
    (withTile (core (ready (BitVec.ofNat 64 (1204 * 2 ^ 32 + 1049000000)) 2100000 0)) []) =
      some (BitVec.ofNat 64 (1205 * 2 ^ 32 + 1100000), 1) := by decide
/-! ## Witnesses: the hypotheses of the statements, met by concrete states and operands -/

theorem ready_alu : Ready sAlu x0 0 [1, 2] := by unfold Ready; decide

theorem witness_StepFront : ({ State.reset with pending := [.rstdaa, .enec] } : State).pending = .rstdaa :: [.enec] := by decide
theorem witness_StepIdle : State.reset.pending = [] ∧ State.reset.dev.live = true ∧ State.reset.dev.spare.fenceNext = [] ∧
    State.reset.dev.time.exhausted = false ∧ State.reset.dev.now % 1050000000 + 1 < 1050000000 := by decide
theorem witness_StepIdle_held : (dev fun d => { d with inReset := true }).pending = [] ∧ (dev fun d => { d with inReset := true }).dev.live = false := by
  decide
theorem witness_StepIdle_exhausted : let s := dev fun d => { d with time := { d.time with exhausted := true } }
    s.pending = [] ∧ s.dev.live = true ∧ s.dev.spare.fenceNext = [] ∧ s.dev.time.exhausted = true := by decide
/-- One cycle before the end of device time. -/
theorem witness_StepIdle_end : let s := dev fun d => { d with now := 2 ^ 32 * 1050000000 - 2 }
    s.pending = [] ∧ s.dev.live = true ∧ s.dev.spare.fenceNext = [] ∧ s.dev.time.exhausted = false ∧
    s.dev.now % 1050000000 + 1 < 1050000000 ∧ s.dev.now + 1 = 2 ^ 32 * 1050000000 - 1 ∧
    State.reset.dev.now + 1 ≠ 2 ^ 32 * 1050000000 - 1 := by decide
theorem witness_HeldDevice : (dev fun d => { d with stopped := true }).dev.live = false ∧ ¬ ofMeter .enec ∧ ¬ ofPins .enec :=
  ⟨by decide, fun h => h, fun h => h⟩
theorem witness_MeterInputs : ¬ ofMeter .enec ∧ exec .enec State.reset = .next (dev fun d => { d with i3c := { d.i3c with ibiOn := true } }) ∧
    sameMap State.reset.dev (dev fun d => { d with i3c := { d.i3c with ibiOn := true } }).dev ∧
    ¬ (State.reset.dev.pins.resetN = true ∧ (dev fun d => { d with i3c := { d.i3c with ibiOn := true } }).dev.pins.resetN = false) :=
  ⟨fun h => h, rfl, ⟨fun _ => rfl, fun _ => rfl, rfl⟩, by decide⟩
theorem idle_reset : Dev.init.passCycles 1 = { Dev.init with tick := 1, now := 1 } := by decide +kernel
theorem witness_MeterSoundKept : State.reset.mtr.sound ∧ step State.reset = .next (dev fun d => { d with tick := 1, now := 1 }) :=
  ⟨by simp [Meter.sound, State.reset, Meter.init], by
    show Host.Outcome.next (⟨if State.reset.dev.live then Dev.init.passCycles 1 else State.reset.dev, _, _⟩ : State) = _
    rw [idle_reset]; rfl⟩
theorem witness_MeterPageDenied : State.reset.dev.live = true ∧
    (0xFF0F00000000 ≤ 0xFF0F00000000 ∧ 0xFF0F00000000 < 0xFF1000000000 ∧ 0xFF0F00000000 % 8 = 0) ∧
    (0xFF0F00000000 ≤ 0xFF0FFFFFFFF8 ∧ 0xFF0FFFFFFFF8 < 0xFF1000000000 ∧ 0xFF0FFFFFFFF8 % 8 = 0) := by decide
theorem witness_AluResult : Ready sAlu x0 0 ((1 : GReg).val :: opndReg (.reg 2)) ∧ Ready sAlu x0 0 ((1 : GReg).val :: opndReg (.imm 5)) := by
  unfold Ready; decide
theorem witness_PredicateResult : Ready sAlu x0 0 ((1 : GReg).val :: opndReg (.reg 2)) ∧ Ready sAlu x0 0 [] ∧ Ready sAlu x0 0 [1] := by
  unfold Ready; decide
theorem witness_RegisterResult : Ready sAlu x0 0 [1, 2] ∧ Ready sAlu x0 0 [] ∧ Ready sAlu x0 0 [1] ∧ sAlu.dev.px64 0 0 = false ∧
    sAlu.dev.csr 0 0 0 (strandOf sAlu x0 0) 3 = some 1 := by unfold Ready; decide
theorem witness_BranchResult : let y := strandOf sAlu x0 0
    Ready sAlu x0 0 [1] ∧ Ready sAlu x0 0 [] ∧ 0 ≤ (y.pc.toNat : Int) + (0 : Imm).toInt ∧ (y.pc.toNat : Int) + (8191 : Imm).toInt ≤ 8191 ∧
    (y.reg 1 + (8186 : Imm).signExtend 64).toNat ≤ 8191 := by unfold Ready; decide
/-- The strand with a guard that does not hold, the last place of the store where it does not trap, and a strand that waits. -/
theorem witness_IssueWithheld : issueOf (.add { x0 with pn := true } 1 1 (.imm 1)) = some ({ x0 with pn := true }, 1) ∧
    sAlu.dev.live = true ∧ (sAlu.dev.tile 0).active = some 0 ∧ sAlu.dev.canIssue 0 0 0 [] = true ∧
    guard (strandOf sAlu { x0 with pn := true } 0) { x0 with pn := true } = false ∧ (strandOf sAlu x0 0).pc.toNat + 1 ≤ 8191 ∧ (strandOf sAlu x0 0).atEnd = false := by decide
theorem witness_IssueWithheld_boundary : let s := withTile (core { ready 0 0 0 with pc := 8190 }) []
    s.dev.canIssue 0 0 0 [] = true ∧ (strandOf s x0 0).pc.toNat + 1 = 8191 ∧ (strandOf s x0 0).atEnd = false := by decide
theorem witness_IssueWithheld_waits : let s := withTile (core { ready 0 0 0 with st := .wait }) []
    ∀ f, (s.dev.tile 0).active = some f → ∀ l, s.dev.canIssue 0 f 0 l = false := by
  intro s f hf l
  have : f = 0 := by injection hf with h; exact h.symm
  subst this
  rfl

/-- g1 is offset 0x100 of the scratchpad. -/
def sMem : State := withTile (core (ready 0x100 0x200 9)) []
theorem witness_LoadStoreIssues : Ready sMem x0 0 [1] ∧ Ready sMem x0 0 [1, 2] ∧
    (∀ w ∈ [1, 2, 4, 8], sMem.dev.loadTrap 0 ((strandOf sMem x0 0).reg 1 + (0 : Imm).signExtend 64).toNat w = none ∧
      sMem.dev.storeTrap 0 0 ((strandOf sMem x0 0).reg 1 + (0 : Imm).signExtend 64).toNat w = none) ∧
    (strandOf sMem x0 0).stores.length < 4 := by unfold Ready; decide
theorem witness_LoadStoreIssues_boundary : let s := withTile (core { ready 0x17FFFF8 0 0 with stores := List.replicate 3 ⟨0, 8, 0, 0⟩ }) []
    Ready s x0 0 [1] ∧ s.dev.loadTrap 0 ((strandOf s x0 0).reg 1 + (0 : Imm).signExtend 64).toNat 8 = none ∧
    s.dev.storeTrap 0 0 ((strandOf s x0 0).reg 1 + (0 : Imm).signExtend 64).toNat 8 = none ∧ (strandOf s x0 0).stores.length < 4 := by
  unfold Ready; decide
def ld1 : LoadEntry := ⟨1, 0x100, 8, true, 0, none⟩
def st1 : StoreEntry := ⟨0x17FFFF8, 8, 5, 0⟩
theorem witness_LoadStoreComplete : let s := withTile (core { ready 0 0 0 with loads := [ld1] }) []
    let t0 := s.dev.tile 0
    let y := t0.strand 0 0
    s.dev.live = true ∧ (t0.frondWith 0 fun x => x.loads.any fun l => l.rd == 1) = some 0 ∧ (y.loads.find? fun e => e.rd == 1) = some ld1 ∧
    winRegion ld1.off ≠ .regs ∧ t0.ueIn ld1.off ld1.width = false ∧ (1 : GReg).val ≠ 0 ∧ s.dev.stoppedF 0 0 = false := by decide
theorem witness_LoadStoreComplete_store : let s := withTile (core { ready 0 0 0 with stores := [st1] }) []
    let t0 := s.dev.tile 0
    let y := t0.strand 0 0
    s.dev.live = true ∧ t0.memWf = true ∧ (t0.frondWith 0 fun x => !x.stores.isEmpty) = some 0 ∧ y.stores = [st1] ∧ y.op = .none ∧
    st1.off + st1.width ≤ 0x1800000 ∧ 0 < st1.width ∧ t0.storeOn st1.off = true ∧ t0.lineFull 0 (st1.off / 256) = false ∧
    t0.uePartial st1.off st1.width = false := by decide
/-- A frond with a trap entry, and g1 a misaligned offset. -/
def sTrap : State := withTile { core (ready 0x101 0 0) with fronds := [(0, { Frond.init with loaded := true, cls := 1, trapValid := true, trapEntry := 77 })] }
  [(TILE_CORE_CTRL_FAULT_POLICY 0, 1)]
theorem witness_TrapOrFault : let y := strandOf sTrap x0 0
    Ready sTrap x0 0 [] ∧ y.inTrap = false ∧ ((sTrap.dev.tile 0).frond 0).trapValid = true ∧
    illegalWord 0xFC00000000000000 = true ∧ bits 0xFC00000000000000 57 55 = x0.pred.val ∧ x0.pn = (bit 0xFC00000000000000 54 == 1) ∧
    Ready sTrap x0 0 [1] ∧ (y.reg 1 + (0 : Imm).signExtend 64).toNat % 8 ≠ 0 ∧ sTrap.dev.get (TILE_CORE_CTRL_FAULT_POLICY 0) = 1 := by
  unfold Ready; decide
theorem witness_StrandControl : let s := withTile (core { ready 0 0 0 with inTrap := true, epc := 8190, k := [⟨0, 3⟩, ⟨2, 0⟩, ⟨0, 0⟩, ⟨0, 0⟩] }) []
    let y := strandOf s x0 0
    Ready s x0 0 [] ∧ y.inTrap = true ∧ (1 : Imm).toNat ≤ 1 ∧ y.epc.toNat + (1 : Imm).toNat ≤ 8191 := by unfold Ready; decide
def sTime (op : WaitOp) : State := withTile (core { ready 5 0 0 with st := .wait, wait := .time, op := op, yielding := true, yieldUntil := 0 }) []
theorem witness_TimeWaitsAndEnds : Ready sAlu x0 0 [1] ∧
    (∀ op ∈ [WaitOp.timeAt 1 0, .timeFor 0], FrondRuns (sTime op) 0 0 ∧ ((sTime op).dev.tile 0).active = some 0 ∧
      (((sTime op).dev.tile 0).strand 0 0).st = .wait ∧ (((sTime op).dev.tile 0).strand 0 0).op = op ∧
      0 ≤ (sTime op).dev.now ∧ 0 ≤ (sTime op).dev.tick ∧ ((sTime op).dev.tile 0).frondWith 0 (fun z => z.yielding) = some 0 ∧
      (((sTime op).dev.tile 0).strand 0 0).yieldUntil ≤ (sTime op).dev.tick) := by unfold Ready FrondRuns; decide
/-- Strand 0 with g1 naming strand 1 (in a state), which stands beside it. -/
def sTwo (z : StrandSt) : State :=
  withTile { core (ready 1 0 0) with strands := [(0, ready 1 0 0), (1, { Strand.init with st := z })] } []
theorem witness_StartStopAndHold : ∀ z ∈ [StrandSt.idle, .halt, .ready, .fault, .wait],
    Ready (sTwo z) x0 0 [1] ∧ ((strandOf (sTwo z) x0 0).reg 1).toNat % 8 = 1 ∧ (sTwo z).dev.hidden 0 0 1 = false ∧ 1 ≠ x0.strand.val ∧
    (((sTwo z).dev.tile 0).strand 0 1).st = z ∧ (((sTwo z).dev.tile 0).strand 0 1).op = .none ∧ (8191 : Imm).toNat ≤ 8191 ∧ ¬ (8192 : Imm).toNat ≤ 8191 := by
  unfold Ready; decide
theorem witness_StartStopAndHold_debug : let s := withTile { core (ready 1 0 0) with haltReq := true } []
    s.dev.live = true ∧ strandCode (s.dev.tile 0) 0 = 5 := by decide
/-- The strand itself, one held in DEBUG, one in a send, one in a tally, and one that its class does not see. -/
theorem witness_StartStopAndHold_forms :
    (let s := withTile { core (ready 0 0 0) with haltReq := true, stepping := some 0 } []
     Ready s x0 0 [1] ∧ ((strandOf s x0 0).reg 1).toNat % 8 = x0.strand.val ∧ (strandOf s x0 0).st = .ready ∧ s.dev.hidden 0 0 0 = false) ∧
    (let s := { sTwo .wait with dev := (sTwo .wait).dev.modTile 0 fun t => { t with haltReq := true, stepping := some 0 } }
     Ready s x0 0 [1] ∧ (((s.dev.noted 0 0).tile 0).haltReq && ((s.dev.noted 0 0).tile 0).act == 0 &&
       decide (((s.dev.tile 0).strand 0 1).st = .wait)) = true) ∧
    (∀ op ∈ [WaitOp.send .full 1 [] 64 0 0 none, .tally 1 false 3],
      let s := withTile { core (ready 1 0 0) with strands := [(0, ready 1 0 0), (1, { Strand.init with st := .wait, op := op })] } []
      Ready s x0 0 [1] ∧ ((s.dev.tile 0).strand 0 1).op = op ∧ ((s.dev.tile 0).strand 0 1).st = .wait) ∧
    (let s := withTile { core (ready 4 0 0) with fronds := [(0, { Frond.init with loaded := true, cls := 0, trapValid := true, trapEntry := 77 })] } []
     Ready s x0 0 [1] ∧ s.dev.hidden 0 0 4 = true ∧ s.dev.hidden 0 0 3 = false ∧ (strandOf s x0 0).inTrap = false ∧
     ((s.dev.tile 0).frond 0).trapValid = true) := by unfold Ready; decide
theorem witness_StartStopAndHold_hold : isOwner (.tenant 1) = false ∧ strandCode ((sTwo .ready).dev.tile 0) 1 ≠ 5 ∧
    (∀ b ∈ [false, true], ((withTile { core (ready 1 0 0) with haltReq := b } []).dev.tile 0).haltReq = b) := by decide
/-! ### Macro-instructions -/

/-- A descriptor of one element: base, format, bight, flags (1 a device address, 2 transposed). -/
def one (base fmt flags : Nat) : List Byte :=
  leBytes 6 base ++ zeros 2 ++ leBytes 4 1 ++ leBytes 4 1 ++ leBytes 4 1 ++ leBytes 4 1 ++ zeros 18 ++ leBytes 2 1 ++ leBytes 2 1 ++
    leBytes 1 fmt ++ zeros 2 ++ leBytes 1 flags ++ zeros 14
/-- The core with descriptor slots, the words after the instruction, and bight 1 of 4 lines at line 0x1000; route 0 leads to a splice,
and multicast tree 0 of the partition is tree 3. -/
def sMac (slots : List (Nat × List Byte)) (chain : List Word) : State :=
  let t := { core (ready 0 0 0) with
    desc := slots.foldl (fun m e => cwrite m (descOff e.1) e.2) []
    fstore := cwrite [] 0x1900008 (chain.flatMap fun w => leBytes 8 w.toNat)
    bights := [(1, { Bight.init with valid := true, base := 0x1000, lines := 4 })]
    routes := [(0, { Route.init with type := 2 })] }
  { State.reset with dev := { Dev.init with
      tiles := [(0, t)], regions := [(1, { Region.init with trees := [(0, 3)] })], trees := [(3, ⟨1, 0, 0, [7]⟩)] } }
/-- The conditions of MacroIssues, but for Ready and the room in the queue, as a truth value. -/
def macroOk (s : State) (k : MacroKind) (m : Mac) (chain : List Word) : Bool :=
  let y := strandOf s x0 0
  let d := (s.dev.noted 0 0).hold 0 0 0 2
  let t := d.tile 0
  let slots := slotList m (slotsUsed k m.spec.toNat (chain.map cword))
  !specBad k m.spec.toNat (t.bightFor 0) && decide (y.pc.toNat + (1 + chainLen k m) ≤ 8191) &&
  !t.ueIn (0x1900000 + (y.pc.toNat + 1) * 8) (chainLen k m * 8) && decide (t.chainWords 0 y.pc.toNat (chainLen k m) = chain) &&
  (chain.find? cwordBad).isNone && !(slots.any fun u => !u.2 && u.1 != 0) && (!d.px64 0 0 || (!newOnly k m.spec.toNat && (namedSlots m k chain).all fun u => decide (u < 32))) &&
  (decide (k ≠ .vxClose) || decide (m.spec.toNat % 2 ^ 19 * 64 + 64 ≤ 0x1800000)) && y.stores.isEmpty &&
  (t.badSlots (namedSlots m k chain)).isNone &&
  (d.checkMacro 0 0 (t.copyMacro k 0 0 m chain)).isNone

theorem macroOk_fits {s : State} {k : MacroKind} {m : Mac} {chain : List Word} (h : macroOk s k m chain = true) :
    MacroFits ((s.dev.noted 0 0).hold 0 0 0 2) 0 0 (strandOf s x0 0) k m chain ∧
      ((s.dev.noted 0 0).hold 0 0 0 2).checkMacro 0 0 ((((s.dev.noted 0 0).hold 0 0 0 2).tile 0).copyMacro k 0 0 m chain) = none := by
  simp only [macroOk, Bool.and_eq_true, Bool.not_eq_true', decide_eq_true_eq, Option.isNone_iff_eq_none, List.isEmpty_iff,
    Bool.or_eq_true] at h
  obtain ⟨⟨⟨⟨⟨⟨⟨⟨⟨⟨h1, h2⟩, h3⟩, h4⟩, h5⟩, h6⟩, h7⟩, h8⟩, h9⟩, h10⟩, h11⟩ := h
  exact ⟨⟨h1, h2, by simpa using h3, h4, h5, h6, fun e => by
    rcases h7 with h7 | ⟨a, b⟩
    · exact absurd e (by simp [h7])
    · exact ⟨a, by simpa using b⟩, fun e => h8.resolve_left (not_not_intro e), h9, h10⟩, h11⟩

def mac (da db dc dd : DSlot) (spec : BitVec 28) : Mac := ⟨da, db, dc, dd, 0, spec, .ok⟩
theorem ready_macro : Ready (sMac [] []) x0 0 [] ∧ (((sMac [] []).dev.noted 0 0).tile 0 |>.engine .mx).full .mx = false ∧
    (let s := withTile { core (ready 0 0 0) with mx := { Engine.init with queue := List.replicate 4 Macro.init } } []
     Ready s x0 0 [] ∧ ((s.dev.noted 0 0).tile 0 |>.engine .mx).full .mx = true) := by unfold Ready; decide
theorem witness_MacroIssues_mm :
    macroOk (sMac [(1, one 0 1 0), (2, one 0x100 1 0), (3, one 0x200 0 0)] []) .mmMm (mac 1 2 3 0 0x8000000) [] = true ∧
    macroOk (sMac [(1, one 0 1 2), (2, one 0x100 1 0), (3, one 0x200 0 0)] []) .mmWg (mac 1 2 3 0 0x8000000) [] = true := by decide +kernel
theorem witness_MacroIssues_acc :
    macroOk (sMac [(1, one 0x1800000 0 0)] []) .mmZero (mac 1 0 0 0 0) [] = true ∧
    macroOk (sMac [(1, one 0x1800000 0 0), (3, one 0x200 1 0)] []) .mmOut (mac 1 0 3 0 0x1000000) [] = true ∧
    macroOk (sMac [(1, one 0x1800000 0 0)] []) .mmSpl (mac 1 0 0 0 0x2000000) [] = true := by decide +kernel
theorem witness_MacroIssues_fused :
    macroOk (sMac [(1, one 0 1 0), (2, one 0x100 1 0), (3, one 0x200 1 0), (4, one 0x1800000 0 0), (5, leBytes 1 1 ++ zeros 63)] [])
      .mmF2 (mac 1 2 3 4 0x101045) [] = true ∧
    macroOk (sMac [(1, one 0 1 0), (2, one 0x100 1 2), (3, one 0x200 1 0), (4, one 0x1800000 0 0),
        (5, leBytes 1 2 ++ zeros 2 ++ leBytes 1 1 ++ zeros 46 ++ leBytes 6 0x300 ++ zeros 8)] [])
      .mmAtt (mac 1 2 3 4 0x101045) [] = true := by decide +kernel
theorem witness_MacroIssues_vx :
    macroOk (sMac [(1, one 0 0 0), (3, one 0x200 0 0)] [BitVec.ofNat 64 (0x29 * 2 ^ 58 + 4 * 2 ^ 50)]) .vxRun (mac 1 0 3 0 0)
      [BitVec.ofNat 64 (0x29 * 2 ^ 58 + 4 * 2 ^ 50)] = true ∧
    macroOk (sMac [] []) .vxClose (mac 0 0 0 0 0x5FFFF) [] = true ∧
    macroOk (sMac [(1, one 0 0 0), (2, one 0x100 1 0), (3, one 0x200 0 0), (5, leBytes 1 3 ++ zeros 63)] [])
      .vxOpt (mac 1 2 3 0 0x1000005) [] = true := by decide +kernel
theorem witness_MacroIssues_dm :
    macroOk (sMac [(1, one 0 0 1), (3, one 0x200 0 0)] []) .dmGet (mac 1 0 3 0 0) [] = true ∧
    macroOk (sMac [(1, one 0x200 0 0), (3, one 0 0 1)] []) .dmPut (mac 1 0 3 0 0x1000000) [] = true ∧
    macroOk (sMac [(1, one 0x200 0 0), (3, one 0x400 0 0)] []) .dmMput (mac 1 0 3 0 0x2000000) [] = true ∧
    macroOk (sMac [(1, one 0 0 1), (3, one 0x400 0 1)] []) .dmMcopy (mac 1 0 3 0 0x3000000) [] = true := by decide +kernel
theorem witness_MacroIssues_sp :
    macroOk (sMac [(3, one 0x200 0 0)] []) .spFill (mac 0 0 3 0 0) [] = true ∧
    macroOk (sMac [(1, one 0 0 0), (3, one 0x200 0 0)] []) .spCopy (mac 1 0 3 0 0x1000000) [] = true ∧
    macroOk (sMac [] []) .spBfill (mac 0 0 0 0 0x2010004) [] = true ∧
    macroOk (sMac [] []) .spBdrain (mac 0 0 0 0 0x3010001) [] = true ∧
    macroOk (sMac [] []) .spBreset (mac 0 0 0 0 0x4010000) [] = true := by decide +kernel
def fillEcc : Mac := { mac 0 0 3 0 0 with ecc := .uncorrectable }
/-- The error of the one slot that a fill copies; a frond of class PX64 that issues an instruction it sees. -/
theorem witness_MacroIssues_ecc (free : Nat) : ∀ i, i = Config.eccLine free % (min 1 (chainLen .spFill fillEcc) + (namedSlots fillEcc .spFill []).length) →
    (if min 1 (chainLen .spFill fillEcc) ≤ i then (namedSlots fillEcc .spFill [])[i - min 1 (chainLen .spFill fillEcc)]? else none).isSome = true := by
  intro i h
  have : i = 0 := h.trans (Nat.mod_one _)
  subst this
  decide
theorem witness_MacroIssues_px64 : let s := withTile { core (ready 0 0 0) with
      desc := cwrite [] (descOff 3) (one 0x200 0 0), fronds := [(0, { Frond.init with loaded := true, cls := 0, ran := true })] } []
    Ready s x0 0 [] ∧ s.dev.px64 0 0 = true ∧ macroOk s .spFill (mac 0 0 3 0 0) [] = true := by unfold Ready; decide +kernel
/-! ### Messaging -/

/-- The core with route entry 0 as given: g1 is an offset, g2 the route word 0. -/
def sRoute (r : Route) : State := withTile { core (ready 0x200 0 0) with routes := [(0, r)] } []
def route (type credit : Nat) : Route := { Route.init with type := type, held := [(1, credit)], dest := 1 }
theorem witness_SendAndTimeout : ∀ e ∈ [(1, 0), (1, 1), (2, 1)],
    let s := sRoute (route e.1 e.2)
    let d := s.dev.noted 0 0
    Ready s x0 0 [1, 2] ∧ d.routeFor 0 0 ((strandOf s x0 0).reg 2) e.1 = some (route e.1 e.2) ∧ (route e.1 e.2).st = .open_ ∧
    (route e.1 e.2).credit = e.2 ∧ (route e.1 e.2).waiters = [] ∧ ((strandOf s x0 0).reg 1).toNat % 256 = 0 ∧
    d.inScratch 0 0x200 256 = true ∧ (d.tile 0).ueIn 0x200 256 = false ∧ d.inScratch 0 0x200 56 = true ∧ d.px64 0 0 = false := by
  unfold Ready; decide
def sSending (op : WaitOp) : State := withTile { core { ready 0 0 0 with st := .wait, wait := .send, op := op } with
  routes := [(0, { route 1 0 with waiters := [.strand 0] })] } []
theorem witness_SendAndTimeout_limit : let s := sSending (.send .full 1 [] 64 0 0 (some 0))
    FrondRuns s 0 0 ∧ (s.dev.tile 0).frondWith 0 Strand.sendsTimed = some 0 ∧ ((s.dev.tile 0).strand 0 0).st = .wait ∧ 0 ≤ s.dev.tick := by
  unfold FrondRuns; decide
/-- A payload read with a corrected error, with an uncorrectable one, and with none; and a contribution's payload of 256 bytes. -/
theorem witness_SendAndTimeout_fits : (∀ ecc ∈ [Ecc.ok, .corrected], ecc ≠ .uncorrectable) ∧ (∀ e ∈ [(1, 64, 64), (1, 56, 8), (1, 1, 8), (2, 256, 256)],
    let s := sRoute (route e.1 1)
    let d := s.dev.noted 0 0
    0x200 % e.2.2 = 0 ∧ d.inScratch 0 0x200 e.2.1 = true ∧ (d.tile 0).ueIn 0x200 e.2.1 = false) := by decide
/-- A payload with an uncorrectable word in it. -/
theorem witness_SendAndTimeout_ue : let s := withTile { core (ready 0x200 0 0) with routes := [(0, route 1 1)], bad := [0x238] } []
    let d := s.dev.noted 0 0
    Ready s x0 0 [1, 2] ∧ d.routeFor 0 0 ((strandOf s x0 0).reg 2) 1 = some (route 1 1) ∧ (route 1 1).st = .open_ ∧
    d.inScratch 0 0x200 64 = true ∧ (d.tile 0).ueIn 0x200 64 = true := by unfold Ready; decide
def slot0 : SlotEntry := { SlotEntry.init with tag := 9 }
def sQueue (q : Queue) : State := withTile { core (ready 0x200 0 0) with queues := [(3, q)] } []
def queue (slots : List SlotEntry) (closed : BitVec 8) : Queue := { Queue.init with configured := true, readers := 1, slots := slots, closed := closed }
theorem witness_QueueReads : ∀ e ∈ [([slot0], 0), ([], 0), ([slot0], 1)],
    let s := sQueue (queue e.1 e.2)
    let d := s.dev.noted 0 0
    let qu := (d.tile 0).queue 3
    Ready s x0 0 [1] ∧ Ready s x0 0 [] ∧ ((strandOf s x0 0).reg 1).toNat % 64 = 0 ∧ qu.readBy 0 = true ∧ d.inScratch 0 0x200 64 = true ∧
    qu.closedFor 0 = (e.2 == 1) ∧ qu.oldest 0 = (e.1.head?) ∧ (d.tile 0).ueIn (slotOff 3 0) 64 = false ∧
    (qu.status 0 = stEmpty ↔ e.1 = []) := by unfold Ready; decide
theorem witness_QueueReads_denied : (((sQueue Queue.init).dev.noted 0 0).tile 0 |>.queue 3).readBy 0 = false := by decide
def splice0 (done : Bool) : Splice := { Splice.init with valid := true, frond := 0, cnt := 1, entries := [(0, { SpliceEntry.init with weight := 1, done := done })] }
theorem witness_SpliceAndTally : ∀ b ∈ [true, false],
    let s := withTile { core (ready 0x200 0 0) with splices := [(5, splice0 b)], routes := [(0, { route 4 0 with dest := 0 })] } []
    let d := s.dev.noted 0 0
    let z := (d.tile 0).splice 5
    Ready s x0 0 [1] ∧ Ready s x0 0 [1, 2] ∧ ((strandOf s x0 0).reg 1).toNat % 256 = 0 ∧ z.valid = true ∧ z.frond = 0 ∧
    d.inScratch 0 0x200 256 = true ∧ (mget z.entries SpliceEntry.init z.head).done = b ∧ (d.tile 0).ueIn (spliceOff 5 z.head) 256 = false ∧
    d.routeFor 0 0 ((strandOf s x0 0).reg 2) 4 = some { route 4 0 with dest := 0 } := by unfold Ready; decide
theorem witness_SpliceAndTally_far : ((sRoute (route 4 0)).dev.noted 0 0).routeFor 0 0 0 4 = some (route 4 0) ∧ (route 4 0).dest ≠ 0 := by decide
theorem witness_HitchResult : ∀ e ∈ [(0, false), (1, true)],
    let s := { sRoute (route 3 0) with dev := (sRoute (route 3 0)).dev.modTile 0 fun t =>
      { t with hitches := [(31, { Hitch.init with gen := e.1 })], strands := [(0, ready 65535 0 0)] } }
    let s := if e.2 then { s with dev := s.dev.modTile 1 fun t => { t with fenced := true } } else s
    let d := s.dev.noted 0 0
    Ready s x0 0 [] ∧ Ready s x0 0 [1] ∧ Ready s x0 0 [2] ∧ (31 : BitVec 8).toNat < 32 ∧ ((strandOf s x0 0).reg 1).toNat ≤ 65535 ∧
    ((d.tile 0).hitch 31).revoked = false ∧ d.routeFor 0 0 ((strandOf s x0 0).reg 2) 3 = some (route 3 0) ∧ (route 3 0).st ≠ .revoked ∧
    d.leadsFenced (route 3 0) = e.2 ∧ (((d.tile 0).hitch 31).gen = (strandOf s x0 0).seenGen 31 ↔ e.1 = 0) ∧ d.px64 0 0 = false := by
  unfold Ready; decide

/-! ### Engines and power -/

def fillMacro : Macro := { Macro.init with kind := .spFill, dc := parseDesc 3 (one 0x200 0 0) }
theorem witness_MacroRuns : let s := withTile { core (ready 0 0 0) with fc := { Engine.init with queue := [fillMacro] } } []
    let t := s.dev.tile 0
    s.dev.live = true ∧ (t.engine .fc).queue = [fillMacro] ∧ t.held = false ∧ t.clearing = false ∧ (t.engine .fc).free .fc fillMacro = true ∧
    t.claimed .fc fillMacro = false ∧ (fillMacro.startReads.find? (fun a => t.ueIn a.1 a.2)).isNone = true ∧
    (fillMacro.startReads.all fun a => t.canAccess a.1 a.2) = true ∧ fillMacro.record? = none := by decide
def sRun (e : EngineId) (r : Run) : State := withTile ((core (ready 0 0 0)).setEngine e { Engine.init with run := [r] }) []
theorem witness_MacroRuns_ends : let s := sRun .fc { Run.init with macro_ := fillMacro }
    ∃ r, (s.dev.tile 0).head .fc = some r ∧ r.plan = [] ∧ r.flight = [] := ⟨_, rfl, rfl, rfl⟩
/-- An engine that has nothing to do, one that a macro-instruction of the same side holds up, and a walk whose mask word is bad. -/
theorem witness_MacroRuns_waits : let held := { core (ready 0 0 0) with held := true, fc := { Engine.init with queue := [fillMacro] } }
    ((withTile (core (ready 0 0 0)) []).dev.tile 0).head .fc = none ∧ (((withTile (core (ready 0 0 0)) []).dev.tile 0).engine .fc).queue = [] ∧
    ((withTile held []).dev.tile 0).held = true := by decide
/-- A vector chain with a scale record at 0x200: in a quarter that is ON, in one that is OFF, and with a bad word in it. -/
def recMacro : Macro := { Macro.init with kind := .vxRun, da := parseDesc 1 (one 0 0 0), dc := { parseDesc 3 (one 0x400 0 0) with sptr := 0x200 }, spec := 0x200000 }
def sRec (q : QPower) (bad : List Nat) : State :=
  withTile { core (ready 0 0 0) with vx := { Engine.init with queue := [recMacro] }, q0 := q, bad := bad } []
theorem witness_MacroRuns_record : recMacro.record? = some 0x200 ∧ (∀ e ∈ [(QPower.on, [], true), (.off, [], false)],
      let t := (sRec e.1 e.2.1).dev.tile 0
      (t.engine .vx).queue = recMacro :: [] ∧ t.held = false ∧ t.clearing = false ∧ (t.engine .vx).free .vx recMacro = true ∧ t.claimed .vx recMacro = false ∧
      (recMacro.startReads.find? fun a => t.ueIn a.1 a.2) = none ∧ (recMacro.startReads.all fun a => t.canAccess a.1 a.2) = e.2.2) ∧
    (recMacro.startReads.find? fun a => ((sRec .on [0x200]).dev.tile 0).ueIn a.1 a.2) = some (0x200, 64) ∧
    (((sRec .on [0x200]).dev.tile 0).startError 0 recMacro .ok).isSome = true ∧
    (((sRec .on []).dev.tile 0).startError 0 recMacro .uncorrectable).isSome = true ∧
    (∀ ecc ∈ [Ecc.ok, .corrected], ((sRec .on []).dev.tile 0).startError 0 recMacro ecc = none) ∧ recMacro.startReads ≠ [] :=
  ⟨by decide, by decide +kernel, by decide +kernel, by decide +kernel, rfl, by decide +kernel, by decide⟩
/-- A macro-instruction with a record that has ended, over a bad word, with the command's error, and without either. -/
theorem witness_MacroRuns_record_ends : let s (bad : List Nat) := withTile { (core (ready 0 0 0)).setEngine .vx { Engine.init with
        run := [{ Run.init with macro_ := recMacro }] } with bad := bad } []
    (∃ r, (((s []).dev.tile 0).engine .vx).run = r :: [] ∧ r.plan = [] ∧ r.flight = [] ∧ r.macro_.record? = some 0x200) ∧
    (((s [0x230]).dev.tile 0).endError 0 0x200 .ok).isSome = true ∧ (((s []).dev.tile 0).endError 0 0x200 .uncorrectable).isSome = true ∧
    (∀ ecc ∈ [Ecc.ok, .corrected], ((s []).dev.tile 0).endError 0 0x200 ecc = none) :=
  ⟨⟨_, rfl, rfl, rfl, rfl⟩, by decide +kernel, rfl, by decide +kernel⟩
theorem witness_MacroRuns_ends_alone : let s := sRun .fc { Run.init with macro_ := fillMacro }
    ∃ r, (s.dev.tile 0).head .fc = some r ∧ r.plan = [] ∧ r.flight = [] ∧ r.macro_.record? = none ∧ ((s.dev.tile 0).engine .fc).run = [r] :=
  ⟨_, rfl, rfl, rfl, rfl, rfl⟩
theorem witness_EngineStepsAndStops_array : ∀ mi ∈ [Micro.stream false 0 0 0 0 0 0 0 0, .load false 0 0 0 0 0 0 0],
    let s := sRun .mx { Run.init with plan := [mi] }
    ∃ r, s.dev.live = true ∧ (s.dev.tile 0).head .mx = some r ∧ r.nextOf mi.unit = some (0, mi) ∧ s.dev.arrayCycle = true := by
  intro mi h
  simp only [List.mem_cons, List.not_mem_nil, or_false] at h
  obtain rfl | rfl := h <;> exact ⟨_, rfl, rfl, rfl, by decide⟩
theorem witness_EngineStepsAndStops_func : let s := sRun .mx { Run.init with plan := [.func 0 0 0 0 0], macro_ := { Macro.init with kind := .mmF2 } }
    ∃ r, (s.dev.tile 0).head .mx = some r ∧ r.nextOf (Micro.func 0 0 0 0 0).unit = some (0, .func 0 0 0 0 0) ∧ r.macro_.kind ≠ .mmAtt :=
  ⟨_, rfl, rfl, by decide⟩
/-- A walk over a result of one value in accumulator or scratchpad. -/
def outMacro : Macro := { Macro.init with kind := .mmOut, da := parseDesc 1 (one 0x1800000 0 0), dc := parseDesc 3 (one 0x200 0 0), spec := 0x1000000 }
theorem witness_EngineStepsAndStops_out : let s := sRun .mx { Run.init with plan := [.out 0 0 0 0 0], macro_ := outMacro }
    ∃ r, (s.dev.tile 0).head .mx = some r ∧ r.nextOf (Micro.out 0 0 0 0 0).unit = some (0, .out 0 0 0 0 0) := ⟨_, rfl, rfl⟩
def splMacro : Macro := { Macro.init with kind := .mmSpl, da := parseDesc 1 (one 0x1800000 0 0), spec := 0x2000000 }
theorem witness_EngineStepsAndStops_splice :
    let t := { (core (ready 0 0 0)).setEngine .mx { Engine.init with run := [{ Run.init with plan := [.splice 0 0 0 0 0 0], macro_ := splMacro }] } with
      routes := [(0, route 2 1)] }
    let s := withTile t []
    ∃ r, (s.dev.tile 0).head .mx = some r ∧ r.nextOf (Micro.splice 0 0 0 0 0 0).unit = some (0, .splice 0 0 0 0 0 0) ∧ ((s.dev.tile 0).spliceLine r.macro_ 0 0 0 0 0 0).isSome = true ∧
      ((s.dev.tile 0).route r.macro_.frond r.macro_.routeEntry).st = .open_ ∧ 0 < ((s.dev.tile 0).route r.macro_.frond r.macro_.routeEntry).credit ∧
      ((s.dev.tile 0).route r.macro_.frond r.macro_.routeEntry).waiters = [] := ⟨_, rfl, rfl, by decide +kernel, rfl, by decide, rfl⟩
def copyMacro : Macro := { Macro.init with kind := .spCopy, da := parseDesc 1 (one 0 0 0), dc := parseDesc 3 (one 0x200 0 0), spec := 0x1000000 }
theorem witness_EngineStepsAndStops_copy : let s := sRun .fc { Run.init with plan := [.copyRow 0 0 0 0 1], macro_ := copyMacro }
    ∃ r, (s.dev.tile 0).head .fc = some r ∧ r.plan = .copyRow 0 0 0 0 1 :: [] ∧ r.macro_.usesBight = false := ⟨_, rfl, rfl, by decide⟩
/-- A row to copy from 0x200, in bight `h`. -/
def rowCopy (h : Nat) : Macro :=
  { Macro.init with kind := .spCopy, da := { parseDesc 1 (one 0x200 0 0) with bight := h }, dc := parseDesc 3 (one 0x400 0 0), spec := 0x1000000 }
def sCopy (m : Macro) (b : Bight) (q : QPower) (drained : List (Nat × Nat)) : State :=
  withTile { (core (ready 0 0 0)).setEngine .fc { Engine.init with run := [{ Run.init with plan := [.copyRow 0 0 0 0 1], macro_ := m, drained := drained }] } with
    bights := [(1, b)], q0 := q } []
/-- A copy from a bight that is empty waits, one from a bight whose claim is broken and one that would read a drained line again end,
and so does one from a quarter that is OFF. -/
theorem witness_EngineStepsAndStops_stops :
    ∀ e ∈ [(rowCopy 1, ({ Bight.init with valid := true, lines := 4 } : Bight), QPower.on, [], StepStop.wait),
      (rowCopy 1, { Bight.init with valid := true, lines := 4, full := 4, cclaim := some .fc, cBroken := true }, .on, [], .broken 1),
      (rowCopy 1, { Bight.init with valid := true, lines := 4, full := 4 }, .on, [(1, 5)], .backward),
      (rowCopy 0, Bight.init, .off, [], .unmapped)],
    let s := sCopy e.1 e.2.1 e.2.2.1 e.2.2.2.1
    ∃ r x xs, s.dev.live = true ∧ (s.dev.tile 0).head .fc = some r ∧ r.plan = .copyRow 0 0 0 0 1 :: [] ∧ r.progs = [] ∧ r.bufs = [] ∧
      (r.macro_.rdFc (.copyRow 0 0 0 0 1)).flatMap Rng.lines = x :: xs ∧ (s.dev.tile 0).readStop .fc r x = some e.2.2.2.2 := by
  intro e he
  simp only [List.mem_cons, List.not_mem_nil, or_false] at he
  obtain rfl | rfl | rfl | rfl := he <;> exact ⟨_, _, _, rfl, rfl, rfl, rfl, rfl, rfl, by decide +kernel⟩
theorem witness_EngineStepsAndStops_beat : let s := sRun .vx { Run.init with plan := [.beat 0 0 0 0 true], macro_ := recMacro }
    ∃ r, (s.dev.tile 0).head .vx = some r ∧ r.plan = .beat 0 0 0 0 true :: [] ∧ SpPort.vxI0a ∈ [SpPort.vxI0a, .vxI0b, .vxI1a, .vxI1b, .vxOa, .vxOb] :=
  ⟨_, rfl, rfl, by decide⟩
/-- The other steps of the matrix, the vector and the fill engine. -/
theorem witness_EngineStepsAndStops_mx : ∀ mi ∈ [Micro.fill 0 0 0 0 0, .begin_ 0 0, .zero 0 0, .final 0 0 0, .func 0 0 0 0 0],
    let s := sRun .mx { Run.init with plan := [mi], macro_ := { Macro.init with kind := .mmAtt } }
    ∃ r, s.dev.live = true ∧ (s.dev.tile 0).head .mx = some r ∧ r.nextOf mi.unit = some (0, mi) ∧ r.macro_.kind = .mmAtt ∧ s.dev.arrayCycle = true := by
  intro mi h
  simp only [List.mem_cons, List.not_mem_nil, or_false] at h
  obtain rfl | rfl | rfl | rfl | rfl := h <;> exact ⟨_, rfl, rfl, rfl, rfl, by decide⟩
theorem witness_EngineStepsAndStops_rest : (∀ mi ∈ [Micro.opt 0 0 0 0, .close], let s := sRun .vx { Run.init with plan := [mi] }
      ∃ r, (s.dev.tile 0).head .vx = some r ∧ r.plan = mi :: []) ∧
    (∀ e ∈ [(MacroKind.spBfill, 4), (.spBdrain, 4), (.spBreset, 0)],
      let m := { Macro.init with kind := e.1, spec := 0x10000 + e.2 }
      let s := withTile { (core (ready 0 0 0)).setEngine .fc { Engine.init with run := [{ Run.init with plan := [.bightOp], macro_ := m }] } with
        bights := [(1, { Bight.init with valid := true, lines := 4 })] } []
      ∃ r, (s.dev.tile 0).head .fc = some r ∧ r.plan = .bightOp :: [] ∧
        ((((s.dev.tile 0).bight 0 (bits m.spec 19 16)).strandOp m.kind (m.spec % 2 ^ 16)).isNone = true ↔ e.1 = .spBdrain)) := by
  constructor
  · intro mi h
    simp only [List.mem_cons, List.not_mem_nil, or_false] at h
    obtain rfl | rfl := h <;> exact ⟨_, rfl, rfl⟩
  · intro e h
    simp only [List.mem_cons, List.not_mem_nil, or_false] at h
    obtain rfl | rfl | rfl := h <;> exact ⟨_, rfl, rfl, by decide⟩
theorem witness_EngineStepsAndStops_fill : let s := sRun .fc { Run.init with plan := [.fillRow 0 0 0 0 1], macro_ := fillMacro }
    ∃ r, (s.dev.tile 0).head .fc = some r ∧ r.plan = .fillRow 0 0 0 0 1 :: [] := ⟨_, rfl, rfl⟩
theorem witness_TilePowerAndRepairs : let s := withTile { core (ready 0 0 0) with q1 := .leaving 0, q2 := .changing 0 false, repairWait := [(true, 7)] } [(TILE_SP_POWER_REQ 0, 0)]
    let t := s.dev.tile 0
    s.dev.live = true ∧ t.quarter 1 = .leaving 0 ∧ t.storesIn 1 = false ∧ t.quarter 2 = .changing 0 false ∧
    bits (s.dev.get (TILE_SP_POWER_REQ 0)) 5 4 = 0 ∧ t.mx.busy = false ∧ t.repairWait = [(true, 7)] ∧ t.badRows = [] ∧ t.badCols = [] := by decide
theorem witness_TilePowerAndRepairs_scrub : let s := withTile { core (ready 0 0 0) with scrubPos := 98303 } []
    let t := s.dev.tile 0
    (0 : Word).toNat = 0 ∧ t.q0 = .on ∧ t.q1 = .on ∧ t.q2 = .on ∧ t.q3 = .on ∧ t.repairDue = [] ∧ bit (s.dev.get DMC_DUTY_STATE_PENDING) 3 = 0 ∧
    s.dev.duty 3 = false ∧ s.dev.is (FLT_WALKER_STOPPED (s.dev.walkerOf 0)) = false ∧ t.scrubPos < 98304 ∧ t.ueIn (t.scrubPos * 256) 256 = false := by
  decide

/-- Scrubbing by the walker, by its partner, and by none; the last line of the last tile; quarter 1 at the end of a transition to RETAIN
and to ON. -/
theorem witness_TilePowerAndRepairs_walkers : State.reset.dev.driverOf 0 = 0 ∧ State.reset.dev.is (FLT_WALKER_STOPPED 0) = false ∧
    (let d := (regs [(FLT_WALKER_STOPPED 0, 1)]).dev
     d.driverOf 0 = 1 ∧ d.is (FLT_WALKER_STOPPED 1) = false) ∧
    (let d := (regs [(FLT_WALKER_STOPPED 0, 1), (FLT_WALKER_STOPPED 1, 1)]).dev
     d.driverOf 0 = 1 ∧ d.is (FLT_WALKER_STOPPED 1) = true) ∧
    (∀ e ∈ [(105486, true), (105487, false)], let t := { Tile.init with scrubPos := e.1 }
      decide (t.scrubNext t.scrubPos + 1 < 105488) = e.2) ∧
    (∀ e ∈ [(1, false), (2, true)], ((withTile { Tile.init with q1 := .changing e.1 e.2 } []).dev.tile 0).quarter 1 = .changing e.1 e.2) := by
  decide +kernel
/-! ### What reaches a tile -/

def flit (b : FlitBody) : Flit := { Flit.init with cls := .c, part := 1, src := 1, dest := 0, body := b }
/-- The tile with one flit that has reached it. -/
def sArr (t : Tile) (b : FlitBody) : State := withTile { t with arrivals := [flit b] } []
theorem arrived (t : Tile) (b : FlitBody) : (sArr t b).dev.oldestIs 0 (flit b) [] := ⟨[], [], rfl, rfl, by simp⟩
theorem witness_RouteNotices : let t (r : Route) := { core { ready 0 0 0 with st := .wait, wait := .send, op := .send .full 1 [] 64 0 0 none } with
      routes := [(0, r)] }
    let d (r : Route) (b : FlitBody) := (sArr (t r) b).dev.took 0 []
    let w : Route := { route 1 0 with waiters := [.strand 0] }
    (sArr (t (route 1 0)) (.credit 0 0 1)).dev.live = true ∧
    ((d (route 1 0) (.credit 0 0 1)).tile 0).route 0 0 = route 1 0 ∧ (route 1 0).remote = false ∧ (route 1 0).waiters = [] ∧
    (((d { route 1 0 with st := .stale } (.reopenN 0 0 4 2)).tile 0).route 0 0).mcast = false ∧
    (((d { route 1 0 with st := .stale } (.reopenN 0 0 4 2)).tile 0).route 0 0).st = .stale ∧
    (∀ b ∈ [FlitBody.closeN 0 0, .staleN 0 0, .revoked 0 0], (((d w b).tile 0).route 0 0).waiters = [.strand 0] ∧ (d w b).stoppedF 0 0 = false ∧
      (((d w b).tile 0).route 0 0).st = .open_ ∧ (((d w b).tile 0).strand 0 0).op = .send .full 1 [] 64 0 0 none ∧
      (((d w b).tile 0).strand 0 0).st = .wait) := by decide
def grant0 : Grant := { Grant.init with writer := .local_ 1 0 0, credits := 1 }
def qIn (closed : BitVec 8) (ext : Nat) (slots : List SlotEntry) (e : List ExtEntry) : Queue :=
  { queue slots closed with grants := [grant0], extBase := 0x100, extLen := ext, spillAt := 8, ext := e }
def entry0 (ep : Nat) : FlitBody := .entry false 3 64 ep 0 []
theorem witness_EntryMoves : ∀ e ∈ [(1, 0), (0, 1), (0, 0)],
    let s := sArr { core (ready 0 0 0) with queues := [(3, qIn e.2 0 [] [])] } (entry0 e.1)
    let t := (s.dev.took 0 []).tile 0
    s.dev.live = true ∧ t.held = false ∧ t.clearing = false ∧ t.part ≠ 0 ∧ (t.queue 3).grantOf (.local_ 1 0 0) = some grant0 ∧
    grant0.withdrawn = false ∧ (t.queue 3).epoch = 0 ∧ (t.frond 0).retired = false ∧ (t.queue 3).closedFor 0 = (e.2 == 1) ∧
    (t.queue 3).freeSlot = some 0 ∧ (t.queue 3).extLen = 0 := by decide
theorem witness_TilePowerAndRepairs_frames : (∀ m ∈ [0, 1, 2], (regs [(PWR_ENVELOPE_ARRAY, m)]).dev.get PWR_ENVELOPE_ARRAY = m) ∧
    (let s := withTile { core (ready 0 0 0) with q2 := .changing 0 false, queues := [(3, { qIn 0 4 [] [⟨2, 9, 0, 7⟩] with extBase := 0x100 + 2 * 24576 })] } [(TILE_SP_POWER_REQ 0, 0)]
     (s.dev.tile 0).quarter 2 = .changing 0 false ∧ (s.dev.tile 0).extCount 2 = 1) := by decide +kernel
theorem witness_EntryMoves_spill : let s := withTile { core (ready 0 0 0) with queues := [(3, qIn 0 4 [{ slot0 with spill := true }] [])] } []
    let t := s.dev.tile 0
    let qu := t.queue 3
    (qu.slots.find? fun e => e.spill) = some { slot0 with spill := true } ∧ qu.ext.length < qu.extLen ∧
    t.rangeOn (qu.extBase * 256) (qu.extLen * 64) = true ∧ t.ueIn (slotOff 3 0) 64 = false := by decide
theorem witness_EntryMoves_refill : let s := withTile { core (ready 0 0 0) with queues := [(3, qIn 0 4 [] [⟨2, 9, 0, 7⟩])] } []
    let t := s.dev.tile 0
    let qu := t.queue 3
    t.active = some 0 ∧ (qu.ext.find? fun e => e.frond == 0) = some ⟨2, 9, 0, 7⟩ ∧ qu.freeSlot = some 0 ∧
    (qu.slots.filter fun y => y.frond == 0 && decide (y.no < 7)).length < qu.spillAt ∧ (qu.slots.filter fun y => y.fromExt).length < 4 ∧
    t.rangeOn (qu.extOff 2) 64 = true ∧ t.ueIn (qu.extOff 2) 64 = false := by decide
/-- An extension that is full, one in a quarter that is OFF, and a slot entry with a bad word. -/
theorem witness_EntryMoves_no_room : let x := { slot0 with spill := true }
    (∀ e ∈ [(1, QPower.on), (4, .off)],
      let s := withTile { core (ready 0 0 0) with queues := [(3, qIn 0 e.1 [x] [⟨0, 9, 0, 7⟩])], q0 := e.2 } []
      let t := s.dev.tile 0
      let qu := t.queue 3
      (qu.slots.find? fun e => e.spill) = some x ∧
        ¬ (qu.ext.length < qu.extLen ∧ t.rangeOn (qu.extBase * 256) (qu.extLen * 64) = true)) ∧
    (let s := withTile { core (ready 0 0 0) with queues := [(3, qIn 0 4 [x] [])], bad := [slotOff 3 0] } []
     (s.dev.tile 0).ueIn (slotOff 3 0) 64 = true) := by decide
theorem witness_Arrivals_splice : ∀ e ∈ [(0, 1), (31, 1), (32, 1), (65535, 1), (0, 2)],
    let x : SpliceEntry := { SpliceEntry.init with sums := List.replicate 64 ExactSum.init }
    let s := sArr { core (ready 0 0 0) with splices := [(5, { splice0 false with entries := [(e.1, x)] })] } (.contrib 5 e.1 e.2 0 [])
    let d := s.dev.took 0 []
    let z := (d.tile 0).splice 5
    (d.tile 0).held = false ∧ (d.tile 0).clearing = false ∧ (d.tile 0).part ≠ 0 ∧ (d.tile 1).fenced = false ∧ z.valid = true ∧
    ((d.tile 0).frond z.frond).retired = false ∧ (mget z.entries SpliceEntry.init e.1).sums ≠ [] ∧
    (((e.1 + 2 ^ 16 - z.head) % 2 ^ 16 < 32 ∧ (mget z.entries SpliceEntry.init e.1).weight + e.2 ≤ z.cnt ∧
      (mget z.entries SpliceEntry.init e.1).done = false) ↔ e = (0, 1) ∨ e = (31, 1)) := by decide +kernel
theorem witness_Arrivals_hitch : ∀ e ∈ [(0, 131070), (3, 1), (3, 2), (3, 4)],
    let s := sArr { core (ready 0 0 0) with hitches := [(31, { Hitch.init with expect := e.1, count := e.2 })] } (.hitch 31 1)
    let x := ((s.dev.took 0 []).tile 0).hitch 31
    x.count + 1 ≤ 131071 ∧ ((x.expect = 0 ∨ x.count + 1 < x.expect) ∨ (0 < x.expect ∧ x.expect ≤ x.count + 1 ∧ x.count + 1 < 2 * x.expect)) := by
  decide
theorem witness_Arrivals_complete : let s := withTile { core (ready 0 0 0) with splices := [(5, splice0 false)] } []
    (((s.dev.tile 0).splice 5).entries.find? fun e => !e.2.done && e.2.weight == ((s.dev.tile 0).splice 5).cnt) =
      some (0, { SpliceEntry.init with weight := 1 }) := by decide
/-- The strand waits for the reply of a tally it sent to tile 1, and one halted in that wait. -/
theorem witness_Arrivals_reply :
    (let s := sArr (core { ready 0 0 0 with st := .wait, wait := .tally, op := .tally 1 false 1 }) (.tallyReply 5 0 8)
     let d := s.dev.took 0 []
     s.dev.oldestIs 0 (flit (.tallyReply 5 0 8)) [] ∧ d.stoppedF 0 (flit (.tallyReply 5 0 8)).frond = false ∧
     (8 / 8, (flit (.tallyReply 5 0 8)).src) ∉ ((d.tile 0).strand 0 (8 % 8)).late ∧
     ((d.tile 0).strand 0 (8 % 8)).op = .tally (8 / 8) false (flit (.tallyReply 5 0 8)).src ∧ ((d.tile 0).strand 0 0).st = .wait) ∧
    (let s := sArr (core { ready 0 0 0 with late := [(1, 1)] }) (.tallyReply 5 0 8)
     (8 / 8, (flit (.tallyReply 5 0 8)).src) ∈ (((s.dev.took 0 []).tile 0).strand 0 (8 % 8)).late) :=
  ⟨⟨arrived _ _, by decide, by decide, by decide, by decide⟩, by decide⟩
theorem witness_Arrivals_notices : (sArr (core (ready 0 0 0)) (.fence 3)).dev.oldestIs 0 (flit (.fence 3)) [] ∧
    (sArr (core (ready 0 0 0)) (.tally true 5 9 8)).dev.oldestIs 0 (flit (.tally true 5 9 8)) [] ∧
    (((sArr (core (ready 0 0 0)) (.tally true 5 9 8)).dev.took 0 []).tile 0).held = false := ⟨arrived _ _, arrived _ _, by decide⟩
theorem test_sha3_empty : (sha3 []).take 8 = [0xA6, 0x9F, 0x73, 0xCC, 0xA2, 0x3A, 0x9A, 0xC5] := by decide +kernel

/-- A tile whose strand 0 has waited to send since cycle 0 on route 0, which leads to tile `to`. -/
def stalled (dst : Nat) (r : Route) : Tile :=
  { core { ready 0 0 0 with st := .wait, wait := .send, op := .send .full 1 [] 64 0 0 none } with routes := [(0, { r with dest := dst })] }
def sStall (dst : Nat) (r : Route) (back : Bool) (tick : Nat) : State :=
  dev fun d => { d with
    tiles := [(0, { stalled dst r with arrivals := [flit (.probe 0 3 1 0)] }),
      (1, if back then stalled 0 (route 1 0) else core (ready 0 0 0))]
    tick := tick, regs := [((PART_P_CFG_STALL_LIMIT 1).key, 100)] }
theorem witness_StallProbes_sends : ∀ b ∈ [true, false],
    ∃ w, ((sStall 1 { route 1 0 with remote := b } false 100).dev.tile 0).stallWait ((sStall 1 { route 1 0 with remote := b } false 100).dev.stallLimit 0) 0 = some w ∧
      w.since + (sStall 1 { route 1 0 with remote := b } false 100).dev.stallLimit 0 *
        (((sStall 1 { route 1 0 with remote := b } false 100).dev.tile 0).probesOf w + 1) ≤ (sStall 1 { route 1 0 with remote := b } false 100).dev.tick ∧
      (((sStall 1 { route 1 0 with remote := b } false 100).dev.tile 0).route w.frond w.entry).remote = b ∧
      (((sStall 1 { route 1 0 with remote := b } false 100).dev.tile 0).route w.frond w.entry).mcast = false := by
  intro b hb
  refine ⟨_, rfl, ?_⟩
  revert b
  decide
/-- The probed tile (0) finds the waiter of tile 1 stalled on it, and its own send stalled on tile 1. -/
theorem witness_StallProbes_mutual : let d := (sStall 1 (route 1 0) true 100).dev.took 0 []
    (sStall 1 (route 1 0) true 100).dev.oldestIs 0 (flit (.probe 0 3 1 0)) [] ∧
    ∃ w v, (d.tile 1).stallWait (d.stallLimit 1) 0 = some w ∧ w.frond * 128 + w.entry = 0 ∧ d.stalledTo 0 1 = some v ∧ ¬ (0 = 1 ∧ v.who = w.who) :=
  ⟨⟨[], [], rfl, rfl, by simp⟩, _, _, rfl, rfl, rfl, by decide⟩
theorem witness_StallProbes_gone : let d := (sStall 1 (route 1 0) false 100).dev.took 0 []
    ((d.tile 1).stallWait (d.stallLimit 1) 0).isNone = true := by decide
theorem witness_StallProbes_onesided :
    let s := dev fun d => { d with
      tiles := [(0, { core (ready 0 0 0) with arrivals := [flit (.probe 0 3 1 0)] }), (1, stalled 0 (route 2 0))], tick := 100,
      regs := [((PART_P_CFG_STALL_LIMIT 1).key, 100)] }
    let d := s.dev.took 0 []
    (d.stalledTo 0 1).isNone = true ∧ ∃ w, (d.tile 1).stallWait (d.stallLimit 1) 0 = some w ∧ ((d.tile 1).route w.frond w.entry).type ≠ rtQueue :=
  ⟨by decide, _, rfl, by decide⟩

/-! ### The mesh -/

/-- A flit of a class for tile 1, which lies east of tile 0. -/
def meshFlit (k : FClass) (b : FlitBody) (dst : Nat) : Flit := { Flit.init with cls := k, part := 1, dest := dst, dests := [dst], body := b }
/-- Router 0 with a flit of a class that waits at its local input. -/
def sMesh (k : FClass) (b : FlitBody) : State :=
  dev fun d => { d with tiles := [(0, core (ready 0 0 0)), (1, core (ready 0 0 0))],
                        routers := [(0, { Router.init with inq := [(4 * 8 + clsCode k, [meshFlit k b 1])] })] }
theorem witness_MeshMoves_forward : (sMesh .c (.credit 0 0 1)).dev.nextFlit 0 .e .c = some (.l, meshFlit .c (.credit 0 0 1) 1) ∧
    (sMesh .hitch (.hitch 3 1)).dev.ready 0 .e .hitch = [(.l, meshFlit .hitch (.hitch 3 1) 1)] ∧ (sMesh .hitch (.hitch 3 1)).dev.nextDir 0 1 = .e := by
  decide +kernel
theorem witness_MeshMoves_round : ((sMesh .q (entry0 0)).dev.dataClass 0 .e) = some .q ∧
    (sMesh .q (entry0 0)).dev.nextFlit 0 .e .q = some (.l, meshFlit .q (entry0 0) 1) ∧ FClass.q ≠ .m := by decide +kernel
/-- A flit under way on the eastward lane of router 0. -/
def sFly (wait : Bool) : State :=
  dev fun d => { d with routers := [(0, { Router.init with outs := [(1, { Chan.init with
    lanes := [(1, { Lane.init with fly := [meshFlit .c (.credit 0 0 1) 1], wait := wait })] })] })] }
theorem witness_MeshMoves_receive : meshSource 1 .w = some (0, .e) ∧ (((sFly false).dev.router 0).chan .e).lane .c =
    { Lane.init with fly := [meshFlit .c (.credit 0 0 1) 1] } ∧ (sFly false).dev.hostOf 1 = some 1 := by decide +kernel
theorem witness_MeshMoves_replay : (((sFly true).dev.router 0).chan .e).lane .c = { Lane.init with fly := [meshFlit .c (.credit 0 0 1) 1], wait := true } ∧
    meshNeighbour 0 .e = some (1, .w) ∧ ((((sFly true).dev.countReplay 0 .e).router 0).chan .e).failed = false := by decide +kernel
/-- A replay that fails for the seventh and for the eighth time, and one on a channel that has failed. -/
theorem witness_MeshMoves_fails : ∀ e ∈ [(6, false), (7, false), (7, true)],
    let s := dev fun d => { d with routers := [(0, { Router.init with outs := [(1, { Chan.init with failed := e.2, lanes := [(1, { Lane.init with
      fly := [meshFlit .c (.credit 0 0 1) 1], wait := true, replays := e.1 })] })] })] }
    (((s.dev.router 0).chan .e).lane .c).wait = true ∧ (((s.dev.router 0).chan .e).lane .c).fly = meshFlit .c (.credit 0 0 1) 1 :: [] ∧
    meshNeighbour 0 .e = some (1, .w) ∧
    (let d := (s.dev.countReplay 0 .e).laneReplay 0 .e
     ((d.router 0).chan .e).failed = e.2 ∧ s.dev.hostOf 1 = some 1 ∧ d.hostOf 1 = some 1) ∧
    (8 ≤ (((s.dev.router 0).chan .e).lane .c).replays + 1 ↔ e.1 = 7) := by decide +kernel
def contribAt (n : Nat) : Flit := meshFlit .g (.contrib 5 0 1 0 (List.replicate 64 0)) n
/-- A sum that has reached the router of its tile. -/
theorem witness_MeshMoves_reduce_here : let r : Reduction := { inputs := [.n, .s], bufs := [(.n, contribAt 0), (.s, contribAt 0)], revoked := false }
    let s := dev fun d => { d with routers := [(0, { Router.init with reds := [(0 * 16 + 5, r)] })] }
    (s.dev.router 0).red 0 5 = some r ∧ s.dev.nextDir 0 0 = .l ∧ (combine [contribAt 0, contribAt 0]).isSome = true := by decide +kernel
def contribFlit : Flit := meshFlit .g (.contrib 5 0 1 0 (List.replicate 64 0)) 1
theorem witness_MeshMoves_reduce : let r : Reduction := { inputs := [.n, .s], bufs := [(.n, contribFlit), (.s, contribFlit)], revoked := false }
    let s := dev fun d => { d with routers := [(0, { Router.init with reds := [(1 * 16 + 5, r)] })] }
    (s.dev.router 0).red 1 5 = some r ∧ (allDirs.filter fun x => r.inputs.contains x) = [.n, .s] ∧ r.inputs.length = 2 ∧
    s.dev.nextDir 0 1 ≠ .l ∧ (combine [contribFlit, contribFlit]).isSome = true := by decide +kernel
theorem witness_MeshMoves_reduce_room : let r : Reduction := { inputs := [.n, .s], bufs := [(.n, contribFlit), (.s, contribFlit)], revoked := false }
    let s := dev fun d => { d with routers := [(0, { Router.init with reds := [(1 * 16 + 5, r)] })] }
    (((s.dev.router 0).inputQ .l .g).filter fun x => !x.mcast).length < 8 ∧ r.revoked = false ∧ Dir.n ≠ .s ∧
    contribSeq contribFlit = contribSeq contribFlit := by decide +kernel

/-! ### Partitions and regions -/

theorem witness_PartitionLife : (regs [(DMC_STATUS_STAGE, 4)]).dev.live = true ∧ isOwner .owner = true ∧ (1 : PartId).val ≠ 0 ∧
    (regs [(DMC_STATUS_STAGE, 4)]).dev.partState 1 = 0 ∧ (regs [(DMC_STATUS_STAGE, 4)]).dev.get DMC_STATUS_STAGE = 4 ∧
    (((regs [(DMC_STATUS_STAGE, 4)]).dev.rectList 1).any fun n => ((regs [(DMC_STATUS_STAGE, 4)]).dev.tile n).part != 0) = false ∧
    ((regs [(PART_P_CFG_RECT 1, 0x1000)]).dev.rectOf 1).2.2.1 < ((regs [(PART_P_CFG_RECT 1, 0x1000)]).dev.rectOf 1).1 ∧
    State.reset.dev.get DMC_STATUS_STAGE ≠ 4 := by decide +kernel
theorem witness_PartitionLife_seal : (regs [(PART_P_STATE_STATE 1, 1)]).dev.partState 1 = 1 ∧ (regs [(PART_P_STATE_STATE 1, 1)]).dev.sealBad 1 = false ∧
    (regs [(PART_P_STATE_STATE 1, 1), (NOP_P_ENTRY_VALID 1, 1), (NOP_P_ENTRY_TILE 1, 9)]).dev.sealBad 1 = true := by decide +kernel
theorem witness_PartitionLife_clear : let s := withTile { core (ready 0 0 0) with clearing := true } [(PART_P_STATE_STATE 2, 3)]
    (s.dev.tile 0).clearing = true ∧ (s.dev.tile 0).part ≠ 0 ∧ s.dev.partState 2 = 3 ∧ s.dev.tilesOf 2 = [] := by decide +kernel
/-- A tile that is fenced, one that a clear has not begun, and one that a clear has given up. -/
theorem witness_PartitionLife_tiles : (let d := (withTile { Tile.init with fenced := true } [(DMC_STATUS_STAGE, 4)]).dev
      (d.rectList 1).any (fun n => (d.tile n).part != 0 || (d.tile n).fenced || (d.tile n).clearing) = true ∧ d.partState 1 = 0 ∧ d.get DMC_STATUS_STAGE = 4 ∧
      ¬ ((d.rectOf 1).2.2.1 < (d.rectOf 1).1 ∨ (d.rectOf 1).2.2.2 < (d.rectOf 1).2.1)) ∧
    (State.reset.dev.tile 3).clearing = false ∧ (State.reset.dev.tile 3).part = 0 ∧
    (∀ st ∈ [0, 1, 2, 3], (regs [(PART_P_STATE_STATE 1, st)]).dev.partState 1 = st) := by decide +kernel
/-- The same states with ADMISSION effective as 1. -/
theorem witness_PartitionLife_schedule : (regs [(PART_P_STATE_STATE 1, 1), (DMC_DUTY_STATE_EFFECTIVE, 2)]).dev.sealBad 1 = false ∧
    (((regs [(PART_P_STATE_STATE 1, 1), (DMC_DUTY_STATE_EFFECTIVE, 2)]).dev).set (PART_P_STATE_STATE 1) 2).duty 1 = true := by decide +kernel
/-- An image of one empty SCRATCH section for tile 0, without its digest. -/
def imgBody : List Byte :=
  leBytes 8 0x314752504E594C50 ++ leBytes 2 1 ++ leBytes 2 0x504C ++ leBytes 2 0x256 ++ zeros 2 ++ leBytes 4 1 ++ zeros 4 ++ leBytes 8 256 ++
  leBytes 4 1 ++ zeros 92 ++ leBytes 2 7 ++ zeros 2 ++ leBytes 1 0xFF ++ zeros 3 ++ leBytes 8 192 ++ zeros 48
/-- The image with its digest, as a program outside this package computes it (SHA3-512 of the body). -/
def img : List Byte := imgBody ++ leBytes 64 0x9EC014EB32498B514AE7BB85512B82758467111B80DA4164F76DA865FA907C630310F9EC6A2CEA6536697A32A8B87959ECBE6212F523EFE90B49B95FC3FB3437
def sImg (st : Nat) (b : List Byte) (ended : Bool) : State :=
  { regs [(PART_P_RSTATUS_STATE 1, st), (PART_P_STATE_STATE 1, 2)] with dev :=
    { (regs [(PART_P_RSTATUS_STATE 1, st), (PART_P_STATE_STATE 1, 2)]).dev with
      tiles := [(0, { core (ready 0 0 0) with part := 1, held := true })]
      regions := [(1, { Region.init with stream := true, img := b, ended := ended })], tick := 105000000 } }
theorem witness_RegionLoad : (∀ st ∈ [0, 4, 7, 1], mayCommand .owner 1 = true ∧ (sImg st [] false).dev.live = true ∧
      (sImg st [] false).dev.regionState 1 = st ∧ (sImg st [] false).dev.sealed 1 = true ∧ (sImg st [] false).dev.rcmdNow 1 < 32) ∧
    (∀ b ∈ [true, false], ((sImg 1 [] b).dev.region 1).stream = true ∧ ((sImg 1 [] b).dev.region 1).img.length < 128 ∧
      ((sImg 1 [] b).dev.region 1).ended = b) ∧ (regs []).dev.sealed 1 = false := by decide +kernel
theorem witness_RegionLoad_bad_header : (sImg 1 (zeros 128) false).dev.headerCheck 1 (zeros 128) = some ldFormat ∧ (zeros 128).length = 128 := by decide +kernel
theorem witness_RegionLoad_header : let d := (sImg 1 imgBody false).dev
    128 ≤ imgBody.length ∧ d.headerCheck 1 imgBody = none ∧ imgHead imgBody + 64 ≤ imgLength imgBody ∧ imgHead imgBody ≤ imgBody.length ∧
    tableOk imgBody (d.rectList 1) = true ∧ checkBytes imgBody ≤ imgBody.length ∧ (d.readClaims imgBody).isSome = true ∧
    rangesApart ((imgSects imgBody).filterMap Sect.lines) = true := by decide +kernel
theorem witness_RegionLoad_section : let s := sectAt imgBody 0
    s.off + s.size ≤ imgBody.length ∧ s.layoutOk imgBody = true ∧ imgCount imgBody = 1 ∧
    ((sImg 2 [] false).dev.region 1).lastByte + 105000000 ≤ (sImg 2 [] false).dev.tick := by decide +kernel
theorem witness_RegionLoad_digest : imgLength img = 256 ∧ img.length = 256 ∧ sha3 (img.take 192) = slice img 192 64 := by decide +kernel
theorem witness_RegionLoad_verify : let d := (sImg 3 imgBody false).dev.modRegion 1 fun r => { r with img := imgBody }
    d.configCheck 1 imgBody (d.rectList 1) [] = none ∧ d.meshCheck imgBody = none ∧ d.timingCheck 1 imgBody = none ∧ d.resourceOk imgBody = true := by
  decide +kernel
theorem witness_RegionLoad_clear : (sImg 8 [] false).dev.regionState 1 = 8 ∧ (sImg 8 [] false).dev.partState 1 ≠ 3 := by decide
/-- A TIMING section of no class, and a load that expects another digest than its own. -/
theorem witness_RegionLoad_layout : (let b := imgBody.set 128 (BitVec.ofNat 8 stTiming)
     (sectAt b 0).off + (sectAt b 0).size ≤ b.length ∧ (sectAt b 0).layoutOk b = false) ∧ (sectAt imgBody 0).layoutOk imgBody = true ∧
    (let d := (sImg 2 imgBody false).dev
     ((d.loadTake 1 (sectAt imgBody 0).off (sectAt imgBody 0).size none).2) = true) ∧
    (∀ b ∈ [false, true], (regs [(PART_P_RCMD_EXPECT 1, boolBit b)]).dev.is (PART_P_RCMD_EXPECT 1) = b) ∧
    ((List.range 8).flatMap fun k => leBytes 8 (State.reset.dev.get (PART_P_RDIGEST_EXP_V 1 k))) = zeros 64 := by decide +kernel
theorem witness_RegionRuns : (∀ st ∈ [4, 5, 7], (sImg st [] false).dev.regionState 1 = st) ∧ mayCommand .none 1 = false ∧ mayCommand (.tenant 1) 1 = true ∧
    (sImg 4 [] false).dev.rcmdNow 1 < 32 ∧ (sImg 7 [] false).dev.is (PART_P_RSTATUS_FAULTED 1) = false ∧
    (sImg 4 [] false).dev.is (PART_P_RSTATUS_FAULTED 1) = false ∧
    (((sImg 7 [] false).dev.tilesOf 1).any fun n => ((sImg 7 [] false).dev.tile n).fenced) = false ∧
    ((sImg 6 [] false).dev.modTile 0 fun t => { t with strands := [] }).drained 1 = true := by decide +kernel
theorem witness_RegionRuns_start : let d := (sImg 4 [] false).dev.modRegion 1 fun r => { r with goAt := some lastTime }
    (d.region 1).goAt = some lastTime ∧ d.regionState 1 = 4 := by decide +kernel
theorem witness_RegionRuns_limit : let s := { sImg 6 [] false with dev := (sImg 6 [] false).dev.modTile 0 fun t => { t with queues := [(3, queue [slot0] 0)] } }
    s.dev.regionState 1 = 6 ∧ s.dev.drained 1 = false ∧ (s.dev.region 1).drainAt + s.dev.get (PART_P_DRAIN_LIMIT 1) ≤ s.dev.tick := by decide +kernel
def step0 : FoldStep := ⟨0, 0, 0, 0, 0, 1, 0, 0⟩
theorem witness_Folds : let d := (sImg 5 [] false).dev.modRegion 1 fun r => { r with steps := [step0], switches := [step0] }
    d.regionState 1 = 5 ∧ (d.region 1).steps[0]? = some step0 ∧ (d.region 1).switches = [step0] ∧ step0.due ≤ d.now ∧ step0.due ≤ lastTime := by decide +kernel
theorem witness_Folds_tile : ∀ e ∈ [(FoldSt.drainOld, 0), (.wait, 0), (.wait, 1), (.switch, 0)],
    let r : FoldReq := ⟨none, 1, .retire, 0⟩
    let t := { core { ready 0 0 0 with k := [⟨e.2, 0⟩, ⟨0, 0⟩, ⟨0, 0⟩, ⟨0, 0⟩] } with foldSt := e.1, foldReq := some r, switchAt := 0 }
    let s := { withTile t [] with dev := { (withTile t []).dev with tick := 16 } }
    (s.dev.tile 0).foldSt = e.1 ∧ (s.dev.tile 0).active = some 0 ∧ (s.dev.tile 0).noEntries 0 = true ∧ (s.dev.tile 0).foldReq = some r ∧
    (s.dev.tile 0).switchReady 0 = (e.2 == 0) ∧ (s.dev.tile 0).switchAt + 16 ≤ s.dev.tick := by decide +kernel
/-- A switch that ends with no instant waiting, and with one for the frond now active and one for the other. -/
theorem witness_Folds_waits : ∀ w ∈ [[], [(⟨none, 1, .park, 0⟩ : FoldReq), ⟨none, 0, .park, 0⟩]], ∀ m ∈ [FoldMode.park, .retire, .forced],
    let t : Tile := { core (ready 0 0 0) with foldSt := .switch, foldReq := some ⟨none, 1, m, 0⟩, foldWait := w, switchAt := 0 }
    let s := { withTile t [] with dev := { (withTile t []).dev with tick := 16 } }
    (s.dev.tile 0).foldSt = .switch ∧ (s.dev.tile 0).foldReq = some ⟨none, 1, m, 0⟩ ∧ (s.dev.tile 0).active = some 0 ∧
      (s.dev.tile 0).switchAt + 16 ≤ s.dev.tick ∧ (s.dev.tile 0).foldWait = w := by decide
/-! ### Registers and time -/

theorem witness_RegisterAccess : State.reset.dev.live = true ∧ (4 ≠ 8 ∨ 0xFF0000000000 % 8 ≠ 0) ∧ (0xFF0000000004 : Nat) % 8 ≠ 0 ∧
    FLT_SCRUB_CFG % 8 = 0 ∧ State.reset.dev.winShut FLT_SCRUB_CFG = false ∧ State.reset.dev.dmcBusy (canonAddr FLT_SCRUB_CFG) = false ∧
    (findReg (canonAddr FLT_SCRUB_CFG)).isSome = true ∧ inMeterPage (canonAddr FLT_SCRUB_CFG) = false ∧
    ¬ (0xFF0600000000 ≤ canonAddr FLT_SCRUB_CFG ∧ canonAddr FLT_SCRUB_CFG < 0xFF0601000000) ∧ isOwner .owner = true ∧ isOwner (.tenant 1) = false := by
  decide +kernel
/-- INTERVAL at the ends of its range, and the values just outside. -/
theorem witness_RegisterAccess_interval : (∀ x ∈ [15, 16, 1024, 1025], FLT_SCRUB_CFG_INTERVAL.of x = x) ∧
    (∀ x ∈ [16, 1024], 16 ≤ x ∧ x ≤ 1024) ∧ (∀ x ∈ [15, 1025], x < 16 ∨ 1024 < x) := by decide
theorem witness_RegisterAccess_read : ∃ r, findReg (canonAddr FLT_SCRUB_CFG) = some r ∧ State.reset.dev.mayRead .owner r = true ∧
    State.reset.dev.mayRead .none r = false := ⟨_, rfl, by decide +kernel, by decide +kernel⟩
/-- SURVEY (field 9) may change and waits; KEY_SWEEP (7) changes at once; a field that PENDING names takes effect. -/
theorem witness_DutyMap : ∀ k ∈ [(9 : Fin 12), 7],
    let d := State.reset.dev
    let v : Word := BitVec.ofNat 64 (2 ^ k.val)
    k.val ≠ 4 ∧ d.is (dutyField k.val) ≠ (bit v.toNat k.val == 1) ∧ (∀ j ∈ List.range 12, j ≠ k.val → d.is (dutyField j) = (bit v.toNat j == 1)) ∧
    d.dutyReason k.val (bit v.toNat k.val == 1) = 0 ∧ d.duty k.val ≠ (bit v.toNat k.val == 1) ∧
    ({ d with dmcPend := [(9, true)] } : Dev).dmcPend = [(9, true)] := by decide +kernel
/-- ADMISSION (1) may not become 1 while a partition is in service. -/
theorem witness_DutyMap_refused : ∃ k : Fin 12, k.val ≠ 4 ∧ (regs [(PART_P_STATE_STATE 1, 2)]).dev.is (dutyField k.val) ≠ true ∧
    (regs [(PART_P_STATE_STATE 1, 2)]).dev.dutyReason k.val true ≠ 0 := by decide +kernel
/-- A request for the other field's point: METER_DELIVERY with no record under way and with one. -/
theorem witness_DutyMap_due : ∀ k ∈ [(3 : Fin 12), 8, 10, 11], ({ Dev.init with dmcPend := [(k.val, true)] } : Dev).dmcPend = [(k.val, true)] ∧
    Dev.init.nop.meterSent = [] ∧ ({ Dev.init with nop := { NopUnit.init with meterSent := [3] } } : Dev).nop.meterSent ≠ [] := by decide
theorem witness_TimeKeeping_set : ∀ e ∈ [(0, false), (2, true)],
    let d := (regs [(PART_P_STATE_STATE 1, e.1)]).dev
    isOwner .owner = true ∧ TIME_SET_ARM.of (2 ^ TIME_SET_ARM.lo) = 1 ∧
    ((d.take TIME_SET_SECOND (2 ^ TIME_SET_ARM.lo)).take TIME_SET_SOURCE (2 ^ TIME_SET_ARM.lo)).anyInService = e.2 := by decide +kernel
theorem witness_TimeKeeping_second : (∀ now ∈ [0, 1050000000 * (2 ^ 32 - 1) - 1], now / 1050000000 < 2 ^ 32 - 1) ∧
    (∀ now ∈ [1050000000 * (2 ^ 32 - 1), 1050000000 * 2 ^ 32 - 1], now / 1050000000 = 2 ^ 32 - 1) ∧ State.reset.dev.time.exhausted = false ∧
    State.reset.dev.is TIME_SET_ARM = false ∧ (regs [(TIME_SET_ARM, 1)]).dev.is TIME_SET_ARM = true := by decide +kernel
theorem witness_TimeKeeping_ctrl : let v := 2 ^ TIME_CTRL_PPS_OUT_EN.lo + 2 ^ TIME_CTRL_PTP_PORT.lo
    TIME_CTRL_PTP_PORT.of v ≠ State.reset.dev.get TIME_CTRL_PTP_PORT ∧
    ((State.reset.dev.take TIME_CTRL_PTP_PORT v).take TIME_CTRL_PPS_OUT_EN v).is TIME_CTRL_PPS_OUT_EN = true := by decide +kernel
theorem witness_TimeKeeping_steer : let s := regs [(DMC_DUTY_STATE_EFFECTIVE, 2 ^ 8), (TIME_STATUS_STATE, 2)]
    s.dev.hostSteers = true ∧ s.dev.tdState = 2 ∧ State.reset.dev.hostSteers = false ∧
    (∀ x ∈ [(25000 : Int), -25000], (signedOf 32 (TIME_STEER_STEER.of (x.toNat + (if x < 0 then (2 ^ 32 - 25000 : Nat) else 0)))).natAbs ≤ 25000) := by
  decide +kernel
theorem witness_TimeKeeping_edge : let d := (regs [(DMC_STATUS_STAGE, 2), (TIME_STATUS_STATE, 2)]).dev
    d.ppsHeeded = true ∧ d.tdState ≠ 0 ∧ d.windowHalf d.time.slew < (1051 : Int).natAbs ∧ (1050 : Int).natAbs ≤ d.windowHalf d.time.slew ∧
    ({ d with now := 1050 } : Dev).now % 1050000000 = (1050 : Int).toNat ∧ ({ d with now := 1051 } : Dev).now % 1050000000 = (1051 : Int).toNat := by
  decide +kernel
theorem witness_TimeKeeping_missed : let d := { (regs [(DMC_STATUS_STAGE, 2)]).dev with now := 1050, tick := 105000 }
    d.ppsHeeded = true ∧ d.hostSteers = false ∧ d.time.edgeFor ≠ d.now / 1050000000 + 1 ∧ d.windowHalf d.time.slew ≤ d.now % 1050000000 ∧
    ({ d.time with ppsOut := true } : TimeUnit).ppsOut = true ∧ d.time.ppsRose + 105000 ≤ d.tick := by decide +kernel
/-- Device time that has stopped, with a set that can be taken and one that cannot. -/
theorem witness_TimeKeeping_stopped : ∀ e ∈ [(0, true), (2, false)],
    let d := { (regs [(TIME_SET_ARM, 1), (PART_P_STATE_STATE 1, e.1)]).dev with time := { TimeUnit.init with exhausted := true } }
    d.is TIME_SET_ARM = true ∧ d.time.exhausted = true ∧ (d.setSecond (2 ^ 32 - 1)).isSome = e.2 := by decide +kernel
/-- Before the end of the ROM stage, under the host's steering, and with PPS_OUT low; a clamped STEER; a port that timestamps and one
that does not. -/
theorem witness_TimeKeeping_rest : State.reset.dev.ppsHeeded = false ∧ State.reset.dev.time.ppsOut = false ∧
    (regs [(DMC_STATUS_STAGE, 2), (DMC_DUTY_STATE_EFFECTIVE, 2 ^ 8)]).dev.hostSteers = true ∧
    ¬ (signedOf 32 (TIME_STEER_STEER.of 25001)).natAbs ≤ 25000 ∧
    (∀ b ∈ [false, true], (regs [(ETH_P_CTRL_PTP_EN 3, boolBit b), (ETH_P_STATUS_STATE 3, 2)]).dev.is (ETH_P_CTRL_PTP_EN 3) = b ∧
      2 ≤ (regs [(ETH_P_CTRL_PTP_EN 3, boolBit b), (ETH_P_STATUS_STATE 3, 2)]).dev.ethState 3) ∧
    State.reset.dev.is TIME_CTRL_PTP_LOCK = false := by decide +kernel
theorem witness_TimeKeeping_ptp : let d := { (regs [(TIME_CTRL_PTP_LOCK, 1), (ETH_P_STATUS_STATE 0, 2)]).dev with
      now := 2100000001, time := { TimeUnit.init with syncs := [(0, ⟨0, none⟩)] } }
    d.is TIME_CTRL_PTP_LOCK = true ∧ (d.time.syncs.find? fun e => e.1 == d.get TIME_CTRL_PTP_PORT) = some (0, ⟨0, none⟩) ∧
    0 + 2 * 1050000000 < d.now ∧ 2 ≤ d.ethState 0 := by decide +kernel
/-- An edge that the compensation makes late, one that it makes early, and one that came before cycle 0. -/
theorem witness_TimeKeeping_comp : ∀ e ∈ [(1050, 1, 1051), (1050, 65535, 1050), (-300, 1000, 700)],
    let d := { (regs [(DMC_STATUS_STAGE, 2), (TIME_STATUS_STATE, 2), (TIME_CTRL_PPS_COMP, e.2.1)]).dev with now := e.2.2 }
    let raw : Int := e.1
    let o := raw + signedOf 16 (d.get TIME_CTRL_PPS_COMP)
    d.ppsHeeded = true ∧ 0 ≤ max raw o ∧ d.now % 1050000000 = (max raw o).toNat := by decide +kernel

/-! ### Messages -/

/-- Port 0 is UP, the boot image runs, and context 5 of a kind is open, with a credential. -/
def net (kind : Nat) (cred : Cred) (more : List (RF × Nat)) : Dev :=
  let d := ([(ETH_P_STATUS_STATE 0, 4), (NOP_CTX_STATE_STATE 5, 2), (NOP_CTX_CFG_KIND 5, kind), (SEC_BOOT_STATUS_STATE, 6), (NOP_CTX_SEQ_NEXT_RX 5, 1)] ++
    more).foldl (fun (d : Dev) e => d.set e.1 e.2) Dev.init
  d.modCtx 5 fun x => { x with cred := cred }
def msgHdr : NHdr := { hdr with ackv := false }
/-- The header of a message whose payload has n bytes. -/
def msg (n : Nat) : NHdr := { msgHdr with len := n }
/-- The header's first message on that context is accepted in turn, whatever the context's credential and the payload's length. -/
theorem net_served (kind : Nat) (hk : kind ∈ [0, 1, 2, 3]) (cred : Cred) (more : List (RF × Nat)) (hm : more ∈ [[],
      [(ADM_P_CTRL_ENABLE 1, 1), (TIME_STATUS_QUALITY, 1)], [(ADM_P_CTRL_ENABLE 1, 1), (TIME_STATUS_QUALITY, 1), (DMC_DUTY_STATE_EFFECTIVE, 2)]])
    (n : Nat) (hn : n ≤ 8192) : Served (net kind cred more) (msg n) true false (hasLen (msg n) n) := by
  have hl : hasLen (msg n) n = true := by simp [hasLen, msg, hn]
  simp only [List.mem_cons, List.not_mem_nil, or_false] at hk hm
  obtain rfl | rfl | rfl | rfl := hk <;> obtain rfl | rfl | rfl := hm <;>
    exact ⟨⟨rfl, show Dev.ethState _ 0 = 4 from rfl, show Dev.ctxState _ 5 = 2 from rfl, rfl, show 0 = Dev.get _ (NOP_CTX_STATE_INCARN 5) from rfl,
      show Dev.ctxState (Dev.heard _ msgHdr) 5 = 2 from rfl⟩, fun _ => show 1 = Dev.get (Dev.heard _ msgHdr) (NOP_CTX_SEQ_NEXT_RX 5) from rfl, rfl, rfl, hl, rfl,
      .inl (show Dev.booting (Dev.inTurn _ msgHdr true) = false from rfl)⟩
theorem net_live (kind : Nat) (cred : Cred) : (net kind cred []).live = true := rfl
theorem witness_MessageReceipt : messageOf (.capsRx msgHdr []) = some (msgHdr, true) ∧ (net 2 .none []).ethState 0 = 4 ∧ (net 2 .none []).ctxState 5 = 2 ∧
    msgHdr.incarn = (net 2 .none []).get (NOP_CTX_STATE_INCARN 5) ∧ State.reset.dev.ethState 0 ≠ 4 ∧
    (∀ q ∈ [0, 2], (({ msgHdr with seq := q } : NHdr).seq < ((net 2 .none []).heard msgHdr).get (NOP_CTX_SEQ_NEXT_RX 5) ↔ q = 0)) := by decide +kernel
theorem witness_MessageReceipt_accepts : Accepts (net 2 .none []) { msgHdr with seq := 2 } ∧
    ((((net 2 .none []).modCtx 5 fun x => { x with nakFor := some 1 }).heard msgHdr).ctx 5).nakFor = some 1 :=
  ⟨⟨rfl, rfl, rfl, rfl, rfl, rfl⟩, rfl⟩
/-- A datagram for another port, one with a wrong checksum, and one without a checksum under each version of IP. -/
theorem witness_MessageReceipt_heard : (net 2 .none []).hears msgHdr = true ∧ (net 2 .none []).hears { msgHdr with dport := 49532 } = false ∧
    (net 2 .none []).hears { msgHdr with sum := .bad } = false ∧ (net 2 .none [(ETH_P_CTRL_IPV 0, 0)]).hears { msgHdr with sum := .zero } = false ∧
    (net 2 .none [(ETH_P_CTRL_IPV 0, 1)]).hears { msgHdr with sum := .zero } = true ∧
    ({ msgHdr with incarn := 1 } : NHdr).incarn ≠ (net 2 .none []).get (NOP_CTX_STATE_INCARN 5) ∧ ({ msgHdr with authOk := false } : NHdr).authOk = false := by
  decide +kernel
/-- The next message, of a reserved type, and one beyond it for the first time. -/
theorem witness_MessageReceipt_reserved : Accepts (net 2 .none []) { msgHdr with reserved := true } ∧
    ({ msgHdr with reserved := true } : NHdr).seq = ((net 2 .none []).heard msgHdr).get (NOP_CTX_SEQ_NEXT_RX 5) ∧
    (((net 2 .none []).heard msgHdr).ctx 5).nakFor ≠ some 1 ∧ 1 < ({ msgHdr with seq := 2 } : NHdr).seq :=
  ⟨⟨rfl, rfl, rfl, rfl, rfl, rfl⟩, by decide +kernel, by decide +kernel, by decide⟩
def cls1 : TimingClass := ⟨2, false, 1, 2, 4, 10, 1, 1, 10, 1, 1, 5, 5⟩
def netReq (more : List (RF × Nat)) (dl : Option Nat) : Dev × ReqMsg :=
  ({ net 2 .owner ([(ADM_P_CTRL_ENABLE 1, 1), (TIME_STATUS_QUALITY, 1)] ++ more) with regions := [(1, { Region.init with timed := true, classes := [cls1] })] },
    { reqMsg with deadline := dl })
theorem netReq_served (dl : Option Nat) : let m := (netReq [] dl).2
    Served (netReq [] dl).1 (msg 36) true false (hasLen (msg 36) (if m.ref then 48 else 32 + 4 * m.lin) && (m.ref || m.tokens.length == m.lin)) :=
  ⟨⟨rfl, rfl, rfl, rfl, rfl, rfl⟩, fun _ => rfl, rfl, rfl, rfl, rfl, .inl rfl⟩
theorem witness_RequestDecided : let d := (netReq [] none).1.inTurn msgHdr true
    reqMsg.tokens.length ≤ 2040 ∧ d.ctxKind 5 = 2 ∧ d.mayRequest 5 1 = true ∧ d.is (ADM_P_CTRL_ENABLE 1) = true ∧ d.is (ADM_P_CTRL_HOLD 1) = false ∧
    d.get PWR_STATUS_STATE < 2 ∧ d.get TIME_STATUS_QUALITY ≠ 0 ∧ d.get TIME_STATUS_QUALITY ≠ 6 ∧
    ((d.region 1).classes.find? fun k => k.cls == reqMsg.cls) = some cls1 ∧ reqMsg.lin ≤ cls1.linMax ∧ reqMsg.lout ≤ cls1.loutMax ∧
    reqMsg.tokens.length ≤ reqMsg.lin ∧ d.duty 1 = false ∧ (d.region 1).effort cls1 = false ∧ d.now + 2100 + 100 ≤ lastTime := by decide +kernel
/-- The promise of the request on an idle lane under the full envelope, worked out from the class's figures. -/
theorem witness_RequestDecided_promise : let d := (netReq [] none).1.inTurn msgHdr true
    let e := modeDuty (d.get PWR_ENVELOPE_ADMIT)
    let l := mget (d.region 1).lanes Lanes.init 1
    let start := max (max (d.now + 2100) (firstLane cls1.lanes l.free).2) 0
    start + (cls1.f0 + cls1.fin * 1 + cls1.fout * 4 + ceilDiv ((cls1.m0 + cls1.min_ * 1 + cls1.mout * 4) * 16) e) + d.get (ADM_P_CTRL_GUARD 1) =
      2100 + 15 + 15 + d.get (ADM_P_CTRL_GUARD 1) ∧ e = 16 ∧ l.last = none := by decide +kernel
theorem witness_RequestDecided_rejects : ¬ (net 2 .none []).asks 5 reqMsg ∧ ¬ State.reset.dev.takesRequests 1 ∧ (net 1 .none []).ctxKind 5 ≠ 2 ∧
    (cls1.linMax < 3 ∧ cls1.loutMax < 5) ∧ (net 2 .owner []).schedPick 1 2 1 4 0 = none := by
  refine ⟨fun h => absurd h.2.1 (by decide +kernel), fun h => absurd h.1 (by decide), by decide +kernel, by decide, by decide +kernel⟩
/-- Device time that has stopped and one never set, a class that the table has not, and lengths past their limits. -/
theorem witness_RequestDecided_orders : (∀ q ∈ [0, 6], ((netReq [(TIME_STATUS_QUALITY, q)] none).1.inTurn (msg 36) true).get TIME_STATUS_QUALITY = q) ∧
    (let d := (netReq [] none).1.inTurn (msg 36) true
     d.asks 5 reqMsg ∧ d.takesRequests 1 ∧ (∀ k ∈ (d.region 1).classes, k.cls ≠ 3) ∧ ¬ d.asks 5 { reqMsg with part := 0 }) ∧
    ¬ ((netReq [(ADM_P_CTRL_HOLD 1, 1)] none).1.inTurn (msg 36) true).takesRequests 1 ∧ (2130 : Nat) ≤ 2131 ∧ (2129 : Nat) < 2130 := by
  refine ⟨by decide +kernel, ⟨⟨by decide, by decide +kernel, fun h => by cases h⟩, ⟨by decide +kernel, by decide +kernel, by decide +kernel, by decide +kernel⟩,
    by decide +kernel, fun h => h.1 rfl⟩, fun h => absurd h.2.1 (by decide +kernel), by decide, by decide⟩
/-- A valid entry of the host's schedule that starts 2,100 cycles from now. -/
theorem witness_RequestDecided_schedule :
    let d := (((net 2 .owner [(DMC_DUTY_STATE_EFFECTIVE, 2)]).set (schedWord 1 7 0) (2100 * 2 ^ 32)).set (schedWord 1 7 1) (2 ^ 32 * 2 + 50)).set (schedWord 1 7 2)
      (2 ^ 40 + 2 * 2 ^ 32 + 4)
    d.duty 1 = true ∧ d.schedPick 1 2 1 4 0 = some 7 := by decide +kernel
def reqA : Request := { Request.init with tag := 7, ctx := 5, part := 1, lout := 4, promise := some 3000 }
theorem witness_AdmissionLife_expiry : State.reset.dev.live = true ∧
    (let d : Dev := { Dev.init with reqs := [reqA] }
     let open_ (r : Request) : Bool := r.part == 1 && r.tag == 7 && r.promise.isSome && !r.late
     Dev.init.reqs.find? open_ = none ∧ d.reqs.find? open_ = some reqA ∧ reqA.promise = some 3000 ∧ 3000 < (d.toTime 3001).now) := by decide +kernel
/-- GUARD of an open and of a sealed partition changes; UNCRED stays. -/
theorem witness_AdmissionLife_ctrl : mayCommand .owner 1 = true ∧ mayCommand (.tenant 2) 1 = false ∧
    (∀ e ∈ [(1, false), (2, true)], let d := (regs [(PART_P_STATE_STATE 1, e.1)]).dev
      let v := 50 * 2 ^ (ADM_P_CTRL_GUARD 1).lo
      (ADM_P_CTRL_GUARD 1).of v ≠ d.get (ADM_P_CTRL_GUARD 1) ∧ (ADM_P_CTRL_GUARD 1).of 0 = d.get (ADM_P_CTRL_GUARD 1) ∧
      (ADM_P_CTRL_UNCRED 1).of v = d.get (ADM_P_CTRL_UNCRED 1) ∧ d.sealed 1 = e.2 ∧ (e.2 = false → d.partState 1 = 1)) := by decide +kernel
/-- An entry that names class 2 of the timing table, and one that names no class. -/
def schedDev (cls : Nat) : Dev :=
  (((({ Dev.init with regions := [(1, { Region.init with timed := true, classes := [cls1] })] } : Dev).set (schedWord 1 7 0) (4000 * 2 ^ 32)).set
    (schedWord 1 7 1) (2 ^ 32 + 2000))).set (schedWord 1 7 2) (2 ^ 40 + cls * 2 ^ 32 + 4)
theorem witness_AdmissionLife_schedule : (schedDev 2).schedRefused 1 7 = false ∧ (schedDev 3).schedRefused 1 7 = true ∧
    ((schedDev 2).schedEntry 1 7).valid = true ∧ (schedDev 2).schedMark 1 7 ≠ some true ∧ ((schedDev 2).schedEntry 1 7).start < lastTime ∧
    ({ schedDev 2 with sched := [(1 * 256 + 7, true)] } : Dev).schedMark 1 7 = some true := by decide +kernel
theorem witness_AdmissionLife_cancel : Served ({ net 2 .owner [] with reqs := [reqA] }) (msg 8) true false (hasLen (msg 8) 8) ∧
    (let e := ({ net 2 .owner [] with reqs := [reqA] } : Dev).inTurn (msg 8) true
     (e.reqs.find? fun r => r.tag == 7 && !r.last && (e.sentBy r 5 || e.covers 5 r.part)) = some reqA ∧
     (e.reqs.find? fun r => r.tag == 8 && !r.last && (e.sentBy r 5 || e.covers 5 r.part)) = none) :=
  ⟨⟨⟨rfl, rfl, rfl, rfl, rfl, rfl⟩, fun _ => rfl, rfl, rfl, rfl, rfl, .inl rfl⟩, by decide +kernel⟩
/-- A result entry of tile 0 to the RESULTS context 4: tag 7, one token, not the last. -/
def resultDev (ctxState : Nat) (reqs : List Request) : Dev :=
  { (withTile { Tile.init with part := 1, railOut := [(4, .queue 0 0 0 0 0 0 0 0 false 16 0 ([7] ++ zeros 7 ++ [0, 1, 0, 0, 9, 0, 0, 0]))] }
      [(NOP_CTX_CFG_KIND 4, 3), (NOP_CTX_CFG_PART 4, 1), (NOP_CTX_STATE_STATE 5, ctxState)]).dev with reqs := reqs }
theorem witness_AdmissionLife_result : ∀ e ∈ [(0, []), (0, [reqA]), (2, [reqA]), (2, [{ reqA with incarn := 1 }])],
    let d := resultDev e.1 e.2
    let data : List Byte := [7] ++ zeros 7 ++ [0, 1, 0, 0, 9, 0, 0, 0]
    (d.tile 0).railOut.find? (fun e => e.1 == 4) = some (4, .queue 0 0 0 0 0 0 0 0 false 16 0 data) ∧
    (let x := (d.modTile 0 fun t => { t with railOut := dropFirst (fun x => x.1 == 4) t.railOut }).creditTo 0 0 0 0 1
     x.ctxKind 4 = 3 ∧ x.ctxPart 4 = (x.tile 0).part ∧ x.ctxState 5 = e.1 ∧ bit (fieldAt data 8 1) 0 = 0 ∧
     x.reqs.find? (fun r => r.part == x.ctxPart 4 && r.tag == BitVec.ofNat 64 (fieldAt data 0 8) && !r.last) = e.2.head? ∧
       x.sentBy reqA reqA.ctx = true ∧ x.sentBy { reqA with incarn := 1 } 5 = false) := by decide +kernel

/-! ### Contexts, messages, ports -/

/-- Context 5 is a PEER context with keys, in a state. -/
def peer (st : Nat) (more : List (RF × Nat)) : Dev :=
  (([(NOP_CTX_STATE_STATE 5, st), (NOP_CTX_CFG_KIND 5, 1), (ETH_P_STATUS_STATE 0, 4), (SEC_BOOT_STATUS_STATE, 6)] ++ more).foldl
    (fun (d : Dev) e => d.set e.1 e.2) Dev.init).modCtx 5 fun x => { x with keyed := true, incarnMax := 3 }
def openMsg (incarn versions : Nat) (ek : Option (List Byte)) : OpenMsg := { incarn := incarn, versions := versions, ek := ek }
theorem witness_ContextLife : isOwner .owner = true ∧ isOwner .none = false ∧
    (∀ st ∈ [0, 1, 2, 3], (peer st []).live = true ∧ (peer st []).ctxKind 5 = 1 ∧ (peer st []).ctxState 5 = st ∧ ((peer st []).ctx 5).keyed = true) ∧
    Dev.init.ctxKind 5 ≠ 1 ∧ (net 2 .none []).ctxKind 5 = 2 ∧ (net 2 .none []).ctxState 5 = 2 ∧
    (∀ e ∈ [(0, false), (2 ^ 6, true)], (regs [(DMC_DUTY_STATE_EFFECTIVE, e.1)]).dev.duty 6 = e.2) := by decide +kernel
/-- A host's OPEN: no free HOST context, and context 7 the lowest free one; versions 1 and 2. -/
theorem witness_ContextLife_host : (∀ c : CtxId, (Dev.init.ctxKind c.val == 2 && Dev.init.ctxState c.val == 0) = false) ∧
    (let d := (regs [(NOP_CTX_CFG_KIND 7, 2), (ETH_P_STATUS_STATE 0, 4)]).dev
     d.hears (msg 1576) = true ∧ d.ethState (msg 1576).port.val = 4 ∧ (msg 1576).port.val = 0 ∧ (msg 1576).version = 1 ∧ (msg 1576).reserved = false ∧
     hasLen (msg 1576) 1576 = true ∧ (d.ctxKind 7 == 2 && d.ctxState 7 == 0) = true ∧
     ∀ j, j < 7 → (d.ctxKind j == 2 && d.ctxState j == 0) = false) ∧
    (openMsg 1 2 (some [])).versions % 2 = 0 ∧ (openMsg 1 1 (some [])).versions % 2 = 1 ∧ (openMsg 1 1 (some [])).ek ≠ none := by
  refine ⟨fun _ => rfl, by decide +kernel, by decide, by decide, by decide⟩
/-- A peer's OPEN at, below and above the highest incarnation seen, one of another length and one of another version, in a context of
each state; its OPEN_ACK; and both while the device boots. -/
theorem witness_ContextLife_peer : (∀ st ∈ [0, 1, 2, 3], let d := peer st [(NOP_CTX_STATE_INCARN 5, 3)]
      d.hears (msg 8) = true ∧ d.ethState msgHdr.port.val = 4 ∧ msgHdr.dctx = 5 ∧ d.booting = false ∧ d.ctxKind 5 = 1 ∧ (d.ctx 5).keyed = true ∧ d.ctxState 5 = st ∧
      (openMsg 3 1 none).ek = none ∧ (openMsg 3 1 none).incarn = (d.ctx 5).incarnMax ∧ (d.ctx 5).incarnMax < (openMsg 4 1 none).incarn ∧
      (openMsg 4 2 none).versions % 2 = 0 ∧ (openMsg 4 1 none).versions % 2 = 1 ∧ d.get (NOP_CTX_STATE_INCARN 5) = 3) ∧
    (peer 2 [(SEC_BOOT_STATUS_STATE, 2)]).booting = true ∧ ((peer 2 []).modCtx 5 fun x => { x with keyed := false }).ctxKind 5 = 1 ∧
    ((((peer 2 []).modCtx 5 fun x => { x with keyed := false })).ctx 5).keyed = false := by decide +kernel
theorem witness_ContextLife_header : hasLen (msg 8) 8 = true ∧ hasLen (msg 9) 8 = false ∧ ({ msg 8 with version := 2 } : NHdr).version ≠ 1 ∧
    ({ msgHdr with sctx := 4 } : NHdr).sctx < 5 ∧ 5 ≤ ({ msgHdr with sctx := 5 } : NHdr).sctx ∧ msgHdr.authOk = true ∧
    ({ msgHdr with authOk := false } : NHdr).authOk = false ∧ (msg 8).reserved = false := by decide
theorem witness_ContextLife_served : Served (net 2 .none []) (msg 8) true true (hasLen (msg 8) 8) ∧
    Served (net 2 .none []) (msg 88) true false (hasLen (msg 88) 88) ∧
    Served (net 2 .none []) { msg 0 with seqv := false } false true (hasLen { msg 0 with seqv := false } 0) ∧
    ([0, 1] : List Byte).getD 1 0 = 1 ∧ ([0, 2] : List Byte).getD 1 0 = 2 :=
  ⟨⟨⟨rfl, rfl, rfl, rfl, rfl, rfl⟩, fun _ => rfl, rfl, rfl, rfl, rfl, .inl rfl⟩, net_served 2 (by decide) .none [] (by decide) 88 (by decide),
    ⟨⟨rfl, rfl, rfl, rfl, rfl, rfl⟩, fun h => (by cases h), rfl, rfl, rfl, rfl, .inl rfl⟩, rfl, rfl⟩
theorem witness_ContextLife_queues : (let d := (net 2 .none []).modCtx 5 fun x => { x with unacked := [TxMsg.init] }
     (d.ctx 5).unacked = TxMsg.init :: [] ∧ TxMsg.init.again = false) ∧
    (let d := resultDev 2 []
     d.ctxKind 4 = 3 ∧ (let d := d.set (NOP_CTX_CFG_KIND 4) 1
       ∃ e, (d.tile 0).railOut.find? (fun e => d.ctxKind e.1 != 3) = some e)) :=
  ⟨by decide +kernel, by decide +kernel, _, rfl⟩
/-- NOP_RECOVER by the host and not; a context with nothing unacknowledged; a tile with nothing to send. -/
theorem witness_ContextLife_recover : (∀ e ∈ [(0, false), (2 ^ 6, true)], (net 2 .none [(DMC_DUTY_STATE_EFFECTIVE, e.1)]).duty 6 = e.2 ∧
      (net 2 .none [(DMC_DUTY_STATE_EFFECTIVE, e.1)]).ctxState 5 = 2) ∧ ((net 2 .none []).ctx 5).unacked = [] ∧
    ((net 2 .none []).tile 0).railOut.find? (fun e => (net 2 .none []).ctxKind e.1 != 3) = none ∧ isOwner .owner = true := by decide +kernel
/-- The lengths of the item messages at both ends, on a PEER and on a HOST context; accesses of one byte and of 8,176; registers. -/
theorem witness_MessagesServed (n : Nat) (hn : n ≤ 8192) : (net 1 .none []).live = true ∧
    Served (net 1 .none []) (msg n) true false (hasLen (msg n) n) ∧ Served (net 2 .owner []) (msg n) true false (hasLen (msg n) n) :=
  ⟨net_live 1 .none, net_served 1 (by decide) .none [] (by decide) n hn, net_served 2 (by decide) .owner [] (by decide) n hn⟩
theorem witness_MessagesServed_lengths : (∀ n ∈ [8 + 80 * 1, 8 + 80 * 64, 8 + 272 * 30, 8 + 8 * 1000, 16, 16 + 1, 16 + 8176, 16 + 8 * 1022, 8, 4], n ≤ 8192) ∧
    ((net 1 .none []).inTurn (msg 16) true).ctxKind 5 = 1 ∧ ((net 2 .owner []).inTurn (msg 16) true).ctxKind 5 = 2 ∧
    (((net 2 .owner []).inTurn (msg 16) true).ctx 5).cred = .owner ∧ 2 ≤ ((net 2 .owner []).inTurn (msg 16) true).ethState 0 ∧
    ((net 2 .owner []).inTurn (msg 16) true).ethState 1 < 2 := by decide +kernel
/-- A region that takes a stream, with 2 bytes so far: the next offset, another, and an image of 64 bytes whose header says 64. -/
def streamDev (img : List Byte) : Dev :=
  { net 2 .owner [(PART_P_RSTATUS_STATE 1, 1)] with regions := [(1, { Region.init with stream := true, img := img })] }
theorem witness_MessagesServed_stream : (∀ n ∈ [8, 18], Served (streamDev [1, 2]) (msg n) true false (hasLen (msg n) n)) ∧
    (let d := (streamDev [1, 2]).inTurn (msg 18) true
     (1 : PartId).val ≠ 0 ∧ d.covers 5 1 = true ∧ d.streamTakes 1 = true ∧ 2 = (d.region 1).img.length ∧ 3 ≠ (d.region 1).img.length ∧ (d.region 1).img.length < 64) ∧
    64 ≤ (zeros 64).length ∧ imgLength (zeros 64) ≤ (zeros 64).length ∧ (net 2 .none []).covers 5 1 = false :=
  ⟨by
    intro n h
    simp only [List.mem_cons, List.not_mem_nil, or_false] at h
    obtain rfl | rfl := h <;> exact ⟨⟨rfl, rfl, rfl, rfl, rfl, rfl⟩, fun _ => rfl, rfl, rfl, rfl, rfl, .inl rfl⟩,
  by decide +kernel, by decide +kernel, by decide +kernel, by decide +kernel⟩
theorem witness_MessagesServed_pull : let d := (net 2 .owner []).inTurn (msg 4) true
    d.is DMC_STATUS_RESTARTING = false ∧ (((net 2 .owner [(DMC_STATUS_RESTARTING, 1)]).inTurn msgHdr true).is DMC_STATUS_RESTARTING = true) ∧
    (0x102 ∈ [1, 2, 3, 4, 5, 0x101, 0x102]) ∧ (6 ∉ [1, 2, 3, 4, 5, 0x101, 0x102]) := by decide +kernel
theorem witness_PortStates : isOwner .owner = true ∧ isOwner (.tenant 1) = false ∧
    (∀ st ∈ [0, 1, 2, 3, 4], (regs [(ETH_P_STATUS_STATE 3, st)]).dev.live = true ∧ (regs [(ETH_P_STATUS_STATE 3, st)]).dev.ethState 3 = st) ∧
    (regs [(ETH_P_CTRL_MACSEC_REQ 3, 1)]).dev.is (ETH_P_CTRL_MACSEC_REQ 3) = true ∧
    ((regs [(ETH_P_CTRL_MACSEC_REQ 3, 1)]).dev.port 3).keyed = false ∧ (regs [(ETH_P_CTRL_MACSEC_REQ 3, 0)]).dev.is (ETH_P_CTRL_MACSEC_REQ 3) = false := by decide +kernel
/-- Frames that MACsec drops, that it takes, and that a keyed port refuses in the clear. -/
theorem witness_PortTraffic_frame : ∀ st ∈ [2, 3, 4], (regs [(ETH_P_STATUS_STATE 3, st)]).dev.ethState 3 ≠ 0 ∧ (regs [(ETH_P_STATUS_STATE 3, st)]).dev.ethState 3 ≠ 1 ∧
    2 ≤ (regs [(ETH_P_STATUS_STATE 3, st)]).dev.ethState 3 := by decide +kernel
/-- A receive association whose next packet number is 5: a replay, the next one, and an association that is missing. -/
theorem witness_PortTraffic_macsec : let a : Sa := { Sa.init with an := 1, rx := true, next := 5 }
    let d := (regs [(ETH_P_STATUS_STATE 3, 4)]).dev.modPort 3 fun x => { x with sas := [a] }
    let rx (an pn : Nat) : FrameRx := ⟨.nopra, true, true, 100, 0, 0, an, pn⟩
    ((d.port 3).sas.find? fun b => b.rx && b.an == (rx 1 4).an) = some a ∧ (rx 1 4).pn < a.next ∧ a.next ≤ (rx 1 5).pn ∧
    ((d.port 3).sas.find? fun b => b.rx && b.an == (rx 0 5).an) = none ∧ (d.port 3).sas.any (fun b => b.rx) = true := by decide
theorem witness_PortTraffic_lldp : State.reset.dev.get (ETH_P_CTRL_LLDP_S 3) ≠ 0 ∧ (State.reset.dev.port 3).lldpSent = 0 ∧
    (regs [(ETH_P_CTRL_LLDP_S 3, 0)]).dev.get (ETH_P_CTRL_LLDP_S 3) = 0 ∧ ((Dev.init.modPort 3 fun x => { x with lldpSent := 5 }).port 3).lldpSent ≠ 0 := by
  decide +kernel
/-- A port that left UP: V serves another, the host fails over, V is free and UP, V is not UP. -/
def lostDev (l : List (RF × Nat)) : Dev := (regs l).dev.modPort 3 fun x => { x with lost := true }
theorem witness_PortTraffic_failover : (Dev.init.port 3).lost = false ∧ ((lostDev []).port 3).lost = true ∧
    (let d := lostDev [(ETH_FAILOVER_SERVING, 5)]
     d.get ETH_FAILOVER_SERVING ≠ 31) ∧
    (let d := lostDev [(ETH_FAILOVER_SERVING, 31), (DMC_DUTY_STATE_EFFECTIVE, 2 ^ 4)]
     d.get ETH_FAILOVER_SERVING = 31 ∧ d.duty 4 = true) ∧
    (∀ up ∈ [0, 4], let d := lostDev [(ETH_FAILOVER_SERVING, 31), (ETH_FAILOVER_AUTO, 1), (ETH_P_STATUS_STATE 17, up)]
      d.get ETH_FAILOVER_SERVING = 31 ∧ d.duty 4 = false ∧ d.is ETH_FAILOVER_AUTO = true ∧ d.ethState 17 = up) ∧
    (1 ≤ (1 : PortId).val ∧ (16 : PortId).val ≤ 16) := by decide +kernel
/-- The controller restarts while AUTO is set; a port that LLDP has no part in. -/
theorem witness_PortTraffic_restart : let d := lostDev [(ETH_FAILOVER_SERVING, 31), (ETH_FAILOVER_AUTO, 1), (DMC_STATUS_RESTARTING, 1)]
    d.get ETH_FAILOVER_SERVING = 31 ∧ d.duty 4 = false ∧ d.is ETH_FAILOVER_AUTO = true ∧ d.dmcDown = true ∧ State.reset.dev.ethState 3 < 2 ∧
    (lostDev [(ETH_FAILOVER_SERVING, 31), (ETH_FAILOVER_AUTO, 0)]).is ETH_FAILOVER_AUTO = false := by decide +kernel
/-! ### Memory -/

theorem witness_MemoryRules_config : isOwner .owner = true ∧ mayCommand .owner 1 = true ∧ mayCommand .none 1 = false ∧
    (let h (d : Dev) : Bool := allParts.any fun p => (List.range 8).any fun k => d.is (MEM_P_RANGE_VALID p k) && d.get (MEM_P_RANGE_TIER p k) == 0
     h Dev.init = false ∧ h (regs [(MEM_P_RANGE_VALID 15 7, 1)]).dev = true ∧ h (regs [(MEM_P_RANGE_VALID 1 0, 1), (MEM_P_RANGE_TIER 1 0, 1)]).dev = false) ∧
    (regs [(PART_P_STATE_STATE 1, 2)]).dev.sealed 1 = true ∧ State.reset.dev.sealed 1 = false ∧
    (∀ st ∈ [0, 1, 2, 3], ((1 : PartId).val ≠ 0 ∧ ((regs [(PART_P_STATE_STATE 1, st)]).dev.partState 1 = 0 ∨ (regs [(PART_P_STATE_STATE 1, st)]).dev.partState 1 = 3) ↔
      st = 0 ∨ st = 3)) := by decide +kernel
/-- Shares of 64 in all fit, and 65 do not. -/
theorem witness_MemoryRules_split : ∀ e ∈ [(64, false), (65, true)],
    let d := (regs [(MEM_P_RANGE_VALID 1 0, 1), (PART_P_STATE_STATE 1, 1)]).dev
    let v : Word := BitVec.ofNat 64 (e.1 * 2 ^ (MEM_P_SPLIT_READ 1).lo)
    let fs := [MEM_P_SPLIT_READ 1, MEM_P_SPLIT_WRITE 1, MEM_P_SPLIT_REMOTE 1]
    (∃ f ∈ fs, f.of v.toNat ≠ d.get f) ∧ d.holdsRange 1 = true ∧
    decide ((∃ f ∈ fs, 64 < f.of v.toNat) ∨ 64 < d.shareSum (some (1, (fs.map fun f => f.of v.toNat).sum))) = e.2 := by decide +kernel
/-- Pages 4 to 7 of partition 2: a range of partition 1 whose last page is 4 meets them. -/
theorem witness_MemoryRules_range : let d := (regs [(PART_P_STATE_STATE 1, 1), (MEM_P_RANGE_VALID 2 0, 1), (MEM_P_RANGE_BASE 2 0, 4), (MEM_P_RANGE_COUNT 2 0, 4)]).dev
    let v := 2 ^ (MEM_P_RANGE_VALID 1 0).lo + 5 * 2 ^ (MEM_P_RANGE_COUNT 1 0).lo
    (MEM_P_RANGE_VALID 1 0).of v = 1 ∧ d.is (MEM_P_RANGE_VALID 2 0) = true ∧ d.get (MEM_P_RANGE_TIER 2 0) = (MEM_P_RANGE_TIER 1 0).of v ∧
    (MEM_P_RANGE_BASE 1 0).of v < d.get (MEM_P_RANGE_BASE 2 0) + d.get (MEM_P_RANGE_COUNT 2 0) ∧
    d.get (MEM_P_RANGE_BASE 2 0) < (MEM_P_RANGE_BASE 1 0).of v + (MEM_P_RANGE_COUNT 1 0).of v ∧
    (MEM_P_RANGE_VALID 1 0).of 1 ≠ State.reset.dev.get (MEM_P_RANGE_VALID 1 0) ∨ (MEM_P_RANGE_COUNT 1 0).of v ≠ d.get (MEM_P_RANGE_COUNT 1 0) := by
  decide +kernel
/-- Idle with a new key; in the sweep, with page 3 of HBM old, by the device and by the host. -/
def keyDev (st : Nat) (l : List (RF × Nat)) (old : List Nat) (key : Nat) : Dev :=
  (regs ((MEM_P_KEY_STATE 1, st) :: l)).dev.modPart 1 fun x => { x with newKey := ⟨key⟩, movedOld := old }
theorem witness_MemoryRules_key : (keyDev 0 [] [] 9).get (MEM_P_KEY_STATE 1) = 0 ∧ ((keyDev 0 [] [] 9).part 1).newKey.serial ≠ 0 ∧
    (State.reset.dev.part 1).newKey.serial = 0 ∧
    (let d := keyDev 1 [] [pageKey 0 3] 0
     d.get (MEM_P_KEY_STATE 1) = 1 ∧ d.is (MEM_P_SWSTAT_STALLED 1) = false ∧ d.is (MEM_P_SWSTAT_MOVING 1) = false ∧ d.duty 7 = false ∧
     (d.part 1).movedOld = pageKey 0 3 :: []) ∧
    (let d := keyDev 1 [(DMC_DUTY_STATE_EFFECTIVE, 2 ^ 7)] [pageKey 0 3] 0
     d.duty 7 = true ∧ d.is (MEM_P_SWSTAT_MOVING 1) = false ∧ pageKey 0 ((MEM_P_SWEEP_PAGE 1).of (3 * 2 ^ (MEM_P_SWEEP_PAGE 1).lo)) ∈ (d.part 1).movedOld) ∧
    (keyDev 1 [(MEM_P_SWSTAT_MOVING 1, 1)] [] 0).is (MEM_P_SWSTAT_MOVING 1) = true ∧ ((keyDev 1 [] [] 0).part 1).movedOld = [] ∧
    (keyDev 1 [(MEM_P_SWSTAT_STALLED 1, 1)] [] 0).is (MEM_P_SWSTAT_STALLED 1) = true ∧ (keyDev 2 [] [] 0).get (MEM_P_KEY_STATE 1) = 2 := by decide +kernel
theorem witness_MemoryRules_train : (regs [(unitState 0, 2)]).dev.get (unitState 0) = 2 ∧ (regs [(unitState 19, 2)]).dev.get (unitState 19) = 2 ∧
    State.reset.dev.get (unitState 0) ≠ 2 ∧ bit (1 : Word).toNat 0 = 1 ∧ bit (1 : Word).toNat 2 = 0 := by decide +kernel
/-- A DMA engine whose one transfer has a line to go, one that came back, and one that ended with an error. -/
def dmaDev (r : Run) : Dev := (withTile ((core Strand.init).setEngine (dmaEng 0) { Engine.init with run := [r] }) []).dev
def copyRun : Run := { Run.init with macro_ := { Macro.init with kind := .dmGet }, plan := [.dma 64 128 64], flight := [] }
theorem witness_MemoryRules_dma : ((dmaDev copyRun).tile 0).held = false ∧ ((dmaDev copyRun).tile 0).clearing = false ∧
    ((((dmaDev copyRun).tile 0).engine (dmaEng 0)).run.map fun r => r.flight.length).sum < 192 ∧
    (((dmaDev copyRun).tile 0).engine (dmaEng 0)).run[0]? = some copyRun ∧ copyRun.plan = [.dma 64 128 64] ∧
    (∀ st ∈ [(0 : Byte), 9], ({ DmaAccess.init with done := true, status := st } : DmaAccess).done = true) := by decide +kernel
/-- An access of partition 1 of one transfer, and of two. -/
theorem witness_MemoryRules_slot : (MemChan.init.pick none = none) ∧ MemChan.init.queue = [] ∧
    (∀ n ∈ [1, 2], let x : MemAccess := { MemAccess.init with part := 1, stream := .read, left := n }
      ({ MemChan.init with queue := [x] } : MemChan).pick (some (1, .write)) = some 0 ∧ x.refresh = false) := by decide +kernel
/-- A stack that failed its training; a range that fits the 12 stacks to the last page. -/
theorem witness_MemoryRules_failed : (∃ j : Fin 12, (regs [(HBM_S_STATUS_STATE 11, 4)]).dev.get (HBM_S_STATUS_STATE j.val) = 4) ∧
    (∀ j : Fin 12, State.reset.dev.get (HBM_S_STATUS_STATE j.val) ≠ 4) ∧
    (∀ q ∈ allParts, q ≠ 1 → ∀ j : Fin 8, State.reset.dev.is (MEM_P_RANGE_VALID q j.val) = false) ∧
    (let v := 2 ^ (MEM_P_RANGE_VALID 1 0).lo + 2 * 2 ^ (MEM_P_RANGE_COUNT 1 0).lo + 294910 * 2 ^ (MEM_P_RANGE_BASE 1 0).lo
     (MEM_P_RANGE_TIER 1 0).of v = 0 ∧ (MEM_P_RANGE_BASE 1 0).of v + (MEM_P_RANGE_COUNT 1 0).of v = State.reset.dev.hbmBytes / pageBytes) := by
  decide +kernel
/-- An answered access, of a transfer of each kind: the line of a get, of a put's last word in a window, and a copy's read. -/
def backAcc : DmaAccess := { DmaAccess.init with done := true, data := some [] }
def backDev (k : MacroKind) (h : Nat) (err : Byte) (a : DmaAccess) : Run :=
  { copyRun with macro_ := { Macro.init with kind := k, dc := { parseDesc 3 (one 0x200 0 0) with bight := h } }, err := err, flight := [a] }
theorem witness_MemoryRules_dma_back : ∀ e ∈ [backDev .dmGet 0 0 backAcc, backDev .dmGet 0 0 { backAcc with status := 9 }, backDev .dmGet 0 3 backAcc,
      backDev .dmGet 0 0 { backAcc with src := 0xF00000000300, len := 64 }, backDev .dmPut 0 0 { backAcc with dst := 0xF00002000300, len := 63 },
      backDev .dmMput 1 0 backAcc, backDev .dmMput 0 0 backAcc, backDev .dmMcopy 0 0 { backAcc with done := false, left := 1 }],
    let x := ((dmaDev e).tile 0).engine (dmaEng 0)
    let back (r : Run) (a : DmaAccess) : Bool := a.done || (r.macro_.kind == .dmMcopy && a.left == 1 && a.data.isSome)
    ((List.range x.run.length).find? fun i => (x.run[i]?.map fun r => r.flight.any (back r)).getD false) = some 0 ∧ x.run[0]? = some e ∧
      e.flight.find? (back e) = e.flight.head? := by decide +kernel
theorem witness_MemoryRules_dma_kinds :
    ((backDev .dmGet 0 0 backAcc).macro_.dmaWrite = true ∧ backAcc.windowRead (backDev .dmGet 0 0 backAcc).macro_ = none) ∧
    ({ backAcc with src := 0xF00000000300, len := 64 } : DmaAccess).windowRead (backDev .dmGet 0 0 backAcc).macro_ = some 0xF00000000300 ∧
    ({ backAcc with dst := 0xF00002000300, len := 63 } : DmaAccess).windowRead (backDev .dmPut 0 0 backAcc).macro_ = some 0xF00002000300 ∧
    (backDev .dmMput 1 0 backAcc).macro_.bightDst = true ∧
    (backDev .dmMput 0 0 backAcc).macro_.dmaWrite = false ∧ (backDev .dmMput 0 0 backAcc).macro_.bightDst = false := by decide +kernel
/-- A partition of 40 READ slots: a slot of its own, the last of them taken, nobody's, and one of a partition without a share. -/
def sSlot (n : Nat) : Dev × MemChan :=
  ((regs [(MEM_P_RANGE_VALID 1 0, 1), (MEM_P_RANGE_COUNT 1 0, 4), (MEM_P_SPLIT_READ 1, 40)]).dev,
    { MemChan.init with frame := List.replicate n (some (1, .read)), pos := n })
theorem witness_MemoryRules_owner : (sSlot 39).1.slotIs (sSlot 39).2 (some (1, .read)) = true ∧ (sSlot 40).1.slotIs (sSlot 40).2 (some (1, .read)) = false ∧
    (sSlot 40).1.slotIs (sSlot 40).2 none = true ∧ (sSlot 40).1.slotIs (sSlot 40).2 (some (2, .read)) = false ∧
    ((sSlot 39).2.passSlot (some (1, .read))).pick (some (1, .read)) = none ∧
    (let x : MemAccess := { MemAccess.init with part := 1, stream := .read, left := 2 }
     ∀ o ∈ [some ((1 : PartId), StreamId.read), some (1, .write)],
       (({ (sSlot 39).2 with queue := [x] } : MemChan).passSlot (o.map fun y => (y.1.val, y.2))).pick o = some 0) := by decide +kernel
theorem witness_MemoryRules_refresh : (let x : MemAccess := { MemAccess.init with part := 1, left := 2 }
     ({ MemChan.init with queue := [x] } : MemChan).queue = [x] ∧ x.refresh = false) := by decide

/-! ### Security -/

theorem witness_SecurityCalls : callOf (.challenge (msg 8) 3 false) = some (msg 8, 3, .challenge, false) ∧
    callOf (.getCert (msg 12) 3 0 true) = some (msg 12, 3, .getCert 0, true) ∧
    Served (net 2 .owner []) (msg 8) true (earlyCall (callOp (msg 8) .challenge)) (callLen (msg 8) (callOp (msg 8) .challenge)) ∧
    (let d := (net 2 .owner []).inTurn (msg 8) true
     d.sec.restarting = false ∧ d.ctxKind 5 = 2 ∧ d.secOwner 5 = true ∧ d.secCovers 5 1 = true ∧ d.sec.aliasDigest = [] ∧ (d.part 1).ekSerial = (d.part 1).ekSerial) ∧
    ((net 2 .none []).inTurn msgHdr true).secOwner 5 = false ∧ ((net 2 .none []).inTurn msgHdr true).secCovers 5 1 = false :=
  ⟨rfl, rfl, ⟨⟨rfl, rfl, rfl, rfl, rfl, rfl⟩, fun _ => rfl, rfl, rfl, rfl, rfl, .inl rfl⟩, by decide +kernel, by decide +kernel, by decide +kernel⟩
/-- A call of OP 0x55, and the LEN of each operation at a boundary value of its body. -/
theorem witness_SecurityCalls_len : let h := { msg 24 with otherOp := some 0x55 }
    callOp h .challenge = .other 0x55 ∧ callLen h (callOp h .challenge) = true ∧ Served (net 2 .owner []) h true (earlyCall (.other 0x55)) (callLen h (.other 0x55)) ∧
    ∀ o ∈ [SecOp.challenge, .bind 1 0 [] true, .attest 1 [], .getCert 4, .getDigests 1 0, .kemGet 1, .secretPut ⟨1, 1, 0, 0, none⟩, .enroll 1 0 [] [] true,
      .commitSvn, .flashErase 0 0, .flashWrite 0 [], .other 0x55],
      8 + (secBody o).getD 0 ≤ 8192 ∧ callLen (msg (8 + (secBody o).getD 0)) o = true :=
  ⟨rfl, rfl, ⟨⟨rfl, rfl, rfl, rfl, rfl, rfl⟩, fun _ => rfl, rfl, rfl, rfl, rfl, .inl rfl⟩, by decide⟩
/-- SEC restarts, with 63 calls and with 64 waiting. -/
theorem witness_SecurityCalls_waits : ∀ n ∈ [63, 64],
    let d : Dev := { net 2 .owner [] with sec := { Sec.init with restarting := true, calls := List.replicate n Waiting.init } }
    d.sec.restarting = true ∧ d.sec.calls.length = n := by decide +kernel
theorem witness_SecurityCalls_waits_served :
    Served { net 2 .owner [] with sec := { Sec.init with restarting := true } } (msg 8) true (earlyCall .challenge) (callLen (msg 8) .challenge) :=
  ⟨⟨rfl, rfl, rfl, rfl, rfl, rfl⟩, fun _ => rfl, rfl, rfl, rfl, rfl, .inl rfl⟩
/-- Context 5 holds a challenge; the owner's fused digest is that of a key. -/
theorem witness_SecurityCalls_bind (pk : List Byte) :
    (((net 2 .none []).modCtx 5 fun x => { x with challenge := some [] }).ctx 5).challenge ≠ none ∧ ((net 2 .none []).ctx 5).challenge = none ∧
    ({ Fuses.init with owners := [sha3 pk] } : Fuses).ownerDigest = some (sha3 pk) ∧ Fuses.init.ownerDigest ≠ some (sha3 pk) :=
  ⟨(by decide +kernel), (by decide +kernel), rfl, fun h => by cases h⟩
/-- A partition whose TKEY is all zero has no tenant, and one in each state. -/
theorem witness_SecurityCalls_tkey : State.reset.dev.tkeyBytes 1 = zeros 64 ∧
    (∀ st ∈ [0, 1, 2], (regs [(PART_P_STATE_STATE 1, st)]).dev.partState 1 = st) := by decide +kernel
/-- Any digest can be a partition's TKEY. -/
theorem witness_SecurityCalls_tkey_held : ((List.range 8).foldl (fun (d : Dev) k => d.set (PART_P_TKEY_V 1 k) (fieldAt (List.range 64 |>.map fun i => (BitVec.ofNat 8 (i + 1))) (8 * k) 8))
    Dev.init).tkeyBytes 1 = (List.range 64).map fun i => BitVec.ofNat 8 (i + 1) := by decide +kernel
theorem witness_SecurityCalls_flash : let z := bootBase * max 1 Config.flashSector
    bootBase - 1 < bootBase ∧ bootBase ≤ z ∧ z + 0 * Config.flashSector ≤ ({ Fuses.init with flashSize := z } : Fuses).flashSize ∧
    z % max 1 Config.flashSector = 0 := by
  refine ⟨by decide, Nat.le_mul_of_pos_right _ (by omega), by simp, Nat.mul_mod_left ..⟩
def putMsg (serial : Nat) (b : Option (List Byte)) : SecretMsg := { kind := 1, part := 1, index := 0, ekSerial := serial, secret := b }
theorem witness_SecurityCalls_secret : 1 ≤ (putMsg 1 none).kind ∧ (putMsg 1 none).kind ≤ 2 ∧ (putMsg 1 none).part.val ≠ 0 ∧
    (putMsg (State.reset.dev.part 1).ekSerial none).ekSerial = (State.reset.dev.part 1).ekSerial ∧ (putMsg 0x99 none).ekSerial ≠ (State.reset.dev.part 1).ekSerial ∧
    (putMsg 1 none).secret = none ∧ (regs [(PART_P_STATE_STATE 1, 1)]).dev.secretFits (putMsg 1 (some (zeros 32))) = true ∧
    State.reset.dev.secretFits (putMsg 1 (some (zeros 32))) = false := by decide +kernel
/-- Slots 3 and 4 of the owners; a partition in use; an owner whose key is known. -/
theorem witness_SecurityCalls_enroll (pk : List Byte) : (List.replicate 3 (sha3 pk)).length < 4 ∧ 4 ≤ (List.replicate 4 (sha3 pk)).length ∧
    ({ Fuses.init with owners := List.replicate 4 (sha3 pk) } : Fuses).ownerDigest = some (sha3 pk) ∧
    (∀ p ∈ allParts, State.reset.dev.partState p = 0) ∧ (∃ p ∈ allParts, (regs [(PART_P_STATE_STATE 15, 1)]).dev.partState p ≠ 0) :=
  ⟨by simp, by simp, rfl, by decide +kernel, by decide +kernel⟩
theorem witness_SecurityCalls_secret_up : ∀ st ∈ [1, 2], let d := ((net 2 .owner [(PART_P_STATE_STATE 1, st)]).inTurn (msg 8) true)
    d.partState 1 = st ∧ d.secCovers 5 1 = true ∧ (d.newKem 1).secretFits (putMsg 1 (some (zeros 32))) = true ∧
    (d.newKem 1).secretFits { putMsg 1 (some (zeros 32)) with index := 1 } = false := by decide +kernel

/-! ### Reset, boot and start-up -/

theorem witness_Resets : State.reset.dev.pins.resetN = true ∧ State.reset.dev.inReset = false ∧ State.reset.dev.stopped = false ∧
    ({ Dev.init with stopped := true } : Dev).stopped = true ∧
    (∀ b, ({ Dev.init with inReset := true, stopped := b, pins := { Pins.init with resetN := false } } : Dev).pins.resetN = false) := by
  decide +kernel
theorem witness_BootStates : (∀ st ∈ [0, 1, 2, 3, 4, 5, 6], (regs [(SEC_BOOT_STATUS_STATE, st)]).dev.live = true ∧
      (regs [(SEC_BOOT_STATUS_STATE, st)]).dev.get SEC_BOOT_STATUS_STATE = st) ∧
    State.reset.dev.get DMC_STATUS_STAGE = 0 ∧ (regs [(DMC_STATUS_STAGE, 1)]).dev.get DMC_STATUS_STAGE ≠ 0 ∧
    (∀ b, ({ (regs [(DMC_RESET_CAUSE, 1)]).dev with bootFetch := some b } : Dev).fetchesHost = b) ∧
    (({ Dev.init with fuses := { Fuses.init with flashSize := 0 } } : Dev).fuses.flashSize = 0) ∧
    (({ Dev.init with fuses := { Fuses.init with flashSize := 2 ^ 26 } } : Dev).fuses.flashSize ≠ 0) := by decide +kernel
/-- A blank flash has no header. -/
theorem witness_BootStates_header : let d : Dev := { (regs [(SEC_BOOT_STATUS_STATE, 1)]).dev with fuses := { Fuses.init with flashSize := 2 ^ 26, flash := [] } }
    d.bootHeader (d.flashRead bootBase 128) ≠ 0 := by decide +kernel
theorem witness_BootStates_checks : State.reset.dev.bootChecks [] false ≠ 0 := by decide +kernel
/-- An image of two empty frames, controller's and tiles', without its digest and signature; with them (the digest as a program outside
this package computes it, SHA3-512 of the body). -/
def bootBody : List Byte :=
  leBytes 8 0x544F4F424E594C50 ++ leBytes 2 1 ++ leBytes 2 0x504C ++ leBytes 2 0x256 ++ zeros 2 ++ leBytes 4 1 ++ zeros 8 ++ leBytes 4 2 ++ leBytes 8 7475 ++
  zeros 88 ++ leBytes 2 1 ++ zeros 6 ++ leBytes 8 192 ++ zeros 16 ++ leBytes 2 2 ++ zeros 6 ++ leBytes 8 192 ++ zeros 16
def bootImage : List Byte := bootBody ++ leBytes 64
  0x1F6B9CF7497C201651F35DE2AF11D8A8039E8DAEDA0C57A8D0F915CE774CF2EFAE44D47AD39294435D0F94A39AA3FADA668014914E194A2D57F5DD48A0825196 ++ zeros 7219
/-- The fused image key signed it. -/
theorem witness_BootStates_accepted : let d : Dev := { Dev.init with fuses := { Fuses.init with imgKeys := [bootSigner bootImage] } }
    d.bootChecks bootImage true = 0 := by
  intro d
  have h1 : bootTableOk bootImage = true := by decide +kernel
  have h2 : (slice bootImage (bootLength bootImage - 7283) 64 != bootDigest bootImage) = false := by decide +kernel
  have h3 : d.fuses.imgKeys.getLast? = some (bootSigner bootImage) := rfl
  by_cases h : bootSigner bootImage = romDigest 0 <;> simp [Dev.bootChecks, Dev.ownerSigned, h1, h2, h3, h]
/-- Its header passes, and a flash of just its end holds it. -/
theorem witness_BootStates_flash : let cells (b : List Byte) := cwrite [] bootBase (b.map fun x => x ^^^ 0xFF)
    let d (size : Nat) : Dev := { (regs [(SEC_BOOT_STATUS_STATE, 1)]).dev with fuses := { Fuses.init with flash := cells (bootBody.take 128), flashSize := size } }
    (∀ size ∈ [bootBase + 7475, bootBase + 7474], (d size).bootHeader ((d size).flashRead bootBase 128) = 0 ∧ (d size).fuses.flashSize ≠ 0 ∧
      (bootBase + bootLength ((d size).flashRead bootBase 128) ≤ (d size).fuses.flashSize ↔ size = bootBase + 7475)) := by decide +kernel
/-- WAITING, and LOADING from context 5 with 2 bytes so far. -/
def bootDev (st : Nat) : Dev :=
  let d := net 2 .none []
  { (d.set SEC_BOOT_STATUS_STATE st) with sec := { d.sec with bootCtx := some 5, bootImg := [1, 2] } }
theorem witness_BootStates_stream : (∀ st ∈ [2, 3, 4], ∀ n ∈ [8, 18], Served (bootDev st) (msg n) true true (hasLen (msg n) n) ∧
      ((bootDev st).inTurn (msg n) true).get SEC_BOOT_STATUS_STATE = st) ∧
    ((bootDev 3).inTurn (msg 18) true).sec.bootCtx = some 5 ∧ ((bootDev 3).inTurn (msg 18) true).sec.bootImg.length = 2 ∧ (0 : PartId).val = 0 := by
  refine ⟨?_, by decide +kernel, by decide +kernel, rfl⟩
  intro st hs n hn
  simp only [List.mem_cons, List.not_mem_nil, or_false] at hs hn
  obtain rfl | rfl | rfl := hs <;> obtain rfl | rfl := hn <;>
    exact ⟨⟨⟨rfl, rfl, rfl, rfl, rfl, rfl⟩, fun _ => rfl, rfl, rfl, rfl, rfl, .inr rfl⟩, rfl⟩
/-- This context's bytes while context 6 streams. -/
theorem witness_BootStates_other : let d : Dev := { bootDev 3 with sec := { (bootDev 3).sec with bootCtx := some 6 } }
    Served d (msg 18) true true (hasLen (msg 18) 18) ∧ (d.inTurn (msg 18) true).sec.bootCtx ≠ some 5 :=
  ⟨⟨⟨rfl, rfl, rfl, rfl, rfl, rfl⟩, fun _ => rfl, rfl, rfl, rfl, rfl, .inr rfl⟩, by decide +kernel⟩
theorem witness_StartUp_training : State.reset.dev.get DMC_STATUS_STAGE ≠ 2 ∧
    (∀ k ∈ [false, true], (((regs [(DMC_STATUS_STAGE, 2), (DMC_DUTY_STATE_EFFECTIVE, boolBit k * 2 ^ 5)]).dev).applyPend 5).duty 5 = k) ∧
    (∃ u : Fin 20, (regs [(unitState 19, 1)]).dev.get (unitState u.val) = 1) ∧ (∃ u : Fin 20, (regs [(unitState 19, 2)]).dev.get (unitState u.val) = 2) ∧
    (∀ u : Fin 20, (regs ((List.range 20).map fun u => (unitState u, 3))).dev.get (unitState u.val) ≠ 1 ∧
      (regs ((List.range 20).map fun u => (unitState u, 3))).dev.get (unitState u.val) ≠ 2) := by decide +kernel
theorem witness_StartUp_survey : (let e := Dev.init.w1c SRV_CTRL_REFUSED 1
      e.is SRV_STATUS_RUNNING = false ∧ (e.applyPend 9).is SRV_STATUS_RUNNING = false ∧ (e.applyPend 9).dmcDown = false ∧ (e.applyPend 9).duty 9 = false) ∧
    ((regs [(SRV_STATUS_RUNNING, 1)]).dev.w1c SRV_CTRL_REFUSED 1).is SRV_STATUS_RUNNING = true ∧
    (regs [(DMC_STATUS_RESTARTING, 1)]).dev.dmcDown = true ∧ (regs [(DMC_STATUS_STOPPED, 1)]).dev.dmcDown = true ∧
    ((regs [(DMC_DUTY_STATE_EFFECTIVE, 2 ^ 9)]).dev.applyPend 9).duty 9 = true ∧
    (regs [(DMC_STATUS_READY, 1)]).dev.is DMC_STATUS_READY = true ∧ (regs [(DMC_STATUS_READY, 1)]).dev.survey.second = false := by decide +kernel
theorem witness_StartUp_rest : State.reset.dev.survey.spdBusy = false ∧
    ({ Dev.init with survey := { SurveyUnit.init with spdBusy := true } } : Dev).survey.spdBusy = true ∧
    (regs [(DMC_STATUS_STAGE, 2)]).dev.pastBoot = true ∧ (regs [(DMC_STATUS_STAGE, 1)]).dev.pastBoot = false ∧ State.reset.dev.dmcDown = false ∧
    (regs [(DMC_STATUS_RESTARTING, 1)]).dev.is DMC_STATUS_RESTARTING = true := by decide +kernel
/-- A survey that runs, with the controller restarting and not, and the start-up's under the host. -/
theorem witness_StartUp_done : (∀ b ∈ [false, true], (regs [(SRV_STATUS_RUNNING, 1), (DMC_STATUS_RESTARTING, boolBit b)]).dev.is SRV_STATUS_RUNNING = true ∧
      (regs [(SRV_STATUS_RUNNING, 1), (DMC_STATUS_RESTARTING, boolBit b)]).dev.dmcDown = b) ∧
    (∀ b ∈ [false, true], (regs [(DMC_DUTY_STATE_EFFECTIVE, boolBit b * 2 ^ 9)]).dev.is SRV_STATUS_RUNNING = false ∧
      (regs [(DMC_DUTY_STATE_EFFECTIVE, boolBit b * 2 ^ 9)]).dev.duty 9 = b) := by decide +kernel

/-! ### The meter -/

theorem witness_MeterCommands : (({ Meter.init with powered := true } : Meter).powered = true) ∧ (({ Meter.init with powered := false } : Meter).powered = false) ∧
    (let d : Dev := { Dev.init with fuses := { Fuses.init with interval := 1 } }
     ({ Meter.init with samples := 1000000 } : Meter).atInterval d = true ∧ ({ Meter.init with samples := 999999 } : Meter).atInterval d = false ∧
     (∀ n ∈ [0, 1000000], ({ Meter.init with samples := n } : Meter).samples = n) ∧ 0 < d.fuses.interval * 1000000) ∧
    (999999 + 1) % 1000000 = 0 ∧ (0 + 1) % 1000000 ≠ 0 := by decide +kernel
theorem witness_MeterCommands_start : ({ Meter.init with samples := 1000000 } : Meter).start ≠ ({ Meter.init with samples := 1000000 } : Meter).ticks ∧
    Meter.init.start = Meter.init.ticks ∧ Meter.init.start ≠ (Meter.init.goTo 1000000).ticks := by
  decide +kernel
theorem witness_MeterCommands_deliver : let d := net 2 .owner [(NOP_PUSH_VALID, 1), (NOP_PUSH_CTX, 5)]
    let m : Meter := { Meter.init with records := [(0, { MRec.init with seq := 4 })] }
    d.live = true ∧ d.nop.meterSent = [] ∧ (d.applyPend 11).duty 11 = false ∧ (d.applyPend 11).pushReady = true ∧
    ((d.applyPend 11).ctx ((d.applyPend 11).get NOP_PUSH_CTX)).cred = .owner ∧ (∃ x, m.undelivered (d.applyPend 11).nop.meterNext = some x) ∧
    Meter.init.undelivered 0 = none ∧ ({ d with nop := { NopUnit.init with meterSent := [3] } } : Dev).nop.meterSent ≠ [] := by
  refine ⟨by decide +kernel, by decide +kernel, by decide +kernel, by decide +kernel, by decide +kernel, ⟨_, rfl⟩, by decide +kernel, by decide +kernel⟩

/-! ### Sparing and repair -/

/-- After `SPR_CMD` has been written. -/
def sprDev (d : Dev) (kind target line : Nat) : Dev :=
  (((d.set SPR_CMD_TARGET target).set SPR_CMD_LINE line).set SPR_CMD_KIND kind).w1c SPR_CMD_REFUSED (sprCmd kind target line)
theorem witness_SpareCommands_tile : (∀ b, ((sprDev (withTile { Tile.init with fenced := b } []).dev 15 0 0).tile 0).fenced = b) ∧
    (sprDev Dev.init 1 0 0).spare.shift = none ∧ (sprDev Dev.init 1 0 0).spareFree (spareFor 0) = true ∧
    (sprDev { Dev.init with spare := { SpareUnit.init with shift := some Shift.init } } 1 0 0).spare.shift.isSome = true ∧
    (sprDev Dev.init 2 0 0).spare.arrayFaults.filter (fun e => e.1 == 0) = [] ∧
    (sprDev { Dev.init with spare := { SpareUnit.init with arrayFaults := [(0, true, 3)] } } 2 0 0).spare.arrayFaults.filter (fun e => e.1 == 0) ≠ [] := by
  decide +kernel
/-- Lines at the end of the bight, and a bank with 31 and with 32 repairs. -/
theorem witness_SpareCommands_line : (98303 < 98304) ∧ (98304 ≤ 98304) ∧
    (∀ n ∈ [31, 32], let t := (sprDev (withTile { Tile.init with lineRepairs := (List.range n).map fun i => (1000000 + i, bankOf false 98303) } []).dev 3 0 98303).tile 0
      (t.lineRepairs.any fun e => e.1 == 98303) = false ∧ (t.lineRepairs.filter fun e => e.2 == bankOf t.hashed 98303).length = n) := by decide +kernel
theorem witness_SpareCommands_rest : (let x := sprDev Dev.init 4 31 0
     x.laneTarget 31 = 31 * 2048 ∧ (x.dropNeed 4 31 0).groupTaken (laneGroup (31 * 2048)) = false) ∧
    (let x := sprDev Dev.init 6 19 65535
     (x.mem.rowBufs.filter (·.1 == 19)).length + (x.mem.rowCopy.filter (·.1 == 19)).length < rowRoom 19 ∧ (19, 65535) ∉ x.mem.rowBufs ∧
       (19, 65535) ∉ x.mem.rowCopy) ∧
    (let x := sprDev { Dev.init with mem := { MemUnit.init with rowBufs := (List.range (rowRoom 0)).map fun i => (0, i) } } 6 0 9
     rowRoom 0 ≤ (x.mem.rowBufs.filter (·.1 == 0)).length + (x.mem.rowCopy.filter (·.1 == 0)).length) ∧ isOwner .owner = true ∧ isOwner .none = false := by
  decide +kernel
/-- A lane that waits in a group whose spare is free and in one whose spare is used; a line and a row that hold a bad word. -/
theorem witness_SpareCommands_taken : (∀ e ∈ [([], false), ([(31 * 128 + 1, 1)], true)],
      let x := sprDev { Dev.init with spare := { SpareUnit.init with needs := [(4, 31, 17)], lanesUsed := e.1 } } 4 31 0
      x.laneTarget 31 = 31 * 2048 + 17 ∧ (x.dropNeed 4 31 (x.laneTarget 31 % 2048)).groupTaken (laneGroup (x.laneTarget 31)) = e.2) ∧
    ((sprDev (withTile { Tile.init with bad := [256 * 7 + 8] } []).dev 3 0 7).tile 0).lineBad 7 = true ∧
    ((sprDev Dev.init 3 0 7).tile 0).lineBad 7 = false ∧ (sprDev Dev.init 6 0 9).rowBad 0 9 = false := by decide +kernel
theorem witness_SpareCommands_row_bad (d : Dev) : let x : Dev := { d with mem := { d.mem with bad := [5] } }
    x.rowBad (x.unitAt 1280) (x.rowAt 1280) = true := by simp [Dev.rowBad]
theorem witness_SpareCommands_hbm : let x := sprDev { Dev.init with mem := { MemUnit.init with replaced := [(3, Config.hbmSpares 3)] } } 5 3 0
    Config.hbmSpares 3 ≤ x.get (HBM_S_STATUS_LANES 3) + mget x.mem.replaced 0 3 := Nat.le_add_left ..
theorem witness_SpareCommands_port : (∀ n ∈ [1, 16], 1 ≤ n ∧ n ≤ 16) ∧ (sprDev (regs [(ETH_P_STATUS_STATE 17, 4), (ETH_FAILOVER_SERVING, 31)]).dev 7 3 0).vReady = true ∧
    (sprDev (regs [(ETH_P_STATUS_STATE 17, 4), (ETH_FAILOVER_SERVING, 31)]).dev 7 3 0).ethState 3 ≠ ethUp ∧ (sprDev Dev.init 7 3 0).vReady = false := by decide +kernel
/-- A shift for tile 3, of the segment of one tile, in a state of R507; its partition's region runs. -/
def shiftDev (st : Nat) (x : Shift) (more : List (RF × Nat)) : Dev :=
  { (([(SPR_ACTION_STATE, st), (SPR_ACTION_TARGET, 3), (PART_P_RSTATUS_STATE 1, 5)] ++ more).foldl (fun (d : Dev) e => d.set e.1 e.2) Dev.init) with
    tiles := [(3, { Tile.init with part := 1 })], spare := { SpareUnit.init with shift := some x } }
def shift3 : Shift := { Shift.init with target := 3 }
theorem witness_Shifts : State.reset.dev.spare.shift = none ∧ (∀ st ∈ [1, 2, 3, 4], (shiftDev st shift3 []).live = true ∧ (shiftDev st shift3 []).spare.shift = some shift3 ∧
      (shiftDev st shift3 []).shiftState = st) ∧
    (shiftDev 1 shift3 []).shiftBlock 3 = none ∧ (shiftDev 1 { shift3 with target := 19 } []).shiftBlock 19 = some 1 ∧ (3 : Nat) < 256 := by decide +kernel
/-- The region is put on HOLD late, is quiet with nothing outstanding, and is not with one request outstanding. -/
theorem witness_Shifts_quiet : ∀ e ∈ [(0, true), (1, false)], let d := shiftDev 2 { shift3 with zeroAt := some 5 } [(ADM_P_STATUS_OUTSTANDING 1, e.1)]
    (d.tile 3).part = 1 ∧ d.regionState 1 = 5 ∧ d.is (ADM_P_CTRL_HOLD 1) = false ∧ d.shiftIsQuiet shift3 = e.2 ∧
    (d.flag (ADM_P_CTRL_HOLD 1) true).shiftIsQuiet shift3 = e.2 ∧ (d.flag (ADM_P_CTRL_HOLD 1) true).is (ADM_P_CTRL_HOLD 1) = true := by decide +kernel
theorem witness_Shifts_copy : (3 : TileId).val ∈ segment 3 ∧ ((shiftDev 3 shift3 []).tile 3).part ≠ 0 ∧ ¬ (shift3.fenced = true ∧ (3 : TileId).val = 3) ∧
    (4 : TileId).val ∉ segment 3 ∧ (∀ f ∈ [true, false],
      (({ shiftDev 4 shift3 [] with regions := [(1, { Region.init with timed := true, detour := f })] } : Dev).shiftSlow shift3) = !f) := by decide +kernel
/-- A copy that meets a bad word of the shifted tile: a known one, or the one that the command names; and one of another segment. -/
theorem witness_Shifts_copy_bad : ∀ e ∈ [([], none, none), ([0x40], none, some 3), ([], some (3 : TileId), some 3), ([], some 4, none)],
    let d := (shiftDev 3 shift3 []).modTile 3 fun t => { t with bad := e.1 }
    d.shiftState = 3 ∧ ((segment 3).find? fun m => d.copySource shift3 m && (e.2.1.map (·.val) == some m || !(d.tile m).bad.isEmpty)) = e.2.2 := by
  decide +kernel
/-- In hardware mode a restart of the controller holds a shift up; under SPARING 1 it does not. -/
theorem witness_Shifts_waits : ∀ e ∈ [(0, 0, false), (0, 1, true), (1, 1, false)],
    (shiftDev 2 shift3 [(DMC_DUTY_STATE_EFFECTIVE, e.1 * 2 ^ 4), (DMC_STATUS_RESTARTING, e.2.1)]).shiftWaits = e.2.2 ∧
    (shiftDev 2 shift3 [(DMC_DUTY_STATE_EFFECTIVE, e.1 * 2 ^ 4), (DMC_STATUS_RESTARTING, e.2.1)]).shiftIsQuiet shift3 = true := by decide +kernel
theorem witness_Repairs : (3, 9) ∉ State.reset.dev.mem.rowCopy ∧
    (∀ n ∈ [0, rowRoom 3 - 1], let d : Dev := { Dev.init with mem := { MemUnit.init with rowCopy := [(3, 9)], rowBufs := (List.range n).map fun i => (3, 100 + i) } }
      (3, 9) ∈ d.mem.rowCopy ∧ (((d.mem.rowBufs ++ [((3 : Nat), (9 : Nat))]).filter fun e => e.1 == 3).length = rowRoom 3 ↔ n ≠ 0)) ∧
    (State.reset.dev.spare.laneWait.find? fun l => laneLink l == 31) = none ∧
    (({ Dev.init with spare := { SpareUnit.init with laneWait := [5, 31 * 2048 + 2047] } } : Dev).spare.laneWait.find? fun l => laneLink l == 31) =
      some (31 * 2048 + 2047) := by decide +kernel
/-- Rows of tile 0: one mapped, one waiting, and the third, under either map. -/
theorem witness_Repairs_array : (State.reset.dev.tile 0).mx.busy = false ∧ ((withTile { Tile.init with mx := { Engine.init with run := [Run.init] } } []).dev.tile 0).mx.busy = true ∧
    (let t : Tile := { Tile.init with badRows := [4], repairWait := [(true, 7)] }
     4 ∈ t.badRows ∧ 9 ∉ t.badRows ∧ ((t.repairWait.filter fun e => e.1 == true).map (·.2)) = [7] ∧ 2 ≤ t.badRows.length + 1) ∧
    (∀ b ∈ [false, true], (regs [(DMC_DUTY_STATE_EFFECTIVE, boolBit b * 2 ^ 4)]).dev.duty 4 = b) := by decide +kernel
theorem witness_Repairs_given : (∀ n ∈ [0, rowRoom 3 - 1],
      let d : Dev := { Dev.init with mem := { MemUnit.init with rowCopy := [(3, 9)], rowGiven := [(3, 9)], rowBufs := (List.range n).map fun i => (3, 100 + i) } }
      (3, 9) ∈ d.mem.rowCopy ∧ (3, 9) ∈ d.mem.rowGiven) ∧ (3, 9) ∉ State.reset.dev.mem.rowGiven ∧ State.reset.dev.sparesItself = true ∧
    (regs [(DMC_DUTY_STATE_EFFECTIVE, 2 ^ 4)]).dev.sparesItself = false ∧ (regs [(DMC_STATUS_RESTARTING, 1)]).dev.sparesItself = false := by decide +kernel
theorem witness_Upkeep : State.reset.dev.is (FLT_WALKER_STOPPED 7) = false ∧ (regs [(FLT_WALKER_STOPPED 7, 1)]).dev.is (FLT_WALKER_STOPPED 7) = true ∧
    State.reset.dev.walkersUp 7 = true ∧ (regs [(FLT_WALKER_STOPPED 6, 1)]).dev.walkersUp 7 = false ∧
    (∀ b, ({ Walker.init with moved := b } : Walker).moved = b) ∧ 67 % 128 < 68 ∧ 68 ≤ 68 % 128 := by decide +kernel
/-- A scrub command by the host, of no line and of one. -/
theorem witness_Upkeep_scrub : ∀ n ∈ [0, 1], let g := setBits (n * 2 ^ FLT_SCRUB_CMD_COUNT.lo) 62 62 1
    let d := (regs [(DMC_DUTY_STATE_EFFECTIVE, 2 ^ 3)]).dev
    let y := (((d.take FLT_SCRUB_CMD_TIER g).take FLT_SCRUB_CMD_TILE g).take FLT_SCRUB_CMD_FIRST g).take FLT_SCRUB_CMD_COUNT g
    y.duty 3 = true ∧ y.scrub.cmd = none ∧ y.get FLT_SCRUB_CMD_TIER ≠ 3 ∧
    ((y.scrubRange (y.get FLT_SCRUB_CMD_TIER) (y.get FLT_SCRUB_CMD_FIRST) (y.get FLT_SCRUB_CMD_COUNT)).2 = 0 ↔ n = 0) ∧ State.reset.dev.duty 3 = false := by
  decide +kernel
theorem witness_Upkeep_ageing : (State.reset.dev.hosted 0).isSome = true ∧ (∃ ph, ph < 68 ∧ isSpare ph = true ∧ State.reset.dev.hosted ph = none) ∧
    0 < State.reset.dev.get SPR_CFG_ADVISE_PS := by
  refine ⟨by decide +kernel, by decide +kernel, by decide +kernel⟩
theorem witness_Upkeep_fault : (∀ e ∈ [0, 3], let d := (regs [(PWR_STATUS_STATE, e), (SPR_CFG_FAULT_LEVEL, 3)]).dev.toTick State.reset.dev.power.faultUntil
    (decide (d.get SPR_CFG_FAULT_LEVEL ≤ d.get SPR_STATUS_LEVEL ∨ d.get PWR_STATUS_STATE = 3 ∨ d.tick < d.power.faultUntil)) = (e == 3)) := by decide +kernel

/-! ### Power and heat -/

theorem witness_PowerControl : isOwner .owner = true ∧ isOwner (.tenant 1) = false ∧ (∀ e ∈ [(2, true), (3, false)],
      decide (PWR_ENVELOPE_REQ.of (e.1 * 2 ^ PWR_ENVELOPE_REQ.lo) < 3) = e.2) ∧
    (let d := (regs [(PWR_ENVELOPE_AUTO, 1), (PWR_ENVELOPE_ARRAY, 0), (PWR_ENVELOPE_CAP, 0)]).dev
     d.is PWR_ENVELOPE_AUTO = true ∧ modeLimit (d.get PWR_ENVELOPE_ARRAY) < 10000000 ∧ d.get PWR_ENVELOPE_CAP < 2 ∧ d.power.capStep ≤ d.get PWR_ENVELOPE_ARRAY) ∧
    (regs [(PWR_ENVELOPE_AUTO, 0)]).dev.is PWR_ENVELOPE_AUTO = false ∧ ¬ (regs [(PWR_ENVELOPE_CAP, 2)]).dev.get PWR_ENVELOPE_CAP < 2 := by decide +kernel
theorem witness_PowerControl_rise : State.reset.dev.power.coolSince = none ∧ (∀ w ∈ [0, 10000000],
    let d : Dev := { (regs [(PWR_ENVELOPE_CAP, 1)]).dev with power := { PowerUnit.init with coolSince := some 5, avg := w } }
    d.power.coolSince = some 5 ∧ (d.toTick (5 + tenSeconds)).capCool = (w == 0)) := by decide +kernel
/-- The worst margin below, at, just under 10 ps above and 10 ps above its target. -/
theorem witness_PowerControl_avs : State.reset.dev.pastBoot = false ∧ (∀ m ∈ [29, 30, 39, 40],
    let d : Dev := { (regs [(DMC_STATUS_STAGE, 2), (PWR_AVS_EN, 1), (PWR_AVS_TARGET_PS, 30)]).dev with tick := 105000000, power := { PowerUnit.init with margins := [(0, m)] } }
    d.pastBoot = true ∧ d.is PWR_AVS_EN = true ∧ d.marginM = some m ∧ d.get PWR_AVS_TARGET_PS = 30 ∧ d.power.avsAt + 100 * msLen ≤ d.tick) ∧
    (regs [(PWR_AVS_EN, 0)]).dev.is PWR_AVS_EN = false ∧ ({ Dev.init with power := { PowerUnit.init with margins := [] } } : Dev).marginM = none := by decide +kernel
/-- One sensor at 105 °C twice running trips; one reading each of the states is not enough. -/
theorem witness_ThermalControl : State.reset.dev.live = true ∧
    (let e := (({ Dev.init with power := { PowerUnit.init with trip := [(3, 1)] } } : Dev).readSensors [(3, 420)]).showTemps
     ∃ q ∈ e.power.trip, 2 ≤ q.2) ∧
    (let e := (Dev.init.readSensors []).showTemps
     ¬ ∃ q ∈ e.power.trip, 2 ≤ q.2) ∧ (regs [(PWR_STATUS_STATE, 1)]).dev.get PWR_STATUS_STATE = 1 ∧ (regs [(PWR_STATUS_STATE, 0)]).dev.get PWR_STATUS_STATE ≠ 1 ∧
    (regs [(PWR_ENVELOPE_AUTO, 1)]).dev.is PWR_ENVELOPE_AUTO = true := by decide +kernel
theorem witness_ThermalControl_cool : ∀ n ∈ [998, 999],
    let e := (({ (regs [(PWR_STATUS_STATE, 1)]).dev with power := { PowerUnit.init with below := n } } : Dev).readSensors []).showTemps
    e.get PWR_STATUS_STATE ≠ 0 ∧ (1000 ≤ e.power.below ↔ n = 999) ∧ (∀ k ∈ [1, 2, 3], e.hotFor k = none) := by decide +kernel
theorem witness_ThermalControl_telemetry : ∀ b ∈ [false, true],
    let d := (regs [(DMC_STATUS_STAGE, 2), (DMC_DUTY_STATE_EFFECTIVE, boolBit b * 2 ^ 10)]).dev
    d.dmcDown = false ∧ d.pastBoot = true ∧ ((d.toTick (d.power.telemAt + d.get PWR_TELEM_PERIOD * msLen)).applyPend 10).duty 10 = b := by decide +kernel

/-- The controller has stopped, with TELEMETRY 0 and 1. -/
theorem witness_ThermalControl_stopped : ∀ b ∈ [false, true],
    let d := (regs [(DMC_STATUS_STAGE, 2), (DMC_STATUS_STOPPED, 1), (DMC_DUTY_STATE_EFFECTIVE, boolBit b * 2 ^ 10)]).dev
    d.is DMC_STATUS_RESTARTING = false ∧
      (let e := (d.toTick (d.power.telemAt + d.get PWR_TELEM_PERIOD * msLen)).applyPend 10
       e.is DMC_STATUS_STOPPED = true ∧ e.duty 10 = b) := by decide +kernel
/-! ### Sidebands -/

/-- The edges of the two sets, byte 35 and the index that wraps. -/
theorem witness_Sidebands : State.reset.dev.live = true ∧ ([1, 2] : List Byte).length = 2 ∧ ([1] : List Byte).length ≠ 2 ∧ I3c.init.dyn = none ∧
    ({ I3c.init with dyn := some 8 } : I3c).dyn = some 8 ∧ (∀ k ∈ [0x3F, 0x40, 0xFF, 0x100, 0x22F, 0x230], (k + 0) % 2 ^ 16 = k) ∧ (65535 + 1) % 2 ^ 16 = 0 ∧
    (∀ b, ({ Pins.init with resetN := b } : Pins).resetN = b) ∧
    (regs [(DMC_STATUS_RESTARTING, 1)]).dev.is DMC_STATUS_RESTARTING = true ∧ ({ I3c.init with set1 := [0] } : I3c).set1 ≠ [] := by decide +kernel

end Sys2Proof.Tests
end

section
/-! PROOF. What a register access from outside the tiles does (R11 to R15, R22, R23), and the statement about it. -/

namespace Sys2Proof.Machine

/-- A read's outcome as the completion of a direct access (R22). -/
def ReadOut.completed (o : ReadOut) : Dev := o.dev.completed o.st o.val

variable (s : State) (d : Dev) (m : Meter) (cred : Cred)

/-! ### The meter does not notice a completed access -/

/-- Where the partition map, the sparing switches and the pins stay, the meter notices nothing (R475). -/
theorem State.metered_of_sameMap (e : Dev) (hmap : sameMap s.dev e) (hpins : e.pins = s.dev.pins) :
    s.metered e = { s with dev := e } := by
  have hmtr : s.mtr.observe s.dev e = s.mtr :=
    Meter.observe_same _ _ _ hmap (by simp [hpins]) (by simp [hpins])
  simp only [State.metered, hmtr]

/-- A completion on the bus leaves the partition map. -/
theorem sameMap_completed {d e : Dev} (st : Byte) (x : Nat) (h : sameMap d e) : sameMap d (e.completed st x) := h

/-- A field other than a partition's STATE leaves the partition map. -/
theorem sameMap_set (f : RF) (x : Nat) (h : ∀ p, (PART_P_STATE_STATE p).key ≠ f.key) : sameMap d (d.set f x) :=
  ⟨fun _ => rfl, fun p => by rw [Dev.partState, Dev.get_set_ne _ _ _ _ (h p.val), Dev.partState], rfl⟩

/-- The partition map is its own. -/
theorem sameMap_refl : sameMap d d := ⟨fun _ => rfl, fun _ => rfl, rfl⟩

/-- An access that changes nothing but the bus. -/
theorem State.metered_completed (st : Byte) (x : Nat) :
    s.metered (s.dev.completed st x) = { s with dev := s.dev.completed st x } :=
  s.metered_of_sameMap _ (sameMap_completed st x (sameMap_refl s.dev)) rfl

/-! ### The two commands -/

/-- REGISTER_WRITE on a device that runs. -/
theorem exec_registerWrite_live (addr width : Nat) (v : Word) (hl : s.dev.live = true) :
    exec (.registerWrite cred addr width v) s = .next (s.metered
      (if width ≠ 8 || addr % 8 ≠ 0 then s.dev.completed stUnmapped 0
      else ended (s.dev.access8Wr s.mtr cred addr v.toNat))) :=
  runRead_live (fun m d => if width ≠ 8 || addr % 8 ≠ 0 then d.completed stUnmapped 0
    else ended (d.access8Wr m cred addr v.toNat)) s hl

/-- READ_CLEAR on a device that runs. -/
theorem exec_readClear_live (addr width : Nat) (hl : s.dev.live = true) :
    exec (.readClear cred ⟨addr, width⟩) s = .next (s.metered
      (if width ≠ 8 || addr % 8 ≠ 0 then s.dev.completed stUnmapped 0
      else (s.dev.access8Rd s.mtr cred addr .ok).completed)) :=
  runRead_live (fun m d => if width ≠ 8 || addr % 8 ≠ 0 then d.completed stUnmapped 0
    else (d.access8Rd m cred addr .ok).completed) s hl

/-- A write of another width or alignment finds no register (R11). -/
theorem exec_registerWrite_unmapped {addr width : Nat} (v : Word) (hl : s.dev.live = true) (h : width ≠ 8 ∨ addr % 8 ≠ 0) :
    exec (.registerWrite cred addr width v) s = .next { s with dev := s.dev.completed stUnmapped 0 } := by
  rw [exec_registerWrite_live s cred addr width v hl, if_pos (by simpa using h), State.metered_completed]

/-- A read of another width or alignment finds no register (R11). -/
theorem exec_readClear_unmapped {addr width : Nat} (hl : s.dev.live = true) (h : width ≠ 8 ∨ addr % 8 ≠ 0) :
    exec (.readClear cred ⟨addr, width⟩) s = .next { s with dev := s.dev.completed stUnmapped 0 } := by
  rw [exec_readClear_live s cred addr width hl, if_pos (by simpa using h), State.metered_completed]

/-- An aligned 8-byte write. -/
theorem exec_registerWrite_aligned {addr : Nat} (v : Word) (hl : s.dev.live = true) (h : addr % 8 = 0) :
    exec (.registerWrite cred addr 8 v) s = .next (s.metered (ended (s.dev.access8Wr s.mtr cred addr v.toNat))) := by
  rw [exec_registerWrite_live s cred addr 8 v hl, if_neg (by simp [h])]

/-- An aligned 8-byte read. -/
theorem exec_readClear_aligned {addr : Nat} (hl : s.dev.live = true) (h : addr % 8 = 0) :
    exec (.readClear cred ⟨addr, 8⟩) s = .next (s.metered (s.dev.access8Rd s.mtr cred addr .ok).completed) := by
  rw [exec_readClear_live s cred addr 8 hl, if_neg (by simp [h])]

/-! ### An access that finds a register -/

section Register
variable {d cred} {addr : Nat} {r : RegAt}

/-- A write reaches the register's own writer. -/
theorem Dev.access8Wr_register (v : Nat) (hw : d.winShut addr = false) (hb : d.dmcBusy (canonAddr addr) = false)
    (hr : findReg (canonAddr addr) = some r) (hm : inMeterPage (canonAddr addr) = false) :
    d.access8Wr m cred addr v = d.regWr m cred (canonAddr addr) v r := by
  simp [Dev.access8Wr, hw, hb, hr, hm]

/-- A read that the credential does not allow (R23). -/
theorem Dev.access8Rd_denied (ecc : Ecc) (hw : d.winShut addr = false) (hr : findReg (canonAddr addr) = some r)
    (hc : d.mayRead cred r = false) : d.access8Rd m cred addr ecc = ⟨d, stDenied, 0⟩ := by
  simp [Dev.access8Rd, hw, hr, hc]

/-- A read of a register outside the tiles' answers its value and clears its read-clear fields (R12, R15). -/
theorem Dev.access8Rd_register (ecc : Ecc) (hw : d.winShut addr = false) (hb : d.dmcBusy (canonAddr addr) = false)
    (hr : findReg (canonAddr addr) = some r) (hc : d.mayRead cred r = true) (ht : inTileRegs (canonAddr addr) = false) :
    d.access8Rd m cred addr ecc = ⟨d.readClear (canonAddr addr) r, stOk, d.regValue m (canonAddr addr) r⟩ := by
  simp [Dev.access8Rd, hw, hb, hr, hc, ht]

end Register

/-! ### FLT_SCRUB_CFG (R519) -/

/-- FLT_SCRUB_CFG as the register tables hold it: INTERVAL alone. -/
def scrubCfgReg : RegAt := ⟨.dev, [], false, [⟨15, 0, .rw, 64⟩]⟩

theorem canonAddr_scrubCfg : canonAddr FLT_SCRUB_CFG = FLT_SCRUB_CFG := rfl
theorem findReg_scrubCfg : findReg FLT_SCRUB_CFG = some scrubCfgReg := rfl

/-- It lies outside the tile windows. -/
theorem Dev.winShut_scrubCfg : d.winShut FLT_SCRUB_CFG = false := by
  simp [Dev.winShut, inWindows, FLT_SCRUB_CFG]
/-- It is no register of the management controller (R547). -/
theorem Dev.dmcBusy_scrubCfg : d.dmcBusy FLT_SCRUB_CFG = false := by
  simp [Dev.dmcBusy, FLT_SCRUB_CFG]

/-- No partition's STATE shares INTERVAL's place. -/
theorem partState_key_ne_scrubInterval (p : Nat) : (PART_P_STATE_STATE p).key ≠ FLT_SCRUB_CFG_INTERVAL.key := by
  simp only [RF.key, PART_P_STATE_STATE, PART_P_STATE, FLT_SCRUB_CFG_INTERVAL, FLT_SCRUB_CFG]
  omega

/-- What the owner's write makes of the device: INTERVAL takes 16 to 1,024 and keeps its value under any other (R13). -/
def Dev.scrubInterval (v : Nat) : Dev := d.takeIf FLT_SCRUB_CFG_INTERVAL v fun x => decide (16 ≤ x) && decide (x ≤ 1024)

/-- INTERVAL in its range is taken. -/
theorem Dev.scrubInterval_of_inRange {v : Nat} (h16 : 16 ≤ FLT_SCRUB_CFG_INTERVAL.of v) (h1024 : FLT_SCRUB_CFG_INTERVAL.of v ≤ 1024) :
    d.scrubInterval v = d.set FLT_SCRUB_CFG_INTERVAL (FLT_SCRUB_CFG_INTERVAL.of v) :=
  if_pos (by simp [h16, h1024])

/-- INTERVAL out of its range is kept. -/
theorem Dev.scrubInterval_of_outOfRange {v : Nat} (h : FLT_SCRUB_CFG_INTERVAL.of v < 16 ∨ 1024 < FLT_SCRUB_CFG_INTERVAL.of v) :
    d.scrubInterval v = d :=
  if_neg (by simp; omega)

/-- Either way the partition map stays. -/
theorem sameMap_scrubInterval (v : Nat) : sameMap d (d.scrubInterval v) := by
  unfold Dev.scrubInterval Dev.takeIf
  split
  · exact sameMap_set d _ _ partState_key_ne_scrubInterval
  · exact sameMap_refl d

/-- Either way the pins stay. -/
theorem Dev.scrubInterval_pins (v : Nat) : (d.scrubInterval v).pins = d.pins := by
  unfold Dev.scrubInterval Dev.takeIf
  split <;> rfl

/-- The register's writer. -/
theorem Dev.regWr_scrubCfg (v : Nat) : d.regWr m cred FLT_SCRUB_CFG v scrubCfgReg =
    ownerWr cred d fun d => (d.scrubInterval v, stOk) := rfl

/-- A write of FLT_SCRUB_CFG on any credential. -/
theorem exec_registerWrite_scrubCfg (v : Word) (hl : s.dev.live = true) :
    exec (.registerWrite cred FLT_SCRUB_CFG 8 v) s =
      .next (s.metered (ended (ownerWr cred s.dev fun d => (d.scrubInterval v.toNat, stOk)))) := by
  rw [exec_registerWrite_aligned s cred v hl rfl,
    Dev.access8Wr_register _ _ s.dev.winShut_scrubCfg s.dev.dmcBusy_scrubCfg findReg_scrubCfg rfl, canonAddr_scrubCfg,
    Dev.regWr_scrubCfg]

variable {cred}

/-- A write with the owner's rights takes effect. -/
theorem ownerWr_of_isOwner (k : Dev → Dev × Byte) (h : isOwner cred = true) : ownerWr cred d k = k d := by
  cases cred with
  | owner | dmc => rfl
  | none | tenant => cases h

/-- A write with any other credential is DENIED. -/
theorem ownerWr_of_not_isOwner (k : Dev → Dev × Byte) (h : isOwner cred = false) : ownerWr cred d k = (d, stDenied) := by
  cases cred with
  | owner | dmc => cases h
  | none | tenant => rfl

/-- A write of FLT_SCRUB_CFG with the owner's rights. -/
theorem exec_registerWrite_scrubCfg_owner (v : Word) (hl : s.dev.live = true) (ho : isOwner cred = true) :
    exec (.registerWrite cred FLT_SCRUB_CFG 8 v) s = .next { s with dev := (s.dev.scrubInterval v.toNat).completed stOk 0 } := by
  rw [exec_registerWrite_scrubCfg s cred v hl, ownerWr_of_isOwner _ _ ho]
  exact congrArg _ (s.metered_of_sameMap _ (sameMap_completed stOk 0 (sameMap_scrubInterval s.dev v.toNat))
    (s.dev.scrubInterval_pins v.toNat))

/-- A write of FLT_SCRUB_CFG on any other credential. -/
theorem exec_registerWrite_scrubCfg_denied (v : Word) (hl : s.dev.live = true) (ho : isOwner cred = false) :
    exec (.registerWrite cred FLT_SCRUB_CFG 8 v) s = .next { s with dev := s.dev.completed stDenied 0 } := by
  rw [exec_registerWrite_scrubCfg s cred v hl, ownerWr_of_not_isOwner _ _ ho]
  exact congrArg _ (s.metered_completed stDenied 0)

end Sys2Proof.Machine

open Sys2Proof Sys2Proof.Machine

/-- Settles O38: the access is traced to the register that its address finds, and a write of FLT_SCRUB_CFG to its writer. -/
theorem registerAccess : Obligations.RegisterAccess := by
  intro s cred addr width v r hl d a answers
  refine ⟨exec_registerWrite_unmapped s cred v hl, exec_readClear_unmapped s cred hl, ?_, ?_⟩
  · intro h8 hw hb hr
    refine ⟨fun hm => ?_, fun hc => ?_, fun hc ht => ?_⟩
    · rw [exec_registerWrite_aligned s cred v hl h8, Dev.access8Wr_register _ _ hw hb hr hm]
      rfl
    · rw [exec_readClear_aligned s cred hl h8, Dev.access8Rd_denied _ _ hw hr hc]
      rfl
    · have ht' : inTileRegs a = false := by simpa [inTileRegs] using ht
      rw [exec_readClear_aligned s cred hl h8, Dev.access8Rd_register _ _ hw hb hr hc ht']
      rfl
  · refine ⟨fun ho h16 h1024 => ?_, fun ho hx => ?_, exec_registerWrite_scrubCfg_denied s v hl⟩
    · rw [exec_registerWrite_scrubCfg_owner s v hl ho, Dev.scrubInterval_of_inRange _ h16 h1024]
    · rw [exec_registerWrite_scrubCfg_owner s v hl ho, Dev.scrubInterval_of_outOfRange _ hx]

end

section
/-! PROOF. The MTR_ page is read-only to every agent outside the meter (R24, R26), and the statement about it. -/

namespace Sys2Proof.Machine

variable (d : Dev) (m : Meter) (cred : Cred)

/-! ### Where the MTR_ page lies -/

/-- The MTR_ page, by its ends. -/
theorem inMeterPage_iff (a : Nat) : inMeterPage a = true ↔ 0xFF0F00000000 ≤ a ∧ a < 0xFF1000000000 := by
  simp [inMeterPage]

/-- The MTR_ page lies above the tile windows (R20, R24). -/
theorem inWindows_of_inMeterPage {a : Nat} (h : inMeterPage a = true) : inWindows a = false := by
  rw [inMeterPage_iff] at h
  simp only [inWindows, Bool.and_eq_false_iff, decide_eq_false_iff_not]
  omega

/-- No address of the MTR_ page is another's alias (R25). -/
theorem canonAddr_of_inMeterPage {a : Nat} (h : inMeterPage a = true) : canonAddr a = a := by
  simp [canonAddr, inWindows_of_inMeterPage h]

/-! ### A write into it -/

/-- Every write is DENIED before it is asked which register it meets (R26). -/
theorem Dev.access8Wr_inMeterPage {a : Nat} (v : Nat) (h : inMeterPage a = true) :
    d.access8Wr m cred a v = (d, stDenied) := by
  simp [Dev.access8Wr, canonAddr_of_inMeterPage h, Dev.winShut, inWindows_of_inMeterPage h, h]

/-- A REG_WRITE ends at the first of its registers that is DENIED (R432). -/
theorem Dev.regWrites_inMeterPage {a : Nat} (v : Word) (vs : List Word) (done : Nat) (h8 : a % 8 = 0) (h : inMeterPage a = true) :
    Dev.regWrites m cred (v :: vs) a done d = (d, stDenied, done) := by
  have hw : d.access8Wr m cred a v.toNat = (d, stDenied) := d.access8Wr_inMeterPage m cred v.toNat h
  have hd : stDenied ≠ stOk := by decide
  simp [Dev.regWrites, h8, hw, hd]

/-- A direct write of one of its registers. -/
theorem exec_registerWrite_inMeterPage (s : State) {a : Nat} (v : Word) (hl : s.dev.live = true) (h8 : a % 8 = 0)
    (h : inMeterPage a = true) :
    exec (.registerWrite cred a 8 v) s = .next { s with dev := s.dev.completed stDenied 0 } := by
  rw [exec_registerWrite_aligned s cred v hl h8, Dev.access8Wr_inMeterPage _ _ _ _ h]
  exact congrArg _ (s.metered_completed stDenied 0)

end Sys2Proof.Machine

open Sys2Proof Sys2Proof.Machine

/-- Settles O9: the write is DENIED at the page, before its register or its credential is looked at. -/
theorem meterPageDenied : Obligations.MeterPageDenied := by
  intro s cred addr v hlo hhi h8
  have hp : inMeterPage addr = true := (inMeterPage_iff addr).2 ⟨hlo, hhi⟩
  exact ⟨fun hl => exec_registerWrite_inMeterPage cred s v hl h8 hp,
    fun vs done => s.dev.regWrites_inMeterPage s.mtr cred v vs done h8 hp⟩

end

section
/-! PROOF. Writes of the duty map and the points at which its changes take effect (R30 to R34), and the statement about them. -/

namespace Sys2Proof

/-- A fold of steps that all leave its start is its start. -/
theorem foldl_of_fixed {α β : Type} (f : α → β → α) (a : α) (l : List β) (h : ∀ x ∈ l, f a x = a) : l.foldl f a = a :=
  List.foldlRecOn (motive := (· = a)) l f rfl fun b hb x hx => by rw [hb, h x hx]

/-- A fold over 0 to n - 1 in which the steps but the k-th change nothing, before it and after it, is the k-th. -/
theorem foldl_range_single {α : Type} (f : α → Nat → α) (a : α) {n k : Nat} (hk : k < n)
    (before : ∀ j, j < n → j ≠ k → f a j = a) (after : ∀ j, j < n → j ≠ k → f (f a k) j = f a k) :
    (List.range n).foldl f a = f a k := by
  obtain ⟨l₁, l₂, hl⟩ := List.append_of_mem (List.mem_range.2 hk)
  have hnd : (l₁ ++ k :: l₂).Nodup := hl ▸ List.nodup_range
  have hnot : k ∉ l₁ ++ l₂ := (List.nodup_middle.1 hnd).notMem
  have hlt : ∀ j ∈ l₁ ++ k :: l₂, j < n := fun j hj => List.mem_range.1 (hl ▸ hj)
  rw [hl, List.foldl_append, List.foldl_cons, foldl_of_fixed f a l₁, foldl_of_fixed f (f a k) l₂]
  · exact fun j hj => after j (hlt j (by simp [hj])) (fun e => hnot (by simp [← e, hj]))
  · exact fun j hj => before j (hlt j (by simp [hj])) (fun e => hnot (by simp [← e, hj]))

end Sys2Proof

namespace Sys2Proof.Machine

variable (s : State) (d : Dev) (cred : Cred) {k j : Nat} (b : Bool)

/-! ### The fields of the duty map among the registers -/

/-- No two fields of the map share a place. -/
theorem dutyField_key_ne (h : j ≠ k) : (dutyField j).key ≠ (dutyField k).key := by
  simp only [RF.key, dutyField]
  omega

/-- The map's fields lie below DMC_DUTY_STATE. -/
theorem dutyField_key_lt (hj : j < 12) : (dutyField j).key < DMC_DUTY_STATE * 64 := by
  simp only [RF.key, dutyField, DMC_DUTY_MAP, DMC_DUTY_STATE]
  omega

/-- A field of a register from DMC_DUTY_STATE upward is none of the map's. -/
theorem Dev.get_dutyField_set (hj : j < 12) (f : RF) (x : Nat) (hf : DMC_DUTY_STATE ≤ f.addr) :
    (d.set f x).get (dutyField j) = d.get (dutyField j) := by
  refine Dev.get_set_ne _ _ _ _ (Nat.ne_of_lt (Nat.lt_of_lt_of_le (dutyField_key_lt hj) ?_))
  simp only [RF.key]
  omega

/-- The mode in effect does not follow the map's field by itself (R32). -/
theorem Dev.duty_flag_dutyField (hk : k < 12) : (d.flag (dutyField k) b).duty k = d.duty k := by
  have hne : DMC_DUTY_STATE_EFFECTIVE.key ≠ (dutyField k).key := (Nat.ne_of_lt (dutyField_key_lt hk)).symm
  rw [Dev.duty, Dev.flag, Dev.get_set_ne _ _ _ _ hne, Dev.duty]

/-! ### A change taken or refused -/

/-- PENDING of field k as `x`. -/
def Dev.markPending (k x : Nat) : Dev := d.set DMC_DUTY_STATE_PENDING (setBits (d.get DMC_DUTY_STATE_PENDING) k k x)

/-- Field k holds its new mode `b`, with `pend` as the changes that wait and its bit of PENDING as `x`. -/
def Dev.dutyHolds (k : Nat) (b : Bool) (pend : List (Nat × Bool)) (x : Nat) : Dev :=
  ({ d.flag (dutyField k) b with dmcPend := pend } : Dev).markPending k x

/-- The changes that wait for fields other than k. -/
def Dev.pendingBut (k : Nat) : List (Nat × Bool) := d.dmcPend.filter fun x => x.1 != k

variable {b}

/-- A write that leaves the field's value has no effect. -/
theorem Dev.dutyWrite_same (h : d.is (dutyField k) = b) : d.dutyWrite k b = d := by
  simp [Dev.dutyWrite, h]

/-- A change whose precondition does not hold is refused with its REASON (R33). -/
theorem Dev.dutyWrite_refused (h : d.is (dutyField k) ≠ b) (hr : d.dutyReason k b ≠ 0) :
    d.dutyWrite k b = d.dutyRefuse k (d.dutyReason k b) := by
  simp [Dev.dutyWrite, h, hr]

/-- A change whose precondition holds is taken; those of ADMISSION, TILING_WALK, SPARING and KEY_SWEEP take effect at once (R32). -/
theorem Dev.dutyWrite_taken (hk : k < 12) (h : d.is (dutyField k) ≠ b) (hr : d.dutyReason k b = 0) (hd : d.duty k ≠ b) :
    d.dutyWrite k b =
      let e := d.dutyHolds k b (d.pendingBut k ++ [(k, b)]) 1
      if k ∈ [1, 2, 4, 7] then e.applyPend k else e := by
  have hduty : ({ d.flag (dutyField k) b with dmcPend := d.pendingBut k } : Dev).duty k ≠ b :=
    (d.duty_flag_dutyField b hk).trans_ne hd
  rw [Dev.pendingBut] at hduty
  simp only [Dev.dutyWrite, beq_iff_eq, h, hr, Dev.flag_dmcPend, hduty, ne_eq, not_true_eq_false, if_false, List.contains_iff_mem]
  rfl

/-- A change back to the mode in effect withdraws the one that waited. -/
theorem Dev.dutyWrite_withdrawn (hk : k < 12) (h : d.is (dutyField k) ≠ b) (hr : d.dutyReason k b = 0) (hd : d.duty k = b) :
    d.dutyWrite k b = d.dutyHolds k b (d.pendingBut k) 0 := by
  have hduty : ({ d.flag (dutyField k) b with dmcPend := d.pendingBut k } : Dev).duty k = b :=
    (d.duty_flag_dutyField b hk).trans hd
  rw [Dev.pendingBut] at hduty
  simp only [Dev.dutyWrite, beq_iff_eq, h, hr, Dev.flag_dmcPend, hduty, ne_eq, not_true_eq_false, if_false, if_true]
  rfl

/-! ### A change of one field leaves the others of the map -/

/-- A refusal leaves the map. -/
theorem Dev.get_dutyField_dutyRefuse (hj : j < 12) (reason : Nat) :
    (d.dutyRefuse k reason).get (dutyField j) = d.get (dutyField j) := by
  rw [Dev.dutyRefuse, Dev.get_dutyField_set _ hj _ _ (Nat.le_refl _), Dev.get_dutyField_set _ hj _ _ (Nat.le_refl _)]

/-- A change taken or withdrawn leaves the other fields. -/
theorem Dev.get_dutyField_dutyHolds (hj : j < 12) (h : j ≠ k) (pend : List (Nat × Bool)) (x : Nat) :
    (d.dutyHolds k b pend x).get (dutyField j) = d.get (dutyField j) := by
  rw [Dev.dutyHolds, Dev.markPending, Dev.get_dutyField_set _ hj _ _ (Nat.le_refl _)]
  exact Dev.get_set_ne _ _ _ _ (dutyField_key_ne h)

/-- Setting HOST_SCHEDULE of the partitions leaves the map. -/
theorem Dev.get_dutyField_hostSchedules (hj : j < 12) (on : Dev → Nat → Bool) (ps : List Nat) :
    (ps.foldl (fun d p => d.flag (ADM_P_STATUS_HOST_SCHEDULE p) (on d p)) d).get (dutyField j) = d.get (dutyField j) := by
  refine List.foldlRecOn (motive := fun e : Dev => e.get (dutyField j) = d.get (dutyField j)) ps _ rfl fun e he p _ => ?_
  rw [Dev.flag, Dev.get_dutyField_set _ hj, he]
  simp only [DMC_DUTY_STATE, ADM_P_STATUS_HOST_SCHEDULE, ADM_P_STATUS]
  omega

/-- A pending change that takes effect leaves the map. -/
theorem Dev.get_dutyField_applyPend (hj : j < 12) (h4 : k ≠ 4) : (d.applyPend k).get (dutyField j) = d.get (dutyField j) := by
  unfold Dev.applyPend
  split
  · rfl
  · next e he =>
    have hset : ∀ x y l, ({ (d.set DMC_DUTY_STATE_EFFECTIVE x).set DMC_DUTY_STATE_PENDING y with dmcPend := l } : Dev).get (dutyField j) =
        d.get (dutyField j) := fun x y l =>
      (Dev.get_dutyField_set _ hj _ _ (Nat.le_refl _)).trans (Dev.get_dutyField_set _ hj _ _ (Nat.le_refl _))
    by_cases h1 : k = 1
    · simp only [h1, if_true]
      exact (Dev.get_dutyField_hostSchedules _ hj (fun d p => e.2 && d.inService p) allParts).trans (hset _ _ _)
    · simp only [if_neg h1, if_neg h4]
      exact hset _ _ _

/-- A write of field k, SPARING apart, leaves the other fields. -/
theorem Dev.is_dutyField_dutyWrite (hk : k < 12) (h4 : k ≠ 4) (hj : j < 12) (h : j ≠ k) :
    (d.dutyWrite k b).is (dutyField j) = d.is (dutyField j) := by
  have hget : (d.dutyWrite k b).get (dutyField j) = d.get (dutyField j) := by
    by_cases hs : d.is (dutyField k) = b
    · rw [Dev.dutyWrite_same d hs]
    by_cases hr : d.dutyReason k b = 0
    · by_cases hd : d.duty k = b
      · rw [Dev.dutyWrite_withdrawn d hk hs hr hd]
        exact d.get_dutyField_dutyHolds hj h _ _
      · rw [Dev.dutyWrite_taken d hk hs hr hd]
        dsimp only
        split
        · rw [Dev.get_dutyField_applyPend _ hj h4, Dev.get_dutyField_dutyHolds d hj h]
        · exact d.get_dutyField_dutyHolds hj h _ _
    · rw [Dev.dutyWrite_refused d hs hr]
      exact Dev.get_dutyField_dutyRefuse d hj _
  rw [Dev.is, hget, Dev.is]

/-! ### A write of the whole map -/

/-- A change of field k to `b` on a credential without the owner's rights: REASON 3 (R31). -/
def Dev.dutyDeny (k : Nat) (b : Bool) : Dev := if d.is (dutyField k) == b then d else d.dutyRefuse k 3

/-- A denied write of what the field holds has no effect. -/
theorem Dev.dutyDeny_same (h : d.is (dutyField k) = b) : d.dutyDeny k b = d := by
  simp [Dev.dutyDeny, h]

/-- A denied change is marked. -/
theorem Dev.dutyDeny_change (h : d.is (dutyField k) ≠ b) : d.dutyDeny k b = d.dutyRefuse k 3 := by
  simp [Dev.dutyDeny, h]

variable {cred}

/-- With the owner's rights the fields are written in turn. -/
theorem Dev.dutyMapWr_owner (v : Nat) (ho : isOwner cred = true) :
    d.dutyMapWr cred v = ((List.range 12).foldl (fun d j => d.dutyWrite j (bit v j == 1)) d, stOk) := by
  cases cred with
  | owner | dmc => rfl
  | none | tenant => cases ho

/-- Without them the changes are marked in turn. -/
theorem Dev.dutyMapWr_denied (v : Nat) (ho : isOwner cred = false) :
    d.dutyMapWr cred v = ((List.range 12).foldl (fun d j => d.dutyDeny j (bit v j == 1)) d, stDenied) := by
  cases cred with
  | owner | dmc => cases ho
  | none | tenant => rfl

section Single
variable {d} {v : Nat}

/-- The owner's write that changes field k alone is the write of that field. -/
theorem Dev.dutyMapWr_owner_single (ho : isOwner cred = true) (hk : k < 12) (h4 : k ≠ 4)
    (hothers : ∀ j, j < 12 → j ≠ k → d.is (dutyField j) = (bit v j == 1)) :
    d.dutyMapWr cred v = (d.dutyWrite k (bit v k == 1), stOk) := by
  have hfold := foldl_range_single (fun (d : Dev) j => d.dutyWrite j (bit v j == 1)) d hk
    (fun j hj h => d.dutyWrite_same (hothers j hj h))
    (fun j hj h => Dev.dutyWrite_same _ ((d.is_dutyField_dutyWrite hk h4 hj h).trans (hothers j hj h)))
  rw [Dev.dutyMapWr_owner d v ho, hfold]

/-- A denied write that would change field k alone marks that field. -/
theorem Dev.dutyMapWr_denied_single (ho : isOwner cred = false) (hk : k < 12) (hchange : d.is (dutyField k) ≠ (bit v k == 1))
    (hothers : ∀ j, j < 12 → j ≠ k → d.is (dutyField j) = (bit v j == 1)) :
    d.dutyMapWr cred v = (d.dutyRefuse k 3, stDenied) := by
  have hk' : d.dutyDeny k (bit v k == 1) = d.dutyRefuse k 3 := d.dutyDeny_change hchange
  have hfold := foldl_range_single (fun (d : Dev) j => d.dutyDeny j (bit v j == 1)) d hk
    (fun j hj h => d.dutyDeny_same (hothers j hj h))
    (fun j hj h => Dev.dutyDeny_same _ (by
      rw [hk', Dev.is, d.get_dutyField_dutyRefuse hj 3]
      exact hothers j hj h))
  rw [Dev.dutyMapWr_denied d v ho, hfold, hk']

end Single

/-! ### The two commands -/

/-- A write's outcome, taken apart, as the completion of a direct access (R22). -/
theorem ended_mk (st : Byte) : ended (d, st) = d.completed st 0 := rfl

/-- DUTY_MAP_WRITE on a device that runs. -/
theorem exec_dutyMapWrite_live (v : Word) (hl : s.dev.live = true) :
    exec (.dutyMapWrite cred v) s = .next (s.metered (ended (s.dev.dutyMapWr cred v.toNat))) :=
  runM_live (fun d => ended (d.dutyMapWr cred v.toNat)) s hl

/-- What becomes of the device at a point of field k (R32). -/
def Dev.dutyPoint (k : Nat) : Dev :=
  if d.dmcPend.any fun e => e.1 == k then
    if k = 8 then d.toSecond
    else if k = 3 || (k = 11 && d.nop.meterSent.isEmpty) then d.applyPend k
    else d
  else d

/-- DUTY_CHANGE_EFFECT on a device that runs. -/
theorem exec_dutyChangeEffect_live (k : Fin 12) (hl : s.dev.live = true) :
    exec (.dutyChangeEffect k) s = .next (s.metered (s.dev.dutyPoint k.val)) :=
  runM_live (fun d => d.dutyPoint k.val) s hl

/-- A field with no change pending has no point. -/
theorem Dev.dutyPoint_none (h : d.dmcPend.any (fun e => e.1 == k) = false) : d.dutyPoint k = d := by
  simp only [Dev.dutyPoint, h, Bool.false_eq_true, if_false]

/-- SCRUB's point lies between any two commands, METER_DELIVERY's where no record is being delivered. -/
theorem Dev.dutyPoint_due (h : d.dmcPend.any (fun e => e.1 == k) = true) (hdue : k = 3 ∨ (k = 11 ∧ d.nop.meterSent = [])) :
    d.dutyPoint k = d.applyPend k := by
  have h8 : k ≠ 8 := by omega
  have hdue' : (k = 3 || (k = 11 && d.nop.meterSent.isEmpty)) = true := by simpa using hdue
  simp only [Dev.dutyPoint, h, if_true, if_neg h8, hdue']

/-- TIME_DISCIPLINE's is the next second boundary. -/
theorem Dev.dutyPoint_second (h : d.dmcPend.any (fun e => e.1 == 8) = true) : d.dutyPoint 8 = d.toSecond := by
  simp only [Dev.dutyPoint, h, if_true]

/-- Before its point a change stays pending. -/
theorem Dev.dutyPoint_later (h8 : k ≠ 8) (hdue : ¬ (k = 3 ∨ (k = 11 ∧ d.nop.meterSent = []))) : d.dutyPoint k = d := by
  have hdue' : (k = 3 || (k = 11 && d.nop.meterSent.isEmpty)) = false := by simpa using hdue
  simp only [Dev.dutyPoint, if_neg h8, hdue', Bool.false_eq_true, if_false, ite_self]

/-- The one pending change, of a field whose mode nothing else waits for, shows in EFFECTIVE and no longer in PENDING. -/
theorem Dev.applyPend_single (b : Bool) (h : d.dmcPend = [(k, b)]) (h1 : k ≠ 1) (h4 : k ≠ 4) :
    d.applyPend k =
      { (d.set DMC_DUTY_STATE_EFFECTIVE (setBits (d.get DMC_DUTY_STATE_EFFECTIVE) k k (boolBit b))).markPending k 0 with dmcPend := [] } := by
  simp [Dev.applyPend, h, h1, h4, Dev.markPending]

end Sys2Proof.Machine

open Sys2Proof Sys2Proof.Machine

/-- Settles O39: a write that changes one field is the write of that field, and a pending change meets its point. -/
theorem dutyMap : Obligations.DutyMap := by
  intro s cred v k hl h4 d b now mark
  have hk : k.val < 12 := k.isLt
  refine ⟨fun hchange hothers => ⟨fun ho hr => ?_, fun ho hr hd => ?_, fun ho => ?_⟩, fun ho => ?_, fun hnone => ?_,
    fun hsome hdue => ?_, fun b' hpend => ?_⟩
  · rw [exec_dutyMapWrite_live s v hl, Dev.dutyMapWr_owner_single ho hk h4 hothers, Dev.dutyWrite_refused _ hchange hr, ended_mk]
  · rw [exec_dutyMapWrite_live s v hl, Dev.dutyMapWr_owner_single ho hk h4 hothers, Dev.dutyWrite_taken _ hk hchange hr hd]
    have hmem : k.val ∈ [1, 2, 4, 7] ↔ k.val ∈ [1, 2, 7] := by simp [h4]
    refine ⟨fun hlate => ?_, fun honce => ?_⟩
    · rw [if_neg (hmem.not.2 hlate)]
      rfl
    · rw [if_pos (hmem.2 honce)]
      rfl
  · rw [exec_dutyMapWrite_live s v hl, Dev.dutyMapWr_denied_single ho hk hchange hothers, ended_mk]
  · rw [exec_dutyMapWrite_live s v hl, Dev.dutyMapWr_owner _ _ ho, ended_mk]
  · rw [exec_dutyChangeEffect_live s k hl, Dev.dutyPoint_none _ hnone]
  · rw [exec_dutyChangeEffect_live s k hl, Dev.dutyPoint_due _ hsome hdue]
  · have hany : d.dmcPend.any (fun e => e.1 == k.val) = true := by simp [hpend]
    refine ⟨fun hdue => ?_, fun h8 => ?_, fun hdue h8 => ?_⟩
    · have h1 : k.val ≠ 1 := by omega
      rw [exec_dutyChangeEffect_live s k hl, Dev.dutyPoint_due _ hany hdue, Dev.applyPend_single _ b' hpend h1 h4]
      rfl
    · rw [h8] at hany
      rw [exec_dutyChangeEffect_live s k hl, h8, Dev.dutyPoint_second _ hany]
    · rw [exec_dutyChangeEffect_live s k hl, Dev.dutyPoint_later _ h8 hdue]

end

section
/-! PROOF. What the pins RESET_N and PWR_GOOD do (R32, R523 to R526, R542), and the statement about them. -/

namespace Sys2Proof

/-- A filter on one key drops every other. -/
theorem mget_filter_key_ne {α : Type} (m : List (Nat × α)) (z : α) {k j : Nat} (h : j ≠ k) :
    mget (m.filter fun e => e.1 == k) z j = z := by
  induction m with
  | nil => rfl
  | cons e r ih =>
    by_cases he : e.1 = k
    · simpa [he, mget, Ne.symm h] using ih
    · simpa [he] using ih

end Sys2Proof

namespace Sys2Proof.Machine

variable (s : State) (d : Dev)

/-! ### The device held in reset -/

/-- With no register listed, every field reads its reset value. -/
theorem Dev.get_of_regs_nil (r : RF) (h : d.regs = []) : d.get r = r.rst := by
  rw [Dev.get, h]
  rfl

/-- `u` is `d` after a reset: registers but those of `keep` at their reset values, and all else cleared but the fuses, with the
TAP as `tap` (R523, R524). -/
def Dev.ClearedTo (d u : Dev) (keep : List RF) (tap : Jtag) : Prop :=
  (∀ r : RF, (∀ q ∈ keep, r.key ≠ q.key) → u.get r = r.rst) ∧ u.tiles = [] ∧ u.inReset = true ∧
    u.fuses = d.fuses ∧ u.jtag = tap ∧ u.reqs = [] ∧ u.ctxs = [] ∧ u.ports = []

/-- The device in reset with RESET_N low. -/
def Dev.resetLow : Dev := { d.inResetState with pins := { d.inResetState.pins with resetN := false } }

/-- RESET_N falls on a device that runs: RESET_CAUSE tells it from the fall of PWR_GOOD, and the next fetch is named (R32, R525). -/
def Dev.resetFallen : Dev := ({ d.resetLow with bootFetch := some (d.is DMC_DUTY_MAP_BOOT_FETCH) } : Dev).set DMC_RESET_CAUSE 1

/-- RESET_N falls on a device already held or stopped: RESET_CAUSE and the fetch stay (R524, R542). -/
def Dev.resetHeld : Dev :=
  { d.resetLow with bootFetch := d.bootFetch, regs := d.regs.filter fun e => e.1 == DMC_RESET_CAUSE.key }

/-- PWR_GOOD falls: the TAP goes with the rails, and THERMTRIP_N is released (R523, R542). -/
def Dev.powerFallen : Dev :=
  { d.inResetState with
    stopped := false, bootFetch := none, jtag := Jtag.init
    pins := { d.inResetState.pins with pwrGood := false, thermtripN := true } }

/-- RESET_N rises: the straps are taken, the TAP keeps no instruction but one that RESET_N high allows, and the device
runs (R522, R526, R571). -/
def Dev.strapped (straps : BitVec 4) : Dev :=
  let host := straps.getLsbD 0
  let e : Dev := { d with
    inReset := false
    pins := { d.pins with resetN := true, pwrGood := true, straps := straps }
    i3c := { I3c.init with static := if straps.getLsbD 3 then 0x51 else 0x50 }
    jtag := { d.jtag with ir := if d.jtag.ir = 1 then 1 else 0xF, driving := false } }
  ((e.flag DMC_DUTY_MAP_BOOT_FETCH host).set DMC_DUTY_STATE_EFFECTIVE (boolBit host)).flag SEC_BOOT_STATUS_SOURCE host

/-- All but RESET_CAUSE is cleared. -/
theorem Dev.clearedTo_resetFallen : d.ClearedTo d.resetFallen [DMC_RESET_CAUSE] d.jtag := by
  refine ⟨fun r hr => ?_, rfl, rfl, rfl, rfl, rfl, rfl, rfl⟩
  have hne : r.key ≠ DMC_RESET_CAUSE.key := hr _ (List.mem_singleton_self _)
  rw [Dev.resetFallen, Dev.get_set_ne _ _ _ _ hne, Dev.get_of_regs_nil _ _ rfl]

/-- All but RESET_CAUSE is cleared. -/
theorem Dev.clearedTo_resetHeld : d.ClearedTo d.resetHeld [DMC_RESET_CAUSE] d.jtag := by
  refine ⟨fun r hr => ?_, rfl, rfl, rfl, rfl, rfl, rfl, rfl⟩
  exact mget_filter_key_ne d.regs r.rst (hr _ (List.mem_singleton_self _))

/-- All is cleared, the TAP as well. -/
theorem Dev.clearedTo_powerFallen : d.ClearedTo d.powerFallen [] Jtag.init :=
  ⟨fun r _ => Dev.get_of_regs_nil _ r rfl, rfl, rfl, rfl, rfl, rfl, rfl, rfl⟩

/-- RESET_CAUSE names RESET_N. -/
theorem Dev.resetFallen_cause : d.resetFallen.get DMC_RESET_CAUSE = 1 := Dev.get_set_same _ _ _

/-! ### The three commands, which act in any state -/

/-- RESET_N_ASSERT by the state that it meets. -/
theorem exec_resetNAssert : exec .resetNAssert s = .next (s.metered
    (if !s.dev.pins.resetN then s.dev else if s.dev.inReset || s.dev.stopped then s.dev.resetHeld else s.dev.resetFallen)) := rfl

/-- RESET_N falls on a device that runs. -/
theorem exec_resetNAssert_running (hn : s.dev.pins.resetN = true) (hr : s.dev.inReset = false) (hs : s.dev.stopped = false) :
    exec .resetNAssert s = .next (s.metered s.dev.resetFallen) := by
  rw [exec_resetNAssert, if_neg (by simp [hn]), if_neg (by simp [hr, hs])]

/-- RESET_N falls on a device held in reset or stopped. -/
theorem exec_resetNAssert_held (hn : s.dev.pins.resetN = true) (h : s.dev.inReset = true ∨ s.dev.stopped = true) :
    exec .resetNAssert s = .next (s.metered s.dev.resetHeld) := by
  rw [exec_resetNAssert, if_neg (by simp [hn]), if_pos (by simpa using h)]

/-- RESET_N cannot fall where it is low. -/
theorem exec_resetNAssert_low (hn : s.dev.pins.resetN = false) : exec .resetNAssert s = .next (s.metered s.dev) := by
  rw [exec_resetNAssert, if_pos (by simp [hn])]

/-- PWR_GOOD falls. -/
theorem exec_pwrGoodFall : exec .pwrGoodFall s = .next (s.metered s.dev.powerFallen) := rfl

/-- RESET_N_RELEASE by the state that it meets; a device that a thermal trip has stopped has its pin moved alone (R542), any other
takes the straps and then reads the fuses (R505). -/
theorem exec_resetNRelease (straps : BitVec 4) : exec (.resetNRelease straps) s = .next (s.metered
    (if s.dev.pins.resetN then s.dev
    else if s.dev.stopped then { s.dev with pins := { s.dev.pins with resetN := true } }
    else (s.dev.strapped straps).readFuses)) := rfl

/-- RESET_N cannot rise where it is high. -/
theorem exec_resetNRelease_high (straps : BitVec 4) (hn : s.dev.pins.resetN = true) :
    exec (.resetNRelease straps) s = .next (s.metered s.dev) := by
  rw [exec_resetNRelease, if_pos hn]

/-- RESET_N rises on a stopped device. -/
theorem exec_resetNRelease_stopped (straps : BitVec 4) (hn : s.dev.pins.resetN = false) (hs : s.dev.stopped = true) :
    exec (.resetNRelease straps) s = .next (s.metered { s.dev with pins := { s.dev.pins with resetN := true } }) := by
  rw [exec_resetNRelease, if_neg (by simp [hn]), if_pos hs]

/-- RESET_N rises on any other. -/
theorem exec_resetNRelease_running (straps : BitVec 4) (hn : s.dev.pins.resetN = false) (hs : s.dev.stopped = false) :
    exec (.resetNRelease straps) s = .next (s.metered (s.dev.strapped straps).readFuses) := by
  rw [exec_resetNRelease, if_neg (by simp [hn]), if_neg (by simp [hs])]

end Sys2Proof.Machine

open Sys2Proof Sys2Proof.Machine

/-- Settles O50: each pin event by the state it meets, and what the fallen device has left. -/
theorem resets : Obligations.Resets := by
  intro s straps d cleared
  refine ⟨fun hn hr hs => ?_, fun hn h => ?_, exec_resetNAssert_low s, ?_, exec_resetNRelease_high s straps,
    exec_resetNRelease_running s straps, exec_resetNRelease_stopped s straps⟩
  · exact ⟨_, exec_resetNAssert_running s hn hr hs, d.clearedTo_resetFallen, rfl, d.resetFallen_cause, rfl⟩
  · exact ⟨_, exec_resetNAssert_held s hn h, d.clearedTo_resetHeld, rfl, rfl, rfl⟩
  · exact ⟨_, exec_pwrGoodFall s, d.clearedTo_powerFallen, rfl, rfl, rfl, rfl, rfl⟩

end

section
/-! PROOF. What `tm.at` and `tm.wait` do as they issue and as their waits end (R57, R102), how a yielding strand is ready again
(R103), and the statement about them. -/

namespace Sys2Proof.Machine

variable (s : State) (d : Dev)

/-! ### Instants that have come -/

/-- Device time does not pass to an instant that has come. -/
theorem Dev.toTime_past {t : Nat} (h : t ≤ d.now) : d.toTime t = d := if_neg (Nat.not_lt.2 h)

/-- Nor do cycles pass to a tick that has come. -/
theorem Dev.toTick_past {t : Nat} (h : t ≤ d.tick) : d.toTick t = d := if_neg (Nat.not_lt.2 h)

/-! ### Waits that end (R85, R86) -/

/-- A register write leaves the strand's state. -/
theorem Strand.setReg_st (y : Strand) (r : Nat) (v : Word) : (y.setReg r v).st = y.st := by
  unfold Strand.setReg
  split <;> rfl

/-- A wait that ends with a status, on a frond that has not stopped. -/
theorem Dev.finish_waiting {n f k : Nat} (rd : Nat) (v : Word) (st : Byte) (hf : d.stoppedF n f = false)
    (hw : ((d.tile n).strand f k).st = .wait) :
    d.finish n f k rd v st = d.modStrand n f k fun y => (y.answered rd v st).resumed := by
  rw [Dev.finish, if_neg (by simp [hf])]
  apply Dev.modStrand_congr
  have hw' : (((d.tile n).strand f k).setReg rd v).st = .wait := (Strand.setReg_st _ _ _).trans hw
  exact if_pos hw'

/-- A wait that ends and writes nothing, on a frond that has not stopped. -/
theorem Dev.finishPlain_waiting {n f k : Nat} (hf : d.stoppedF n f = false) (hw : ((d.tile n).strand f k).st = .wait) :
    d.finishPlain n f k = d.modStrand n f k Strand.resumed := by
  rw [Dev.finishPlain, if_neg (by simp [hf])]
  exact Dev.modStrand_congr _ _ _ _ _ _ (if_pos hw)

/-! ### Instructions that answer, and instructions that wait -/

variable {s} {x : Iss} {f : Nat} {srcs : List Nat} {body : Body}

/-- An instruction of one word that writes rd and LAST_STATUS and goes on. -/
theorem issue_putStatus (rd : Nat) (v : Word) (st : Byte) (h : Ready s x f srcs)
    (hb : body (s.dev.noted x.tile.val x.strand.val) x.tile.val f x.strand.val (strandOf s x f) =
      putStatus (s.dev.noted x.tile.val x.strand.val) x.tile.val f x.strand.val rd v st) :
    ∃ t, run (fun d => d.issue x srcs 1 body) s = .next t ∧
      StrandBecomes s t x f ((strandOf s x f).answered rd v st).advance :=
  issue_strand s x f srcs body (fun y => y.answered rd v st) h hb (Strand.setReg_pc _ _ _)

/-- An instruction of one word that enters WAIT. -/
theorem issue_enterWait (w : WaitReason) (op : WaitOp) (h : Ready s x f srcs)
    (hb : body (s.dev.noted x.tile.val x.strand.val) x.tile.val f x.strand.val (strandOf s x f) =
      enterWait (s.dev.noted x.tile.val x.strand.val) x.tile.val f x.strand.val w op) :
    ∃ t, run (fun d => d.issue x srcs 1 body) s = .next t ∧
      StrandBecomes s t x f ((strandOf s x f).waits s.dev.tick w op).advance :=
  issue_strand s x f srcs body (fun y => y.waits s.dev.tick w op) h hb rfl

/-! ### The two instructions -/

/-- What `tm.at` does as it issues (R57, R102). -/
def tmAtBody (rd ra : GReg) : Body := fun d n f k y =>
  if lastTime < targetTime (y.reg ra.val).toNat || (y.reg ra.val).toNat = noTime then
    putStatus d n f k rd.val (stWord stExhausted) stExhausted
  else if targetTime (y.reg ra.val).toNat ≤ d.now then putStatus d n f k rd.val (stWord stOk) stOk
  else enterWait d n f k .time (.timeAt rd.val (targetTime (y.reg ra.val).toNat))

/-- What `tm.wait` does as it issues (R102). -/
def tmWaitBody (ra : GReg) (imm : Imm) : Body := fun d n f k y =>
  if (y.reg ra.val).toNat + imm.toNat = 0 then (d, .next)
  else enterWait d n f k .time (.timeFor (d.tick + ((y.reg ra.val).toNat + imm.toNat)))

/-- `tm.at` is one issue of its body. -/
theorem exec_tmAt (rd ra : GReg) : exec (.tmAt x rd ra) s = run (fun d => d.issue x [ra.val] 1 (tmAtBody rd ra)) s := rfl

/-- `tm.wait` is one issue of its body. -/
theorem exec_tmWait (ra : GReg) (imm : Imm) :
    exec (.tmWait x ra imm) s = run (fun d => d.issue x [ra.val] 1 (tmWaitBody ra imm)) s := rfl

/-- `tm.at` by its target: past the last representable time, reached, or to come. -/
theorem tmAt_strand (rd ra : GReg) (h : Ready s x f [ra.val]) :
    ∃ t, exec (.tmAt x rd ra) s = .next t ∧ StrandBecomes s t x f
      (if lastTime < targetTime ((strandOf s x f).reg ra.val).toNat ∨ ((strandOf s x f).reg ra.val).toNat = noTime then
         ((strandOf s x f).answered rd.val (stWord stExhausted) stExhausted).advance
       else if targetTime ((strandOf s x f).reg ra.val).toNat ≤ s.dev.now then ((strandOf s x f).answered rd.val 0 0).advance
       else ((strandOf s x f).waits s.dev.tick .time
         (.timeAt rd.val (targetTime ((strandOf s x f).reg ra.val).toNat))).advance) := by
  rw [exec_tmAt]
  split
  case isTrue hpast => exact issue_putStatus _ _ _ h (if_pos (by simpa using hpast))
  case isFalse hpast =>
    have hnot : ¬ (decide (lastTime < targetTime ((strandOf s x f).reg ra.val).toNat) ||
      decide (((strandOf s x f).reg ra.val).toNat = noTime)) = true := by simpa using hpast
    split
    case isTrue hcome => exact issue_putStatus _ _ _ h ((if_neg hnot).trans (if_pos hcome))
    case isFalse hcome => exact issue_enterWait _ _ h ((if_neg hnot).trans (if_neg hcome))

/-- `tm.wait` by its sum: none, or the cycles to wait. -/
theorem tmWait_strand (ra : GReg) (imm : Imm) (h : Ready s x f [ra.val]) :
    ∃ t, exec (.tmWait x ra imm) s = .next t ∧ StrandBecomes s t x f
      (if ((strandOf s x f).reg ra.val).toNat + imm.toNat = 0 then (strandOf s x f).advance
       else ((strandOf s x f).waits s.dev.tick .time
         (.timeFor (s.dev.tick + (((strandOf s x f).reg ra.val).toNat + imm.toNat)))).advance) := by
  rw [exec_tmWait]
  split
  case isTrue hnone => exact issue_nop s x f _ _ h (if_pos hnone)
  case isFalse hsome => exact issue_enterWait _ _ h (if_neg hsome)

/-! ### The ends of the waits -/

variable (s) {tile : TileId} {strand : StrandId}

/-- TM_AT_EXPIRY for a waiting `tm.at` of the active frond. -/
theorem exec_tmAtExpiry_waiting {rd t : Nat} (hl : s.dev.live = true) (ha : (s.dev.tile tile.val).active = some f)
    (hop : ((s.dev.tile tile.val).strand f strand.val).op = .timeAt rd t) :
    exec (.tmAtExpiry tile strand) s =
      .next { s with dev := (s.dev.toTime t).finish tile.val f strand.val rd (stWord stOk) stOk } :=
  exec_next rfl hl (by simp only [ha, hop])

/-- TM_WAIT_EXPIRY for a waiting `tm.wait` of the active frond. -/
theorem exec_tmWaitExpiry_waiting {t : Nat} (hl : s.dev.live = true) (ha : (s.dev.tile tile.val).active = some f)
    (hop : ((s.dev.tile tile.val).strand f strand.val).op = .timeFor t) :
    exec (.tmWaitExpiry tile strand) s = .next { s with dev := (s.dev.toTick t).finishPlain tile.val f strand.val } :=
  exec_next rfl hl (by simp only [ha, hop])

/-- SY_YIELD_EXPIRY for the frond whose strand yields. -/
theorem exec_syYieldExpiry_yielding (hl : s.dev.live = true)
    (hy : (s.dev.tile tile.val).frondWith strand.val (fun z => z.yielding) = some f) :
    exec (.syYieldExpiry tile strand) s =
      .next { s with dev := (s.dev.toTick ((s.dev.tile tile.val).strand f strand.val).yieldUntil).modStrand tile.val f strand.val
                              fun y => { y with yielding := false } } :=
  exec_next rfl hl (by simp only [hy])

end Sys2Proof.Machine

open Sys2Proof Sys2Proof.Machine

/-- Settles O19: the two instructions by their target and sum, and the three ends as changes of the one strand. -/
theorem timeWaitsAndEnds : Obligations.TimeWaitsAndEnds := by
  refine ⟨fun s x rd ra imm f h => ⟨tmAt_strand rd ra h, tmWait_strand ra imm h⟩, ?_⟩
  intro s tile strand f y hruns ha
  obtain ⟨hl, hf⟩ := hruns
  refine ⟨fun rd at_ hw hop hcome => ?_, fun until_ hw hop hcome => ?_, fun hy hcome => ?_⟩
  · refine ⟨_, exec_tmAtExpiry_waiting s hl ha hop, ?_⟩
    rw [Dev.toTime_past _ hcome, Dev.finish_waiting _ _ _ _ hf hw]
    exact only_strand s _ _ _ _
  · refine ⟨_, exec_tmWaitExpiry_waiting s hl ha hop, ?_⟩
    rw [Dev.toTick_past _ hcome, Dev.finishPlain_waiting _ hf hw]
    exact only_strand s _ _ _ _
  · refine ⟨_, exec_syYieldExpiry_yielding s hl hy, ?_⟩
    rw [Dev.toTick_past _ hcome]
    exact only_strand s _ _ _ _

end

section
/-! PROOF. How a request on a HOST context is decided as it arrives (R60 to R66, R70, R74 to R76, R429), and the statement about it. -/

namespace Sys2Proof.Machine

variable (s : State) (d : Dev) (c : Nat) (m : ReqMsg) (k : TimingClass)

/-! ### The command -/

/-- What a decision makes of the device: a rejection or an admission. -/
def Dev.decided : Verdict → Dev
  | .reject code t => d.rejectReq c m code t
  | .taken promise start lane entry => d.admitReq c m promise start lane entry

/-- What the request makes of the device: CREDENTIAL on a context of another kind, and the verdict on a HOST context. -/
def Dev.requested : Dev :=
  if d.ctxKind c ≠ 2 then d.queueMsg c (mkMsg 0x31 0 c true (decisionBytes m.tag 7 m.cls none))
  else d.decided c m (d.verdict c m)

variable {s m} in
/-- A request that is served is decided. -/
theorem exec_req_served {h : NHdr} (hl : s.dev.live = true)
    (hs : Served s.dev h true false (hasLen h (if m.ref then 48 else 32 + 4 * m.lin) && (m.ref || m.tokens.length == m.lin))) :
    exec (.req h m) s = .next { s with dev := (s.dev.inTurn h true).requested h.dctx.val m } :=
  exec_next rfl hl (Dev.nopraRx_served _ _ hs)

/-! ### The checks of R65 that come before the class -/

/-- Device time has stopped (R47). -/
theorem Dev.verdict_stopped (hq : d.get TIME_STATUS_QUALITY = 6) : d.verdict c m = .reject 5 none := by
  rw [Dev.verdict]
  exact if_pos hq

/-- The two checks of the credential, in the model's words. -/
theorem Dev.asks_iff : d.asks c m ↔ ¬ (m.part.val = 0 || !d.mayRequest c m.part.val) = true ∧
    ¬ (m.ref && d.memStatus m.part.val m.addr (max 1 (4 * m.lin)) != stOk) = true := by
  simp [Dev.asks, stOk, and_assoc]

/-- The partition's own checks, in the model's words. -/
theorem Dev.takesRequests_iff (p : Nat) : d.takesRequests p ↔
    ¬ (!d.is (ADM_P_CTRL_ENABLE p) || d.is (ADM_P_CTRL_HOLD p) || d.regionHeld p || decide (2 ≤ d.get PWR_STATUS_STATE)) = true := by
  simp [Dev.takesRequests, and_assoc]

/-- The credential does not allow the request. -/
theorem Dev.verdict_credential (hq : d.get TIME_STATUS_QUALITY ≠ 6) (ha : ¬ d.asks c m) : d.verdict c m = .reject 7 none := by
  rw [Dev.asks_iff, not_and_or, not_not, not_not] at ha
  rw [Dev.verdict]
  refine (if_neg hq).trans ?_
  by_cases hmay : (m.part.val = 0 || !d.mayRequest c m.part.val) = true
  · exact if_pos hmay
  · exact (if_neg hmay).trans (if_pos (ha.resolve_left hmay))

section Asks
variable {d c m}
variable (hq : d.get TIME_STATUS_QUALITY ≠ 6) (ha : d.asks c m)
include hq ha

/-- The partition takes no requests. -/
theorem Dev.verdict_hold (ht : ¬ d.takesRequests m.part.val) : d.verdict c m = .reject 4 none := by
  obtain ⟨hmay, hmem⟩ := (d.asks_iff c m).1 ha
  rw [Dev.takesRequests_iff, not_not] at ht
  rw [Dev.verdict]
  exact (if_neg hq).trans ((if_neg hmay).trans ((if_neg hmem).trans (if_pos ht)))

variable (ht : d.takesRequests m.part.val)
include ht

/-- Device time has not been set (R66). -/
theorem Dev.verdict_unset (h0 : d.get TIME_STATUS_QUALITY = 0) : d.verdict c m = .reject 5 none := by
  obtain ⟨hmay, hmem⟩ := (d.asks_iff c m).1 ha
  rw [Dev.verdict]
  exact (if_neg hq).trans ((if_neg hmay).trans ((if_neg hmem).trans
    ((if_neg ((d.takesRequests_iff _).1 ht)).trans (if_pos h0))))

variable (h0 : d.get TIME_STATUS_QUALITY ≠ 0)
include h0

/-- The timing table does not hold the class. -/
theorem Dev.verdict_noClass (hk : ∀ k ∈ (d.region m.part.val).classes, k.cls ≠ m.cls) : d.verdict c m = .reject 2 none := by
  obtain ⟨hmay, hmem⟩ := (d.asks_iff c m).1 ha
  have hnone : (d.region m.part.val).classes.find? (fun k => k.cls == m.cls) = none := by simpa using hk
  rw [Dev.verdict]
  refine (if_neg hq).trans ((if_neg hmay).trans ((if_neg hmem).trans
    ((if_neg ((d.takesRequests_iff _).1 ht)).trans ((if_neg h0).trans ?_))))
  simp only [hnone]

end Asks

/-! ### The promise against its bounds (R66, R70) -/

/-- The decision on a request of class `k` whose promise is computed. -/
def Dev.judge (promise start lane : Nat) (entry : Option Nat) : Verdict :=
  if (d.region m.part.val).effort k then .taken promise start lane entry
  else if lastTime < promise then .reject 5 none
  else
    match m.deadline with
    | some t => if t < promise then .reject 1 (some promise) else .taken promise start lane entry
    | none => .taken promise start lane entry

section Judge
variable {d m k}
variable {promise : Nat} (start lane : Nat) (entry : Option Nat)

/-- A best-effort request needs no promise (R70). -/
theorem Dev.judge_effort (he : (d.region m.part.val).effort k = true) :
    d.judge m k promise start lane entry = .taken promise start lane entry := if_pos he

variable (he : (d.region m.part.val).effort k = false)
include he

/-- A promise past the last representable time. -/
theorem Dev.judge_pastLast (hp : lastTime < promise) : d.judge m k promise start lane entry = .reject 5 none :=
  (if_neg (by simp [he])).trans (if_pos hp)

variable (hp : promise ≤ lastTime)
include hp

/-- A promise no later than the deadline. -/
theorem Dev.judge_inTime (hd : ∀ t, m.deadline = some t → promise ≤ t) :
    d.judge m k promise start lane entry = .taken promise start lane entry := by
  refine (if_neg (by simp [he])).trans ((if_neg (Nat.not_lt.2 hp)).trans ?_)
  cases hm : m.deadline with
  | none => rfl
  | some t => exact if_neg (Nat.not_lt.2 (hd t hm))

/-- A promise later than the deadline. -/
theorem Dev.judge_late {t : Nat} (hm : m.deadline = some t) (hd : t < promise) :
    d.judge m k promise start lane entry = .reject 1 (some promise) := by
  refine (if_neg (by simp [he])).trans ((if_neg (Nat.not_lt.2 hp)).trans ?_)
  rw [hm]
  exact if_pos hd

end Judge

/-! ### The class and its promise (R63, R76) -/

/-- The lanes of the request's class. -/
def Dev.lanesFor : Lanes := mget (d.region m.part.val).lanes Lanes.init m.cls

/-- The start that R63 computes: 2,100 cycles from now, with the lane free and the spacing passed. -/
def Dev.startFor : Nat :=
  max (max (d.now + 2100) (firstLane k.lanes (d.lanesFor m).free).2)
    (match (d.lanesFor m).last with | some t => t + k.space (envDuty (d.get PWR_ENVELOPE_ADMIT)) | none => 0)

/-- The promise that R63 computes: the start, the need of the class for the lengths, and the guard. -/
def Dev.promiseFor : Nat :=
  d.startFor m k + k.need m.lin m.lout (envDuty (d.get PWR_ENVELOPE_ADMIT)) + d.get (ADM_P_CTRL_GUARD m.part.val)

/-- The decision on a request of class `k`. -/
def Dev.classVerdict : Verdict :=
  if k.linMax < m.lin || decide (k.loutMax < m.lout) || (!m.ref && decide (m.lin < m.tokens.length)) then .reject 3 none
  else if d.duty 1 then
    match d.schedPick m.part.val m.cls m.lin m.lout d.now with
    | none => .reject 6 none
    | some j => d.judge m k ((d.schedEntry m.part.val j).start + (d.schedEntry m.part.val j).offset)
        (d.schedEntry m.part.val j).start (firstLane k.lanes (d.lanesFor m).free).1 (some j)
  else d.judge m k (d.promiseFor m k) (d.startFor m k) (firstLane k.lanes (d.lanesFor m).free).1 none

variable {d c m k}

/-- Where the checks before it pass, the class decides. -/
theorem Dev.verdict_class (hq : d.get TIME_STATUS_QUALITY ≠ 6) (ha : d.asks c m) (ht : d.takesRequests m.part.val)
    (h0 : d.get TIME_STATUS_QUALITY ≠ 0) (hk : (d.region m.part.val).classes.find? (fun k => k.cls == m.cls) = some k) :
    d.verdict c m = d.classVerdict m k := by
  obtain ⟨hmay, hmem⟩ := (d.asks_iff c m).1 ha
  rw [Dev.verdict]
  refine (if_neg hq).trans ((if_neg hmay).trans ((if_neg hmem).trans
    ((if_neg ((d.takesRequests_iff _).1 ht)).trans ((if_neg h0).trans ?_))))
  simp only [hk]
  rfl

/-- The lengths exceed those of the class. -/
theorem Dev.classVerdict_tooLong (h : k.linMax < m.lin ∨ k.loutMax < m.lout) : d.classVerdict m k = .reject 3 none :=
  if_pos (by rcases h with h | h <;> simp [h])

section Fits
variable (htok : m.ref = true ∨ m.tokens.length = m.lin) (hin : m.lin ≤ k.linMax) (hout : m.lout ≤ k.loutMax)
include htok hin hout

/-- The lengths are within those of the class, and so are the tokens that came. -/
theorem not_tooLong :
    ¬ (k.linMax < m.lin || decide (k.loutMax < m.lout) || (!m.ref && decide (m.lin < m.tokens.length))) = true := by
  rcases htok with h | h <;> simp [h, hin, hout]

/-- Without a host schedule the promise is computed. -/
theorem Dev.classVerdict_computed (hd : d.duty 1 = false) : d.classVerdict m k =
    d.judge m k (d.promiseFor m k) (d.startFor m k) (firstLane k.lanes (d.lanesFor m).free).1 none :=
  (if_neg (not_tooLong htok hin hout)).trans (if_neg (by simp [hd]))

/-- Under one, no entry qualifies. -/
theorem Dev.classVerdict_noSlot (hd : d.duty 1 = true)
    (hj : d.schedPick m.part.val m.cls m.lin m.lout d.now = none) : d.classVerdict m k = .reject 6 none := by
  refine (if_neg (not_tooLong htok hin hout)).trans ((if_pos hd).trans ?_)
  simp only [hj]

/-- Under one, the entry taken gives the promise. -/
theorem Dev.classVerdict_slot {j : Nat} (hd : d.duty 1 = true)
    (hj : d.schedPick m.part.val m.cls m.lin m.lout d.now = some j) : d.classVerdict m k =
    d.judge m k ((d.schedEntry m.part.val j).start + (d.schedEntry m.part.val j).offset)
      (d.schedEntry m.part.val j).start (firstLane k.lanes (d.lanesFor m).free).1 (some j) := by
  refine (if_neg (not_tooLong htok hin hout)).trans ((if_pos hd).trans ?_)
  simp only [hj]

end Fits

end Sys2Proof.Machine

open Sys2Proof Sys2Proof.Machine

/-- Settles O42: the command is its verdict, and the verdict is traced check by check. -/
theorem requestDecided : Obligations.RequestDecided := by
  intro s h m k hl hs c p d r now reject admitted
  have hexec := exec_req_served hl hs
  have htok : m.ref = true ∨ m.tokens.length = m.lin := by
    have hlen := hs.length
    simp only [Bool.and_eq_true, Bool.or_eq_true, beq_iff_eq] at hlen
    exact hlen.2
  refine ⟨fun hkind => hexec.trans (congrArg now (if_pos hkind)), fun hkind => ?_⟩
  have hverdict : ∀ v, d.verdict c m = v → exec (.req h m) s = now (d.decided c m v) := by
    rintro v rfl
    exact hexec.trans (congrArg now (if_neg (not_not.2 hkind)))
  refine ⟨fun hq => hverdict _ (d.verdict_stopped c m hq), fun hq ha => hverdict _ (d.verdict_credential c m hq ha),
    fun hq ha ht => hverdict _ (Dev.verdict_hold hq ha ht), fun hq ha ht => ?_⟩
  refine ⟨fun h0 => hverdict _ (Dev.verdict_unset hq ha ht h0), fun h0 => ?_⟩
  refine ⟨fun hk => hverdict _ (Dev.verdict_noClass hq ha ht h0 hk), fun hk => ?_⟩
  have hclass := Dev.verdict_class hq ha ht h0 hk
  refine ⟨fun hlong => hverdict _ (hclass.trans (Dev.classVerdict_tooLong hlong)), fun hin hout => ?_⟩
  have hjudged (promise start lane : Nat) (entry : Option Nat) (hv : d.verdict c m = d.judge m k promise start lane entry) :=
    And.intro (fun he => hverdict _ (hv.trans (Dev.judge_effort start lane entry he)))
      (And.intro (fun he hp => hverdict _ (hv.trans (Dev.judge_pastLast start lane entry he hp)))
        (And.intro (fun he hp hdead => hverdict _ (hv.trans (Dev.judge_inTime start lane entry he hp hdead)))
          fun t he hp hm hdead => hverdict _ (hv.trans (Dev.judge_late (t := t) start lane entry he hp hm hdead))))
  have hcomputed (hd : d.duty 1 = false) := hjudged _ _ _ _ (hclass.trans (Dev.classVerdict_computed htok hin hout hd))
  have hslot (j : Nat) (hd : d.duty 1 = true) (hj : d.schedPick p m.cls m.lin m.lout d.now = some j) :=
    hjudged _ _ _ _ (hclass.trans (Dev.classVerdict_slot htok hin hout hd hj))
  exact ⟨hcomputed, fun hd hj => hverdict _ (hclass.trans (Dev.classVerdict_noSlot htok hin hout hd hj)), hslot⟩

end

section
/-! PROOF. The duty frame boundary (R69, R126, R535), quarter power (R240, R241, R281), array repairs (R150, R505) and the tile's own
scrub (R259, R492, R494), and the statement about them. -/

namespace Sys2Proof.Machine

variable (s : State) (d : Dev) (t : Tile)

/-! ### The power state of a quarter -/

/-- A quarter reads what it was set to. -/
theorem Tile.quarter_setQuarter_same (j : Fin 4) (q : QPower) : (t.setQuarter j.val q).quarter j.val = q := by
  fin_cases j <;> rfl

/-- An OFF quarter of which OFF is asked stays as it is. -/
theorem Tile.startPower_off {j : Nat} (h : t.quarter j = .off) : t.startPower j 0 = t := by
  simp [Tile.startPower, h]

/-- All four quarters leave ON for OFF. -/
def Tile.allLeaving : Tile := { t with q0 := .leaving 0, q1 := .leaving 0, q2 := .leaving 0, q3 := .leaving 0 }

/-- With all four quarters ON, a request of OFF for each makes each leave ON. -/
theorem Tile.startPower_all (h0 : t.q0 = .on) (h1 : t.q1 = .on) (h2 : t.q2 = .on) (h3 : t.q3 = .on) :
    (((t.startPower 0 0).startPower 1 0).startPower 2 0).startPower 3 0 = t.allLeaving := by
  simp [Tile.startPower, Tile.quarter, Tile.setQuarter, Tile.allLeaving, h0, h1, h2, h3]

/-- The state that a transition's code leads to. -/
theorem powerCode_getD : ∀ k, (powerCode k).getD .on = if k = 0 then .off else if k = 1 then .retain else .on
  | 0 | 1 | 2 => rfl
  | _ + 3 => rfl

/-- A quarter that goes to OFF loses its contents, and the queue entries there are counted. -/
theorem Dev.loseQuarter_toOff {n j : Nat} {up : Bool} (h : (d.tile n).quarter j = .changing 0 up) :
    d.loseQuarter n j = (d.msgCount n 8 ((d.tile n).extCount j)).modTile n fun t => t.clearQuarter j :=
  if_pos (by simp [Tile.quarterLost, h])

/-- Quarter `j` stands in the state of code `k`, and what REQ asks for since begins. -/
def Dev.powerSettled (n j k : Nat) : Dev :=
  (d.loseQuarter n j).modTile n fun t =>
    (t.setQuarter j (if k = 0 then .off else if k = 1 then .retain else .on)).startPower j
      (bits (d.get (TILE_SP_POWER_REQ n)) (2 * j + 1) (2 * j))

/-- A quarter that goes to OFF and is to stay there. -/
theorem Dev.powerSettled_off {n : Nat} {j : Fin 4} {up : Bool} (hq : (d.tile n).quarter j.val = .changing 0 up)
    (hr : bits (d.get (TILE_SP_POWER_REQ n)) (2 * j.val + 1) (2 * j.val) = 0) :
    d.powerSettled n j.val 0 = (d.msgCount n 8 ((d.tile n).extCount j.val)).modTile n fun t =>
      (t.clearQuarter j.val).setQuarter j.val .off := by
  have hstay (t : Tile) : (t.setQuarter j.val .off).startPower j.val 0 = t.setQuarter j.val .off :=
    Tile.startPower_off _ (Tile.quarter_setQuarter_same _ _ _)
  rw [Dev.powerSettled, Dev.loseQuarter_toOff _ hq, hr, Dev.modTile_modTile]
  simp only [if_true, hstay]

/-! ### A write of TILE_SP_POWER -/

/-- What a write of `v` asks of quarter `j`: a code of 3 leaves what was asked before. -/
def Dev.powerAsked (n : Nat) (v : Word) (j : Nat) : Nat :=
  if bits v.toNat (2 * j + 1) (2 * j) = 3 then bits (d.get (TILE_SP_POWER_REQ n)) (2 * j + 1) (2 * j)
  else bits v.toNat (2 * j + 1) (2 * j)

/-- The device after the owner's write: REQ as asked, and each quarter on its way. -/
def Dev.powerRequested (n : Nat) (v : Word) : Dev :=
  (d.set (TILE_SP_POWER_REQ n)
      (d.powerAsked n v 0 + d.powerAsked n v 1 * 4 + d.powerAsked n v 2 * 16 + d.powerAsked n v 3 * 64)).modTile n fun t =>
    (((t.startPower 0 (d.powerAsked n v 0)).startPower 1 (d.powerAsked n v 1)).startPower 2 (d.powerAsked n v 2)).startPower 3
      (d.powerAsked n v 3)

/-- REQ is put together from its four codes. -/
theorem sum_quarterCodes (code : Nat → Nat) :
    ((List.range 4).map fun j => code j * 4 ^ j).sum = code 0 + code 1 * 4 + code 2 * 16 + code 3 * 64 := by
  simp [List.range_succ, Nat.add_assoc]

/-- The owner's write takes effect. -/
theorem Dev.spPowerWr_owner (n : Nat) (v : Word) : d.spPowerWr .owner n v = (d.powerRequested n v, stOk) := by
  have hreq := sum_quarterCodes (d.powerAsked n v)
  rw [Dev.powerRequested, ← hreq]
  rfl

/-- A write without the owner's rights does not. -/
theorem Dev.spPowerWr_denied (n : Nat) (v : Word) {c : Cred} (hc : isOwner c = false) : d.spPowerWr c n v = (d, stDenied) :=
  ownerWr_of_not_isOwner _ _ hc

/-- A write of 0 asks OFF of every quarter. -/
theorem Dev.powerRequested_zero (n : Nat) {v : Word} (hv : v.toNat = 0) :
    d.powerRequested n v = (d.set (TILE_SP_POWER_REQ n) 0).modTile n fun t =>
      (((t.startPower 0 0).startPower 1 0).startPower 2 0).startPower 3 0 := by
  have hcode (j : Nat) : d.powerAsked n v j = 0 := by simp [Dev.powerAsked, hv, bits]
  simp only [Dev.powerRequested, hcode, Nat.zero_mul, Nat.add_zero]

/-- With all four ON, each leaves ON. -/
theorem Dev.powerRequested_allOff (n : Nat) {v : Word} (hv : v.toNat = 0) (h0 : (d.tile n).q0 = .on) (h1 : (d.tile n).q1 = .on)
    (h2 : (d.tile n).q2 = .on) (h3 : (d.tile n).q3 = .on) :
    d.powerRequested n v = (d.set (TILE_SP_POWER_REQ n) 0).modTile n Tile.allLeaving := by
  rw [Dev.powerRequested_zero d n hv]
  exact Dev.modTile_congr _ _ _ _ (Tile.startPower_all _ h0 h1 h2 h3)

/-! ### The commands of duty and quarter power -/

/-- The next boundary of a duty frame, at which the arrays take up their duty. -/
def Dev.frameBegun : Dev :=
  let d := d.toTime (ceilDiv d.now 16 * 16)
  { d with power := { d.power with frameDuty := modeDuty (d.get PWR_ENVELOPE_ARRAY) } }

section Commands
variable {s} {tile : TileId} {j : Fin 4} {k : Nat} (hl : s.dev.live = true)
include hl

/-- DUTY_FRAME_BOUNDARY on a device that runs. -/
theorem exec_dutyFrameBoundary : exec .dutyFrameBoundary s = .next { s with dev := s.dev.frameBegun } := run_live Dev.frameBegun s hl

/-- SP_QUARTER_QUIESCED for a quarter to which no store is left. -/
theorem exec_spQuarterQuiesced_leaving (hq : (s.dev.tile tile.val).quarter j.val = .leaving k)
    (hs : (s.dev.tile tile.val).storesIn j.val = false) : exec (.spQuarterQuiesced tile j) s =
      .next { s with dev := s.dev.modTile tile.val fun t => t.setQuarter j.val (.changing k false) } :=
  exec_next rfl hl (Dev.modTile_congr _ _ _ _ (by simp [hq, hs]))

/-- SP_POWER_TRANSITION_DONE for a quarter in transition. -/
theorem exec_spPowerTransitionDone_changing {up : Bool} (hq : (s.dev.tile tile.val).quarter j.val = .changing k up) :
    exec (.spPowerTransitionDone tile j) s = .next { s with dev := s.dev.powerSettled tile.val j.val k } :=
  exec_next rfl hl (by simp only [hq, powerCode_getD, Dev.powerSettled])

/-- SP_POWER_REQ by the owner. -/
theorem exec_spPowerReq_owner (v : Word) : exec (.spPowerReq .owner tile v) s =
    .next { s with dev := (s.dev.powerRequested tile.val v).completed stOk 0 } :=
  exec_next rfl hl (congrArg ended (s.dev.spPowerWr_owner _ v))

/-- SP_POWER_REQ by any other. -/
theorem exec_spPowerReq_denied (v : Word) {c : Cred} (hc : isOwner c = false) : exec (.spPowerReq c tile v) s =
    .next { s with dev := s.dev.completed stDenied 0 } :=
  exec_next rfl hl (congrArg ended (s.dev.spPowerWr_denied _ v hc))

end Commands

/-! ### Array repairs -/

/-- A row or a column that waits is mapped out, where one of the two spares is left for it (R150). -/
def Tile.mapOut (e : Bool × Nat) : Tile :=
  if e.1 then (if t.badRows.length < 2 && !t.badRows.contains e.2 then { t with badRows := t.badRows ++ [e.2] } else t)
  else if t.badCols.length < 2 && !t.badCols.contains e.2 then { t with badCols := t.badCols ++ [e.2] } else t

/-- It does not put others on the list. -/
theorem Tile.mapOut_repairWait (e : Bool × Nat) : (t.mapOut e).repairWait = t.repairWait := by
  unfold Tile.mapOut
  split <;> split <;> rfl

/-- Nor do any number of them. -/
theorem foldl_mapOut_repairWait (l : List (Bool × Nat)) : (l.foldl Tile.mapOut t).repairWait = t.repairWait := by
  induction l generalizing t with
  | nil => rfl
  | cons e r ih => exact (ih _).trans (t.mapOut_repairWait e)

/-- A busy engine keeps its repairs waiting. -/
theorem Tile.arrayRepair_busy (h : t.mx.busy = true) : t.arrayRepair = t := if_pos h

/-- An idle one takes them all. -/
theorem Tile.arrayRepair_idle (h : t.mx.busy = false) :
    t.arrayRepair = t.repairWait.foldl Tile.mapOut { t with repairWait := [] } := if_neg (by simp [h])

/-- None waits after that. -/
theorem Tile.arrayRepair_repairWait (h : t.mx.busy = false) : t.arrayRepair.repairWait = [] := by
  rw [Tile.arrayRepair_idle t h]
  exact foldl_mapOut_repairWait _ _

/-- One row that waits, with nothing mapped out before. -/
theorem Tile.arrayRepair_firstRow {row : Nat} (h : t.mx.busy = false) (hw : t.repairWait = [(true, row)]) (hr : t.badRows = [])
    (hc : t.badCols = []) : t.arrayRepair.badRows = [row] ∧ t.arrayRepair.badCols = [] := by
  rw [Tile.arrayRepair_idle t h, hw]
  simp [Tile.mapOut, hr, hc]

/-- A SPARE record, whatever it says of the level, changes no tile. -/
theorem Dev.tile_spared (k : Nat) (n : Option Nat) (u : Nat) (b : List Byte) (up : Bool) (m : Nat) :
    (d.spared k n u b up).tile m = d.tile m := Dev.log_tile _ _ _

/-- Nor a fuse. -/
theorem Dev.fuses_spared (k : Nat) (n : Option Nat) (u : Nat) (b : List Byte) (up : Bool) :
    (d.spared k n u b up).fuses = d.fuses := Dev.log_fuses _ _

/-- An interrupt of the telemetry target changes no tile and no fuse. -/
theorem Dev.ibi_frame (b : Byte) : (∀ m, (d.ibi b).tile m = d.tile m) ∧ (d.ibi b).fuses = d.fuses := by
  unfold Dev.ibi
  split <;> exact ⟨fun _ => rfl, rfl⟩

/-- Nor does a rise of the service level. -/
theorem Dev.raiseLevel_frame (lvl reason : Nat) :
    (∀ m, (d.raiseLevel lvl reason).tile m = d.tile m) ∧ (d.raiseLevel lvl reason).fuses = d.fuses := by
  unfold Dev.raiseLevel
  dsimp only
  split
  · exact ⟨fun m => ((Dev.ibi_frame _ 2).1 m).trans (Dev.log_tile _ _ m), ((Dev.ibi_frame _ 2).2).trans (Dev.log_fuses _ _)⟩
  · exact ⟨fun _ => rfl, rfl⟩

/-- Nor one that comes only where a pool is empty. -/
theorem Dev.raiseLevel_ite_frame (full : Bool) (lvl reason : Nat) :
    (∀ m, (if full then d.raiseLevel lvl reason else d).tile m = d.tile m) ∧
      (if full then d.raiseLevel lvl reason else d).fuses = d.fuses := by
  cases full with
  | false => exact ⟨fun _ => rfl, rfl⟩
  | true => exact d.raiseLevel_frame lvl reason

/-- The number of rows and columns that a tile has mapped out. -/
def Tile.mappedOut : Nat := t.badRows.length + t.badCols.length

variable {s} {tile : TileId}

/-- ARRAY_REPAIR where nothing more is mapped out. -/
theorem exec_arrayRepair_same (hl : s.dev.live = true)
    (h : (s.dev.tile tile.val).arrayRepair.mappedOut = (s.dev.tile tile.val).mappedOut) :
    exec (.arrayRepair tile) s = .next (s.metered (s.dev.modTile tile.val fun _ => (s.dev.tile tile.val).arrayRepair)) :=
  exec_nextM rfl hl (if_pos h)

/-- ARRAY_REPAIR where more is mapped out: TILE_MX_REPAIR shows it and the repair fuses keep it. -/
theorem exec_arrayRepair_more (hl : s.dev.live = true)
    (h : (s.dev.tile tile.val).arrayRepair.mappedOut ≠ (s.dev.tile tile.val).mappedOut) :
    ∃ u, exec (.arrayRepair tile) s = .next u ∧
      (∀ m, u.dev.tile m = ((s.dev.modTile tile.val fun _ => (s.dev.tile tile.val).arrayRepair).modTile tile.val fun t =>
        { t with mxShown := (t.badRows, t.badCols) }).tile m) ∧
      u.dev.fuses.mxRepairs = (s.dev.fuses.mxRepairs.filter fun e => e.1 != s.dev.physOf tile.val) ++
        [(s.dev.physOf tile.val, (s.dev.tile tile.val).arrayRepair.badRows, (s.dev.tile tile.val).arrayRepair.badCols)] := by
  refine ⟨_, exec_nextM rfl hl (if_neg h), fun m => ?_, ?_⟩
  · exact ((Dev.raiseLevel_ite_frame _ _ _ _).1 m).trans (Dev.tile_spared _ _ _ _ _ _ m)
  · exact congrArg Fuses.mxRepairs ((Dev.raiseLevel_ite_frame _ _ _ _).2.trans (Dev.fuses_spared _ _ _ _ _ _))

/-- ARRAY_REPAIR on an idle engine: the repairs that waited are made, and the other tiles stay. -/
theorem exec_arrayRepair_idle (hl : s.dev.live = true) (h : (s.dev.tile tile.val).mx.busy = false) :
    ∃ u, exec (.arrayRepair tile) s = .next u ∧ (u.dev.tile tile.val).badRows = (s.dev.tile tile.val).arrayRepair.badRows ∧
      (u.dev.tile tile.val).badCols = (s.dev.tile tile.val).arrayRepair.badCols ∧ (u.dev.tile tile.val).repairWait = [] ∧
      TilesBut s u tile.val := by
  have hwait := Tile.arrayRepair_repairWait _ h
  by_cases hc : (s.dev.tile tile.val).arrayRepair.mappedOut = (s.dev.tile tile.val).mappedOut
  · refine ⟨_, exec_arrayRepair_same hl hc, ?_, ?_, ?_, fun m hm => Dev.tile_modTile_ne _ _ _ _ hm⟩
    all_goals simp [State.metered, hwait]
  · obtain ⟨u, hu, htile, -⟩ := exec_arrayRepair_more hl hc
    refine ⟨u, hu, ?_, ?_, ?_, fun m hm => ?_⟩
    · simp [htile]
    · simp [htile]
    · simp [htile, hwait]
    · rw [htile, Dev.tile_modTile_ne _ _ _ _ hm, Dev.tile_modTile_ne _ _ _ _ hm]

/-- ARRAY_REPAIR of one row, the first on its tile. -/
theorem exec_arrayRepair_firstRow {row : Nat} (hl : s.dev.live = true) (h : (s.dev.tile tile.val).mx.busy = false)
    (hw : (s.dev.tile tile.val).repairWait = [(true, row)]) (hr : (s.dev.tile tile.val).badRows = [])
    (hc : (s.dev.tile tile.val).badCols = []) :
    ∃ u, exec (.arrayRepair tile) s = .next u ∧ (u.dev.tile tile.val).badRows = [row] ∧ (u.dev.tile tile.val).repairWait = [] ∧
      u.dev.fuses.mxRepairs = (s.dev.fuses.mxRepairs.filter fun e => e.1 != s.dev.physOf tile.val) ++
        [(s.dev.physOf tile.val, [row], [])] ∧ TilesBut s u tile.val := by
  obtain ⟨hrows, hcols⟩ := Tile.arrayRepair_firstRow _ h hw hr hc
  have hmore : (s.dev.tile tile.val).arrayRepair.mappedOut ≠ (s.dev.tile tile.val).mappedOut := by
    simp [Tile.mappedOut, hrows, hcols, hr, hc]
  obtain ⟨u, hu, hbad, -, hwait, hbut⟩ := exec_arrayRepair_idle hl h
  obtain ⟨u', hu', -, hfuses⟩ := exec_arrayRepair_more hl hmore
  obtain rfl : u = u' := Host.Outcome.next.inj (hu.symm.trans hu')
  exact ⟨u, hu, hbad.trans hrows, hwait, by rw [hfuses, hrows, hcols], hbut⟩

/-! ### The tile's own scrub -/

/-- The next access of the tile's pass. -/
def Tile.scrubLine : Nat := t.scrubNext t.scrubPos

/-- The device after the tile's scrub engine has made its next access, and its walker has moved. -/
def Dev.scrubbed (n : Nat) (ecc : Ecc) : Dev :=
  (d.scrubAt n (d.tile n).scrubLine ecc).modWalker (d.driverOf n) fun x => { x with moved := true }

/-- Tile n ends its pass: walker w goes to its next tile, and with the last of them its pass ends. -/
def Dev.scrubTileEnds (n w : Nat) : Dev :=
  let d := d.modTile n fun t => { t with scrubPos := 0, twice := [] }
  let next := ((d.walkerTiles w).find? fun m => decide (n < m)).getD ((d.walkerTiles w).headD 0)
  let d := (d.modWalker w fun x => { x with pos := next }).set (FLT_WALKER_POSITION w) next
  if next ≤ n then d.passEnd w else d

section Scrub
variable (ecc : Ecc) (hl : s.dev.live = true) (hp : bit (s.dev.get DMC_DUTY_STATE_PENDING) 3 = 0) (hd : s.dev.duty 3 = false)
include hl hp hd

/-- SCRUB_ACCESS by itself, whose walkers are both stopped. -/
theorem exec_scrubAccess_stopped (hw : s.dev.is (FLT_WALKER_STOPPED (s.dev.driverOf tile.val)) = true) :
    exec (.scrubAccess tile ecc) s = .next (s.metered s.dev) :=
  exec_nextM rfl hl (by simp [hp, hd, hw])

variable (hw : s.dev.is (FLT_WALKER_STOPPED (s.dev.driverOf tile.val)) = false)
include hw

/-- SCRUB_ACCESS by itself, before the tile's last line. -/
theorem exec_scrubAccess_line (hk : (s.dev.tile tile.val).scrubLine + 1 < scrubLen) :
    exec (.scrubAccess tile ecc) s = .next (s.metered ((s.dev.scrubbed tile.val ecc).modTile tile.val fun t =>
      { t with scrubPos := (s.dev.tile tile.val).scrubLine + 1 })) := by
  refine exec_nextM rfl hl ?_
  have hk' : (s.dev.tile tile.val).scrubNext (s.dev.tile tile.val).scrubPos + 1 < scrubLen := hk
  simp [hp, hd, hw, hk', Dev.scrubbed, Tile.scrubLine]

/-- SCRUB_ACCESS by itself, at the tile's last line. -/
theorem exec_scrubAccess_last (hk : scrubLen ≤ (s.dev.tile tile.val).scrubLine + 1) :
    exec (.scrubAccess tile ecc) s =
      .next (s.metered ((s.dev.scrubbed tile.val ecc).scrubTileEnds tile.val (s.dev.driverOf tile.val))) := by
  refine exec_nextM rfl hl ?_
  have hk' : ¬ (s.dev.tile tile.val).scrubNext (s.dev.tile tile.val).scrubPos + 1 < scrubLen := Nat.not_lt.2 hk
  simp [hp, hd, hw, hk', Dev.scrubbed, Tile.scrubLine, Dev.scrubTileEnds]

end Scrub

/-- A scratchpad line that holds no bad word and waits for no spare is rewritten. -/
theorem Dev.scrubAt_scratch {n k : Nat} (hk : k < 98304) (hdue : (d.tile n).scrubDue.contains k = false)
    (hue : (d.tile n).ueIn (k * 256) 256 = false) :
    d.scrubAt n k .ok = d.modTile n fun t => { t with ceLines := t.ceLines.filter (· != k) } := by
  have hoff : scrubOff k = some (k * 256) := if_pos hk
  have hline : k * 256 / 256 = k := Nat.mul_div_cancel _ (by decide)
  simp only [Dev.scrubAt, hoff, hline, hdue, hue, Bool.and_false, Bool.false_eq_true, if_false]

end Sys2Proof.Machine

open Sys2Proof Sys2Proof.Machine

/-- Settles O28: each command by the state that it meets. -/
theorem tilePowerAndRepairs : Obligations.TilePowerAndRepairs := by
  refine ⟨fun s tile j k v hl => ?_, fun s tile row ecc hl => ?_⟩
  · intro n t onTile d duty
    refine ⟨⟨exec_dutyFrameBoundary hl, fun _ _ _ _ => rfl⟩, exec_spQuarterQuiesced_leaving hl, fun hq hr => ?_,
      fun _ _ => exec_spPowerTransitionDone_changing hl, ⟨exec_spPowerReq_owner hl v, fun _ => exec_spPowerReq_denied hl v⟩,
      fun hv h0 h1 h2 h3 => ?_⟩
    · rw [exec_spPowerTransitionDone_changing hl hq, Dev.powerSettled_off _ hq hr]
    · rw [exec_spPowerReq_owner hl, Dev.powerRequested_allOff _ _ hv h0 h1 h2 h3]
      rfl
  · intro n t scrubs
    refine ⟨fun hb => ?_, exec_arrayRepair_idle hl, exec_arrayRepair_firstRow hl, fun hp hd => ?_⟩
    · have hsame : t.arrayRepair = t := Tile.arrayRepair_busy t hb
      refine ⟨_, exec_arrayRepair_same hl (congrArg Tile.mappedOut hsame), ?_⟩
      exact congrArg (fun x => s.dev.modTile n fun _ => x) hsame
    · exact ⟨exec_scrubAccess_stopped ecc hl hp hd,
        fun hw => ⟨exec_scrubAccess_line ecc hl hp hd hw, exec_scrubAccess_last ecc hl hp hd hw, Dev.scrubAt_scratch _⟩⟩

end

section
/-! PROOF. How device time is set, steered, disciplined and distributed (R45 to R57, R406, R568), and the statement about it. -/

namespace Sys2Proof.Machine

variable (s : State) (d : Dev) {cred : Cred} (v : Word)

/-! ### What leaves the clock

CAPS messages and everything that a second boundary does once its count is set leave device time, and messages the discipline too. -/

/-- Device time and its discipline are as before. -/
def Dev.SameClock (d e : Dev) : Prop := e.now = d.now ∧ e.time = d.time

/-- A message is queued or discarded. -/
theorem Dev.sameClock_queueMsg (c : Nat) (m : TxMsg) : d.SameClock (d.queueMsg c m) := by
  unfold Dev.queueMsg
  split <;> exact ⟨rfl, rfl⟩

/-- CAPS on every open PEER context. -/
theorem Dev.sameClock_capsAll : d.SameClock d.capsAll :=
  List.foldlRecOn (motive := d.SameClock) _ _ ⟨rfl, rfl⟩ fun e he c _ =>
    have h := e.sameClock_queueMsg c.1 (mkMsg 0x05 (e.get (NOP_CTX_CFG_PART c.1)) c.1 true (e.capsPayload c.1))
    ⟨h.1.trans he.1, h.2.trans he.2⟩

/-- QUALITY brought up to date. -/
theorem Dev.sameClock_requality : d.SameClock d.requality := by
  unfold Dev.requality
  split
  · exact ⟨rfl, rfl⟩
  · exact Dev.sameClock_capsAll _

@[simp] theorem Dev.requality_now : d.requality.now = d.now := d.sameClock_requality.1
@[simp] theorem Dev.requality_time : d.requality.time = d.time := d.sameClock_requality.2
@[simp] theorem Dev.secondWarn_now : d.secondWarn.now = d.now := by
  unfold Dev.secondWarn
  split <;> rfl
@[simp] theorem Dev.steerDuty_now : d.steerDuty.now = d.now := by
  unfold Dev.steerDuty
  split <;> rfl
@[simp] theorem Dev.secondHold_now (held : Bool) : (d.secondHold held).now = d.now := by
  unfold Dev.secondHold
  split <;> rfl
@[simp] theorem Dev.secondPps_now : d.secondPps.now = d.now := by
  unfold Dev.secondPps
  split <;> rfl
@[simp] theorem Dev.ptpCheck_now : d.ptpCheck.now = d.now := by
  unfold Dev.ptpCheck
  dsimp only
  split <;> rfl

/-! ### Second boundaries (R45, R47, R48) -/

/-- A second begins at its cycle 0. -/
theorem Dev.secondBegin_now (n : Nat) : (d.secondBegin n).now % secLen = 0 := by
  simp [Dev.secondBegin]

/-- A second boundary before the last second leads to a cycle 0. -/
theorem Dev.toSecond_now (he : d.time.exhausted = false) (hs : d.now / secLen < lastSecond) : d.toSecond.now % secLen = 0 := by
  have hnot : ¬ d.time.exhausted = true := by simp [he]
  rw [Dev.toSecond]
  refine (congrArg (fun e : Dev => e.now % secLen) ((if_neg hnot).trans (if_neg (Nat.ne_of_lt hs)))).trans ?_
  exact Dev.secondBegin_now _ _

/-- In the last second the count stops. -/
theorem Dev.toSecond_last (he : d.time.exhausted = false) (hs : d.now / secLen = lastSecond) :
    d.toSecond.now = lastTime ∧ d.toSecond.time.exhausted = true := by
  have hnot : ¬ d.time.exhausted = true := by simp [he]
  have hstop : d.toSecond = ({ d with tick := d.tick + (lastTime - d.now) } : Dev).exhaust :=
    (if_neg hnot).trans (if_pos hs)
  rw [hstop, Dev.exhaust, Dev.requality_now, Dev.requality_time]
  exact ⟨rfl, rfl⟩

/-! ### The three registers under another credential -/

/-- The next state of a command that changes the device alone. -/
def State.nextDev (d : Dev) : Host.Outcome State Fault Refusal := .next { s with dev := d }

variable {s} in
/-- TIME_SET, TIME_CTRL and TIME_STEER are the owner's (R5). -/
theorem exec_timeWrite_denied (hl : s.dev.live = true) (ho : isOwner cred = false) :
    ∀ c ∈ ([.timeSet cred v, .timeCtrlWrite cred v, .timeSteerWrite cred v] : List Instr),
      exec c s = s.nextDev (s.dev.completed stDenied 0) := by
  have hset : s.dev.timeSetWr cred v.toNat = (s.dev, stDenied) := ownerWr_of_not_isOwner _ _ ho
  have hctrl : s.dev.timeCtrlWr cred v.toNat = (s.dev, stDenied) := ownerWr_of_not_isOwner _ _ ho
  have hsteer : s.dev.timeSteerWr cred v.toNat = (s.dev, stDenied) := ownerWr_of_not_isOwner _ _ ho
  intro c hc
  simp only [List.mem_cons, List.not_mem_nil, or_false] at hc
  rcases hc with rfl | rfl | rfl
  · exact exec_next rfl hl (congrArg ended hset)
  · exact exec_next rfl hl (congrArg ended hctrl)
  · exact exec_next rfl hl (congrArg ended hsteer)

/-! ### TIME_SET (R45, R46) -/

/-- SECOND and SOURCE as the write gives them. -/
def Dev.setTaken (v : Nat) : Dev := (d.take TIME_SET_SECOND v).take TIME_SET_SOURCE v

section TimeSet
variable {d} {v : Nat} (ho : isOwner cred = true)
include ho

/-- The owner's write without ARM. -/
theorem Dev.timeSetWr_unarmed (ha : TIME_SET_ARM.of v = 0) : d.timeSetWr cred v = (d.setTaken v, stOk) := by
  rw [Dev.timeSetWr, ownerWr_of_isOwner _ _ ho]
  exact if_neg (by simp [ha])

/-- The owner's write with ARM while no partition is in service. -/
theorem Dev.timeSetWr_armed (ha : TIME_SET_ARM.of v = 1) (hi : (d.setTaken v).anyInService = false) :
    d.timeSetWr cred v = ((d.setTaken v).flag TIME_SET_ARM true, stOk) := by
  rw [Dev.timeSetWr, ownerWr_of_isOwner _ _ ho]
  exact (if_pos ha).trans (if_neg (ne_true_of_eq_false hi))

/-- The owner's write with ARM while one is. -/
theorem Dev.timeSetWr_refused (ha : TIME_SET_ARM.of v = 1) (hi : (d.setTaken v).anyInService = true) :
    d.timeSetWr cred v = (((d.setTaken v).flag TIME_SET_ARM false).flag TIME_EVENTS_SET_REFUSED true, stOk) := by
  rw [Dev.timeSetWr, ownerWr_of_isOwner _ _ ho]
  exact (if_pos ha).trans (if_pos hi)

end TimeSet

variable {v} in
/-- TIME_SET on a device that runs. -/
theorem exec_timeSet {s : State} {e : Dev} {st : Byte} (hl : s.dev.live = true)
    (h : s.dev.timeSetWr cred v.toNat = (e, st)) : exec (.timeSet cred v) s = s.nextDev (e.completed st 0) :=
  exec_next rfl hl (congrArg ended h)

section Apply
variable {s} (hl : s.dev.live = true)
include hl

/-- Nothing is armed. -/
theorem exec_timeSetApply_unarmed (ha : s.dev.is TIME_SET_ARM = false) : exec .timeSetApply s = s.nextDev s.dev :=
  exec_next rfl hl (if_pos (by simp [ha]))

variable (ha : s.dev.is TIME_SET_ARM = true)
include ha

/-- An armed set waits for the next cycle 0. -/
theorem exec_timeSetApply_running (he : s.dev.time.exhausted = false) : exec .timeSetApply s = s.nextDev s.dev.toSecond :=
  exec_next rfl hl ((if_neg (by simp [ha])).trans (if_pos (by simp [he])))

variable (he : s.dev.time.exhausted = true)
include he

/-- A count that has stopped takes the set at once (log 7). -/
theorem exec_timeSetApply_restart (hs : (s.dev.setSecond lastSecond).isSome = true) : exec .timeSetApply s =
    s.nextDev (({ s.dev with time := { s.dev.time with exhausted := false } } : Dev).secondBegin lastSecond) :=
  exec_next rfl hl ((if_neg (by simp [ha])).trans ((if_neg (by simp [he])).trans (if_pos hs)))

/-- Or it refuses it at once and stays stopped (log 7). -/
theorem exec_timeSetApply_refused (hs : s.dev.setSecond lastSecond = none) : exec .timeSetApply s =
    s.nextDev ((s.dev.flag TIME_SET_ARM false).flag TIME_EVENTS_SET_REFUSED true).requality :=
  exec_next rfl hl ((if_neg (by simp [ha])).trans ((if_neg (by simp [he])).trans
    ((if_neg (by simp [hs])).trans (congrArg Dev.requality (if_pos ha)))))

end Apply

/-- TIME_EXHAUSTED in the last second. -/
theorem exec_timeExhausted_last {s : State} (hl : s.dev.live = true) (he : s.dev.time.exhausted = false)
    (hs : s.dev.now / secLen = lastSecond) : exec .timeExhausted s = s.nextDev s.dev.toSecond :=
  exec_next rfl hl (if_pos (by simp [he, hs]))

/-! ### TIME_CTRL (R55, R56) -/

/-- TIME_CTRL's fields as the write gives them; with a change of PTP_PORT, PTP_LOCK falls. -/
def Dev.ctrlTaken (v : Nat) : Dev :=
  let x := (((d.take TIME_CTRL_HOLD_PPB v).take TIME_CTRL_PPS_COMP v).take TIME_CTRL_PTP_PORT v).take TIME_CTRL_PPS_OUT_EN v
  if TIME_CTRL_PTP_PORT.of v ≠ d.get TIME_CTRL_PTP_PORT then x.flag TIME_CTRL_PTP_LOCK false else x.take TIME_CTRL_PTP_LOCK v

/-- With PPS_OUT_EN 0 no pulse is put out. -/
def Dev.ppsGated : Dev :=
  if d.is TIME_CTRL_PPS_OUT_EN then d else { d with time := { d.time with ppsOut := false } }

/-- The owner's write. -/
theorem Dev.timeCtrlWr_owner (v : Nat) (ho : isOwner cred = true) :
    d.timeCtrlWr cred v = ((d.ctrlTaken v).ppsGated.requality, stOk) := by
  rw [Dev.timeCtrlWr, ownerWr_of_isOwner _ _ ho]
  simp only [bne_iff_ne]
  rfl

/-- TIME_CTRL_WRITE by the owner. -/
theorem exec_timeCtrlWrite_owner {s : State} (hl : s.dev.live = true) (ho : isOwner cred = true) :
    exec (.timeCtrlWrite cred v) s = s.nextDev ((s.dev.ctrlTaken v.toNat).ppsGated.requality.completed stOk 0) :=
  exec_next rfl hl (congrArg ended (s.dev.timeCtrlWr_owner v.toNat ho))

/-! ### TIME_STEER (R51, R54) -/

/-- A steering value within its bounds is one that clamping leaves. -/
theorem clamp_eq_self_iff (x : Int) : max (-25000) (min 25000 x) = x ↔ x.natAbs ≤ 25000 := by omega

/-- A value that is out of bounds is noted as clamped. -/
def Dev.clampNoted (x : Int) : Dev := if x.natAbs ≤ 25000 then d else d.flag TIME_EVENTS_STEER_CLAMPED true

/-- The value is kept, clamped, for the next cycle 0. -/
def Dev.steerKept (x : Int) : Dev :=
  { d with time := { d.time with steerNext := some (max (-25000) (min 25000 x)), steered := true } }

/-- FREE and HOLDOVER go to ACQUIRE, but not at the handover. -/
def Dev.steerEnters : Dev :=
  if (d.tdState = tdHoldover || d.tdState = tdFree) && !d.time.handover then d.tdEnter tdAcquire else d

/-- The note that a value was clamped is no part of the discipline state. -/
theorem Dev.tdState_clampNoted (x : Int) : (d.clampNoted x).tdState = d.tdState := by
  unfold Dev.clampNoted
  split
  · rfl
  · exact Dev.get_set_ne _ _ _ _ (by decide)

/-- Nor of the handover. -/
theorem Dev.time_clampNoted (x : Int) : (d.clampNoted x).time = d.time := by
  unfold Dev.clampNoted
  split <;> rfl

/-- Whether ACQUIRE is entered hangs on the device before the write. -/
theorem Dev.steerEnters_kept (x : Int) : ((d.clampNoted x).steerKept x).steerEnters =
    if (d.tdState = 0 ∨ d.tdState = 3) ∧ d.time.handover = false then ((d.clampNoted x).steerKept x).tdEnter 1
    else (d.clampNoted x).steerKept x := by
  have hstate : ((d.clampNoted x).steerKept x).tdState = d.tdState := d.tdState_clampNoted x
  have hsame : (d.clampNoted x).time.handover = d.time.handover := by rw [d.time_clampNoted x]
  have hover : ((d.clampNoted x).steerKept x).time.handover = d.time.handover := hsame
  refine if_congr ?_ rfl rfl
  simp [hstate, hover, tdHoldover, tdFree, or_comm]

section Steer
variable {d} (v : Nat) (ho : isOwner cred = true)
include ho

/-- The owner's write under the PPS loop. -/
theorem Dev.timeSteerWr_readOnly (hh : d.hostSteers = false) : d.timeSteerWr cred v = (d, stOk) := by
  rw [Dev.timeSteerWr, ownerWr_of_isOwner _ _ ho]
  exact if_pos (by simp [hh])

/-- The owner's write under host steering. -/
theorem Dev.timeSteerWr_steers (hh : d.hostSteers = true) : d.timeSteerWr cred v =
    (((d.clampNoted (signedOf 32 (TIME_STEER_STEER.of v))).steerKept (signedOf 32 (TIME_STEER_STEER.of v))).steerEnters.requality,
      stOk) := by
  have hclamp : d.clampNoted (signedOf 32 (TIME_STEER_STEER.of v)) = _ := (if_congr (clamp_eq_self_iff _) rfl rfl).symm
  rw [Dev.timeSteerWr, ownerWr_of_isOwner _ _ ho, hclamp]
  exact if_neg (by simp [hh])

end Steer

/-- TIME_STEER_WRITE on a device that runs. -/
theorem exec_timeSteerWrite {s : State} {v : Word} {e : Dev} {st : Byte} (hl : s.dev.live = true)
    (h : s.dev.timeSteerWr cred v.toNat = (e, st)) : exec (.timeSteerWrite cred v) s = s.nextDev (e.completed st 0) :=
  exec_next rfl hl (congrArg ended h)

/-! ### Pulses (R48 to R51, R54, R56, R568) -/

/-- The instant, from the cycle 0 that it belongs to, at which a pulse `raw` cycles from it is heeded. -/
def Dev.heededAt (raw : Int) : Int := max raw (raw + d.ppsComp)

/-- The device as the pulse is heeded. -/
def Dev.atEdge (raw : Int) : Dev := d.toEdge (d.heededAt raw)

/-- What is left to slew at the cycle 0 that the pulse belongs to. -/
def Dev.slewAtEdge (raw : Int) : Int :=
  if decide (d.heededAt raw < 0) then (d.atEdge raw).slewLeft else (d.atEdge raw).time.slew

/-- A pulse with offset `o` is noted in LAST_OFFSET, as that of the cycle 0 to come or of the last one. -/
def Dev.edgeSeen (o : Int) (ahead : Bool) : Dev :=
  let e := d.set TIME_STATUS_LAST_OFFSET ((max (-32767) (min 32767 o)) % 2 ^ 16).toNat
  { e with time := { e.time with edgeFor := (if ahead then e.now / secLen + 1 else e.now / secLen) + 1 } }

/-- LAST_OFFSET is no part of the modes in effect. -/
theorem Dev.hostSteers_edgeSeen (o : Int) (ahead : Bool) : (d.edgeSeen o ahead).hostSteers = d.hostSteers := by
  have hget : (d.edgeSeen o ahead).get DMC_DUTY_STATE_EFFECTIVE = d.get DMC_DUTY_STATE_EFFECTIVE :=
    Dev.get_set_ne d _ _ _ (by decide)
  simp only [Dev.hostSteers, Dev.duty, hget]

/-- The device once a pulse that is no spurious one is noted. -/
def Dev.edgeNoted (raw : Int) : Dev := (d.atEdge raw).edgeSeen (raw + d.ppsComp) (decide (d.heededAt raw < 0))

/-- The device as the window of a second closes without a pulse. -/
def Dev.edgeMissed : Dev :=
  let e := d.toTime (d.windowFor * secLen)
  let e := e.toTime (e.now / secLen * secLen + e.windowHalf e.time.slew)
  let x : Dev := { e with time := { e.time with edgeFor := e.now / secLen + 1 } }
  ((x.flag TIME_EVENTS_PPS_MISSED true).pulseMissing).requality

/-- The device as PPS_OUT falls. -/
def Dev.ppsOutFallen : Dev :=
  let e := d.toTick (d.time.ppsRose + 105000)
  { e with time := { e.time with ppsOut := false } }

/-- A pulse that belongs to this cycle finds the device as it is. -/
theorem Dev.toEdge_now {o : Int} (h0 : 0 ≤ o) (hn : d.now % secLen = o.toNat) : d.toEdge o = d := by
  rw [Dev.toEdge, if_pos h0, if_pos hn.le, ← hn, Nat.div_add_mod']
  exact d.toTime_past (le_refl _)

variable {d} in
/-- What makes a pulse no spurious one, in the model's words. -/
theorem not_spurious (raw : Int) (hw : (d.atEdge raw).tdState = 0 ∨
    (raw + d.ppsComp).natAbs ≤ (d.atEdge raw).windowHalf (d.slewAtEdge raw)) :
    ¬ ((d.atEdge raw).tdState != tdFree &&
      decide ((d.atEdge raw).windowHalf (d.slewAtEdge raw) < (raw + d.ppsComp).natAbs)) = true := by
  rw [Bool.and_eq_true, bne_iff_ne, decide_eq_true_eq, not_and_or, not_ne_iff, not_lt]
  exact hw

section Pulses
variable {s} (hl : s.dev.live = true)
include hl

/-- No pulse is heeded in the ROM stage (R568). -/
theorem exec_ppsEdge_unheeded (hh : s.dev.ppsHeeded = false) (raw : Int) : exec (.ppsEdge raw) s = s.nextDev s.dev :=
  exec_next rfl hl (if_pos (by simp [hh]))

section Edge
variable (hh : s.dev.ppsHeeded = true) (raw : Int)
include hh

/-- A pulse outside the window. -/
theorem exec_ppsEdge_spurious (hf : (s.dev.atEdge raw).tdState ≠ 0)
    (hw : (s.dev.atEdge raw).windowHalf (s.dev.slewAtEdge raw) < (raw + s.dev.ppsComp).natAbs) :
    exec (.ppsEdge raw) s = s.nextDev ((s.dev.atEdge raw).flag TIME_EVENTS_PPS_SPURIOUS true) :=
  exec_next rfl hl ((if_neg (by simp [hh])).trans (if_pos (by
    rw [Bool.and_eq_true, bne_iff_ne, decide_eq_true_eq]
    exact ⟨hf, hw⟩)))

variable (hw : (s.dev.atEdge raw).tdState = 0 ∨
  (raw + s.dev.ppsComp).natAbs ≤ (s.dev.atEdge raw).windowHalf (s.dev.slewAtEdge raw))
include hw

/-- A pulse inside the window, or in FREE, only shows under host steering. -/
theorem exec_ppsEdge_shown (hs : (s.dev.atEdge raw).hostSteers = true) :
    exec (.ppsEdge raw) s = s.nextDev (s.dev.edgeNoted raw) :=
  exec_next rfl hl ((if_neg (by simp [hh])).trans ((if_neg (not_spurious raw hw)).trans
    (if_pos ((Dev.hostSteers_edgeSeen _ _ _).trans hs))))

/-- Else it drives the loop. -/
theorem exec_ppsEdge_captured (hs : (s.dev.atEdge raw).hostSteers = false) :
    exec (.ppsEdge raw) s = s.nextDev ((s.dev.edgeNoted raw).edgeCaptured (raw + s.dev.ppsComp) (decide (s.dev.heededAt raw < 0))
      (s.dev.heededAt raw - (raw + s.dev.ppsComp)).toNat) :=
  exec_next rfl hl ((if_neg (by simp [hh])).trans ((if_neg (not_spurious raw hw)).trans
    (if_neg (ne_true_of_eq_false ((Dev.hostSteers_edgeSeen _ _ _).trans hs)))))

end Edge

/-- A missing pulse is noted as the window closes. -/
theorem exec_ppsMissed_heeded (hh : s.dev.ppsHeeded = true) (hs : s.dev.hostSteers = false) :
    exec .ppsMissed s = s.nextDev s.dev.edgeMissed :=
  exec_next rfl hl (if_neg (by simp [hh, hs]))

/-- None is missed in the ROM stage, nor under host steering. -/
theorem exec_ppsMissed_unheeded (h : s.dev.ppsHeeded = false ∨ s.dev.hostSteers = true) :
    exec .ppsMissed s = s.nextDev s.dev :=
  exec_next rfl hl (if_pos (by rcases h with h | h <;> simp [h]))

/-- PPS_OUT falls 105,000 cycles after it rose. -/
theorem exec_ppsOutFall_high (ho : s.dev.time.ppsOut = true) : exec .ppsOutFall s = s.nextDev s.dev.ppsOutFallen :=
  exec_next rfl hl (if_pos ho)

/-- A PPS_OUT that is low stays low. -/
theorem exec_ppsOutFall_low (ho : s.dev.time.ppsOut = false) : exec .ppsOutFall s = s.nextDev s.dev :=
  exec_next rfl hl (if_neg (ne_true_of_eq_false ho))

end Pulses

/-! ### PTP (R55, R406) -/

/-- A PTP_PORT whose latest Sync is older than 2 s is not locked. -/
theorem Dev.ptpLocked_old {port : Nat} {e : Nat × SyncRec} (hf : (d.time.syncs.find? fun e => e.1 == port) = some e)
    (ht : e.2.at_ + 2 * secLen < d.now) : d.ptpLocked port = false := by
  simp [Dev.ptpLocked, hf, ht]

/-- PTP_LOCK falls with the lock of its port. -/
theorem Dev.ptpCheck_unlocks (hk : d.is TIME_CTRL_PTP_LOCK = true) (hp : d.ptpLocked (d.get TIME_CTRL_PTP_PORT) = false) :
    d.ptpCheck = (d.flag TIME_CTRL_PTP_LOCK false).flag TIME_EVENTS_PTP_UNLOCK true :=
  if_pos (by simp [hk, hp])

/-- A Sync or a Follow_Up received on port n is kept for R55. -/
def Dev.syncNoted (n : Nat) (ev : PtpEvent) : Dev :=
  let note (y : SyncRec) : Dev := { d with time := { d.time with syncs := mset d.time.syncs n y } }
  if ev.sync then note ⟨d.now, if ev.twoStep then none else some ev.origin.toNat⟩
  else if ev.followUp then
    match d.time.syncs.find? fun e => e.1 == n with
    | some e => note { e.2 with origin := some ev.origin.toNat }
    | none => d
  else d

/-- With PTP_EN a frame of port n is relayed with its timestamp (R406). -/
def Dev.ptpRelayed (n : Nat) (ev : PtpEvent) : Dev :=
  if d.is (ETH_P_CTRL_PTP_EN n) then d.push pushPtp (ptpRx n ev.frac d.now ev.frame) else d

/-- Keeping a Sync changes the discipline alone. -/
theorem Dev.syncNoted_frame (n : Nat) (ev : PtpEvent) : ∃ x, d.syncNoted n ev = { d with time := x } := by
  unfold Dev.syncNoted
  dsimp only
  split
  · exact ⟨_, rfl⟩
  · split
    · split <;> exact ⟨_, rfl⟩
    · exact ⟨_, rfl⟩

variable {d} in
/-- Without PTP_EN the frame goes no further. -/
theorem Dev.ptpRelayed_off {n : Nat} (ev : PtpEvent) (h : d.is (ETH_P_CTRL_PTP_EN n) = false) :
    (d.syncNoted n ev).ptpRelayed n ev = d.syncNoted n ev := by
  obtain ⟨x, hx⟩ := d.syncNoted_frame n ev
  rw [hx]
  exact if_neg (ne_true_of_eq_false h)

variable {d} in
/-- With it the frame carries the time of its receipt. -/
theorem Dev.ptpRelayed_on {n : Nat} (ev : PtpEvent) (h : d.is (ETH_P_CTRL_PTP_EN n) = true) :
    (d.syncNoted n ev).ptpRelayed n ev = (d.syncNoted n ev).push 0x54 (ptpRx n ev.frac d.now ev.frame) := by
  obtain ⟨x, hx⟩ := d.syncNoted_frame n ev
  rw [hx]
  exact if_pos h

section Ptp
variable {s} {port : PortId} (hl : s.dev.live = true)
include hl

/-- Without PTP_LOCK there is nothing to lose. -/
theorem exec_ptpSyncTimeout_unlocked (hk : s.dev.is TIME_CTRL_PTP_LOCK = false) : exec .ptpSyncTimeout s = s.nextDev s.dev :=
  exec_next rfl hl (if_neg (ne_true_of_eq_false hk))

/-- Time passes to 2 s after the latest Sync, and PTP_LOCK is looked at. -/
theorem exec_ptpSyncTimeout_locked {e : Nat × SyncRec} (hk : s.dev.is TIME_CTRL_PTP_LOCK = true)
    (hf : (s.dev.time.syncs.find? fun e => e.1 == s.dev.get TIME_CTRL_PTP_PORT) = some e) :
    exec .ptpSyncTimeout s = s.nextDev (s.dev.toTime (e.2.at_ + 2 * secLen + 1)).ptpCheck.requality := by
  refine exec_next rfl hl ((if_pos hk).trans ?_)
  simp only [hf]

/-- Where these 2 s are past, it falls. -/
theorem exec_ptpSyncTimeout_past {e : Nat × SyncRec} (hk : s.dev.is TIME_CTRL_PTP_LOCK = true)
    (hf : (s.dev.time.syncs.find? fun e => e.1 == s.dev.get TIME_CTRL_PTP_PORT) = some e)
    (ht : e.2.at_ + 2 * secLen < s.dev.now) : exec .ptpSyncTimeout s =
      s.nextDev ((s.dev.flag TIME_CTRL_PTP_LOCK false).flag TIME_EVENTS_PTP_UNLOCK true).requality := by
  rw [exec_ptpSyncTimeout_locked hl hk hf, Dev.toTime_past _ ht, Dev.ptpCheck_unlocks _ hk (Dev.ptpLocked_old _ hf ht)]

variable (h2 : 2 ≤ s.dev.ethState port.val)
include h2

/-- PTP_EVENT_RX on a port at least LINKED. -/
theorem exec_ptpEventRx_linked (ev : PtpEvent) :
    exec (.ptpEventRx port ev) s = s.nextDev ((s.dev.syncNoted port.val ev).ptpRelayed port.val ev) :=
  exec_next rfl hl (if_neg (Nat.not_lt.2 h2))

/-- PEER_DELAY_REQ on a port at least LINKED is answered. -/
theorem exec_peerDelayReq_linked (frame : List Byte) : exec (.peerDelayReq port frame) s = s.nextDev
    (s.dev.queueOpen port.val { TxMsg.init with type := 0x100, payload := Config.pdelayResp frame s.dev.now }) :=
  exec_next rfl hl (if_neg (Nat.not_lt.2 h2))

end Ptp

end Sys2Proof.Machine

open Sys2Proof Sys2Proof.Machine

/-- Settles O40: each command of device time by the state that it meets. -/
theorem timeKeeping : Obligations.TimeKeeping := by
  intro s cred v port hl d n now taken
  refine ⟨exec_timeWrite_denied v hl,
    fun ho => ⟨fun ha => exec_timeSet hl (Dev.timeSetWr_unarmed ho ha), fun ha hi => exec_timeSet hl (Dev.timeSetWr_armed ho ha hi),
      fun ha hi => exec_timeSet hl (Dev.timeSetWr_refused ho ha hi)⟩,
    run_live Dev.toSecond s hl, d.toSecond_now, exec_timeSetApply_unarmed hl, exec_timeSetApply_running hl,
    fun ha he => ⟨exec_timeSetApply_restart hl ha he, exec_timeSetApply_refused hl ha he⟩,
    fun he hs => ⟨_, exec_timeExhausted_last hl he hs, d.toSecond_last he hs⟩, fun ho => ?_,
    fun ho hh => exec_timeSteerWrite hl (Dev.timeSteerWr_readOnly _ ho hh), fun ho hh => ?_, fun raw hh => ?_,
    exec_ppsMissed_heeded hl, exec_ppsMissed_unheeded hl, exec_ppsEdge_unheeded hl,
    exec_ppsOutFall_high hl, exec_ppsOutFall_low hl, exec_ptpSyncTimeout_unlocked hl,
    fun e hk hf => ⟨exec_ptpSyncTimeout_locked hl hk hf, exec_ptpSyncTimeout_past hl hk hf⟩, fun ev h2 => ?_,
    fun frame h2 => exec_peerDelayReq_linked hl h2 frame⟩
  · have hwrite := exec_timeCtrlWrite_owner v hl ho
    exact ⟨fun hon => hwrite.trans (congrArg (fun x : Dev => now (x.requality.completed stOk 0)) (if_pos hon)),
      fun hoff => hwrite.trans (congrArg (fun x : Dev => now (x.requality.completed stOk 0)) (if_neg (ne_true_of_eq_false hoff)))⟩
  · have hwrite := exec_timeSteerWrite hl (Dev.timeSteerWr_steers v.toNat ho hh)
    rw [Dev.steerEnters_kept] at hwrite
    exact hwrite
  · exact ⟨d.toEdge_now, exec_ppsEdge_spurious hl hh raw,
      fun hw => ⟨exec_ppsEdge_shown hl hh raw hw, exec_ppsEdge_captured hl hh raw hw⟩⟩
  · have hrx := exec_ptpEventRx_linked hl h2 ev
    intro note x
    have hx : d.syncNoted n ev = x := by
      unfold x Dev.syncNoted
      cases ev.sync
      · cases ev.followUp
        · rfl
        · cases d.time.syncs.find? fun e => e.1 == n <;> rfl
      · rfl
    refine ⟨fun hoff => ?_, fun hon => ?_⟩
    · rw [hrx, Dev.ptpRelayed_off ev hoff, hx]
      rfl
    · rw [hrx, Dev.ptpRelayed_on ev hon, hx]
      rfl

end

section
/-! PROOF. What the scalar instructions and the compares write (R91 to R93), and the statements about them. -/

namespace Sys2Proof.Machine

/-! ### Leading zeros and set bits of R91 in closed form -/

/-- The leading zeros of a number that fits w bits. -/
theorem leadingZeros_eq {v : Nat} : ∀ {w : Nat}, v < 2 ^ w → leadingZeros v w = if v = 0 then w else w - 1 - Nat.log2 v
  | 0, h => by
    have hv : v = 0 := by simpa using h
    simp [leadingZeros, hv]
  | w + 1, h => by
    have hbit : bit v w = 1 ↔ 2 ^ w ≤ v := by
      have hq : v / 2 ^ w < 2 := Nat.div_lt_of_lt_mul (by rwa [← Nat.pow_succ])
      have hpos : v / 2 ^ w = 0 ↔ v < 2 ^ w := Nat.div_eq_zero_iff_lt (Nat.two_pow_pos w)
      unfold bit
      generalize v / 2 ^ w = q at hq hpos ⊢
      omega
    by_cases htop : 2 ^ w ≤ v
    · have hv : v ≠ 0 := by have := Nat.two_pow_pos w; omega
      have hlog : Nat.log2 v = w := (Nat.log2_eq_iff hv).2 ⟨htop, h⟩
      rw [leadingZeros, if_pos (hbit.2 htop), if_neg hv, hlog]
      omega
    · rw [leadingZeros, if_neg (hbit.not.2 htop), leadingZeros_eq (Nat.not_le.1 htop)]
      by_cases hv : v = 0
      · simp [hv, Nat.add_comm]
      · have hlog : Nat.log2 v < w := (Nat.log2_lt hv).2 (Nat.not_le.1 htop)
        rw [if_neg hv, if_neg hv]
        omega

/-- The set bits of a number, counted by their places. -/
theorem setBitCount_eq (v : Nat) : ∀ w, setBitCount v w = (List.range w).countP fun i => v.testBit i
  | 0 => rfl
  | w + 1 => by
    have hbit : bit v w = if v.testBit w then 1 else 0 := by
      rw [Nat.testBit_eq_decide_div_mod_eq, bit]
      split <;> simp_all
    rw [setBitCount, setBitCount_eq v w, List.range_succ, List.countP_append, List.countP_singleton, hbit, Nat.add_comm]

/-- CLZ as R91 words it. -/
theorem clzW_eq (a : Word) : clzW a = BitVec.ofNat 64 (if a.toNat = 0 then 64 else 63 - Nat.log2 a.toNat) := by
  rw [clzW, leadingZeros_eq a.isLt]

/-- POPC as R91 words it. -/
theorem popcW_eq (a : Word) : popcW a = BitVec.ofNat 64 ((List.range 64).countP fun i => a.getLsbD i) := by
  rw [popcW, setBitCount_eq]
  rfl

/-! ### The conditions of R92 -/

theorem condNe_eq (a b : Word) : condNe a b = decide (a ≠ b) := by
  rw [condNe, bne, beq_eq_decide, ← decide_not]

theorem condGe_eq (a b : Word) : condGe a b = decide (b.toInt ≤ a.toInt) := by
  rw [condGe, BitVec.slt_eq_decide, ← decide_not]
  simp

theorem condGeu_eq (a b : Word) : condGeu a b = decide (b.toNat ≤ a.toNat) := by
  rw [condGeu, BitVec.ult_eq_decide, ← decide_not]
  simp

/-! ### The shared forms of the scalar instructions -/

/-- `c` is an ALU instruction of latency `k`: rd takes `op` of ga and b, and the strand notes a latency above 1 (R91). -/
def AluWrites (c : Iss → GReg → GReg → Opnd → Instr) (k : Nat) (op : Word → Word → Word) : Prop :=
  ∀ (s : State) (x : Iss) (rd ra : GReg) (b : Opnd) (f : Nat), Ready s x f (ra.val :: opndReg b) →
    let y := if k = 1 then strandOf s x f else (strandOf s x f).slowed s x.tile.val k
    ∃ t, exec (c x rd ra b) s = .next t ∧ StrandBecomes s t x f
      (y.setReg rd.val (op ((strandOf s x f).reg ra.val) (opndVal (strandOf s x f) b))).advance

/-- `c` is a compare: pd takes `cond` of ga and b (R92). -/
def CompareWrites (c : Iss → PReg → GReg → Opnd → Instr) (cond : Word → Word → Bool) : Prop :=
  ∀ (s : State) (x : Iss) (pd : PReg) (ra : GReg) (b : Opnd) (f : Nat), Ready s x f (ra.val :: opndReg b) →
    ∃ t, exec (c x pd ra b) s = .next t ∧ StrandBecomes s t x f
      ((strandOf s x f).setPred pd.val (cond ((strandOf s x f).reg ra.val) (opndVal (strandOf s x f) b))).advance

/-- `c` is predicate logic: pd takes `op` of pa and pb (R93). -/
def LogicWrites (c : Iss → PReg → PReg → PReg → Instr) (op : Bool → Bool → Bool) : Prop :=
  ∀ (s : State) (x : Iss) (pd pa pb : PReg) (f : Nat), Ready s x f [] →
    ∃ t, exec (c x pd pa pb) s = .next t ∧ StrandBecomes s t x f
      ((strandOf s x f).setPred pd.val (op ((strandOf s x f).predBit pa.val) ((strandOf s x f).predBit pb.val))).advance

/-- An instruction of one word that writes a register. -/
theorem issue_putReg {s : State} {x : Iss} {f : Nat} {srcs : List Nat} {body : Body} (rd : Nat) (v : Word) (h : Ready s x f srcs)
    (hb : body (s.dev.noted x.tile.val x.strand.val) x.tile.val f x.strand.val (strandOf s x f) =
      putReg (s.dev.noted x.tile.val x.strand.val) x.tile.val f x.strand.val rd v) :
    ∃ t, run (fun d => d.issue x srcs 1 body) s = .next t ∧ StrandBecomes s t x f ((strandOf s x f).setReg rd v).advance :=
  issue_strand s x f srcs body (fun y => y.setReg rd v) h hb (Strand.setReg_pc _ _ _)

/-- An instruction of one word that writes a register `k` cycles later. -/
theorem issue_slow_putReg {s : State} {x : Iss} {f k : Nat} {srcs : List Nat} {body : Body} (rd : Nat) (v : Word)
    (h : Ready s x f srcs) (hk : 1 < k)
    (hb : ∀ d, body d x.tile.val f x.strand.val (strandOf s x f) = putReg d x.tile.val f x.strand.val rd v) :
    ∃ t, run (fun d => d.issue x srcs 1 (slowly k body)) s = .next t ∧
      StrandBecomes s t x f (((strandOf s x f).slowed s x.tile.val k).setReg rd v).advance :=
  issue_slow s x f k srcs body (fun y => y.setReg rd v) h hk hb fun _ => Strand.setReg_pc _ _ _

/-- An instruction of one word that writes a predicate. -/
theorem issue_putPred {s : State} {x : Iss} {f : Nat} {srcs : List Nat} {body : Body} (pd : Nat) (b : Bool) (h : Ready s x f srcs)
    (hb : body (s.dev.noted x.tile.val x.strand.val) x.tile.val f x.strand.val (strandOf s x f) =
      putPred (s.dev.noted x.tile.val x.strand.val) x.tile.val f x.strand.val pd b) :
    ∃ t, run (fun d => d.issue x srcs 1 body) s = .next t ∧ StrandBecomes s t x f ((strandOf s x f).setPred pd b).advance :=
  issue_strand s x f srcs body (fun y => y.setPred pd b) h hb (Strand.setPred_pc _ _ _)

/-- A command that is an ALU run of `op`. -/
theorem aluWrites_of {c : Iss → GReg → GReg → Opnd → Instr} {k : Nat} {op : Word → Word → Word}
    (hc : ∀ x rd ra b s, exec (c x rd ra b) s = aluRun op x rd ra b s k := by intros; rfl) (hk : 1 ≤ k := by decide) :
    AluWrites c k op := by
  intro s x rd ra b f h y
  rw [hc]
  rcases Nat.eq_or_lt_of_le hk with rfl | hlate
  · exact issue_putReg rd.val _ h rfl
  · have hy : y = (strandOf s x f).slowed s x.tile.val k := if_neg (Nat.ne_of_gt hlate)
    rw [hy]
    exact issue_slow_putReg rd.val _ h hlate fun _ => rfl

/-- A command that is a compare by `cond`. -/
theorem compareWrites_of {c : Iss → PReg → GReg → Opnd → Instr} {cond : Word → Word → Bool}
    (hc : ∀ x pd ra b s, exec (c x pd ra b) s = cmpRun cond x pd ra b s := by intros; rfl) : CompareWrites c cond := by
  intro s x pd ra b f h
  rw [hc]
  exact issue_putPred pd.val _ h rfl

/-- A command that is predicate logic by `op`. -/
theorem logicWrites_of {c : Iss → PReg → PReg → PReg → Instr} {op : Bool → Bool → Bool}
    (hc : ∀ x pd pa pb s, exec (c x pd pa pb) s = predRun op x pd pa pb s := by intros; rfl) : LogicWrites c op := by
  intro s x pd pa pb f h
  rw [hc]
  exact issue_putPred pd.val _ h rfl

/-- PTST: whether ga and the zero-extended IMM have a bit in common. -/
theorem ptst_strand {s : State} {x : Iss} {f : Nat} (pd : PReg) (ra : GReg) (imm : Imm) (h : Ready s x f [ra.val]) :
    ∃ t, exec (.ptst x pd ra imm) s = .next t ∧ StrandBecomes s t x f
      ((strandOf s x f).setPred pd.val (decide ((strandOf s x f).reg ra.val &&& imm.zeroExtend 64 ≠ 0))).advance := by
  have hcond : condTst ((strandOf s x f).reg ra.val) imm = decide ((strandOf s x f).reg ra.val &&& imm.zeroExtend 64 ≠ 0) := by
    rw [condTst, decide_not, bne, beq_eq_decide]
    rfl
  rw [← hcond]
  exact issue_putPred (body := fun d n f s st => putPred d n f s pd.val (condTst (st.reg ra.val) imm)) pd.val _ h rfl

end Sys2Proof.Machine

open Sys2Proof Sys2Proof.Machine

/-- Settles O10: each instruction is an ALU run of its function; six of the functions are the model's in another form. -/
theorem aluResult : Obligations.AluResult := by
  show ∀ e : (Iss → GReg → GReg → Opnd → Instr) × Nat × (Word → Word → Word), e ∈ _ → AluWrites e.1 e.2.1 e.2.2
  simp only [List.forall_mem_cons]
  have hmul : (fun a b : Word => BitVec.ofNat 64 (a.toNat * b.toNat)) = fun a b => a * b := by
    funext a b
    exact BitVec.eq_of_toNat_eq (by rw [BitVec.toNat_ofNat, BitVec.toNat_mul])
  have hmin : (fun a b : Word => if a.toInt < b.toInt then a else b) = fun a b => if a.slt b then a else b := by
    simp only [BitVec.slt_iff_toInt_lt]
  have hmax : (fun a b : Word => if a.toInt < b.toInt then b else a) = fun a b => if a.slt b then b else a := by
    simp only [BitVec.slt_iff_toInt_lt]
  have hminu : (fun a b : Word => if a.toNat < b.toNat then a else b) = fun a b => if a.ult b then a else b := by
    simp only [BitVec.ult_iff_toNat_lt]
  have hmaxu : (fun a b : Word => if a.toNat < b.toNat then b else a) = fun a b => if a.ult b then b else a := by
    simp only [BitVec.ult_iff_toNat_lt]
  simp only [hmul, hmin, hmax, hminu, hmaxu, ← clzW_eq, ← popcW_eq]
  exact ⟨aluWrites_of, aluWrites_of, aluWrites_of, aluWrites_of, aluWrites_of, aluWrites_of, aluWrites_of, aluWrites_of,
    aluWrites_of, aluWrites_of, aluWrites_of, aluWrites_of, aluWrites_of, aluWrites_of, aluWrites_of, aluWrites_of,
    aluWrites_of, aluWrites_of, List.forall_mem_nil _⟩

/-- Settles O11: each compare and each logic instruction writes the predicate that its table gives. -/
theorem predicateResult : Obligations.PredicateResult := by
  show (∀ e : (Iss → PReg → GReg → Opnd → Instr) × (Word → Word → Bool), e ∈ _ → CompareWrites e.1 e.2) ∧
    (∀ e : (Iss → PReg → PReg → PReg → Instr) × (Bool → Bool → Bool), e ∈ _ → LogicWrites e.1 e.2) ∧ _
  refine ⟨?_, ?_, fun s x pd ra imm f h => ptst_strand pd ra imm h⟩
  · simp only [List.forall_mem_cons, ← condNe_eq, ← condGe_eq, ← condGeu_eq]
    exact ⟨compareWrites_of, compareWrites_of, compareWrites_of, compareWrites_of, compareWrites_of, compareWrites_of,
      List.forall_mem_nil _⟩
  · simp only [List.forall_mem_cons]
    exact ⟨logicWrites_of, logicWrites_of, logicWrites_of, logicWrites_of, List.forall_mem_nil _⟩

end

section
/-! PROOF. What an instruction leaves that notes its latency, jumps or resumes (R83, R94); what sel, the load-immediates, the time reads,
sy.csr and sy.kstat write (R91, R93, R102, R103); where branches go (R94); and the statements about them. -/

namespace Sys2Proof.Machine

/-! ### The note of a latency (R83) -/

/-- The note of a latency changes nothing of its tile but the strands. -/
theorem Dev.hold_tile (d : Dev) (n f k j : Nat) : ∃ u, (d.hold n f k j).tile n = { d.tile n with strands := u } := by
  unfold Dev.hold
  split
  · exact ⟨_, rfl⟩
  · exact ⟨_, Dev.modStrand_tile ..⟩

/-- Only the strands of a tile tell it apart from itself after a latency is noted; here its frond's class (R118). -/
theorem Dev.px64_noted_hold (d : Dev) (n f g k j : Nat) : ((d.noted n k).hold n g k j).px64 n f = d.px64 n f := by
  obtain ⟨u, hu⟩ := (d.noted n k).hold_tile n g k j
  simp only [Dev.px64, hu, Dev.noted_tile_same]
  rfl

variable {s : State} {x : Iss} {f : Nat} {srcs : List Nat} {body : Body}

/-- A latency noted after a change of the strand. -/
theorem noted_modStrand_hold (s : State) (x : Iss) (f : Nat) {k : Nat} (g : Strand → Strand) (hk : 1 < k) :
    ((s.dev.noted x.tile.val x.strand.val).modStrand x.tile.val f x.strand.val g).hold x.tile.val f x.strand.val k =
      (s.dev.noted x.tile.val x.strand.val).modStrand x.tile.val f x.strand.val fun y => (g y).slowed s x.tile.val k := by
  have hcount : (s.dev.noted x.tile.val x.strand.val).get (TILE_ISSUE_COUNT_V x.tile.val) =
      min (s.dev.get (TILE_ISSUE_COUNT_V x.tile.val) + 1) (2 ^ 64 - 1) := by
    simp [Dev.noted, Dev.add, TILE_ISSUE_COUNT_V, RF.width]
  rw [Dev.hold, if_neg (Nat.not_le.2 hk), Dev.modStrand_get, hcount, Dev.modStrand_modStrand]
  rfl

/-- A register written before or after the note of a latency. -/
theorem Strand.slowed_setReg (y : Strand) (n k r : Nat) (v : Word) : (y.setReg r v).slowed s n k = (y.slowed s n k).setReg r v := by
  unfold Strand.setReg
  split <;> rfl

/-- An instruction of one word and latency `k` that changes its strand by `g` and goes on. -/
theorem issue_held {k : Nat} (g : Strand → Strand) (h : Ready s x f srcs) (hk : 1 < k)
    (hb : let d := (s.dev.noted x.tile.val x.strand.val).hold x.tile.val f x.strand.val k
      body d x.tile.val f x.strand.val (strandOf s x f) = (d.modStrand x.tile.val f x.strand.val g, .next))
    (hp : (g ((strandOf s x f).slowed s x.tile.val k)).pc = (strandOf s x f).pc) :
    ∃ t, run (fun d => d.issue x srcs 1 (slowly k body)) s = .next t ∧
      StrandBecomes s t x f (g ((strandOf s x f).slowed s x.tile.val k)).advance := by
  refine issue_strand s x f srcs (slowly k body) (fun y => g (y.slowed s x.tile.val k)) h ?_ hp
  rw [slowly, hb, noted_hold s x f k hk, Dev.modStrand_modStrand]

/-- The same where `g` writes a register. -/
theorem issue_held_putReg {k : Nat} (rd : Nat) (v : Word) (h : Ready s x f srcs) (hk : 1 < k)
    (hb : let d := (s.dev.noted x.tile.val x.strand.val).hold x.tile.val f x.strand.val k
      body d x.tile.val f x.strand.val (strandOf s x f) = putReg d x.tile.val f x.strand.val rd v) :
    ∃ t, run (fun d => d.issue x srcs 1 (slowly k body)) s = .next t ∧
      StrandBecomes s t x f (((strandOf s x f).slowed s x.tile.val k).setReg rd v).advance :=
  issue_held (fun y => y.setReg rd v) h hk hb (Strand.setReg_pc _ _ _)

/-! ### Jumps and resumptions (R94, R115) -/

/-- An instruction that jumps to an instruction of the frond store; `g` is what it and the note of its latency do to the strand. -/
theorem issue_jump (g : Strand → Strand) (d : Dev) (t : Int) (h : Ready s x f srcs)
    (hb : body (s.dev.noted x.tile.val x.strand.val) x.tile.val f x.strand.val (strandOf s x f) = (d, .jump t))
    (hd : d.hold x.tile.val f x.strand.val 3 = (s.dev.noted x.tile.val x.strand.val).modStrand x.tile.val f x.strand.val g)
    (h0 : 0 ≤ t) (h1 : t ≤ 8191) :
    ∃ u, run (fun d => d.issue x srcs 1 body) s = .next u ∧
      StrandBecomes s u x f { g (strandOf s x f) with pc := BitVec.ofNat 13 t.toNat } := by
  refine ⟨_, run_live _ _ h.1, ?_⟩
  rw [issue_ready s x f srcs 1 body h, hb]
  simp only [Dev.endIssue, h0, h1, decide_true, Bool.and_self, if_true]
  rw [hd]
  exact strand_becomes s x f g fun y => { y with pc := BitVec.ofNat 13 t.toNat }

/-- The same for one that resumes there. -/
theorem issue_resume (g : Strand → Strand) (d : Dev) (p l : Nat) (h : Ready s x f srcs)
    (hb : body (s.dev.noted x.tile.val x.strand.val) x.tile.val f x.strand.val (strandOf s x f) = (d, .resume p l))
    (hd : d.hold x.tile.val f x.strand.val 3 = (s.dev.noted x.tile.val x.strand.val).modStrand x.tile.val f x.strand.val g)
    (hpl : p + l ≤ 8191) :
    ∃ u, run (fun d => d.issue x srcs 1 body) s = .next u ∧
      StrandBecomes s u x f { g (strandOf s x f) with pc := BitVec.ofNat 13 (p + l) } := by
  refine ⟨_, run_live _ _ h.1, ?_⟩
  rw [issue_ready s x f srcs 1 body h, hb]
  simp only [Dev.endIssue]
  rw [hd, Dev.stepPc, if_pos hpl]
  exact strand_becomes s x f g fun y => { y with pc := BitVec.ofNat 13 (p + l) }

/-- A jump that leaves a link (R94): the register is written before the latency is noted. -/
theorem putReg_link_hold (s : State) (x : Iss) (f rd : Nat) (v : Word) :
    (putReg (s.dev.noted x.tile.val x.strand.val) x.tile.val f x.strand.val rd v).1.hold x.tile.val f x.strand.val 3 =
      (s.dev.noted x.tile.val x.strand.val).modStrand x.tile.val f x.strand.val fun y => (y.slowed s x.tile.val 3).setReg rd v :=
  (noted_modStrand_hold s x f (fun y => y.setReg rd v) (by decide)).trans
    (Dev.modStrand_congr _ _ _ _ _ _ (Strand.slowed_setReg ..))

/-! ### Registers written -/

/-- LIH keeps the low half of ga under the immediate (R93). -/
theorem lih_eq (a : Word) (imm : Imm) : (a &&& 0xFFFFFFFF) ||| (zext32 imm <<< (32 : Nat)) = imm ++ a.extractLsb' 0 32 := by
  have hmask : (0xFFFFFFFF : Word) = (BitVec.allOnes 32).setWidth 64 := rfl
  rw [hmask]
  apply BitVec.eq_of_getLsbD_eq
  intro i hi
  have hi64 : i < 64 := hi
  simp only [zext32, BitVec.zeroExtend, BitVec.getLsbD_or, BitVec.getLsbD_and, BitVec.getLsbD_setWidth, BitVec.getLsbD_allOnes,
    BitVec.getLsbD_shiftLeft, BitVec.getLsbD_append, BitVec.getLsbD_extractLsb', Nat.zero_add]
  by_cases hlow : i < 32
  · simp only [hlow, hi64, decide_true, Bool.and_true, Bool.true_and, Bool.not_true, Bool.false_and, Bool.and_false, Bool.or_false, if_true]
  · have hrest : i - 32 < 64 := by omega
    simp only [hlow, hi64, hrest, decide_true, decide_false, Bool.true_and, Bool.not_false, Bool.false_and, Bool.and_false,
      Bool.false_or, if_false]

section Writes
variable (rd ra rb : GReg) (imm : Imm) (k : Fin 4)

/-- SEL by its predicate. -/
theorem sel_strand (p : PReg) (h : Ready s x f [ra.val, rb.val]) :
    ∃ t, exec (.sel x rd ra rb p) s = .next t ∧ StrandBecomes s t x f ((strandOf s x f).setReg rd.val
      (if (strandOf s x f).predBit p.val then (strandOf s x f).reg ra.val else (strandOf s x f).reg rb.val)).advance :=
  issue_putReg (body := fun d n f s st => putReg d n f s rd.val (if st.predBit p.val then st.reg ra.val else st.reg rb.val))
    rd.val _ h rfl

/-- LI. -/
theorem li_strand (h : Ready s x f []) :
    ∃ t, exec (.li x rd imm) s = .next t ∧ StrandBecomes s t x f ((strandOf s x f).setReg rd.val (imm.signExtend 64)).advance :=
  issue_putReg (body := fun d n f s _ => putReg d n f s rd.val (sext32 imm)) rd.val _ h rfl

/-- LIU. -/
theorem liu_strand (h : Ready s x f []) :
    ∃ t, exec (.liu x rd imm) s = .next t ∧ StrandBecomes s t x f ((strandOf s x f).setReg rd.val (imm.zeroExtend 64)).advance :=
  issue_putReg (body := fun d n f s _ => putReg d n f s rd.val (zext32 imm)) rd.val _ h rfl

/-- LIH. -/
theorem lih_strand (h : Ready s x f [ra.val]) :
    ∃ t, exec (.lih x rd ra imm) s = .next t ∧ StrandBecomes s t x f
      ((strandOf s x f).setReg rd.val (imm ++ ((strandOf s x f).reg ra.val).extractLsb' 0 32)).advance := by
  rw [← lih_eq]
  exact issue_putReg (body := fun d n f s st => putReg d n f s rd.val ((st.reg ra.val &&& 0xFFFFFFFF) ||| (zext32 imm <<< (32 : Nat))))
    rd.val _ h rfl

/-- PGET. -/
theorem pget_strand (h : Ready s x f []) :
    ∃ t, exec (.pget x rd) s = .next t ∧ StrandBecomes s t x f
      ((strandOf s x f).setReg rd.val (((strandOf s x f).p ||| 1).zeroExtend 64)).advance :=
  issue_putReg (body := fun d n f s st => putReg d n f s rd.val ((st.p ||| 1).zeroExtend 64)) rd.val _ h rfl

/-- TM_NOW gives the device time of its issue (R57). -/
theorem tmNow_strand (h : Ready s x f []) :
    ∃ t, exec (.tmNow x rd) s = .next t ∧ StrandBecomes s t x f
      (((strandOf s x f).slowed s x.tile.val 4).setReg rd.val (BitVec.ofNat 64 (packTime s.dev.now))).advance :=
  issue_held_putReg (body := fun d n f s _ => putReg d n f s rd.val (BitVec.ofNat 64 (packTime d.now))) rd.val _ h (by decide) rfl

/-- TM_CYC counts from the tile's last reset. -/
theorem tmCyc_strand (h : Ready s x f []) :
    ∃ t, exec (.tmCyc x rd) s = .next t ∧ StrandBecomes s t x f
      ((strandOf s x f).setReg rd.val (BitVec.ofNat 64 (s.dev.tick - (s.dev.tile x.tile.val).resetTick))).advance :=
  issue_putReg (body := fun d n f s _ => putReg d n f s rd.val (BitVec.ofNat 64 (d.tick - (d.tile n).resetTick))) rd.val _ h (by
    rw [Dev.noted_tile_same]
    rfl)

/-- TM_ADD on a frond of class PX256 (R118). -/
theorem tmAdd_strand (h : Ready s x f [ra.val, rb.val]) (hc : s.dev.px64 x.tile.val f = false) :
    ∃ t, exec (.tmAdd x rd ra rb) s = .next t ∧ StrandBecomes s t x f
      (((strandOf s x f).slowed s x.tile.val 2).setReg rd.val
        (addTime ((strandOf s x f).reg ra.val) ((strandOf s x f).reg rb.val))).advance :=
  issue_held_putReg (body := fun d n f s st =>
      if d.px64 n f then (d, .trap trClass (scalarWord x 0x12 rd.val ra.val rb.val 2 0))
      else putReg d n f s rd.val (addTime (st.reg ra.val) (st.reg rb.val)))
    rd.val _ h (by decide) (if_neg (by rw [Dev.px64_noted_hold, hc]; decide))

/-- SY_KSTAT on a frond of class PX256 (R118). -/
theorem syKstat_strand (h : Ready s x f []) (hc : s.dev.px64 x.tile.val f = false) :
    ∃ t, exec (.syKstat x rd k) s = .next t ∧ StrandBecomes s t x f
      (((strandOf s x f).slowed s x.tile.val 2).setReg rd.val (BitVec.ofNat 64
        (((strandOf s x f).kcnt k.val).cnt % 256 + ((strandOf s x f).kcnt k.val).err.toNat * 256))).advance :=
  issue_held_putReg (body := fun d n f s st =>
      if d.px64 n f then (d, .trap trClass (scalarWord x 0x13 rd.val k.val 0 10 0))
      else putReg d n f s rd.val (BitVec.ofNat 64 ((st.kcnt k.val).cnt % 256 + (st.kcnt k.val).err.toNat * 256)))
    rd.val _ h (by decide) (if_neg (by rw [Dev.px64_noted_hold, hc]; decide))

/-- The core values of sy.csr do not depend on what issuing an instruction notes. -/
theorem Dev.csr_noted_hold (d : Dev) (n f k j : Nat) (y : Strand) (i : Nat) :
    ((d.noted n k).hold n f k j).csr n f k y i = d.csr n f k y i := by
  obtain ⟨u, hu⟩ := (d.noted n k).hold_tile n f k j
  have hpower : ((d.noted n k).hold n f k j).power = d.power := by
    unfold Dev.hold
    split <;> rfl
  unfold Dev.csr
  rw [hu, Dev.noted_tile_same, hpower]
  rfl

/-- SY_CSR of a value that IMM names. -/
theorem syCsr_strand {v : Nat} (h : Ready s x f []) (hv : s.dev.csr x.tile.val f x.strand.val (strandOf s x f) imm.toNat = some v) :
    ∃ t, exec (.syCsr x rd imm) s = .next t ∧ StrandBecomes s t x f
      (((strandOf s x f).slowed s x.tile.val 2).setReg rd.val (BitVec.ofNat 64 v)).advance :=
  issue_held_putReg (body := fun d n f s st =>
      match d.csr n f s st imm.toNat with
      | some v => putReg d n f s rd.val (BitVec.ofNat 64 v)
      | none => (d, .trap trIllegal (scalarWord x 0x13 rd.val 0 0 8 imm)))
    rd.val _ h (by decide) (by
      intro d
      have hd : d.csr x.tile.val f x.strand.val (strandOf s x f) imm.toNat = some v := (Dev.csr_noted_hold ..).trans hv
      simp only [hd])

/-! ### Branches (R94) -/

/-- The target of BR and JL. -/
def Strand.branchTarget (y : Strand) (imm : Imm) : Int := y.pc.toNat + imm.toInt

/-- BR to a target in the frond store. -/
theorem br_strand (h : Ready s x f []) (h0 : 0 ≤ (strandOf s x f).branchTarget imm) (h1 : (strandOf s x f).branchTarget imm ≤ 8191) :
    ∃ t, exec (.br x imm) s = .next t ∧ StrandBecomes s t x f
      { (strandOf s x f).slowed s x.tile.val 3 with pc := BitVec.ofNat 13 ((strandOf s x f).branchTarget imm).toNat } :=
  issue_jump (body := fun d _ _ _ st => (d, .jump (st.pc.toNat + imm.toInt))) (fun y => y.slowed s x.tile.val 3) _ _ h rfl
    (noted_hold s x f 3 (by decide)) h0 h1

/-- JL to a target in the frond store, with its link. -/
theorem jl_strand (h : Ready s x f []) (h0 : 0 ≤ (strandOf s x f).branchTarget imm) (h1 : (strandOf s x f).branchTarget imm ≤ 8191) :
    ∃ t, exec (.jl x rd imm) s = .next t ∧ StrandBecomes s t x f
      { ((strandOf s x f).slowed s x.tile.val 3).setReg rd.val (BitVec.ofNat 64 ((strandOf s x f).pc.toNat + 1)) with
        pc := BitVec.ofNat 13 ((strandOf s x f).branchTarget imm).toNat } :=
  issue_jump (body := fun d n f s st =>
      ((putReg d n f s rd.val (BitVec.ofNat 64 (st.pc.toNat + 1))).1, .jump (st.pc.toNat + imm.toInt)))
    (fun y => (y.slowed s x.tile.val 3).setReg rd.val (BitVec.ofNat 64 ((strandOf s x f).pc.toNat + 1))) _ _ h rfl
    (putReg_link_hold s x f _ _) h0 h1

/-- JLR to a target in the frond store, with its link. -/
theorem jlr_strand (h : Ready s x f [ra.val]) (h1 : ((strandOf s x f).reg ra.val + imm.signExtend 64).toNat ≤ 8191) :
    ∃ t, exec (.jlr x rd ra imm) s = .next t ∧ StrandBecomes s t x f
      { ((strandOf s x f).slowed s x.tile.val 3).setReg rd.val (BitVec.ofNat 64 ((strandOf s x f).pc.toNat + 1)) with
        pc := BitVec.ofNat 13 ((strandOf s x f).reg ra.val + imm.signExtend 64).toNat } :=
  issue_jump (body := fun d n f s st =>
      ((putReg d n f s rd.val (BitVec.ofNat 64 (st.pc.toNat + 1))).1, .jump ((st.reg ra.val + sext32 imm).toNat : Int)))
    (fun y => (y.slowed s x.tile.val 3).setReg rd.val (BitVec.ofNat 64 ((strandOf s x f).pc.toNat + 1))) _ _ h rfl
    (putReg_link_hold s x f _ _) (Int.natCast_nonneg _) (by exact_mod_cast h1)

end Writes

end Sys2Proof.Machine

open Sys2Proof Sys2Proof.Machine

/-- Settles O12: each instruction is one issue that writes rd, at once or with its latency. -/
theorem registerResult : Obligations.RegisterResult :=
  ⟨fun _ _ rd ra rb p _ h => sel_strand rd ra rb p h,
    fun _ _ rd imm _ h => ⟨li_strand rd imm h, liu_strand rd imm h, pget_strand rd h, tmNow_strand rd h, tmCyc_strand rd h⟩,
    fun _ _ rd ra imm _ h => lih_strand rd ra imm h, fun _ _ rd ra rb _ h hc => tmAdd_strand rd ra rb h hc,
    fun _ _ rd k _ h hc => syKstat_strand rd k h hc, fun _ _ rd imm _ _ h hv => syCsr_strand rd imm h hv⟩

/-- Settles O13: the three branches are jumps, two of them after a link. -/
theorem branchResult : Obligations.BranchResult :=
  fun _ _ rd ra imm _ hra h => ⟨fun h0 h1 => ⟨br_strand imm h h0 h1, jl_strand rd imm h h0 h1⟩, jlr_strand rd ra imm hra⟩

end

section
/-! PROOF. What withholds an instruction (R84, R86, R88, R349), and the statement about it. -/

namespace Sys2Proof.Machine

variable {s : State} {x : Iss} {f : Nat}

/-- No partition's STATE shares the place of a tile's issue count. -/
theorem partState_key_ne_issueCount (p n : Nat) : (PART_P_STATE_STATE p).key ≠ (TILE_ISSUE_COUNT_V n).key := by
  simp only [RF.key, PART_P_STATE_STATE, PART_P_STATE, TILE_ISSUE_COUNT_V, TILE_ISSUE_COUNT]
  omega

/-- An instruction that changes its strand alone changes nothing that the meter observes (R475). -/
theorem sameMap_of_strandBecomes {e : Dev} {y : Strand} (h : StrandBecomes s { s with dev := e } x f y) : sameMap s.dev e := by
  obtain ⟨⟨⟨hdev, _⟩, htiles, hregs, _⟩, _, _, htile⟩ := h
  refine ⟨fun n => ?_, fun p => ?_, (congrArg (fun d : Dev => d.spare.switches) hdev :)⟩
  · by_cases hn : n.val = x.tile.val
    · rw [hn]
      exact (congrArg Tile.part htile :)
    · exact (congrArg Tile.part (htiles n.val hn) :)
  · have hstate : e.partState p.val = s.dev.partState p.val :=
      hregs _ fun q hq => by
        rw [List.mem_singleton.1 hq]
        exact partState_key_ne_issueCount _ _
    rw [hstate]

/-- So the meter stays as it is where it looks on. -/
theorem metered_of_strandBecomes {e : Dev} {y : Strand} (h : StrandBecomes s { s with dev := e } x f y) :
    s.metered e = { s with dev := e } :=
  s.metered_of_sameMap e (sameMap_of_strandBecomes h) (congrArg Dev.pins h.1.1.1 :)

variable {i : Instr} {len : Nat} {y : Strand}

/-- An instruction that a strand issues, by what its issue makes of the device, as far as that is the strand's change alone. -/
theorem exec_issue {e : Dev} (hi : issueOf i = some (x, len)) (hl : s.dev.live = true)
    (he : ∀ srcs body, s.dev.issue x srcs len body = e) (h : StrandBecomes s { s with dev := e } x f y) :
    exec i s = .next { s with dev := e } := by
  obtain ⟨srcs, body, hrun | hrun⟩ := issueOf_exec i s x len hi
  · rw [hrun, run_live _ _ hl, he]
  · rw [hrun, runM_live _ _ hl, he]
    exact congrArg Host.Outcome.next (metered_of_strandBecomes h)

/-- A strand that may not issue does nothing (R84, R86). -/
theorem exec_idle (hi : issueOf i = some (x, len))
    (h : ∀ f, (s.dev.tile x.tile.val).active = some f → ∀ l, s.dev.canIssue x.tile.val f x.strand.val l = false) :
    exec i s = .next s := by
  have hsame : (if s.dev.live = true then s.dev else s.dev) = s.dev := ite_self _
  obtain ⟨srcs, body, hrun | hrun⟩ := issueOf_exec i s x len hi
  · rw [hrun, run, issue_idle s.dev x srcs len body h, hsame]
  · rw [hrun, runM, issue_idle s.dev x srcs len body h, hsame]
    exact congrArg Host.Outcome.next (s.metered_of_sameMap s.dev (sameMap_refl s.dev) rfl)

/-- An instruction whose guard does not hold moves the program counter past its words (R88). -/
theorem exec_unguarded (hi : issueOf i = some (x, len)) (hl : s.dev.live = true) (ha : (s.dev.tile x.tile.val).active = some f)
    (hc : s.dev.canIssue x.tile.val f x.strand.val [] = true) (hg : guard (strandOf s x f) x = false)
    (hpc : (strandOf s x f).pc.toNat + len ≤ 8191) (he : (strandOf s x f).atEnd = false) :
    ∃ t, exec i s = .next t ∧
      StrandBecomes s t x f { strandOf s x f with pc := BitVec.ofNat 13 ((strandOf s x f).pc.toNat + len) } := by
  have hb := strand_becomes1 s x f fun y => { y with pc := BitVec.ofNat 13 ((strandOf s x f).pc.toNat + len) }
  refine ⟨_, exec_issue hi hl (fun srcs body => ?_) hb, hb⟩
  rw [issue_guard s.dev x f srcs len body ha hc hg he]
  exact if_pos hpc

/-- The guard of R88: the predicate, or under PN its negation. -/
theorem guard_iff (y : Strand) (x : Iss) : guard y x = true ↔ (y.predBit x.pred.val ^^ x.pn) = true := Iff.rfl

/-- PRED 0 with PN 1 never executes. -/
theorem guard_never (y : Strand) (hp : x.pred.val = 0) (hn : x.pn = true) : guard y x = false := by
  rw [guard, hp, hn, Strand.predBit_zero]
  rfl

/-- `add` under PRED 0 and PN 1 is the canonical nop. -/
theorem scalarWord_nop (hp : x.pred.val = 0) (hn : x.pn = true) : scalarWord x 0x01 0 0 0 0x00 0 = 0x0440000000000000 := by
  rw [scalarWord, hp, hn]
  rfl

end Sys2Proof.Machine

open Sys2Proof Sys2Proof.Machine

/-- Settles O14: every instruction is one issue, which a guard or a strand that may not issue withholds. -/
theorem issueWithheld : Obligations.IssueWithheld :=
  fun _ _ _ _ hi => ⟨fun _ hl ha hc => ⟨guard_iff _ _, guard_never _, fun hg hpc he => exec_unguarded hi hl ha hc hg hpc he⟩,
    exec_idle hi, scalarWord_nop⟩

end

section
/-! PROOF. What loads and stores do as they issue (R95 to R97), what the strand-control instructions leave (R86, R98, R103, R115), and the
statements about them. -/

namespace Sys2Proof.Machine

variable {s : State} {x : Iss} {f : Nat} {srcs : List Nat} {body : Body}

/-! ### Loads and stores as they issue -/

/-- Whether a load traps does not depend on what issuing it notes. -/
theorem Dev.loadTrap_noted (d : Dev) (n k off w : Nat) : (d.noted n k).loadTrap n off w = d.loadTrap n off w := by
  unfold Dev.loadTrap
  rw [Dev.noted_tile_same]
  rfl

/-- Nor does it for a store. -/
theorem Dev.storeTrap_noted (d : Dev) (n k f off w : Nat) : (d.noted n k).storeTrap n f off w = d.storeTrap n f off w := by
  unfold Dev.storeTrap
  rw [Dev.noted_tile_same]
  rfl

/-- A register write leaves the order of loads and stores. -/
theorem Strand.setReg_seq (y : Strand) (r : Nat) (v : Word) : (y.setReg r v).seq = y.seq := by
  unfold Strand.setReg
  split <;> rfl

/-- The strand with a load of `w` bytes at `off` in flight to rd, an earlier one to it overtaken. -/
def Strand.loading (y : Strand) (rd off w : Nat) (signed : Bool) : Strand :=
  { y.setReg rd (y.reg rd) with
      loads := (y.setReg rd (y.reg rd)).loads ++ [⟨rd, off, w, signed, y.seq, none⟩]
      seq := y.seq + 1 }

/-- The strand with a store of `w` bytes at `off` in its buffer. -/
def Strand.storing (y : Strand) (off w : Nat) (v : Word) : Strand :=
  { y with stores := y.stores ++ [⟨off, w, v, y.seq⟩], seq := y.seq + 1 }

/-- `c` is a load of `w` bytes: one that does not trap goes in flight (R95, R96). -/
def LoadIssues (c : Iss → GReg → GReg → Imm → Instr) (w : Nat) (signed : Bool) : Prop :=
  ∀ (s : State) (x : Iss) (rd ra : GReg) (imm : Imm) (f : Nat), Ready s x f [ra.val] →
    s.dev.loadTrap x.tile.val ((strandOf s x f).reg ra.val + imm.signExtend 64).toNat w = none →
    ∃ t, exec (c x rd ra imm) s = .next t ∧ StrandBecomes s t x f
      ((strandOf s x f).loading rd.val ((strandOf s x f).reg ra.val + imm.signExtend 64).toNat w signed).advance

/-- `c` is a store of `w` bytes: one that does not trap and finds room enters the buffer (R96, R97). -/
def StoreIssues (c : Iss → GReg → GReg → Imm → Instr) (w : Nat) : Prop :=
  ∀ (s : State) (x : Iss) (ra rb : GReg) (imm : Imm) (f : Nat), Ready s x f [ra.val, rb.val] →
    s.dev.storeTrap x.tile.val f ((strandOf s x f).reg ra.val + imm.signExtend 64).toNat w = none → (strandOf s x f).stores.length < 4 →
    ∃ t, exec (c x ra rb imm) s = .next t ∧ StrandBecomes s t x f
      ((strandOf s x f).storing ((strandOf s x f).reg ra.val + imm.signExtend 64).toNat w ((strandOf s x f).reg rb.val)).advance

/-- A load that does not trap, as it issues. -/
theorem issue_load (rd ra : GReg) (imm : Imm) (w : Nat) (signed : Bool) (h : Ready s x f [ra.val])
    (ht : s.dev.loadTrap x.tile.val ((strandOf s x f).reg ra.val + imm.signExtend 64).toNat w = none) :
    ∃ t, run (fun d => d.load x rd ra imm w signed) s = .next t ∧ StrandBecomes s t x f
      ((strandOf s x f).loading rd.val ((strandOf s x f).reg ra.val + imm.signExtend 64).toNat w signed).advance := by
  refine issue_strand s x f [ra.val] _ (fun y => y.loading rd.val _ w signed) h ?_ (Strand.setReg_pc _ _ _)
  have ht' := (s.dev.loadTrap_noted x.tile.val x.strand.val _ w).trans ht
  simp only [effOffset, sext32, ht', Strand.setReg_seq]
  rfl

/-- A store that does not trap and finds room, as it issues. -/
theorem issue_store (ra rb : GReg) (imm : Imm) (w : Nat) (h : Ready s x f [ra.val, rb.val])
    (ht : s.dev.storeTrap x.tile.val f ((strandOf s x f).reg ra.val + imm.signExtend 64).toNat w = none)
    (hroom : (strandOf s x f).stores.length < 4) :
    ∃ t, run (fun d => d.store x ra rb imm w) s = .next t ∧ StrandBecomes s t x f
      ((strandOf s x f).storing ((strandOf s x f).reg ra.val + imm.signExtend 64).toNat w ((strandOf s x f).reg rb.val)).advance := by
  refine issue_strand s x f [ra.val, rb.val] _ (fun y => y.storing _ w ((strandOf s x f).reg rb.val)) h ?_ rfl
  have ht' := (s.dev.storeTrap_noted x.tile.val x.strand.val f _ w).trans ht
  simp only [effOffset, sext32, ht', hroom, if_true]
  rfl

/-- A command that is a load. -/
theorem loadIssues_of {c : Iss → GReg → GReg → Imm → Instr} {w : Nat} {signed : Bool}
    (hc : ∀ x rd ra imm s, exec (c x rd ra imm) s = run (fun d => d.load x rd ra imm w signed) s := by intros; rfl) :
    LoadIssues c w signed := by
  intro s x rd ra imm f h ht
  rw [hc]
  exact issue_load rd ra imm w signed h ht

/-- A command that is a store. -/
theorem storeIssues_of {c : Iss → GReg → GReg → Imm → Instr} {w : Nat}
    (hc : ∀ x ra rb imm s, exec (c x ra rb imm) s = run (fun d => d.store x ra rb imm w) s := by intros; rfl) : StoreIssues c w := by
  intro s x ra rb imm f h ht hroom
  rw [hc]
  exact issue_store ra rb imm w h ht hroom

/-! ### Strand control -/

/-- SY_HALT. -/
theorem syHalt_strand (h : Ready s x f []) :
    ∃ t, exec (.syHalt x) s = .next t ∧ StrandBecomes s t x f ({ strandOf s x f with st := .halt } : Strand).advance :=
  issue_strand s x f [] (fun d n f s _ => (d.modStrand n f s fun y => { y with st := .halt }, .next))
    (fun y => { y with st := .halt }) h rfl rfl

/-- SY_YIELD. -/
theorem syYield_strand (h : Ready s x f []) :
    ∃ t, exec (.syYield x) s = .next t ∧
      StrandBecomes s t x f ({ strandOf s x f with yielding := true, yieldUntil := s.dev.tick + 8 } : Strand).advance :=
  issue_strand s x f []
    (fun d n f s _ => (d.modStrand n f s fun y => { y with yielding := true, yieldUntil := d.tick + 8 }, .next))
    (fun y => { y with yielding := true, yieldUntil := s.dev.tick + 8 }) h rfl rfl

/-- What `sy.fence` does as it issues (R98, R103). -/
def syFenceBody : Body := fun d n f s st => if st.stores.isEmpty then (d, .next) else enterWait d n f s .fence .fence

/-- SY_FENCE by the store buffer (R98). -/
theorem syFence_strand (h : Ready s x f []) :
    ∃ t, exec (.syFence x) s = .next t ∧ StrandBecomes s t x f
      (if (strandOf s x f).stores.isEmpty then (strandOf s x f).advance
       else ((strandOf s x f).waits s.dev.tick .fence .fence).advance) := by
  split
  case isTrue hnone => exact issue_nop s x f [] syFenceBody h (if_pos hnone)
  case isFalse hsome => exact issue_enterWait (body := syFenceBody) .fence .fence h (if_neg hsome)

/-- SY_RTE within a trap (R115). -/
theorem syRte_strand (imm : Imm) (h : Ready s x f []) (ht : (strandOf s x f).inTrap = true) (hi : imm.toNat ≤ 1)
    (he : (strandOf s x f).epc.toNat + imm.toNat ≤ 8191) :
    ∃ t, exec (.syRte x imm) s = .next t ∧ StrandBecomes s t x f
      { (strandOf s x f).slowed s x.tile.val 3 with
        inTrap := false, pc := BitVec.ofNat 13 ((strandOf s x f).epc.toNat + imm.toNat) } := by
  have hgood : ¬ (!(strandOf s x f).inTrap || decide (1 < imm.toNat)) = true := by simp [ht, hi]
  exact issue_resume (body := fun d n f s st =>
      if !st.inTrap || 1 < imm.toNat then (d, .trap trIllegal (scalarWord x 0x13 0 0 0 7 imm))
      else (d.modStrand n f s fun y => { y with inTrap := false }, .resume st.epc.toNat imm.toNat))
    (fun y => { y.slowed s x.tile.val 3 with inTrap := false }) _ _ _ h (if_neg hgood)
    (noted_modStrand_hold s x f (fun y => { y with inTrap := false }) (by decide)) he

/-- What `sy.wait` does as it issues (R103). -/
def syWaitBody (rd : GReg) (k : Fin 4) (imm : Imm) : Body := fun d n f s st =>
  if (st.kcnt k.val).cnt ≤ imm.toNat then
    putStatus (d.modStrand n f s fun y => y.modK k.val fun c => { c with err := 0 }) n f s rd.val (stWord (st.kcnt k.val).err)
      (st.kcnt k.val).err
  else enterWait d n f s .completion (.completion rd.val k.val imm.toNat)

/-- SY_WAIT by the counter (R103). -/
theorem syWait_strand (rd : GReg) (k : Fin 4) (imm : Imm) (h : Ready s x f []) :
    ∃ t, exec (.syWait x rd k imm) s = .next t ∧ StrandBecomes s t x f
      (if ((strandOf s x f).kcnt k.val).cnt ≤ imm.toNat then
         ((((strandOf s x f).slowed s x.tile.val 2).modK k.val fun c => { c with err := 0 }).answered rd.val
           (((strandOf s x f).kcnt k.val).err.zeroExtend 64) ((strandOf s x f).kcnt k.val).err).advance
       else (((strandOf s x f).slowed s x.tile.val 2).waits s.dev.tick .completion (.completion rd.val k.val imm.toNat)).advance) := by
  split
  case isTrue hdone =>
    exact issue_held (body := syWaitBody rd k imm) (fun y => (y.modK k.val fun c => { c with err := 0 }).answered rd.val
        (((strandOf s x f).kcnt k.val).err.zeroExtend 64) ((strandOf s x f).kcnt k.val).err) h (by decide)
      ((if_pos hdone).trans (Prod.ext (Dev.modStrand_modStrand ..) rfl)) (Strand.setReg_pc _ _ _)
  case isFalse hmore =>
    exact issue_held (body := syWaitBody rd k imm) (fun y => y.waits s.dev.tick .completion (.completion rd.val k.val imm.toNat)) h (by decide)
      (if_neg hmore) rfl

end Sys2Proof.Machine

open Sys2Proof Sys2Proof.Machine

/-- Settles O15: the seven loads and four stores are each one issue of the shared load or store. -/
theorem loadStoreIssues : Obligations.LoadStoreIssues := by
  show (∀ e : (Iss → GReg → GReg → Imm → Instr) × Nat × Bool, e ∈ _ → LoadIssues e.1 e.2.1 e.2.2) ∧
    (∀ e : (Iss → GReg → GReg → Imm → Instr) × Nat, e ∈ _ → StoreIssues e.1 e.2)
  simp only [List.forall_mem_cons]
  exact ⟨⟨loadIssues_of, loadIssues_of, loadIssues_of, loadIssues_of, loadIssues_of, loadIssues_of, loadIssues_of,
      List.forall_mem_nil _⟩,
    storeIssues_of, storeIssues_of, storeIssues_of, storeIssues_of, List.forall_mem_nil _⟩

/-- Settles O18: each of the five by the state that it finds. -/
theorem strandControl : Obligations.StrandControl :=
  fun _ _ _ h => ⟨syHalt_strand h, syYield_strand h, syFence_strand h, fun imm ht hi he => syRte_strand imm h ht hi he,
    fun rd k imm => syWait_strand rd k imm h⟩

end

section
/-! PROOF. The traps that a handler takes, the trap PROGRAM that none takes, and the words that R89 refuses (R87 to R90, R114 to R116),
and the statement about them. -/

namespace Sys2Proof.Machine

variable {s : State} {x : Iss} {f : Nat}

/-! ### Traps that a handler takes -/

/-- The strand in its handler. -/
def State.trapped (s : State) (x : Iss) (f cause : Nat) (tval : Word) : Strand :=
  { strandOf s x f with
    cause := BitVec.ofNat 8 cause, epc := BitVec.ofNat 13 (strandOf s x f).pc.toNat, tval := tval, inTrap := true
    pc := ((s.dev.tile x.tile.val).frond f).trapEntry, slow := ((strandOf s x f).slowed s x.tile.val 3).slow }

section Taken
variable (ht : (strandOf s x f).inTrap = false) (hv : ((s.dev.tile x.tile.val).frond f).trapValid = true)
include ht hv

/-- SY_TRAP raises SOFT. -/
theorem syTrap_trapped (imm : Imm) (h : Ready s x f []) :
    ∃ t, exec (.syTrap x imm) s = .next t ∧ StrandBecomes s t x f (s.trapped x f 8 (imm.signExtend 64)) :=
  issue_trap s x f [] (fun d _ _ _ _ => (d, .trap trSoft (sext32 imm))) _ _ _ h rfl (by decide) ht hv

/-- A reserved word raises ILLEGAL, under the guard that it spells. -/
theorem illegal_trapped (w : Word) (h : Ready s x f []) (hw : illegalWord w.toNat = true) (hp : x.pred.val = bits w.toNat 57 55)
    (hn : x.pn = (bit w.toNat 54 == 1)) :
    ∃ t, exec (.illegal x.tile x.strand w) s = .next t ∧ StrandBecomes s t x f (s.trapped x f 1 w) := by
  have hiss : (⟨x.tile, x.strand, ⟨bits w.toNat 57 55 % 8, Nat.mod_lt _ (by decide)⟩, bit w.toNat 54 == 1⟩ : Iss) = x := by
    have hpred : (⟨bits w.toNat 57 55 % 8, Nat.mod_lt _ (by decide)⟩ : PReg) = x.pred :=
      Fin.ext (by rw [← hp]; exact Nat.mod_eq_of_lt x.pred.isLt)
    rw [hpred, ← hn]
  have hexec : exec (.illegal x.tile x.strand w) s = run (fun d => d.issue x [] 1 fun d _ _ _ _ => (d, .trap trIllegal w)) s := by
    rw [run_live _ _ h.1]
    refine exec_next rfl h.1 ((if_pos hw).trans ?_)
    rw [hiss]
  rw [hexec]
  exact issue_trap s x f [] _ _ _ _ h rfl (by decide) ht hv

/-- A load at an offset that is no multiple of its width raises MISALIGNED. -/
theorem ldD_trapped (rd ra : GReg) (imm : Imm) (h : Ready s x f [ra.val])
    (ho : ((strandOf s x f).reg ra.val + imm.signExtend 64).toNat % 8 ≠ 0) :
    ∃ t, exec (.ldD x rd ra imm) s = .next t ∧ StrandBecomes s t x f
      (s.trapped x f 3 (BitVec.ofNat 64 ((strandOf s x f).reg ra.val + imm.signExtend 64).toNat)) := by
  have htrap : (s.dev.noted x.tile.val x.strand.val).loadTrap x.tile.val (effOffset (strandOf s x f) ra imm) 8 = some trMisaligned :=
    if_pos ho
  refine issue_trap s x f [ra.val] _ (s.dev.noted x.tile.val x.strand.val) trMisaligned _ h ?_ (by decide) ht hv
  simp only [htrap]
  rfl

end Taken

/-! ### The trap PROGRAM (R114 to R116) -/

/-- The strand in FAULT. -/
def Strand.faulted (y : Strand) (cause epc : Nat) (tval : Word) : Strand :=
  { y with st := .fault, wait := .none, op := .none, cause := BitVec.ofNat 8 cause, epc := BitVec.ofNat 13 epc, tval := tval }

/-- The fault record of a strand's unhandled trap under FAULT_POLICY 1 (R502). -/
def faultRec (part n k f cause epc : Nat) (tval : Word) : FltRec :=
  { cls := 1, sev := 3, part := part, tile := some n, unit := 3, action := 0
    detail := leBytes 1 k ++ leBytes 1 f ++ leBytes 1 cause ++ [0] ++ leBytes 2 epc ++ [0, 0] ++ leBytes 8 tval.toNat }

/-- PROGRAM is no trap that a handler takes (R114). -/
theorem Dev.takeTrap_program (d : Dev) (n f k epc : Nat) (v : Word) :
    d.takeTrap n f k trProgram epc v = d.unhandled n f k trProgram epc v := by
  simp [Dev.takeTrap, trProgram]

/-- Under FAULT_POLICY 1 an unhandled trap leaves the strand in FAULT and a record, and nothing stops (R116). -/
theorem Dev.unhandled_strandOnly (d : Dev) (n k cause epc : Nat) (tval : Word) (hp : d.get (TILE_CORE_CTRL_FAULT_POLICY n) = 1) :
    d.unhandled n f k cause epc tval =
      (d.modStrand n f k fun y => y.faulted cause epc tval).log (faultRec (d.tile n).part n k f cause epc tval) := by
  simp only [Dev.unhandled, hp]
  rfl

/-- The fields of the record's DETAIL (R502). -/
theorem faultRec_detail (part n k f cause epc : Nat) (tval : Word) :
    fieldAt (faultRec part n k f cause epc tval).detail 0 1 = k % 256 ∧
    fieldAt (faultRec part n k f cause epc tval).detail 1 1 = f % 256 ∧
    fieldAt (faultRec part n k f cause epc tval).detail 2 1 = cause % 256 ∧
    fieldAt (faultRec part n k f cause epc tval).detail 4 2 = epc % 65536 ∧
    fieldAt (faultRec part n k f cause epc tval).detail 8 8 = tval.toNat := by
  let head := leBytes 1 k ++ leBytes 1 f ++ leBytes 1 cause ++ [0]
  have hepc : (faultRec part n k f cause epc tval).detail = head ++ (leBytes 2 epc ++ ([0, 0] ++ leBytes 8 tval.toNat)) := by
    simp [faultRec, head]
  have htval : (faultRec part n k f cause epc tval).detail = (head ++ leBytes 2 epc ++ [0, 0]) ++ (leBytes 8 tval.toNat ++ []) := by
    simp [faultRec, head]
  refine ⟨?_, ?_, ?_, ?_, ?_⟩
  · simp [faultRec, fieldAt, slice, leBytes, leNat, zeros]
  · simp [faultRec, fieldAt, slice, leBytes, leNat, zeros]
  · simp [faultRec, fieldAt, slice, leBytes, leNat, zeros]
  · rw [hepc, fieldAt_append _ _ _ 4 2 (by simp [head]) (by simp), leNat_leBytes]
    rfl
  · rw [htval, fieldAt_append _ _ _ 8 8 (by simp [head]) (by simp), leNat_leBytes]
    exact Nat.mod_eq_of_lt tval.isLt

/-- A tile's issue count, its FAULT_POLICY and FLT_SEQ have places of their own. -/
theorem issueCount_key_ne (n : Nat) : (TILE_CORE_CTRL_FAULT_POLICY n).key ≠ (TILE_ISSUE_COUNT_V n).key ∧
    FLT_SEQ_SEQ.key ≠ (TILE_ISSUE_COUNT_V n).key := by
  simp only [RF.key, TILE_CORE_CTRL_FAULT_POLICY, TILE_CORE_CTRL, TILE_ISSUE_COUNT_V, TILE_ISSUE_COUNT, FLT_SEQ_SEQ, FLT_SEQ]
  exact ⟨by omega, by omega⟩

/-- Every field but the tile's issue count keeps its value as an instruction is counted. -/
theorem Dev.noted_get_ne (d : Dev) (n k : Nat) (r : RF) (h : r.key ≠ (TILE_ISSUE_COUNT_V n).key) : (d.noted n k).get r = d.get r := by
  rw [Dev.noted, Dev.add, Dev.get_set_ne _ _ _ _ h, Dev.modTile_get]

/-- Every tile but the instruction's own is as before. -/
theorem Dev.noted_tile_ne (d : Dev) {n m : Nat} (k : Nat) (h : m ≠ n) : (d.noted n k).tile m = d.tile m := by
  rw [Dev.noted, Dev.add, Dev.set_tile, Dev.tile_modTile_ne _ _ _ _ h]

/-- The device with the strand of a sy.fault in FAULT, before the record of it. -/
def State.inFault (s : State) (x : Iss) (f : Nat) (imm : Imm) : Dev :=
  (s.dev.noted x.tile.val x.strand.val).modStrand x.tile.val f x.strand.val fun y =>
    y.faulted trProgram (strandOf s x f).pc.toNat (imm.signExtend 64)

/-- The record of a sy.fault. -/
def State.faultRecord (s : State) (x : Iss) (f : Nat) (imm : Imm) : FltRec :=
  faultRec (s.dev.tile x.tile.val).part x.tile.val x.strand.val f trProgram (strandOf s x f).pc.toNat (imm.signExtend 64)

/-- The device as sy.fault leaves it under FAULT_POLICY 1. -/
def State.faultLogged (s : State) (x : Iss) (f : Nat) (imm : Imm) : Dev := (s.inFault x f imm).log (s.faultRecord x f imm)

/-- SY_FAULT under FAULT_POLICY 1. -/
theorem exec_syFault (imm : Imm) (h : Ready s x f []) (hp : s.dev.get (TILE_CORE_CTRL_FAULT_POLICY x.tile.val) = 1) :
    exec (.syFault x imm) s = .next { s with dev := s.faultLogged x f imm } := by
  have hp' : (s.dev.noted x.tile.val x.strand.val).get (TILE_CORE_CTRL_FAULT_POLICY x.tile.val) = 1 :=
    (Dev.noted_get_ne _ _ _ _ (issueCount_key_ne _).1).trans hp
  have hpart : ((s.dev.noted x.tile.val x.strand.val).tile x.tile.val).part = (s.dev.tile x.tile.val).part := by
    rw [Dev.noted_tile_same]
  refine exec_next rfl h.1 ((issue_ready s x f [] 1 _ h).trans ?_)
  refine (Dev.takeTrap_program _ _ _ _ _ _).trans ?_
  rw [Dev.unhandled_strandOnly _ _ _ _ _ _ hp', hpart]
  rfl

/-- Its strand, the other strands, the tile and the other tiles, as SY_FAULT leaves them. -/
theorem State.faultLogged_tiles (imm : Imm) :
    (s.faultLogged x f imm).tile x.tile.val = { s.dev.tile x.tile.val with
      strands := ((s.faultLogged x f imm).tile x.tile.val).strands, lastIssued := x.strand.val, stepping := none } ∧
    ((s.faultLogged x f imm).tile x.tile.val).strand f x.strand.val =
      (strandOf s x f).faulted trProgram (strandOf s x f).pc.toNat (imm.signExtend 64) ∧
    (∀ f' k' : Nat, f' * 8 + k' ≠ f * 8 + x.strand.val →
      ((s.faultLogged x f imm).tile x.tile.val).strand f' k' = (s.dev.tile x.tile.val).strand f' k') ∧
    ∀ m, m ≠ x.tile.val → (s.faultLogged x f imm).tile m = s.dev.tile m := by
  obtain ⟨⟨_, htiles, _, _⟩, hown, hothers, htile⟩ := strand_becomes1 s x f fun y =>
    y.faulted trProgram (strandOf s x f).pc.toNat (imm.signExtend 64)
  simp only [State.faultLogged, Dev.log_tile, State.inFault]
  exact ⟨htile, hown, hothers, htiles⟩

/-- FLT_SEQ counts the record, and every field but it, the issue count and the count of faults keeps its value. -/
theorem State.faultLogged_get (imm : Imm) :
    (s.faultLogged x f imm).get FLT_SEQ_SEQ = (s.dev.get FLT_SEQ_SEQ + 1) % 2 ^ 32 ∧
    ∀ r : RF, r.key ≠ (TILE_ISSUE_COUNT_V x.tile.val).key → r.key ≠ FLT_SEQ_SEQ.key → r.key ≠ (FLT_COUNT_V 3).key →
      (s.faultLogged x f imm).get r = s.dev.get r := by
  refine ⟨?_, fun r hissue hseq hcount => ?_⟩
  · rw [State.faultLogged, Dev.log_seq, State.inFault, Dev.modStrand_get, Dev.noted_get_ne _ _ _ _ (issueCount_key_ne _).2]
  · rw [State.faultLogged, Dev.log_get_ne _ _ _ hseq, State.inFault, Dev.modStrand_get, Dev.noted_get_ne _ _ _ _ hissue]
    exact hcount

/-- The record that SY_FAULT leaves in the log, field by field (R501, R502). -/
theorem State.faultLogged_record (imm : Imm) :
    let r := mget (s.faultLogged x f imm).fltLog [] (s.dev.get FLT_SEQ_SEQ % 256)
    fieldAt r 3 1 = 1 ∧ fieldAt r 16 1 = 3 ∧ fieldAt r 18 2 = x.tile.val ∧ fieldAt r 64 1 = x.strand.val ∧ fieldAt r 65 1 = f % 256 ∧
    fieldAt r 66 1 = 9 ∧ fieldAt r 68 2 = (strandOf s x f).pc.toNat ∧ fieldAt r 72 8 = (imm.signExtend 64).toNat := by
  have hseq : (s.inFault x f imm).get FLT_SEQ_SEQ = s.dev.get FLT_SEQ_SEQ := Dev.noted_get_ne _ _ _ _ (issueCount_key_ne _).2
  have hrec : mget (s.faultLogged x f imm).fltLog [] (s.dev.get FLT_SEQ_SEQ % 256) = fltBytes (s.inFault x f imm) (s.faultRecord x f imm) := by
    rw [← hseq]
    exact Dev.log_record _ _
  obtain ⟨hk, hf, hcause, hepc, htval⟩ := faultRec_detail (s.dev.tile x.tile.val).part x.tile.val x.strand.val f trProgram
    (strandOf s x f).pc.toNat (imm.signExtend 64)
  have hn : x.tile.val < 65536 := lt_of_lt_of_le x.tile.isLt (by decide)
  have hs : x.strand.val < 256 := lt_of_lt_of_le x.strand.isLt (by decide)
  have hpc : (strandOf s x f).pc.toNat < 65536 := lt_of_lt_of_le (strandOf s x f).pc.isLt (by decide)
  rw [hrec]
  refine ⟨fltBytes_class _ _, fltBytes_sev _ _, (fltBytes_tile _ _ _ rfl).trans (Nat.mod_eq_of_lt hn), ?_, ?_, ?_, ?_, ?_⟩
  · exact (fltBytes_detail _ _ 0 1 (by decide)).trans (hk.trans (Nat.mod_eq_of_lt hs))
  · exact (fltBytes_detail _ _ 1 1 (by decide)).trans hf
  · exact (fltBytes_detail _ _ 2 1 (by decide)).trans hcause
  · exact (fltBytes_detail _ _ 4 2 (by decide)).trans (hepc.trans (Nat.mod_eq_of_lt hpc))
  · exact (fltBytes_detail _ _ 8 8 (by decide)).trans htval

/-! ### The decoder (R87 to R90) -/

/-- A word that R89 calls illegal decodes to the reserved word that it is. -/
theorem decodeChesha_illegal (tile : TileId) (strand : StrandId) (w : Word) (ecc : Ecc) (h : illegalWord w.toNat = true) :
    decodeChesha tile strand w ecc = .illegal tile strand w := if_pos h

end Sys2Proof.Machine

open Sys2Proof Sys2Proof.Machine

/-- Settles O17: a trap that a handler takes is `issue_trap`; SY_FAULT leaves `State.faultLogged`; and the words by R87 to R90. -/
theorem trapOrFault : Obligations.TrapOrFault := by
  unfold Obligations.TrapOrFault
  refine ⟨fun s x f ra rd imm w h ht hv => ?_, fun s x f imm h hp => ?_, fun tile strand w ecc => ?_⟩
  · exact ⟨syTrap_trapped ht hv imm h, illegal_trapped ht hv w h, ldD_trapped ht hv rd ra imm⟩
  · obtain ⟨htile, hown, hothers, htiles⟩ := State.faultLogged_tiles (s := s) (x := x) (f := f) imm
    obtain ⟨hseq, hregs⟩ := State.faultLogged_get (s := s) (x := x) (f := f) imm
    refine ⟨_, exec_syFault imm h hp, hown, hothers, htile, hseq, State.faultLogged_record imm, htiles, fun r hr => ?_, ⟨rfl, rfl⟩⟩
    obtain ⟨hissue, hrest⟩ := List.forall_mem_cons.1 hr
    obtain ⟨hrseq, hcount⟩ := List.forall_mem_cons.1 hrest
    exact hregs r hissue hrseq (hcount _ List.mem_cons_self)
  · exact ⟨decodeChesha_illegal tile strand w ecc, rfl, rfl, rfl⟩
end

section
/-! PROOF. A load in flight returns and a store leaves its buffer (R96, R97), and the statement about them. -/

namespace Sys2Proof.Machine

variable {d : Dev} {n f k : Nat}

/-! ### A load returns -/

/-- A returning load writes its register, and nothing else, where its words hold no error. -/
theorem Dev.loadReturn_ok {rd : Nat} {l : LoadEntry}
    (hf : ((d.tile n).frondWith k fun x => x.loads.any fun l => l.rd == rd) = some f)
    (hl : (((d.tile n).strand f k).loads.find? fun e => e.rd == rd) = some l) (hreg : winRegion l.off ≠ .regs)
    (hue : (d.tile n).ueIn l.off l.width = false) (hrd : rd ≠ 0) (hrun : d.stoppedF n f = false) :
    d.loadReturn n k rd .ok = d.modStrand n f k fun y =>
      { y with loads := dropFirst (fun e => e.rd == rd) y.loads
               g := lset y.g rd (loadValue l (d.loadBytes n ((d.tile n).strand f k) l)) } := by
  have hisReg : (winRegion l.off == WinRegion.regs) = false := beq_eq_false_iff_ne.2 hreg
  have hunc : (Ecc.ok == Ecc.uncorrectable) = false := rfl
  have hcor : (Ecc.ok == Ecc.corrected) = false := rfl
  simp only [Dev.loadReturn, hf, hl, hrun, hue, hisReg, hrd, hunc, hcor, Bool.and_false, Bool.or_false, Bool.not_false, Bool.false_eq_true,
    if_false, if_true]
  exact Dev.modStrand_modStrand ..

/-! ### A store leaves its buffer -/

/-- What an earlier load in flight is given of the bytes that the store will overwrite (R97). -/
def Dev.keptLoad (d : Dev) (n : Nat) (x : Strand) (e : StoreEntry) (l : LoadEntry) : LoadEntry :=
  if l.got.isNone && e.seq > l.seq && overlaps e.off e.width l.off l.width then { l with got := some (d.loadBytes n x l) } else l

/-- The strand without its oldest store. -/
def Dev.storeTaken (d : Dev) (n f k : Nat) (e : StoreEntry) (rest : List StoreEntry) : Dev :=
  d.modStrand n f k fun y => { y with loads := y.loads.map (d.keptLoad n ((d.tile n).strand f k) e), stores := rest }

/-- A strand that waits for nothing is not woken. -/
theorem Dev.wakeStrand_none (h : ((d.tile n).strand f k).op = .none) : d.wakeStrand n f k = d := by
  simp only [Dev.wakeStrand, h]

/-- The oldest store, where no merge meets an error and the strand waits for nothing: it leaves the buffer and is written. -/
theorem Dev.storeHead_ok {e : StoreEntry} {rest : List StoreEntry} (hs : ((d.tile n).strand f k).stores = e :: rest)
    (hue : (d.tile n).uePartial e.off e.width = false) :
    d.storeHead n f k .ok = ((d.storeTaken n f k e rest).storeWrite n f e).wakeStrand n f k := by
  have hue' : ((d.storeTaken n f k e rest).tile n).uePartial e.off e.width = false := by
    rw [Dev.storeTaken, Dev.modStrand_tile]
    exact hue
  have herr : ¬ (decide (e.width < 8) &&
      (Ecc.ok == .uncorrectable || ((d.storeTaken n f k e rest).tile n).uePartial e.off e.width)) = true := by
    simp [hue']
  have hcor : ¬ (decide (e.width < 8) && Ecc.ok == .corrected) = true := by simp
  simp only [Dev.storeHead, hs]
  refine congrArg (fun a : Dev => a.wakeStrand n f k) ((if_neg herr).trans ?_)
  exact congrArg (fun a : Dev => a.storeWrite n f e) (if_neg hcor)

/-- A store's bytes in the scratchpad (R240, R253). -/
def Tile.stored (t : Tile) (e : StoreEntry) : Tile :=
  { t with scratch := cwrite t.scratch e.off (leBytes e.width e.value.toNat)
           bad := coveredWords t.bad e.off (leBytes e.width e.value.toNat).length }

/-- The strands are as before. -/
theorem Tile.stored_strand (t : Tile) (e : StoreEntry) (f k : Nat) : (t.stored e).strand f k = t.strand f k := rfl

/-- A store into a scratchpad quarter that is ON and a line that is not FULL. -/
theorem Dev.storeWrite_scratch {e : StoreEntry} (hw : winRegion e.off = .scratch) (hon : (d.tile n).storeOn e.off = true)
    (hfull : (d.tile n).lineFull f (e.off / 256) = false) : d.storeWrite n f e = d.modTile n fun t => t.stored e := by
  simp only [Dev.storeWrite, hw, hon, hfull]
  rfl

section Stored
variable {e : StoreEntry} {rest : List StoreEntry}

/-- The tile as a store leaves it. -/
def Dev.afterStore (d : Dev) (n f k : Nat) (e : StoreEntry) (rest : List StoreEntry) : Dev :=
  (d.storeTaken n f k e rest).modTile n fun t => t.stored e

/-- The strand, and the tile but for its strands, its bytes and their errors. -/
theorem Dev.afterStore_tile : (d.afterStore n f k e rest).tile n = ((d.tile n).modStrand f k fun y =>
    { y with loads := y.loads.map (d.keptLoad n ((d.tile n).strand f k) e), stores := rest }).stored e := by
  rw [Dev.afterStore, Dev.tile_modTile_same, Dev.storeTaken, Dev.modStrand_tile]

/-- A strand's stores and what it waits for, as a store leaves them. -/
theorem Dev.afterStore_strand : (((d.afterStore n f k e rest).tile n).strand f k).stores = rest ∧
    (((d.afterStore n f k e rest).tile n).strand f k).op = ((d.tile n).strand f k).op := by
  have hstrand : ((d.afterStore n f k e rest).tile n).strand f k =
      { (d.tile n).strand f k with
        loads := ((d.tile n).strand f k).loads.map (d.keptLoad n ((d.tile n).strand f k) e), stores := rest } := by
    rw [Dev.afterStore_tile, Tile.stored_strand, Tile.strand_modStrand_same]
  rw [hstrand]
  exact ⟨rfl, rfl⟩

/-- STORE_BUFFER_WRITE of a store into the scratchpad. -/
theorem Dev.storeHead_scratch (hs : ((d.tile n).strand f k).stores = e :: rest) (hop : ((d.tile n).strand f k).op = .none)
    (hue : (d.tile n).uePartial e.off e.width = false) (hw : winRegion e.off = .scratch) (hon : (d.tile n).storeOn e.off = true)
    (hfull : (d.tile n).lineFull f (e.off / 256) = false) : d.storeHead n f k .ok = d.afterStore n f k e rest := by
  have hon' : ((d.storeTaken n f k e rest).tile n).storeOn e.off = true := by
    rw [Dev.storeTaken, Dev.modStrand_tile]
    exact hon
  have hfull' : ((d.storeTaken n f k e rest).tile n).lineFull f (e.off / 256) = false := by
    rw [Dev.storeTaken, Dev.modStrand_tile]
    exact hfull
  rw [Dev.storeHead_ok hs hue, Dev.storeWrite_scratch hw hon' hfull']
  exact Dev.wakeStrand_none (Dev.afterStore_strand.2.trans hop)

/-- The frond whose store STORE_BUFFER_WRITE writes. -/
theorem Dev.storeOf_frondWith (h : ((d.tile n).frondWith k fun x => !x.stores.isEmpty) = some f) :
    (match (d.tile n).frondWith k fun x => !x.stores.isEmpty with
      | some f => d.storeHead n f k .ok
      | none => d) = d.storeHead n f k .ok := by
  rw [h]

/-- Of the tile, a store changes the strands, the scratchpad's bytes and their errors, and of the other tiles nothing. -/
theorem Dev.afterStore_frame : (d.afterStore n f k e rest).tile n = { d.tile n with
      strands := ((d.afterStore n f k e rest).tile n).strands, bad := ((d.afterStore n f k e rest).tile n).bad
      scratch := ((d.afterStore n f k e rest).tile n).scratch } ∧
    ∀ m, m ≠ n → (d.afterStore n f k e rest).tile m = d.tile m := by
  refine ⟨?_, fun m hm => ?_⟩
  · rw [Dev.afterStore_tile]
    rfl
  · rw [Dev.afterStore, Dev.tile_modTile_ne _ _ _ _ hm]
    exact Dev.tile_modTile_ne _ _ _ _ hm

end Stored

end Sys2Proof.Machine

open Sys2Proof Sys2Proof.Machine

/-- Settles O16: a returning load by `Dev.loadReturn_ok`, a store by `Dev.storeHead_scratch` and the reads of what was written. -/
theorem loadStoreComplete : Obligations.LoadStoreComplete := by
  refine ⟨?_, ?_⟩
  · intro s tile strand rd f l t0 y hlive hf hl hreg hue hrd hrun
    exact ⟨_, exec_next rfl hlive (Dev.loadReturn_ok hf hl hreg hue hrd hrun), only_strand s _ _ _ _⟩
  · intro s tile strand f e rest t0 y hlive hwf hf hs hop hend hwidth hon hfull hue
    have hw : winRegion e.off = .scratch := if_pos (by omega)
    have hscratch : Memory.wf t0.scratch = true := by
      simp only [Tile.memWf, Bool.and_eq_true] at hwf
      exact hwf.1.1.1.1.1
    have hlen := leBytes_length e.width e.value.toNat
    have hexec : exec (.storeBufferWrite tile strand .ok) s =
        .next { s with dev := s.dev.afterStore tile.val f strand.val e rest } :=
      exec_next rfl hlive ((Dev.storeOf_frondWith hf).trans (Dev.storeHead_scratch hs hop hue hw hon hfull))
    refine ⟨_, hexec, Dev.afterStore_strand.1, fun i hi => ?_, fun a ha => ?_, ⟨_, _, Dev.afterStore_frame.1⟩,
      Dev.afterStore_frame.2, rfl⟩
    · show cget ((s.dev.afterStore _ _ _ e rest).tile _).scratch _ = _
      rw [Dev.afterStore_tile]
      exact cget_cwrite_in _ _ _ _ hscratch (hlen.symm ▸ hi)
    · show cget ((s.dev.afterStore _ _ _ e rest).tile _).scratch _ = _
      rw [Dev.afterStore_tile]
      exact cget_cwrite_out _ _ _ _ hscratch (hlen.symm ▸ ha)
end

section
/-! PROOF. SY_START, SY_STOP and the owner's hold of strands (R86, R94, R103, R118, R121, R122), and the statement about them. -/

namespace Sys2Proof.Machine

variable {s : State} {x : Iss} {f : Nat}

/-! ### What the instruction finds (R83, R86, R118) -/

/-- The device as an instruction of 2 cycles finds it once it has been counted. -/
def State.started (s : State) (x : Iss) (f : Nat) : Dev :=
  (s.dev.noted x.tile.val x.strand.val).hold x.tile.val f x.strand.val 2

/-- Every strand is as it was but for the note of the latency. -/
theorem started_strand (k : Nat) :
    ∃ w, ((s.started x f).tile x.tile.val).strand f k = { (s.dev.tile x.tile.val).strand f k with slow := w } := by
  rw [State.started, noted_hold s x f 2 (by decide), Dev.modStrand_tile, Dev.noted_tile_same]
  by_cases hk : k = x.strand.val
  · subst hk
    rw [Tile.strand_modStrand_same]
    exact ⟨_, rfl⟩
  · rw [Tile.strand_modStrand_ne _ _ _ _ _ _ (by omega)]
    exact ⟨_, rfl⟩

/-- The active frond stays active, and no STEP is under way. -/
theorem started_tile : ((s.started x f).tile x.tile.val).active = (s.dev.tile x.tile.val).active ∧
    ((s.started x f).tile x.tile.val).stepping = none := by
  obtain ⟨u, hu⟩ := (s.dev.noted x.tile.val x.strand.val).hold_tile x.tile.val f x.strand.val 2
  rw [State.started, hu, Dev.noted_tile_same]
  exact ⟨rfl, rfl⟩

/-- Which strands a frond sees does not change (R118). -/
theorem started_hidden (k : Nat) : (s.started x f).hidden x.tile.val f k = s.dev.hidden x.tile.val f k :=
  congrArg (fun b => b && decide (4 ≤ k)) (Dev.px64_noted_hold s.dev x.tile.val f f x.strand.val 2)

/-- A strand shows DEBUG where HALT_REQ holds it. -/
theorem Dev.inDebug_eq (d : Dev) (n k : Nat) : d.inDebug n k = (d.tile n).inDebug (d.tile n).act k := by
  simp only [Dev.inDebug, strandCode]
  cases (d.tile n).inDebug (d.tile n).act k
  · cases ((d.tile n).strand (d.tile n).act k).st <;> rfl
  · rfl

/-- DEBUG of a strand of the active frond, by the state that the strand is in. -/
def State.debug (s : State) (x : Iss) (f k : Nat) : Bool :=
  ((s.started x f).tile x.tile.val).haltReq && ((s.started x f).tile x.tile.val).act == f &&
    (decide (((s.dev.tile x.tile.val).strand f k).st = .ready) || decide (((s.dev.tile x.tile.val).strand f k).st = .wait) ||
      decide (((s.dev.tile x.tile.val).strand f k).st = .halt))

theorem started_inDebug {srcs : List Nat} (h : Ready s x f srcs) (k : Nat) :
    (s.started x f).inDebug x.tile.val k = s.debug x f k := by
  have hact : ((s.started x f).tile x.tile.val).act = f := by
    rw [Tile.act, started_tile.1, h.2.1]
    rfl
  obtain ⟨w, hw⟩ := started_strand (s := s) (x := x) (f := f) k
  have hstep : (none != some k) = true := rfl
  rw [Dev.inDebug_eq, hact, Tile.inDebug, started_tile.2, hw, State.debug, hact, hstep, beq_self_eq_true, Bool.and_true]
  rfl

/-! ### SY_START -/

/-- The strand goes on at IMM, or takes PC_RANGE there (R86, R94). -/
theorem Dev.startAt_eq (d : Dev) (n f k : Nat) (imm : Imm) : d.startAt n f k imm =
    let going := d.modStrand n f k fun z =>
      { z with st := .ready, wait := .none, op := .none, yielding := false, atEnd := false, pc := BitVec.ofNat 13 (min imm.toNat 8191) }
    if imm.toNat ≤ 8191 then going else going.takeTrap n f k trPcRange 8191 (imm.signExtend 64) := by
  unfold Dev.startAt
  split
  case isTrue hin =>
    rw [Nat.min_eq_left hin]
  case isFalse hout =>
    rw [Nat.min_eq_right (by omega)]
    rfl

/-- What `sy.start` does as it issues (R103, R118), `k` being the strand that it names. -/
def syStartBody (x : Iss) (rd ra : GReg) (imm : Imm) : Body := fun d n f s st =>
  let k := (st.reg ra.val).toNat % 8
  if d.hidden n f k then (d, .trap trClass (scalarWord x 0x13 rd.val ra.val 0 4 imm))
  else if (((d.tile n).strand f k).st = .idle || ((d.tile n).strand f k).st = .halt) && !d.inDebug n k then
    putStatus (d.startAt n f k imm) n f s rd.val (stWord stOk) stOk
  else putStatus d n f s rd.val (stWord stBusy) stBusy

/-- What `sy.stop` does as it issues (R103, R118). -/
def syStopBody (x : Iss) (rd ra : GReg) : Body := fun d n f s st =>
  let k := (st.reg ra.val).toNat % 8
  if d.hidden n f k then (d, .trap trClass (scalarWord x 0x13 rd.val ra.val 0 5 0))
  else if (((d.tile n).strand f k).st = .ready || ((d.tile n).strand f k).st = .wait || ((d.tile n).strand f k).st = .halt) &&
    (k = s || !d.inDebug n k) then
    putStatus (d.haltStrand n f k) n f s rd.val (stWord stOk) stOk
  else putStatus d n f s rd.val (stWord stBusy) stBusy

theorem exec_syStart (rd ra : GReg) (imm : Imm) :
    exec (.syStart x rd ra imm) s = run (fun d => d.issue x [ra.val] 1 (slowly 2 (syStartBody x rd ra imm))) s := rfl

theorem exec_syStop (rd ra : GReg) :
    exec (.syStop x rd ra) s = run (fun d => d.issue x [ra.val] 1 (slowly 2 (syStopBody x rd ra))) s := rfl

section Bodies
variable {d : Dev} {n j : Nat} {y : Strand} {rd ra : GReg} {imm : Imm} (hh : d.hidden n f ((y.reg ra.val).toNat % 8) = false)
include hh

theorem syStartBody_ok
    (hst : ((d.tile n).strand f ((y.reg ra.val).toNat % 8)).st = .idle ∨ ((d.tile n).strand f ((y.reg ra.val).toNat % 8)).st = .halt)
    (hd : d.inDebug n ((y.reg ra.val).toNat % 8) = false) :
    syStartBody x rd ra imm d n f j y = putStatus (d.startAt n f ((y.reg ra.val).toNat % 8) imm) n f j rd.val (stWord stOk) stOk :=
  (if_neg (Bool.eq_false_iff.1 hh)).trans (if_pos (by simpa [hd] using hst))

theorem syStartBody_busy
    (hst : (((d.tile n).strand f ((y.reg ra.val).toNat % 8)).st ≠ .idle ∧ ((d.tile n).strand f ((y.reg ra.val).toNat % 8)).st ≠ .halt) ∨
      d.inDebug n ((y.reg ra.val).toNat % 8) = true) :
    syStartBody x rd ra imm d n f j y = putStatus d n f j rd.val (stWord stBusy) stBusy := by
  refine (if_neg (Bool.eq_false_iff.1 hh)).trans (if_neg ?_)
  rcases hst with ⟨hidle, hhalt⟩ | hd
  · simp [hidle, hhalt]
  · simp [hd]

theorem syStopBody_ok
    (hst : ((d.tile n).strand f ((y.reg ra.val).toNat % 8)).st = .ready ∨ ((d.tile n).strand f ((y.reg ra.val).toNat % 8)).st = .wait ∨
      ((d.tile n).strand f ((y.reg ra.val).toNat % 8)).st = .halt)
    (hd : (y.reg ra.val).toNat % 8 = j ∨ d.inDebug n ((y.reg ra.val).toNat % 8) = false) :
    syStopBody x rd ra d n f j y = putStatus (d.haltStrand n f ((y.reg ra.val).toNat % 8)) n f j rd.val (stWord stOk) stOk :=
  (if_neg (Bool.eq_false_iff.1 hh)).trans (if_pos (by simpa [or_assoc] using And.intro hst hd))

theorem syStopBody_busy
    (hst : ((d.tile n).strand f ((y.reg ra.val).toNat % 8)).st = .idle ∨ ((d.tile n).strand f ((y.reg ra.val).toNat % 8)).st = .fault ∨
      ((y.reg ra.val).toNat % 8 ≠ j ∧ d.inDebug n ((y.reg ra.val).toNat % 8) = true)) :
    syStopBody x rd ra d n f j y = putStatus d n f j rd.val (stWord stBusy) stBusy := by
  refine (if_neg (Bool.eq_false_iff.1 hh)).trans (if_neg ?_)
  rcases hst with hidle | hfault | ⟨hother, hd⟩
  · simp [hidle]
  · simp [hfault]
  · simp [hother, hd]

end Bodies

/-! ### SY_STOP -/

/-- A waiting send gives up its place on the route (R86). -/
def Dev.withdrawn (d : Dev) (n f k : Nat) (op : WaitOp) : Dev :=
  match op with
  | .send _ _ _ _ e _ _ => d.modRoute n f e fun r => { r with waiters := r.waiters.filter fun w => w != .strand k }
  | _ => d

/-- The strand in HALT; a tally request under way is still answered (R86). -/
def Strand.halted (z : Strand) : Strand :=
  { z with st := .halt, wait := .none, op := .none
           late := match z.op with | .tally rd _ home => z.late ++ [(rd, home)] | _ => z.late }

/-- A strand is halted by what it waits for. -/
theorem Dev.haltStrand_eq (d : Dev) (n f k : Nat) (op : WaitOp) (h : ((d.tile n).strand f k).op = op) :
    d.haltStrand n f k = (d.withdrawn n f k op).modStrand n f k Strand.halted := by
  subst h
  rfl

/-! ### The two as they issue -/

section Issued
variable {d : Dev}

/-- The instruction goes on once its body has left the device `d`. -/
theorem issue_started {srcs : List Nat} {body : Body} (h : Ready s x f srcs)
    (hb : body (s.started x f) x.tile.val f x.strand.val (strandOf s x f) = (d, .next)) :
    run (fun d => d.issue x srcs 1 (slowly 2 body)) s = .next (goesOn s x f d) :=
  issue_goes s x f srcs (slowly 2 body) d h hb

/-- The state that the instruction finds its strand in is the one that the strand was in, and so is what it waits for. -/
theorem started_st (k : Nat) :
    (((s.started x f).tile x.tile.val).strand f k).st = ((s.dev.tile x.tile.val).strand f k).st ∧
    (((s.started x f).tile x.tile.val).strand f k).op = ((s.dev.tile x.tile.val).strand f k).op := by
  obtain ⟨w, hw⟩ := started_strand (s := s) (x := x) (f := f) k
  rw [hw]
  exact ⟨rfl, rfl⟩

end Issued

/-! ### The owner's hold (R4, R86, R121, R122) -/

section Hold
variable {tile : TileId} {k : StrandId} {r : GReg} {v : Word} {b : Bool} (hl : s.dev.live = true)
include hl

theorem exec_haltReq_owner : exec (.haltReq .owner tile b) s =
    if b = (s.dev.tile tile.val).haltReq then .next { s with dev := s.dev.completed stOk 0 }
    else .next { s with dev := ((s.dev.modTile tile.val fun t => { t with haltReq := b, stepping := none }).expose
      (s.dev.tile tile.val).part).completed stOk 0 } := by
  split
  case isTrue hsame => exact exec_next rfl hl (congrArg ended (if_pos (beq_iff_eq.2 hsame)))
  case isFalse hnew => exact exec_next rfl hl (congrArg ended (if_neg (fun e => hnew (beq_iff_eq.1 e))))

theorem exec_step_owner : exec (.step_ .owner tile k) s =
    if strandCode (s.dev.tile tile.val) k.val = 5 then
      .next { s with dev := (((s.dev.set (TILE_CORE_CTRL_STEP_STRAND tile.val) k.val).modTile tile.val fun t =>
        { t with stepping := some k.val }).expose (s.dev.tile tile.val).part).completed stOk 0 }
    else .next { s with dev := (s.dev.set (TILE_CORE_CTRL_STEP_STRAND tile.val) k.val).completed stOk 0 } := by
  split
  case isTrue hdebug => exact exec_next rfl hl (congrArg ended (if_pos (beq_iff_eq.2 hdebug)))
  case isFalse hnot => exact exec_next rfl hl (congrArg ended (if_neg (fun e => hnot (beq_iff_eq.1 e))))

theorem exec_gprWrite_owner : exec (.gprWrite .owner tile k r v) s =
    if strandCode (s.dev.tile tile.val) k.val = 5 then
      .next { s with dev := ((s.dev.modStrand tile.val (s.dev.tile tile.val).act k.val fun y => y.setReg r.val v).expose
        (s.dev.tile tile.val).part).completed stOk 0 }
    else .next { s with dev := s.dev.completed stDenied 0 } := by
  split
  case isTrue hdebug => exact exec_next rfl hl (congrArg ended (if_pos hdebug))
  case isFalse hnot => exact exec_next rfl hl (congrArg ended (if_neg hnot))

/-- Without the owner's rights each of the three is DENIED (R4). -/
theorem exec_hold_denied {c : Cred} (hc : isOwner c = false) :
    exec (.haltReq c tile b) s = .next { s with dev := s.dev.completed stDenied 0 } ∧
    exec (.step_ c tile k) s = .next { s with dev := s.dev.completed stDenied 0 } ∧
    exec (.gprWrite c tile k r v) s = .next { s with dev := s.dev.completed stDenied 0 } :=
  ⟨exec_next rfl hl (congrArg ended (ownerWr_of_not_isOwner _ _ hc)), exec_next rfl hl (congrArg ended (ownerWr_of_not_isOwner _ _ hc)),
    exec_next rfl hl (congrArg ended (ownerWr_of_not_isOwner _ _ hc))⟩

end Hold

end Sys2Proof.Machine

open Sys2Proof Sys2Proof.Machine

/-- Settles O20: SY_START and SY_STOP by the strand that they name, the owner's writes by the credential. -/
theorem startStopAndHold : Obligations.StartStopAndHold := by
  refine ⟨fun s x rd ra imm f h => ?_, fun s tile k r v b hl => ?_⟩
  · intro y n k z d debug ans going left halted
    have hz := started_st (s := s) (x := x) (f := f) k
    have hdebug := started_inDebug h k
    have hhidden := started_hidden (s := s) (x := x) (f := f) k
    refine ⟨fun hh => ⟨fun hst hd => ?_, fun hst => ?_, fun hst hd => ?_, fun hst => ?_⟩, fun hh ht hv => ⟨?_, ?_⟩⟩
    · refine (exec_syStart rd ra imm).trans (issue_started h ?_)
      refine (syStartBody_ok (hhidden.trans hh) (hz.1.symm ▸ hst) (hdebug.trans hd)).trans ?_
      rw [Dev.startAt_eq]
      rfl
    · refine (exec_syStart rd ra imm).trans (issue_started h ?_)
      exact syStartBody_busy (hhidden.trans hh) (hz.1.symm ▸ hst.imp_right hdebug.trans)
    · refine (exec_syStop rd ra).trans (issue_started h ?_)
      refine (syStopBody_ok (hhidden.trans hh) (hz.1.symm ▸ hst) (hd.imp_right hdebug.trans)).trans ?_
      rw [Dev.haltStrand_eq _ _ _ _ _ hz.2]
      rfl
    · refine (exec_syStop rd ra).trans (issue_started h ?_)
      exact syStopBody_busy (hhidden.trans hh) (hz.1.symm ▸ hst.imp_right (Or.imp_right (And.imp_right hdebug.trans)))
    · exact issue_trap s x f _ _ _ trClass _ h (if_pos (hhidden.trans hh)) (by decide) ht hv
    · exact issue_trap s x f _ _ _ trClass _ h (if_pos (hhidden.trans hh)) (by decide) ht hv
  · exact ⟨exec_haltReq_owner hl, exec_step_owner hl, exec_gprWrite_owner hl, fun c hc => exec_hold_denied hl hc⟩
end

section
/-! PROOF. A macroinstruction enters its engine's queue, or waits for room (R105, R106, R108, R259), and the statement about it. -/

namespace Sys2Proof.Machine

variable {d : Dev} {n f j : Nat} {y : Strand} {k : MacroKind} {x : Iss} {m : Mac} {chain : List Word}

/-! ### No store is left to write (R106) -/

/-- With an empty buffer nothing is written before a macroinstruction issues. -/
theorem Dev.flushStores_nil (h : ((d.tile n).strand f j).stores = []) (hit : Nat) (ecc : Ecc) (i : Nat) :
    d.flushStores n f j hit ecc i = d := by
  induction i generalizing hit ecc with
  | zero => rfl
  | succ i ih =>
    have hhead (e : Ecc) : d.storeHead n f j e = d := by simp only [Dev.storeHead, h]
    rw [Dev.flushStores, hhead]
    exact ih _ _

/-! ### Which of the words that it reads meets an error (R259) -/

/-- The place of the error among the chain words, which are one place, and the slots that are copied. -/
def macroAt (free : Nat) (k : MacroKind) (m : Mac) (chain : List Word) : Nat :=
  Config.eccLine free % (min 1 (chainLen k m) + (namedSlots m k chain).length)

/-- The slot, if any, whose copy meets the error of the command. -/
def macroMet (free : Nat) (k : MacroKind) (m : Mac) (chain : List Word) : Option Nat :=
  if min 1 (chainLen k m) ≤ macroAt free k m chain then (namedSlots m k chain)[macroAt free k m chain - min 1 (chainLen k m)]? else none

/-- With no store in the buffer the error is a slot's where it is not a chain word's. -/
theorem macroMet_eq (free : Nat) :
    (if (!decide (min 1 (chainLen k m) ≤ macroAt free k m chain) || decide (macroAt free k m chain - min 1 (chainLen k m) < 0)) = true
      then none else (namedSlots m k chain)[macroAt free k m chain - min 1 (chainLen k m) - 0]?) = macroMet free k m chain := by
  by_cases hin : min 1 (chainLen k m) ≤ macroAt free k m chain <;> simp [macroMet, hin]

/-- A slot meets the error only where no chain word does. -/
theorem macroAt_of_met {free : Nat} (h : (macroMet free k m chain).isSome = true) :
    min 1 (chainLen k m) ≤ macroAt free k m chain := by
  by_contra hout
  simp [macroMet, hout] at h

/-- The chain words are the first place, where there are any. -/
theorem inChain_eq (i : Nat) : (decide (0 < chainLen k m) && i == 0) = !decide (min 1 (chainLen k m) ≤ i) := by
  rw [Bool.eq_iff_iff]
  simp
  omega

theorem chainPlaces_eq : (if 0 < chainLen k m then 1 else 0) = min 1 (chainLen k m) := by
  split <;> omega

/-! ### What an issue comes to -/

/-- The copy, the checks and the queue (R105, R106, R113). -/
def macroEntry (k : MacroKind) (m : Mac) (chain : List Word) (free : Nat) (d : Dev) (n f j : Nat) : Dev × Flow :=
  let word := someWord free (descOff ((macroMet free k m chain).getD 0)) 64
  if (macroMet free k m chain).isSome && m.ecc == .uncorrectable then (d.memUe n word rdStrand f j, .next)
  else
    let d := if (macroMet free k m chain).isSome && m.ecc == .corrected then d.corrected n word else d
    match d.checkMacro n f ((d.tile n).copyMacro k f j m chain) with
    | some v => (d, .trap trDesc (BitVec.ofNat 64 v))
    | none =>
      if ((d.tile n).engine (engineOf k m.spec.toNat)).full (engineOf k m.spec.toNat) then
        enterWait d n f j .engine (.engine k m chain)
      else (d.enqueue n (engineOf k m.spec.toNat) ((d.tile n).copyMacro k f j m chain), .next)

/-- Its frond's class sees what it names, and the record that it closes lies in the window (R117, R118). -/
theorem MacroFits.seen (h : MacroFits d n f y k m chain) :
    ¬ (d.px64 n f && (newOnly k m.spec.toNat || (namedSlots m k chain).any fun u => 32 ≤ u)) = true ∧
    ¬ (decide (k = .vxClose) && decide (0x1800000 < m.spec.toNat % 2 ^ 19 * 64 + 64)) = true := by
  simp only [Bool.and_eq_true, Bool.or_eq_true, List.any_eq_true, decide_eq_true_eq, not_and, not_or, not_exists, not_le, not_lt]
  refine ⟨fun hp => ?_, h.close_⟩
  obtain ⟨hnew, hslots⟩ := h.cls hp
  exact ⟨Bool.eq_false_iff.1 hnew, hslots⟩

/-- A macroinstruction that raises no trap comes to its copy, unless the command's error is one of its chain words'. -/
theorem macroBody_fits (h : MacroFits d n f y k m chain) (hs : ((d.tile n).strand f j).stores = []) (hrun : d.stoppedF n f = false)
    (hecc : m.ecc = .ok ∨ (macroMet d.free k m chain).isSome = true) :
    macroBody k x m d n f j y = macroEntry k m chain d.free (if m.ecc = .ok then d else d.draw) n f j := by
  have hroom : ¬ 8191 < y.pc.toNat + chainLen k m := by have := h.room; omega
  have hnamed : List.map (fun u => u.1) (List.filter (fun u => u.2) (slotList m (slotsUsed k m.spec.toNat (chain.map cword)))) ++
      (recSlot k m.spec.toNat).toList = namedSlots m k chain := rfl
  have hat : Config.eccLine d.free % (min 1 (chainLen k m) + (namedSlots m k chain).length) = macroAt d.free k m chain := rfl
  have hchain (e : Ecc) (he : e ≠ .ok) : (!decide (min 1 (chainLen k m) ≤ macroAt d.free k m chain) && m.ecc == e) = false := by
    rcases hecc with hok | hmet
    · simp [hok, he.symm]
    · simp [macroAt_of_met hmet]
  have hs' : (((if m.ecc = Ecc.ok then d else d.draw).tile n).strand f j).stores = [] := by split <;> exact hs
  have hrun' : (if m.ecc = Ecc.ok then d else d.draw).stoppedF n f = false := by split <;> exact hrun
  have hslots : ((if m.ecc = Ecc.ok then d else d.draw).tile n).badSlots (namedSlots m k chain) = none := by split <;> exact h.slots
  unfold macroBody
  simp only [h.spec, h.words, h.isChain, h.good, h.unused, hroom, h.stores, Bool.and_false, Bool.false_eq_true, if_false]
  refine (if_neg h.seen.1).trans ((if_neg h.seen.2).trans ?_)
  simp only [hnamed, chainPlaces_eq, List.filter_nil, List.length_nil, Nat.add_zero, hat, inChain_eq, hchain .uncorrectable (by decide),
    hchain .corrected (by decide), Bool.false_eq_true, if_false, Dev.flushStores_nil hs', hrun', hslots]
  rw [macroMet_eq]
  rfl

/-- The device whose slots are copied: a corrected error in one is counted (R259). -/
def Dev.macroRead (d : Dev) (n : Nat) (k : MacroKind) (m : Mac) (chain : List Word) : Dev :=
  if m.ecc = .ok then d else d.draw.corrected n (someWord d.free (descOff ((macroMet d.free k m chain).getD 0)) 64)

section Entry
variable (hecc : m.ecc = .ok ∨ (m.ecc = .corrected ∧ (macroMet d.free k m chain).isSome = true))
  (hfit : (d.macroRead n k m chain).checkMacro n f (((d.macroRead n k m chain).tile n).copyMacro k f j m chain) = none)
include hecc hfit

/-- Without an uncorrectable error and with checks that pass, the room in the queue decides. -/
theorem macroEntry_fits : macroEntry k m chain d.free (if m.ecc = .ok then d else d.draw) n f j =
    if (((d.macroRead n k m chain).tile n).engine (engineOf k m.spec.toNat)).full (engineOf k m.spec.toNat) then
      enterWait (d.macroRead n k m chain) n f j .engine (.engine k m chain)
    else ((d.macroRead n k m chain).enqueue n (engineOf k m.spec.toNat)
      (((d.macroRead n k m chain).tile n).copyMacro k f j m chain), .next) := by
  have hread : (if (macroMet d.free k m chain).isSome && m.ecc == .corrected then
      (if m.ecc = .ok then d else d.draw).corrected n (someWord d.free (descOff ((macroMet d.free k m chain).getD 0)) 64)
      else if m.ecc = .ok then d else d.draw) = d.macroRead n k m chain := by
    rcases hecc with hok | ⟨hcor, hmet⟩
    · simp [Dev.macroRead, hok]
    · simp [Dev.macroRead, hcor, hmet]
  have hue : ¬ ((macroMet d.free k m chain).isSome && m.ecc == .uncorrectable) = true := by
    rcases hecc with hok | ⟨hcor, _⟩
    · simp [hok]
    · simp [hcor]
  simp only [macroEntry, hread, if_neg hue, hfit]

end Entry

/-! ### The issue of each -/

section Issue
variable {s : State} {i : Iss → Mac → Instr}

/-- A frond whose strand issues has not stopped. -/
theorem started_runs {srcs : List Nat} (h : Ready s x f srcs) : (s.started x f).stoppedF x.tile.val f = false := by
  obtain ⟨u, hu⟩ := (s.dev.noted x.tile.val x.strand.val).hold_tile x.tile.val f x.strand.val 2
  have hstopped : (s.started x f).stoppedF x.tile.val f = s.dev.stoppedF x.tile.val f := by
    simp only [Dev.stoppedF, State.started, hu, Dev.noted_tile_same]
    rfl
  have hrun : (!((s.dev.tile x.tile.val).frond f).stopped) = true := by
    have hissue := h.2.2.1
    simp only [Dev.canIssue, Bool.and_eq_true] at hissue
    tauto
  rw [hstopped]
  exact Bool.not_eq_true' _ ▸ hrun

/-- An issue that has left the device `d`: the program counter moves past the instruction and its chain words. -/
theorem macro_goes (hi : exec (i x m) s = macroRun k x m s) (h : Ready s x f [])
    (hroom : (strandOf s x f).pc.toNat + (1 + chainLen k m) ≤ 8191)
    (hb : macroBody k x m (s.started x f) x.tile.val f x.strand.val (strandOf s x f) = (d, .next)) :
    exec (i x m) s = .next { s with dev := d.modStrand x.tile.val f x.strand.val fun z =>
      { z with pc := BitVec.ofNat 13 ((strandOf s x f).pc.toNat + (1 + chainLen k m)) } } := by
  have hb' : slowly 2 (macroBody k x m) (s.dev.noted x.tile.val x.strand.val) x.tile.val f x.strand.val (strandOf s x f) = (d, .next) := hb
  rw [hi, macroRun, run_live _ _ h.1, issue_ready s x f [] _ _ h, hb']
  simp only [Dev.endIssue, Dev.stepPc, hroom, if_true]

/-- What O25 says of the macroinstruction `i`, of the kind `k`. -/
def MacroIssuesAs (i : Iss → Mac → Instr) (k : MacroKind) : Prop :=
  ∀ (s : State) (x : Iss) (m : Mac) (f : Nat) (chain : List Word), Ready s x f [] →
    let goes (d : Dev) : Prop := exec (i x m) s = .next { s with dev := d.modStrand x.tile.val f x.strand.val fun z =>
      { z with pc := BitVec.ofNat 13 ((strandOf s x f).pc.toNat + (1 + chainLen k m)) } }
    let d0 := s.started x f
    let d := d0.macroRead x.tile.val k m chain
    let mac := (d.tile x.tile.val).copyMacro k f x.strand.val m chain
    let eng := engineOf k m.spec.toNat
    MacroFits d0 x.tile.val f (strandOf s x f) k m chain →
    (m.ecc = .ok ∨ (m.ecc = .corrected ∧ (macroMet d0.free k m chain).isSome = true) → d.checkMacro x.tile.val f mac = none →
      (((d.tile x.tile.val).engine eng).full eng = false → goes (d.enqueue x.tile.val eng mac)) ∧
      (((d.tile x.tile.val).engine eng).full eng = true →
        goes (d.modStrand x.tile.val f x.strand.val fun z => z.waits d.tick .engine (.engine k m chain)))) ∧
    (m.ecc = .uncorrectable → (macroMet d0.free k m chain).isSome = true →
      goes (d0.draw.memUe x.tile.val (someWord d0.free (descOff ((macroMet d0.free k m chain).getD 0)) 64) rdStrand f x.strand.val))

/-- Each macroinstruction is one issue of the shared body. -/
theorem macroIssues_of (hi : ∀ x m s, exec (i x m) s = macroRun k x m s) : MacroIssuesAs i k := by
  intro s x m f chain h goes d0 d mac eng hfits
  obtain ⟨w, hw⟩ := started_strand (s := s) (x := x) (f := f) x.strand.val
  have hs : ((d0.tile x.tile.val).strand f x.strand.val).stores = [] := by
    show (((s.started x f).tile x.tile.val).strand f x.strand.val).stores = []
    rw [hw]
    exact hfits.stores
  have hbody (hecc : m.ecc = .ok ∨ (macroMet d0.free k m chain).isSome = true) :=
    macroBody_fits (x := x) hfits hs (started_runs h) hecc
  refine ⟨fun hecc hcheck => ⟨fun hfree => ?_, fun hfull => ?_⟩, fun hue hmet => ?_⟩
  · refine macro_goes (hi x m s) h hfits.room ((hbody (hecc.imp_right And.right)).trans ?_)
    exact (macroEntry_fits hecc hcheck).trans (if_neg (Bool.eq_false_iff.1 hfree))
  · refine macro_goes (hi x m s) h hfits.room ((hbody (hecc.imp_right And.right)).trans ?_)
    exact (macroEntry_fits hecc hcheck).trans (if_pos hfull)
  · refine macro_goes (hi x m s) h hfits.room ((hbody (.inr hmet)).trans ?_)
    have hdraw : (if m.ecc = .ok then d0 else d0.draw) = d0.draw := if_neg (by simp [hue])
    rw [hdraw]
    exact if_pos (by simp [hue, hmet])

end Issue

end Sys2Proof.Machine

open Sys2Proof Sys2Proof.Machine

/-- Settles O25: each of the nineteen is an issue of the shared body, which `macroIssues_of` follows. -/
theorem macroIssues : Obligations.MacroIssues := by
  show ∀ e : (Iss → Mac → Instr) × MacroKind, e ∈ _ → MacroIssuesAs e.1 e.2
  simp only [List.forall_mem_cons]
  refine ⟨?_, ?_, ?_, ?_, ?_, ?_, ?_, ?_, ?_, ?_, ?_, ?_, ?_, ?_, ?_, ?_, ?_, ?_, ?_, List.forall_mem_nil _⟩ <;>
    exact macroIssues_of fun _ _ _ => rfl
end

section
/-! PROOF. How an engine takes a macroinstruction and completes one (R107 to R109, R176, R222, R249, R251, R259), and the statement
about it. -/

namespace Sys2Proof.Machine

variable {s : State} {tile : TileId} {ecc : Ecc} {e : EngineId} {n : Nat}

/-! ### Taking the next (R107, R251) -/

/-- A corrected error is counted in the tile and in its registers, and takes no time (R259). -/
theorem Dev.corrected_tick (d : Dev) (n off : Nat) : (d.corrected n off).tick = d.tick := by
  unfold Dev.corrected
  by_cases h : winRegion off = .scratch
  · simp only [h, if_true]
    rfl
  · cases hw : winRegion off
    case scratch => exact absurd hw h
    all_goals rfl

/-- The device whose start words are read: a corrected error in one is counted (R259). -/
def Dev.startRead (d : Dev) (n : Nat) (m : Macro) (ecc : Ecc) : Dev :=
  if ecc = .corrected ∧ m.startReads ≠ [] then d.draw.corrected n (someRead d.free m.startReads) else d

theorem Dev.startRead_tick (d : Dev) (m : Macro) : (d.startRead n m ecc).tick = d.tick := by
  unfold Dev.startRead
  split
  · exact Dev.corrected_tick ..
  · rfl

theorem Dev.startRead_eq (d : Dev) (m : Macro) : (if ecc = .corrected then
      match m.startReads with
      | [] => d
      | a :: as => d.draw.corrected n (someRead d.free (a :: as))
    else d) = d.startRead n m ecc := by
  unfold Dev.startRead
  by_cases hc : ecc = .corrected
  · cases hr : m.startReads with
    | nil => simp
    | cons a as => simp [hc]
  · simp [hc]

/-- The walk as it begins, before the scale record is read. -/
def Tile.walkOf (t : Tile) (e : EngineId) (m : Macro) (tick : Nat) : Run :=
  { Run.init with
    macro_ := m, plan := if m.startReads.all (fun a => t.canAccess a.1 a.2) then t.planOf e m else []
    err := if m.startReads.all (fun a => t.canAccess a.1 a.2) then 0 else stUnmapped, started := tick
    starts := (m.produces ++ m.consumes).eraseDups.map fun h => (h, (t.bight m.frond h).fill, (t.bight m.frond h).drain) }

/-- The walk as it begins, with its scale record read where it has one (R176). -/
def Tile.runOf (t : Tile) (e : EngineId) (m : Macro) (tick : Nat) : Run :=
  match m.record? with
  | some p => t.recStart p (t.walkOf e m tick)
  | none => t.walkOf e m tick

/-- The device once the engine has taken the macroinstruction from the head of its queue (R107, R251). -/
def Tile.starts (t : Tile) (n : Nat) (e : EngineId) (m : Macro) (rest : List Macro) (d : Dev) : Dev :=
  d.modTile n fun u =>
    (u.setEngine e { queue := rest, run := (t.engine e).run ++ [t.runOf e m d.tick], nextId := (t.engine e).nextId }).claim e m

section Start
variable (hl : s.dev.live = true)
include hl

theorem exec_macroStart_empty (hq : ((s.dev.tile tile.val).engine e).queue = []) :
    exec (.macroStart ⟨tile, ecc⟩ e) s = .next { s with dev := s.dev } := by
  refine exec_next rfl hl ?_
  simp only [hq]

variable {m : Macro} {rest : List Macro} (hq : ((s.dev.tile tile.val).engine e).queue = m :: rest)
include hq

theorem exec_macroStart_waits (h : (s.dev.tile tile.val).held = true ∨ (s.dev.tile tile.val).clearing = true ∨
      ((s.dev.tile tile.val).engine e).free e m = false ∨ (s.dev.tile tile.val).claimed e m = true) :
    exec (.macroStart ⟨tile, ecc⟩ e) s = .next { s with dev := s.dev } := by
  refine exec_next rfl hl ?_
  simp only [hq]
  exact if_pos (by simpa [or_assoc] using h)

variable (hheld : (s.dev.tile tile.val).held = false) (hclear : (s.dev.tile tile.val).clearing = false)
  (hfree : ((s.dev.tile tile.val).engine e).free e m = true) (hclaimed : (s.dev.tile tile.val).claimed e m = false)
include hheld hclear hfree hclaimed

theorem exec_macroStart_error {w : Nat} (hw : (s.dev.tile tile.val).startError s.dev.free m ecc = some w) :
    exec (.macroStart ⟨tile, ecc⟩ e) s = .next { s with dev := s.dev.draw.memUe tile.val w (readerOf e) m.frond m.strand } := by
  refine exec_next rfl hl ?_
  simp only [hq, hheld, hclear, hfree, hclaimed, hw]
  rfl

theorem exec_macroStart_begins (hw : (s.dev.tile tile.val).startError s.dev.free m ecc = none) :
    exec (.macroStart ⟨tile, ecc⟩ e) s = .next { s with dev := (s.dev.startRead tile.val m ecc).modTile tile.val fun t =>
      (t.setEngine e { queue := rest, run := ((s.dev.tile tile.val).engine e).run ++ [(s.dev.tile tile.val).runOf e m s.dev.tick]
                       nextId := ((s.dev.tile tile.val).engine e).nextId }).claim e m } := by
  refine exec_next rfl hl ?_
  simp only [hq, hheld, hclear, hfree, hclaimed, hw]
  refine (if_neg (by simp)).trans ?_
  refine (congrArg ((s.dev.tile tile.val).starts tile.val e m rest) (Dev.startRead_eq (ecc := ecc) s.dev m)).trans ?_
  rw [Tile.starts, Dev.startRead_tick]

end Start

/-! ### Completing the first (R108, R109) -/

/-- A tile's engine is what it was set to. -/
theorem Tile.engine_setEngine (t : Tile) (e : EngineId) (x : Engine) : (t.setEngine e x).engine e = x := by
  cases e <;> rfl

/-- A change of a bight leaves the engines. -/
theorem Tile.engine_foldl {α : Type} (g : Tile → α → Tile) (hg : ∀ t a, (g t a).engine e = t.engine e) (l : List α) (t : Tile) :
    (l.foldl g t).engine e = t.engine e := by
  induction l generalizing t with
  | nil => rfl
  | cons a l ih => rw [List.foldl_cons, ih, hg]

theorem Tile.engine_modBight (t : Tile) (f h : Nat) (g : Bight → Bight) : (t.modBight f h g).engine e = t.engine e := by
  cases e <;> rfl

/-- Filling and draining the last lines leaves the engines. -/
theorem Tile.engine_lastLines (t : Tile) (r : Run) : (t.lastLines r).engine e = t.engine e := by
  unfold Tile.lastLines
  rw [Tile.engine_foldl, Tile.engine_foldl]
  · intro t a
    dsimp only
    split
    · exact Tile.engine_modBight ..
    · rfl
  · intro t a
    dsimp only
    split
    · exact Tile.engine_modBight ..
    · rfl

/-- The tile as the only macroinstruction of its engine `x` leaves it, before its claims go (R249). -/
def Tile.emptied (t : Tile) (e : EngineId) (x : Engine) (r : Run) : Tile :=
  (if r.err = 0 then t.lastLines r else t).setEngine e { x with run := [] }

/-- When the matrix engine was last seen at rest. -/
def Tile.restedAt (t : Tile) (tick : Nat) : Tile := if t.mx.busy then t else { t with mxIdle := tick }

theorem Tile.engine_restedAt (t : Tile) (tick : Nat) : (t.restedAt tick).engine e = t.engine e := by
  unfold Tile.restedAt
  split
  · rfl
  · cases e <;> rfl

/-- What ends with a macroinstruction that has no record, besides its engine's place in the tile (R108, R109). -/
def Dev.counted (d : Dev) (n : Nat) (e : EngineId) (r : Run) : Dev :=
  (((d.lastErr n e r.err).modStrand n r.macro_.frond r.macro_.strand fun y =>
    y.modK r.macro_.k fun c => { cnt := c.cnt - 1, err := if c.err = 0 then r.err else c.err }).wakeStrand n r.macro_.frond
      r.macro_.strand).admitWaiter n e

/-- The only macroinstruction of an engine completes, without a record. -/
theorem Dev.complete_only (d : Dev) (r : Run) (hrec : r.macro_.record? = none) (hrun : ((d.tile n).engine e).run = [r]) :
    d.complete n e r =
      (d.modTile n fun t => ((t.emptied e ((d.tile n).engine e) r).restedAt d.tick).release e r.macro_.frond).counted n e r := by
  unfold Dev.complete
  simp only [hrec]
  refine congrArg (fun a : Dev => a.counted n e r) (Dev.modTile_congr _ _ _ _ ?_)
  have hengine : (if r.err = 0 then (d.tile n).lastLines r else d.tile n).engine e = (d.tile n).engine e := by
    split
    · exact Tile.engine_lastLines ..
    · rfl
  rw [hengine, hrun]
  have hempty : ((((d.tile n).emptied e ((d.tile n).engine e) r).restedAt d.tick).engine e).run.isEmpty = true := by
    rw [Tile.engine_restedAt, Tile.emptied, Tile.engine_setEngine]
    rfl
  exact if_pos hempty

section Complete
variable (hl : s.dev.live = true)
include hl

theorem exec_macroComplete_idle (hr : ((s.dev.tile tile.val).engine e).run = []) :
    exec (.macroComplete ⟨tile, ecc⟩ e) s = .next { s with dev := s.dev } := by
  refine exec_next rfl hl ?_
  simp only [hr]

variable {r : Run} {more : List Run} (hr : ((s.dev.tile tile.val).engine e).run = r :: more)
include hr

theorem exec_macroComplete_runs (h : r.plan ≠ [] ∨ r.flight ≠ []) :
    exec (.macroComplete ⟨tile, ecc⟩ e) s = .next { s with dev := s.dev } := by
  refine exec_next rfl hl ?_
  simp only [hr]
  exact if_neg (by simpa [← or_iff_not_imp_left, imp_iff_not_or] using h)

variable (hplan : r.plan = []) (hflight : r.flight = [])
include hplan hflight

theorem exec_macroComplete_plain (hrec : r.macro_.record? = none) :
    exec (.macroComplete ⟨tile, ecc⟩ e) s = .next { s with dev := s.dev.complete tile.val e r } := by
  refine exec_next rfl hl ?_
  simp only [hr, hplan, hflight, hrec]
  rfl

variable {p : Nat} (hrec : r.macro_.record? = some p)
include hrec

theorem exec_macroComplete_error {w : Nat} (hw : (s.dev.tile tile.val).endError s.dev.free p ecc = some w) :
    exec (.macroComplete ⟨tile, ecc⟩ e) s =
      .next { s with dev := s.dev.draw.memUe tile.val w (readerOf e) r.macro_.frond r.macro_.strand } := by
  refine exec_next rfl hl ?_
  simp only [hr, hplan, hflight, hrec, hw]
  rfl

theorem exec_macroComplete_record (hw : (s.dev.tile tile.val).endError s.dev.free p ecc = none) :
    exec (.macroComplete ⟨tile, ecc⟩ e) s = .next { s with dev :=
      (if ecc = .corrected then s.dev.draw.corrected tile.val (someRead s.dev.free (recMerged p)) else s.dev).complete tile.val e r } := by
  refine exec_next rfl hl ?_
  simp only [hr, hplan, hflight, hrec, hw]
  rfl

end Complete

end Sys2Proof.Machine

open Sys2Proof Sys2Proof.Machine

/-- Settles O26: what an engine takes by its queue's head, what it completes by the first of what it runs. -/
theorem macroRuns : Obligations.MacroRuns := by
  intro s tile ecc e hl n t x starts completes
  refine ⟨exec_macroStart_empty hl, fun m rest hq => ⟨exec_macroStart_waits hl hq, fun hheld hclear hfree hclaimed => ⟨fun w hw => ?_,
    fun hw => ?_⟩⟩, exec_macroComplete_idle hl, fun r more hr => ⟨exec_macroComplete_runs hl hr, fun hplan hflight => ⟨?_, ?_, ?_⟩⟩⟩
  · exact exec_macroStart_error hl hq hheld hclear hfree hclaimed hw
  · intro d ok sides r0 r
    have hrun : t.runOf e m s.dev.tick = r := by
      unfold Tile.runOf
      show _ = match m.record? with | none => r0 | some p => _
      cases m.record? <;> rfl
    refine (exec_macroStart_begins hl hq hheld hclear hfree hclaimed hw).trans ?_
    rw [hrun]
    rfl
  · exact exec_macroComplete_plain hl hr hplan hflight
  · intro hrec hmore left idle d d'
    refine (exec_macroComplete_plain hl hr hplan hflight hrec).trans ?_
    rw [Dev.complete_only s.dev r hrec (hmore ▸ hr)]
    rfl
  · exact fun p hrec => ⟨fun w hw => exec_macroComplete_error hl hr hplan hflight hrec hw,
      exec_macroComplete_record hl hr hplan hflight hrec⟩
end

section
/-! PROOF. The steps of the engines' walks (R126 to R256) and what stops one (R109, R239, R249 to R252), and the statement about them. -/

namespace Sys2Proof.Machine

variable {s : State} {d : Dev} {n : Nat} {ecc : Ecc} {r : Run} {i : Nat}

/-! ### The matrix engine's steps -/

/-- What a unit of the matrix engine does next. -/
theorem Dev.mxNext_eq {mi : Micro} {u : Nat} (hh : (d.tile n).head .mx = some r) (hn : r.nextOf u = some (i, mi)) (ok : Micro → Bool) :
    d.mxNext n u ok = if ok mi && (u != 0 || d.arrayCycle) then some (r, mi, r.accessMx (d.tile n) i mi) else none := by
  simp only [Dev.mxNext, hh, hn]

section Matrix
variable (hh : (d.tile n).head .mx = some r)
include hh

section Array
variable (hc : d.arrayCycle = true)
include hc

theorem Dev.mxLoad_load {second : Bool} {b kc at_ tn nb ln pos : Nat}
    (hn : r.nextOf 0 = some (i, .load second b kc at_ tn nb ln pos)) :
    d.mxLoad n ecc = d.engineStep n .mx r (r.accessMx (d.tile n) i (.load second b kc at_ tn nb ln pos)) ecc fun d r =>
      let k := if ln = 0 then (d.tile n).loadTime (r.macro_.prod second b kc at_ tn nb) else 0
      ((d.add (TILE_MX_LOAD_V n) k).add (TILE_MX_ARRAY_V n) k, (d.tile n).loadLine r second b kc at_ tn nb ln) := by
  rw [Dev.mxLoad, Dev.mxNext_eq hh hn, hc]
  rfl

theorem Dev.mxLoad_begin {b tm : Nat} (hn : r.nextOf 0 = some (i, .begin_ b tm)) :
    d.mxLoad n ecc = d.engineStep n .mx r (r.accessMx (d.tile n) i (.begin_ b tm)) ecc fun d r =>
      (d, (d.tile n).attBegin r b tm) := by
  rw [Dev.mxLoad, Dev.mxNext_eq hh hn, hc]
  rfl

theorem Dev.mxStream_stream {second : Bool} {b kc at_ tm tn nb row pos : Nat}
    (hn : r.nextOf 0 = some (i, .stream second b kc at_ tm tn nb row pos)) :
    d.mxStream n ecc = d.engineStep n .mx r (r.accessMx (d.tile n) i (.stream second b kc at_ tm tn nb row pos)) ecc fun d r =>
      (((d.modTile n fun t => t.streamRow r second b kc at_ tm tn nb row pos).countMacs n
        (r.macro_.prod second b kc at_ tn nb)).add (TILE_MX_ARRAY_V n) 1, r) := by
  rw [Dev.mxStream, Dev.mxNext_eq hh hn, hc]
  rfl

theorem Dev.mxStream_fill {b kc grp ln pos : Nat} (hn : r.nextOf 0 = some (i, .fill b kc grp ln pos)) :
    d.mxStream n ecc = d.engineStep n .mx r (r.accessMx (d.tile n) i (.fill b kc grp ln pos)) ecc fun d r =>
      (d, (d.tile n).fillLine r b kc grp ln) := by
  rw [Dev.mxStream, Dev.mxNext_eq hh hn, hc]
  rfl

end Array

theorem Dev.mxWriteOut_out {b tm tn pos row : Nat} (hn : r.nextOf 2 = some (i, .out b tm tn pos row)) :
    d.mxWriteOut n ecc = d.engineStep n .mx r (r.accessMx (d.tile n) i (.out b tm tn pos row)) ecc fun d r =>
      (d.modTile n fun t => t.writeRow r b tm tn pos row, { r with bufs := [] }) := by
  rw [Dev.mxWriteOut, Dev.mxNext_eq hh hn]
  rfl

theorem Dev.mxWriteOut_zero {b row : Nat} (hn : r.nextOf 2 = some (i, .zero b row)) :
    d.mxWriteOut n ecc = d.engineStep n .mx r (r.accessMx (d.tile n) i (.zero b row)) ecc fun d r =>
      (d.modTile n fun t => (r.macro_.da.segs row b 0 r.macro_.da.across).foldl (fun t x => t.winWrite x.at_.toNat (zeros x.len)) t, r) := by
  rw [Dev.mxWriteOut, Dev.mxNext_eq hh hn]
  rfl

theorem Dev.mxFunc_final {b tm row : Nat} (hn : r.nextOf 1 = some (i, .final b tm row)) :
    d.mxFunc n ecc = d.engineStep n .mx r (r.accessMx (d.tile n) i (.final b tm row)) ecc fun d' r' =>
      ((d'.modTile n fun _ => (d'.tile n).attFinal r' b tm row).add (TILE_MX_FUNC_V n) (ceilDiv r.macro_.dc.across 128), r') := by
  rw [Dev.mxFunc, Dev.mxNext_eq hh hn]
  rfl

theorem Dev.mxFunc_func {b tm at_ row pos : Nat} (hn : r.nextOf 1 = some (i, .func b tm at_ row pos)) (hk : r.macro_.kind ≠ .mmAtt) :
    d.mxFunc n ecc = d.engineStep n .mx r (r.accessMx (d.tile n) i (.func b tm at_ row pos)) ecc fun d' r' =>
      ((d'.modTile n fun _ => ((d'.tile n).funcRow r' b tm at_ row pos).1).add (TILE_MX_FUNC_V n)
        (rfPasses r.macro_.rf * ceilDiv (r.macro_.aWidth at_) 128), ((d'.tile n).funcRow r' b tm at_ row pos).2) := by
  rw [Dev.mxFunc, Dev.mxNext_eq hh hn]
  exact if_neg hk

theorem Dev.mxFunc_att {b tm at_ row pos : Nat} (hn : r.nextOf 1 = some (i, .func b tm at_ row pos)) (hk : r.macro_.kind = .mmAtt) :
    d.mxFunc n ecc = d.engineStep n .mx r (r.accessMx (d.tile n) i (.func b tm at_ row pos)) ecc fun d' r' =>
      ((d'.modTile n fun _ => ((d'.tile n).attRow r' b tm at_ row pos).1).add (TILE_MX_FUNC_V n)
        (2 * ceilDiv r.macro_.db.tm 128), ((d'.tile n).attRow r' b tm at_ row pos).2) := by
  rw [Dev.mxFunc, Dev.mxNext_eq hh hn]
  exact if_pos hk

/-- A splice line goes with credit in hand and nobody waiting before it (R147, R276). -/
theorem Dev.mxSplice_sends {b tm tn pos row j : Nat} {vs : List Nat} (hn : r.nextOf 2 = some (i, .splice b tm tn pos row j))
    (hv : (d.tile n).spliceLine r.macro_ b tm tn pos row j = some vs)
    (hopen : ((d.tile n).route r.macro_.frond r.macro_.routeEntry).st = .open_)
    (hcredit : 0 < ((d.tile n).route r.macro_.frond r.macro_.routeEntry).credit)
    (hwait : ((d.tile n).route r.macro_.frond r.macro_.routeEntry).waiters = []) :
    d.mxSplice n ecc = d.engineStep n .mx r (r.accessMx (d.tile n) i (.splice b tm tn pos row j)) ecc fun d' r' =>
      (((d'.modRoute n r.macro_.frond r.macro_.routeEntry fun x => { x with waiters := x.waiters.filter (· != .engine) }).sendContrib
        n r.macro_.frond r.macro_.routeEntry vs r.macro_.strand).serveWaiters n r.macro_.frond r.macro_.routeEntry 9, r') := by
  have hne : ((d.tile n).route r.macro_.frond r.macro_.routeEntry).credit ≠ 0 := by omega
  have hunit : (true && (2 != 0 || d.arrayCycle)) = true := rfl
  rw [Dev.mxSplice, Dev.mxNext_eq hh hn]
  simp only [hunit, if_true, hv, hopen, hwait, hne, ne_eq, not_true_eq_false, if_false, decide_false, Bool.or_false, Bool.false_eq_true]

end Matrix

/-! ### The vector engine's steps and the fill/copy unit's -/

section Vector
variable (hh : (d.tile n).head .vx = some r) {rest : List Micro}
include hh

theorem Dev.vxBeat_beat {i3 i2 i1 bt : Nat} {last : Bool} (hp : r.plan = .beat i3 i2 i1 bt last :: rest) :
    d.vxBeat n ecc = d.engineStep n .vx r (r.accessVx (.beat i3 i2 i1 bt last)) ecc fun d' r' =>
      ((((d'.modTile n fun _ => ((d'.tile n).beat r' i3 i2 i1 bt last).1).add (TILE_VX_BEATS_V n) 1).add
        (TILE_VX_SPECIAL_V n) (r.macro_.beatLanes bt * (r.macro_.words.filter fun w => fnSpecial w.fn).length)).add
        (TILE_VX_LANEOPS_V n) (r.macro_.beatLanes bt * r.macro_.words.length), ((d'.tile n).beat r' i3 i2 i1 bt last).2) := by
  simp only [Dev.vxBeat, hh, hp]

theorem Dev.vxBeat_opt {i3 i2 i1 bt : Nat} (hp : r.plan = .opt i3 i2 i1 bt :: rest) :
    d.vxBeat n ecc = d.engineStep n .vx r (r.accessVx (.opt i3 i2 i1 bt)) ecc fun d' r' =>
      let k := min 128 (r.macro_.da.ext0 - bt * 128)
      ((((d'.modTile n fun t => t.optBeat r' i3 i2 i1 bt).add (TILE_VX_BEATS_V n) 1).add
        (TILE_VX_SPECIAL_V n) (if r.macro_.adam then 2 * k else 0)).add (TILE_VX_LANEOPS_V n) (k * if r.macro_.adam then 7 else 4),
        r') := by
  simp only [Dev.vxBeat, hh, hp]

theorem Dev.vxBeat_close (hp : r.plan = .close :: rest) :
    d.vxBeat n ecc = d.engineStep n .vx r (r.accessVx .close) ecc fun d' r' =>
      (d'.modTile n fun t => t.winWrite (r.macro_.spec % 2 ^ 19 * 64) (closePass (t.winRead (r.macro_.spec % 2 ^ 19 * 64) 64)), r') := by
  simp only [Dev.vxBeat, hh, hp]

end Vector

section Fill
variable (hh : (d.tile n).head .fc = some r) {rest : List Micro}
include hh

theorem Dev.fcStep_copyRow {i3 i2 i1 c len : Nat} (hp : r.plan = .copyRow i3 i2 i1 c len :: rest) :
    d.fcStep n ecc = d.engineStep n .fc r (r.accessFc (.copyRow i3 i2 i1 c len)) ecc fun d' r' =>
      (d'.modTile n fun _ => ((d'.tile n).fcRow r' i3 i2 i1 c len true).1, ((d'.tile n).fcRow r' i3 i2 i1 c len true).2) := by
  simp only [Dev.fcStep, hh, hp]

theorem Dev.fcStep_fillRow {i3 i2 i1 c len : Nat} (hp : r.plan = .fillRow i3 i2 i1 c len :: rest) :
    d.fcStep n ecc = d.engineStep n .fc r (r.accessFc (.fillRow i3 i2 i1 c len)) ecc fun d' r' =>
      (d'.modTile n fun _ => ((d'.tile n).fcRow r' i3 i2 i1 c len false).1, ((d'.tile n).fcRow r' i3 i2 i1 c len false).2) := by
  simp only [Dev.fcStep, hh, hp]

theorem Dev.fcStep_bightOp (hp : r.plan = .bightOp :: rest) :
    d.fcStep n ecc = match ((d.tile n).bight r.macro_.frond (bits r.macro_.spec 19 16)).strandOp r.macro_.kind (r.macro_.spec % 2 ^ 16) with
      | none => d.endEarly n .fc r 0 0x0B
      | some x => d.modTile n fun t => (t.modBight r.macro_.frond (bits r.macro_.spec 19 16) fun _ => x).setHead .fc { r with plan := [] } := by
  simp only [Dev.fcStep, hh, hp]
  rfl

end Fill

/-! ### A read that cannot be made (R109, R239, R249 to R252) -/

/-- A pass ends at a piece that cannot be read, where no line buffer holds its line. -/
theorem Pass.reads_stop {e : EngineId} {free j : Nat} {restRd restWr : List Rng} {x : Rng} {xs : List (Nat × Rng)} {a : Pass}
    {st : StepStop} (hb : a.r.bufs = []) (h : a.t.readStop e a.r x = some st) :
    Pass.reads e free restRd restWr ((j, x) :: xs) a = { a with stop := some st } := by
  simp only [Pass.reads, hb, List.any_nil, Bool.and_false, Bool.false_and, Bool.false_eq_true, if_false, h]

/-- The bytes of a pass that did nothing are the tile's own. -/
theorem Dev.keepPass_self (d : Dev) : d.keepPass n (d.tile n) = d.modTile n fun t => t := by
  unfold Dev.keepPass
  exact Dev.modTile_congr _ _ _ _ rfl

/-- The device once it is known which line meets the command's error (R259). -/
def Dev.drawn (d : Dev) (ecc : Ecc) : Dev := if ecc = .ok then d else d.draw

theorem Dev.drawn_tile (d : Dev) (ecc : Ecc) : (d.drawn ecc).tile n = d.tile n := by
  unfold Dev.drawn
  split <;> rfl

/-- A step whose first read cannot be made: one that has to wait is not made at all, and any other stop takes effect. -/
theorem Dev.engineStep_stops {e : EngineId} {a : Access} {j : Nat} {x : Rng} {xs : List (Nat × Rng)} {st : StepStop}
    (eff : Dev → Run → Dev × Run) (hprogs : r.progs = []) (hb : r.bufs = []) (hpieces : a.pieces = (j, x) :: xs)
    (h : (d.tile n).readStop e r x = some st) :
    d.engineStep n e r a ecc eff = if st = .wait then d.drawn ecc
      else ((d.drawn ecc).modTile n fun t => t).stepStopped n e r a Prog.init st := by
  have hp0 : mget r.progs Prog.init a.unit = Prog.init := by
    rw [hprogs]
    rfl
  have hkeep : ((d.drawn ecc).keepPass n (d.tile n)) = (d.drawn ecc).modTile n fun t => t := by
    rw [← Dev.keepPass_self, Dev.drawn_tile]
  have hlines (u : Dev) : (u.fcLines n e 0).passCorrected n none = u := by simp [Dev.fcLines, Dev.passCorrected]
  unfold Dev.engineStep
  extract_lets t p0 left wr out some_ free d0 start made
  have hinit : p0 = Prog.init := hp0
  have hleft : left = (j, x) :: xs := by
    show a.pieces.drop p0.read = _
    rw [hinit]
    exact hpieces
  have hmade : made = { start with stop := some st } := by
    have hdue : ¬ p0.due.isSome = true := by
      rw [hinit]
      decide
    refine (if_neg hdue).trans ?_
    rw [hleft]
    exact Pass.reads_stop hb h
  have hstop : made.stop = some st := congrArg Pass.stop hmade
  have hp : made.p = p0 := congrArg Pass.p hmade
  have ht : made.t = d.tile n := congrArg Pass.t hmade
  have hr : made.r = r := congrArg Pass.r hmade
  have hnone : made.made = 0 ∧ made.ce = none := ⟨congrArg Pass.made hmade, congrArg Pass.ce hmade⟩
  rw [hstop]
  show (if st = .wait ∧ made.p = p0 then d0
    else (((d0.keepPass n made.t).fcLines n e made.made).passCorrected n made.ce).stepStopped n e made.r a made.p st) = _
  rw [hp, ht, hr, hnone.1, hnone.2, hlines, hinit]
  by_cases hw : st = .wait
  · rw [if_pos ⟨hw, rfl⟩, if_pos hw]
    rfl
  · rw [if_neg (fun hand => hw hand.1), if_neg hw]
    exact congrArg (fun u : Dev => u.stepStopped n e r a Prog.init st) hkeep

/-- A walk as it ends early, with nothing of it begun (R109). -/
def Run.stopped (r : Run) (st : Byte) : Run := { r with plan := [], progs := [], err := if r.err = 0 then st else r.err }

/-- A walk that ends early at its first step, with nothing read yet. -/
theorem Dev.endEarly_first {e : EngineId} (d : Dev) (st : Byte) (hprogs : r.progs = []) :
    d.endEarly n e r 0 st = d.modTile n fun t => t.setHead e (r.stopped st) := by
  have hbegun (u : Nat) : (if u == 2 then [] else (r.plan.take 0).filter fun x => x.unit == 2) = [] := ite_self _
  simp only [Dev.endEarly, hbegun, hprogs]
  rfl

/-- Only the first line of a copied row is asked for. -/
theorem Run.accessFc_pieces (r : Run) (mi : Micro) :
    (r.accessFc mi).pieces = ((r.macro_.rdFc mi).flatMap Rng.lines).map fun x => (1, x) := by
  simp [Access.pieces, Run.accessFc, List.range_one]

section Stops
variable {i3 i2 i1 c len : Nat} {rest : List Micro} {x : Rng} {xs : List Rng} {st : StepStop}
  (hh : (d.tile n).head .fc = some r) (hp : r.plan = .copyRow i3 i2 i1 c len :: rest) (hprogs : r.progs = []) (hb : r.bufs = [])
  (hx : (r.macro_.rdFc (.copyRow i3 i2 i1 c len)).flatMap Rng.lines = x :: xs) (h : (d.tile n).readStop .fc r x = some st)
include hh hp hprogs hb hx h

/-- A copied row whose first line cannot be read. -/
theorem Dev.fcStep_stops : d.fcStep n ecc = if st = .wait then d.drawn ecc
    else ((d.drawn ecc).modTile n fun t => t).stepStopped n .fc r (r.accessFc (.copyRow i3 i2 i1 c len)) Prog.init st := by
  rw [Dev.fcStep_copyRow hh hp]
  refine Dev.engineStep_stops _ hprogs hb (j := 1) (xs := xs.map fun x => (1, x)) ?_ h
  rw [Run.accessFc_pieces, hx]
  rfl

end Stops

/-- A tile changed twice in a row, as the second leaves it. -/
theorem Dev.modTile_drawn (g : Tile → Tile) :
    ((d.drawn ecc).modTile n fun t => t).modTile n g = (d.drawn ecc).modTile n fun _ => g (d.tile n) := by
  rw [Dev.modTile_modTile]
  refine Dev.modTile_congr _ _ _ _ ?_
  rw [Dev.drawn_tile]

/-- A stop that ends the walk early with a status. -/
theorem Dev.drawn_endEarly {e : EngineId} (st : Byte) (hprogs : r.progs = []) :
    ((d.drawn ecc).modTile n fun t => t).endEarly n e r 0 st =
      (d.drawn ecc).modTile n fun _ => (d.tile n).setHead e (r.stopped st) := by
  rw [Dev.endEarly_first _ _ hprogs, Dev.modTile_drawn]

/-- The same where a broken claim is given up first (R252). -/
theorem Dev.drawn_broken {e : EngineId} (f h : Nat) (st : Byte) (hprogs : r.progs = []) :
    (((d.drawn ecc).modTile n fun t => t).modTile n fun t => t.dropClaim e f h).endEarly n e r 0 st =
      (d.drawn ecc).modTile n fun _ => ((d.tile n).dropClaim e f h).setHead e (r.stopped st) := by
  rw [Dev.endEarly_first _ _ hprogs, Dev.modTile_modTile, Dev.modTile_drawn]

/-! ### The commands -/

section Commands
variable {tile : TileId} (hl : s.dev.live = true)
include hl

/-- Each port of the vector engine makes its next beat. -/
theorem exec_vectorPorts : ∀ p ∈ [SpPort.vxI0a, .vxI0b, .vxI1a, .vxI1b, .vxOa, .vxOb],
    exec (.engineLineAccess tile p ecc) s = .next (s.metered (s.dev.vxBeat tile.val ecc)) := by
  simp only [List.forall_mem_cons]
  exact ⟨exec_nextM rfl hl rfl, exec_nextM rfl hl rfl, exec_nextM rfl hl rfl, exec_nextM rfl hl rfl, exec_nextM rfl hl rfl,
    exec_nextM rfl hl rfl, List.forall_mem_nil _⟩

theorem exec_fillPort : exec (.engineLineAccess tile .fill ecc) s = .next (s.metered (s.dev.fcStep tile.val ecc)) :=
  exec_nextM rfl hl rfl

theorem exec_loadPort : exec (.engineLineAccess tile .mxW ecc) s = .next (s.metered (s.dev.mxLoad tile.val ecc)) :=
  exec_nextM rfl hl rfl

theorem exec_streamPort : exec (.engineLineAccess tile .mxA ecc) s = .next (s.metered (s.dev.mxStream tile.val ecc)) :=
  exec_nextM rfl hl rfl

theorem exec_mxWriteOut : exec (.mxWriteOut ⟨tile, ecc⟩) s = .next (s.metered (s.dev.mxWriteOut tile.val ecc)) :=
  exec_nextM rfl hl rfl

theorem exec_functionPass : exec (.functionPass tile ecc) s = .next (s.metered (s.dev.mxFunc tile.val ecc)) :=
  exec_nextM rfl hl rfl

theorem exec_spliceSend : exec (.spliceContributionSend ⟨tile, ecc⟩) s = .next (s.metered (s.dev.mxSplice tile.val ecc)) :=
  exec_nextM rfl hl rfl

end Commands

/-- A command's outcome by what its step makes of the device. -/
theorem metered_of_step {c : Instr} {u v : Dev} (h : exec c s = .next (s.metered u)) (e : u = v) : exec c s = .next (s.metered v) := e ▸ h

end Sys2Proof.Machine

open Sys2Proof Sys2Proof.Machine

/-- Settles O27: each step by the one that stands next for its unit, each stop by the first line that cannot be read. -/
theorem engineStepsAndStops : Obligations.EngineStepsAndStops := by
  refine ⟨fun s tile ecc r mi i hl => ⟨fun hh hn => ⟨?_, ?_, ?_, ?_, ?_, ?_, ?_, ?_, ?_, ?_⟩, fun rest hh hp p hport => ⟨?_, ?_, ?_⟩,
    fun rest hh hp i3 i2 i1 c len => ⟨?_, ?_, ?_⟩⟩, fun s tile ecc r i3 i2 i1 c len h rest x xs hl => ?_⟩
  · rintro second b kc at_ tn nb ln pos rfl hc
    exact metered_of_step (exec_loadPort hl) (Dev.mxLoad_load hh hc hn)
  · rintro second b kc at_ tm tn nb row pos rfl hc
    exact metered_of_step (exec_streamPort hl) (Dev.mxStream_stream hh hc hn)
  · rintro b kc grp ln pos rfl hc
    exact metered_of_step (exec_streamPort hl) (Dev.mxStream_fill hh hc hn)
  · rintro b tm rfl hc
    exact metered_of_step (exec_loadPort hl) (Dev.mxLoad_begin hh hc hn)
  · rintro b row rfl
    exact metered_of_step (exec_mxWriteOut hl) (Dev.mxWriteOut_zero hh hn)
  · rintro b tm row rfl
    exact metered_of_step (exec_functionPass hl) (Dev.mxFunc_final hh hn)
  · rintro b tm tn pos row rfl
    exact metered_of_step (exec_mxWriteOut hl) (Dev.mxWriteOut_out hh hn)
  · rintro b tm at_ row pos rfl hk
    exact metered_of_step (exec_functionPass hl) (Dev.mxFunc_func hh hn hk)
  · rintro b tm at_ row pos rfl hk
    exact metered_of_step (exec_functionPass hl) (Dev.mxFunc_att hh hn hk)
  · rintro b tm tn pos row j vs rfl hv rt hopen hcredit hwait
    exact metered_of_step (exec_spliceSend hl) (Dev.mxSplice_sends hh hn hv hopen hcredit hwait)
  · rintro i3 i2 i1 bt last rfl
    exact metered_of_step (exec_vectorPorts hl p hport) (Dev.vxBeat_beat hh hp)
  · rintro i3 i2 i1 bt rfl
    exact metered_of_step (exec_vectorPorts hl p hport) (Dev.vxBeat_opt hh hp)
  · rintro rfl
    exact metered_of_step (exec_vectorPorts hl p hport) (Dev.vxBeat_close hh hp)
  · rintro rfl
    exact metered_of_step (exec_fillPort hl) (Dev.fcStep_copyRow hh hp)
  · rintro rfl
    exact metered_of_step (exec_fillPort hl) (Dev.fcStep_fillRow hh hp)
  · rintro rfl
    exact metered_of_step (exec_fillPort hl) (Dev.fcStep_bightOp hh hp)
  · intro n t mi d early hh hp hprogs hb hx stop becomes
    refine ⟨fun hs => ?_, fun hs => ?_, fun hs => ?_, fun hs => ?_⟩ <;>
      refine metered_of_step (exec_fillPort hl) ((Dev.fcStep_stops hh hp hprogs hb hx hs).trans ?_)
    · exact if_pos rfl
    · exact (if_neg (by decide)).trans (Dev.drawn_endEarly stUnmapped hprogs)
    · exact (if_neg (by decide)).trans (Dev.drawn_endEarly stBight hprogs)
    · exact (if_neg (by simp)).trans (Dev.drawn_broken r.macro_.frond h stBight hprogs)
end

section
/-! PROOF. What a row copy, a lane repair and the check of an idle array make of the device (R150, R376, R398, R502, R506, R511, R512,
R547), and the statement about them. -/

namespace Sys2Proof.Machine

variable {s : State} (d : Dev)

/-! ### Row copies (R376, R398, R516) -/

/-- A row's copy is over: the row stands in a buffer of its unit, and is neither copied nor given slots any more. -/
def Dev.rowBuffered (u row : Nat) : Dev :=
  { d with mem := { d.mem with
    rowCopy := d.mem.rowCopy.filter (· != (u, row)), rowGiven := d.mem.rowGiven.filter (· != (u, row))
    rowBufs := d.mem.rowBufs ++ [(u, row)] } }

/-- The row buffers of a unit in use. -/
def Dev.rowsUsed (u : Nat) : Nat := (d.mem.rowBufs.filter (·.1 == u)).length

/-- The unit's status shows its buffers, and a SPARE record says what room it has left (R502). -/
def Dev.rowShown (u : Nat) : Dev :=
  (d.set (rowField u) (d.rowsUsed u)).spared 6 none (if u < 12 then 9 else 10) (zeros 11 ++ leBytes 1 (rowRoom u - d.rowsUsed u))
    (d.rowsUsed u == rowRoom u && d.rises 1)

section Rows
variable {unit : Fin 20} {row : Nat} (hl : s.dev.live = true)
include hl

/-- A row that is not being copied, or has had no slot, stays where it is. -/
theorem exec_rowCopy_kept (h : (unit.val, row) ∉ s.dev.mem.rowCopy ∨ (unit.val, row) ∉ s.dev.mem.rowGiven) :
    exec (.rowCopy unit row) s = .next (s.metered s.dev) :=
  exec_nextM rfl hl (if_pos (by simpa [← not_and_or] using h))

variable (hc : (unit.val, row) ∈ s.dev.mem.rowCopy) (hg : (unit.val, row) ∈ s.dev.mem.rowGiven)
include hc hg

/-- A row with its slot fills a buffer; the unit's last one raises the level and advises the unit. -/
theorem exec_rowCopy_given : exec (.rowCopy unit row) s = .next (s.metered (
    let e := s.dev.rowBuffered unit.val row
    if (e.rowsUsed unit.val == rowRoom unit.val) = true then
      ((e.rowShown unit.val).raiseLevel 1 (if unit.val < 12 then 6 else 8)).adviseUnit unit.val
    else e.rowShown unit.val)) :=
  exec_nextM rfl hl (if_neg (by simp [hc, hg]))

/-- A buffer is left. -/
theorem exec_rowCopy_room (h : (s.dev.rowBuffered unit.val row).rowsUsed unit.val ≠ rowRoom unit.val) :
    exec (.rowCopy unit row) s = .next (s.metered ((s.dev.rowBuffered unit.val row).rowShown unit.val)) :=
  (exec_rowCopy_given hl hc hg).trans (congrArg _ (congrArg _ (if_neg (by simpa using h))))

/-- None is left. -/
theorem exec_rowCopy_last (h : (s.dev.rowBuffered unit.val row).rowsUsed unit.val = rowRoom unit.val) :
    exec (.rowCopy unit row) s = .next (s.metered
      ((((s.dev.rowBuffered unit.val row).rowShown unit.val).raiseLevel 1 (if unit.val < 12 then 6 else 8)).adviseUnit unit.val)) :=
  (exec_rowCopy_given hl hc hg).trans (congrArg _ (congrArg _ (if_pos (by simpa using h))))

end Rows

/-! ### Lane repairs (R332, R505, R512) -/

/-- The spare of lane l's group is in use, which the repair fuses keep. -/
def Dev.laneReplaced (l : Nat) : Dev :=
  { d with
    spare := { d.spare with laneWait := d.spare.laneWait.filter (· != l), lanesUsed := mset d.spare.lanesUsed (laneGroup l) 1 }
    fuses := { d.fuses with laneSpares := laneGroup l :: d.fuses.laneSpares.filter (· != laneGroup l) } }

/-- Crossing k shows its spares, and the pause of lane l's channel counts as a replay (R321). -/
def Dev.lanePaused (k l : Nat) : Dev :=
  (d.set (MESH_XLINK_SPARES_USED k) (d.sparesUsed k)).countReplay (crossingEnd k (l / 1024 % 2 == 0)).1
    (crossingEnd k (l / 1024 % 2 == 0)).2

/-- The repair is recorded as SPARE and as SERVICE (R502, R515). -/
def Dev.laneRecorded : Dev := (d.spared 4 none 8 (zeros 12) (d.rises 1)).raiseLevel 1 4

section Lanes
variable {link : Fin 32} (hl : s.dev.live = true)
include hl

/-- No lane of the crossing waits. -/
theorem exec_laneRepair_none (h : s.dev.spare.laneWait.find? (fun l => laneLink l == link.val) = none) :
    exec (.laneRepair link) s = .next (s.metered s.dev) :=
  exec_nextM rfl hl (by simp only [h])

/-- The first of the crossing's lanes that wait is replaced. -/
theorem exec_laneRepair_first {l : Nat} (h : s.dev.spare.laneWait.find? (fun l => laneLink l == link.val) = some l) :
    exec (.laneRepair link) s = .next (s.metered ((s.dev.laneReplaced l).lanePaused link.val l).laneRecorded) :=
  exec_nextM rfl hl (by simp only [h]; rfl)

end Lanes

/-! ### A faulty row or column (R150, R511, R547) -/

/-- The rows (or columns) that the tile has mapped out. -/
def Tile.mappedLines (t : Tile) (isRow : Bool) : List Nat := if isRow then t.badRows else t.badCols

/-- Those of tile n that wait to be: for its engine to be idle, or for the host. -/
def Dev.waitingLines (n : Nat) (isRow : Bool) : List Nat :=
  (((d.tile n).repairWait.filter fun e => e.1 == isRow).map (·.2)) ++
    ((d.spare.arrayFaults.filter fun e => e.1 == n && e.2.1 == isRow).map (·.2.2))

/-- How many of the two spares of a kind are taken or spoken for. -/
def Dev.linesTaken (n : Nat) (isRow : Bool) : Nat := ((d.tile n).mappedLines isRow).length + (d.waitingLines n isRow).length

/-- The ACTION of the record: what the third fault of its kind brings. -/
def Dev.faultAction (n : Nat) (isRow : Bool) : Nat :=
  if decide (2 ≤ d.linesTaken n isRow) then (if (d.tile n).fenced then 0 else 4) + (if d.rises 2 then 16 else 0) else 0

/-- The fault is recorded. -/
def Dev.faultRecorded (n : Nat) (isRow : Bool) (i : Nat) : Dev :=
  if isRow then d.arrayRecord n 14 i 0 1 (d.faultAction n isRow) else d.arrayRecord n 14 0 i 2 (d.faultAction n isRow)

/-- The fault waits for the host, among the needs (R507, R547). -/
def Dev.faultForHost (n : Nat) (isRow : Bool) (i : Nat) : Dev :=
  ({ d with spare := { d.spare with arrayFaults := d.spare.arrayFaults ++ [(n, isRow, i)] } } : Dev).addNeed 2 n i

section Faults
variable {n i : Nat} {isRow : Bool}

/-- A row or column already known is not recorded again. -/
theorem Dev.arrayFault_known (h : i ∈ (d.tile n).mappedLines isRow ∨ i ∈ d.waitingLines n isRow) : d.arrayFault n isRow i = d :=
  if_pos (by simpa [Tile.mappedLines, Dev.waitingLines] using h)

variable (hm : i ∉ (d.tile n).mappedLines isRow) (hw : i ∉ d.waitingLines n isRow)
include hm hw

/-- A new one is recorded; the third fences the tile, another waits for the host or for the engine to be idle. -/
theorem Dev.arrayFault_new : d.arrayFault n isRow i =
    let x := d.faultRecorded n isRow i
    if decide (2 ≤ d.linesTaken n isRow) then (x.raiseLevel 2 2).fence n 2
    else if !x.sparesItself then x.faultForHost n isRow i
    else x.modTile n fun t => { t with repairWait := t.repairWait ++ [(isRow, i)] } := by
  have hnew : ¬ (((d.tile n).mappedLines isRow).contains i || (d.waitingLines n isRow).contains i) = true := by simp [hm, hw]
  exact if_neg hnew

/-- The third of its kind. -/
theorem Dev.arrayFault_third (h : 2 ≤ d.linesTaken n isRow) :
    d.arrayFault n isRow i = ((d.faultRecorded n isRow i).raiseLevel 2 2).fence n 2 :=
  (d.arrayFault_new hm hw).trans (if_pos (decide_eq_true h))

/-- A first or second one, which the host is to have repaired. -/
theorem Dev.arrayFault_forHost (h : d.linesTaken n isRow < 2) (hs : (d.faultRecorded n isRow i).sparesItself = false) :
    d.arrayFault n isRow i = (d.faultRecorded n isRow i).faultForHost n isRow i := by
  rw [d.arrayFault_new hm hw]
  simp [Nat.not_le.2 h, hs]

/-- A first or second one, which the device repairs by itself. -/
theorem Dev.arrayFault_queued (h : d.linesTaken n isRow < 2) (hs : (d.faultRecorded n isRow i).sparesItself = true) :
    d.arrayFault n isRow i = (d.faultRecorded n isRow i).modTile n fun t => { t with repairWait := t.repairWait ++ [(isRow, i)] } := by
  rw [d.arrayFault_new hm hw]
  simp [Nat.not_le.2 h, hs]

end Faults

/-! ### The check of an array (R511) -/

/-- The check of tile n is made 2,048 cycles after its engine fell idle. -/
def Dev.checkDue (n : Nat) : Dev := d.toTick ((d.tile n).mxIdle + 2048)

section Checks
variable {tile : TileId} (hl : s.dev.live = true)
include hl

/-- No array is checked while its engine is busy. -/
theorem exec_arrayCheck_busy (h : (s.dev.tile tile.val).mx.busy = true) (fault : Option ArrayFault) :
    exec (.arrayCheck tile fault) s = .next (s.metered s.dev) :=
  exec_nextM rfl hl (if_pos h)

variable (h : (s.dev.tile tile.val).mx.busy = false)
include h

/-- A good check is noted. -/
theorem exec_arrayCheck_good : exec (.arrayCheck tile none) s = .next (s.metered
    ((s.dev.checkDue tile.val).modTile tile.val fun t => { t with lastCheck := (s.dev.checkDue tile.val).now })) :=
  exec_nextM rfl hl (if_neg (by simp [h]))

/-- A faulty lane fences the tile, since none is spare. -/
theorem exec_arrayCheck_lane (i : Nat) : exec (.arrayCheck tile (some (.lane i))) s = .next (s.metered
    (((s.dev.checkDue tile.val).arrayRecord tile.val 15 i 0xFF 4
      (if ((s.dev.checkDue tile.val).tile tile.val).fenced then 0 else 4)).fence tile.val 2)) :=
  exec_nextM rfl hl (if_neg (by simp [h]))

/-- A faulty row or column. -/
theorem exec_arrayCheck_line (isRow : Bool) (i : Nat) :
    exec (.arrayCheck tile (some (if isRow then .row i else .col i))) s =
      .next (s.metered ((s.dev.checkDue tile.val).arrayFault tile.val isRow i)) := by
  have hidle : ¬ (s.dev.tile tile.val).mx.busy = true := by simp [h]
  cases isRow with
  | true => exact exec_nextM rfl hl (if_neg hidle)
  | false => exact exec_nextM rfl hl (if_neg hidle)

end Checks

end Sys2Proof.Machine

open Sys2Proof Sys2Proof.Machine

/-- Settles O56: a row by the slot it has been given and the buffers it leaves, a crossing by the first lane that waits for it, and an
array's check by its outcome, where a faulty row or column is known, the third of its kind, or repaired by the device or the host. -/
theorem repairs : Obligations.Repairs := by
  intro s unit row link tile hl d now u n
  refine ⟨exec_rowCopy_kept hl, fun hc hg => ⟨exec_rowCopy_room hl hc hg, exec_rowCopy_last hl hc hg⟩, exec_laneRepair_none hl,
    fun l => exec_laneRepair_first hl, exec_arrayCheck_busy hl, fun h => ⟨exec_arrayCheck_good hl h, exec_arrayCheck_lane hl h,
      fun isRow i => ?_⟩⟩
  have hline := exec_arrayCheck_line hl h isRow i
  exact ⟨fun hk => metered_of_step hline (Dev.arrayFault_known _ hk),
    fun hm hw h2 => metered_of_step hline (Dev.arrayFault_third _ hm hw h2),
    fun hm hw h2 hs => metered_of_step hline (Dev.arrayFault_forHost _ hm hw h2 hs),
    fun hm hw h2 hs => metered_of_step hline (Dev.arrayFault_queued _ hm hw h2 hs)⟩
end

section
/-! PROOF. What a send answers once its instruction issues (R100, R259, R268, R269, R274 to R276), how a qu.sendt's limit ends its wait
(R276), and the statement about them. -/

namespace Sys2Proof.Machine

variable {d e : Dev} {n f k : Nat}

/-! ### What a send reads of its tile -/

/-- A tile without its strands' contexts and the notes that a corrected error leaves (R259): a send reads the rest alone. -/
def Tile.sendView (t : Tile) : Tile := { t with strands := [], ceSecond := 0, ceLines := [], twice := [], scrubDue := [] }

/-- The note of a latency is in the strand's context (R83). -/
theorem Dev.hold_sendView (d : Dev) (n f k c : Nat) : ((d.hold n f k c).tile n).sendView = (d.tile n).sendView := by
  obtain ⟨u, hu⟩ := d.hold_tile n f k c
  rw [hu]
  rfl

/-- A word's note is of the scrub pass alone (R506). -/
theorem Tile.notedWord_sendView (t : Tile) (w : Nat) : (t.notedWord w).sendView = t.sendView := by
  unfold Tile.notedWord
  split
  · rfl
  · split <;> rfl

/-- A corrected error leaves the tile's memories and routes (R259). -/
theorem Dev.corrected_sendView (d : Dev) (n off : Nat) : ((d.corrected n off).tile n).sendView = (d.tile n).sendView := by
  unfold Dev.corrected
  by_cases h : winRegion off = .scratch
  · simp only [h, if_true, Dev.add, Dev.set_tile, Dev.tile_modTile_same, Tile.notedWord_sendView]
    rfl
  · cases hw : winRegion off
    case scratch => exact absurd hw h
    all_goals
      simp only [reduceCtorEq, if_false, Dev.tile_modTile_same]
      rfl

/-- The device once the payload's bytes at `off` are read without an uncorrectable error: a corrected one is counted (R259). -/
def Dev.payloadRead (d : Dev) (n off : Nat) (ecc : Ecc) : Dev := if ecc = .corrected then d.corrected n off else d

theorem Dev.payloadRead_sendView (d : Dev) (n off : Nat) (ecc : Ecc) :
    ((d.payloadRead n off ecc).tile n).sendView = (d.tile n).sendView := by
  unfold Dev.payloadRead
  split
  · exact d.corrected_sendView n off
  · rfl

section View
variable (h : (e.tile n).sendView = (d.tile n).sendView)
include h

/-- What is read of the view alone is the same in both tiles. -/
theorem eq_of_sendView {α : Type} (g : Tile → α) (hg : ∀ t : Tile, g t.sendView = g t) : g (e.tile n) = g (d.tile n) :=
  (hg _).symm.trans ((congrArg g h).trans (hg _))

theorem Dev.routeFor_of_sendView (w : Word) (type : Nat) : e.routeFor n f w type = d.routeFor n f w type := by
  have hroute : (e.tile n).route f (rwEntry w) = (d.tile n).route f (rwEntry w) :=
    eq_of_sendView h (fun t => t.route f (rwEntry w)) fun _ => rfl
  simp only [Dev.routeFor, hroute]

theorem Dev.inScratch_of_sendView (off len : Nat) : e.inScratch n off len = d.inScratch n off len :=
  eq_of_sendView h (fun t => decide (winRange off len = .scratch) && t.rangeOn off len) fun _ => rfl

theorem Tile.ueIn_of_sendView (off len : Nat) : (e.tile n).ueIn off len = (d.tile n).ueIn off len :=
  eq_of_sendView h (fun t => t.ueIn off len) fun _ => rfl

theorem Tile.ueAddr_of_sendView (off len : Nat) : (e.tile n).ueAddr off len = (d.tile n).ueAddr off len :=
  eq_of_sendView h (fun t => t.ueAddr off len) fun _ => rfl

theorem Tile.winRead_of_sendView (off len : Nat) : (e.tile n).winRead off len = (d.tile n).winRead off len :=
  eq_of_sendView h (fun t => t.winRead off len) fun _ => rfl

theorem Dev.px64_of_sendView : e.px64 n f = d.px64 n f :=
  eq_of_sendView h (fun t => (t.frond f).cls == 0) fun _ => rfl

variable {st : Strand} {kind : SendKind} {ra rb : GReg} {len align : Nat} {r : Route}

/-- So a payload that fits one of two such devices fits the other. -/
theorem SendFits.of_sendView (hfit : SendFits d n f st kind ra rb len align r) : SendFits e n f st kind ra rb len align r where
  aligned := hfit.aligned
  route := (Dev.routeFor_of_sendView h _ _).trans hfit.route
  open_ := hfit.open_
  inScratch := (Dev.inScratch_of_sendView h _ _).trans hfit.inScratch
  noUe := (Tile.ueIn_of_sendView h _ _).trans hfit.noUe

end View

/-! ### The payload's read (R259) -/

section Read
variable {st : Strand} {kind : SendKind} {rd ra rb : GReg} {len align : Nat} {ecc : Ecc} {nc : NoCredit} {r : Route}

/-- A payload read without an uncorrectable error is sent as one read with none, once a corrected one is counted. -/
theorem send_read (h : SendFits d n f st kind ra rb len align r) (he : ecc ≠ .uncorrectable) :
    d.send n f k st kind rd ra rb len align ecc nc =
      (d.payloadRead n (st.reg ra.val).toNat ecc).send n f k st kind rd ra rb len align .ok nc := by
  cases ecc with
  | ok => rfl
  | uncorrectable => exact absurd rfl he
  | corrected =>
    have hview := d.corrected_sendView n (st.reg ra.val).toNat
    have h' := h.of_sendView hview
    have hread := eccRead_gives d n (st.reg ra.val).toNat len rdMessaging f k .corrected h.noUe he
    have hread' := eccRead_gives (d.corrected n (st.reg ra.val).toNat) n (st.reg ra.val).toNat len rdMessaging f k .ok h'.noUe (by decide)
    simp only [Dev.payloadRead, Dev.send, h.aligned, h.route, h.open_, h.inScratch, hread, h'.route, h'.inScratch, hread', reduceCtorEq,
      if_true, if_false, ne_eq, not_true_eq_false, Bool.not_true, Bool.false_eq_true, Tile.winRead_of_sendView hview]

/-- A send whose payload holds an uncorrectable word, or meets one as it is read, is contained (R259, R498). -/
theorem send_contained (ha : (st.reg ra.val).toNat % align = 0)
    (hr : d.routeFor n f (st.reg rb.val) (if kind = .splice then rtSplice else rtQueue) = some r) (ho : r.st = .open_)
    (hs : d.inScratch n (st.reg ra.val).toNat len = true)
    (hue : (d.tile n).ueIn (st.reg ra.val).toNat len = true ∨ ecc = .uncorrectable) :
    d.send n f k st kind rd ra rb len align ecc nc =
      (d.memUe n ((d.tile n).ueAddr (st.reg ra.val).toNat len) rdMessaging f k, .next) := by
  have hread : d.eccRead n (st.reg ra.val).toNat len rdMessaging f k ecc =
      (d.memUe n ((d.tile n).ueAddr (st.reg ra.val).toNat len) rdMessaging f k, none) :=
    if_pos (by simpa [or_comm] using hue)
  simp only [Dev.send, ha, hr, ho, hs, hread, if_false, ne_eq, not_true_eq_false, Bool.not_true, Bool.false_eq_true]

end Read

/-! ### The sends as they issue (R100) -/

/-- What a send does as it issues. -/
def sendBody (kind : SendKind) (rd ra rb : GReg) (len align : Nat) (ecc : Ecc) (nc : NoCredit) : Body := fun d n f s st =>
  d.send n f s st kind rd ra rb len align ecc nc

/-- What `qu.sendl` does as it issues: a length out of range is ILLEGAL, and a frond of class PX64 has no `qu.sendl` (R118, R275). -/
def sendlBody (x : Iss) (rd ra rb : GReg) (imm : Imm) (ecc : Ecc) : Body := fun d n f s st =>
  if imm.toNat = 0 || 56 < imm.toNat then (d, .trap trIllegal (scalarWord x 0x10 rd.val ra.val rb.val 3 imm))
  else if d.px64 n f then (d, .trap trClass (scalarWord x 0x10 rd.val ra.val rb.val 3 imm))
  else sendBody .light rd ra rb imm.toNat 8 ecc .wait d n f s st

/-- `qu.sendl` on a frond of class PX256, with a length in range. -/
theorem sendlBody_sends {x : Iss} {rd ra rb : GReg} {imm : Imm} {ecc : Ecc} {y : Strand} (h1 : 1 ≤ imm.toNat) (h56 : imm.toNat ≤ 56)
    (hc : d.px64 n f = false) : sendlBody x rd ra rb imm ecc d n f k y = sendBody .light rd ra rb imm.toNat 8 ecc .wait d n f k y := by
  have hlen : ¬ (decide (imm.toNat = 0) || decide (56 < imm.toNat)) = true := by
    simp only [Bool.or_eq_true, decide_eq_true_eq]
    omega
  exact (if_neg hlen).trans (if_neg (Bool.eq_false_iff.1 hc))

section Issued
variable {s : State} {x : Iss} {c : Nat} {body : Body} {kind : SendKind} {rd ra rb : GReg} {len align : Nat} {ecc : Ecc} {nc : NoCredit}
  {r : Route}

theorem exec_quSend (x : Iss) (ecc : Ecc) (rd ra rb : GReg) : exec (.quSend ⟨x, ecc⟩ rd ra rb) s =
    run (fun d => d.issue x [ra.val, rb.val] 1 (slowly 21 (sendBody .full rd ra rb 64 64 ecc .wait))) s := rfl

theorem exec_quSendt (x : Iss) (ecc : Ecc) (rd ra rb : GReg) (imm : Imm) : exec (.quSendt ⟨x, ecc⟩ rd ra rb imm) s =
    run (fun d => d.issue x [ra.val, rb.val] 1 (slowly 21 (sendBody .full rd ra rb 64 64 ecc (.waitFor imm.toNat)))) s := rfl

theorem exec_quSendn (x : Iss) (ecc : Ecc) (rd ra rb : GReg) : exec (.quSendn ⟨x, ecc⟩ rd ra rb) s =
    run (fun d => d.issue x [ra.val, rb.val] 1 (slowly 21 (sendBody .full rd ra rb 64 64 ecc .full))) s := rfl

theorem exec_quSendl (x : Iss) (ecc : Ecc) (rd ra rb : GReg) (imm : Imm) : exec (.quSendl ⟨x, ecc⟩ rd ra rb imm) s =
    run (fun d => d.issue x [ra.val, rb.val] 1 (slowly 19 (sendlBody x rd ra rb imm ecc))) s := rfl

theorem exec_quSpc (x : Iss) (ecc : Ecc) (rd ra rb : GReg) : exec (.quSpc ⟨x, ecc⟩ rd ra rb) s =
    run (fun d => d.issue x [ra.val, rb.val] 1 (slowly 21 (sendBody .splice rd ra rb 256 256 ecc .wait))) s := rfl

/-- The three forms that send a whole entry are one issue of the send, each with what it does without credit. -/
theorem exec_fullSend (x : Iss) (ecc : Ecc) (rd ra rb : GReg) (imm : Imm) :
    ∀ i ∈ ([.quSend ⟨x, ecc⟩ rd ra rb, .quSendt ⟨x, ecc⟩ rd ra rb imm, .quSendn ⟨x, ecc⟩ rd ra rb] : List Instr), ∃ nc, exec i s =
      run (fun d => d.issue x [ra.val, rb.val] 1 (slowly 21 (sendBody .full rd ra rb 64 64 ecc nc))) s := by
  simp only [List.forall_mem_cons]
  exact ⟨⟨_, exec_quSend x ecc rd ra rb⟩, ⟨_, exec_quSendt x ecc rd ra rb imm⟩, ⟨_, exec_quSendn x ecc rd ra rb⟩, List.forall_mem_nil _⟩

/-- The device as a send of latency `c` finds it. -/
def State.sends (s : State) (x : Iss) (f c : Nat) : Dev :=
  (s.dev.noted x.tile.val x.strand.val).hold x.tile.val f x.strand.val c

theorem sends_sendView (s : State) (x : Iss) (f c : Nat) : ((s.sends x f c).tile x.tile.val).sendView =
    ((s.dev.noted x.tile.val x.strand.val).tile x.tile.val).sendView :=
  Dev.hold_sendView _ _ _ _ _

/-- The same once its payload is read. -/
def State.sendReads (s : State) (x : Iss) (f c : Nat) (ra : GReg) (ecc : Ecc) : Dev :=
  (s.sends x f c).payloadRead x.tile.val ((strandOf s x f).reg ra.val).toNat ecc

theorem sendReads_sendView (s : State) (x : Iss) (f c : Nat) (ra : GReg) (ecc : Ecc) :
    ((s.sendReads x f c ra ecc).tile x.tile.val).sendView =
      ((s.dev.noted x.tile.val x.strand.val).tile x.tile.val).sendView :=
  (Dev.payloadRead_sendView _ _ _ _).trans (sends_sendView s x f c)

section Sent
variable (h : Ready s x f [ra.val, rb.val])
  (hb : body (s.sends x f c) x.tile.val f x.strand.val (strandOf s x f) =
    (s.sends x f c).send x.tile.val f x.strand.val (strandOf s x f) kind rd ra rb len align ecc nc)
include h hb

section Fits
variable (hfit : SendFits (s.dev.noted x.tile.val x.strand.val) x.tile.val f (strandOf s x f) kind ra rb len align r)
  (he : ecc ≠ .uncorrectable)
include hfit he

/-- A send whose payload can be read leaves what it makes of the device that has read it. -/
theorem issue_send {e : Dev} (hsend : (s.sendReads x f c ra ecc).send x.tile.val f x.strand.val (strandOf s x f) kind rd ra rb len align .ok nc =
      (e, .next)) :
    run (fun d => d.issue x [ra.val, rb.val] 1 (slowly c body)) s = .next (goesOn s x f e) :=
  issue_goes s x f _ (slowly c body) e h
    (hb.trans ((send_read (hfit.of_sendView (sends_sendView s x f c)) he).trans hsend))

/-- With credit and nobody waiting it goes out and completes OK (R276). -/
theorem issue_send_goes (hc : 0 < r.credit) (hw : r.waiters = []) :
    run (fun d => d.issue x [ra.val, rb.val] 1 (slowly c body)) s = .next (goesOn s x f
      (((s.sendReads x f c ra ecc).strandSend x.tile.val f x.strand.val kind
        (((s.dev.noted x.tile.val x.strand.val).tile x.tile.val).winRead ((strandOf s x f).reg ra.val).toNat len) len
        (rwEntry ((strandOf s x f).reg rb.val)) (rwUser ((strandOf s x f).reg rb.val))).replies x f rd (stWord stOk) stOk)) := by
  have hview := sendReads_sendView s x f c ra ecc
  rw [← Tile.winRead_of_sendView hview]
  exact issue_send h hb hfit he (send_goes _ _ _ _ _ _ _ _ _ _ _ _ _ (hfit.of_sendView hview) hc hw)

end Fits

/-- An uncorrectable error in the payload is contained in place of the send (R259). -/
theorem issue_send_contained (ha : ((strandOf s x f).reg ra.val).toNat % align = 0)
    (hr : (s.dev.noted x.tile.val x.strand.val).routeFor x.tile.val f ((strandOf s x f).reg rb.val)
      (if kind = .splice then rtSplice else rtQueue) = some r) (ho : r.st = .open_)
    (hs : (s.dev.noted x.tile.val x.strand.val).inScratch x.tile.val ((strandOf s x f).reg ra.val).toNat len = true)
    (hue : ((s.dev.noted x.tile.val x.strand.val).tile x.tile.val).ueIn ((strandOf s x f).reg ra.val).toNat len = true ∨
      ecc = .uncorrectable) :
    run (fun d => d.issue x [ra.val, rb.val] 1 (slowly c body)) s = .next (goesOn s x f ((s.sends x f c).memUe x.tile.val
      (((s.dev.noted x.tile.val x.strand.val).tile x.tile.val).ueAddr ((strandOf s x f).reg ra.val).toNat len)
      rdMessaging f x.strand.val)) := by
  have hview := sends_sendView s x f c
  rw [← Tile.ueAddr_of_sendView hview]
  exact issue_goes s x f _ (slowly c body) _ h (hb.trans (send_contained ha ((Dev.routeFor_of_sendView hview _ _).trans hr) ho
    ((Dev.inScratch_of_sendView hview _ _).trans hs) (hue.imp_left (Tile.ueIn_of_sendView hview _ _).trans)))

end Sent

/-- The device with the strand of a send of a whole entry at the end of the route's waiters, until `limit` where it has one. -/
def State.sendWaits (s : State) (x : Iss) (f c : Nat) (rd ra rb : GReg) (ecc : Ecc) (limit : Option Nat) : Dev :=
  ((s.sendReads x f c ra ecc).modRoute x.tile.val f (rwEntry ((strandOf s x f).reg rb.val)) fun r =>
    { r with waiters := r.waiters ++ [.strand x.strand.val] }).modStrand x.tile.val f x.strand.val fun y =>
      y.waits (s.sendReads x f c ra ecc).tick .send (.send .full rd.val
        (((s.dev.noted x.tile.val x.strand.val).tile x.tile.val).winRead ((strandOf s x f).reg ra.val).toNat 64) 64
        (rwEntry ((strandOf s x f).reg rb.val)) (rwUser ((strandOf s x f).reg rb.val)) limit)

/-- The device as such a send without credit leaves it, by its form (R276). -/
def State.sendHeld (s : State) (x : Iss) (f c : Nat) (rd ra rb : GReg) (ecc : Ecc) : NoCredit → Dev
  | .wait => s.sendWaits x f c rd ra rb ecc none
  | .waitFor j => if j = 0 then (s.sendReads x f c ra ecc).replies x f rd (stWord stTimeout) stTimeout
      else s.sendWaits x f c rd ra rb ecc (some ((s.sendReads x f c ra ecc).tick + j))
  | .full => (s.sendReads x f c ra ecc).replies x f rd (stWord stFull) stFull

/-- Without credit it waits, for good or for a time, or completes TIMEOUT or FULL at once (R276). -/
theorem issue_send_holds (h : Ready s x f [ra.val, rb.val])
    (hfit : SendFits (s.dev.noted x.tile.val x.strand.val) x.tile.val f (strandOf s x f) .full ra rb 64 64 r)
    (he : ecc ≠ .uncorrectable) (hc : r.credit = 0) :
    run (fun d => d.issue x [ra.val, rb.val] 1 (slowly c (sendBody .full rd ra rb 64 64 ecc nc))) s =
      .next (goesOn s x f (s.sendHeld x f c rd ra rb ecc nc)) := by
  have hview := sendReads_sendView s x f c ra ecc
  refine issue_send h rfl hfit he ((send_holds _ _ _ _ _ _ _ _ _ _ _ _ _ (hfit.of_sendView hview) hc).trans ?_)
  rw [Tile.winRead_of_sendView hview]
  cases nc with
  | wait => rfl
  | full => rfl
  | waitFor j =>
    simp only [State.sendHeld]
    split <;> rfl

end Issued

/-! ### The limit of a qu.sendt (R276) -/

/-- A qu.sendt that still waits when its limit has come gives up its place on the route and ends with TIMEOUT. -/
theorem Dev.sendTimeout_due {rd len e user limit : Nat} {kind : SendKind} {data : List Byte} (hf : d.stoppedF n f = false)
    (hfind : (d.tile n).frondWith k Strand.sendsTimed = some f)
    (hop : ((d.tile n).strand f k).op = .send kind rd data len e user (some limit)) (hw : ((d.tile n).strand f k).st = .wait)
    (hcome : limit ≤ d.tick) :
    d.sendTimeout n k = (d.modRoute n f e fun r => { r with waiters := r.waiters.filter (· != .strand k) }).modStrand n f k fun y =>
      (y.answered rd (stWord stTimeout) stTimeout).resumed := by
  have htile : (d.modRoute n f e fun r => { r with waiters := r.waiters.filter (· != .strand k) }).tile n =
      (d.tile n).modRoute f e fun r => { r with waiters := r.waiters.filter (· != .strand k) } := Dev.tile_modTile_same ..
  unfold Dev.sendTimeout
  split
  case h_1 hnone => exact absurd (hfind.symm.trans hnone) (by simp)
  case h_2 g hg =>
    obtain rfl : g = f := Option.some.inj (hg.symm.trans hfind)
    simp only [hop, Dev.toTick_past d hcome, hf, Bool.false_eq_true, if_false]
    refine Dev.finish_waiting _ _ _ _ ?_ ?_
    · rw [Dev.stoppedF, htile]
      exact hf
    · rw [htile]
      exact hw

end Sys2Proof.Machine

open Sys2Proof Sys2Proof.Machine

/-- Settles O21: each send is an issue of the shared send, by the credit and the payload that it finds; the limit ends one wait. -/
theorem sendAndTimeout : Obligations.SendAndTimeout := by
  refine ⟨fun s x rd ra rb imm ecc f r h => ?_, ?_⟩
  · intro y n k off w d0 after d data z ok fits waits
    refine ⟨fun hroute ho ⟨ha, hs, hue, he⟩ => ?_, fun hroute ho ⟨ha, hs, hue, he⟩ hc hw h1 h56 hcls => ?_,
      fun hroute ho ⟨ha, hs, hue, he⟩ hc hw => ?_, fun hroute ho ha hs hue => ?_⟩
    · have hfit : SendFits d0 n f y .full ra rb 64 64 r := ⟨ha, hroute, ho, hs, hue⟩
      refine ⟨fun hc hw i hi => ?_, fun hc => ⟨?_, ?_, ?_⟩⟩
      · obtain ⟨nc, hexec⟩ := exec_fullSend x ecc rd ra rb imm i hi
        exact hexec.trans (issue_send_goes h rfl hfit he hc hw)
      · exact (exec_quSend x ecc rd ra rb).trans (issue_send_holds h hfit he hc)
      · exact (exec_quSendn x ecc rd ra rb).trans (issue_send_holds h hfit he hc)
      · refine ((exec_quSendt x ecc rd ra rb imm).trans (issue_send_holds h hfit he hc)).trans (congrArg Host.Outcome.next ?_)
        exact apply_ite (goesOn s x f) ..
    · have hfit : SendFits d0 n f y .light ra rb imm.toNat 8 r := ⟨ha, hroute, ho, hs, hue⟩
      have hcls' : (s.sends x f 19).px64 n f = false := (Dev.px64_of_sendView (sends_sendView s x f 19)).trans hcls
      exact (exec_quSendl x ecc rd ra rb imm).trans (issue_send_goes h (sendlBody_sends h1 h56 hcls') hfit he hc hw)
    · have hfit : SendFits d0 n f y .splice ra rb 256 256 r := ⟨ha, hroute, ho, hs, hue⟩
      exact (exec_quSpc x ecc rd ra rb).trans (issue_send_goes h rfl hfit he hc hw)
    · intro i hi
      obtain ⟨nc, hexec⟩ := exec_fullSend x ecc rd ra rb imm i hi
      exact hexec.trans (issue_send_contained h rfl ha hroute ho hs hue)
  · intro s tile strand f rd len e user limit kind data n k y hruns hfind hop hw hcome
    obtain ⟨hl, hf⟩ := hruns
    exact exec_next rfl hl (Dev.sendTimeout_due hf hfind hop hw hcome)
end

section
/-! PROOF. What qu.recv, qu.poll, qu.stat and qu.close answer once they issue (R100, R259, R278 to R280, R284, R499), and the statement
about them. -/

namespace Sys2Proof.Machine

variable {d : Dev} {s : State} {x : Iss} {n f k c : Nat} {srcs : List Nat} {body : Body}

/-! ### Issues that go on -/

/-- An instruction of one word and latency `c` whose body leaves the device `d` and goes on. -/
theorem issue_slowly (h : Ready s x f srcs) (hb : body (s.sends x f c) x.tile.val f x.strand.val (strandOf s x f) = (d, .next)) :
    run (fun d => d.issue x srcs 1 (slowly c body)) s = .next (goesOn s x f d) :=
  issue_goes s x f srcs (slowly c body) d h hb

/-- The same for one that the meter observes (R475). -/
theorem issue_slowlyM (h : Ready s x f srcs) (hb : body (s.sends x f c) x.tile.val f x.strand.val (strandOf s x f) = (d, .next)) :
    runM (fun d => d.issue x srcs 1 (slowly c body)) s = .next (s.metered (goesOn s x f d).dev) := by
  have hrun := issue_slowly h hb
  rw [run_live _ _ h.1] at hrun
  have hdev : s.dev.issue x srcs 1 (slowly c body) = (goesOn s x f d).dev := congrArg State.dev (Host.Outcome.next.inj hrun)
  rw [runM_live _ _ h.1, hdev]
  rfl

/-- The latency that an instruction of the strand notes does not tell what it reads of its tile (R83). -/
theorem sends_sendView_eq (s : State) (x : Iss) (f c j : Nat) :
    ((s.sends x f c).tile x.tile.val).sendView = ((s.sends x f j).tile x.tile.val).sendView :=
  (sends_sendView s x f c).trans (sends_sendView s x f j).symm

/-- A read that meets an uncorrectable error, or bytes that hold one, gives none and is contained (R259, R498). -/
theorem Dev.eccRead_contained {off len reader : Nat} {ecc : Ecc} (h : (d.tile n).ueIn off len = true ∨ ecc = .uncorrectable) :
    d.eccRead n off len reader f k ecc = (d.memUe n ((d.tile n).ueAddr off len) reader f k, none) :=
  if_pos (by simpa [or_comm] using h)

variable {rd ra : GReg} {q : Fin 64} {ecc : Ecc} {qu : Queue}

/-! ### qu.recv (R278, R280) -/

section Recv
variable (h : Ready s x f [ra.val]) (hq : ((s.sends x f 21).tile x.tile.val).queue q.val = qu)
  (ha : ((strandOf s x f).reg ra.val).toNat % 64 = 0)
include h hq ha

/-- On a queue that its frond does not read. -/
theorem exec_quRecv_denied (hr : qu.readBy f = false) : exec (.quRecv ⟨x, ecc⟩ rd ra q) s =
    .next (s.metered (goesOn s x f ((s.sends x f 21).replies x f rd (stWord stDenied) stDenied)).dev) := by
  refine issue_slowlyM h ?_
  simp only [hq, ha, hr, ne_eq, not_true_eq_false, if_false, Bool.not_false, if_true]
  rfl

variable (hr : qu.readBy f = true) (hs : (s.sends x f 21).inScratch x.tile.val ((strandOf s x f).reg ra.val).toNat 64 = true)
include hr hs

/-- On a queue that its frond has closed. -/
theorem exec_quRecv_closed (hc : qu.closedFor f = true) : exec (.quRecv ⟨x, ecc⟩ rd ra q) s =
    .next (s.metered (goesOn s x f ((s.sends x f 21).replies x f rd (stWord stClosed) stClosed)).dev) := by
  refine issue_slowlyM h ?_
  simp only [hq, ha, hr, hs, hc, ne_eq, not_true_eq_false, if_false, Bool.not_true, Bool.false_eq_true, if_true]
  rfl

variable (hc : qu.closedFor f = false)
include hc

/-- With no entry of its frond to take. -/
theorem exec_quRecv_empty (hn : qu.oldest f = none) : exec (.quRecv ⟨x, ecc⟩ rd ra q) s =
    .next (s.metered (goesOn s x f ((s.sends x f 21).replies x f rd (stWord stEmpty) stEmpty)).dev) := by
  refine issue_slowlyM h ?_
  simp only [hq, ha, hr, hs, hc, hn, ne_eq, not_true_eq_false, if_false, Bool.not_true, Bool.false_eq_true]
  rfl

variable {e : SlotEntry} (he : qu.oldest f = some e)
include he

/-- With an entry that can be read: it leaves for the scratchpad, with its tag in rd. -/
theorem exec_quRecv_takes (hu : ((s.sends x f 21).tile x.tile.val).ueIn (slotOff q.val e.slot) 64 = false) (hecc : ecc ≠ .uncorrectable) :
    exec (.quRecv ⟨x, ecc⟩ rd ra q) s = .next (s.metered (goesOn s x f
      ((((s.sends x f 21).payloadRead x.tile.val (slotOff q.val e.slot) ecc).takeEntry x.tile.val q.val
        ((strandOf s x f).reg ra.val).toNat e (((s.sends x f 21).tile x.tile.val).winRead (slotOff q.val e.slot) 64)).replies
          x f rd e.tag stOk)).dev) := by
  refine issue_slowlyM h ?_
  simp only [hq, ha, hr, hs, hc, he, eccRead_gives _ _ _ _ _ _ _ _ hu hecc, ne_eq, not_true_eq_false, if_false, Bool.not_true,
    Bool.false_eq_true]
  rfl

/-- With an entry that cannot be read: it is contained in place of the receive (R259). -/
theorem exec_quRecv_contained
    (hu : ((s.sends x f 21).tile x.tile.val).ueIn (slotOff q.val e.slot) 64 = true ∨ ecc = .uncorrectable) :
    exec (.quRecv ⟨x, ecc⟩ rd ra q) s = .next (s.metered (goesOn s x f ((s.sends x f 21).memUe x.tile.val
      (((s.sends x f 21).tile x.tile.val).ueAddr (slotOff q.val e.slot) 64) rdMessaging f x.strand.val)).dev) := by
  refine issue_slowlyM h ?_
  simp only [hq, ha, hr, hs, hc, he, Dev.eccRead_contained hu, ne_eq, not_true_eq_false, if_false, Bool.not_true, Bool.false_eq_true]

end Recv

/-! ### The queue's status (R279, R280, R284) -/

section Status
variable (h : Ready s x f [])
include h

/-- qu.close by a frond that reads the queue. -/
theorem exec_quClose_closes (hr : (((s.dev.noted x.tile.val x.strand.val).tile x.tile.val).queue q.val).readBy f = true) :
    exec (.quClose x q) s = .next (goesOn s x f ((((s.dev.noted x.tile.val x.strand.val).closeQueue x.tile.val q.val f).feedAll
      ((s.dev.noted x.tile.val x.strand.val).tile x.tile.val).part).replies x f 0 0 stOk)) := by
  refine issue_goes s x f _ _ _ h ?_
  simp only [hr, Bool.not_true, Bool.false_eq_true, if_false]
  rfl

variable (hq : ((s.sends x f 2).tile x.tile.val).queue q.val = qu)
include hq

/-- qu.stat answers at once. -/
theorem exec_quStat_answers : exec (.quStat x rd q) s =
    .next (goesOn s x f ((s.sends x f 2).replies x f rd (qu.word f (qu.status f)) (qu.status f))) :=
  hq ▸ issue_slowly h rfl

variable (hr : qu.readBy f = true)
include hr

/-- qu.poll of a queue that is not empty. -/
theorem exec_quPoll_answers (hst : qu.status f ≠ stEmpty) : exec (.quPoll x rd q) s =
    .next (goesOn s x f ((s.sends x f 2).replies x f rd (qu.word f (qu.status f)) (qu.status f))) := by
  refine issue_slowly h ?_
  simp only [hq, hr, hst, Bool.not_true, Bool.false_eq_true, if_false, ne_eq, not_false_eq_true, if_true]
  rfl

/-- qu.poll of an empty one. -/
theorem exec_quPoll_waits (hst : qu.status f = stEmpty) : exec (.quPoll x rd q) s =
    .next (goesOn s x f ((s.sends x f 2).modStrand x.tile.val f x.strand.val fun y =>
      y.waits (s.sends x f 2).tick .poll (.poll rd.val q.val qu.epoch))) := by
  refine issue_slowly h ?_
  simp only [hq, hr, hst, Bool.not_true, Bool.false_eq_true, if_false, ne_eq, not_true_eq_false]
  rfl

end Status

end Sys2Proof.Machine

open Sys2Proof Sys2Proof.Machine

/-- Settles O22: qu.recv by the checks of R278 in their order, the others by the queue as the strand's frond finds it. -/
theorem queueReads : Obligations.QueueReads := by
  intro s x rd ra q ecc f h h0 y n k d0 d d2 qu off z put recv is
  have hview : (d.tile n).sendView = (d0.tile n).sendView := sends_sendView s x f 21
  have hq0 : qu = (d0.tile n).queue q.val := eq_of_sendView hview (fun t => t.queue q.val) fun _ => rfl
  have hq2 : (d2.tile n).queue q.val = qu := eq_of_sendView (sends_sendView_eq s x f 2 21) (fun t => t.queue q.val) fun _ => rfl
  have hpart : (d.tile n).part = (d0.tile n).part := eq_of_sendView hview (fun t => t.part) fun _ => rfl
  refine ⟨fun ha hr hs => ⟨fun e hc he => ⟨fun hu hecc => ?_, fun hu => ?_⟩, fun hc hn => ?_, fun hc => ?_⟩, fun ha hr => ?_,
    fun hr hst => ?_, fun hr hst => ?_, ?_, fun hr => ?_⟩
  · exact exec_quRecv_takes h rfl ha hr hs hc he hu hecc
  · exact exec_quRecv_contained h rfl ha hr hs hc he hu
  · exact exec_quRecv_empty h rfl ha hr hs hc hn
  · exact exec_quRecv_closed h rfl ha hr hs hc
  · exact exec_quRecv_denied h rfl ha hr
  · exact exec_quPoll_answers h0 hq2 hr hst
  · exact exec_quPoll_waits h0 hq2 hr hst
  · exact exec_quStat_answers h0 hq2
  · rw [hpart]
    exact exec_quClose_closes h0 (hq0 ▸ hr)

end

section
/-! PROOF. What qu.sprd, qu.tadd and qu.tset answer once they issue (R100, R259, R268, R293, R300, R302), and the statement about them. -/

namespace Sys2Proof.Machine

variable {s : State} {x : Iss} {f : Nat} {rd ra rb : GReg} {ecc : Ecc}

/-! ### qu.sprd (R293) -/

section Splice
variable {sp : Fin 16} {z : Splice} (h : Ready s x f [ra.val]) (hz : ((s.sends x f 21).tile x.tile.val).splice sp.val = z)
  (ha : ((strandOf s x f).reg ra.val).toNat % 256 = 0) (hv : z.valid = true) (hf : z.frond = f)
  (hs : (s.sends x f 21).inScratch x.tile.val ((strandOf s x f).reg ra.val).toNat 256 = true)
include h hz ha hv hf hs

/-- With a head entry that is not complete. -/
theorem exec_quSprd_empty (hd : (mget z.entries SpliceEntry.init z.head).done = false) : exec (.quSprd ⟨x, ecc⟩ rd ra sp) s =
    .next (s.metered (goesOn s x f ((s.sends x f 21).replies x f rd (stWord stEmpty) stEmpty)).dev) := by
  refine issue_slowlyM h ?_
  simp only [hz, ha, hv, hf, hs, hd, ne_eq, not_true_eq_false, decide_false, Bool.not_true, Bool.not_false, Bool.or_self,
    Bool.false_eq_true, if_false, if_true]
  rfl

/-- With a complete one that can be read: it leaves for the scratchpad. -/
theorem exec_quSprd_takes (hd : (mget z.entries SpliceEntry.init z.head).done = true)
    (hu : ((s.sends x f 21).tile x.tile.val).ueIn (spliceOff sp.val z.head) 256 = false) (hecc : ecc ≠ .uncorrectable) :
    exec (.quSprd ⟨x, ecc⟩ rd ra sp) s = .next (s.metered (goesOn s x f
      ((((s.sends x f 21).payloadRead x.tile.val (spliceOff sp.val z.head) ecc).takeSplice x.tile.val sp.val
        ((strandOf s x f).reg ra.val).toNat (((s.sends x f 21).tile x.tile.val).winRead (spliceOff sp.val z.head) 256)).replies
          x f rd (stWord stOk) stOk)).dev) := by
  refine issue_slowlyM h ?_
  simp only [hz, ha, hv, hf, hs, hd, eccRead_gives _ _ _ _ _ _ _ _ hu hecc, ne_eq, not_true_eq_false, decide_false, Bool.not_true,
    Bool.or_self, Bool.false_eq_true, if_false]
  rfl

end Splice

/-! ### qu.tadd and qu.tset (R300, R302) -/

/-- The device with a tally request of the strand on its way along route `r`. -/
def State.tallySent (s : State) (x : Iss) (f : Nat) (rd ra : GReg) (set : Bool) (r : Route) : Dev :=
  (s.sends x f 2).sendFlit x.tile.val .c f x.strand.val r.dest 0
    (.tally set r.index ((strandOf s x f).reg ra.val) (x.strand.val + 8 * rd.val))

/-- The same with the strand waiting for the reply. -/
def State.tallyWaits (s : State) (x : Iss) (f : Nat) (rd ra : GReg) (set : Bool) (r : Route) : Dev :=
  (s.tallySent x f rd ra set r).modStrand x.tile.val f x.strand.val fun y =>
    y.waits (s.tallySent x f rd ra set r).tick .tally (.tally rd.val set r.dest)

section Tally
variable {r : Route} (hr : (s.sends x f 2).routeFor x.tile.val f ((strandOf s x f).reg rb.val) rtTally = some r) (ho : r.st = .open_)
include hr ho

/-- A request along an OPEN route, which a qu.tset makes of the home tile's own tallies only. -/
theorem tallyOp_asks {set : Bool} (hset : set = true → r.dest = x.tile.val) :
    (s.sends x f 2).tallyOp x.tile.val f x.strand.val (strandOf s x f) rd ra rb set = (s.tallyWaits x f rd ra set r, .next) := by
  have hown : ¬ (set && decide (r.dest ≠ x.tile.val)) = true := by simpa using hset
  simp only [Dev.tallyOp, hr, ho, hown, ne_eq, not_true_eq_false, if_false]
  rfl

variable (h : Ready s x f [ra.val, rb.val])
include h

/-- A qu.tadd of any tile's tally on an OPEN route. -/
theorem exec_quTadd_asks : exec (.quTadd x rd ra rb) s = .next (goesOn s x f (s.tallyWaits x f rd ra false r)) :=
  issue_slowly h (tallyOp_asks hr ho Bool.noConfusion)

/-- A qu.tset of the home tile's. -/
theorem exec_quTset_asks (hd : r.dest = x.tile.val) :
    exec (.quTset x rd ra rb) s = .next (goesOn s x f (s.tallyWaits x f rd ra true r)) :=
  issue_slowly h (tallyOp_asks hr ho fun _ => hd)

/-- A qu.tset of another tile's tally. -/
theorem exec_quTset_denied (hd : r.dest ≠ x.tile.val) :
    exec (.quTset x rd ra rb) s = .next (goesOn s x f ((s.sends x f 2).replies x f rd 0 stDenied)) := by
  refine issue_slowly h ?_
  simp only [Dev.tallyOp, hr, ho, hd, ne_eq, not_true_eq_false, not_false_eq_true, decide_true, Bool.and_self, if_false, if_true]
  rfl

end Tally

end Sys2Proof.Machine

open Sys2Proof Sys2Proof.Machine

/-- Settles O23: qu.sprd by its head entry, the tally instructions by the tile that the route leads to. -/
theorem spliceAndTally : Obligations.SpliceAndTally := by
  intro s x rd ra rb sp ecc f r h h2 y n k d0 d d2 z off ready asks sprd
  refine ⟨fun ha hv hf hs => ⟨fun hd hu hecc => ?_, fun hd => ?_⟩, fun hr ho => ?_⟩
  · exact exec_quSprd_takes h rfl ha hv hf hs hd hu hecc
  · exact exec_quSprd_empty h rfl ha hv hf hs hd
  · have hr2 : d2.routeFor n f (y.reg rb.val) rtTally = some r :=
      (Dev.routeFor_of_sendView (sends_sendView_eq s x f 2 21) _ _).trans hr
    exact ⟨exec_quTadd_asks hr2 ho h2, fun hd => exec_quTset_asks hr2 ho h2 hd, fun hd => exec_quTset_denied hr2 ho h2 hd⟩

end

section
/-! PROOF. What the hitch instructions do once they issue (R101, R118, R268, R296 to R299), and the statement about them. -/

namespace Sys2Proof.Machine

variable {d : Dev} {s : State} {x : Iss} {n f k c : Nat} {rd ra rb : GReg} {h : BitVec 8} {hi : Hitch}

/-! ### Routes to fenced tiles (R299) -/

/-- The note of a latency fences no tile. -/
theorem Dev.hold_fenced (m : Nat) : ((d.hold n f k c).tile m).fenced = (d.tile m).fenced := by
  by_cases hm : m = n
  · obtain ⟨u, hu⟩ := d.hold_tile n f k c
    rw [hm, hu]
  · unfold Dev.hold
    split
    · rfl
    · exact congrArg Tile.fenced (Dev.tile_modTile_ne _ _ _ _ hm)

/-- Nor does it change where a route leads. -/
theorem Dev.hold_leadsFenced (r : Route) : (d.hold n f k c).leadsFenced r = d.leadsFenced r := by
  have htree : (d.hold n f k c).tree r.dest = d.tree r.dest := by
    unfold Dev.hold
    split <;> rfl
  simp only [Dev.leadsFenced, htree, Dev.hold_fenced]

/-! ### The instructions -/

/-- The strand has seen the hitch's generation (R296). -/
def Strand.sees (y : Strand) (h : Nat) (hi : Hitch) : Strand := { y with seen := mset y.seen h hi.gen }

/-- The device as hi.arm has armed the hitch, before counting goes on. -/
def State.armed (s : State) (x : Iss) (f h expect : Nat) (hi : Hitch) : Dev :=
  ((s.sends x f 2).modTile x.tile.val fun t => t.modHitch h fun z => { z with expect := expect }).modStrand
    x.tile.val f x.strand.val fun y => y.sees h hi

section Hitch
variable (hhi : ((s.sends x f 2).tile x.tile.val).hitch h.toNat = hi) (hk : h.toNat < 32)
include hhi hk

/-- hi.arm of a hitch that is not revoked: a generation that is due completes at once (R298, R299). -/
theorem exec_hiArm_arms (hready : Ready s x f [ra.val]) (hv : ((strandOf s x f).reg ra.val).toNat ≤ 65535)
    (hrev : hi.revoked = false) : exec (.hiArm x rd ra h) s =
      .next (goesOn s x f (((s.armed x f h.toNat ((strandOf s x f).reg ra.val).toNat hi).hitchRun x.tile.val h.toNat hi.count).replies
        x f rd (stWord stOk) stOk)) := by
  refine issue_slowly hready ?_
  simp only [hhi, hrev, Nat.not_le.2 hk, Nat.not_lt.2 hv, Bool.false_eq_true, if_false]
  rfl

variable (hready : Ready s x f [])
include hready

/-- hi.wait for a generation that has come. -/
theorem exec_hiWait_answers (hrev : hi.revoked = false) (hg : hi.gen ≠ (strandOf s x f).seenGen h.toNat) :
    exec (.hiWait x rd h) s = .next (goesOn s x f (((s.sends x f 2).modStrand x.tile.val f x.strand.val fun y =>
      y.sees h.toNat hi).replies x f rd (BitVec.ofNat 64 hi.gen) stOk)) := by
  refine issue_slowly hready ?_
  simp only [hhi, hrev, hg, Nat.not_le.2 hk, Bool.false_eq_true, if_false, ne_eq, not_false_eq_true, if_true]
  rfl

/-- hi.wait for one that is to come. -/
theorem exec_hiWait_waits (hrev : hi.revoked = false) (hg : hi.gen = (strandOf s x f).seenGen h.toNat) :
    exec (.hiWait x rd h) s = .next (goesOn s x f ((s.sends x f 2).modStrand x.tile.val f x.strand.val fun y =>
      y.waits (s.sends x f 2).tick .hitch (.hitch rd.val h.toNat))) := by
  refine issue_slowly hready ?_
  simp only [hhi, hrev, hg, Nat.not_le.2 hk, Bool.false_eq_true, if_false, ne_eq, not_true_eq_false]
  rfl

/-- hi.gen on a frond of class PX256 (R118). -/
theorem exec_hiGen_reads (hc : (s.sends x f 2).px64 x.tile.val f = false) :
    exec (.hiGen x rd h) s = .next (goesOn s x f (((s.sends x f 2).modStrand x.tile.val f x.strand.val fun y =>
      y.sees h.toNat hi).modStrand x.tile.val f x.strand.val fun y => y.setReg rd.val (BitVec.ofNat 64 hi.gen))) := by
  refine issue_slowly hready ?_
  simp only [hhi, hc, Nat.not_le.2 hk, Bool.false_eq_true, if_false]
  rfl

end Hitch

section Signal
variable {r : Route} (hready : Ready s x f [rb.val])
  (hr : (s.sends x f 4).routeFor x.tile.val f ((strandOf s x f).reg rb.val) rtHitch = some r)
include hready hr

/-- hi.sig on a route to tiles that are not fenced: one token goes out (R297). -/
theorem exec_hiSig_sends (ho : r.st ≠ .revoked) (hf : (s.sends x f 4).leadsFenced r = false) : exec (.hiSig x rd rb) s =
    .next (goesOn s x f (((s.sends x f 4).sendToken x.tile.val f x.strand.val r).replies x f rd (stWord stOk) stOk)) := by
  refine issue_slowly hready ?_
  simp only [hr, ho, hf, decide_false, Bool.or_self, Bool.false_eq_true, if_false]
  rfl

/-- hi.sig on a route to a fenced tile (R299). -/
theorem exec_hiSig_revoked (hf : (s.sends x f 4).leadsFenced r = true) : exec (.hiSig x rd rb) s =
    .next (goesOn s x f ((s.sends x f 4).replies x f rd (stWord stRevoked) stRevoked)) := by
  refine issue_slowly hready ?_
  simp only [hr, hf, Bool.or_true, if_true]
  rfl

end Signal

end Sys2Proof.Machine

open Sys2Proof Sys2Proof.Machine

/-- Settles O24: each of the four by the hitch, or the route, that it finds. -/
theorem hitchResult : Obligations.HitchResult := by
  intro s x rd ra rb h f h0 y n k d0 d d4 hi seen gen
  refine ⟨fun hready hk hv hrev => exec_hiArm_arms rfl hk hready hv hrev, fun r hready hr ho => ?_,
    fun hk hrev => ⟨fun hg => exec_hiWait_answers rfl hk h0 hrev hg, fun hg => exec_hiWait_waits rfl hk h0 hrev hg⟩,
    fun hk hc => exec_hiGen_reads rfl hk h0 hc⟩
  have hr4 : d4.routeFor n f (y.reg rb.val) rtHitch = some r :=
    (Dev.routeFor_of_sendView (sends_sendView_eq s x f 4 2) _ _).trans hr
  have hleads : d4.leadsFenced r = d.leadsFenced r := (Dev.hold_leadsFenced r).trans (Dev.hold_leadsFenced r).symm
  exact ⟨fun hf => exec_hiSig_sends hready hr4 ho (hleads.trans hf), fun hf => exec_hiSig_revoked hready hr4 (hleads.trans hf)⟩

end

section
/-! PROOF. What credits and notices do to a route and to the strand that waits on it (R269, R274, R276, R284 to R287), and the statement
about them. -/

namespace Sys2Proof.Machine

variable {d : Dev} {n f e k : Nat}

/-! ### The route and those who wait on it -/

/-- A route as it is changed. -/
theorem Dev.route_modRoute (d : Dev) (n f e : Nat) (g : Route → Route) :
    ((d.modRoute n f e g).tile n).route f e = g ((d.tile n).route f e) := by
  rw [Dev.modRoute, Dev.tile_modTile_same, Tile.route_modRoute_same]

/-- A change of a route stops no frond and leaves the strands. -/
theorem Dev.modRoute_strands (d : Dev) (n f e : Nat) (g : Route → Route) (f' k : Nat) :
    (d.modRoute n f e g).stoppedF n f' = d.stoppedF n f' ∧ ((d.modRoute n f e g).tile n).strand f' k = (d.tile n).strand f' k := by
  rw [Dev.stoppedF, Dev.modRoute, Dev.tile_modTile_same]
  exact ⟨rfl, rfl⟩

/-- A route that nobody waits on serves nobody. -/
theorem Dev.serveWaiters_nil (h : ((d.tile n).route f e).waiters = []) (k : Nat) : d.serveWaiters n f e k = d := by
  cases k with
  | zero => rfl
  | succ k =>
    simp only [Dev.serveWaiters, h]
    split <;> rfl

/-- Credits that reach a route within the device, which nobody waits on (R274, R276). -/
theorem Dev.creditTo_nil {src : Nat} (hr : ((d.tile n).route f e).remote = false) (hw : ((d.tile n).route f e).waiters = []) :
    d.creditTo n f e src k = d.modRoute n f e fun r => r.give src k := by
  have hgive : d.modRoute n f e (fun r => if r.remote then { r with held := r.held.map fun x => (x.1, x.2 + k) } else r.give src k) =
      d.modRoute n f e fun r => r.give src k :=
    Dev.modRoute_congr _ _ _ _ _ _ (if_neg (by simp [hr]))
  rw [Dev.creditTo, hgive]
  refine Dev.serveWaiters_nil ?_ 9
  rw [Dev.route_modRoute]
  exact hw

/-- A reopen of a route of one destination that is CLOSED or STALE (R286). -/
theorem Dev.reopenTo_opens {src grant epoch : Nat} (hm : ((d.tile n).route f e).mcast = false)
    (hst : ((d.tile n).route f e).st = .closed ∨ ((d.tile n).route f e).st = .stale) :
    d.reopenTo n f e src grant epoch = d.modRoute n f e fun r => { r.refill grant with st := .open_, epoch := epoch } := by
  have hone : ¬ (((d.tile n).route f e).mcast && ((d.tile n).route f e).st != .revoked) = true := by simp [hm]
  exact (if_neg hone).trans (if_pos (by simpa using hst))

/-- An OPEN route goes to the state that the notice gives (R269). -/
theorem Dev.noticeTo_open (ho : ((d.tile n).route f e).st = .open_) : d.closeTo n f e = d.routeTo n f e .closed ∧
    d.staleTo n f e = d.routeTo n f e .stale ∧ d.revokedTo n f e = d.routeTo n f e .revoked := by
  simp [Dev.closeTo, Dev.staleTo, Dev.revokedTo, ho]

/-- The route in another state, with nobody waiting, its one waiter answered with the state's status and counted (R269). -/
def Dev.routeLeft (d : Dev) (n f e k rd : Nat) (st : RouteSt) : Dev :=
  ((d.modRoute n f e fun r => { r with st := st, waiters := [] }).modStrand n f k fun y =>
    (y.answered rd (stWord (routeStatus st).1) (routeStatus st).1).resumed).msgCount n (routeStatus st).2 1

/-- A route that one strand waits to send on enters a state other than OPEN. -/
theorem Dev.routeTo_waiter {kind : SendKind} {rd len e' user : Nat} {data : List Byte} {lim : Option Nat} (st : RouteSt)
    (hw : ((d.tile n).route f e).waiters = [.strand k]) (hf : d.stoppedF n f = false)
    (hop : ((d.tile n).strand f k).op = .send kind rd data len e' user lim) (hwait : ((d.tile n).strand f k).st = .wait) :
    d.routeTo n f e st = d.routeLeft n f e k rd st := by
  have hroute : d.modRoute n f e (fun r => { r with st := st, waiters := r.waiters.filter (· == .engine) }) =
      d.modRoute n f e fun r => { r with st := st, waiters := [] } :=
    Dev.modRoute_congr _ _ _ _ _ _ (by rw [hw]; rfl)
  obtain ⟨hstop, hstrand⟩ := d.modRoute_strands n f e (fun r => { r with st := st, waiters := [] }) f k
  have hends := Dev.finish_waiting (d.modRoute n f e fun r => { r with st := st, waiters := [] }) rd (stWord (routeStatus st).1)
    (routeStatus st).1 (hstop.trans hf) ((congrArg Strand.st hstrand).trans hwait)
  simp only [Dev.routeTo, hroute, hstop, hf, hw, hstrand, hop, hends, Bool.false_eq_true, if_false, List.foldl_cons, List.foldl_nil]
  rfl

/-! ### The commands -/

section Commands
variable {s : State} {tile : TileId} {fl : Flit} {rest : List Flit} (hl : s.dev.live = true) (ha : s.dev.oldestIs tile.val fl rest)
include hl ha

/-- CREDIT_ARRIVE of a credit of a queue's or a splice's own grant. -/
theorem exec_creditArrive_credit (hb : fl.body = .credit f e k) :
    exec (.creditArrive tile) s = .next { s with dev := (s.dev.took tile.val rest).creditTo tile.val f e fl.src k } :=
  exec_takes rfl hl ha (by rintro ⟨⟩ <;> simp [hb, FlitBody.kind]) (by rw [hb])

/-- CLOSE_NOTICE is what its flit makes of the route. -/
theorem exec_closeNotice (hb : fl.body = .closeN f e) :
    exec (.closeNotice tile) s = .next { s with dev := (s.dev.took tile.val rest).closeTo tile.val f e } :=
  exec_takes rfl hl ha (by rintro ⟨⟩ <;> simp [hb, FlitBody.kind]) (by rw [hb])

/-- STALE_NOTICE is what its flit makes of the route. -/
theorem exec_staleNotice (hb : fl.body = .staleN f e) :
    exec (.staleNotice tile) s = .next { s with dev := (s.dev.took tile.val rest).staleTo tile.val f e } :=
  exec_takes rfl hl ha (by rintro ⟨⟩ <;> simp [hb, FlitBody.kind]) (by rw [hb])

/-- REOPEN_NOTICE is what its flit makes of the route. -/
theorem exec_reopenNotice {g ep : Nat} (hb : fl.body = .reopenN f e g ep) :
    exec (.reopenNotice tile) s = .next { s with dev := (s.dev.took tile.val rest).reopenTo tile.val f e fl.src g ep } :=
  exec_takes rfl hl ha (by rintro ⟨⟩ <;> simp [hb, FlitBody.kind]) (by rw [hb])

/-- REVOKED_CREDIT is what its flit makes of the route. -/
theorem exec_revokedCredit (hb : fl.body = .revoked f e) :
    exec (.revokedCredit tile) s = .next { s with dev := (s.dev.took tile.val rest).revokedTo tile.val f e } :=
  exec_takes rfl hl ha (by rintro ⟨⟩ <;> simp [hb, FlitBody.kind]) (by rw [hb])

end Commands

end Sys2Proof.Machine

open Sys2Proof Sys2Proof.Machine

/-- Settles O29: each command takes its flit to the route, which is changed, or left with its waiter answered. -/
theorem routeNotices : Obligations.RouteNotices := by
  intro s tile f rest wf e hl ha n d r now
  refine ⟨fun k hb hr hw => ?_, fun g ep hb hm hst => ?_, fun k kind rd data len e' user lim hw hf ho hop hwait => ?_⟩
  · rw [exec_creditArrive_credit hl ha hb, Dev.creditTo_nil hr hw]
  · rw [exec_reopenNotice hl ha hb, Dev.reopenTo_opens hm hst]
  · have hleft (st : RouteSt) : d.routeTo n wf e st = d.routeLeft n wf e k rd st := Dev.routeTo_waiter st hw hf hop hwait
    obtain ⟨hclose, hstale, hrevoke⟩ := Dev.noticeTo_open (d := d) ho
    refine ⟨fun hb => ?_, fun hb => ?_, fun hb => ?_⟩
    · rw [exec_closeNotice hl ha hb, hclose, hleft]
      rfl
    · rw [exec_staleNotice hl ha hb, hstale, hleft]
      rfl
    · rw [exec_revokedCredit hl ha hb, hrevoke, hleft]
      rfl

end

section
/-! PROOF. How a queue takes an entry that arrives, and moves entries to its extension and back (R259, R272, R277, R281, R282, R284, R285,
R499), and the statement about them. -/

namespace Sys2Proof.Machine

variable {d : Dev} {n q j : Nat}

/-! ### An entry arrives (R272, R277, R284, R285, R349) -/

/-- A tile of a partition that is neither held nor clearing takes what arrives (R349). -/
theorem Tile.takesArrivals {t : Tile} (hheld : t.held = false) (hclear : t.clearing = false) (hpart : t.part ≠ 0) :
    (t.held || t.clearing || t.part == 0) = false := by
  simp [hheld, hclear, hpart]

/-- Changes of a queue that agree on it are one. -/
theorem Dev.modQueue_congr {g h : Queue → Queue} (w : g ((d.tile n).queue q) = h ((d.tile n).queue q)) :
    d.modQueue n q g = d.modQueue n q h :=
  Dev.modTile_congr d n _ _ (by simp only [Tile.modQueue, w])

/-- The queue with an entry behind those in its slots, in slot `j` and with the number `no` in the order of arrival (R272). -/
def Queue.takes (x : Queue) (j no : Nat) (en : Entry) : Queue :=
  { x with
    grants := (x.modGrant en.ref fun g => { g with dfrond := some en.frond }).grants
    slots := x.slots ++ [{ slot := j, tag := en.tag, frond := en.frond, credit := en.ref, fromExt := false, spill := false, no := no }]
    nextNo := x.nextNo + 1 }

/-- A tile with the bytes of slot `j` of a queue written whole (R499). -/
def Tile.slotWritten (t : Tile) (q j : Nat) (bs : List Byte) : Tile :=
  { t with qmem := cwrite t.qmem (slotOff q j) bs, bad := coveredWords t.bad (slotOff q j) 64 }

section Entry
variable {en : Entry} {g : Grant} {a wf e ep : Nat} (hopen : ((d.tile n).held || (d.tile n).clearing || (d.tile n).part == 0) = false)
  (hgrant : ((d.tile n).queue q).grantOf en.ref = some g) (hw : g.withdrawn = false) (hep : en.epoch = some ep)
include hopen hgrant hw hep

/-- An entry of another epoch than the queue's. -/
theorem Dev.entryArrive_stale (href : en.ref = .local_ a wf e) (hne : ep ≠ ((d.tile n).queue q).epoch) :
    d.entryArrive n q en = (d.msgCount n 4 1).notify n en.ref (.stale ep) := by
  have hne' : (ep != ((d.tile n).queue q).epoch) = true := by simpa using hne
  rw [href] at hgrant
  simp only [Dev.entryArrive, hopen, hgrant, hw, hep, hne', href, Bool.false_eq_true, if_false, if_true,
    Option.getD_some]

variable (heq : ep = ((d.tile n).queue q).epoch) (hret : ((d.tile n).frond en.frond).retired = false)
include heq hret

/-- An entry for a frond that has closed the queue. -/
theorem Dev.entryArrive_closed (hc : ((d.tile n).queue q).closedFor en.frond = true) :
    d.entryArrive n q en = (d.msgCount n 3 1).notify n en.ref (.credit 1) := by
  simp only [Dev.entryArrive, hopen, hgrant, hw, hep, heq, hret, hc, bne_self_eq_false, Bool.false_eq_true,
    if_false, if_true]

/-- An entry that finds a slot, in a queue without an extension. -/
theorem Dev.entryArrive_takes (hc : ((d.tile n).queue q).closedFor en.frond = false) (hj : ((d.tile n).queue q).freeSlot = some j)
    (hx : ((d.tile n).queue q).extLen = 0) : d.entryArrive n q en =
      ((d.modTile n fun t => t.slotWritten q j (slice en.data 0 64)).modQueue n q fun x =>
        x.takes j ((d.tile n).queue q).nextNo en).wakeAll n := by
  simp only [Dev.entryArrive, hopen, hgrant, hw, hep, heq, hret, hc, hj, hx, bne_self_eq_false, Nat.lt_irrefl,
    decide_false, Bool.false_and, Bool.false_eq_true, if_false]
  refine congrArg (fun e : Dev => e.wakeAll n) (Dev.modQueue_congr ?_)
  rw [Dev.tile_modTile_same]
  rfl

end Entry

/-! ### An entry moves to the extension (R281) -/

/-- The device with the entry moved to the extension's tail, before its credit returns (R281). -/
def Dev.entrySpilled (d : Dev) (n q : Nat) (t : Tile) (qu : Queue) (x : SlotEntry) (ecc : Ecc) : Dev :=
  ((d.payloadRead n (slotOff q x.slot) ecc).modTile n fun y =>
    y.winWrite (qu.extOff qu.extTail) (t.winRead (slotOff q x.slot) 64)).modQueue n q fun y =>
      { y with slots := y.slots.filter (fun z => z.slot != x.slot), ext := y.ext ++ [⟨qu.extTail, x.tag, x.frond, x.no⟩] }

/-! ### The commands -/

section Commands
variable {s : State} {tile : TileId} (hl : s.dev.live = true)
include hl

/-- QUEUE_ENTRY_ARRIVE of a whole entry: where it comes from, its frond and its tag are the flit's (R271). -/
theorem exec_queueEntryArrive {fl : Flit} {rest : List Flit} {len ep e : Nat} {data : List Byte} (ha : s.dev.oldestIs tile.val fl rest)
    (hb : fl.body = .entry false q len ep e data) : exec (.queueEntryArrive tile) s =
      .next { s with dev := ((s.dev.took tile.val rest).entryArrive tile.val q
        { ref := .local_ fl.src (e / 128) (e % 128), frond := fl.frond,
          tag := entryTag fl.user 0 false fl.sstr fl.src len false fl.frond, data := data, epoch := some ep }) } :=
  exec_takes rfl hl ha (by rintro ⟨⟩ <;> simp [hb, FlitBody.kind]) (by simp only [hb, Bool.false_eq_true, if_false])

variable {q : Fin 64} {t : Tile} {qu : Queue} {ecc : Ecc} (ht : s.dev.tile tile.val = t) (hq : t.queue q.val = qu)
include ht hq

section Spill
variable {x : SlotEntry} (hx : (qu.slots.find? fun e => e.spill) = some x)
include hx

/-- EXTENSION_SPILL with no room left. -/
theorem exec_extensionSpill_stays (hr : ¬ (qu.ext.length < qu.extLen ∧ t.rangeOn (qu.extBase * 256) (qu.extLen * 64) = true)) :
    exec (.extensionSpill tile ⟨q, ecc⟩) s = .next { s with dev := s.dev.modQueue tile.val q.val fun y =>
      { y with slots := y.slots.map fun z => if z.slot = x.slot then { z with spill := false } else z } } :=
  exec_next rfl hl (by
    have hroom : (decide (qu.ext.length < qu.extLen) && t.rangeOn (qu.extBase * 256) (qu.extLen * 64)) = false := by
      simpa using hr
    simp only [ht, hq, hx, hroom, Bool.not_false, if_true])

variable (hr : qu.ext.length < qu.extLen ∧ t.rangeOn (qu.extBase * 256) (qu.extLen * 64) = true)
include hr

/-- With room, and an entry that can be read. -/
theorem exec_extensionSpill_moves (hu : (s.dev.tile tile.val).ueIn (slotOff q.val x.slot) 64 = false) (hecc : ecc ≠ .uncorrectable) :
    exec (.extensionSpill tile ⟨q, ecc⟩) s = .next { s with dev := (
      ((s.dev.entrySpilled tile.val q.val t qu x ecc).notify tile.val x.credit (.credit 1)).feedAll
        ((s.dev.entrySpilled tile.val q.val t qu x ecc).tile tile.val).part) } :=
  exec_next rfl hl (by
    simp only [eccRead_gives _ _ _ _ _ _ _ _ hu hecc, ht, hq, hx, hr, decide_true, Bool.and_self, Bool.not_true, Bool.false_eq_true, if_false]
    rfl)

/-- With room, and one that cannot be read (R259). -/
theorem exec_extensionSpill_contained (hu : (s.dev.tile tile.val).ueIn (slotOff q.val x.slot) 64 = true ∨ ecc = .uncorrectable) :
    exec (.extensionSpill tile ⟨q, ecc⟩) s = .next { s with dev := (
      s.dev.memUe tile.val ((s.dev.tile tile.val).ueAddr (slotOff q.val x.slot) 64) rdMessaging x.frond 0) } :=
  exec_next rfl hl (by
    simp only [Dev.eccRead_contained hu, ht, hq, hx, hr, decide_true, Bool.and_self, Bool.not_true, Bool.false_eq_true, if_false])

end Spill

section Refill
variable {f : Nat} {x : ExtEntry} {j : Nat} (hact : t.active = some f) (hx : (qu.ext.find? fun e => e.frond == f) = some x)
  (hj : qu.freeSlot = some j)
  (hb : qu.before f x.no < qu.spillAt) (h4 : (qu.slots.filter fun y => y.fromExt).length < 4) (hon : t.rangeOn (qu.extOff x.pos) 64 = true)
include hact hx hj hb h4 hon

/-- EXTENSION_REFILL of an entry that can be read: it takes the place of its arrival (R272, R282). -/
theorem exec_extensionRefill_moves (hu : (s.dev.tile tile.val).ueIn (qu.extOff x.pos) 64 = false) (hecc : ecc ≠ .uncorrectable) :
    exec (.extensionRefill tile ⟨q, ecc⟩) s = .next { s with dev := (
      (((s.dev.payloadRead tile.val (qu.extOff x.pos) ecc).modTile tile.val fun y =>
        y.slotWritten q.val j (t.winRead (qu.extOff x.pos) 64)).modQueue tile.val q.val fun y =>
          { y with slots := placeBack { slot := j, tag := x.tag, frond := f, credit := .none_, fromExt := true, spill := false, no := x.no } y.slots
                   ext := y.ext.filter fun z => z.pos != x.pos }).wakeAll tile.val) } :=
  exec_next rfl hl (by
    simp only [eccRead_gives _ _ _ _ _ _ _ _ hu hecc, ht, hq, hact, hx, hj, hb, h4, hon, decide_true, Bool.and_self, if_true]
    rfl)

/-- Of one that cannot be read (R259). -/
theorem exec_extensionRefill_contained (hu : (s.dev.tile tile.val).ueIn (qu.extOff x.pos) 64 = true ∨ ecc = .uncorrectable) :
    exec (.extensionRefill tile ⟨q, ecc⟩) s = .next { s with dev := (
      s.dev.memUe tile.val ((s.dev.tile tile.val).ueAddr (qu.extOff x.pos) 64) rdMessaging f 0) } :=
  exec_next rfl hl (by
    simp only [Dev.eccRead_contained hu, ht, hq, hact, hx, hj, hb, h4, hon, decide_true, Bool.and_self, if_true])

end Refill

end Commands

end Sys2Proof.Machine

open Sys2Proof Sys2Proof.Machine

/-- Settles O30: an arriving entry by its epoch and the queue's state, one that moves by the room for it and the errors in its bytes. -/
theorem entryMoves : Obligations.EntryMoves := by
  intro s tile q hl n qoff read ends bad
  have hread {ecc : Ecc} {off : Nat} (h : ¬ bad ecc off) : (s.dev.tile n).ueIn off 64 = false ∧ ecc ≠ .uncorrectable := by
    simpa [bad] using h
  refine ⟨?_, ?_, ?_⟩
  · intro f rest len ep e data g ha hb d t qu ref tag hheld hclear hpart hgrant hw
    have hopen := Tile.takesArrivals hheld hclear hpart
    rw [exec_queueEntryArrive hl ha hb]
    refine ⟨fun hne => ?_, fun heq hret hc => ?_, fun j heq hret hc hj hx => ?_⟩
    · rw [Dev.entryArrive_stale hopen hgrant hw rfl rfl hne]
    · rw [Dev.entryArrive_closed hopen hgrant hw rfl heq hret hc]
    · rw [Dev.entryArrive_takes hopen hgrant hw rfl heq hret hc hj hx]
      rfl
  · intro x ecc t qu room hx
    exact ⟨fun hr hgood => exec_extensionSpill_moves hl rfl rfl hx hr (hread hgood).1 (hread hgood).2,
      fun hr hbad => exec_extensionSpill_contained hl rfl rfl hx hr hbad, fun hr => exec_extensionSpill_stays hl rfl rfl hx hr⟩
  · intro f x j ecc t qu hact hx hj hb h4 hon
    exact ⟨fun hgood => exec_extensionRefill_moves hl rfl rfl hact hx hj hb h4 hon (hread hgood).1 (hread hgood).2,
      fun hbad => exec_extensionRefill_contained hl rfl rfl hact hx hj hb h4 hon hbad⟩

end

section
/-! PROOF. What contributions, tokens, tally operations, replies and fence notices do at the tile that they reach (R287, R292, R294, R297,
R299 to R301, R504), and the statement about them. -/

namespace Sys2Proof.Machine

variable {d : Dev} {n : Nat}

/-! ### What leaves a tile's hitches as they are -/

/-- The hitches of tile n are in `e` as they are in `d`. -/
def Dev.SameHitches (d e : Dev) (n : Nat) : Prop := (e.tile n).hitches = (d.tile n).hitches

theorem Dev.SameHitches.trans {a b c : Dev} (h : a.SameHitches b n) (h' : b.SameHitches c n) : a.SameHitches c n := Eq.trans h' h

/-- A change that a condition decides, where both of its sides leave them. -/
theorem Dev.SameHitches.ite {a b : Dev} {c : Prop} [Decidable c] (ha : d.SameHitches a n) (hb : d.SameHitches b n) :
    d.SameHitches (if c then a else b) n := by
  split
  · exact ha
  · exact hb

/-- So each hitch is as before. -/
theorem Dev.SameHitches.hitch {e : Dev} (h : d.SameHitches e n) (j : Nat) : (e.tile n).hitch j = (d.tile n).hitch j :=
  congrArg (fun l => mget l Hitch.init j) h

/-- Steps that each leave the hitches leave them together. -/
theorem foldl_sameHitches {α : Type} {g : Dev → α → Dev} (h : ∀ (d : Dev) (x : α), d.SameHitches (g d x) n) (l : List α) (d : Dev) :
    d.SameHitches (l.foldl g d) n := by
  induction l generalizing d with
  | nil => rfl
  | cons x l ih => exact (h d x).trans (ih _)

/-- A change of the tile that leaves its hitches. -/
theorem Dev.modTile_sameHitches (d : Dev) {g : Tile → Tile} (h : ∀ t, (g t).hitches = t.hitches) :
    d.SameHitches (d.modTile n g) n := by
  rw [Dev.SameHitches, Dev.tile_modTile_same, h]

theorem Dev.modStrand_sameHitches (d : Dev) (n f k : Nat) (g : Strand → Strand) : d.SameHitches (d.modStrand n f k g) n :=
  d.modTile_sameHitches fun _ => rfl

/-- The ends of waits change their strand alone. -/
theorem Dev.finish_sameHitches (d : Dev) (n f k rd : Nat) (v : Word) (st : Byte) : d.SameHitches (d.finish n f k rd v st) n :=
  .ite rfl (d.modStrand_sameHitches ..)

theorem Dev.finishPlain_sameHitches (d : Dev) (n f k : Nat) : d.SameHitches (d.finishPlain n f k) n :=
  .ite rfl (d.modStrand_sameHitches ..)

/-- So does the waking of a strand, by what it waits for (R85). -/
theorem Dev.wakeStrand_sameHitches (d : Dev) (n f k : Nat) : d.SameHitches (d.wakeStrand n f k) n := by
  have hends (rd : Nat) (v : Word) (st : Byte) (g : Strand → Strand) : d.SameHitches (let d := d.finish n f k rd v st
      if d.stoppedF n f then d else d.modStrand n f k g) n :=
    (d.finish_sameHitches n f k rd v st).trans (.ite rfl (Dev.modStrand_sameHitches ..))
  cases hop : ((d.tile n).strand f k).op
  all_goals simp only [Dev.wakeStrand, hop]
  case poll => exact .ite rfl (d.finish_sameHitches ..)
  case hitch => exact .ite (d.finish_sameHitches ..) (.ite (hends ..) rfl)
  case completion => exact .ite (hends ..) rfl
  case fence => exact .ite (d.finishPlain_sameHitches ..) rfl
  case store => exact .ite ((d.modStrand_sameHitches ..).trans (Dev.finishPlain_sameHitches ..)) rfl
  all_goals rfl

theorem Dev.wakeAll_sameHitches (d : Dev) (n : Nat) : d.SameHitches (d.wakeAll n) n := by
  unfold Dev.wakeAll
  split
  · exact foldl_sameHitches (fun d k => d.wakeStrand_sameHitches ..) _ d
  · rfl

theorem Dev.enterRouter_sameHitches (d : Dev) (n : Nat) : d.SameHitches (d.enterRouter n) n := by
  rw [Dev.SameHitches, Dev.enterRouter, Dev.tile_modTile_same]
  rfl

/-- A flit that leaves the tile stands in its outbox, or in the router's input. -/
theorem Dev.inject_sameHitches (d : Dev) (n : Nat) (fl : Flit) : d.SameHitches (d.inject n fl) n :=
  (d.modTile_sameHitches (g := fun t => { t with outbox := t.outbox ++ [fl] }) fun _ => rfl).trans (Dev.enterRouter_sameHitches ..)

/-- A notice goes out as a flit, as an item for another device, or to the host endpoint. -/
theorem Dev.notify_sameHitches (d : Dev) (n : Nat) (ref : CreditRef) (k : Note) : d.SameHitches (d.notify n ref k) n := by
  cases ref with
  | none_ => rfl
  | local_ t f e => exact d.inject_sameHitches ..
  | remote c t f e => exact d.modTile_sameHitches fun _ => rfl
  | host p => cases k <;> rfl

/-! ### Fence notices (R287, R299, R504) -/

/-- A map listed from its keys. -/
theorem mget_map {α : Type} (g : Nat → α) (z : α) {l : List Nat} {k : Nat} (hk : k ∈ l) : mget (l.map fun i => (i, g i)) z k = g k := by
  induction l with
  | nil => exact absurd hk List.not_mem_nil
  | cons i l ih =>
    rw [List.map_cons, mget]
    split
    case isTrue h => rw [h]
    case isFalse h => exact ih ((List.mem_cons.1 hk).resolve_left (Ne.symm h))

/-- The notice revokes each of the tile's hitches (R299). -/
theorem Dev.fenceLeases_hitch (d : Dev) (n b : Nat) {h : Nat} (hh : h < 32) :
    (((d.fenceLeases n b).tile n).hitch h).revoked = true ∧ (((d.fenceLeases n b).tile n).hitch h).expect = 0 := by
  rw [Dev.fenceLeases, Dev.tile_modTile_same, Tile.hitch, mget_map _ _ (List.mem_range.2 hh)]
  exact ⟨rfl, rfl⟩

/-- What else it does leaves them so. -/
theorem Dev.fenceNotice_sameHitches (d : Dev) (n b : Nat) : (d.fenceLeases n b).SameHitches (d.fenceNotice n b) n := by
  unfold Dev.fenceNotice
  refine Dev.SameHitches.trans ?_ (Dev.wakeAll_sameHitches _ n)
  refine Dev.SameHitches.trans ?_ (Dev.modTile_sameHitches _ fun _ => rfl)
  refine Dev.SameHitches.trans ?_ (foldl_sameHitches (fun d k => ?_) _ _)
  refine Dev.SameHitches.trans ?_ (foldl_sameHitches (fun d k => ?_) _ _)
  refine foldl_sameHitches (fun d k => ?_) _ _
  · dsimp only
    split
    · exact .ite (d.finish_sameHitches ..) rfl
    · rfl
  · exact .ite rfl (d.modStrand_sameHitches ..)
  · refine .ite ?_ rfl
    refine Dev.SameHitches.trans ?_ (foldl_sameHitches (fun d g => d.notify_sameHitches ..) _ _)
    refine Dev.SameHitches.trans ?_ (foldl_sameHitches (fun d g => .ite rfl (d.notify_sameHitches ..)) _ _)
    exact d.modTile_sameHitches (g := fun t => t.modSplice k fun z => { z with entries := z.entries.filter fun e => e.2.done }) fun _ => rfl

/-! ### Tokens (R297) -/

/-- The device with one generation of the hitch complete. -/
def Dev.advanced (d : Dev) (n h : Nat) : Dev :=
  (d.modTile n fun t => t.modHitch h fun x => { x with gen := (x.gen + 1) % 2 ^ 16, count := x.count - x.expect }).wakeAll n

section Hitch
variable {h : Nat} {x : Hitch} (hx : (d.tile n).hitch h = x)
include hx

/-- A hitch that does not count, or whose EXPECT is not reached, completes no generation. -/
theorem Dev.hitchRun_rests (hr : x.expect = 0 ∨ x.count < x.expect) (k : Nat) : d.hitchRun n h k = d := by
  subst hx
  cases k with
  | zero => rfl
  | succ k => exact if_neg (by simp only [Bool.and_eq_true, decide_eq_true_eq]; omega)

/-- The waits that end leave what is left to count. -/
theorem Dev.advanced_hitch :
    ((d.advanced n h).tile n).hitch h = { x with gen := (x.gen + 1) % 2 ^ 16, count := x.count - x.expect } := by
  rw [Dev.advanced, (Dev.wakeAll_sameHitches _ n).hitch h, Dev.tile_modTile_same, Tile.hitch_modHitch_same, hx]

/-- A count from EXPECT up to twice it completes one generation. -/
theorem Dev.hitchRun_once (h0 : 0 < x.expect) (h1 : x.expect ≤ x.count) (h2 : x.count < 2 * x.expect) {k : Nat} (hk : 0 < k) :
    d.hitchRun n h k = d.advanced n h := by
  obtain ⟨k, rfl⟩ := Nat.exists_eq_succ_of_ne_zero hk.ne'
  have hrests : (d.advanced n h).hitchRun n h k = d.advanced n h :=
    Dev.hitchRun_rests (Dev.advanced_hitch hx) (.inr (by dsimp only; omega)) k
  subst hx
  exact (if_pos (by simp [h0, h1])).trans hrests

end Hitch

/-- The device with `k` more tokens counted. -/
def Dev.tokenCounted (d : Dev) (n h k : Nat) : Dev := d.modTile n fun t => t.modHitch h fun x => { x with count := x.count + k }

theorem Dev.tokenCounted_hitch (d : Dev) (n h k : Nat) :
    ((d.tokenCounted n h k).tile n).hitch h = { (d.tile n).hitch h with count := ((d.tile n).hitch h).count + k } := by
  rw [Dev.tokenCounted, Dev.tile_modTile_same, Tile.hitch_modHitch_same]

/-- Tokens for which COUNT has room. -/
theorem Dev.tokens_taken {h k : Nat} (hopen : ((d.tile n).held || (d.tile n).clearing || (d.tile n).part == 0) = false)
    (hmax : ((d.tile n).hitch h).count + k ≤ 131071) :
    d.tokens n h k = (d.tokenCounted n h k).hitchRun n h (((d.tile n).hitch h).count + k) := by
  have htake : min k (131071 - ((d.tile n).hitch h).count) = k := by omega
  simp only [Dev.tokens, hopen, htake, Nat.lt_irrefl, Bool.false_eq_true, if_false]
  rfl

/-! ### Contributions (R292, R294) -/

/-- The routes of a contribution's writers. -/
def writerRefs (ws : List (Nat × Nat × Nat)) : List CreditRef := ws.map fun w => .local_ w.1 w.2.1 w.2.2

/-- The tiles of a contribution's writers, as they are read from their routes. -/
theorem writerRefs_filterMap (ws : List (Nat × Nat × Nat)) {p : CreditRef → Option Nat} (hp : ∀ t f e, p (.local_ t f e) = some t) :
    (writerRefs ws).filterMap p = ws.map (·.1) := by
  induction ws with
  | nil => rfl
  | cons w ws ih => exact (List.filterMap_cons_some (hp ..)).trans (congrArg (w.1 :: ·) ih)

/-- None of a contribution's writers stands on a fenced tile. -/
theorem writers_notFenced {ws : List (Nat × Nat × Nat)} (h : ∀ w ∈ ws, (d.tile w.1).fenced = false) :
    ((ws.map (·.1)).any fun m => (d.tile m).fenced) = false := by
  simpa using fun t f e hw => h (t, f, e) hw

/-- The contribution's sequence number lies in the splice's window, and its entry is not complete and has room for its weight. -/
def Splice.takes (z : Splice) (x : SpliceEntry) (seq w : Nat) : Prop :=
  (seq + 2 ^ 16 - z.head) % 2 ^ 16 < 32 ∧ x.weight + w ≤ z.cnt ∧ x.done = false

/-- The entry with a contribution added value by value. -/
def SpliceEntry.plus (x : SpliceEntry) (w : Nat) (vs : List Nat) (srcs : List Nat) : SpliceEntry :=
  { x with
    weight := x.weight + w
    sums := (List.range 64).map fun i => (x.sums.getD i ExactSum.init).plus (vs.getD i 0)
    credits := x.credits ++ srcs }

section Contribution
variable {ws : List (Nat × Nat × Nat)} {k seq w : Nat} {vs : List Nat} {z : Splice} {x : SpliceEntry}
  (hopen : ((d.tile n).held || (d.tile n).clearing || (d.tile n).part == 0) = false)
  (hws : ((ws.map (·.1)).any fun m => (d.tile m).fenced) = false) (hz : (d.tile n).splice k = z) (hx : mget z.entries SpliceEntry.init seq = x)
  (hv : z.valid = true) (hret : ((d.tile n).frond z.frond).retired = false)
include hopen hws hz hx hv hret

/-- One that fits is added exactly into its entry. -/
theorem Dev.contribArrive_adds (hin : z.takes x seq w) (hs : x.sums ≠ []) : d.contribArrive n k seq w vs (writerRefs ws) =
    d.modTile n fun t => t.modSplice k fun y => { y with entries := mset y.entries seq (x.plus w vs (ws.map (·.1))) } := by
  obtain ⟨hseq, hweight, hdone⟩ := hin
  have hsums : x.sums.isEmpty = false := by simpa using hs
  simp only [Dev.contribArrive, writerRefs_filterMap, hopen, hws, hz, hx, hv, hret, hdone, hsums, Nat.not_le.2 hseq,
    Nat.not_lt.2 hweight, SpliceEntry.plus, implies_true, decide_false, Bool.not_true, Bool.or_self, Bool.false_eq_true, if_false]

/-- Another is discarded and counted, with OVER set. -/
theorem Dev.contribArrive_over (hout : ¬ z.takes x seq w) : d.contribArrive n k seq w vs (writerRefs ws) =
    d.modTile n fun t => t.modSplice k fun y => { y with overs := true, dropped := y.dropped + 1 } := by
  have hover : (decide (32 ≤ (seq + 2 ^ 16 - z.head) % 2 ^ 16) || decide (z.cnt < x.weight + w) || x.done) = true := by
    simp only [Splice.takes, not_and_or, Nat.not_lt, Nat.not_le, Bool.not_eq_false] at hout
    simpa [or_assoc] using hout
  simp only [Dev.contribArrive, writerRefs_filterMap, hopen, hws, hz, hx, hv, hret, hover,
    implies_true, Bool.not_true, Bool.or_self, Bool.false_eq_true, if_false, if_true]

end Contribution

/-! ### The commands -/

section Commands
variable {s : State} {tile : TileId} (hl : s.dev.live = true)
include hl

/-- SPLICE_ENTRY_COMPLETE of the first entry whose weights have reached CNT (R292, R295). -/
theorem exec_spliceEntryComplete {k : Fin 16} {seq : Nat} {x : SpliceEntry}
    (hx : (((s.dev.tile tile.val).splice k.val).entries.find? fun e => !e.2.done && e.2.weight == ((s.dev.tile tile.val).splice k.val).cnt) =
      some (seq, x)) :
    exec (.spliceEntryComplete tile k) s = .next { s with dev := (
      (s.dev.modTile tile.val fun t =>
        { t with smem := cwrite t.smem (spliceOff k.val seq) (x.sums.flatMap fun v => leBytes 4 v.value)
                 bad := coveredWords t.bad (spliceOff k.val seq) 256 }).modTile tile.val fun t => t.modSplice k.val fun y =>
        { y with entries := mset y.entries seq { x with done := true, sums := [] } }) } :=
  exec_next rfl hl (by simp only [hx])

variable {fl : Flit} {rest : List Flit} (ha : s.dev.oldestIs tile.val fl rest)
include ha

/-- SPLICE_CONTRIBUTION_ARRIVE of the contribution of its writers. -/
theorem exec_spliceContributionArrive {k seq w e : Nat} {vs : List Nat} (hb : fl.body = .contrib k seq w e vs) :
    exec (.spliceContributionArrive tile) s =
      .next { s with dev := (s.dev.took tile.val rest).contribArrive tile.val k seq w vs (writerRefs fl.writers) } :=
  exec_takes rfl hl ha (by rintro ⟨⟩ <;> simp [hb, FlitBody.kind]) (by rw [hb]; rfl)

/-- HITCH_TOKEN_ARRIVE of `k` tokens. -/
theorem exec_hitchTokenArrive {h k : Nat} (hb : fl.body = .hitch h k) :
    exec (.hitchTokenArrive tile) s = .next { s with dev := (s.dev.took tile.val rest).tokens tile.val h k } :=
  exec_takes rfl hl ha (by rintro ⟨⟩ <;> simp [hb, FlitBody.kind]) (by rw [hb])

/-- FENCE_NOTICE of the fenced tile `b`. -/
theorem exec_fenceNotice {b : Nat} (hb : fl.body = .fence b) :
    exec (.fenceNotice tile) s = .next { s with dev := (s.dev.took tile.val rest).fenceNotice tile.val b } :=
  exec_takes rfl hl ha (by rintro ⟨⟩ <;> simp [hb, FlitBody.kind]) (by rw [hb])

/-- TALLY_OP_ARRIVE at a tile that is neither held nor clearing: the reply holds the value from before (R300, R301). -/
theorem exec_tallyOpArrive {isSet : Bool} {y st : Nat} {v : Word} (hb : fl.body = .tally isSet y v st)
    (hheld : ((s.dev.took tile.val rest).tile tile.val).held = false)
    (hclear : ((s.dev.took tile.val rest).tile tile.val).clearing = false) :
    exec (.tallyOpArrive tile) s = .next { s with dev := (
      ((s.dev.took tile.val rest).modTile tile.val fun t =>
        { t with tallies := mset t.tallies y (if isSet = true then v else t.tally y + v) }).sendNote tile.val fl.frond fl.src y 0
          (.tallyReply (((s.dev.took tile.val rest).tile tile.val).tally y) stOk st)) } :=
  exec_takes rfl hl ha (by rintro ⟨⟩ <;> simp [hb, FlitBody.kind])
    (by simp only [hb, hheld, hclear, Bool.or_self, Bool.false_eq_true, if_false]; rfl)

section Reply
variable {v : Word} {st : Byte} {k : Nat} {y : Strand} (hb : fl.body = .tallyReply v st k)
  (hf : (s.dev.took tile.val rest).stoppedF tile.val fl.frond = false)
  (hy : ((s.dev.took tile.val rest).tile tile.val).strand fl.frond (k % 8) = y)
include hb hf hy

/-- TALLY_REPLY_ARRIVE for a strand that waits for the reply. -/
theorem exec_tallyReplyArrive_ends {set : Bool} (hlate : (k / 8, fl.src) ∉ y.late) (hop : y.op = .tally (k / 8) set fl.src)
    (hw : y.st = .wait) : exec (.tallyReplyArrive tile) s = .next { s with dev :=
      ((s.dev.took tile.val rest).modStrand tile.val fl.frond (k % 8) fun y => (y.answered (k / 8) v st).resumed) } := by
  have hlate' : y.late.contains (k / 8, fl.src) = false := by simpa using hlate
  refine exec_takes rfl hl ha (by rintro ⟨⟩ <;> simp [hb, FlitBody.kind]) ?_
  simp only [hb, hy, hlate', hop, decide_true, Bool.and_self, Bool.false_eq_true, if_false, if_true]
  exact Dev.finish_waiting _ _ _ _ hf (hy ▸ hw)

/-- For one that was halted in that wait: a later wait is left alone (R86). -/
theorem exec_tallyReplyArrive_late (hlate : (k / 8, fl.src) ∈ y.late) :
    exec (.tallyReplyArrive tile) s = .next { s with dev := (
      (s.dev.took tile.val rest).modStrand tile.val fl.frond (k % 8) fun y =>
        { y.answered (k / 8) v st with late := dropFirst (fun e => e == (k / 8, fl.src)) y.late }) } := by
  have hlate' : y.late.contains (k / 8, fl.src) = true := by simpa using hlate
  refine exec_takes rfl hl ha (by rintro ⟨⟩ <;> simp [hb, FlitBody.kind]) ?_
  simp only [hb, hy, hlate', hf, Bool.false_eq_true, if_false, if_true]
  rfl

end Reply

end Commands

end Sys2Proof.Machine

open Sys2Proof Sys2Proof.Machine

/-- Settles O31: each arrival by what its flit carries and the object that it finds, a complete entry by its weights. -/
theorem arrivals : Obligations.Arrivals := by
  intro s tile hl n now
  refine ⟨fun f rest ha => ?_, fun k seq x => exec_spliceEntryComplete hl⟩
  intro d t
  refine ⟨?_, ?_, ?_, ?_, ?_⟩
  · intro k seq w e vs hb hheld hclear hpart hws z x hv hret inside
    have hopen := Tile.takesArrivals hheld hclear hpart
    have hnone := writers_notFenced hws
    rw [exec_spliceContributionArrive hl ha hb]
    exact ⟨fun hout => by rw [Dev.contribArrive_over hopen hnone rfl rfl hv hret hout],
      fun hin hs => by rw [Dev.contribArrive_adds hopen hnone rfl rfl hv hret hin hs]; rfl⟩
  · intro h k hb hheld hclear hpart x hmax d'
    have hx : ((d.tokenCounted n h k).tile n).hitch h = { x with count := x.count + k } := d.tokenCounted_hitch n h k
    rw [exec_hitchTokenArrive hl ha hb, Dev.tokens_taken (Tile.takesArrivals hheld hclear hpart) hmax]
    refine ⟨fun hr => ?_, fun h0 h1 h2 => ?_⟩
    · rw [Dev.hitchRun_rests hx hr]
      rfl
    · rw [Dev.hitchRun_once hx h0 h1 h2 (Nat.lt_of_lt_of_le h0 h1)]
      rfl
  · intro isSet y v st hb hheld hclear
    exact exec_tallyOpArrive hl ha hb hheld hclear
  · intro v st k hb hf z
    exact ⟨fun set hlate hop hw => exec_tallyReplyArrive_ends hl ha hb hf rfl hlate hop hw,
      fun hlate => exec_tallyReplyArrive_late hl ha hb hf rfl hlate⟩
  · intro b hb
    refine ⟨_, exec_fenceNotice hl ha hb, rfl, fun h hh => ?_⟩
    have hhitch : ((d.fenceNotice n b).tile n).hitch h = ((d.fenceLeases n b).tile n).hitch h := (d.fenceNotice_sameHitches n b).hitch h
    rw [hhitch]
    exact d.fenceLeases_hitch n b hh

end

section
/-! PROOF. When a stalled send sends its probe, and what the probed tile finds (R288, R289), and the statement about them. -/

namespace Sys2Proof.Machine

variable {s : State} {tile : TileId}

/-! ### A probe is sent (R288) -/

/-- The number of the one who waits: a strand's, or 8 for the matrix engine. -/
def waiterNo : Option StrandId → Nat
  | some k => k.val
  | none => 8

/-- The flit of a probe for the waiter `who` along route `r` (R288). -/
def Dev.probeFlit (d : Dev) (n who : Nat) (w : StallWait) (r : Route) : Flit :=
  { d.mkFlit n .c w.frond 0 r.dest 0 (.probe who r.index n (w.frond * 128 + w.entry)) with seq := r.epoch }

section Probe
variable {k : Option StrandId} {w : StallWait} {limit : Nat} {r : Route} (hl : s.dev.live = true) (hlimit : s.dev.stallLimit tile.val = limit)
  (hr : (s.dev.tile tile.val).route w.frond w.entry = r) (hw : (s.dev.tile tile.val).stallWait limit (waiterNo k) = some w)
  (hdue : w.since + limit * ((s.dev.tile tile.val).probesOf w + 1) ≤ s.dev.tick)
include hl hlimit hr hw hdue

/-- STALL_PROBE for a send on a remote queue: counted (R289). -/
theorem exec_stallProbe_remote (hrem : r.remote = true) : exec (.stallProbe tile k) s =
    .next { s with dev := (s.dev.modTile tile.val fun t => t.probeSent w).msgCount tile.val 6 1 } := by
  subst hlimit
  refine exec_next rfl hl ?_
  cases k <;>
  · dsimp only [waiterNo] at hw
    simp only [hw, Dev.toTick_past _ hdue, hr, hrem, if_true]

/-- For a send on a route to one tile: the probe goes there. -/
theorem exec_stallProbe_sends (hrem : r.remote = false) (hm : r.mcast = false) : exec (.stallProbe tile k) s =
    .next { s with dev := ((s.dev.modTile tile.val fun t => t.probeSent w).inject tile.val
      ((s.dev.modTile tile.val fun t => t.probeSent w).probeFlit tile.val (waiterNo k) w r)) } := by
  subst hlimit
  refine exec_next rfl hl ?_
  cases k <;>
  · dsimp only [waiterNo] at hw
    simp only [hw, Dev.toTick_past _ hdue, hr, hrem, hm, Bool.false_eq_true, if_false]
    rfl

end Probe

/-! ### A probe arrives (R289) -/

/-- The record of a mutual stall of the waiter `w` of tile `a`, probed for queue `q`, and the waiter `v` of tile n (R289). -/
def Dev.mutualRec (d : Dev) (n a who q : Nat) (w v : StallWait) : FltRec :=
  { cls := 7, sev := 3, part := (d.tile n).part, tile := some a
    detail := leBytes 1 a ++ leBytes 1 who ++ leBytes 1 q ++ [0] ++ leBytes 1 n ++ leBytes 1 v.who ++
      leBytes 1 ((d.tile n).route v.frond v.entry).index ++ [0] ++ leBytes 4 (min (d.tick - w.since) (2 ^ 32 - 1)) }

section Arrive
variable {fl : Flit} {rest : List Flit} {who q a e : Nat} {d : Dev} (hl : s.dev.live = true) (ha : s.dev.oldestIs tile.val fl rest)
  (hb : fl.body = .probe who q a e) (hd : s.dev.took tile.val rest = d)
include hl ha hb hd

/-- The waiter is gone. -/
theorem exec_stallProbeArrive_gone (hw : (d.tile a).stallWait (d.stallLimit a) who = none) :
    exec (.stallProbeArrive tile) s = .next { s with dev := d.msgCount tile.val 6 1 } :=
  exec_takes rfl hl ha (by rintro ⟨⟩ <;> simp [hb, FlitBody.kind]) (by simp only [hb, hd, hw])

variable {w : StallWait} (hw : (d.tile a).stallWait (d.stallLimit a) who = some w) (he : w.frond * 128 + w.entry = e)
include hw he

/-- Another send than the waiter's own is stalled on the waiter's tile: both are handled once their stall is recorded. -/
theorem exec_stallProbeArrive_mutual {v : StallWait} (hv : d.stalledTo tile.val a = some v) (hne : ¬ (tile.val = a ∧ v.who = w.who)) :
    exec (.stallProbeArrive tile) s =
      .next { s with dev := ((d.log (d.mutualRec tile.val a who q w v)).stallHandle a w).stallHandle tile.val v } := by
  have hself : ¬ (decide (tile.val = a) && decide (v.who = w.who)) = true := by simpa using hne
  refine exec_takes rfl hl ha (by rintro ⟨⟩ <;> simp [hb, FlitBody.kind]) ?_
  simp only [hb, hd, hw, he, hv, hself, if_true]
  rfl

/-- No send is, and the waiter's route leads to no queue, which could be one of a join (R364). -/
theorem exec_stallProbeArrive_alone (hv : d.stalledTo tile.val a = none) (ht : ((d.tile a).route w.frond w.entry).type ≠ rtQueue) :
    exec (.stallProbeArrive tile) s = .next { s with dev := d.msgCount tile.val 6 1 } :=
  exec_takes rfl hl ha (by rintro ⟨⟩ <;> simp [hb, FlitBody.kind]) (by simp only [hb, hd, hw, he, hv, ht, if_true, if_false])

end Arrive

end Sys2Proof.Machine

open Sys2Proof Sys2Proof.Machine

/-- Settles O32: a probe by the route that its send waits on, its arrival by the waiters that it finds. -/
theorem stallProbes : Obligations.StallProbes := by
  intro s tile k w hl n limit r k'
  refine ⟨fun hw hdue => ?_, fun f rest who q a e ha hb => ?_⟩
  · exact ⟨exec_stallProbe_remote hl rfl rfl hw hdue, exec_stallProbe_sends hl rfl rfl hw hdue⟩
  · exact ⟨exec_stallProbeArrive_gone hl ha hb rfl, fun hw he =>
      ⟨fun v hv hne => exec_stallProbeArrive_mutual hl ha hb rfl hw he hv hne,
        fun hv ht => exec_stallProbeArrive_alone hl ha hb rfl hw he hv ht⟩⟩

end

section
/-! PROOF. How a flit is received, sent and replayed, and how contributions are reduced (R312 to R317, R321, R322, R324, R326), and the
statement about them. -/

namespace Sys2Proof.Machine

/-! ### What a change of a router leaves alone -/

/-- The tiles keep their positions. -/
@[simp] theorem Dev.modRouter_hostOf (d : Dev) (r : Nat) (g : Router → Router) (ph : Nat) : (d.modRouter r g).hostOf ph = d.hostOf ph := rfl

/-- The paths stay as they are. -/
@[simp] theorem Dev.modRouter_nextDir (d : Dev) (r : Nat) (g : Router → Router) (r' n : Nat) :
    (d.modRouter r g).nextDir r' n = d.nextDir r' n := rfl

/-- A change of the lane of class `cls` at output `o` of router `r`. -/
def Dev.modLaneOf (d : Dev) (r : Nat) (o : Dir) (cls : FClass) (g : Lane → Lane) : Dev :=
  d.modRouter r fun x => x.modChan o fun y => y.modLane cls g

/-! ### Hitch flits (R314) -/

/-- One output of a router is a given one. -/
theorem allDirs_filter_eq (o : Dir) : (allDirs.filter fun b => o == b) = [o] := by
  cases o <;> decide

/-- A hitch flit that is alone at its output, and goes to one tile, leaves as it is. -/
theorem Dev.sendHitch_alone {d : Dev} {r h k n : Nat} {o i : Dir} {f : Flit} (ha : d.ready r o .hitch = [(i, f)]) (hb : f.body = .hitch h k)
    (hd : f.dests = [n]) (ho : d.nextDir r n = o) :
    d.sendHitch r o = (d.modRouter r fun x => x.dropHead i f).leaveBy r f (o, [n]) := by
  have hf : ({ f with body := .hitch h k, dests := [n] } : Flit) = f := by rw [← hb, ← hd]
  simp [Dev.sendHitch, ha, hb, hd, ho, allDirs_filter_eq, hf, List.eraseDups_cons]

/-! ### Reductions (R326) -/

/-- The reduction entry for splice `z` takes a change, in router `r`. -/
def Dev.modRed (d : Dev) (r : Nat) (z : TileId × Fin 16) (g : Reduction → Reduction) : Dev :=
  d.modRouter r fun x => { x with reds := x.reds.map fun y => if y.1 = z.1.val * 16 + z.2.val then (y.1, g y.2) else y }

/-- Contribution `f` of input `i` is no longer held. -/
def Reduction.without (e : Reduction) (i : Dir) (f : Flit) : Reduction := { e with bufs := dropFirst (fun y => y == (i, f)) e.bufs }

/-- Router r's own input has no room for a sum. -/
def Dev.sumsFull (d : Dev) (r : Nat) : Bool := decide (8 ≤ (((d.router r).inputQ .l .g).filter fun g => !g.mcast).length)

/-- The first contributions of two inputs that hold one each. -/
theorem map_find_heldOf {i j : Dir} (f g : Flit) (hne : i ≠ j) :
    ([i, j].map fun x => [(i, f), (j, g)].find? fun b => b.1 == x) = [some (i, f), some (j, g)] := by
  simp [hne]

/-- Where they have one sequence number, both are the parts of a sum. -/
theorem filterMap_heldOf {i j : Dir} {f g : Flit} (hne : i ≠ j) (hseq : contribSeq f = contribSeq g) :
    ([i, j].filterMap fun x => [(i, f), (j, g)].find? fun b => b.1 == x && contribSeq b.2 == contribSeq f) = [(i, f), (j, g)] := by
  simp [hne, hseq]

/-! ### The commands -/

section Commands
variable {s : State} {r : RouterId} {dir : Dir} {cls : FClass} (hl : s.dev.live = true)
include hl

section Receive
variable {f : Flit} {rest : List Flit} {r' : Nat} {o : Dir} (hsrc : meshSource r.val dir = some (r', o))
  (hfly : (((s.dev.router r').chan o).lane cls).fly = f :: rest) (hwait : (((s.dev.router r').chan o).lane cls).wait = false)
include hsrc hfly hwait

/-- FLIT_RECEIVE of a flit that passes its CRC. -/
theorem exec_flitReceive_passes : exec (.flitReceive r dir cls true) s = .next (s.metered
    ((s.dev.modLaneOf r' o cls fun l => { l with fly := rest, replays := 0 }).takeFlit r.val dir f)) :=
  exec_nextM rfl hl (by simp only [hsrc, hfly, hwait, Bool.false_eq_true, if_false, if_true]; rfl)

/-- Of one that fails it. -/
theorem exec_flitReceive_fails {n : Nat} (hn : s.dev.hostOf r.val = some n) : exec (.flitReceive r dir cls false) s = .next (s.metered
    ((s.dev.modLaneOf r' o cls fun l => { l with wait := true }).add (MESH_R_ERR_CRC n) 1)) :=
  exec_nextM rfl hl (by simp only [hsrc, hfly, hwait, Dev.modRouter_hostOf, hn, Bool.false_eq_true, if_false]; rfl)

end Receive

section Forward

/-- FLIT_FORWARD of class C. -/
theorem exec_flitForward_c {i : Dir} {f : Flit} (h : s.dev.nextFlit r.val dir .c = some (i, f)) :
    exec (.flitForward r dir .c) s = .next (s.metered (s.dev.sendOn r.val i f)) :=
  exec_nextM rfl hl (by simp only [h])

/-- Of class HITCH. -/
theorem exec_flitForward_hitch : exec (.flitForward r dir .hitch) s = .next (s.metered (s.dev.sendHitch r.val dir)) :=
  exec_nextM rfl hl rfl

variable (hcls : cls ∈ [FClass.m, .q, .g, .t]) {k : FClass} (hk : s.dev.dataClass r.val dir = some k)
include hcls hk

/-- Of a data-path class that the output's round does not serve now. -/
theorem exec_flitForward_unserved (hne : k ≠ cls) : exec (.flitForward r dir cls) s = .next (s.metered s.dev) := by
  simp only [List.mem_cons, List.not_mem_nil, or_false] at hcls
  rcases hcls with rfl | rfl | rfl | rfl <;> exact exec_nextM rfl hl (by simp only [hk, hne, if_false])

/-- Of the one that it serves. -/
theorem exec_flitForward_served {i : Dir} {f : Flit} (he : k = cls) (h : s.dev.nextFlit r.val dir cls = some (i, f)) :
    exec (.flitForward r dir cls) s = .next (s.metered (s.dev.sendOn r.val i f)) := by
  simp only [List.mem_cons, List.not_mem_nil, or_false] at hcls
  rcases hcls with rfl | rfl | rfl | rfl <;> exact exec_nextM rfl hl (by simp only [hk, he, h, if_true])

end Forward

section Replay
variable {f : Flit} {rest : List Flit} {r' : Nat} {i : Dir} (hwait : (((s.dev.router r.val).chan dir).lane cls).wait = true)
  (hfly : (((s.dev.router r.val).chan dir).lane cls).fly = f :: rest) (hnext : meshNeighbour r.val dir = some (r', i))
  {d : Dev} (hd : (s.dev.countReplay r.val dir).laneReplay r.val dir = d)
include hwait hfly hnext hd

/-- FLIT_REPLAY on a channel that fails as the replay is counted. -/
theorem exec_flitReplay_lost (hfail : ((d.router r.val).chan dir).failed = true) (ok : Bool) :
    exec (.flitReplay r dir cls ok) s = .next (s.metered d) :=
  exec_nextM rfl hl (by simp only [hwait, hfly, hnext, hd, hfail, if_true])

variable (hfail : ((d.router r.val).chan dir).failed = false)
include hfail

/-- A replay that passes its CRC. -/
theorem exec_flitReplay_passes : exec (.flitReplay r dir cls true) s = .next (s.metered
    ((d.modLaneOf r.val dir cls fun l => { l with fly := rest, wait := false, replays := 0 }).takeFlit r' i f)) :=
  exec_nextM rfl hl (by simp only [hwait, hfly, hnext, hd, hfail, Bool.false_eq_true, if_false, if_true]; rfl)

/-- One that fails it; the eighth in a row is the channel's last. -/
theorem exec_flitReplay_fails {n : Nat} (hn : d.hostOf r' = some n) : exec (.flitReplay r dir cls false) s = .next (s.metered (
    let e := (d.modLaneOf r.val dir cls fun l => { l with replays := l.replays + 1 }).add (MESH_R_ERR_CRC n) 1
    if 8 ≤ (((s.dev.router r.val).chan dir).lane cls).replays + 1 then e.failChannel r.val dir else e)) :=
  exec_nextM rfl hl (by simp only [hwait, hfly, hnext, hd, hfail, Dev.modRouter_hostOf, hn, Bool.false_eq_true, if_false]; rfl)

end Replay

section Reduce
variable {z : TileId × Fin 16} {i j : Dir} {f g sum : Flit} {e : Reduction} (he : (s.dev.router r.val).red z.1.val z.2.val = some e)
  (hin : (allDirs.filter fun x => e.inputs.contains x) = [i, j]) (hlen : e.inputs.length = 2) (hrev : e.revoked = false) (hne : i ≠ j)
  (hbufs : e.bufs = [(i, f), (j, g)]) (hseq : contribSeq f = contribSeq g) (hsum : combine [f, g] = some sum)
include he hin hlen hrev hne hbufs hseq hsum

/-- REDUCTION_COMBINE of an entry that holds a contribution of each of its two inputs: their sum leaves at its tile's router, and joins
the router's own input elsewhere, where there is room. -/
theorem exec_reductionCombine_combines (hroom : s.dev.nextDir r.val z.1.val = .l ∨ s.dev.sumsFull r.val = false) :
    exec (.reductionCombine r z) s = .next (s.metered (
      let d := s.dev.modRed r.val z fun y => (y.without i f).without j g
      (if s.dev.nextDir r.val z.1.val = .l then d.leaveBy r.val sum (.l, [z.1.val])
       else d.modRouter r.val fun x => x.setInputQ .l .g (x.inputQ .l .g ++ [sum])).refill r.val)) := by
  have hroom : ¬ (e.revoked || decide ([(i, f), (j, g)].length < e.inputs.length) ||
      (s.dev.nextDir r.val z.1.val != .l && s.dev.sumsFull r.val)) = true := by
    rcases hroom with h | h <;> simp [hrev, hlen, h]
  refine exec_nextM rfl hl ?_
  simp only [he, hin, hbufs, map_find_heldOf f g hne, filterMap_heldOf hne hseq]
  refine (if_neg hroom).trans ?_
  simp only [List.map_cons, List.map_nil, hsum]
  rfl

end Reduce

end Commands

end Sys2Proof.Machine

open Sys2Proof Sys2Proof.Machine

/-- Settles O33: a flit received or replayed by its CRC, one sent by the rule of its class, and a reduction of two inputs by where its
sum goes. -/
theorem meshMoves : Obligations.MeshMoves := by
  intro s r dir hl now laneTo
  refine ⟨fun cls f rest r' o hsrc hfly hwait => ?receive, fun i f => exec_flitForward_c hl, fun cls k hcls hk => ?data,
    fun i f h k n ha hb hd ho => ?hitch, fun cls f rest r' i hwait hfly hnext => ?replay,
    fun z i j f g e he hin hlen hrev hne hbufs hseq sum hsum => ?reduce⟩
  case receive => exact ⟨exec_flitReceive_passes hl hsrc hfly hwait, fun n => exec_flitReceive_fails hl hsrc hfly hwait⟩
  case data => exact ⟨exec_flitForward_unserved hl hcls hk, fun i f => exec_flitForward_served hl hcls hk⟩
  case hitch => exact metered_of_step (exec_flitForward_hitch hl) (Dev.sendHitch_alone ha hb hd ho)
  case replay =>
    exact ⟨exec_flitReplay_lost hl hwait hfly hnext rfl, fun hfail => ⟨exec_flitReplay_passes hl hwait hfly hnext rfl hfail,
      fun n _ => exec_flitReplay_fails hl hwait hfly hnext rfl hfail⟩⟩
  case reduce =>
    have hstep := exec_reductionCombine_combines hl he hin hlen hrev hne hbufs hseq hsum
    refine ⟨fun ho hroom => ?_, fun ho => ?_⟩
    · exact metered_of_step (hstep (.inr (decide_eq_false (Nat.not_le.2 hroom)))) (congrArg (Dev.refill · r.val) (if_neg ho))
    · exact metered_of_step (hstep (.inl ho)) (congrArg (Dev.refill · r.val) (if_pos ho))

end

section
/-! PROOF. What each command of a tile shift makes of the device (R309, R326, R507 to R510, R547), and the statement about the shift's
states. -/

namespace Sys2Proof.Machine

variable (d : Dev) (x : Shift)

/-! ### The new positions (R508) -/

/-- Writes of other keys leave a key alone. -/
theorem mget_foldl_mset_notMem {α : Type} (z : α) {k : Nat} (l : List (Nat × α)) (m : List (Nat × α)) (h : k ∉ l.map Prod.fst) :
    mget (l.foldl (fun m e => mset m e.1 e.2) m) z k = mget m z k :=
  List.foldlRecOn (motive := fun m' => mget m' z k = mget m z k) l _ rfl fun m' hm' e he => by
    rw [mget_mset_ne _ _ _ _ _ fun hk => h (List.mem_map.2 ⟨e, he, hk.symm⟩), hm']

/-- Of writes whose keys differ, each is read back. -/
theorem mget_foldl_mset {α : Type} (z : α) {q : Nat × α} {l : List (Nat × α)} (m : List (Nat × α)) (hnd : (l.map Prod.fst).Nodup)
    (hq : q ∈ l) : mget (l.foldl (fun m e => mset m e.1 e.2) m) z q.1 = q.2 := by
  induction l generalizing m with
  | nil => simp at hq
  | cons e l ih =>
    obtain ⟨hnot, hnd⟩ := List.nodup_cons.1 hnd
    rcases List.mem_cons.1 hq with rfl | hq
    · rw [List.foldl_cons, mget_foldl_mset_notMem z l _ hnot, mget_mset_same]
    · exact ih _ hnd hq

/-- A segment names each of its tiles once: they lie in one column, row by row. -/
theorem segment_nodup (n : Nat) : (segment n).Nodup := by
  have hcol : Function.Injective fun y => y * 16 + tileX n := fun y y' h => by
    simp only at h
    omega
  refine List.Nodup.map hcol ?_
  split
  · exact List.nodup_range
  · refine List.Nodup.map_on (fun i hi k hk h => ?_) List.nodup_range
    have hi := List.mem_range.1 hi
    have hk := List.mem_range.1 hk
    omega

/-- Each tile of the segment has one new position. -/
theorem Dev.shiftPlaces_tiles (n : Nat) : (d.shiftPlaces n).map Prod.fst = segment n :=
  List.map_fst_zip (by simp)

/-- Loading the repairs of new positions leaves the positions as they are. -/
theorem Dev.foldl_loadRepairs_spare (l : List (Nat × Nat)) : (l.foldl (fun d e => d.loadRepairs e.1) d).spare = d.spare :=
  List.foldlRecOn (motive := fun e : Dev => e.spare = d.spare) l _ rfl fun _ hb _ _ => hb

/-- The positions after a shift. -/
theorem Dev.shiftMoved_phys : (d.shiftMoved x).spare.phys =
    (d.shiftPlaces x.target).foldl (fun m e => mset m e.1 e.2) d.spare.phys := by
  unfold Dev.shiftMoved
  dsimp only
  split <;> simp only [Dev.flag_spare, Dev.foldl_loadRepairs_spare]

/-- Each tile of the segment stands at its new position. -/
theorem Dev.shiftMoved_physOf {q : Nat × Nat} (hq : q ∈ d.shiftPlaces x.target) : (d.shiftMoved x).physOf q.1 = q.2 := by
  have hnd : ((d.shiftPlaces x.target).map Prod.fst).Nodup := d.shiftPlaces_tiles x.target ▸ segment_nodup x.target
  rw [Dev.physOf, Dev.shiftMoved_phys, mget_foldl_mset _ _ hnd hq]

/-! ### What QUIET, COPY and the switch make of the device (R507, R510) -/

/-- The region of the shift's tile runs, and is not on HOLD. -/
def Dev.runsUnheld : Prop :=
  (d.tile x.target).part ≠ 0 ∧ d.regionState (d.tile x.target).part = 5 ∧ d.is (ADM_P_CTRL_HOLD (d.tile x.target).part) = false

/-- QUIET puts that region on HOLD. -/
def Dev.putOnHold : Dev :=
  ({ d with spare := { d.spare with shift := some { x with setHold := true } } } : Dev).flag (ADM_P_CTRL_HOLD (d.tile x.target).part) true

/-- COPY begins, from the state in which partition p's region is. -/
def Dev.copyBegins (p : Nat) : Dev := d.setShift 3 fun y => { y with copyFrom := d.regionState p }

/-- QUIET is given up, LIMIT cycles after the last request ended at tick t: the HOLD that it set is cleared, and the shift is DEFERRED. -/
def Dev.shiftGivenUp (t : Nat) : Dev :=
  let p := (d.tile x.target).part
  let e := d.toTick (t + d.get (PART_P_DRAIN_LIMIT p))
  let f := if x.setHold then e.flag (ADM_P_CTRL_HOLD p) false else e
  (f.set SPR_ACTION_BLOCKING p).setShift 1 fun y => { y with setHold := false, deferred := true, blocking := p, zeroAt := none }

/-- The first source tile in which COPY meets an uncorrectable word: known already, or the one that the command tells of. -/
def Dev.badSource (b : Option TileId) : Option Nat :=
  (segment x.target).find? fun m => d.copySource x m && (b.map (·.val) == some m || !(d.tile m).bad.isEmpty)

/-- The device as the switch is made: the tiles moved 64 cycles after SWITCH began, and what ran resumed. -/
def Dev.switched : Dev := ((d.toTick (x.since + 64)).shiftMoved x).shiftResumed x

/-- The region of the shift's tile runs best effort from now on. -/
def Dev.slowed : Dev := d.modRegion (d.tile x.target).part fun r => { r with bestEffort := true }

/-! ### The commands -/

section Commands
variable {s : State} (hl : s.dev.live = true)
include hl

/-- With no shift under way, a shift's commands do nothing. -/
theorem exec_shift_none (h : s.dev.spare.shift = none) (b : Option TileId) :
    exec .shiftResume s = .next (s.metered s.dev) ∧ exec .shiftQuietDone s = .next (s.metered s.dev) ∧
    exec .shiftQuietTimeout s = .next (s.metered s.dev) ∧ exec (.shiftCopyDone b) s = .next (s.metered s.dev) ∧
    exec .shiftSwitchDone s = .next (s.metered s.dev) :=
  ⟨exec_nextM rfl hl (by simp only [h]), exec_nextM rfl hl (by simp only [h]), exec_nextM rfl hl (by simp only [h]),
    exec_nextM rfl hl (by simp only [h]), exec_nextM rfl hl (by simp only [h])⟩

variable {x : Shift} (hx : s.dev.spare.shift = some x)
include hx

/-- SHIFT_RESUME of a deferred shift whose segment lies in one partition. -/
theorem exec_shiftResume_resumes (h1 : s.dev.shiftState = 1) (hb : s.dev.shiftBlock x.target = none) (hw : s.dev.shiftWaits = false) :
    exec .shiftResume s = .next (s.metered (s.dev.shiftQuiet x.target)) :=
  exec_nextM rfl hl (by simp only [hx]; exact if_pos (by simp [h1, hb, hw]))

/-- Of one in another state, blocked, or waiting for the management controller. -/
theorem exec_shiftResume_stays (h : s.dev.shiftState ≠ 1 ∨ (s.dev.shiftBlock x.target).isSome = true ∨ s.dev.shiftWaits = true) :
    exec .shiftResume s = .next (s.metered s.dev) :=
  exec_nextM rfl hl (by
    simp only [hx]
    refine if_neg fun hgoes => ?_
    obtain ⟨⟨h1, hb⟩, hw⟩ : (s.dev.shiftState = 1 ∧ s.dev.shiftBlock x.target = none) ∧ s.dev.shiftWaits = false := by simpa using hgoes
    simp [h1, hb, hw] at h)

/-- SHIFT_QUIET_DONE in another state than QUIET, or with the management controller down. -/
theorem exec_shiftQuietDone_stays (h : s.dev.shiftState ≠ 2 ∨ s.dev.shiftWaits = true) :
    exec .shiftQuietDone s = .next (s.metered s.dev) :=
  exec_nextM rfl hl (by simp only [hx]; exact if_pos (by rcases h with h | h <;> simp [h]))

/-- SHIFT_QUIET_TIMEOUT in another state than QUIET. -/
theorem exec_shiftQuietTimeout_elsewhere (h : s.dev.shiftState ≠ 2) : exec .shiftQuietTimeout s = .next (s.metered s.dev) :=
  exec_nextM rfl hl (by
    simp only [hx]
    cases x.zeroAt with
    | none => rfl
    | some t => exact if_pos (by simp [h]))

section Done
variable (h2 : s.dev.shiftState = 2) (hw : s.dev.shiftWaits = false)
include h2 hw

/-- In QUIET the region is put on HOLD where it runs without it, and COPY begins once the segment is quiet. -/
theorem exec_shiftQuietDone_unheld (hrun : s.dev.runsUnheld x) : exec .shiftQuietDone s = .next (s.metered (
    if (s.dev.putOnHold x).shiftIsQuiet x then (s.dev.putOnHold x).copyBegins (s.dev.tile x.target).part else s.dev.putOnHold x)) := by
  obtain ⟨hp, hr, hh⟩ := hrun
  have hrun : ((s.dev.tile x.target).part != 0 && s.dev.regionState (s.dev.tile x.target).part == rgRunning &&
    !s.dev.is (ADM_P_CTRL_HOLD (s.dev.tile x.target).part)) = true := by simp [hp, hr, hh, rgRunning]
  refine exec_nextM rfl hl ?_
  simp only [hx]
  rw [if_neg (by simp [h2, hw]), if_pos hrun]
  rfl

/-- COPY begins where the region is on HOLD, or does not run, and the segment is quiet. -/
theorem exec_shiftQuietDone_held (hrun : ¬ s.dev.runsUnheld x) : exec .shiftQuietDone s = .next (s.metered (
    if s.dev.shiftIsQuiet x then s.dev.copyBegins (s.dev.tile x.target).part else s.dev)) := by
  have hrun : ¬ ((s.dev.tile x.target).part != 0 && s.dev.regionState (s.dev.tile x.target).part == rgRunning &&
    !s.dev.is (ADM_P_CTRL_HOLD (s.dev.tile x.target).part)) = true := by simpa [Dev.runsUnheld, rgRunning, and_assoc] using hrun
  refine exec_nextM rfl hl ?_
  simp only [hx]
  rw [if_neg (by simp [h2, hw]), if_neg hrun]
  rfl

end Done

/-- SHIFT_QUIET_TIMEOUT of a segment that has become quiet, or has no limit to reach. -/
theorem exec_shiftQuietTimeout_stays (h : x.zeroAt = none ∨ (s.dev.tile x.target).part = 0 ∨
    s.dev.regionState (s.dev.tile x.target).part ≠ 5 ∨ s.dev.shiftIsQuiet x = true) :
    exec .shiftQuietTimeout s = .next (s.metered s.dev) :=
  exec_nextM rfl hl (by
    simp only [hx]
    cases hz : x.zeroAt with
    | none => rfl
    | some t =>
      have h := h.resolve_left (by simp [hz])
      exact if_pos (by rcases h with h | h | h <;> simp [h, rgRunning]))

/-- Of one that has not, while its region runs. -/
theorem exec_shiftQuietTimeout_defers {t : Nat} (h2 : s.dev.shiftState = 2) (hz : x.zeroAt = some t) (hp : (s.dev.tile x.target).part ≠ 0)
    (hr : s.dev.regionState (s.dev.tile x.target).part = 5) (hq : s.dev.shiftIsQuiet x = false) :
    exec .shiftQuietTimeout s = .next (s.metered (s.dev.shiftGivenUp x t)) :=
  exec_nextM rfl hl (by
    simp only [hx, hz]
    exact if_neg (by simp [h2, hp, hr, hq, rgRunning]))

section Copy

/-- SHIFT_COPY_DONE in another state than COPY. -/
theorem exec_shiftCopyDone_stays (h : s.dev.shiftState ≠ 3) (b : Option TileId) :
    exec (.shiftCopyDone b) s = .next (s.metered s.dev) :=
  exec_nextM rfl hl (by simp only [hx]; exact if_pos h)

variable (h3 : s.dev.shiftState = 3) {b : Option TileId}
include h3

/-- A copy that meets an uncorrectable word. -/
theorem exec_shiftCopyDone_meets {m : Nat} (hm : s.dev.badSource x b = some m) :
    exec (.shiftCopyDone b) s = .next (s.metered (s.dev.copyMet x m)) :=
  exec_nextM rfl hl (by
    rw [Dev.badSource] at hm
    simp only [hx, hm, h3, ne_eq, not_true, if_false])

/-- A whole copy. -/
theorem exec_shiftCopyDone_whole (hm : s.dev.badSource x b = none) (hb : b = none) :
    exec (.shiftCopyDone b) s = .next (s.metered (s.dev.setShift 4 fun y => y)) :=
  exec_nextM rfl hl (by
    rw [Dev.badSource] at hm
    subst hb
    simp only [hx, hm, h3, ne_eq, not_true, if_false, Option.isNone_none, if_true])

/-- A word told of in a tile that is no source. -/
theorem exec_shiftCopyDone_elsewhere (hm : s.dev.badSource x b = none) (hb : b ≠ none) :
    exec (.shiftCopyDone b) s = .next (s.metered s.dev) :=
  exec_nextM rfl hl (by
    rw [Dev.badSource] at hm
    have hb : b.isNone = false := by simpa [Option.isSome_iff_ne_none] using hb
    simp only [hx, hm, h3, hb, ne_eq, not_true, Bool.false_eq_true, if_false])

end Copy

/-- SHIFT_SWITCH_DONE in another state than SWITCH. -/
theorem exec_shiftSwitchDone_stays (h : s.dev.shiftState ≠ 4) : exec .shiftSwitchDone s = .next (s.metered s.dev) :=
  exec_nextM rfl hl (by simp only [hx]; exact if_pos h)

/-- The shift ends; a timed region whose paths have lengthened runs best effort. -/
theorem exec_shiftSwitchDone_ends (h4 : s.dev.shiftState = 4) {slow : Bool} (hs : (s.dev.switched x).shiftSlow x = slow) :
    exec .shiftSwitchDone s = .next (s.metered (
      let e := s.dev.toTick (x.since + 64)
      let w := if slow then (s.dev.switched x).slowed x else s.dev.switched x
      w.shiftEnded x (e.physOf x.target) (w.shiftCount x (e.shiftPlaces x.target)) slow)) :=
  exec_nextM rfl hl (by
    subst hs
    simp only [hx]
    exact if_neg (not_not.2 h4))

end Commands

end Sys2Proof.Machine

open Sys2Proof Sys2Proof.Machine

/-- Settles O55: each command by the state of the shift; QUIET by whether its region runs without HOLD and its segment is quiet, COPY by
what it meets, and the new positions since a segment names each tile once. -/
theorem shifts : Obligations.Shifts := by
  intro s hl d now
  refine ⟨fun h b => exec_shift_none hl h b, ?_⟩
  intro x hx n p
  refine ⟨exec_shiftResume_resumes hl hx, exec_shiftResume_stays hl hx,
    fun h => ⟨exec_shiftQuietDone_stays hl hx (.inl h), exec_shiftQuietTimeout_elsewhere hl hx h⟩, fun h2 => ?quiet,
    exec_shiftCopyDone_stays hl hx, fun h3 b => ?copy, exec_shiftSwitchDone_stays hl hx, fun h4 => ?switch⟩
  case quiet =>
    refine ⟨fun hw => exec_shiftQuietDone_stays hl hx (.inr hw), fun hw hrun hq => ?_, fun hw hrun hq => ?_, fun hw hrun hq => ?_,
      fun hrun hq => ?_, exec_shiftQuietTimeout_stays hl hx, fun t => exec_shiftQuietTimeout_defers hl hx h2⟩
    · exact metered_of_step (exec_shiftQuietDone_unheld hl hx h2 hw hrun) (if_pos hq)
    · exact metered_of_step (exec_shiftQuietDone_unheld hl hx h2 hw hrun) (if_neg (Bool.eq_false_iff.1 hq))
    · exact metered_of_step (exec_shiftQuietDone_held hl hx h2 hw hrun) (if_pos hq)
    · cases hw : d.shiftWaits with
      | true => exact exec_shiftQuietDone_stays hl hx (.inr hw)
      | false => exact metered_of_step (exec_shiftQuietDone_held hl hx h2 hw hrun) (if_neg (Bool.eq_false_iff.1 hq))
  case copy => exact ⟨exec_shiftCopyDone_whole hl hx h3, exec_shiftCopyDone_elsewhere hl hx h3, fun m => exec_shiftCopyDone_meets hl hx h3⟩
  case switch => exact ⟨exec_shiftSwitchDone_ends hl hx h4, exec_shiftSwitchDone_ends hl hx h4, fun q hq _ => Dev.shiftMoved_physOf _ x hq⟩

end

section
/-! PROOF. The writes that command a partition's region (R366), how a region is loaded, checked and verified (R333, R345 to R351, R445),
and the statement about that. -/

namespace Sys2Proof.Machine

variable (d : Dev) (p v : Nat) {cred : Cred} {part : PartId} {s : State}

/-! ### Fields of a written value, and registers that a write leaves -/

/-- A field read back is the bits written to it. -/
theorem Dev.get_take_same (f : RF) : (d.take f v).get f = f.of v := by
  rw [Dev.take, Dev.get_set_same, RF.of, bits, RF.width, Nat.mod_mod]

/-- Fields of different registers have different places. -/
theorem RF.key_ne_of_addr_ne {f g : RF} (h : f.addr ≠ g.addr) (hf : f.lo < 64) (hg : g.lo < 64) : f.key ≠ g.key := by
  simp only [RF.key]
  omega

/-- A write leaves the fields of another register. -/
theorem Dev.get_take_ne {f g : RF} (h : g.addr ≠ f.addr) (hg : g.lo < 64) (hf : f.lo < 64) : (d.take f v).get g = d.get g :=
  Dev.get_set_ne _ _ _ _ (RF.key_ne_of_addr_ne h hg hf)

/-- Bit 0 of a value with bit 0 set. -/
theorem bit_zero_setBits : bit (setBits v 0 0 1) 0 = 1 := by
  simp only [bit, setBits]
  omega

/-! ### Who may command a region (R366) -/

/-- A write with a credential that may command the region takes effect. -/
theorem partWr_of_mayCommand (k : Dev → Dev × Byte) (h : mayCommand cred p = true) : partWr cred p d k = k d := by
  cases cred with
  | owner | dmc => rfl
  | tenant q => exact if_pos (by simpa [mayCommand] using h)
  | none => cases h

/-- A write with any other is DENIED. -/
theorem partWr_of_not_mayCommand (k : Dev → Dev × Byte) (h : mayCommand cred p = false) : partWr cred p d k = (d, stDenied) := by
  cases cred with
  | owner | dmc => cases h
  | tenant q => exact if_neg (by simpa [mayCommand] using h)
  | none => rfl

/-! ### A write of PART_Pp_RCMD (R366) -/

/-- The RW fields of PART_Pp_RCMD as written. -/
def Dev.rcmdTaken : Dev := (d.take (PART_P_RCMD_EXPECT p) v).take (PART_P_RCMD_SOURCE p) v

/-- The write leaves every other register. -/
theorem Dev.rcmdTaken_get {f : RF} (ha : f.addr ≠ PART_P_RCMD p) (hlo : f.lo < 64) : (d.rcmdTaken p v).get f = d.get f := by
  rw [Dev.rcmdTaken, Dev.get_take_ne _ _ ha hlo (by simp [PART_P_RCMD_SOURCE]),
    Dev.get_take_ne _ _ ha hlo (by simp [PART_P_RCMD_EXPECT])]

/-- It leaves the region's state. -/
theorem Dev.rcmdTaken_regionState : (d.rcmdTaken p v).regionState p = d.regionState p :=
  d.rcmdTaken_get p v (by simp [PART_P_RSTATUS_STATE, PART_P_RSTATUS, PART_P_RCMD]) (by simp [PART_P_RSTATUS_STATE])

/-- It leaves the partition's state. -/
theorem Dev.rcmdTaken_sealed : (d.rcmdTaken p v).sealed p = d.sealed p := by
  rw [Dev.sealed, Dev.partState, d.rcmdTaken_get p v (by simp [PART_P_STATE_STATE, PART_P_STATE, PART_P_RCMD])
    (by simp [PART_P_STATE_STATE]), Dev.sealed, Dev.partState]

/-- SOURCE is as written. -/
theorem Dev.rcmdTaken_source : (d.rcmdTaken p v).get (PART_P_RCMD_SOURCE p) = bits v 3 2 := Dev.get_take_same _ v _

section Write
variable {p v}
variable (hc : mayCommand cred p = true)
include hc

/-- The write takes the RW fields, and obeys its command bits: ABORT before LOAD before GO. -/
theorem Dev.rcmdWr_eq : d.rcmdWr cred p v =
    (let e := if bit v 1 = 1 then (d.rcmdTaken p v).abortCmd p else d.rcmdTaken p v
     let e := if bit v 0 = 1 then e.loadCmd p else e
     if bit v 5 = 1 then e.goCmd p else e, stOk) := partWr_of_mayCommand _ _ _ hc

/-- A write with LOAD alone. -/
theorem Dev.rcmdWr_load (h0 : bit v 0 = 1) (h1 : bit v 1 = 0) (h5 : bit v 5 = 0) :
    d.rcmdWr cred p v = ((d.rcmdTaken p v).loadCmd p, stOk) := by
  simp only [d.rcmdWr_eq hc, h0, h1, h5, Nat.zero_ne_one, if_true, if_false]

/-- A write with ABORT alone. -/
theorem Dev.rcmdWr_abort (h0 : bit v 0 = 0) (h1 : bit v 1 = 1) (h5 : bit v 5 = 0) :
    d.rcmdWr cred p v = ((d.rcmdTaken p v).abortCmd p, stOk) := by
  simp only [d.rcmdWr_eq hc, h0, h1, h5, Nat.zero_ne_one, if_true, if_false]

/-- A write with GO alone. -/
theorem Dev.rcmdWr_go (h0 : bit v 0 = 0) (h1 : bit v 1 = 0) (h5 : bit v 5 = 1) :
    d.rcmdWr cred p v = ((d.rcmdTaken p v).goCmd p, stOk) := by
  simp only [d.rcmdWr_eq hc, h0, h1, h5, Nat.zero_ne_one, if_true, if_false]

end Write

/-- RCMD as it stands, with one command bit added, commands that alone. -/
theorem Dev.rcmdNow_bits (h : d.rcmdNow p < 32) :
    bit (d.rcmdNow p + 2) 0 = 0 ∧ bit (d.rcmdNow p + 2) 1 = 1 ∧ bit (d.rcmdNow p + 2) 5 = 0 ∧
    bit (d.rcmdNow p + 32) 0 = 0 ∧ bit (d.rcmdNow p + 32) 1 = 0 ∧ bit (d.rcmdNow p + 32) 5 = 1 := by
  simp only [Dev.rcmdNow, bit] at h ⊢
  omega

/-! ### LOAD and ABORT (R348, R445) -/

/-- RESULT of a load as set. -/
theorem Dev.loadResult_result (code check sect : Nat) : (d.loadResult p code check sect).get (PART_P_RSTATUS_RESULT p) = code % 256 := by
  rw [Dev.loadResult, Dev.get_set_ne, Dev.get_set_ne, Dev.get_set_same]
  · rfl
  all_goals simp [RF.key, PART_P_RSTATUS_RESULT, PART_P_RSTATUS_CHECK, PART_P_RSTATUS_SECTION]

/-- It leaves the region's state. -/
theorem Dev.loadResult_regionState (code check sect : Nat) : (d.loadResult p code check sect).regionState p = d.regionState p := by
  rw [Dev.loadResult, Dev.regionState, Dev.get_set_ne, Dev.get_set_ne, Dev.get_set_ne, Dev.regionState]
  all_goals simp [RF.key, PART_P_RSTATUS_STATE, PART_P_RSTATUS_RESULT, PART_P_RSTATUS_CHECK, PART_P_RSTATUS_SECTION]

/-- A region's state as set. -/
theorem Dev.setRegionState_regionState (st : Nat) : (d.setRegionState p st).regionState p = st % 16 := Dev.get_set_same ..

section Load
variable {d p}
variable (hsrc : d.get (PART_P_RCMD_SOURCE p) ≤ 1)
include hsrc

/-- LOAD in a partition that is not SEALED. -/
theorem Dev.loadCmd_denied (hs : d.sealed p = false) :
    (d.loadCmd p).get (PART_P_RSTATUS_RESULT p) = 0x11 ∧ (d.loadCmd p).regionState p = d.regionState p := by
  have hcmd : d.loadCmd p = d.loadResult p 0x11 0 0xFFFF := by
    simp only [Dev.loadCmd, Nat.not_lt.2 hsrc, hs, ldDenied, Bool.not_false, if_true, if_false]
  rw [hcmd]
  exact ⟨d.loadResult_result .., d.loadResult_regionState ..⟩

/-- LOAD while a load is under way, or the region runs or drains. -/
theorem Dev.loadCmd_busy (hs : d.sealed p = true) (h0 : d.regionState p ≠ 0) (h4 : d.regionState p ≠ 4) (h7 : d.regionState p ≠ 7) :
    (d.loadCmd p).get (PART_P_RSTATUS_RESULT p) = 0x10 ∧ (d.loadCmd p).regionState p = d.regionState p := by
  have hcmd : d.loadCmd p = d.set (PART_P_RSTATUS_RESULT p) 0x10 := by
    simp [Dev.loadCmd, Nat.not_lt.2 hsrc, hs, h0, h4, h7, rgEmpty, rgLoaded, rgDrained, ldBusy]
  rw [hcmd]
  exact ⟨d.get_set_same .., d.get_set_ne _ _ _ (by simp [RF.key, PART_P_RSTATUS_STATE, PART_P_RSTATUS_RESULT])⟩

/-- LOAD of a region that is EMPTY, LOADED or DRAINED begins its check. -/
theorem Dev.loadCmd_begins (hs : d.sealed p = true) (h : d.regionState p = 0 ∨ d.regionState p = 4 ∨ d.regionState p = 7) :
    (d.loadCmd p).get (PART_P_RSTATUS_RESULT p) = 0 ∧ (d.loadCmd p).regionState p = 1 := by
  have hst : (d.regionState p = rgEmpty || d.regionState p = rgLoaded || d.regionState p = rgDrained) = true := by
    simpa [or_assoc] using show d.regionState p = rgEmpty ∨ d.regionState p = rgLoaded ∨ d.regionState p = rgDrained from h
  have hget : ∀ f, (d.loadCmd p).get f = (((d.holdTiles p).setRegionState p 1).loadResult p 0 0 0xFFFF).get f := fun f => by
    simp only [Dev.loadCmd, Nat.not_lt.2 hsrc, hs, hst, Bool.not_true, Bool.false_eq_true, if_true, if_false]
    rfl
  rw [hget, Dev.regionState, hget]
  exact ⟨Dev.loadResult_result .., (Dev.loadResult_regionState ..).trans (Dev.setRegionState_regionState ..)⟩

end Load

/-- ABORT of a load under way names the section that it was at. -/
theorem Dev.abortCmd_loading {d : Dev} {p : Nat} (h : d.regionState p = 1 ∨ d.regionState p = 2 ∨ d.regionState p = 3) :
    d.abortCmd p = d.loadFail p 0x12 0 (if d.regionState p = 2 then (d.region p).sect else 0xFFFF) :=
  if_pos (by
    simpa [or_assoc] using show d.regionState p = rgChecking ∨ d.regionState p = rgLoading ∨ d.regionState p = rgVerifying from h)

section Commands
variable (hl : s.dev.live = true) (hc : mayCommand cred part.val = true)
include hl hc

/-- REGION_LOAD that asks for a load alone. -/
theorem exec_regionLoad {v : Word} (h1 : bit (setBits v.toNat 0 0 1) 1 = 0) (h5 : bit (setBits v.toNat 0 0 1) 5 = 0) :
    exec (.regionLoad cred part v) s =
      .next { s with dev := ((s.dev.rcmdTaken part.val (setBits v.toNat 0 0 1)).loadCmd part.val).completed stOk 0 } :=
  exec_next rfl hl (congrArg ended (s.dev.rcmdWr_load hc (bit_zero_setBits _) h1 h5))

/-- REGION_ABORT of a load under way. -/
theorem exec_regionAbort (hst : s.dev.regionState part.val = 1 ∨ s.dev.regionState part.val = 2 ∨ s.dev.regionState part.val = 3)
    (hn : s.dev.rcmdNow part.val < 32) : exec (.regionAbort cred part) s =
      .next { s with dev := ((s.dev.rcmdTaken part.val (s.dev.rcmdNow part.val + 2)).loadFail part.val 0x12 0
        (if s.dev.regionState part.val = 2 then (s.dev.region part.val).sect else 0xFFFF)).completed stOk 0 } := by
  obtain ⟨h0, h1, h5, -⟩ := s.dev.rcmdNow_bits _ hn
  have hkeep := s.dev.rcmdTaken_regionState part.val (s.dev.rcmdNow part.val + 2)
  refine exec_next rfl hl ((congrArg ended (s.dev.rcmdWr_abort hc h0 h1 h5)).trans ?_)
  rw [Dev.abortCmd_loading (hkeep ▸ hst), hkeep]
  rfl

end Commands

/-! ### Checking (R345, R346, R350) -/

/-- The bytes of a streamed image are at hand. -/
theorem Dev.loadTake_stream {d : Dev} {p : Nat} (h : (d.region p).stream = true) (off n : Nat) (tile : Option Nat) :
    d.loadTake p off n tile = (d, true) := if_pos h

section Check
variable {d p}

/-- A header that fails a check. -/
theorem Dev.checkTable_badHeader {e : Nat} (h : d.headerCheck p (d.region p).img = some e) : d.checkTable p = d.loadFail p e 0 0xFFFF := by
  simp only [Dev.checkTable, h]

/-- A region cleared for a load that keeps the claims `cs`, and begins with section 0. -/
def Dev.loadBegins (d : Dev) (p : Nat) (cs : List (Nat × Retained)) : Dev :=
  (((d.clearRegion p cs (d.is (PART_P_CFG_MAP p))).modRegion p fun y => { y with claims := cs, sect := 0 }).setRegionState p 2).set
    (PART_P_RSTATUS_SECTION p) 0

/-- A streamed image whose header, table, claims and ranges are right. -/
theorem Dev.checkTable_begins {cs : List (Nat × Retained)} (hs : (d.region p).stream = true) (hh : d.headerCheck p (d.region p).img = none)
    (hlen : imgHead (d.region p).img + 64 ≤ imgLength (d.region p).img) (hhead : imgHead (d.region p).img ≤ (d.region p).img.length)
    (ht : tableOk (d.region p).img (d.rectList p) = true) (hb : checkBytes (d.region p).img ≤ (d.region p).img.length)
    (hcs : d.readClaims (d.region p).img = some cs)
    (hr : rangesApart ((imgSects (d.region p).img).filterMap Sect.lines ++ cs.map fun c => (c.1, c.2.start, c.2.count)) = true) :
    d.checkTable p = d.loadBegins p cs := by
  simp only [Dev.checkTable, hh, hs, Bool.not_true, Bool.false_and, Bool.false_eq_true, Nat.not_lt.2 hlen, Dev.loadTake_stream hs,
    Nat.not_lt.2 hhead, ht, Nat.not_lt.2 hb, hcs, hr, if_false]
  rfl

end Check

section Steps
variable (hl : s.dev.live = true)
include hl

section Checking
variable (hst : s.dev.regionState part.val = 1) (hs : (s.dev.region part.val).stream = true)
include hst hs

/-- A check of a streamed image whose header has not come whole. -/
theorem exec_regionCheckDone_short (hlen : (s.dev.region part.val).img.length < 128) : exec (.regionCheckDone part) s = .next (s.metered
    (if (s.dev.region part.val).ended = true then s.dev.loadFail part.val 1 0 0xFFFF else s.dev)) :=
  exec_nextM rfl hl (by
    simp only [hst, hs, rgChecking, ne_eq, not_true, Bool.not_true, Bool.false_and, Bool.false_eq_true, if_false, Dev.loadTake_stream hs,
      hlen, if_true, ldTruncated])

/-- One whose header is at hand. -/
theorem exec_regionCheckDone_header (hlen : 128 ≤ (s.dev.region part.val).img.length) :
    exec (.regionCheckDone part) s = .next (s.metered (s.dev.checkTable part.val)) :=
  exec_nextM rfl hl (by
    simp only [hst, hs, rgChecking, ne_eq, not_true, Bool.not_true, Bool.false_and, Bool.false_eq_true, if_false, Dev.loadTake_stream hs,
      Nat.not_lt.2 hlen])

end Checking

/-! ### Loading, and the ends of a load (R336, R346 to R348) -/

/-- Section x of the image `b` is written, and the next is up; after the last the region is VERIFYING. -/
def Dev.sectionDone (d : Dev) (p : Nat) (b : List Byte) (x : Sect) (k : Nat) : Dev :=
  let put := (d.putSect p b x).modRegion p fun r => { r with sect := r.sect + 1 }
  if k + 1 = imgCount b then put.setRegionState p 3 else put.set (PART_P_RSTATUS_SECTION p) (k + 1)

/-- IMAGE_SECTION_WRITE with the section's bytes at hand. -/
theorem exec_imageSectionWrite {u : Dev} (hst : s.dev.regionState part.val = 2) {x : Sect}
    (hx : sectAt (s.dev.region part.val).img (s.dev.region part.val).sect = x)
    (ht : s.dev.loadTake part.val x.off x.size (if x.tile < 256 then some x.tile else none) = (u, true))
    (hlen : x.off + x.size ≤ (u.region part.val).img.length) : exec (.imageSectionWrite part) s = .next (s.metered
      (if x.layoutOk (u.region part.val).img = false then u.loadFail part.val 2 0 (s.dev.region part.val).sect
      else u.sectionDone part.val (u.region part.val).img x (s.dev.region part.val).sect)) :=
  exec_nextM rfl hl (by
    subst hx
    simp only [hst, rgLoading, ne_eq, not_true, if_false, ht, Nat.not_lt.2 hlen, Bool.not_eq_true', ldFormat]
    rfl)

/-- The clear of a failed load ends. -/
theorem exec_regionClearDone (hst : s.dev.regionState part.val = 8) (hp : s.dev.partState part.val ≠ 3) :
    exec (.regionClearDone part) s = .next (s.metered (
      let cleared := s.dev.clearRegion part.val [] (s.dev.is (PART_P_CFG_MAP part.val))
      let freed := (cleared.tilesOf part.val).foldl (fun d n => d.modTile n fun t => { t with held := false }) cleared
      (freed.modRegion part.val fun r => { Region.init with lanes := r.lanes }).setRegionState part.val 0)) :=
  exec_nextM rfl hl (if_neg (by simp [hst, hp, rgClearing]))

/-- A stream whose next byte is 100 ms late, while the region is LOADING. -/
theorem exec_loadStreamTimeout (hst : s.dev.regionState part.val = 2) (hs : (s.dev.region part.val).stream = true)
    (hlen : (s.dev.region part.val).img.length < imgLength (s.dev.region part.val).img)
    (hlate : (s.dev.region part.val).lastByte + 105000000 ≤ s.dev.tick) : exec (.loadStreamTimeout part) s =
      .next { s with dev := s.dev.loadFail part.val 1 0 (s.dev.region part.val).sect } :=
  exec_next rfl hl (by
    refine (if_pos (by simp [hst, hs, hlen, rgLoading])).trans ?_
    rw [Dev.toTick_past _ hlate]
    exact congrArg (s.dev.loadFail part.val 1 0) (if_pos hst))

/-- REGION_VERIFY with the whole image at hand. -/
theorem exec_regionVerify {u : Dev} (hst : s.dev.regionState part.val = 3) (hr : s.dev.loadRest part.val = (u, true))
    (hlen : imgLength (s.dev.region part.val).img ≤ (u.region part.val).img.length) :
    exec (.regionVerify part) s = .next { s with dev := u.verifyLoad part.val } :=
  exec_next rfl hl (by
    simp only [hst, rgVerifying, ne_eq, not_true, if_false, hr, Nat.not_lt.2 hlen])

end Steps

/-! ### Verifying (R347, R351) -/

section Verify
variable {d p}

/-- The image that is verified: as many bytes as it names. -/
def Dev.wholeImg (d : Dev) (p : Nat) : List Byte := (d.region p).img.take (imgLength (d.region p).img)
/-- Its digest, as it stands at its end. -/
def Dev.imgDigest (d : Dev) (p : Nat) : List Byte := slice (d.wholeImg p) (imgLength (d.region p).img - 64) 64
/-- The digest computed of the rest of it. -/
def Dev.bodyDigest (d : Dev) (p : Nat) : List Byte := sha3 ((d.wholeImg p).take (imgLength (d.region p).img - 64))
/-- The digest that the load expects. -/
def Dev.expectedDigest (d : Dev) (p : Nat) : List Byte := (List.range 8).flatMap fun k => leBytes 8 (d.get (PART_P_RDIGEST_EXP_V p k))
/-- The region holds the image, and no byte past it. -/
def Dev.imgTrimmed (d : Dev) (p : Nat) : Dev := d.modRegion p fun r => { r with img := d.wholeImg p }

/-- An image that does not have the digest at its end. -/
theorem Dev.verifyLoad_digest (h : d.bodyDigest p ≠ d.imgDigest p) : d.verifyLoad p = (d.imgTrimmed p).loadFail p 9 0 0xFFFF := if_pos h

/-- One that has it, but not the digest expected. -/
theorem Dev.verifyLoad_expect (h : d.bodyDigest p = d.imgDigest p) (he : d.is (PART_P_RCMD_EXPECT p) = true)
    (hw : d.expectedDigest p ≠ d.imgDigest p) : d.verifyLoad p = (d.imgTrimmed p).loadFail p 0xA 0 0xFFFF := by
  have hbad : ((d.imgTrimmed p).is (PART_P_RCMD_EXPECT p) && d.expectedDigest p != d.imgDigest p) = true := by
    simpa [show (d.imgTrimmed p).is (PART_P_RCMD_EXPECT p) = true from he] using hw
  exact (if_neg (not_not.2 h)).trans (if_pos hbad)

/-- One that has the digests and passes every further check. -/
theorem Dev.verifyLoad_passes (h : d.bodyDigest p = d.imgDigest p)
    (he : d.is (PART_P_RCMD_EXPECT p) = false ∨ d.expectedDigest p = d.imgDigest p)
    (hcfg : (d.imgTrimmed p).configCheck p (d.wholeImg p) ((d.imgTrimmed p).rectList p) ((d.imgTrimmed p).region p).claims = none)
    (hmesh : (d.imgTrimmed p).meshCheck (d.wholeImg p) = none) (htime : (d.imgTrimmed p).timingCheck p (d.wholeImg p) = none)
    (hres : (d.imgTrimmed p).resourceOk (d.wholeImg p) = true) : d.verifyLoad p = (d.imgTrimmed p).loadDone p := by
  have hgood : ¬ ((d.imgTrimmed p).is (PART_P_RCMD_EXPECT p) && d.expectedDigest p != d.imgDigest p) = true := by
    rcases he with he | he
    · simp [show (d.imgTrimmed p).is (PART_P_RCMD_EXPECT p) = false from he]
    · simp [he]
  simp only [Dev.bodyDigest, Dev.imgDigest, Dev.expectedDigest, Dev.imgTrimmed, Dev.wholeImg] at h hgood hcfg hmesh htime hres ⊢
  simp only [Dev.verifyLoad, h, ne_eq, not_true, if_false, hgood, Bool.false_eq_true, hcfg, hmesh, htime, hres, if_true]

end Verify
end Sys2Proof.Machine

open Sys2Proof Sys2Proof.Machine

/-- Settles O35: LOAD by the states of the partition and of the region, and each later step of a load by what its checks find. -/
theorem regionLoad : Obligations.RegionLoad := by
  intro s part cred hl hc p d r now nowM st sec took
  refine ⟨fun v h1 h5 hsrc => ⟨_, exec_regionLoad hl hc h1 h5, rfl, ?load⟩, exec_regionAbort hl hc,
    fun hst hs hlen => ?short, fun e hst hs hlen he => ?header, fun cs hst hs hlen hh hsize hhead ht hb hcs hr => ?table,
    fun u hst ht hlen => ?write, fun u hst hr hlen => ?verify, exec_regionClearDone hl, exec_loadStreamTimeout hl⟩
  case load =>
    let w := setBits v.toNat 0 0 1
    have hsrc : (d.rcmdTaken p w).get (PART_P_RCMD_SOURCE p) ≤ 1 := (d.rcmdTaken_source p w).trans_le hsrc
    have hst : (d.rcmdTaken p w).regionState p = st := d.rcmdTaken_regionState p w
    have hsealed : (d.rcmdTaken p w).sealed p = d.sealed p := d.rcmdTaken_sealed p w
    rw [← hsealed, ← hst]
    exact ⟨Dev.loadCmd_denied hsrc, Dev.loadCmd_busy hsrc, Dev.loadCmd_begins hsrc⟩
  case short =>
    have hstep := exec_regionCheckDone_short hl hst hs hlen
    exact ⟨fun he => metered_of_step hstep (if_neg (Bool.eq_false_iff.1 he)), fun he => metered_of_step hstep (if_pos he)⟩
  case header => exact metered_of_step (exec_regionCheckDone_header hl hst hs hlen) (Dev.checkTable_badHeader he)
  case table =>
    exact metered_of_step (exec_regionCheckDone_header hl hst hs hlen) (Dev.checkTable_begins hs hh hsize hhead ht hb hcs hr)
  case write =>
    have hstep := exec_imageSectionWrite hl hst rfl ht hlen
    exact ⟨fun h => metered_of_step hstep (if_pos h), fun h => metered_of_step hstep (if_neg (ne_false_of_eq_true h))⟩
  case verify =>
    have hstep := exec_regionVerify hl hst hr hlen
    refine ⟨fun h => ?_, fun h he hw => ?_, fun h he hcfg hmesh htime hres => ?_⟩
    · rw [hstep, Dev.verifyLoad_digest h]
      rfl
    · rw [hstep, Dev.verifyLoad_expect h he hw]
      rfl
    · rw [hstep, Dev.verifyLoad_passes h he hcfg hmesh htime hres]
      rfl

end

section
/-! PROOF. How a region is started, drained, resumed and restarted (R352, R359 to R363), who may not command it (R366), and the statement
about that. -/

namespace Sys2Proof.Machine

variable (d : Dev) (p v : Nat) {cred : Cred} {part : PartId} {s : State}

/-! ### A write of PART_Pp_DRAIN (R359, R363, R366) -/

/-- The RW fields of PART_Pp_DRAIN as written. -/
def Dev.drainTaken : Dev := ((d.take (PART_P_DRAIN_LIMIT p) v).take (PART_P_DRAIN_MODE p) v).take (PART_P_DRAIN_REOPEN p) v

/-- The write leaves every other register. -/
theorem Dev.drainTaken_get {f : RF} (ha : f.addr ≠ PART_P_DRAIN p) (hlo : f.lo < 64) : (d.drainTaken p v).get f = d.get f := by
  rw [Dev.drainTaken, Dev.get_take_ne _ _ ha hlo (by simp [PART_P_DRAIN_REOPEN]),
    Dev.get_take_ne _ _ ha hlo (by simp [PART_P_DRAIN_MODE]), Dev.get_take_ne _ _ ha hlo (by simp [PART_P_DRAIN_LIMIT])]

/-- It leaves the region's state. -/
theorem Dev.drainTaken_regionState : (d.drainTaken p v).regionState p = d.regionState p :=
  d.drainTaken_get p v (by simp [PART_P_RSTATUS_STATE, PART_P_RSTATUS, PART_P_DRAIN]) (by simp [PART_P_RSTATUS_STATE])

/-- It leaves FAULTED. -/
theorem Dev.drainTaken_faulted : (d.drainTaken p v).is (PART_P_RSTATUS_FAULTED p) = d.is (PART_P_RSTATUS_FAULTED p) := by
  rw [Dev.is, d.drainTaken_get p v (by simp [PART_P_RSTATUS_FAULTED, PART_P_RSTATUS, PART_P_DRAIN])
    (by simp [PART_P_RSTATUS_FAULTED]), Dev.is]

/-- MODE is as written. -/
theorem Dev.drainTaken_mode : (d.drainTaken p v).get (PART_P_DRAIN_MODE p) = bits v 5 4 := by
  have hne : (PART_P_DRAIN_MODE p).key ≠ (PART_P_DRAIN_REOPEN p).key := by simp [RF.key, PART_P_DRAIN_MODE, PART_P_DRAIN_REOPEN]
  rw [Dev.drainTaken, Dev.take, Dev.get_set_ne _ _ _ _ hne]
  exact Dev.get_take_same ..

section Write
variable {p v}
variable (hc : mayCommand cred p = true)
include hc

/-- The write takes the RW fields, and obeys its command bits: START of a region that runs before RESUME before RESTART. -/
theorem Dev.drainWr_eq : d.drainWr cred p v =
    (let e := d.drainTaken p v
     let m := e.get (PART_P_DRAIN_MODE p)
     let e := if bit v 0 = 1 && e.regionState p = rgRunning && m ≤ 1 then e.beginDrain p m false else e
     let e := if bit v 1 = 1 then e.resume p else e
     if bit v 2 = 1 then e.restart p else e, stOk) := partWr_of_mayCommand _ _ _ hc

/-- A write with START alone, while the region runs. -/
theorem Dev.drainWr_start (h0 : bit v 0 = 1) (h1 : bit v 1 = 0) (h2 : bit v 2 = 0) (hst : d.regionState p = 5) (hm : bits v 5 4 ≤ 1) :
    d.drainWr cred p v = ((d.drainTaken p v).beginDrain p (bits v 5 4) false, stOk) := by
  simp [d.drainWr_eq hc, h0, h1, h2, d.drainTaken_regionState, d.drainTaken_mode, hst, hm, rgRunning]

/-- A write with RESUME alone. -/
theorem Dev.drainWr_resume (h0 : bit v 0 = 0) (h1 : bit v 1 = 1) (h2 : bit v 2 = 0) :
    d.drainWr cred p v = ((d.drainTaken p v).resume p, stOk) := by
  simp [d.drainWr_eq hc, h0, h1, h2]

/-- A write with RESTART alone. -/
theorem Dev.drainWr_restart (h0 : bit v 0 = 0) (h1 : bit v 1 = 0) (h2 : bit v 2 = 1) :
    d.drainWr cred p v = ((d.drainTaken p v).restart p, stOk) := by
  simp [d.drainWr_eq hc, h0, h1, h2]

end Write

/-- DRAIN as it stands, with RESUME added, commands that alone. -/
theorem Dev.drainNow_resume_bits :
    bit (d.drainNow p + 2) 0 = 0 ∧ bit (d.drainNow p + 2) 1 = 1 ∧ bit (d.drainNow p + 2) 2 = 0 := by
  simp only [Dev.drainNow, bit]
  omega

/-- The value that RESTART writes: DRAIN as it stands, with REOPEN as given. -/
def Dev.restartValue (b : Bool) : Nat := setBits (d.drainNow p) 3 3 (boolBit b) + 4

/-- It commands RESTART alone. -/
theorem Dev.restartValue_bits (b : Bool) :
    bit (d.restartValue p b) 0 = 0 ∧ bit (d.restartValue p b) 1 = 0 ∧ bit (d.restartValue p b) 2 = 1 := by
  simp only [Dev.restartValue, Dev.drainNow, setBits, bit]
  omega

/-! ### GO and START (R352) -/

/-- The instant that PART_Pp_RSTART names. -/
def Dev.startNamed : Nat := d.get (PART_P_RSTART_SECOND p) * secLen + d.get (PART_P_RSTART_CYCLE p)

/-- GO of a LOADED region keeps that instant. -/
theorem Dev.goCmd_loaded {d : Dev} {p : Nat} (h : d.regionState p = 4) : (d.rcmdTaken p v).goCmd p =
    (d.rcmdTaken p v).modRegion p fun r => { r with goAt := some (d.startNamed p) } := by
  rw [Dev.startNamed, ← d.rcmdTaken_get p v (f := PART_P_RSTART_SECOND p) (by simp [PART_P_RSTART_SECOND, PART_P_RSTART, PART_P_RCMD])
      (by simp [PART_P_RSTART_SECOND]),
    ← d.rcmdTaken_get p v (f := PART_P_RSTART_CYCLE p) (by simp [PART_P_RSTART_CYCLE, PART_P_RSTART, PART_P_RCMD])
      (by simp [PART_P_RSTART_CYCLE])]
  exact if_pos ((d.rcmdTaken_regionState p v).trans h)

/-- At time t the region is launched, and every queue of its tiles announces its epoch (R425). -/
def Dev.startedAt (t : Nat) : Dev :=
  let run := (d.toTime t).launch p t
  (run.tilesOf p).foldl (fun d n => d.announce n) run

/-- A region that is launched runs. -/
theorem Dev.launch_regionState (a : Nat) : (d.launch p a).regionState p = 5 := Dev.setRegionState_regionState ..

/-! ### RESUME and RESTART (R363) -/

section Resume
variable {d p}

/-- A DRAINED region that has not FAULTED runs on. -/
theorem Dev.resume_runs (h7 : d.regionState p = 7) (hf : d.is (PART_P_RSTATUS_FAULTED p) = false) : d.resume p =
    (((d.flag (PART_P_RSTATUS_STUCK p) false).flag (ADM_P_CTRL_HOLD p) false).wakeRegion p).setRegionState p 5 :=
  if_neg (by simp [h7, hf, rgDrained])

/-- Any other is refused. -/
theorem Dev.resume_refused (h : d.regionState p ≠ 7 ∨ d.is (PART_P_RSTATUS_FAULTED p) = true) :
    d.resume p = d.flag (PART_P_RSTATUS_REFUSED p) true :=
  if_pos (by simpa using show d.regionState p ≠ rgDrained ∨ d.is (PART_P_RSTATUS_FAULTED p) = true from h)

/-- RESTART of a region that is not DRAINED. -/
theorem Dev.restart_refused (h : d.regionState p ≠ 7) : d.restart p = d.flag (PART_P_RSTATUS_REFUSED p) true :=
  if_pos (by simp [show d.regionState p ≠ rgDrained from h])

/-- RESTART of a DRAINED region with no fenced tile ends in a launch. -/
theorem Dev.restart_regionState (h7 : d.regionState p = 7) (hf : (d.tilesOf p).any (fun n => (d.tile n).fenced) = false) :
    (d.restart p).regionState p = 5 := by
  unfold Dev.restart
  rw [if_neg (by simp only [h7, hf, rgDrained]; simp)]
  exact Dev.launch_regionState ..

end Resume

/-! ### The commands -/

section Steps
variable (hl : s.dev.live = true)
include hl

/-- A write that needs a credential for the partition, without one. -/
theorem exec_partWr_denied {c : Instr} {k : Dev → Dev × Byte} (hc : mayCommand cred part.val = false)
    (h : exec c s = .next ⟨if s.dev.live then ended (partWr cred part.val s.dev k) else s.dev, s.mtr, s.pending⟩) :
    exec c s = .next { s with dev := { s.dev with bus := ⟨stDenied, 0⟩ } } :=
  exec_next h hl (congrArg ended (partWr_of_not_mayCommand _ _ _ hc))

section Commands
variable (hc : mayCommand cred part.val = true)
include hc

/-- REGION_GO of a LOADED region. -/
theorem exec_regionGo (hst : s.dev.regionState part.val = 4) (hn : s.dev.rcmdNow part.val < 32) : exec (.regionGo cred part) s =
    .next { s with dev := ((s.dev.rcmdTaken part.val (s.dev.rcmdNow part.val + 32)).modRegion part.val fun r =>
      { r with goAt := some (s.dev.startNamed part.val) }).completed stOk 0 } := by
  obtain ⟨-, -, -, h0, h1, h5⟩ := s.dev.rcmdNow_bits _ hn
  rw [← Dev.goCmd_loaded _ hst]
  exact exec_next rfl hl (congrArg ended (s.dev.rcmdWr_go hc h0 h1 h5))

/-- DRAIN_START of a region that runs. -/
theorem exec_drainStart {v : Word} (hst : s.dev.regionState part.val = 5) (hm : bits (setBits v.toNat 0 0 1) 5 4 ≤ 1)
    (h1 : bit (setBits v.toNat 0 0 1) 1 = 0) (h2 : bit (setBits v.toNat 0 0 1) 2 = 0) : exec (.drainStart cred part v) s =
      .next { s with dev := ((s.dev.drainTaken part.val (setBits v.toNat 0 0 1)).beginDrain part.val
        (bits (setBits v.toNat 0 0 1) 5 4) false).completed stOk 0 } :=
  exec_next rfl hl (congrArg ended (s.dev.drainWr_start hc (bit_zero_setBits _) h1 h2 hst hm))

/-- RESUME. -/
theorem exec_resume : exec (.resume cred part) s =
    .next { s with dev := ((s.dev.drainTaken part.val (s.dev.drainNow part.val + 2)).resume part.val).completed stOk 0 } := by
  obtain ⟨h0, h1, h2⟩ := s.dev.drainNow_resume_bits part.val
  exact exec_next rfl hl (congrArg ended (s.dev.drainWr_resume hc h0 h1 h2))

/-- RESTART. -/
theorem exec_restart (b : Bool) : exec (.restart cred part b) s =
    .next { s with dev := ((s.dev.drainTaken part.val (s.dev.restartValue part.val b)).restart part.val).completed stOk 0 } := by
  obtain ⟨h0, h1, h2⟩ := s.dev.restartValue_bits part.val b
  exact exec_next rfl hl (congrArg ended (s.dev.drainWr_restart hc h0 h1 h2))

end Commands

/-- REGION_START at the instant that GO named. -/
theorem exec_regionStart {t : Nat} (hgo : (s.dev.region part.val).goAt = some t) (hst : s.dev.regionState part.val = 4)
    (ht : t ≤ lastTime) : exec (.regionStart part) s = .next { s with dev := s.dev.startedAt part.val t } :=
  exec_next rfl hl (by
    simp only [hgo]
    exact if_pos (by simp [hst, ht, rgLoaded]))

/-- DRAIN_COMPLETE of a drain that holds nothing any more. -/
theorem exec_drainComplete (hst : s.dev.regionState part.val = 6) (hd : s.dev.drained part.val = true) :
    exec (.drainComplete part) s = .next { s with dev := (((s.dev.flag (PART_P_RSTATUS_STUCK part.val) false).set
      (PART_P_DSTATUS_NOT_EMPTY part.val) 0).set (PART_P_DSTATUS_FIRST_STUCK part.val) 0).drainEnd part.val } :=
  exec_next rfl hl (if_pos (by simp [hst, hd, rgDraining]))

/-- A drain of partition p ends STUCK: the tiles not empty are counted and recorded. -/
def Dev.drainStuck (d : Dev) (p : Nat) : Dev :=
  let bad := d.notEmpty p
  let d := (d.flag (PART_P_RSTATUS_STUCK p) true).set (PART_P_DSTATUS_NOT_EMPTY p) bad.length
  (d.set (PART_P_DSTATUS_FIRST_STUCK p) (bad.headD 0)).log
    { cls := 0xA, sev := 3, part := p, detail := leBytes 2 bad.length ++ leBytes 1 (bad.headD 0) }

/-- DRAIN_LIMIT of a drain that has lasted its limit. -/
theorem exec_drainLimit (hst : s.dev.regionState part.val = 6) (hd : s.dev.drained part.val = false)
    (ht : (s.dev.region part.val).drainAt + s.dev.get (PART_P_DRAIN_LIMIT part.val) ≤ s.dev.tick) :
    exec (.drainLimit part) s = .next { s with dev := (s.dev.drainStuck part.val).drainEnd part.val } :=
  exec_next rfl hl (by
    refine (if_neg (by simp [hst, hd, rgDraining])).trans ?_
    rw [Dev.toTick_past _ ht]
    rfl)

end Steps

end Sys2Proof.Machine

open Sys2Proof Sys2Proof.Machine

/-- Settles O36: each command by its credential and the region's state, and the launch that START and RESTART end in. -/
theorem regionRuns : Obligations.RegionRuns := by
  intro s part cred hl p d now st rc dr
  refine ⟨fun hc v b => ?denied, fun hc => ⟨exec_regionGo hl hc, fun v => exec_drainStart hl hc, fun h7 hf => ?resume, fun h => ?refused,
    fun b => ?restart⟩, fun t hgo hst ht => ⟨exec_regionStart hl hgo hst ht, Dev.launch_regionState ..⟩, exec_drainComplete hl,
    exec_drainLimit hl⟩
  case denied =>
    simp only [List.forall_mem_cons, List.not_mem_nil, false_imp_iff, implies_true, and_true]
    refine ⟨?_, ?_, ?_, ?_, ?_, ?_, ?_⟩ <;> exact exec_partWr_denied hl hc rfl
  case resume =>
    rw [exec_resume hl hc, Dev.resume_runs ((d.drainTaken_regionState p _).trans h7) ((d.drainTaken_faulted p _).trans hf)]
    rfl
  case refused =>
    rw [exec_resume hl hc, Dev.resume_refused (by rwa [d.drainTaken_regionState, d.drainTaken_faulted])]
    rfl
  case restart =>
    have hst : (d.drainTaken p (d.restartValue p b)).regionState p = st := d.drainTaken_regionState p _
    refine ⟨fun h7 => ?_, fun h7 hf => ⟨exec_restart hl hc b, Dev.restart_regionState (hst.trans h7) hf⟩⟩
    rw [exec_restart hl hc b, Dev.restart_refused (hst.trans_ne h7)]
    rfl

end

section
/-! PROOF. How instants of folding reach the tiles and how a tile switches fronds (R354 to R358), and the statement about that. -/

namespace Sys2Proof.Machine

variable {d : Dev} {p n : Nat} {part : PartId} {tile : TileId} {s : State}

/-! ### Instants of the fold plan and of command switches (R354, R358) -/

/-- A change of a region is what it does to that one. -/
theorem Dev.modRegion_congr (d : Dev) (p : Nat) (g h : Region → Region) (e : g (d.region p) = h (d.region p)) :
    d.modRegion p g = d.modRegion p h := by
  simp only [Dev.modRegion, e]

/-- A region that runs, drains or is DRAINED folds. -/
theorem Dev.folding_of_state (hst : d.regionState p = 5 ∨ d.regionState p = 6 ∨ d.regionState p = 7) :
    ¬ (!(d.regionState p = rgRunning || d.regionState p = rgDraining || d.regionState p = rgDrained)) = true := by
  have hst : d.regionState p = rgRunning ∨ d.regionState p = rgDraining ∨ d.regionState p = rgDrained := hst
  simpa only [Bool.not_eq_true', Bool.not_eq_false, Bool.or_eq_true, decide_eq_true_eq, or_assoc] using hst

section Instants
variable (hl : s.dev.live = true)
  (hst : s.dev.regionState part.val = 5 ∨ s.dev.regionState part.val = 6 ∨ s.dev.regionState part.val = 7)
include hl hst

/-- A step of the plan whose instant has come moves on by the period. -/
theorem exec_foldInstant_step {i : Fin 256} {x : FoldStep} (hx : (s.dev.region part.val).steps[i.val]? = some x)
    (hdue : x.due ≤ s.dev.now) (hlast : x.due ≤ lastTime) : exec (.foldInstant part (some i)) s =
      .next { s with dev := (s.dev.modRegion part.val fun r =>
        { r with steps := lset r.steps i.val { x with due := x.due + r.period } }).foldStepAt part.val x (some i.val) } :=
  exec_next rfl hl (by
    refine (if_neg (Dev.folding_of_state hst)).trans ?_
    simp only [hx, Nat.not_lt.2 hlast, if_false, Dev.toTime_past _ hdue])

/-- A command switch, the one that is kept, whose instant has come is kept no longer. -/
theorem exec_foldInstant_switch {x : FoldStep} (hx : (s.dev.region part.val).switches = [x]) (hdue : x.due ≤ s.dev.now)
    (hlast : x.due ≤ lastTime) : exec (.foldInstant part none) s =
      .next { s with dev := (s.dev.modRegion part.val fun r => { r with switches := [] }).foldStepAt part.val x none } :=
  exec_next rfl hl (by
    refine (if_neg (Dev.folding_of_state hst)).trans ?_
    simp only [hx, List.foldl_cons, List.foldl_nil, Nat.not_lt.2 hlast, if_false, Dev.toTime_past _ hdue]
    refine congrArg (Dev.foldStepAt · part.val x none) (Dev.modRegion_congr _ _ _ _ ?_)
    simp only [hx, dropFirst, beq_self_eq_true, if_true])

end Instants

/-! ### A tile's switch (R355 to R357) -/

section Switch
variable (hl : s.dev.live = true)
include hl

/-- The old frond, under RETIRE, has no entry left. -/
theorem exec_foldOldDrained {f : Nat} (hst : (s.dev.tile tile.val).foldSt = .drainOld) (ha : (s.dev.tile tile.val).active = some f)
    (hn : (s.dev.tile tile.val).noEntries f = true) : exec (.foldOldDrained tile) s =
      .next { s with dev := s.dev.modTile tile.val fun t => { t with foldSt := .wait } } :=
  exec_next rfl hl (Dev.modTile_congr _ _ _ _ (by simp only [hst, ha, hn, if_true]))

section Requested
variable {f : Nat} {r : FoldReq} (hr : (s.dev.tile tile.val).foldReq = some r) (ha : (s.dev.tile tile.val).active = some f)
include hr ha

/-- A completion or a send of the old frond holds the switch. -/
theorem exec_foldSwitchBegin_waits (hst : (s.dev.tile tile.val).foldSt = .wait) (h : (s.dev.tile tile.val).switchReady f = false) :
    exec (.foldSwitchBegin tile) s = .next { s with dev := s.dev } :=
  exec_next rfl hl (by simp only [hst, hr, ha, h, Bool.false_eq_true, if_false])

/-- Otherwise it begins, and the largest delay is kept. -/
theorem exec_foldSwitchBegin_begins (hst : (s.dev.tile tile.val).foldSt = .wait) (h : (s.dev.tile tile.val).switchReady f = true) :
    exec (.foldSwitchBegin tile) s = .next { s with dev :=
      (s.dev.set (TILE_FOLD_LATE_V tile.val) (max (s.dev.get (TILE_FOLD_LATE_V tile.val)) (s.dev.now - r.instant))).modTile tile.val fun t =>
        { t with foldSt := .switch, switchAt := s.dev.tick } } :=
  exec_next rfl hl (by simp only [hst, hr, ha, h, if_true])

end Requested

end Switch

/-- What the switch of tile n leaves of its old frond f: all of it under PARK, nothing under the other modes (R356). -/
def Dev.leaveFrond (d : Dev) (n f : Nat) (m : FoldMode) : Dev :=
  if m = .park then d else (if m = .forced then d.forceOut n f else d).modTile n fun t => t.retire f

/-- Frond g becomes active: its retirement ends, and it starts if it has not run (R355, R356). -/
def Tile.enterFrond (t : Tile) (g : Nat) : Tile :=
  let t := { t with active := some g, foldSt := .run, foldReq := none, lastIssued := 7 }
  let t := t.modFrond g fun x => if x.retired = true then { x with retired := false, gen := (x.gen + 1) % 256 } else x
  if (t.frond g).ran = true then t else t.startFrond g

/-- The switch of tile n from frond f, as `r` asks, has been made and counted. -/
def Dev.switchMade (d : Dev) (n f : Nat) (r : FoldReq) : Dev :=
  (((d.leaveFrond n f r.mode).modTile n fun t => t.enterFrond r.frond).add (TILE_FOLD_SWITCHES_V n) 1).wakeAll n

/-- Then the steps that waited are taken (R357). -/
def Dev.switchEnded (d : Dev) (n f : Nat) (r : FoldReq) : Dev :=
  (d.switchMade n f r).foldNext n ((d.switchMade n f r).tile n).foldWait

/-- FOLD_SWITCH_END, 16 cycles after the switch began. -/
theorem exec_foldSwitchEnd {f : Nat} {r : FoldReq} (hl : s.dev.live = true) (hst : (s.dev.tile tile.val).foldSt = .switch)
    (hr : (s.dev.tile tile.val).foldReq = some r) (ha : (s.dev.tile tile.val).active = some f)
    (ht : (s.dev.tile tile.val).switchAt + 16 ≤ s.dev.tick) : exec (.foldSwitchEnd tile) s =
      .next { s with dev := s.dev.switchEnded tile.val f r } :=
  exec_next rfl hl (by
    simp only [hst, hr, ha, Dev.toTick_past _ ht]
    rfl)

/-! ### A command switch (R358) -/

/-- The fields of PART_Pp_SWITCH as written. -/
def Dev.switchTaken (d : Dev) (p v : Nat) : Dev :=
  (((d.take (PART_P_SWITCH_RECT p) v).take (PART_P_SWITCH_FROND p) v).take (PART_P_SWITCH_MODE p) v).w1c (PART_P_SWITCH_REFUSED p) v

/-- The switch that PART_Pp_SWITCH and PART_Pp_SWTIME name. -/
def Dev.switchNamed (d : Dev) (p : Nat) : FoldStep :=
  let w := d.get (PART_P_SWITCH_RECT p)
  ⟨0, bits w 15 12, bits w 11 8, bits w 7 4, bits w 3 0, d.get (PART_P_SWITCH_FROND p), d.get (PART_P_SWITCH_MODE p),
    unpackTime (d.get (PART_P_SWTIME_V p))⟩

/-- Its rectangle and mode are right, and its tiles lie in the partition and hold the frond. -/
def Dev.switchFits (d : Dev) (p : Nat) (x : FoldStep) : Prop :=
  x.x0 ≤ x.x1 ∧ x.y0 ≤ x.y1 ∧ x.mode ≤ 2 ∧
    ∀ n ∈ rectTiles x.x0 x.y0 x.x1 x.y1, (d.tile n).part = p ∧ ((d.tile n).frond x.frond).loaded = true

/-- The model's check of a command switch. -/
theorem Dev.switchCheck_iff (x : FoldStep) : (decide (x.x0 ≤ x.x1) && decide (x.y0 ≤ x.y1) && decide (x.mode ≤ 2) &&
    (rectTiles x.x0 x.y0 x.x1 x.y1).all fun n => (d.tile n).part == p && ((d.tile n).frond x.frond).loaded) = true ↔ d.switchFits p x := by
  simp [Dev.switchFits, and_assoc]

section Command
variable {cred : Cred} {v : Nat} (hc : mayCommand cred p = true) (h0 : bit v 0 = 1)
include hc h0

/-- A write with GO of a switch that fits. -/
theorem Dev.switchWr_keeps (h : (d.switchTaken p v).switchFits p ((d.switchTaken p v).switchNamed p)) : d.switchWr cred p v =
    ((d.switchTaken p v).modRegion p fun r => { r with switches := r.switches ++ [(d.switchTaken p v).switchNamed p] }, stOk) := by
  rw [Dev.switchWr, partWr_of_mayCommand _ _ _ hc]
  exact (if_neg (by simp [h0])).trans (congrArg (·, stOk) (if_pos ((Dev.switchCheck_iff _).2 h)))

/-- A write with GO of one that does not. -/
theorem Dev.switchWr_refuses (h : ¬ (d.switchTaken p v).switchFits p ((d.switchTaken p v).switchNamed p)) : d.switchWr cred p v =
    ((d.switchTaken p v).flag (PART_P_SWITCH_REFUSED p) true, stOk) := by
  rw [Dev.switchWr, partWr_of_mayCommand _ _ _ hc]
  exact (if_neg (by simp [h0])).trans (congrArg (·, stOk) (if_neg ((Dev.switchCheck_iff _).not.2 h)))

end Command

end Sys2Proof.Machine

open Sys2Proof Sys2Proof.Machine

/-- Settles O37: each command by the fold state of its tile or the instants of its region, and a command switch by whether it fits. -/
theorem folds : Obligations.Folds := by
  intro s part tile hl p n d t now st
  refine ⟨fun i x hst hx hdue hlast => exec_foldInstant_step hl hst hx hdue hlast,
    fun x hst hx hdue hlast => exec_foldInstant_switch hl hst hx hdue hlast,
    fun f hst ha hn => exec_foldOldDrained hl hst ha hn,
    fun f r hst hr ha => ⟨exec_foldSwitchBegin_waits hl hr ha hst, exec_foldSwitchBegin_begins hl hr ha hst⟩,
    fun f r hst hr ha ht => ?ends, fun cred v hc => ?command⟩
  case ends =>
    have hstep := exec_foldSwitchEnd hl hst hr ha ht
    refine ⟨fun hw => ?_, fun x rest hw => ?_⟩
    · rw [hstep, Dev.switchEnded, show ((s.dev.switchMade tile.val f r).tile tile.val).foldWait = [] from hw]
      rfl
    · rw [hstep, Dev.switchEnded, show ((s.dev.switchMade tile.val f r).tile tile.val).foldWait = x :: rest from hw]
      rfl
  case command =>
    exact ⟨fun h => exec_next rfl hl (congrArg ended (Dev.switchWr_keeps hc (bit_zero_setBits _) h)),
      fun h => exec_next rfl hl (congrArg ended (Dev.switchWr_refuses hc (bit_zero_setBits _) h))⟩

end

section
/-! PROOF. Training's end, the surveys, the SPD reads and the restarts of the management controller (R399, R527 to R534, R547, R548, R552),
and the statement about them. -/

namespace Sys2Proof.Machine

variable {d : Dev} {s : State} {cred : Cred}

/-! ### Searches of the model as propositions, and writes of the owner's registers -/

/-- A search below n as a proposition about a bounded number. -/
theorem any_range_iff {n : Nat} {q : Nat → Bool} : (List.range n).any q = true ↔ ∃ i : Fin n, q i.val = true := by
  simp only [List.any_eq_true, List.mem_range, Fin.exists_iff, exists_prop]

/-- The negation of `any_range_iff`. -/
theorem any_range_eq_false_iff {n : Nat} {q : Nat → Bool} : (List.range n).any q = false ↔ ∀ i : Fin n, q i.val = false := by
  simp only [List.any_eq_false, List.mem_range, Fin.forall_iff, Bool.not_eq_true]

/-- A write of a register of the owner's on another credential (R5). -/
theorem exec_ownerWr_denied {c : Instr} {k : Dev → Dev × Byte} (hl : s.dev.live = true) (ho : isOwner cred = false)
    (h : exec c s = .next ⟨if s.dev.live then ended (ownerWr cred s.dev k) else s.dev, s.mtr, s.pending⟩) :
    exec c s = .next { s with dev := s.dev.completed 7 0 } :=
  exec_next h hl (congrArg ended (ownerWr_of_not_isOwner _ _ ho))

/-- The same with the owner's rights, by what the write does. -/
theorem exec_ownerWr {c : Instr} {k : Dev → Dev × Byte} {u : Dev} {st : Byte} (hl : s.dev.live = true) (ho : isOwner cred = true)
    (h : exec c s = .next ⟨if s.dev.live then ended (ownerWr cred s.dev k) else s.dev, s.mtr, s.pending⟩) (e : k s.dev = (u, st)) :
    exec c s = .next { s with dev := u.completed st 0 } :=
  exec_next h hl (congrArg ended ((ownerWr_of_isOwner _ _ ho).trans e))

/-! ### Training (R399, R527) -/

/-- The training stage ends, and the start-up survey begins, if the device surveys. -/
def Dev.surveyStage (d : Dev) : Dev :=
  let d := (d.set DMC_STATUS_STAGE 3).applyPend 9
  if d.duty 9 then d else d.startSurvey true false

section Training
variable (hl : s.dev.live = true) (t : TrainResult)
include hl

/-- Outside the training stage nothing happens. -/
theorem exec_trainingStageDone_elsewhere (h : s.dev.get DMC_STATUS_STAGE ≠ 2) :
    exec (.trainingStageDone t) s = .next { s with dev := s.dev } :=
  exec_next rfl hl (if_pos h)

variable (h2 : s.dev.get DMC_STATUS_STAGE = 2)
include h2

/-- The device trains the units itself. -/
theorem exec_trainingStageDone_itself (h5 : s.dev.duty 5 = false) : exec (.trainingStageDone t) s =
    .next { s with dev := ((s.dev.hbmTrained t.hbm false).ddrTrained t.ddr false).surveyStage } :=
  exec_next rfl hl ((if_neg (not_not.2 h2)).trans (if_pos (by simp [h5])))

variable (h5 : s.dev.duty 5 = true)
include h5

/-- Under MEM_TRAINING 1 the units that train stop in TRAIN_WAIT. -/
theorem exec_trainingStageDone_waits (h : ∃ u : Fin 20, s.dev.get (unitState u.val) = 1) : exec (.trainingStageDone t) s =
    .next { s with dev := (s.dev.hbmTrained t.hbm true).ddrTrained t.ddr true } := by
  have htrain : ((List.range 20).any fun u => s.dev.get (unitState u) == usTrain) = true := any_range_iff.2 (by simpa [usTrain] using h)
  exact exec_next rfl hl ((if_neg (not_not.2 h2)).trans ((if_neg (by simp [h5])).trans (if_pos htrain)))

variable (h1 : ∀ u : Fin 20, s.dev.get (unitState u.val) ≠ 1)
include h1

/-- The stage lasts while a unit waits for the host. -/
theorem exec_trainingStageDone_lasts (h : ∃ u : Fin 20, s.dev.get (unitState u.val) = 2) :
    exec (.trainingStageDone t) s = .next { s with dev := s.dev } := by
  have htrain : ((List.range 20).any fun u => s.dev.get (unitState u) == usTrain) = false :=
    any_range_eq_false_iff.2 (by simpa [usTrain] using h1)
  have hwait : ((List.range 20).any fun u => s.dev.get (unitState u) == usWait) = true := any_range_iff.2 (by simpa [usWait] using h)
  exact exec_next rfl hl ((if_neg (not_not.2 h2)).trans ((if_neg (by simp [h5])).trans
    ((if_neg (ne_true_of_eq_false htrain)).trans (if_pos hwait))))

/-- It ends once the host has accepted them all. -/
theorem exec_trainingStageDone_ends (h : ∀ u : Fin 20, s.dev.get (unitState u.val) ≠ 2) :
    exec (.trainingStageDone t) s = .next { s with dev := s.dev.surveyStage } := by
  have htrain : ((List.range 20).any fun u => s.dev.get (unitState u) == usTrain) = false :=
    any_range_eq_false_iff.2 (by simpa [usTrain] using h1)
  have hwait : ((List.range 20).any fun u => s.dev.get (unitState u) == usWait) = false :=
    any_range_eq_false_iff.2 (by simpa [usWait] using h)
  exact exec_next rfl hl ((if_neg (not_not.2 h2)).trans ((if_neg (by simp [h5])).trans
    ((if_neg (ne_true_of_eq_false htrain)).trans (if_neg (ne_true_of_eq_false hwait)))))

end Training

/-! ### Surveys (R528, R530 to R534) -/

section Go
variable {e : Dev} (hl : s.dev.live = true) (ho : isOwner cred = true) (he : s.dev.w1c SRV_CTRL_REFUSED 1 = e)
include hl ho he

/-- GO while a survey runs is refused. -/
theorem exec_surveyGo_running (h : e.is SRV_STATUS_RUNNING = true) :
    exec (.surveyGo cred) s = .next { s with dev := (e.flag SRV_CTRL_REFUSED true).completed 0 0 } := by
  refine exec_ownerWr hl ho rfl (congrArg (·, stOk) ?_)
  simp only [he, h, if_true, Bool.true_or]

variable (h : e.is SRV_STATUS_RUNNING = false)
include h

/-- Otherwise a pending SURVEY is taken up, and GO is refused while the controller is down, or where the host surveys. -/
theorem exec_surveyGo_refused (hr : (e.applyPend 9).is SRV_STATUS_RUNNING = true ∨ (e.applyPend 9).dmcDown = true ∨
      (e.applyPend 9).duty 9 = true) :
    exec (.surveyGo cred) s = .next { s with dev := ((e.applyPend 9).flag SRV_CTRL_REFUSED true).completed 0 0 } := by
  refine exec_ownerWr hl ho rfl (congrArg (·, stOk) ?_)
  simp only [he, h, Bool.false_eq_true, if_false]
  exact if_pos (by simpa only [Bool.or_eq_true, or_assoc] using hr)

/-- GO begins a survey. -/
theorem exec_surveyGo_begins (hr : (e.applyPend 9).is SRV_STATUS_RUNNING = false) (hd : (e.applyPend 9).dmcDown = false)
    (h9 : (e.applyPend 9).duty 9 = false) :
    exec (.surveyGo cred) s = .next { s with dev := ((e.applyPend 9).startSurvey false false).completed 0 0 } := by
  refine exec_ownerWr hl ho rfl (congrArg (·, stOk) ?_)
  simp only [he, h, Bool.false_eq_true, if_false]
  exact if_neg (by simp [hr, hd, h9])

end Go

section Surveys
variable (hl : s.dev.live = true)
include hl

/-- A survey waits while the controller is down. -/
theorem exec_surveyDone_down (r : SurveyRx) (h : s.dev.is SRV_STATUS_RUNNING = true) (hd : s.dev.dmcDown = true) :
    exec (.surveyDone r) s = .next { s with dev := s.dev } :=
  exec_next rfl hl ((if_pos h).trans (if_pos hd))

/-- A survey that ends is recorded. -/
theorem exec_surveyDone_records (r : SurveyRx) (h : s.dev.is SRV_STATUS_RUNNING = true) (hd : s.dev.dmcDown = false) :
    exec (.surveyDone r) s = .next { s with dev := (s.dev.surveyRecords r).becomeReady } :=
  exec_next rfl hl ((if_pos h).trans (if_neg (ne_true_of_eq_false hd)))

/-- Where the host surveys, the stage ends without a record. -/
theorem exec_surveyDone_host (r : SurveyRx) (h : s.dev.is SRV_STATUS_RUNNING = false) (h9 : s.dev.duty 9 = true) :
    exec (.surveyDone r) s = .next { s with dev := s.dev.becomeReady } :=
  exec_next rfl hl ((if_neg (ne_true_of_eq_false h)).trans (if_pos h9))

/-- No survey runs. -/
theorem exec_surveyDone_none (r : SurveyRx) (h : s.dev.is SRV_STATUS_RUNNING = false) (h9 : s.dev.duty 9 = false) :
    exec (.surveyDone r) s = .next { s with dev := s.dev } :=
  exec_next rfl hl ((if_neg (ne_true_of_eq_false h)).trans (if_neg (ne_true_of_eq_false h9)))

/-- The device five seconds after READY, with a pending SURVEY taken up. -/
def Dev.secondDue (d : Dev) : Dev := (d.toTick (d.get DMC_READY_TIME_V + 5 * secLen)).applyPend 9

/-- The second survey is due. -/
theorem exec_secondSurvey_due (hr : s.dev.is DMC_STATUS_READY = true) (h2 : s.dev.survey.second = false)
    (hs : s.dev.is SRV_STATUS_RUNNING = false) (hd : s.dev.dmcDown = false) : exec .secondSurvey s =
      .next { s with dev := if s.dev.secondDue.duty 9 then s.dev.secondDue else s.dev.secondDue.startSurvey false true } :=
  exec_next rfl hl (if_neg (by simp [hr, h2, hs, hd]))

/-- It is not. -/
theorem exec_secondSurvey_stays (h : s.dev.is DMC_STATUS_READY = false ∨ s.dev.survey.second = true ∨
    s.dev.is SRV_STATUS_RUNNING = true ∨ s.dev.dmcDown = true) : exec .secondSurvey s = .next { s with dev := s.dev } :=
  exec_next rfl hl (if_pos (by simpa only [Bool.or_eq_true, Bool.not_eq_true', or_assoc] using h))

end Surveys

/-! ### SPD reads (R531) -/

/-- SRV_SPD_CMD as SPD_READ writes it commands GO. -/
theorem spdGo_of_setBits (v : Nat) : SRV_SPD_CMD_GO.of (setBits v 61 61 1) = 1 := by
  simp only [RF.of, SRV_SPD_CMD_GO, bits, setBits]
  omega

/-- The RW fields of SRV_SPD_CMD as written. -/
def Dev.spdTaken (d : Dev) (v : Nat) : Dev := ((d.take SRV_SPD_CMD_BLOCK v).take SRV_SPD_CMD_CHANNEL v).take SRV_SPD_CMD_SLOT v

section Spd
variable (hl : s.dev.live = true)
include hl

/-- SPD_READ while a read runs. -/
theorem exec_spdRead_busy {v : Word} (ho : isOwner cred = true) (hb : s.dev.survey.spdBusy = true) : exec (.spdRead cred v) s =
    .next { s with dev := (s.dev.spdTaken (setBits v.toNat 61 61 1)).completed 0 0 } :=
  exec_ownerWr hl ho rfl (if_pos (by simp [Dev.take, Dev.set, hb]))

/-- SPD_READ begins a read. -/
theorem exec_spdRead_begins {v : Word} (ho : isOwner cred = true) (hb : s.dev.survey.spdBusy = false) : exec (.spdRead cred v) s =
    .next { s with dev := ((({ s.dev.spdTaken (setBits v.toNat 61 61 1) with
      survey := { (s.dev.spdTaken (setBits v.toNat 61 61 1)).survey with spdBusy := true } } : Dev).flag SRV_SPD_CMD_DONE false).flag
        SRV_SPD_CMD_ERR false).completed 0 0 } :=
  exec_ownerWr hl ho rfl (if_neg (by simp [Dev.take, Dev.set, hb, spdGo_of_setBits]))

/-- A read that runs ends with the module's bytes, or with none. -/
theorem exec_spdReadDone (hb : s.dev.survey.spdBusy = true) (x : Option (List Byte)) : exec (.spdReadDone x) s =
    .next { s with dev :=
      let d := ({ s.dev with survey := { s.dev.survey with spdBusy := false } } : Dev).flag SRV_SPD_CMD_DONE true
      match x with
      | some bs => d.setDigest SRV_SPD_DATA_V bs
      | none => d.flag SRV_SPD_CMD_ERR true } :=
  exec_next rfl hl (if_neg (by simp [hb]))

/-- No read runs. -/
theorem exec_spdReadDone_none (hb : s.dev.survey.spdBusy = false) (x : Option (List Byte)) :
    exec (.spdReadDone x) s = .next { s with dev := s.dev } :=
  exec_next rfl hl (if_pos (by simp [hb]))

end Spd

/-! ### Restarts of the management controller (R498, R547, R548) -/

/-- RESTART takes effect on a controller that is past boot and not down. -/
theorem Dev.dmcCtrlWr_restarts {m : Meter} (ho : isOwner cred = true) (hd : d.dmcDown = false) (hb : d.pastBoot = true) :
    d.dmcCtrlWr m cred 1 = (d.dmcRestart m 0 none, stOk) := by
  rw [Dev.dmcCtrlWr, ownerWr_of_isOwner _ _ ho, if_pos (by simp [hd, hb, RF.of, DMC_CTRL_RESTART, bits])]

/-- Any other ignores it. -/
theorem Dev.dmcCtrlWr_ignored {m : Meter} (ho : isOwner cred = true) (h : d.dmcDown = true ∨ d.pastBoot = false) :
    d.dmcCtrlWr m cred 1 = (d, stOk) := by
  rw [Dev.dmcCtrlWr, ownerWr_of_isOwner _ _ ho, if_neg (by rcases h with h | h <;> simp [h])]

section Restarts
variable (hl : s.dev.live = true)
include hl

/-- DMC_CTRL answers BUSY while the controller restarts. -/
theorem exec_dmcRestart_busy (h : s.dev.dmcBusy DMC_CTRL = true) :
    exec (.dmcRestart cred) s = .next (s.metered (s.dev.completed 0x43 0)) :=
  exec_nextM rfl hl (congrArg ended (if_pos h))

/-- Else it is the owner's. -/
theorem exec_dmcRestart_denied (h : s.dev.dmcBusy DMC_CTRL = false) (ho : isOwner cred = false) :
    exec (.dmcRestart cred) s = .next (s.metered (s.dev.completed 7 0)) :=
  exec_nextM rfl hl (congrArg ended ((if_neg (ne_true_of_eq_false h)).trans (ownerWr_of_not_isOwner _ _ ho)))

/-- The owner's write restarts a controller that runs. -/
theorem exec_dmcRestart_restarts (h : s.dev.dmcBusy DMC_CTRL = false) (ho : isOwner cred = true) (hd : s.dev.dmcDown = false)
    (hb : s.dev.pastBoot = true) : exec (.dmcRestart cred) s = .next (s.metered ((s.dev.dmcRestart s.mtr 0 none).completed 0 0)) :=
  exec_nextM rfl hl (congrArg ended ((if_neg (ne_true_of_eq_false h)).trans (Dev.dmcCtrlWr_restarts ho hd hb)))

/-- One that is down, or that has not booted, ignores it. -/
theorem exec_dmcRestart_ignored (h : s.dev.dmcBusy DMC_CTRL = false) (ho : isOwner cred = true)
    (hd : s.dev.dmcDown = true ∨ s.dev.pastBoot = false) : exec (.dmcRestart cred) s = .next (s.metered (s.dev.completed 0 0)) :=
  exec_nextM rfl hl (congrArg ended ((if_neg (ne_true_of_eq_false h)).trans (Dev.dmcCtrlWr_ignored ho hd)))

/-- The watchdog restarts a controller that runs. -/
theorem exec_dmcWatchdog_restarts (hd : s.dev.dmcDown = false) (hb : s.dev.pastBoot = true) :
    exec (.dmcWatchdog false) s = .next (s.metered (s.dev.dmcRestart s.mtr 1 none)) :=
  exec_nextM rfl hl ((if_neg (by simp [hd, hb])).trans (if_neg Bool.false_ne_true))

/-- The record of an uncorrectable error in the controller's memory (R498). -/
def Dev.dmcUeRecorded (d : Dev) : Dev :=
  (d.log { cls := 2, sev := 3, unit := 12, detail := [Config.recordByte d.free 0, Config.recordByte d.free 1] }).draw

/-- So does such an error. -/
theorem exec_dmcWatchdog_ue (hd : s.dev.dmcDown = false) (hb : s.dev.pastBoot = true) : exec (.dmcWatchdog true) s =
    .next (s.metered (s.dev.dmcUeRecorded.dmcRestart s.mtr 2 (some s.dev.dmcUeRecorded.lastFlt))) :=
  exec_nextM rfl hl ((if_neg (by simp [hd, hb])).trans (if_pos rfl))

/-- A controller that is down, or that has not booted, has no watchdog. -/
theorem exec_dmcWatchdog_stays (h : s.dev.dmcDown = true ∨ s.dev.pastBoot = false) (ue : Bool) :
    exec (.dmcWatchdog ue) s = .next (s.metered s.dev) :=
  exec_nextM rfl hl (if_pos (by simpa only [Bool.or_eq_true, Bool.not_eq_true'] using h))

/-- A restart ends: what waited goes on. -/
theorem exec_dmcRestartDone_ends (h : s.dev.is DMC_STATUS_RESTARTING = true) : exec .dmcRestartDone s =
    .next (s.metered ((s.dev.flag DMC_STATUS_RESTARTING false).answerPulls s.mtr).resumeSparing) :=
  exec_nextM rfl hl (if_pos h)

/-- No restart is under way. -/
theorem exec_dmcRestartDone_none (h : s.dev.is DMC_STATUS_RESTARTING = false) : exec .dmcRestartDone s = .next (s.metered s.dev) :=
  exec_nextM rfl hl (if_neg (ne_true_of_eq_false h))

end Restarts

end Sys2Proof.Machine

open Sys2Proof Sys2Proof.Machine

/-- Settles O52: each command by the stage, the duty and the state of its controller that it meets. -/
theorem startUp : Obligations.StartUp := by
  intro s cred v hl d now
  refine ⟨fun t => exec_trainingStageDone_elsewhere hl t, fun t h2 => ?training, fun ho => ?go, fun r => ?done, ?second, fun ho => ?spd,
    fun hb => ⟨fun bs => exec_spdReadDone hl hb (some bs), exec_spdReadDone hl hb none⟩, exec_spdReadDone_none hl,
    fun ho => ⟨exec_ownerWr_denied hl ho rfl, exec_ownerWr_denied hl ho rfl⟩, exec_dmcRestart_busy hl, exec_dmcRestart_denied hl,
    fun hb ho => ⟨exec_dmcRestart_restarts hl hb ho, exec_dmcRestart_ignored hl hb ho⟩,
    fun hd hb => ⟨exec_dmcWatchdog_restarts hl hd hb, exec_dmcWatchdog_ue hl hd hb⟩,
    exec_dmcWatchdog_stays hl, exec_dmcRestartDone_ends hl, exec_dmcRestartDone_none hl⟩
  case training =>
    exact ⟨exec_trainingStageDone_itself hl t h2, exec_trainingStageDone_waits hl t h2, exec_trainingStageDone_lasts hl t h2,
      exec_trainingStageDone_ends hl t h2⟩
  case go => exact ⟨exec_surveyGo_running hl ho rfl, fun h => ⟨exec_surveyGo_refused hl ho rfl h, exec_surveyGo_begins hl ho rfl h⟩⟩
  case done =>
    exact ⟨exec_surveyDone_down hl r, exec_surveyDone_records hl r, exec_surveyDone_host hl r, exec_surveyDone_none hl r⟩
  case second =>
    refine ⟨fun hr h2 hs hd => ?_, exec_secondSurvey_stays hl⟩
    have hdue := exec_secondSurvey_due hl hr h2 hs hd
    exact ⟨fun h9 => hdue.trans (congrArg now (if_neg (ne_true_of_eq_false h9))), fun h9 => hdue.trans (congrArg now (if_pos h9))⟩
  case spd => exact ⟨exec_spdRead_busy hl ho, exec_spdRead_begins hl ho⟩

end

section
/-! PROOF. The writes that configure memory (R368, R370, R371, R375, R390), key rotation and its sweep (R391 to R395), and host-assisted
training (R386, R399). -/

namespace Sys2Proof.Machine

variable {d : Dev} {p : Nat} {s : State} {cred : Cred} {part : PartId} {v : Word} {ecc : Ecc}

/-! ### Writes of RWL fields alone (R14, R443) -/

/-- The partition is FREE or CLEARING, so its registers of RWL fields are shut. -/
def Dev.partShut (d : Dev) (p : Nat) : Prop := p ≠ 0 ∧ (d.partState p = 0 ∨ d.partState p = 3)

/-- An owner's write of a register whose fields `fs` are RWL of partition p; `k` is what it does where it may change one. -/
def Dev.rwlWr (d : Dev) (cred : Cred) (p : Nat) (fs : List RF) (v : Nat) (k : Dev → Dev × Byte) : Dev × Byte :=
  ownerWr cred d fun d => rwlOnly p d fun d =>
    if fs.all fun f => f.of v == d.get f then (d, stOk) else if d.sealed p then (d, stSealed) else k d

section Rwl
variable {fs : List RF} {v : Nat} {k : Dev → Dev × Byte} (ho : isOwner cred = true)
include ho

/-- A FREE or CLEARING partition's fields are not written. -/
theorem Dev.rwlWr_shut (hs : d.partShut p) : d.rwlWr cred p fs v k = (d, stDenied) := by
  rw [Dev.rwlWr, ownerWr_of_isOwner _ _ ho, rwlOnly, if_pos (by simpa [Dev.partShut] using hs)]

variable (hs : ¬ d.partShut p)
include hs

/-- The write by what it finds, past the credential and the partition's state. -/
theorem Dev.rwlWr_open : d.rwlWr cred p fs v k =
    if fs.all fun f => f.of v == d.get f then (d, stOk) else if d.sealed p then (d, stSealed) else k d := by
  rw [Dev.rwlWr, ownerWr_of_isOwner _ _ ho, rwlOnly, if_neg (by simpa [Dev.partShut] using hs)]

/-- A write of what the fields hold succeeds. -/
theorem Dev.rwlWr_same (h : ∀ f ∈ fs, f.of v = d.get f) : d.rwlWr cred p fs v k = (d, stOk) := by
  rw [Dev.rwlWr_open ho hs, if_pos (by simpa using h)]

/-- Any other is SEALED for a sealed partition. -/
theorem Dev.rwlWr_sealed (h : ¬ ∀ f ∈ fs, f.of v = d.get f) (hp : d.sealed p = true) : d.rwlWr cred p fs v k = (d, stSealed) := by
  rw [Dev.rwlWr_open ho hs, if_neg (by simpa using h), if_pos hp]

/-- Else it is judged. -/
theorem Dev.rwlWr_judged (h : ¬ ∀ f ∈ fs, f.of v = d.get f) (hp : d.sealed p = false) : d.rwlWr cred p fs v k = k d := by
  rw [Dev.rwlWr_open ho hs, if_neg (by simpa using h), if_neg (ne_true_of_eq_false hp)]

end Rwl

/-! ### Shares (R375) -/

/-- The fields of MEM_Pp_SPLIT. -/
def splitFields (p : Nat) : List RF := [MEM_P_SPLIT_READ p, MEM_P_SPLIT_WRITE p, MEM_P_SPLIT_REMOTE p]

/-- The sum of the shares in a written value. -/
def splitSum (p v : Nat) : Nat := ((splitFields p).map fun f => f.of v).sum

/-- The shares of a written value are too much: one of them, or the total with them. -/
def Dev.splitTooMuch (d : Dev) (p v : Nat) : Prop :=
  (∃ f ∈ splitFields p, 64 < f.of v) ∨ (d.holdsRange p = true ∧ 64 < d.shareSum (some (p, splitSum p v)))

/-- The shares of a written value, taken or refused. -/
def Dev.splitJudged (d : Dev) (p v : Nat) : Dev × Byte :=
  if ((splitFields p).any fun f => 64 < f.of v) || (d.holdsRange p && decide (64 < d.shareSum (some (p, splitSum p v)))) then
    (d.flag MEM_CFG_STATUS_SPLIT_REFUSED true, stOk)
  else (((splitFields p).foldl (fun d f => d.take f v) d).retotal, stOk)

/-- A write of MEM_Pp_SPLIT is one of RWL fields. -/
theorem Dev.splitWr_eq : d.splitWr cred p v = d.rwlWr cred p (splitFields p) v.toNat fun d => d.splitJudged p v.toNat := rfl

/-- The model's test of the shares. -/
theorem Dev.splitTooMuch_iff (v : Nat) : (((splitFields p).any fun f => 64 < f.of v) ||
    (d.holdsRange p && decide (64 < d.shareSum (some (p, splitSum p v))))) = true ↔ d.splitTooMuch p v := by
  simp [Dev.splitTooMuch]

/-- Too many are refused. -/
theorem Dev.splitJudged_refused {v : Nat} (h : d.splitTooMuch p v) :
    d.splitJudged p v = (d.flag MEM_CFG_STATUS_SPLIT_REFUSED true, stOk) :=
  if_pos ((Dev.splitTooMuch_iff v).2 h)

/-- Others are taken. -/
theorem Dev.splitJudged_taken {v : Nat} (h : ¬ d.splitTooMuch p v) :
    d.splitJudged p v = (((splitFields p).foldl (fun d f => d.take f v) d).retotal, stOk) :=
  if_neg ((Dev.splitTooMuch_iff v).not.2 h)

/-! ### Ranges (R368, R390) -/

/-- The fields of MEM_Pp_RANGE k. -/
def rangeFields (p k : Nat) : List RF := [MEM_P_RANGE_VALID p k, MEM_P_RANGE_TIER p k, MEM_P_RANGE_COUNT p k, MEM_P_RANGE_BASE p k]

section Range
variable (d p) (k : Nat) (v : Word)

/-- Another partition's range of the tier has a page of the written range. -/
def Dev.rangeClash : Prop := ∃ q ∈ allParts, q ≠ p ∧ ∃ j : Fin 8, d.is (MEM_P_RANGE_VALID q j.val) = true ∧
  d.get (MEM_P_RANGE_TIER q j.val) = (MEM_P_RANGE_TIER p k).of v.toNat ∧
  (MEM_P_RANGE_BASE p k).of v.toNat < d.get (MEM_P_RANGE_BASE q j.val) + d.get (MEM_P_RANGE_COUNT q j.val) ∧
  d.get (MEM_P_RANGE_BASE q j.val) < (MEM_P_RANGE_BASE p k).of v.toNat + (MEM_P_RANGE_COUNT p k).of v.toNat

/-- A stack failed training. -/
def Dev.stackFailed : Prop := ∃ j : Fin 12, d.get (HBM_S_STATUS_STATE j.val) = 4

/-- The model's search for one. -/
theorem Dev.stackFailed_iff : ((List.range 12).any fun j => d.get (HBM_S_STATUS_STATE j) == 4) = true ↔ d.stackFailed := by
  simp only [any_range_iff, beq_iff_eq, Dev.stackFailed]

/-- Pages of the written range's tier. -/
def Dev.rangeRoom : Nat := (if (MEM_P_RANGE_TIER p k).of v.toNat = 0 then d.hbmBytes else d.ddrBytes) / pageBytes

/-- The written range passes the end of its tier. -/
def Dev.rangePast : Prop := d.rangeRoom p k v < (MEM_P_RANGE_BASE p k).of v.toNat + (MEM_P_RANGE_COUNT p k).of v.toNat

/-- The write would map a range that cannot be mapped. -/
def Dev.rangeUnfit : Prop :=
  (MEM_P_RANGE_VALID p k).of v.toNat = 1 ∧ (d.rangeClash p k v ∨ d.stackFailed ∨ d.rangePast p k v)

/-- The model's search for a clash. -/
def Dev.rangeClashes : Bool := allParts.any fun q => q != p && (List.range 8).any fun j =>
  d.is (MEM_P_RANGE_VALID q j) && d.get (MEM_P_RANGE_TIER q j) == (MEM_P_RANGE_TIER p k).of v.toNat &&
  decide ((MEM_P_RANGE_BASE p k).of v.toNat < d.get (MEM_P_RANGE_BASE q j) + d.get (MEM_P_RANGE_COUNT q j)) &&
  decide (d.get (MEM_P_RANGE_BASE q j) < (MEM_P_RANGE_BASE p k).of v.toNat + (MEM_P_RANGE_COUNT p k).of v.toNat)

/-- The written range, taken or refused. -/
def Dev.rangeJudged : Dev × Byte :=
  if (MEM_P_RANGE_VALID p k).of v.toNat == 1 && (d.rangeClashes p k v ||
      decide (d.rangeRoom p k v < (MEM_P_RANGE_BASE p k).of v.toNat + (MEM_P_RANGE_COUNT p k).of v.toNat) ||
      (List.range 12).any fun j => d.get (HBM_S_STATUS_STATE j) == 4) then
    (d.flag MEM_CFG_STATUS_RANGE_REFUSED true, stOk)
  else (d.rangeTake p k v, stOk)

/-- A write of MEM_Pp_RANGE is one of RWL fields. -/
theorem Dev.rangeWr_eq : d.rangeWr cred p k v = d.rwlWr cred p (rangeFields p k) v.toNat fun d => d.rangeJudged p k v := rfl

/-- The search finds a clash where there is one. -/
theorem Dev.rangeClashes_iff : d.rangeClashes p k v = true ↔ d.rangeClash p k v := by
  simp only [Dev.rangeClashes, Dev.rangeClash, List.any_eq_true, Bool.and_eq_true, bne_iff_ne, beq_iff_eq, decide_eq_true_eq, and_assoc,
    List.mem_range, Fin.exists_iff, exists_prop]

/-- The model's test of the written range. -/
theorem Dev.rangeRefuses_iff : ((MEM_P_RANGE_VALID p k).of v.toNat == 1 && (d.rangeClashes p k v ||
      decide (d.rangeRoom p k v < (MEM_P_RANGE_BASE p k).of v.toNat + (MEM_P_RANGE_COUNT p k).of v.toNat) ||
      (List.range 12).any fun j => d.get (HBM_S_STATUS_STATE j) == 4)) = true ↔ d.rangeUnfit p k v := by
  rw [Bool.and_eq_true, Bool.or_eq_true, Bool.or_eq_true, beq_iff_eq, Dev.rangeClashes_iff, decide_eq_true_eq, Dev.stackFailed_iff,
    or_right_comm, or_assoc, Dev.rangeUnfit, Dev.rangePast]

variable {d p k v}

/-- Such a write is refused. -/
theorem Dev.rangeJudged_refused (h : d.rangeUnfit p k v) : d.rangeJudged p k v = (d.flag MEM_CFG_STATUS_RANGE_REFUSED true, stOk) :=
  if_pos ((d.rangeRefuses_iff p k v).2 h)

/-- Any other is taken. -/
theorem Dev.rangeJudged_taken (h : ¬ d.rangeUnfit p k v) : d.rangeJudged p k v = (d.rangeTake p k v, stOk) :=
  if_neg ((d.rangeRefuses_iff p k v).not.2 h)

end Range

/-! ### The commands of the configuration -/

section Config
variable (hl : s.dev.live = true)
include hl

/-- The five commands are the owner's. -/
theorem exec_memoryConfig_denied (ho : isOwner cred = false) (k : Fin 8) (unit : Fin 20) (pass : Bool) (result : Nat) :
    ∀ c ∈ ([.hbmIlvWrite cred v, .memSplitWrite cred part v, .memRangeWrite cred part k v, .trainStep cred unit v pass result,
      .trainDone cred unit] : List Instr), exec c s = .next { s with dev := s.dev.completed 7 0 } := by
  simp only [List.forall_mem_cons, List.not_mem_nil, false_imp_iff, implies_true, and_true]
  refine ⟨?_, ?_, ?_, ?_, ?_⟩ <;> exact exec_ownerWr_denied hl ho rfl

/-- A write of MEM_Pp_SPLIT by its outcome. -/
theorem exec_memSplitWrite {u : Dev} {st : Byte} (h : s.dev.rwlWr cred part.val (splitFields part.val) v.toNat
    (fun d => d.splitJudged part.val v.toNat) = (u, st)) : exec (.memSplitWrite cred part v) s = .next { s with dev := u.completed st 0 } :=
  exec_next rfl hl (congrArg ended h)

/-- A write of MEM_Pp_RANGE by its outcome. -/
theorem exec_memRangeWrite {u : Dev} {st : Byte} {k : Fin 8} (h : s.dev.rwlWr cred part.val (rangeFields part.val k.val) v.toNat
    (fun d => d.rangeJudged part.val k.val v) = (u, st)) :
    exec (.memRangeWrite cred part k v) s = .next { s with dev := u.completed st 0 } :=
  exec_next rfl hl (congrArg ended h)

variable (ho : isOwner cred = true)
include ho

/-- ILV stays while a partition holds an HBM range. -/
theorem exec_hbmIlvWrite_held (h : (allParts.any fun p => (List.range 8).any fun k =>
      s.dev.is (MEM_P_RANGE_VALID p k) && s.dev.get (MEM_P_RANGE_TIER p k) == 0) = true) :
    exec (.hbmIlvWrite cred v) s = .next { s with dev := s.dev.completed 7 0 } :=
  exec_ownerWr hl ho rfl (if_pos h)

/-- Else it is written. -/
theorem exec_hbmIlvWrite_free (h : (allParts.any fun p => (List.range 8).any fun k =>
      s.dev.is (MEM_P_RANGE_VALID p k) && s.dev.get (MEM_P_RANGE_TIER p k) == 0) = false) :
    exec (.hbmIlvWrite cred v) s = .next { s with dev := (s.dev.newInterleave v.toNat).completed 0 0 } :=
  exec_ownerWr hl ho rfl (if_neg (ne_true_of_eq_false h))

end Config

/-! ### Key rotation and its sweep (R391 to R395) -/

/-- The new key comes into use, and every page of the partition is of the old generation. -/
def Dev.keyTaken (d : Dev) (p : Nat) : Dev :=
  let x := ((d.addWrap (MEM_P_KEY_GEN p) 1).set (MEM_P_KEY_STATE p) 1).flag (MEM_P_KEY_NEWKEY p) false
  (x.set (MEM_P_SWSTAT_OLDPAGES p) (d.pagesOf p).length).modPart p fun y =>
    { y with oldKey := y.curKey, curKey := y.newKey, newKey := ⟨0⟩, movedOld := d.pagesOf p }

/-- The end of the sweep leaves MOVING. -/
theorem Dev.sweepDone_moving : (d.sweepDone p).is (MEM_P_SWSTAT_MOVING p) = d.is (MEM_P_SWSTAT_MOVING p) := by
  have hkey : (MEM_P_SWSTAT_MOVING p).key ≠ (MEM_P_KEY_STATE p).key :=
    RF.key_ne_of_addr_ne (by simp [MEM_P_SWSTAT_MOVING, MEM_P_SWSTAT, MEM_P_KEY_STATE, MEM_P_KEY])
      (by simp [MEM_P_SWSTAT_MOVING]) (by simp [MEM_P_KEY_STATE])
  unfold Dev.sweepDone
  split
  · simp only [Dev.is, Dev.modPart_get, Dev.get_set_ne _ _ _ _ hkey]
  · rfl

/-- A page that begins to be swept MOVES. -/
theorem Dev.sweepPage_moving (tier pg : Nat) : (d.sweepPage p tier pg).is (MEM_P_SWSTAT_MOVING p) = true := by
  simp [Dev.sweepPage, Dev.is, Dev.get_set, Dev.get_flag, RF.key, RF.width, MEM_P_SWSTAT_MOVING, MEM_P_SWSTAT_LINE, MEM_P_SWSTAT_PAGE,
    MEM_P_SWSTAT_TIER]

/-- A write that the credential may make for its partition, by what it does. -/
theorem exec_partWr {c : Instr} {k : Dev → Dev × Byte} {u : Dev} {st : Byte} (hl : s.dev.live = true)
    (hc : mayCommand cred part.val = true)
    (h : exec c s = .next ⟨if s.dev.live then ended (partWr cred part.val s.dev k) else s.dev, s.mtr, s.pending⟩)
    (e : k s.dev = (u, st)) : exec c s = .next { s with dev := u.completed st 0 } :=
  exec_next h hl (congrArg ended ((partWr_of_mayCommand _ _ _ hc).trans e))

section Keys
variable (hl : s.dev.live = true)
include hl

section Commands
variable (hc : mayCommand cred part.val = true)
include hc

/-- ROTATE outside the idle state, or with no new key. -/
theorem exec_keyRotate_refused (h : s.dev.get (MEM_P_KEY_STATE part.val) ≠ 0 ∨ (s.dev.part part.val).newKey.serial = 0) :
    exec (.keyRotate cred part) s = .next { s with dev := (s.dev.flag (MEM_P_KEY_REFUSED part.val) true).completed 0 0 } :=
  exec_partWr hl hc rfl (if_pos (by simpa using h))

/-- ROTATE from the idle state. -/
theorem exec_keyRotate_rotates (h0 : s.dev.get (MEM_P_KEY_STATE part.val) = 0) (hk : (s.dev.part part.val).newKey.serial ≠ 0) :
    exec (.keyRotate cred part) s = .next { s with dev := ((s.dev.keyTaken part.val).sweepDone part.val).completed 0 0 } :=
  exec_partWr hl hc rfl (if_neg (by simp [h0, hk]))

/-- SWEEP names a page that waits, while the host sweeps and none moves. -/
theorem exec_sweepPage_begins (h7 : s.dev.duty 7 = true) (h1 : s.dev.get (MEM_P_KEY_STATE part.val) = 1)
    (hm : s.dev.is (MEM_P_SWSTAT_MOVING part.val) = false)
    (hp : pageKey ((MEM_P_SWEEP_TIER part.val).of v.toNat) ((MEM_P_SWEEP_PAGE part.val).of v.toNat) ∈ (s.dev.part part.val).movedOld) :
    exec (.sweepPage cred part v) s = .next { s with dev := (s.dev.sweepPage part.val ((MEM_P_SWEEP_TIER part.val).of v.toNat)
      ((MEM_P_SWEEP_PAGE part.val).of v.toNat)).completed 0 0 } :=
  exec_partWr hl hc rfl (if_pos (by simp [h7, h1, hm, hp]))

/-- Any other SWEEP is refused. -/
theorem exec_sweepPage_refused (h : s.dev.duty 7 = false ∨ s.dev.get (MEM_P_KEY_STATE part.val) ≠ 1 ∨
      s.dev.is (MEM_P_SWSTAT_MOVING part.val) = true ∨
      pageKey ((MEM_P_SWEEP_TIER part.val).of v.toNat) ((MEM_P_SWEEP_PAGE part.val).of v.toNat) ∉ (s.dev.part part.val).movedOld) :
    exec (.sweepPage cred part v) s = .next { s with dev := (s.dev.flag (MEM_P_SWSTAT_REFUSED part.val) true).completed 0 0 } :=
  exec_partWr hl hc rfl (if_neg (by rcases h with h | h | h | h <;> simp [h]))

end Commands

/-- No sweep is under way, or it is stalled. -/
theorem exec_keySweepLine_stays (h : s.dev.get (MEM_P_KEY_STATE part.val) ≠ 1 ∨ s.dev.is (MEM_P_SWSTAT_STALLED part.val) = true) :
    exec (.keySweepLine part ecc) s = .next { s with dev := s.dev } :=
  exec_next rfl hl (if_pos (by simpa using h))

section Sweep
variable (h1 : s.dev.get (MEM_P_KEY_STATE part.val) = 1) (hst : s.dev.is (MEM_P_SWSTAT_STALLED part.val) = false)
include h1 hst

/-- The page that moves goes on with its next line. -/
theorem exec_keySweepLine_moves (hm : s.dev.is (MEM_P_SWSTAT_MOVING part.val) = true) :
    exec (.keySweepLine part ecc) s = .next { s with dev := s.dev.sweepLine part.val ecc } :=
  exec_next rfl hl ((if_neg (by simp [h1, hst])).trans (by simp only [hm, Bool.true_or, if_true]))

variable (hm : s.dev.is (MEM_P_SWSTAT_MOVING part.val) = false)
include hm

/-- The host begins the pages of its sweep. -/
theorem exec_keySweepLine_host (h7 : s.dev.duty 7 = true) : exec (.keySweepLine part ecc) s = .next { s with dev := s.dev } :=
  exec_next rfl hl ((if_neg (by simp [h1, hst])).trans (by simp only [hm, h7, Bool.or_true, if_true, Bool.false_eq_true, if_false]))

variable (h7 : s.dev.duty 7 = false)
include h7

/-- No page waits any more. -/
theorem exec_keySweepLine_ends (hp : (s.dev.part part.val).movedOld = []) :
    exec (.keySweepLine part ecc) s = .next { s with dev := s.dev.sweepDone part.val } :=
  exec_next rfl hl ((if_neg (by simp [h1, hst])).trans (by
    simp only [hm, h7, hp, Bool.or_false, Bool.false_eq_true, if_false, Dev.sweepDone_moving]))

/-- The device begins the first page that waits. -/
theorem exec_keySweepLine_begins {g : Nat} {l : List Nat} (hp : (s.dev.part part.val).movedOld = g :: l) :
    exec (.keySweepLine part ecc) s =
      .next { s with dev := (s.dev.sweepPage part.val (g / 2 ^ 22) (g % 2 ^ 22)).sweepLine part.val ecc } :=
  exec_next rfl hl ((if_neg (by simp [h1, hst])).trans (by
    simp only [hm, h7, hp, Bool.or_false, Bool.false_eq_true, if_false, Dev.sweepPage_moving, if_true]))

end Sweep

/-- The old key is gone. -/
theorem exec_keyRetire_retires (h : s.dev.get (MEM_P_KEY_STATE part.val) = 2) : exec (.keyRetire part) s =
    .next { s with dev := (s.dev.set (MEM_P_KEY_STATE part.val) 0).modPart part.val fun x => { x with oldKey := ⟨0⟩ } } :=
  exec_next rfl hl (if_neg (not_not.2 h))

/-- Nothing retires. -/
theorem exec_keyRetire_none (h : s.dev.get (MEM_P_KEY_STATE part.val) ≠ 2) : exec (.keyRetire part) s = .next { s with dev := s.dev } :=
  exec_next rfl hl (if_pos h)

end Keys

/-! ### Host-assisted training (R386, R399) -/

/-- A stack, or a channel of the group in use, enters service as the host accepts it. -/
theorem Dev.unitAccepted_used {u : Nat} (h : u < 12 ∨ u - 12 ∈ d.ddrUsed) : d.unitAccepted u = d.unitReady u :=
  if_neg (by rcases h with h | h <;> simp [h])

/-- GO runs the step. -/
def Dev.trainRan (d : Dev) (u v : Nat) (pass : Bool) (result : Nat) : Dev :=
  if bit v 0 = 1 then (d.flag (trainPass u) pass).set (trainResult u) result else d

section Train
variable {unit : Fin 20} (hl : s.dev.live = true) (ho : isOwner cred = true)
include hl ho

/-- DONE accepts a unit in TRAIN_WAIT. -/
theorem exec_trainDone_accepts (h : s.dev.get (unitState unit.val) = 2) :
    exec (.trainDone cred unit) s = .next { s with dev := (s.dev.unitAccepted unit.val).completed 0 0 } :=
  exec_ownerWr hl ho rfl (congrArg (·, stOk) (if_pos h))

/-- It does nothing for another. -/
theorem exec_trainDone_ignored (h : s.dev.get (unitState unit.val) ≠ 2) :
    exec (.trainDone cred unit) s = .next { s with dev := s.dev.completed 0 0 } :=
  exec_ownerWr hl ho rfl (congrArg (·, stOk) (if_neg h))

variable {e : Dev} (he : (s.dev.takeIf (trainStep unit.val) v.toNat fun x => decide (x < 5)).take (trainChan unit.val) v.toNat = e)
  (pass : Bool) (result : Nat)
include he

/-- A unit in TRAIN_WAIT takes STEP and CHAN and runs the step, and DONE in the same write accepts it. -/
theorem exec_trainStep_waits (h : e.get (unitState unit.val) = 2) : exec (.trainStep cred unit v pass result) s =
    .next { s with dev := (if bit v.toNat 2 = 1 then (e.trainRan unit.val v.toNat pass result).unitAccepted unit.val
      else e.trainRan unit.val v.toNat pass result).completed 0 0 } := by
  have hw : (e.get (unitState unit.val) == usWait) = true := beq_iff_eq.2 h
  refine exec_ownerWr hl ho rfl (congrArg (·, stOk) ?_)
  simp only [he, hw, Bool.and_true, decide_eq_true_eq, Dev.trainRan]

/-- One in any other state takes STEP and CHAN alone. -/
theorem exec_trainStep_elsewhere (h : e.get (unitState unit.val) ≠ 2) :
    exec (.trainStep cred unit v pass result) s = .next { s with dev := e.completed 0 0 } := by
  have hw : (e.get (unitState unit.val) == usWait) = false := beq_eq_false_iff_ne.2 h
  refine exec_ownerWr hl ho rfl (congrArg (·, stOk) ?_)
  simp only [he, hw, Bool.and_false, Bool.false_eq_true, if_false]

end Train

end Sys2Proof.Machine

end

section
/-! PROOF. The lines of the DMA engines (R380 to R384), the slots and refreshes of the channels (R374, R376, R379, R396), and the statement
about memory. -/

namespace Sys2Proof.Machine

variable {d : Dev} {s : State} {ecc : Ecc}

/-! ### Lines of the DMA engines (R380 to R384) -/

section Issue
variable {tile : TileId} {eng : Fin 2} {t : Tile} {x : Engine} (hl : s.dev.live = true)
  (ht : s.dev.tile tile.val = t) (hx : t.engine (dmaEng eng.val) = x)
include hl ht hx

/-- A tile that is held or being cleared issues nothing, nor does an engine with 192 lines out. -/
theorem exec_dmaLineIssue_stays (h : t.held = true ∨ t.clearing = true ∨ 192 ≤ (x.run.map fun r => r.flight.length).sum) :
    exec (.dmaLineIssue tile eng ecc) s = .next { s with dev := s.dev } := by
  subst ht hx
  exact exec_next rfl hl (if_pos (by simpa [or_assoc] using h))

/-- No transfer has a line left to issue. -/
theorem exec_dmaLineIssue_none
    (hn : ((List.range x.run.length).find? fun i => (x.run[i]?.map fun r => !r.plan.isEmpty).getD false) = none) :
    exec (.dmaLineIssue tile eng ecc) s = .next { s with dev := s.dev } := by
  subst ht hx
  exact exec_next rfl hl (by simp only [hn, ite_self])

/-- The first transfer that has one issues its next line. -/
theorem exec_dmaLineIssue_issues {i src dst len : Nat} {r : Run} {rest : List Micro} (hh : t.held = false) (hcl : t.clearing = false)
    (hout : (x.run.map fun r => r.flight.length).sum < 192)
    (hn : ((List.range x.run.length).find? fun i => (x.run[i]?.map fun r => !r.plan.isEmpty).getD false) = some i)
    (hr : x.run[i]? = some r) (hp : r.plan = .dma src dst len :: rest) :
    exec (.dmaLineIssue tile eng ecc) s = .next { s with dev := s.dev.dmaIssue tile.val eng.val i r src dst len rest ecc } := by
  subst ht hx
  exact exec_next rfl hl ((if_neg (by simp [hh, hcl, hout])).trans (by simp only [hn, hr, hp]))

end Issue

section Back
variable {n eng i : Nat} {r : Run} {a : DmaAccess}

/-- The transfer without the access `a`. -/
def Run.without (r : Run) (a : DmaAccess) : Run := { r with flight := r.flight.filter fun b => b.id != a.id }

/-- An error ends the transfer. -/
theorem Dev.dmaBack_error (h : a.status ≠ 0) :
    d.dmaBack n eng i r a = (d.dmaCopyOff n eng a).dmaEnd n (dmaEng eng) i (r.without a) a.status :=
  if_pos h

variable (h0 : a.status = 0)
include h0

/-- A line of a transfer that has ended is discarded. -/
theorem Dev.dmaBack_ended (hr : r.err ≠ 0) :
    d.dmaBack n eng i r a = (d.dmaCopyOff n eng a).modTile n fun t => t.setRun (dmaEng eng) i (r.without a) :=
  (if_neg (not_not.2 h0)).trans (if_pos hr)

variable (hr : r.err = 0)
include hr

/-- A copy's read lets its write go on. -/
theorem Dev.dmaBack_copy (hd : a.done = false) : d.dmaBack n eng i r a = (d.modTile n fun t => t.setRun (dmaEng eng) i
    { r with flight := r.flight.map fun b => if b.id = a.id then { b with data := none } else b }).dmaCopyOn n eng a :=
  (if_neg (not_not.2 h0)).trans ((if_neg (not_not.2 hr)).trans (if_pos (by simp [hd])))

variable (hd : a.done = true)
include hd

/-- What a line that is done leaves, by what its transfer writes. -/
theorem Dev.dmaBack_done : d.dmaBack n eng i r a =
    if r.macro_.dmaWrite then d.dmaTake n (dmaEng eng) i r a
    else if r.macro_.bightDst then d.modTile n fun t => t.dmaLand (dmaEng eng) i r a
    else d.modTile n fun t => t.setRun (dmaEng eng) i (r.without a) :=
  (if_neg (not_not.2 h0)).trans ((if_neg (not_not.2 hr)).trans (if_neg (by simp [hd])))

end Back

/-- A multicast into a bight is no get. -/
theorem Macro.dmaWrite_of_bightDst {m : Macro} (h : m.bightDst = true) : m.dmaWrite = false := by
  obtain ⟨hkind, -⟩ : m.kind = .dmMput ∧ m.dc.bight ≠ 0 := by simpa [Macro.bightDst] using h
  simp [Macro.dmaWrite, hkind]

/-- The access has been answered, so it can return at the drop: it is done, or it is a copy whose data have come. -/
def Run.answered (r : Run) (a : DmaAccess) : Bool := a.done || (r.macro_.kind == .dmMcopy && a.left == 1 && a.data.isSome)

/-- The model's test of that. -/
theorem Run.answered_eq (r : Run) : (fun a : DmaAccess => a.done || (r.macro_.kind == .dmMcopy && a.left == 1 && a.data.isSome)) =
    r.answered := rfl

section Complete
variable {tile : TileId} {eng : Fin 2} {x : Engine} (hl : s.dev.live = true) (hx : (s.dev.tile tile.val).engine (dmaEng eng.val) = x)
include hl hx

/-- No line has been answered. -/
theorem exec_dmaLineComplete_none (hn : ((List.range x.run.length).find? fun i =>
      (x.run[i]?.map fun r => r.flight.any r.answered).getD false) = none) :
    exec (.dmaLineComplete tile ⟨eng, ecc⟩) s = .next (s.metered s.dev) := by
  subst hx
  exact exec_nextM rfl hl (by simp only [Run.answered_eq, hn])

variable {i : Nat} {r : Run} {a : DmaAccess} (hn : ((List.range x.run.length).find? fun i =>
    (x.run[i]?.map fun r => r.flight.any r.answered).getD false) = some i) (hr : x.run[i]? = some r)
  (ha : r.flight.find? r.answered = some a)
include hn hr ha

/-- The line returns, where no word that it read of another tile's window failed its check. -/
theorem exec_dmaLineComplete_plain (h : a.status ≠ 0 ∨ ecc = .ok ∨ a.windowRead r.macro_ = none) :
    exec (.dmaLineComplete tile ⟨eng, ecc⟩) s = .next (s.metered (s.dev.dmaBack tile.val eng.val i r a)) := by
  subst hx
  refine exec_nextM rfl hl ?_
  simp only [Run.answered_eq, hn, hr, ha]
  rcases h with h | h | h
  · simp only [if_neg (show ¬ a.status = stOk from h)]
  · subst h
    cases (if a.status = stOk then a.windowRead r.macro_ else none) <;> rfl
  · simp only [h, ite_self]

variable {w : Nat} (h0 : a.status = 0) (hw : a.windowRead r.macro_ = some w)
include h0 hw

/-- A word that could not be corrected is contained. -/
theorem exec_dmaLineComplete_ue : exec (.dmaLineComplete tile ⟨eng, .uncorrectable⟩) s =
    .next (s.metered (s.dev.memUeFor (winTile w) (winOffset w) rdDma tile.val r.macro_.frond r.macro_.strand)) := by
  subst hx
  exact exec_nextM rfl hl (by simp only [Run.answered_eq, hn, hr, ha, if_pos (show a.status = stOk from h0), hw])

/-- A corrected one is counted, and the line returns. -/
theorem exec_dmaLineComplete_corrected : exec (.dmaLineComplete tile ⟨eng, .corrected⟩) s =
    .next (s.metered ((s.dev.corrected (winTile w) (winOffset w)).dmaBack tile.val eng.val i r a)) := by
  subst hx
  exact exec_nextM rfl hl (by simp only [Run.answered_eq, hn, hr, ha, if_pos (show a.status = stOk from h0), hw])

end Complete

/-! ### Slots and refreshes of a channel (R374, R376, R379, R396) -/

/-- Channel k as given. -/
def Dev.setChan (d : Dev) (k : Nat) (c : MemChan) : Dev := { d with mem := { d.mem with chans := mset d.mem.chans k c } }

/-- A slot of access x is counted, with what the check bits showed. -/
def Dev.slotCounted (d : Dev) (x : MemAccess) (ecc : Ecc) : Dev :=
  let d := d.add (MEM_P_BYTES_V x.part (streamNo x.stream)) 64
  match ecc with
  | .ok => d
  | .corrected => d.memCorrected x.addr
  | .uncorrectable => if (x.isWrite = true ∧ x.len = 256) ∨ x.who = Requester.served then d else d.markLine x.addr

/-- The channel after a slot of the access in place i: it is served, or one slot nearer to that. -/
def Dev.slotServed (d : Dev) (k : Nat) (c : MemChan) (i : Nat) (x : MemAccess) : Dev :=
  if x.left ≤ 1 then (d.setChan k { c with queue := c.queue.eraseIdx i }).finishAccess x
  else d.setChan k { c with queue := c.queue.set i { x with left := x.left - 1 } }

section Slot
variable {chan : Fin 392} {owner : Option (PartId × StreamId)} {c : MemChan} (hl : s.dev.live = true)
  (hc : mget s.dev.mem.chans MemChan.init chan.val = c)
include hl hc

/-- The slot cannot be this owner's. -/
theorem exec_channelSlot_other (hs : s.dev.slotIs c (owner.map fun x => (x.1.val, x.2)) = false) :
    exec (.channelSlot chan owner ecc) s = .next { s with dev := s.dev } := by
  subst hc
  exact exec_next rfl hl (if_pos (by simp only [hs, Bool.not_false]))

variable (hs : s.dev.slotIs c (owner.map fun x => (x.1.val, x.2)) = true) {passed : MemChan}
  (hp : c.passSlot (owner.map fun x => (x.1.val, x.2)) = passed)
include hs hp

/-- No access of the owner's partition can be made in it. -/
theorem exec_channelSlot_idle (hi : passed.pick owner = none) :
    exec (.channelSlot chan owner ecc) s = .next { s with dev := (s.dev.setChan chan.val passed).idleSlot chan.val owner ecc } := by
  subst hc hp
  exact exec_next rfl hl ((if_neg (by simp only [hs, Bool.not_true, Bool.false_eq_true, not_false_eq_true])).trans (by
    simp only [hi]; rfl))

/-- It serves the access that is picked. -/
theorem exec_channelSlot_serves {i : Nat} {x : MemAccess} (hi : passed.pick owner = some i) (hq : c.queue[i]? = some x) :
    exec (.channelSlot chan owner ecc) s =
      .next { s with dev := ((s.dev.setChan chan.val passed).slotCounted x ecc).slotServed chan.val passed i x } := by
  subst hc hp
  have hq' : ((mget s.dev.mem.chans MemChan.init chan.val).passSlot (owner.map fun x => (x.1.val, x.2))).queue[i]? = some x := hq
  refine exec_next rfl hl ((if_neg (by simp only [hs, Bool.not_true, Bool.false_eq_true, not_false_eq_true])).trans ?_)
  simp only [hi, hq']
  cases ecc with
  | ok => rfl
  | corrected => rfl
  | uncorrectable => simp only [Bool.or_eq_true, Bool.and_eq_true, beq_iff_eq]; rfl

end Slot

/-- Waits for a refresh are counted for the channel's stack, or for its DDR5 channel. -/
def Dev.refreshWaited (d : Dev) (chan k : Nat) : Dev :=
  if chan < 384 then d.add (HBM_S_REFWAIT_V (chan / 32)) k else d.add (DDR_C_REFWAIT_V (chan - 384)) k

/-- REFRESH by the waits that the free values give. -/
theorem exec_refresh {chan : Fin 392} {c : MemChan} {w : List MemAccess × Nat × Nat} (hl : s.dev.live = true)
    (hc : mget s.dev.mem.chans MemChan.init chan.val = c) (hw : refreshWaits s.dev.free c.queue = w) : exec (.refresh chan) s =
      .next { s with dev := { (s.dev.refreshWaited chan.val w.2.1).setChan chan.val { c with queue := w.1 } with free := w.2.2 } } := by
  subst hc hw
  exact exec_next rfl hl rfl

/-- The free value says that a single access waited. -/
theorem refreshWaits_single {k : Nat} {x : MemAccess} (hx : x.refresh = false) (hk : Config.refreshHeld k = true) :
    refreshWaits k [x] = ([{ x with refresh := true }], 1, k + 1) := by
  simp [refreshWaits, hx, hk]

end Sys2Proof.Machine

open Sys2Proof Sys2Proof.Machine

/-- Settles O48: the writes by what they find of their partition, each step of the sweep, of training, of a DMA engine and of a channel
by the state that it meets. -/
theorem memoryRules : Obligations.MemoryRules := by
  intro s cred part v ecc hl p d now ok held shut
  refine ⟨exec_memoryConfig_denied hl, fun ho hs => ?shut, exec_hbmIlvWrite_held hl, exec_hbmIlvWrite_free hl, fun ho hs => ?split,
    fun k ho hs => ?range, fun hc => ?keys, fun hc => ?keysDenied, exec_keySweepLine_stays hl, fun h1 hst => ?sweep,
    exec_keyRetire_retires hl, exec_keyRetire_none hl, fun unit pass result ho => ?train, fun tile eng => ?dma, fun chan owner => ?slot⟩
  case shut => exact ⟨exec_memSplitWrite hl (Dev.rwlWr_shut ho hs), fun k => exec_memRangeWrite hl (Dev.rwlWr_shut ho hs)⟩
  case split =>
    exact ⟨fun h => exec_memSplitWrite hl (Dev.rwlWr_same ho hs h), fun h hp => exec_memSplitWrite hl (Dev.rwlWr_sealed ho hs h hp),
      fun h hp hm => exec_memSplitWrite hl ((Dev.rwlWr_judged ho hs h hp).trans (Dev.splitJudged_refused hm)),
      fun h hp hm => exec_memSplitWrite hl ((Dev.rwlWr_judged ho hs h hp).trans (Dev.splitJudged_taken hm))⟩
  case range =>
    refine ⟨fun h => exec_memRangeWrite hl (Dev.rwlWr_same ho hs h), fun h hp => exec_memRangeWrite hl (Dev.rwlWr_sealed ho hs h hp),
      fun h hp hv => ⟨fun hr => ?refused, fun hc hf hr => ?taken⟩, fun h hp hv => ?unmapped⟩
    case refused => exact exec_memRangeWrite hl ((Dev.rwlWr_judged ho hs h hp).trans (Dev.rangeJudged_refused ⟨hv, hr⟩))
    case taken =>
      refine exec_memRangeWrite hl ((Dev.rwlWr_judged ho hs h hp).trans (Dev.rangeJudged_taken ?_))
      rintro ⟨-, h | h | h⟩
      exacts [hc h, hf h, Nat.not_lt.2 hr h]
    case unmapped =>
      exact exec_memRangeWrite hl ((Dev.rwlWr_judged ho hs h hp).trans
        (Dev.rangeJudged_taken fun ⟨h1, _⟩ => Nat.zero_ne_one (hv.symm.trans h1)))
  case keys =>
    exact ⟨exec_keyRotate_refused hl hc, exec_keyRotate_rotates hl hc, exec_sweepPage_begins hl hc, exec_sweepPage_refused hl hc⟩
  case keysDenied => exact ⟨exec_partWr_denied hl hc rfl, exec_partWr_denied hl hc rfl⟩
  case sweep =>
    exact ⟨exec_keySweepLine_moves hl h1 hst, exec_keySweepLine_host hl h1 hst, exec_keySweepLine_ends hl h1 hst,
      fun g l hm h7 hp => exec_keySweepLine_begins hl h1 hst hm h7 hp⟩
  case train =>
    exact ⟨exec_trainDone_accepts hl ho, fun _ => Dev.unitAccepted_used, exec_trainDone_ignored hl ho,
      exec_trainStep_waits hl ho rfl pass result, exec_trainStep_elsewhere hl ho rfl pass result⟩
  case dma =>
    refine ⟨exec_dmaLineIssue_stays hl rfl rfl, exec_dmaLineIssue_none hl rfl rfl,
      fun i r src dst len rest hh hcl hout hn hr hp => exec_dmaLineIssue_issues hl rfl rfl hh hcl hout hn hr hp,
      exec_dmaLineComplete_none hl rfl, fun i r a hn hr ha => ?back⟩
    have hplain := exec_dmaLineComplete_plain (ecc := ecc) hl rfl hn hr ha
    refine ⟨fun w h0 hw => ⟨exec_dmaLineComplete_ue hl rfl hn hr ha h0 hw, exec_dmaLineComplete_corrected hl rfl hn hr ha h0 hw⟩,
      fun h => metered_of_step (hplain (.inl h)) (Dev.dmaBack_error h),
      fun h0 hp he => metered_of_step (hplain (.inr hp)) (Dev.dmaBack_ended h0 he),
      fun h0 hp he hd hw => metered_of_step (hplain (.inr hp)) ((Dev.dmaBack_done h0 he hd).trans (if_pos hw)),
      fun h0 hp he hd hb => metered_of_step (hplain (.inr hp)) ((Dev.dmaBack_done h0 he hd).trans
        ((if_neg (ne_true_of_eq_false (Macro.dmaWrite_of_bightDst hb))).trans (if_pos hb))),
      fun h0 hp he hd hw hb => metered_of_step (hplain (.inr hp)) ((Dev.dmaBack_done h0 he hd).trans
        ((if_neg (ne_true_of_eq_false hw)).trans (if_neg (ne_true_of_eq_false hb)))),
      fun h0 hp he hd => metered_of_step (hplain (.inr hp)) (Dev.dmaBack_copy h0 he hd)⟩
  case slot =>
    refine ⟨exec_channelSlot_other hl rfl, fun hs => exec_channelSlot_idle hl rfl hs rfl, fun i x hs hi hq => ?serves,
      exec_refresh hl rfl rfl, fun x hq hx hk => ?waits⟩
    case serves =>
      have hserves := exec_channelSlot_serves (ecc := ecc) hl rfl hs rfl hi hq
      exact ⟨fun h => hserves.trans (congrArg now (if_pos h)), fun h => hserves.trans (congrArg now (if_neg (Nat.not_le.2 h)))⟩
    case waits =>
      have hw : refreshWaits d.free (mget d.mem.chans MemChan.init chan.val).queue = ([{ x with refresh := true }], 1, d.free + 1) :=
        hq ▸ refreshWaits_single hx hk
      exact exec_refresh hl rfl hw

end

section
/-! PROOF. What receipt of a Nopra message does before its own effect (R409, R411, R412, R416), and the statement about it. -/

namespace Sys2Proof.Machine

variable {d : Dev} {h : NHdr} {seqd boot ok : Bool} (reply : Byte → Dev → Dev) (k : Dev → Dev)

/-! ### The place of an accepted message in the sequence (R416) -/

section Sequence
variable (a : Accepts d h) (hv : h.seqv = true)
include a hv

/-- The next message of a reserved type is acknowledged and discarded. -/
theorem Dev.nopraRx_reserved (hn : h.seq = (d.heard h).get (NOP_CTX_SEQ_NEXT_RX h.dctx.val)) (hr : h.reserved = true) :
    d.nopraRx h seqd boot ok reply k =
      (((d.heard h).set (NOP_CTX_SEQ_NEXT_RX h.dctx.val) ((d.heard h).get (NOP_CTX_SEQ_NEXT_RX h.dctx.val) + 1)).ackOwed
        h.dctx.val).ctxDrop h.dctx.val 1 := by
  rw [Dev.nopraRx_heard reply k a]
  simp only [hv, hn, hr, Bool.not_true, Bool.false_eq_true, Nat.lt_irrefl, if_true, if_false]

/-- A message received before is acknowledged again. -/
theorem Dev.nopraRx_again (hn : h.seq < (d.heard h).get (NOP_CTX_SEQ_NEXT_RX h.dctx.val)) :
    d.nopraRx h seqd boot ok reply k = (d.heard h).ackOwed h.dctx.val := by
  rw [Dev.nopraRx_heard reply k a]
  simp only [hv, hn, Bool.not_true, Bool.false_eq_true, if_true, if_false]

variable (hn : (d.heard h).get (NOP_CTX_SEQ_NEXT_RX h.dctx.val) < h.seq)
include hn

/-- Once the missing number has been asked for, a message beyond it does nothing. -/
theorem Dev.nopraRx_askedFor (hk : ((d.heard h).ctx h.dctx.val).nakFor = some ((d.heard h).get (NOP_CTX_SEQ_NEXT_RX h.dctx.val))) :
    d.nopraRx h seqd boot ok reply k = d.heard h := by
  rw [Dev.nopraRx_heard reply k a]
  simp only [hv, hn, hk, Nat.lt_asymm hn, Bool.not_true, Bool.false_eq_true, if_true, if_false]

/-- The first message beyond the missing number asks for it. -/
theorem Dev.nopraRx_asks (hk : ((d.heard h).ctx h.dctx.val).nakFor ≠ some ((d.heard h).get (NOP_CTX_SEQ_NEXT_RX h.dctx.val))) :
    d.nopraRx h seqd boot ok reply k = ((d.heard h).ackOwed h.dctx.val).modCtx h.dctx.val fun x =>
      { x with nakDue := true, nakFor := some ((d.heard h).get (NOP_CTX_SEQ_NEXT_RX h.dctx.val)) } := by
  rw [Dev.nopraRx_heard reply k a]
  simp only [hv, hn, hk, Nat.lt_asymm hn, Bool.not_true, Bool.false_eq_true, if_true, if_false]

end Sequence

/-! ### The command -/

variable {i : Instr} {s : State} {e : Dev}

/-- The command makes `e` of the device, whether or not the meter looks on. -/
def Becomes (i : Instr) (s : State) (e : Dev) : Prop :=
  ∃ u, exec i s = .next u ∧ u.dev = e ∧ u.pending = s.pending ∧ (u.mtr = s.mtr ∨ u.mtr = s.mtr.observe s.dev e)

/-- A message becomes what its receipt makes of the device. -/
theorem IsReceipt.becomes (r : IsReceipt i s h seqd) (hl : s.dev.live = true)
    (hrx : ∀ ok boot reply k, s.dev.nopraRx h seqd boot ok reply k = e) : Becomes i s e := by
  obtain ⟨ok, boot, reply, k, hx | hx⟩ := r
  · exact ⟨_, exec_next hx hl (hrx ok boot reply k), rfl, rfl, .inl rfl⟩
  · exact ⟨_, exec_nextM hx hl (hrx ok boot reply k), rfl, rfl, .inr rfl⟩

/-- Where the partition map and the pins stay, the meter has seen nothing (R475). -/
theorem Becomes.of_sameMap (hb : Becomes i s e) (hmap : sameMap s.dev e) (hpins : e.pins = s.dev.pins) :
    exec i s = .next { s with dev := e } := by
  obtain ⟨⟨dev, mtr, pending⟩, hx, rfl, rfl, hm⟩ := hb
  have hsame : s.mtr.observe s.dev dev = s.mtr :=
    congrArg State.mtr (s.metered_of_sameMap dev hmap hpins : s.metered dev = { s with dev := dev })
  have hmtr : mtr = s.mtr := hm.elim id fun h => h.trans hsame
  rw [hx, hmtr]

/-- A context's counters are no partition's STATE. -/
theorem partState_key_ne_ctxCount {c j : Nat} (hj : j < 3) (p : Nat) : (PART_P_STATE_STATE p).key ≠ (NOP_CTX_COUNT_V c j).key := by
  simp only [RF.key, PART_P_STATE_STATE, PART_P_STATE, NOP_CTX_COUNT_V, NOP_CTX_COUNT]
  omega

/-- A message that only a counter of its context notices. -/
theorem IsReceipt.counted {c j n : Nat} (r : IsReceipt i s h seqd) (hl : s.dev.live = true) (hj : j < 3)
    (hrx : ∀ ok boot reply k, s.dev.nopraRx h seqd boot ok reply k = s.dev.add (NOP_CTX_COUNT_V c j) n) :
    exec i s = .next { s with dev := s.dev.add (NOP_CTX_COUNT_V c j) n } :=
  (r.becomes hl hrx).of_sameMap (sameMap_set _ _ _ (partState_key_ne_ctxCount hj)) rfl

end Sys2Proof.Machine

open Sys2Proof Sys2Proof.Machine

/-- Settles O41: every message runs its receipt, and the receipt is traced check by check. -/
theorem messageReceipt : Obligations.MessageReceipt := by
  intro s i h seqd hl hm c d e next now
  have hrx := message_receipt i s h seqd hm
  refine ⟨fun hd => ?deaf, fun hd hs => ?shut, fun hd hu ho => ⟨fun ha => ?auth, fun ha hi => ?incarn⟩, fun ha hv => ?sequence⟩
  case deaf =>
    exact (hrx.becomes hl fun _ _ reply k => Dev.nopraRx_deaf reply k hd).of_sameMap (sameMap_refl d) rfl
  case shut => exact hrx.counted hl (by decide) fun _ _ reply k => Dev.nopraRx_shut reply k hd hs
  case auth => exact hrx.counted hl (by decide) fun _ _ reply k => Dev.nopraRx_auth reply k hd hu ho ha
  case incarn => exact hrx.counted hl (by decide) fun _ _ reply k => Dev.nopraRx_incarn reply k hd hu ho ha hi
  case sequence =>
    exact ⟨fun hn hr => hrx.becomes hl fun _ _ reply k => Dev.nopraRx_reserved reply k ha hv hn hr,
      fun hn => hrx.becomes hl fun _ _ reply k => Dev.nopraRx_again reply k ha hv hn,
      fun hn hk => hrx.becomes hl fun _ _ reply k => Dev.nopraRx_askedFor reply k ha hv hn hk,
      fun hn hk => hrx.becomes hl fun _ _ reply k => Dev.nopraRx_asks reply k ha hv hn hk⟩

end

section
/-! PROOF. The states of an Ethernet port (R404, R408), and the statement about them. -/

namespace Sys2Proof.Machine

variable (d : Dev) {cred : Cred} {port : PortId} {s : State} {n : Nat}

/-- A flag reads back as it was written. -/
theorem Dev.is_flag_same (f : RF) (b : Bool) (hw : f.width ≠ 0) : (d.flag f b).is f = b := by
  have hone : (1 : Nat) % 2 ^ f.width = 1 := Nat.mod_eq_of_lt (Nat.one_lt_two_pow hw)
  cases b <;> simp [Dev.is, Dev.flag, hone]

/-! ### A write of EN -/

/-- EN as the bits of a written value give it. -/
theorem Dev.take_en (v : Nat) (b : Bool) : d.take (ETH_P_CTRL_EN n) (setBits v 0 0 (if b then 1 else 0)) = d.flag (ETH_P_CTRL_EN n) b := by
  have hof : (ETH_P_CTRL_EN n).of (setBits v 0 0 (if b then 1 else 0)) = if b then 1 else 0 := by
    cases b <;> simp only [RF.of, ETH_P_CTRL_EN, bits, setBits, if_true, if_false, Bool.false_eq_true] <;> omega
  rw [Dev.take, hof, Dev.flag]

/-- What a write of EN makes of the port, which was DISABLED before if `off`. -/
theorem Dev.ethEnable_flag (b off : Bool) : (d.flag (ETH_P_CTRL_EN n) b).ethEnable n off =
    if b then (if off then (d.flag (ETH_P_CTRL_EN n) true).leavePort n 1 else (d.flag (ETH_P_CTRL_EN n) true).linkGo n)
    else if off then d.flag (ETH_P_CTRL_EN n) false else (d.flag (ETH_P_CTRL_EN n) false).leavePort n 0 := by
  rw [Dev.ethEnable, d.is_flag_same _ b (by simp [RF.width, ETH_P_CTRL_EN])]
  cases b <;> rfl

variable (n) in
/-- ETH_Pn_CTRL with its fields as written, EN among them. -/
def Dev.ctrlWritten (v : Nat) (b : Bool) : Dev := (d.ethFields n (setBits v 0 0 (if b then 1 else 0))).flag (ETH_P_CTRL_EN n) b

/-- The owner's write of ETH_Pn_CTRL. -/
theorem Dev.ethCtrlWr_owner (ho : isOwner cred = true) (v : Nat) (b : Bool) :
    d.ethCtrlWr cred n (setBits v 0 0 (if b then 1 else 0)) =
      (((d.ctrlWritten n v b).ethEnable n (d.ethState n == ethDisabled)).ptpCheck.requality, stOk) := by
  rw [Dev.ethCtrlWr, ownerWr_of_isOwner _ _ ho, Dev.take_en]
  rfl

section Write
variable (v : Word) (hl : s.dev.live = true)
include hl

/-- PORT_ENABLE and PORT_DISABLE by the owner. -/
theorem exec_portEn_owner (ho : isOwner cred = true) (b : Bool) :
    exec (if b then .portEnable cred port v else .portDisable cred port v) s =
      s.nextDev ((((s.dev.ctrlWritten port.val v.toNat b).ethEnable port.val (s.dev.ethState port.val == ethDisabled)).ptpCheck.requality).completed
        stOk 0) := by
  cases b
  · exact exec_next rfl hl (congrArg ended (s.dev.ethCtrlWr_owner ho v.toNat false))
  · exact exec_next rfl hl (congrArg ended (s.dev.ethCtrlWr_owner ho v.toNat true))

/-- PORT_ENABLE and PORT_DISABLE are the owner's (R5). -/
theorem exec_portEn_denied (ho : isOwner cred = false) (b : Bool) :
    exec (if b then .portEnable cred port v else .portDisable cred port v) s = s.nextDev (s.dev.completed stDenied 0) := by
  cases b
  · exact exec_next rfl hl (congrArg ended (ownerWr_of_not_isOwner _ _ ho))
  · exact exec_next rfl hl (congrArg ended (ownerWr_of_not_isOwner _ _ ho))

end Write

/-! ### Training -/

/-- The port as it is LINKED, on all four lanes. -/
def Dev.linked (n : Nat) : Dev := (d.set (ETH_P_STATUS_STATE n) 2).set (ETH_P_STATUS_LANES n) 15

theorem Dev.linked_state : (d.linked n).ethState n = 2 := by
  rw [Dev.ethState, Dev.linked, Dev.get_set_ne _ _ _ _ (by simp [RF.key, ETH_P_STATUS_STATE, ETH_P_STATUS_LANES]), Dev.get_set_same]
  rfl

theorem Dev.linked_macsecReq : (d.linked n).is (ETH_P_CTRL_MACSEC_REQ n) = d.is (ETH_P_CTRL_MACSEC_REQ n) := by
  have hne (f : RF) (hf : f.addr = ETH_P_STATUS n) (hlo : f.lo < 64) : (ETH_P_CTRL_MACSEC_REQ n).key ≠ f.key :=
    RF.key_ne_of_addr_ne (by simp only [hf, ETH_P_CTRL_MACSEC_REQ, ETH_P_CTRL, ETH_P_STATUS]; omega) (by simp [ETH_P_CTRL_MACSEC_REQ]) hlo
  rw [Dev.is, Dev.linked, Dev.get_set_ne _ _ _ _ (hne _ rfl (by simp [ETH_P_STATUS_LANES])),
    Dev.get_set_ne _ _ _ _ (hne _ rfl (by simp [ETH_P_STATUS_STATE])), Dev.is]

/-- A port that still needs a SAK stays LINKED. -/
theorem Dev.linkGo_linked_waits (hm : d.is (ETH_P_CTRL_MACSEC_REQ n) = true) (hk : (d.port n).keyed = false) :
    (d.linked n).linkGo n = d.linked n := by
  have hk' : ((d.linked n).port n).keyed = false := hk
  rw [Dev.linkGo, Dev.linked_macsecReq, hm, hk']
  exact if_neg (by simp)

/-- A port that needs no SAK, or has both, goes on to MEASURING. -/
theorem Dev.linkGo_linked_goes (h : d.is (ETH_P_CTRL_MACSEC_REQ n) = false ∨ (d.port n).keyed = true) :
    (d.linked n).linkGo n = ((d.linked n).set (ETH_P_STATUS_STATE n) 3).modPort n fun x => { x with measureAt := d.tick } := by
  have hgo : ((!(d.linked n).is (ETH_P_CTRL_MACSEC_REQ n)) || ((d.linked n).port n).keyed) = true := by
    have hk : ((d.linked n).port n).keyed = (d.port n).keyed := rfl
    rw [Dev.linked_macsecReq, hk]
    rcases h with h | h <;> simp [h]
  exact if_pos (by simp [Dev.linked_state, ethLinked, hgo])

section Training
variable (hl : s.dev.live = true)
include hl

/-- PORT_TRAINED and TRAINING_TIMEOUT in TRAINING. -/
theorem exec_portTrained_training (h : s.dev.ethState port.val = 1) :
    exec (.portTrained port) s = s.nextDev ((s.dev.linked port.val).linkGo port.val) := exec_next rfl hl (if_pos h)
theorem exec_trainingTimeout_training (h : s.dev.ethState port.val = 1) :
    exec (.trainingTimeout port) s =
      let e := s.dev.toTick ((s.dev.port port.val).trainAt + 2 * secLen)
      s.nextDev ((e.add (ETH_P_STATUS_RETRAINS port.val) 1).modPort port.val fun x => { x with trainAt := e.tick }) :=
  exec_next rfl hl (if_pos h)
/-- In any other state they do nothing. -/
theorem exec_portTrained_elsewhere (h : s.dev.ethState port.val ≠ 1) : exec (.portTrained port) s = s.nextDev s.dev :=
  exec_next rfl hl (if_neg h)
theorem exec_trainingTimeout_elsewhere (h : s.dev.ethState port.val ≠ 1) : exec (.trainingTimeout port) s = s.nextDev s.dev :=
  exec_next rfl hl (if_neg h)

/-- A loss of alignment is counted, and the port trains again, unless it is DISABLED. -/
theorem exec_linkLoss_trains (h : s.dev.ethState port.val ≠ 0) :
    exec (.linkLoss port) s = s.nextDev ((s.dev.add (ETH_P_STATUS_RETRAINS port.val) 1).leavePort port.val 1) := exec_next rfl hl (if_neg h)
theorem exec_linkLoss_disabled (h : s.dev.ethState port.val = 0) : exec (.linkLoss port) s = s.nextDev s.dev :=
  exec_next rfl hl (if_pos h)

/-! ### The cable measurement (R408) -/

/-- A port measures its cable in MEASURING and, for a survey, in UP. -/
theorem exec_cableMeasured_length {ps : Nat} (h : s.dev.ethState port.val = 3 ∨ s.dev.ethState port.val = 4) :
    exec (.cableMeasured port (some ps)) s = s.nextDev
      ((((s.dev.flag (ETH_P_CABLE_VALID port.val) true).set (ETH_P_CABLE_LENGTH port.val)
        (cableCm ps (s.dev.get (ETH_P_CTRL_VF port.val)))).set (ETH_P_CABLE_DELAY port.val) ps).set (ETH_P_STATUS_STATE port.val) 4) :=
  exec_next rfl hl (if_pos (by rcases h with h | h <;> simp [h, ethMeasuring, ethUp]))
/-- Without an answer within 1 s it comes UP with no length. -/
theorem exec_cableMeasured_none (h : s.dev.ethState port.val = 3) :
    exec (.cableMeasured port none) s =
      let e := s.dev.toTick ((s.dev.port port.val).measureAt + secLen)
      s.nextDev ((((e.flag (ETH_P_CABLE_VALID port.val) false).set (ETH_P_CABLE_LENGTH port.val) 0).set (ETH_P_CABLE_DELAY port.val) 0).set
        (ETH_P_STATUS_STATE port.val) 4) := by
  refine exec_next rfl hl ((if_pos (by simp [h, ethMeasuring])).trans ?_)
  rw [show (if s.dev.ethState port.val = ethMeasuring then s.dev.toTick ((s.dev.port port.val).measureAt + secLen) else s.dev) =
    s.dev.toTick ((s.dev.port port.val).measureAt + secLen) from if_pos h]
  rfl
/-- In any other state nothing is measured. -/
theorem exec_cableMeasured_elsewhere (h3 : s.dev.ethState port.val ≠ 3) (h4 : s.dev.ethState port.val ≠ 4) (x : Option Nat) :
    exec (.cableMeasured port x) s = s.nextDev s.dev := exec_next rfl hl (if_neg (by simp [h3, h4, ethMeasuring, ethUp]))

end Training

end Sys2Proof.Machine

open Sys2Proof Sys2Proof.Machine

/-- Settles O46: each command by the state that its port is in. -/
theorem portStates : Obligations.PortStates := by
  intro s cred port v hl n d now on off set ends
  have hwrite (ho : isOwner cred = true) (b : Bool) (off : Bool) (hoff : (d.ethState n == ethDisabled) = off) := by
    have h := exec_portEn_owner (port := port) v hl ho b
    rw [hoff, Dev.ctrlWritten, Dev.ethEnable_flag] at h
    exact h
  refine ⟨fun ho h0 => ⟨hwrite ho true true (by simp [h0, ethDisabled]), hwrite ho false true (by simp [h0, ethDisabled])⟩,
    fun ho h0 => ⟨hwrite ho true false (by simp [h0, ethDisabled]), hwrite ho false false (by simp [h0, ethDisabled])⟩,
    fun ho => ⟨exec_portEn_denied v hl ho true, exec_portEn_denied v hl ho false⟩,
    fun h1 => ⟨fun hm hk => ?waits, fun hgo => ?goes, exec_trainingTimeout_training hl h1⟩,
    fun h1 => ⟨exec_portTrained_elsewhere hl h1, exec_trainingTimeout_elsewhere hl h1⟩,
    exec_linkLoss_trains hl, exec_linkLoss_disabled hl, fun ps h => exec_cableMeasured_length hl h,
    exec_cableMeasured_none hl, exec_cableMeasured_elsewhere hl⟩
  case waits => exact (exec_portTrained_training hl h1).trans (congrArg now (d.linkGo_linked_waits hm hk))
  case goes => exact (exec_portTrained_training hl h1).trans (congrArg now (d.linkGo_linked_goes hgo))

end

section
/-! PROOF. What each message does once it is served (R424 to R427, R432 to R434, R465, R545), and the statement about it. -/

namespace Sys2Proof.Machine

variable {s : State} {d : Dev} {h : NHdr}

/-! ### A message that is served -/

/-- Other checks of LEN that hold serve the message too. -/
theorem Served.withLength {seqd boot ok ok' : Bool} (a : Served d h seqd boot ok) (hok : ok' = true) : Served d h seqd boot ok' :=
  { a with length := hok }

/-- A count within its limits serves it too. -/
theorem Served.withCount {seqd boot : Bool} {n k m : Nat} (a : Served d h seqd boot (hasLen h n)) (h1 : 1 ≤ k) (hk : k ≤ m) :
    Served d h seqd boot (hasLen h n && decide (1 ≤ k) && decide (k ≤ m)) := a.withLength (by simp [a.length, h1, hk])

/-- A message served only once the boot image runs would be served in any stage. -/
theorem Served.inBoot {seqd ok : Bool} (a : Served d h seqd false ok) : Served d h seqd true ok := { a with runs := .inr rfl }

/-- A message served only once the boot image runs finds it running. -/
theorem Served.booted {seqd ok : Bool} (a : Served d h seqd false ok) : (d.inTurn h seqd).booting = false :=
  a.runs.resolve_right Bool.false_ne_true

variable (hl : s.dev.live = true)
include hl

/-! ### Items (R424 to R426) -/

omit hl

/-- The four messages of items, item by item. -/
theorem exec_qentryRx (items : List QItem) : exec (.qentryRx h items) s =
    run (fun d => d.itemsRx h 0x10 items.length fun d => items.foldl (fun d i => d.queueItemTo h.dctx.val i) d) s := rfl
theorem exec_contribRx (items : List SItem) : exec (.contribRx h items) s =
    run (fun d => d.itemsRx h 0x11 items.length fun d => items.foldl (fun d i => d.spliceItemTo h.dctx.val i) d) s := rfl
theorem exec_hitchRx (items : List HItem) : exec (.hitchRx h items) s =
    run (fun d => d.itemsRx h 0x12 items.length fun d => items.foldl (fun d i => d.hitchItemTo h.dctx.val i) d) s := rfl
theorem exec_creditRx (items : List CItem) : exec (.creditRx h items) s =
    run (fun d => d.itemsRx h 0x13 items.length fun d => items.foldl (fun d i => d.creditItemTo h.dctx.val i) d) s := rfl

include hl

/-- A message of items for a PEER context's tiles. -/
theorem exec_items {i : Instr} {type n : Nat} {k : Dev → Dev} (e : exec i s = run (fun d => d.itemsRx h type n k) s)
    (a : Served s.dev h true false (hasLen h (8 + itemSize type * n))) (h1 : 1 ≤ n) (hn : n ≤ itemLimit type) :
    ((s.dev.inTurn h true).ctxKind h.dctx.val = 1 → exec i s = s.nextDev (k (s.dev.inTurn h true))) ∧
    ((s.dev.inTurn h true).ctxKind h.dctx.val ≠ 1 → exec i s = s.nextDev ((s.dev.inTurn h true).ctxDrop h.dctx.val n)) := by
  have hrx := Dev.nopraRx_served (fun _ d => d) (fun d => if d.ctxKind h.dctx.val = 1 then k d else d.ctxDrop h.dctx.val n)
    (a.withCount h1 hn)
  exact ⟨fun hk => exec_next e hl (hrx.trans (if_pos hk)), fun hk => exec_next e hl (hrx.trans (if_neg hk))⟩

/-! ### Remote memory (R427) -/

/-- MREAD begins an access of its range. -/
theorem exec_mread_served {addr n tag : Nat} (a : Served s.dev h true false (hasLen h 16)) (h1 : 1 ≤ n) (hn : n ≤ 8176) :
    exec (.mread h addr n tag) s = s.nextDev ((s.dev.inTurn h true).remoteAccess h.dctx.val addr n tag true []) :=
  exec_next rfl hl (Dev.nopraRx_served _ _ (a.withCount h1 hn))

/-- MWRITE begins an access of its range. -/
theorem exec_mwrite_served {addr tag : Nat} {data : List Byte} (a : Served s.dev h true false (hasLen h (16 + data.length)))
    (h1 : 1 ≤ data.length) : exec (.mwrite h addr tag data) s =
      s.nextDev ((s.dev.inTurn h true).remoteAccess h.dctx.val addr data.length tag false data) :=
  exec_next rfl hl (Dev.nopraRx_served _ _ (a.withLength (by simp [a.length, h1])))

/-! ### Register accesses (R432) -/

section RegRead
variable {tag n addr : Nat} {ecc : Ecc} (a : Served s.dev h true false (hasLen h 16)) (h1 : 1 ≤ n) (hn : n ≤ 128)
include a h1 hn

/-- REG_READ on a context of another kind than HOST. -/
theorem exec_regRead_denied (hk : (s.dev.inTurn h true).ctxKind h.dctx.val ≠ 2) :
    exec (.regRead h tag n addr ecc) s = .next (s.metered ((s.dev.inTurn h true).regReply h.dctx.val tag 7 0 [])) :=
  exec_nextM rfl hl ((Dev.nopraRx_served _ _ (a.withCount h1 hn)).trans (if_pos hk))

/-- REG_READ on a HOST context reads one register after another. -/
theorem exec_regRead_host {x : Dev} {st : Byte} {vs : List Nat} (hk : (s.dev.inTurn h true).ctxKind h.dctx.val = 2)
    (hr : Dev.regReads s.mtr ((s.dev.inTurn h true).ctx h.dctx.val).cred ecc n addr (s.dev.inTurn h true) = (x, st, vs)) :
    exec (.regRead h tag n addr ecc) s = .next (s.metered (x.regReply h.dctx.val tag st vs.length vs)) :=
  exec_nextM rfl hl ((Dev.nopraRx_served _ _ (a.withCount h1 hn)).trans
    ((if_neg (not_not.2 hk)).trans (by rw [hr])))

end RegRead

section RegWrite
variable {tag addr : Nat} {vs : List Word} (a : Served s.dev h true false (hasLen h (16 + 8 * vs.length)))
include a

/-- REG_WRITE on a context of another kind than HOST. -/
theorem exec_regWrite_denied (hk : (s.dev.inTurn h true).ctxKind h.dctx.val ≠ 2) :
    exec (.regWrite h tag addr vs) s = .next (s.metered ((s.dev.inTurn h true).regReply h.dctx.val tag 7 0 [])) :=
  exec_nextM rfl hl ((Dev.nopraRx_served _ _ a).trans (if_pos hk))

/-- REG_WRITE on a HOST context writes one register after another. -/
theorem exec_regWrite_host {x : Dev} {st : Byte} {k : Nat} (hk : (s.dev.inTurn h true).ctxKind h.dctx.val = 2)
    (hw : Dev.regWrites s.mtr ((s.dev.inTurn h true).ctx h.dctx.val).cred vs addr 0 (s.dev.inTurn h true) = (x, st, k)) :
    exec (.regWrite h tag addr vs) s = .next (s.metered (x.regReply h.dctx.val tag st k [])) :=
  exec_nextM rfl hl ((Dev.nopraRx_served _ _ a).trans ((if_neg (not_not.2 hk)).trans (by rw [hw])))

end RegWrite

/-! ### Image streams (R433, R465) -/

/-- What LOAD_DATA and LOAD_END for a partition check before they touch its region. -/
def Dev.streamShut (d : Dev) (c p : Nat) : Bool := d.booting || !d.covers c p || !d.streamTakes p

omit hl in
/-- The stream is shut to a context that does not cover the partition, and for a region that takes no bytes. -/
theorem Dev.streamShut_of {c p : Nat} (hc : d.covers c p = false ∨ d.streamTakes p = false) : d.streamShut c p = true := by
  rcases hc with hc | hc <;> simp [Dev.streamShut, hc]

omit hl in
/-- Once the boot image runs it is open to any other. -/
theorem Served.streamOpen {seqd ok : Bool} {c p : Nat} (a : Served d h seqd false ok) (hc : (d.inTurn h seqd).covers c p = true)
    (ht : (d.inTurn h seqd).streamTakes p = true) : ¬ (d.inTurn h seqd).streamShut c p = true := by
  simp [Dev.streamShut, a.booted, hc, ht]

section LoadData
variable {part : PartId} {off : Nat} {bs : List Byte} (hp : part.val ≠ 0) (a : Served s.dev h true false (hasLen h (16 + bs.length)))
include hp a

/-- Bytes that the region does not take are discarded. -/
theorem exec_loadData_shut (hs : (s.dev.inTurn h true).streamShut h.dctx.val part.val = true) :
    exec (.loadData h part off bs) s = .next (s.metered ((s.dev.inTurn h true).ctxDrop h.dctx.val 1)) :=
  exec_nextM rfl hl ((Dev.nopraRx_served _ _ a.inBoot).trans ((if_neg hp).trans (if_pos hs)))

variable (hs : ¬ (s.dev.inTurn h true).streamShut h.dctx.val part.val = true)
include hs

/-- Bytes out of their place end the load. -/
theorem exec_loadData_cut (ho : off ≠ ((s.dev.inTurn h true).region part.val).img.length) :
    exec (.loadData h part off bs) s = .next (s.metered ((s.dev.inTurn h true).streamCut part.val)) :=
  exec_nextM rfl hl ((Dev.nopraRx_served _ _ a.inBoot).trans ((if_neg hp).trans ((if_neg hs).trans (if_pos ho))))

/-- Bytes that stand next are kept. -/
theorem exec_loadData_next (ho : off = ((s.dev.inTurn h true).region part.val).img.length) :
    exec (.loadData h part off bs) s = .next (s.metered ((s.dev.inTurn h true).modRegion part.val fun r =>
      { r with img := r.img ++ bs, lastByte := (s.dev.inTurn h true).tick })) :=
  exec_nextM rfl hl ((Dev.nopraRx_served _ _ a.inBoot).trans ((if_neg hp).trans ((if_neg hs).trans (if_neg (not_not.2 ho)))))

end LoadData

/-- Too few bytes for a header, or for the length that it gives. -/
def imgShort (b : List Byte) : Prop := b.length < 64 ∨ b.length < imgLength b

omit hl in
theorem imgShort_iff (b : List Byte) : imgShort b ↔ (decide (b.length < 64) || decide (b.length < imgLength b)) = true := by
  simp [imgShort]

/-- The region once its stream has ended. -/
def Dev.streamEnded (d : Dev) (p : Nat) : Dev := d.modRegion p fun r => { r with ended := true }

section LoadEnd
variable {part : PartId} (hp : part.val ≠ 0) (a : Served s.dev h true false (hasLen h 8))
include hp a

/-- An end that the region does not take is discarded. -/
theorem exec_loadEnd_shut (hs : (s.dev.inTurn h true).streamShut h.dctx.val part.val = true) :
    exec (.loadEnd h part) s = .next (s.metered ((s.dev.inTurn h true).ctxDrop h.dctx.val 1)) :=
  exec_nextM rfl hl ((Dev.nopraRx_served _ _ a.inBoot).trans ((if_neg hp).trans (if_pos hs)))

variable (hs : ¬ (s.dev.inTurn h true).streamShut h.dctx.val part.val = true)
include hs

/-- An end before the image's last byte cuts the load short. -/
theorem exec_loadEnd_short (hb : imgShort (((s.dev.inTurn h true).streamEnded part.val).region part.val).img) :
    exec (.loadEnd h part) s = .next (s.metered (((s.dev.inTurn h true).streamEnded part.val).streamCut part.val)) :=
  exec_nextM rfl hl ((Dev.nopraRx_served _ _ a.inBoot).trans ((if_neg hp).trans ((if_neg hs).trans (if_pos ((imgShort_iff _).1 hb)))))

/-- An end after it is noted. -/
theorem exec_loadEnd_whole (hb : ¬ imgShort (((s.dev.inTurn h true).streamEnded part.val).region part.val).img) :
    exec (.loadEnd h part) s = .next (s.metered ((s.dev.inTurn h true).streamEnded part.val)) :=
  exec_nextM rfl hl ((Dev.nopraRx_served _ _ a.inBoot).trans ((if_neg hp).trans ((if_neg hs).trans (if_neg (mt (imgShort_iff _).2 hb)))))

end LoadEnd

/-! ### Records on demand and PTP frames (R434, R545) -/

/-- The record kinds that PULL may name. -/
def pullKinds : List Nat := [1, 2, 3, 4, 5, 0x101, 0x102]

omit hl in
theorem not_pullKinds_contains_iff {kind : Nat} : (!pullKinds.contains kind) = true ↔ kind ∉ pullKinds := by simp

section Pull
variable {kind n : Nat} (a : Served s.dev h true false (hasLen h 4)) (h1 : 1 ≤ n) (hn : n ≤ 1000)
include a h1 hn

/-- PULL on a context without a credential of the owner. -/
theorem exec_pull_denied (hc : (s.dev.inTurn h true).ctxKind h.dctx.val ≠ 2 ∨ ((s.dev.inTurn h true).ctx h.dctx.val).cred ≠ .owner) :
    exec (.pull h kind n) s = .next (s.metered ((s.dev.inTurn h true).ctxDrop h.dctx.val 1)) :=
  exec_nextM rfl hl ((Dev.nopraRx_served _ _ (a.withCount h1 hn)).trans (if_pos (by simpa using hc)))

variable (hk : (s.dev.inTurn h true).ctxKind h.dctx.val = 2) (ho : ((s.dev.inTurn h true).ctx h.dctx.val).cred = .owner)
include hk ho

/-- PULL of a kind that there is not. -/
theorem exec_pull_unknown (hkind : kind ∉ pullKinds) :
    exec (.pull h kind n) s = .next (s.metered ((s.dev.inTurn h true).ctxDrop h.dctx.val 1)) :=
  exec_nextM rfl hl ((Dev.nopraRx_served _ _ (a.withCount h1 hn)).trans
    ((if_neg (by simp [hk, ho])).trans (if_pos (not_pullKinds_contains_iff.2 hkind))))

variable (hkind : kind ∈ pullKinds)
include hkind

/-- PULL is answered, -/
theorem exec_pull_answers (hr : (s.dev.inTurn h true).is DMC_STATUS_RESTARTING = false) :
    exec (.pull h kind n) s = .next (s.metered ((s.dev.inTurn h true).answerPull s.mtr h.dctx.val kind n)) :=
  exec_nextM rfl hl ((Dev.nopraRx_served _ _ (a.withCount h1 hn)).trans
    ((if_neg (by simp [hk, ho])).trans ((if_neg fun hnot => not_pullKinds_contains_iff.1 hnot hkind).trans (if_neg (ne_true_of_eq_false hr)))))

/-- and waits while the management controller restarts (R547). -/
theorem exec_pull_waits (hr : (s.dev.inTurn h true).is DMC_STATUS_RESTARTING = true) :
    exec (.pull h kind n) s = .next (s.metered { s.dev.inTurn h true with
      nop := { (s.dev.inTurn h true).nop with pulls := (s.dev.inTurn h true).nop.pulls ++ [(h.dctx.val, kind, n)] } }) :=
  exec_nextM rfl hl ((Dev.nopraRx_served _ _ (a.withCount h1 hn)).trans
    ((if_neg (by simp [hk, ho])).trans ((if_neg fun hnot => not_pullKinds_contains_iff.1 hnot hkind).trans (if_pos hr))))

end Pull

section PtpTx
variable {port : PortId} {tag : Nat} {frame : List Byte} (a : Served s.dev h true false (hasLen h (8 + frame.length)))
include a

/-- PTP_TX without a credential of the owner, or for a port that is not trained. -/
theorem exec_ptpTx_dropped (hc : (s.dev.inTurn h true).ctxKind h.dctx.val ≠ 2 ∨ ((s.dev.inTurn h true).ctx h.dctx.val).cred ≠ .owner ∨
      (s.dev.inTurn h true).ethState port.val < 2) :
    exec (.ptpTx h port tag frame) s = s.nextDev ((s.dev.inTurn h true).ctxDrop h.dctx.val 1) :=
  exec_next rfl hl ((Dev.nopraRx_served _ _ a).trans (if_pos (by simpa [or_assoc, ethLinked] using hc)))

/-- PTP_TX queues its frame for open time. -/
theorem exec_ptpTx_queues (hk : (s.dev.inTurn h true).ctxKind h.dctx.val = 2) (ho : ((s.dev.inTurn h true).ctx h.dctx.val).cred = .owner)
    (h2 : 2 ≤ (s.dev.inTurn h true).ethState port.val) :
    exec (.ptpTx h port tag frame) s = s.nextDev ((s.dev.inTurn h true).queueOpen port.val { TxMsg.init with
      type := txPtp, ctx := h.dctx.val, payload := frame, tag := BitVec.ofNat 64 tag, seqd := true }) :=
  exec_next rfl hl ((Dev.nopraRx_served _ _ a).trans (if_neg (by simp only [hk, ho, ethLinked]; simp; omega)))

end PtpTx

end Sys2Proof.Machine

open Sys2Proof Sys2Proof.Machine

/-- Settles O45: each message's effect on the device that has taken it in turn. -/
theorem messagesServed : Obligations.MessagesServed := by
  intro s h hl served c d now
  refine ⟨fun items a => exec_items hl (exec_qentryRx items) a, fun items a => exec_items hl (exec_contribRx items) a,
    fun items a => exec_items hl (exec_hitchRx items) a, fun items a => exec_items hl (exec_creditRx items) a,
    fun _ _ _ a => exec_mread_served hl a, fun _ _ _ a h1 _ => exec_mwrite_served hl a h1,
    fun _ _ _ _ a h1 hn => ⟨exec_regRead_denied hl a h1 hn, fun _ _ _ => exec_regRead_host hl a h1 hn⟩,
    fun _ _ _ a => ⟨exec_regWrite_denied hl a, fun _ _ _ => exec_regWrite_host hl a⟩,
    fun part _ _ hp => ⟨fun hc => ?shut, fun hc ht => ?opened⟩,
    fun _ _ a h1 hn => ⟨exec_pull_denied hl a h1 hn, exec_pull_unknown hl a h1 hn,
      fun hk ho hkind => ⟨exec_pull_answers hl a h1 hn hk ho hkind, exec_pull_waits hl a h1 hn hk ho hkind⟩⟩,
    fun _ _ _ => exec_ptpTx_dropped hl, fun _ _ _ => exec_ptpTx_queues hl⟩
  case shut =>
    exact ⟨fun a => exec_loadData_shut hl hp a (Dev.streamShut_of hc), fun a => exec_loadEnd_shut hl hp a (Dev.streamShut_of hc)⟩
  case opened =>
    exact ⟨fun a => exec_loadData_cut hl hp a (a.streamOpen hc ht), fun a => exec_loadData_next hl hp a (a.streamOpen hc ht),
      fun a => ⟨exec_loadEnd_short hl hp a (a.streamOpen hc ht),
        fun h64 hlen => exec_loadEnd_whole hl hp a (a.streamOpen hc ht) (not_or.2 ⟨Nat.not_lt.2 h64, Nat.not_lt.2 hlen⟩)⟩⟩

end

section
/-! PROOF. How Nopra contexts open, close, fail and recover (R413 to R418, R423, R424, R428, R435), and the statement about them. -/

namespace Sys2Proof.Machine

variable {s : State} (d : Dev) (c : Nat) {cred : Cred} {ctx : CtxId} {h : NHdr}

/-! ### The commands of NOP_CTXc_STATE (R414) -/

/-- An OPENING context in its new incarnation. -/
def Dev.opening : Dev :=
  ((d.set (NOP_CTX_STATE_STATE c) 1).set (NOP_CTX_STATE_INCARN c) ((d.ctx c).incarnMax + 1)).modCtx c fun x =>
    { x with incarnMax := (d.ctx c).incarnMax + 1, openedAt := d.tick, txc := 0 }

/-- A context that OPEN takes up: a CLOSED or FAILED PEER context that has keys. -/
def Dev.mayOpen : Prop := d.ctxKind c = 1 ∧ (d.ctxState c = 0 ∨ d.ctxState c = 3) ∧ (d.ctx c).keyed = true

section Write
variable {d c}
variable (ho : isOwner cred = true)
include ho

/-- OPEN of a context that it takes up. -/
theorem Dev.ctxStateWr_opens (hm : d.mayOpen c) : d.ctxStateWr cred c 0x80 =
    ((d.opening c).queueMsg c (mkMsg 0x01 0 c false (beBytes 4 ((d.ctx c).incarnMax + 1) ++ beBytes 2 1 ++ zeros 2)), stOk) := by
  obtain ⟨hk, hs, hkeyed⟩ := hm
  rw [Dev.ctxStateWr, ownerWr_of_isOwner _ _ ho]
  exact if_pos (by rcases hs with hs | hs <;> simp [bit, hk, hs, hkeyed])

/-- OPEN of any other does nothing. -/
theorem Dev.ctxStateWr_openKept (hm : ¬ d.mayOpen c) : d.ctxStateWr cred c 0x80 = (d, stOk) := by
  rw [Dev.ctxStateWr, ownerWr_of_isOwner _ _ ho]
  refine if_neg fun hc => hm ?_
  simpa [bit, and_assoc, Dev.mayOpen] using hc

/-- CLOSE of an open context. -/
theorem Dev.ctxStateWr_closes (hs : d.ctxState c = 2) : d.ctxStateWr cred c 0x40 = ((d.sendClose c 2).closeCtx c 3 0, stOk) := by
  rw [Dev.ctxStateWr, ownerWr_of_isOwner _ _ ho]
  refine (if_neg (by simp [bit])).trans ?_
  exact congrArg (·, stOk) (if_pos (by simp [bit, hs]))

/-- CLOSE of any other does nothing. -/
theorem Dev.ctxStateWr_closeKept (hs : d.ctxState c ≠ 2) : d.ctxStateWr cred c 0x40 = (d, stOk) := by
  rw [Dev.ctxStateWr, ownerWr_of_isOwner _ _ ho]
  refine (if_neg (by simp [bit])).trans ?_
  exact congrArg (·, stOk) (if_neg (by simp [hs]))

end Write

section Commands
variable (hl : s.dev.live = true)
include hl

/-- CONTEXT_OPEN and CONTEXT_CLOSE are the write of the register. -/
theorem exec_contextOpen {e : Dev} {st : Byte} (hw : s.dev.ctxStateWr cred ctx.val 0x80 = (e, st)) :
    exec (.contextOpen cred ctx) s = s.nextDev (e.completed st 0) := exec_next rfl hl (congrArg ended hw)
theorem exec_contextClose {e : Dev} {st : Byte} (hw : s.dev.ctxStateWr cred ctx.val 0x40 = (e, st)) :
    exec (.contextClose cred ctx) s = s.nextDev (e.completed st 0) := exec_next rfl hl (congrArg ended hw)

/-- An OPENING context gives up after 10,500,000 cycles; any other has nothing to give up. -/
theorem exec_openTimeout_opening (hs : s.dev.ctxState ctx.val = 1) : exec (.openTimeout ctx) s =
    s.nextDev ((s.dev.toTick ((s.dev.ctx ctx.val).openedAt + 10500000)).openFailed ctx.val 5) := exec_next rfl hl (if_pos hs)
theorem exec_openTimeout_other (hs : s.dev.ctxState ctx.val ≠ 1) : exec (.openTimeout ctx) s = s.nextDev s.dev :=
  exec_next rfl hl (if_neg hs)

end Commands

/-! ### A host's OPEN (R428) -/

/-- The answer that refuses a host's OPEN. -/
def Dev.hostRefused (h : NHdr) (m : OpenMsg) (st : Byte) : Dev :=
  d.queueOpen 0 { mkMsg 0x02 0 0xFFFF false (beBytes 4 m.incarn ++ [st, 0] ++ beBytes 2 0xFFFF) with
    incarn := m.incarn, replyTo := some (h.src, h.sctx) }

/-- A context that a host's OPEN may take. -/
def Dev.freeHost : Bool := d.ctxKind c == 2 && d.ctxState c == 0

/-- The lowest of them, if there is one. -/
def Dev.firstHost : Option Nat := (List.range 4096).find? d.freeHost

variable {d c} in
theorem Dev.firstHost_none (hn : ∀ c : CtxId, d.freeHost c.val = false) : d.firstHost = none := by
  rw [Dev.firstHost, List.find?_eq_none]
  exact fun k hk => by simp [hn ⟨k, List.mem_range.1 hk⟩]

variable {d} in
theorem Dev.firstHost_lowest (hc : d.freeHost ctx.val = true) (hlow : ∀ j, j < ctx.val → d.freeHost j = false) :
    d.firstHost = some ctx.val := by
  rw [Dev.firstHost, List.find?_range_eq_some]
  exact ⟨hc, List.mem_range.2 ctx.isLt, fun j hj => by simp [hlow j hj]⟩

/-- The context that a host's OPEN takes, with the keys that both sides derive, and the OPEN_ACK. -/
def Dev.hostTaken (h : NHdr) (m : OpenMsg) : Dev :=
  let key := sha3 ((List.range 32).map (Config.sharedByte d.free) ++ sha3 (m.ek.getD []) ++ beBytes 4 m.incarn)
  let d := ((d.openCtx c m.incarn).set (NOP_CTX_ADDR0_V c) (h.src / 2 ^ 64)).set (NOP_CTX_ADDR1_V c) h.src
  let d := (d.set (NOP_CTX_CFG_RCTX c) h.sctx).modCtx c fun x =>
    { x with cred := .none, challenge := none, tkey := [], ek := m.ek.getD [], incarnMax := m.incarn,
             rxKey := slice key 0 32, txKey := slice key 32 32 }
  let bs := beBytes 4 m.incarn ++ [0, 0] ++ beBytes 2 c ++ openCt d.free
  (d.queueMsg c (mkMsg 0x02 0 c false (bs ++ d.aliasSig (openBytes m ++ bs)))).draw

section HostOpen
variable {d c} {m : OpenMsg} (hv : h.version = 1) (hlen : hasLen h 1576 = true)
include hv hlen

/-- It offers no version that the device has. -/
theorem Dev.hostOpen_versions (h0 : m.versions % 2 = 0) : d.hostOpen h m = d.hostRefused h m 0x45 :=
  (if_neg (by simp [hv, hlen])).trans (if_pos h0)

variable (h1 : m.versions % 2 = 1)
include h1

/-- No context is free. -/
theorem Dev.hostOpen_full (hf : d.firstHost = none) : d.hostOpen h m = d.hostRefused h m 0x43 := by
  refine (if_neg (by simp [hv, hlen])).trans ((if_neg (by simp [h1])).trans ?_)
  rw [show ((List.range 4096).find? fun c => d.ctxKind c == 2 && d.ctxState c == 0) = none from hf]
  rfl

/-- The lowest free context is taken. -/
theorem Dev.hostOpen_taken (hf : d.firstHost = some c) : d.hostOpen h m = d.hostTaken c h m := by
  refine (if_neg (by simp [hv, hlen])).trans ((if_neg (by simp [h1])).trans ?_)
  rw [show ((List.range 4096).find? fun c => d.ctxKind c == 2 && d.ctxState c == 0) = some c from hf]
  rfl

end HostOpen

/-- An OPEN with an encapsulation key, at port H. -/
theorem exec_openRx_host {m : OpenMsg} (hl : s.dev.live = true) (hd : s.dev.hears h = true) (hr : h.reserved = false)
    (hu : s.dev.ethState h.port.val = 4) (hp : h.port.val = 0) (hek : m.ek ≠ none) :
    exec (.openRx h m) s = s.nextDev (s.dev.hostOpen h m) := by
  obtain ⟨k, hk⟩ := Option.ne_none_iff_exists'.1 hek
  refine exec_next rfl hl ((if_neg (by simp [hr])).trans ((if_neg (by simp [hd])).trans ?_))
  simp only [hk]
  exact if_pos (by simp only [Bool.and_eq_true, decide_eq_true_eq, beq_iff_eq]; exact ⟨hu, hp⟩)

/-! ### An OPEN of a PEER context (R414, R435) -/

/-- The source of a message is its context's address. -/
def Dev.addressed (h : NHdr) : Dev := (d.set (NOP_CTX_ADDR0_V h.dctx.val) (h.src / 2 ^ 64)).set (NOP_CTX_ADDR1_V h.dctx.val) h.src

theorem Dev.addressed_state (h : NHdr) : (d.addressed h).ctxState c = d.ctxState c := by
  rw [Dev.ctxState, Dev.addressed,
    Dev.get_set_ne _ _ _ _ (by simp only [RF.key, NOP_CTX_STATE_STATE, NOP_CTX_STATE, NOP_CTX_ADDR1_V, NOP_CTX_ADDR1]; omega),
    Dev.get_set_ne _ _ _ _ (by simp only [RF.key, NOP_CTX_STATE_STATE, NOP_CTX_STATE, NOP_CTX_ADDR0_V, NOP_CTX_ADDR0]; omega),
    Dev.ctxState]

/-- The incarnation counts among those used. -/
def Dev.incarnSeen (i : Nat) : Dev := d.modCtx c fun x => { x with incarnMax := max (d.ctx c).incarnMax i }

/-- An OPEN wins above every incarnation used, and on a tie with the own one from the lower context. -/
def Dev.openWins (sctx i : Nat) : Prop := (d.ctx c).incarnMax < i ∨ (d.ctxState c = 1 ∧ i = (d.ctx c).incarnMax ∧ sctx < c)

theorem Dev.openWins_iff (sctx i : Nat) : d.openWins c sctx i ↔
    ¬ (!(if d.ctxState c = 1 then decide ((d.ctx c).incarnMax < i) || (i == (d.ctx c).incarnMax && decide (sctx < c))
      else decide ((d.ctx c).incarnMax < i))) = true := by
  rw [Bool.not_eq_true, Bool.not_eq_false']
  by_cases h1 : d.ctxState c = 1 <;> simp [Dev.openWins, h1]

section PeerOpen
variable {d c} {sctx i versions : Nat}

/-- A FAILED context waits for its own OPEN. -/
theorem Dev.peerOpen_failed (h3 : d.ctxState c = 3) (hi : (d.ctx c).incarnMax < i) :
    d.peerOpen c sctx i versions = (d.incarnSeen c i).ctxDrop c 1 := if_pos (by simp [h3, hi])

/-- An OPEN that does not win is answered STALE_INCARN. -/
theorem Dev.peerOpen_stale (hw : ¬ d.openWins c sctx i) :
    d.peerOpen c sctx i versions = (d.incarnSeen c i).openAck c (d.ctx c).incarnMax 0x44 := by
  have hi : ¬ (d.ctx c).incarnMax < i := fun hi => hw (.inl hi)
  exact (if_neg (by simp [hi])).trans (if_pos (not_not.1 (mt (d.openWins_iff c sctx i).2 hw)))

variable (hw : d.openWins c sctx i) (h3 : d.ctxState c ≠ 3)
include hw h3

/-- One that wins, but offers no version that the device has. -/
theorem Dev.peerOpen_versions (hv : versions % 2 = 0) :
    d.peerOpen c sctx i versions = (d.incarnSeen c i).openAck c i 0x45 :=
  (if_neg (by simp [h3])).trans ((if_neg ((d.openWins_iff c sctx i).1 hw)).trans (if_pos hv))

/-- One that wins opens the context. -/
theorem Dev.peerOpen_opens (hv : versions % 2 = 1) :
    d.peerOpen c sctx i versions = (((d.incarnSeen c i).openCtx c i).openAck c i 0).sendCaps c :=
  (if_neg (by simp [h3])).trans ((if_neg ((d.openWins_iff c sctx i).1 hw)).trans (if_neg (by simp [hv])))

end PeerOpen

/-- An OPEN without an encapsulation key, with its checks. -/
def Dev.peerOpenRx (h : NHdr) (m : OpenMsg) : Dev :=
  let c := h.dctx.val
  if d.ethState h.port.val ≠ ethUp then d.ctxDrop c 1
  else if d.ctxKind c ≠ 1 || d.booting then d.ctxDrop c 1
  else if !h.authOk || !(d.ctx c).keyed then d.add (NOP_CTX_COUNT_V c 1) 1
  else if h.version ≠ 1 || !hasLen h 8 then (d.ctxDrop c 1).openAck c m.incarn 0x42
  else (d.addressed h).peerOpen c h.sctx m.incarn m.versions

theorem exec_openRx_peer {m : OpenMsg} (hl : s.dev.live = true) (hd : s.dev.hears h = true) (hr : h.reserved = false) (hek : m.ek = none) :
    exec (.openRx h m) s = s.nextDev (s.dev.peerOpenRx h m) := by
  refine exec_next rfl hl ((if_neg (by simp [hr])).trans ((if_neg (by simp [hd])).trans ?_))
  simp only [hek]
  rfl

section PeerOpenRx
variable {d} {m : OpenMsg}

/-- It comes at a port that is not UP, for another kind of context, or during the boot. -/
theorem Dev.peerOpenRx_shut (hx : d.ethState h.port.val ≠ 4 ∨ d.ctxKind h.dctx.val ≠ 1 ∨ d.booting = true) :
    d.peerOpenRx h m = d.ctxDrop h.dctx.val 1 := by
  by_cases hu : d.ethState h.port.val = 4
  · exact (if_neg (not_not.2 hu)).trans (if_pos (by simpa using hx.resolve_left (not_not.2 hu)))
  · exact if_pos hu

variable (hu : d.ethState h.port.val = 4) (hk : d.ctxKind h.dctx.val = 1) (hb : d.booting = false)
include hu hk hb

/-- It fails authentication. -/
theorem Dev.peerOpenRx_auth (hx : h.authOk = false ∨ (d.ctx h.dctx.val).keyed = false) :
    d.peerOpenRx h m = d.add (NOP_CTX_COUNT_V h.dctx.val 1) 1 :=
  (if_neg (not_not.2 hu)).trans ((if_neg (by simp [hk, hb])).trans (if_pos (by simpa using hx)))

variable (ha : h.authOk = true) (hkey : (d.ctx h.dctx.val).keyed = true)
include ha hkey

/-- It is malformed. -/
theorem Dev.peerOpenRx_malformed (hx : h.version ≠ 1 ∨ hasLen h 8 = false) :
    d.peerOpenRx h m = (d.ctxDrop h.dctx.val 1).openAck h.dctx.val m.incarn 0x42 :=
  (if_neg (not_not.2 hu)).trans ((if_neg (by simp [hk, hb])).trans ((if_neg (by simp [ha, hkey])).trans (if_pos (by simpa using hx))))

/-- It is weighed against the incarnations used. -/
theorem Dev.peerOpenRx_weighed (hv : h.version = 1) (hlen : hasLen h 8 = true) :
    d.peerOpenRx h m = (d.addressed h).peerOpen h.dctx.val h.sctx m.incarn m.versions :=
  (if_neg (not_not.2 hu)).trans ((if_neg (by simp [hk, hb])).trans ((if_neg (by simp [ha, hkey])).trans (if_neg (by simp [hv, hlen]))))

end PeerOpenRx

/-! ### OPEN_ACK (R414) -/

section OpenAck
variable {i : Nat} {st : Byte} (hl : s.dev.live = true) (hd : s.dev.hears h = true) (hu : s.dev.ethState h.port.val = 4)
  (hr : h.reserved = false) (hlen : hasLen h 8 = true) (hv : h.version = 1) (hs : s.dev.ctxState h.dctx.val = 1) (ha : h.authOk = true)
include hl hd hu hr hlen hv hs ha

/-- An OPEN_ACK that an OPENING context takes up. -/
theorem exec_openAck_opening : exec (.openAck h i st) s = s.nextDev
    (if st = stOk then
      if i = s.dev.get (NOP_CTX_STATE_INCARN h.dctx.val) then (s.dev.openCtx h.dctx.val i).sendCaps h.dctx.val
      else s.dev.ctxDrop h.dctx.val 1
    else (s.dev.modCtx h.dctx.val fun x => { x with incarnMax := max x.incarnMax i }).openFailed h.dctx.val
      (if st = 0x45 then 6 else (Config.openReason st).toNat)) :=
  exec_next rfl hl ((if_neg (by simp [hr])).trans ((if_neg (by simp [hd])).trans
    ((if_neg (by simp [hu, hs, hv, hlen, ethUp])).trans (if_neg (by simp [ha])))))

end OpenAck

/-! ### CLOSE, CAPS and silence (R414, R428, R435) -/

section Closing
variable (hl : s.dev.live = true)
include hl

/-- CLOSE closes the context. -/
theorem exec_closeRx_served {r : Byte} (a : Served s.dev h true true (hasLen h 8)) : exec (.closeRx h r) s =
    s.nextDev ((s.dev.inTurn h true).closeCtx h.dctx.val (if r.toNat ≤ 2 then r.toNat + 1 else 1) 0) :=
  exec_next rfl hl (Dev.nopraRx_served _ _ a)

/-- ACK has only its header's effect. -/
theorem exec_ackRx_served (a : Served s.dev h false true (hasLen h 0)) : exec (.ackRx h) s = s.nextDev (s.dev.heard h) :=
  exec_next rfl hl (Dev.nopraRx_served _ _ a)

/-- CAPS is kept, and without a common version the context closes. -/
theorem exec_capsRx_served {b : List Byte} (a : Served s.dev h true false (hasLen h 88)) : exec (.capsRx h b) s =
    let d := (s.dev.inTurn h true).modCtx h.dctx.val fun x => { x with caps := some b }
    s.nextDev (if (b.getD 1 0).getLsbD 0 then d else (d.sendClose h.dctx.val 0).closeCtx h.dctx.val 6 0) :=
  exec_next rfl hl (Dev.nopraRx_served _ _ a)

/-- A HOST context is silent for 60 s; any other context may be. -/
theorem exec_hostIdleTimeout_closes (hk : s.dev.ctxKind ctx.val = 2) (hs : s.dev.ctxState ctx.val = 2) :
    exec (.hostIdleTimeout ctx) s = s.nextDev
      (((s.dev.toTime ((s.dev.ctx ctx.val).lastRx + 60 * secLen)).sendClose ctx.val 1).closeCtx ctx.val 2 0) :=
  exec_next rfl hl (if_pos (by simp [hk, hs]))
theorem exec_hostIdleTimeout_other (hx : s.dev.ctxKind ctx.val ≠ 2 ∨ s.dev.ctxState ctx.val ≠ 2) :
    exec (.hostIdleTimeout ctx) s = s.nextDev s.dev :=
  exec_next rfl hl (if_neg (by rcases hx with hx | hx <;> simp [hx]))

end Closing

/-! ### Retransmission (R417, R418) -/

section Recover
variable (hl : s.dev.live = true)
include hl

/-- The oldest unacknowledged message has waited for its acknowledgement. -/
theorem exec_rtoExpiry_waited {m : TxMsg} {l : List TxMsg} (hq : (s.dev.ctx ctx.val).unacked = m :: l) (ha : m.again = false) (ue : Bool) :
    exec (.rtoExpiry ctx ue) s =
      let d := (s.dev.toTick (m.sentAt + s.dev.get (NOP_CTX_CFG_RTO ctx.val) * (m.told + 1))).tellOldest ctx.val
      s.nextDev (if ue then d.bufferUe ctx.val else d.recover ctx.val 0) := by
  refine exec_next rfl hl ?_
  simp only [hq]
  exact if_neg (by simp [ha])

/-- Nothing waits for an acknowledgement. -/
theorem exec_rtoExpiry_none (hq : (s.dev.ctx ctx.val).unacked = []) (ue : Bool) : exec (.rtoExpiry ctx ue) s = s.nextDev s.dev :=
  exec_next rfl hl (by simp only [hq])

omit hl in
/-- The fields of NOP_RECOVER in a value that names a context and an action. -/
theorem recoverValue_fields {c a : Nat} (hc : c < 4096) (ha : a < 4) :
    NOP_RECOVER_CTX.of (c * 2 ^ 32 + a) = c ∧ NOP_RECOVER_ACTION.of (c * 2 ^ 32 + a) = a := by
  simp only [RF.of, bits, NOP_RECOVER_CTX, NOP_RECOVER_ACTION]
  omega

omit hl in
/-- The owner's write of NOP_RECOVER. -/
theorem Dev.recoverWr_owner {c a : Nat} (ho : isOwner cred = true) (hc : c < 4096) (ha : a < 4) : d.recoverWr cred (c * 2 ^ 32 + a) =
    if !d.duty 6 || d.ctxState c ≠ 2 then (d, stOk)
    else if a = 1 then (d.resend c, stOk)
    else if a = 2 then (d.exhaustCtx c, stOk)
    else (d, stOk) := by
  obtain ⟨hctx, hact⟩ := recoverValue_fields hc ha
  simp only [Dev.recoverWr, ownerWr_of_isOwner _ _ ho, hctx, hact]

/-- RECOVER_RETRANSMIT and RECOVER_EXHAUST are the write of the register. -/
theorem exec_recoverRetransmit {e : Dev} {st : Byte} (hw : s.dev.recoverWr cred (ctx.val * 2 ^ 32 + 1) = (e, st)) :
    exec (.recoverRetransmit cred ctx) s = s.nextDev (e.completed st 0) := exec_next rfl hl (congrArg ended hw)
theorem exec_recoverExhaust {e : Dev} {st : Byte} (hw : s.dev.recoverWr cred (ctx.val * 2 ^ 32 + 2) = (e, st)) :
    exec (.recoverExhaust cred ctx) s = s.nextDev (e.completed st 0) := exec_next rfl hl (congrArg ended hw)

/-! ### Items that leave a tile (R424) -/

/-- No item waits at the tile. -/
theorem exec_remoteItemEnqueue_none {tile : TileId}
    (hf : (s.dev.tile tile.val).railOut.find? (fun e => s.dev.ctxKind e.1 != 3) = none) :
    exec (.remoteItemEnqueue tile) s = s.nextDev s.dev := exec_next rfl hl (by simp only [hf])

/-- The oldest item reaches its context's endpoint. -/
theorem exec_remoteItemEnqueue_moves {tile : TileId} {e : Nat × RemoteItem}
    (hf : (s.dev.tile tile.val).railOut.find? (fun e => s.dev.ctxKind e.1 != 3) = some e) :
    exec (.remoteItemEnqueue tile) s = s.nextDev ((s.dev.modTile tile.val fun t =>
      { t with railOut := dropFirst (fun x => s.dev.ctxKind x.1 != 3) t.railOut }).queueItem e.1 e.2) :=
  exec_next rfl hl (by simp only [hf])

end Recover

end Sys2Proof.Machine

open Sys2Proof Sys2Proof.Machine

/-- Settles O44: each command and message by the state of its context. -/
theorem contextLife : Obligations.ContextLife := by
  intro s cred ctx h hl c d now mine closes
  refine ⟨fun ho hk hs hkey => exec_contextOpen hl (Dev.ctxStateWr_opens ho ⟨hk, hs, hkey⟩), fun ho hx => ?kept,
    fun ho hs => exec_contextClose hl (Dev.ctxStateWr_closes ho hs), fun ho hs => exec_contextClose hl (Dev.ctxStateWr_closeKept ho hs),
    fun ho => ⟨exec_contextOpen hl (ownerWr_of_not_isOwner _ _ ho), exec_contextClose hl (ownerWr_of_not_isOwner _ _ ho)⟩,
    exec_openTimeout_opening hl, exec_openTimeout_other hl, ?host, ?peer, ?ack, ?close, exec_ackRx_served hl, ?caps,
    exec_hostIdleTimeout_other hl, exec_hostIdleTimeout_closes hl,
    ?rto, ?recover, ?recoverKept,
    exec_rtoExpiry_none hl, fun _ => exec_remoteItemEnqueue_none hl, fun _ _ => exec_remoteItemEnqueue_moves hl⟩
  case kept =>
    refine exec_contextOpen hl (Dev.ctxStateWr_openKept ho fun hm => ?_)
    obtain ⟨hk, hs, hkey⟩ := hm
    rcases hx with hx | hx | ⟨h0, h3⟩
    · exact hx hk
    · exact absurd hkey (ne_true_of_eq_false hx)
    · exact hs.elim h0 h3
  case host =>
    intro m ⟨hd, hu, hr, hlen, hv⟩ hp hek
    have hrx := exec_openRx_host hl hd hr hu hp hek
    exact ⟨fun h0 => hrx.trans (congrArg now (Dev.hostOpen_versions hv hlen h0)),
      fun h1 hn => hrx.trans (congrArg now (Dev.hostOpen_full hv hlen h1 (Dev.firstHost_none hn))),
      fun h1 hc hlow => hrx.trans (congrArg now (Dev.hostOpen_taken hv hlen h1 (Dev.firstHost_lowest hc hlow)))⟩
  case peer =>
    rintro m hd hr hek rfl
    have hrx := exec_openRx_peer hl hd hr hek
    refine ⟨fun hx => hrx.trans (congrArg now (Dev.peerOpenRx_shut hx)), fun hu hk hb =>
      ⟨fun hx => hrx.trans (congrArg now (Dev.peerOpenRx_auth hu hk hb hx)), fun ha hkey =>
        ⟨fun hx => hrx.trans (congrArg now (Dev.peerOpenRx_malformed hu hk hb ha hkey hx)), fun hv hlen => ?_⟩⟩⟩
    have hweighed := hrx.trans (congrArg now (Dev.peerOpenRx_weighed hu hk hb ha hkey hv hlen))
    have hstate := d.addressed_state c h
    have hwins : (d.addressed h).openWins c h.sctx m.incarn ↔ d.openWins c h.sctx m.incarn := by
      unfold Dev.openWins
      rw [hstate]
      rfl
    exact ⟨fun h3 hi => hweighed.trans (congrArg now (Dev.peerOpen_failed (hstate.trans h3) hi)),
      fun hw => hweighed.trans (congrArg now (Dev.peerOpen_stale (mt hwins.1 hw))),
      fun hw h3 h0 => hweighed.trans (congrArg now (Dev.peerOpen_versions (hwins.2 hw) (hstate.trans_ne h3) h0)),
      fun hw h3 h1 => hweighed.trans (congrArg now (Dev.peerOpen_opens (hwins.2 hw) (hstate.trans_ne h3) h1))⟩
  case ack =>
    rintro i st ⟨hd, hu, hr, hlen, hv⟩ rfl hs ha
    have hack := exec_openAck_opening (i := i) (st := st) hl hd hu hr hlen hv hs ha
    exact ⟨fun h0 hi => hack.trans (congrArg now ((if_pos h0).trans (if_pos hi))),
      fun h0 hi => hack.trans (congrArg now ((if_pos h0).trans (if_neg hi))),
      fun h0 => ⟨_, hack.trans (congrArg now (if_neg h0)), fun h45 => if_pos h45⟩⟩
  case close =>
    rintro r a rfl
    exact exec_closeRx_served hl a
  case caps =>
    rintro b a rfl
    have hcaps := exec_capsRx_served (b := b) hl a
    exact ⟨fun hb => hcaps.trans (congrArg now (if_pos hb)), fun hb => hcaps.trans (congrArg now (if_neg (ne_true_of_eq_false hb)))⟩
  case rto =>
    intro m l hq ha
    exact ⟨(exec_rtoExpiry_waited hl hq ha false).trans (congrArg now (if_neg Bool.false_ne_true)),
      (exec_rtoExpiry_waited hl hq ha true).trans (congrArg now (if_pos rfl))⟩
  case recover =>
    intro ho h6 hs
    have hgo : ¬ (!d.duty 6 || decide (d.ctxState c ≠ 2)) = true := by simp [h6, hs]
    exact ⟨exec_recoverRetransmit hl ((d.recoverWr_owner ho ctx.isLt (by decide)).trans ((if_neg hgo).trans (if_pos rfl))),
      exec_recoverExhaust hl ((d.recoverWr_owner ho ctx.isLt (by decide)).trans
        ((if_neg hgo).trans ((if_neg (by decide)).trans (if_pos rfl))))⟩
  case recoverKept =>
    intro ho hx
    have hstop : (!d.duty 6 || decide (d.ctxState c ≠ 2)) = true := by rcases hx with hx | hx <;> simp [hx]
    exact ⟨exec_recoverRetransmit hl ((d.recoverWr_owner ho ctx.isLt (by decide)).trans (if_pos hstop)),
      exec_recoverExhaust hl ((d.recoverWr_owner ho ctx.isLt (by decide)).trans (if_pos hstop))⟩

end

section
/-! PROOF. What a port receives and sends, LLDP, and failover (R402, R403, R405, R407, R413, R419 to R421, R436), and the statement
about it. -/

namespace Sys2Proof.Machine

variable (d : Dev) (n : Nat) (f : FrameRx) {s : State} {port : PortId} {cred : Cred}

/-! ### Frames received (R402 to R405) -/

/-- The port once it has counted a frame and what the FEC found in it. -/
def Dev.frameCounted : Dev :=
  let x := ((d.add (ETH_P_COUNT_V n 1) 1).add (ETH_P_COUNT_V n 7) f.bytes).add (ETH_P_COUNT_V n 2) f.fecCorrected
  (x.add (ETH_P_COUNT_V n 3) f.fecBad).modPort n fun y => { y with fecSecond := y.fecSecond + f.fecBad }

/-- The port takes the kind of frame only under MACsec. -/
def Dev.frameShut : Bool :=
  f.kind != .lldp && ((d.port n).sas.any (fun a => a.rx) || (f.kind == .nopra && d.is (ETH_P_CTRL_MACSEC_REQ n)))

/-- The port takes no frame of the kind. -/
def Dev.frameOther : Bool := f.kind == .fragment || f.kind == .other || (d.ethState n == 2 && f.kind == .nopra)

/-- The frame is counted as dropped, if it is. -/
def Dev.frameDropped (drop : Bool) : Dev := if drop then d.add (ETH_P_COUNT_V n 5) 1 else d

/-- Too many frames that the FEC could not mend are a loss of alignment. -/
def Dev.frameEnds : Dev := if 256 < (d.port n).fecSecond then d.linkLoss n else d

/-- The receive association that a frame names. -/
def Dev.rxSa : Option Sa := (d.port n).sas.find? fun a => a.rx && a.an == f.an

section Macsec
variable {d n f}

/-- A frame whose ICV fails is counted as such. -/
theorem Dev.macsecRx_badIcv (hi : f.icvOk = false) : d.macsecRx n f = d.add (ETH_P_COUNT_V n 4) 1 := by
  unfold Dev.macsecRx
  cases (d.port n).sas.find? fun a => a.rx && a.an == f.an with
  | none => rfl
  | some a => exact if_pos (by simp [hi])

/-- So is one of an association that is not there. -/
theorem Dev.macsecRx_noSa (hs : d.rxSa n f = none) : d.macsecRx n f = d.add (ETH_P_COUNT_V n 4) 1 := by
  unfold Dev.macsecRx
  rw [show ((d.port n).sas.find? fun a => a.rx && a.an == f.an) = none from hs]

variable {a : Sa} (hi : f.icvOk = true) (hs : d.rxSa n f = some a)
include hi hs

/-- A replayed frame leaves no trace (log 33). -/
theorem Dev.macsecRx_replayed (hp : f.pn < a.next) : d.macsecRx n f = d := by
  unfold Dev.macsecRx
  rw [show ((d.port n).sas.find? fun a => a.rx && a.an == f.an) = some a from hs]
  exact (if_neg (by simp [hi])).trans (if_pos hp)

/-- A good one sets the next packet number. -/
theorem Dev.macsecRx_good (hp : a.next ≤ f.pn) : d.macsecRx n f =
    d.modPort n fun y => { y with sas := y.sas.map fun b => if b = a then { b with next := f.pn + 1 } else b } := by
  unfold Dev.macsecRx
  rw [show ((d.port n).sas.find? fun a => a.rx && a.an == f.an) = some a from hs]
  exact (if_neg (by simp [hi])).trans (if_neg (Nat.not_lt.2 hp))

end Macsec

section Receive
variable {f}
variable (hl : s.dev.live = true)
include hl

/-- A port that is not trained receives nothing. -/
theorem exec_frameReceive_down (h : s.dev.ethState port.val = 0 ∨ s.dev.ethState port.val = 1) :
    exec (.frameReceive port f) s = s.nextDev s.dev :=
  exec_next rfl hl (if_pos (by rcases h with h | h <;> simp [h, ethDisabled, ethTraining]))

variable (h0 : s.dev.ethState port.val ≠ 0) (h1 : s.dev.ethState port.val ≠ 1)
include h0 h1

/-- A frame under MACsec whose ICV fails is dropped there. -/
theorem exec_frameReceive_badIcv (hm : f.macsec = true) (hi : f.icvOk = false) : exec (.frameReceive port f) s =
    s.nextDev (((s.dev.frameCounted port.val f).add (ETH_P_COUNT_V port.val 4) 1).frameEnds port.val) := by
  refine exec_next rfl hl ((if_neg (by simp [h0, h1, ethDisabled, ethTraining])).trans ?_)
  simp only [hm, hi, if_true, Bool.not_false, Bool.and_self, Dev.macsecRx_badIcv hi]
  rfl

/-- Any other one is dropped by its kind alone. -/
theorem exec_frameReceive_macsec {e : Dev} (hm : f.macsec = true) (hi : f.icvOk = true)
    (he : (s.dev.frameCounted port.val f).macsecRx port.val f = e) : exec (.frameReceive port f) s =
    s.nextDev ((e.frameDropped port.val (s.dev.frameOther port.val f)).frameEnds port.val) := by
  subst he
  refine exec_next rfl hl ((if_neg (by simp [h0, h1, ethDisabled, ethTraining])).trans ?_)
  simp only [hm, hi, if_true, Bool.not_true, Bool.and_false, Bool.false_and, Bool.or_false, Bool.false_eq_true, if_false]
  rfl

/-- A frame without MACsec is dropped by its kind or for want of it. -/
theorem exec_frameReceive_bare (hm : f.macsec = false) : exec (.frameReceive port f) s =
    s.nextDev (((s.dev.frameCounted port.val f).frameDropped port.val
      (s.dev.frameOther port.val f || (s.dev.frameCounted port.val f).frameShut port.val f)).frameEnds port.val) := by
  refine exec_next rfl hl ((if_neg (by simp [h0, h1, ethDisabled, ethTraining])).trans ?_)
  simp only [hm, Bool.not_false, Bool.true_and, Bool.false_and, Bool.false_eq_true, if_false, Dev.frameOther]
  rw [Bool.or_right_comm]
  rfl

end Receive

/-! ### LLDP (R407) and transmission (R420) -/

section Lldp
variable (hl : s.dev.live = true)
include hl

/-- A port that is not trained sends and keeps no LLDPDU. -/
theorem exec_lldpTx_down (h : s.dev.ethState port.val < 2) : exec (.lldpTx port) s = s.nextDev s.dev :=
  exec_next rfl hl (if_pos (by simp [h, ethLinked]))
theorem exec_lldpdu_down (h : s.dev.ethState port.val < 2) (chassis id : List Byte) (ttl : Nat) :
    exec (.lldpdu port chassis id ttl) s = s.nextDev s.dev := exec_next rfl hl (if_pos h)

/-- The latest LLDPDU of the partner is kept. -/
theorem exec_lldpdu_kept (h : 2 ≤ s.dev.ethState port.val) (chassis id : List Byte) (ttl : Nat) :
    exec (.lldpdu port chassis id ttl) s = s.nextDev (s.dev.modPort port.val fun x =>
      { x with chassis := chassis, portId := id, lldpAt := some s.dev.now, lldpTtl := ttl }) :=
  exec_next rfl hl (if_neg (Nat.not_lt.2 h))

/-- LLDP_S 0 sends none. -/
theorem exec_lldpTx_off (hk : s.dev.get (ETH_P_CTRL_LLDP_S port.val) = 0) : exec (.lldpTx port) s = s.nextDev s.dev :=
  exec_next rfl hl (if_pos (by simp [hk]))

/-- The port's LLDPDU goes out now. -/
def Dev.lldpSend : Dev := (d.modPort n fun x => { x with lldpSent := d.now }).queueOpen n
  { TxMsg.init with type := 0x101, payload := d.lldpFrame n }

/-- The first LLDPDU, and each next one LLDP_S seconds after it. -/
theorem exec_lldpTx_sends (h : 2 ≤ s.dev.ethState port.val) (hk : s.dev.get (ETH_P_CTRL_LLDP_S port.val) ≠ 0) :
    exec (.lldpTx port) s = s.nextDev (Dev.lldpSend
      (if (s.dev.port port.val).lldpSent = 0 then s.dev
      else s.dev.toTime ((s.dev.port port.val).lldpSent + s.dev.get (ETH_P_CTRL_LLDP_S port.val) * secLen)) port.val) :=
  exec_next rfl hl (if_neg (by simp [hk, ethLinked]; omega))

/-- PORT_TRANSMIT, once the port is free. -/
theorem exec_portTransmit : exec (.portTransmit port) s =
    let e := s.dev.toTick (s.dev.port port.val).busyUntil
    s.nextDev ((if port.val = 0 then e.pumpPush else e).transmit port.val) := exec_next rfl hl rfl

end Lldp

/-! ### A port that left UP (R436) -/

/-- What its leaving makes of the device, once it is noted. -/
def Dev.failoverOf : Dev :=
  if d.get ETH_FAILOVER_SERVING ≠ 31 then (d.failoverRecord n false (d.rises 2)).raiseLevel 2 10
  else if d.duty 4 || (d.is ETH_FAILOVER_AUTO && !d.sparesItself) then (d.failoverRecord n false false).addNeed 7 n 0
  else if d.is ETH_FAILOVER_AUTO && d.vReady then (d.failoverRecord n true (d.rises 1)).sparePort n
  else d.failoverRecord n false false

/-- The loss of the port has been taken up. -/
def Dev.lossTaken : Dev := d.modPort n fun y => { y with lost := false }

section Failover
variable (hl : s.dev.live = true)
include hl

/-- A port that has not left UP. -/
theorem exec_portFailover_none (hp : (s.dev.port port.val).lost = false) : exec (.portFailover port) s = .next (s.metered s.dev) :=
  exec_nextM rfl hl (if_pos (by simp [hp]))

/-- One that has. -/
theorem exec_portFailover_lost (hp : (s.dev.port port.val).lost = true) :
    exec (.portFailover port) s = .next (s.metered ((s.dev.lossTaken port.val).failoverOf port.val)) :=
  exec_nextM rfl hl (if_neg (by simp [hp]))

end Failover

section FailoverOf
variable {d n}

/-- V is taken already. -/
theorem Dev.failoverOf_taken (hv : d.get ETH_FAILOVER_SERVING ≠ 31) :
    d.failoverOf n = (d.failoverRecord n false (d.rises 2)).raiseLevel 2 10 := if_pos hv

variable (hv : d.get ETH_FAILOVER_SERVING = 31)
include hv

/-- The need waits for the host or for the management controller. -/
theorem Dev.failoverOf_waits (hw : d.duty 4 = true ∨ (d.is ETH_FAILOVER_AUTO = true ∧ d.dmcDown = true)) :
    d.failoverOf n = (d.failoverRecord n false false).addNeed 7 n 0 :=
  (if_neg (not_not.2 hv)).trans (if_pos (by rcases hw with hw | ⟨ha, hd⟩ <;> simp [*, Dev.sparesItself]))

variable (h4 : d.duty 4 = false)
include h4

/-- The contexts move to V. -/
theorem Dev.failoverOf_moves (ha : d.is ETH_FAILOVER_AUTO = true) (hd : d.dmcDown = false) (hu : d.ethState 17 = 4) :
    d.failoverOf n = (d.failoverRecord n true (d.rises 1)).sparePort n :=
  (if_neg (not_not.2 hv)).trans ((if_neg (by simp [h4, ha, hd, Dev.sparesItself])).trans
    (if_pos (by simp [ha, hu, hv, Dev.vReady, portV, ethUp])))

/-- AUTO is off, or V is not UP. -/
theorem Dev.failoverOf_kept (hx : d.is ETH_FAILOVER_AUTO = false ∨ (d.dmcDown = false ∧ d.ethState 17 ≠ 4)) :
    d.failoverOf n = d.failoverRecord n false false :=
  (if_neg (not_not.2 hv)).trans ((if_neg (by rcases hx with ha | ⟨hd, -⟩ <;> simp [*, Dev.sparesItself])).trans
    (if_neg (by rcases hx with ha | ⟨-, hu⟩ <;> simp [*, Dev.vReady, portV, ethUp])))

end FailoverOf

/-! ### Writes of ETH_FAILOVER (R436, R438) -/

/-- AUTO and TARGET as a write gives them. -/
def Dev.failoverTaken (v : Nat) : Dev := (d.take ETH_FAILOVER_AUTO v).take ETH_FAILOVER_TARGET v

section FailoverWr
variable {d} {v : Nat}

/-- The write leaves V's state, and which port it stands in for. -/
theorem Dev.failoverTaken_vReady : (d.failoverTaken v).vReady = true ↔ d.ethState 17 = 4 ∧ d.get ETH_FAILOVER_SERVING = 31 := by
  have hstate : (d.failoverTaken v).ethState portV = d.ethState 17 := by
    rw [Dev.ethState, Dev.failoverTaken, Dev.get_take_ne _ _ (by decide) (by decide) (by decide),
      Dev.get_take_ne _ _ (by decide) (by decide) (by decide)]
    rfl
  have hserving : (d.failoverTaken v).get ETH_FAILOVER_SERVING = d.get ETH_FAILOVER_SERVING := by
    rw [Dev.failoverTaken, Dev.take, Dev.get_set_ne _ _ _ _ (by decide), Dev.take, Dev.get_set_ne _ _ _ _ (by decide)]
  simp [Dev.vReady, hstate, hserving, ethUp]

variable (ho : isOwner cred = true)
include ho

/-- The owner's write. -/
theorem Dev.failoverWr_owner : d.failoverWr cred v =
    (let x := d.failoverTaken v
     let t := x.get ETH_FAILOVER_TARGET
     let y := if ETH_FAILOVER_FORCE.of v = 1 && x.vReady && decide (1 ≤ t) && decide (t ≤ 16) then x.sparePort t else x
     if ETH_FAILOVER_FAILBACK.of v = 1 then y.flag ETH_FAILOVER_FAILBACK true else y, stOk) := ownerWr_of_isOwner _ _ ho

/-- FORCE while V is UP and free, for a scale-out port. -/
theorem Dev.failoverWr_forces (hf : ETH_FAILOVER_FORCE.of v = 1) (hb : ETH_FAILOVER_FAILBACK.of v = 0)
    (hv : d.ethState 17 = 4 ∧ d.get ETH_FAILOVER_SERVING = 31) (h1 : 1 ≤ ETH_FAILOVER_TARGET.of v) (h16 : ETH_FAILOVER_TARGET.of v ≤ 16) :
    d.failoverWr cred v = ((d.failoverTaken v).sparePort (ETH_FAILOVER_TARGET.of v), stOk) := by
  have ht : (d.failoverTaken v).get ETH_FAILOVER_TARGET = ETH_FAILOVER_TARGET.of v := Dev.get_take_same _ v _
  rw [Dev.failoverWr_owner ho]
  simp only [hf, hb, ht, Dev.failoverTaken_vReady.2 hv, h1, h16, decide_true, Bool.and_self, if_true, Nat.zero_ne_one, if_false]

/-- FORCE otherwise moves nothing. -/
theorem Dev.failoverWr_kept (hb : ETH_FAILOVER_FAILBACK.of v = 0)
    (hx : ¬ ((d.ethState 17 = 4 ∧ d.get ETH_FAILOVER_SERVING = 31) ∧ 1 ≤ ETH_FAILOVER_TARGET.of v ∧ ETH_FAILOVER_TARGET.of v ≤ 16)) :
    d.failoverWr cred v = (d.failoverTaken v, stOk) := by
  have ht : (d.failoverTaken v).get ETH_FAILOVER_TARGET = ETH_FAILOVER_TARGET.of v := Dev.get_take_same _ v _
  rw [Dev.failoverWr_owner ho]
  refine congrArg (·, stOk) ((if_neg (by simp [hb])).trans (if_neg fun hc => hx ?_))
  simp only [ht, Bool.and_eq_true, decide_eq_true_eq, Dev.failoverTaken_vReady] at hc
  obtain ⟨⟨⟨-, hv⟩, h1⟩, h16⟩ := hc
  exact ⟨hv, h1, h16⟩

/-- FAILBACK is noted. -/
theorem Dev.failoverWr_failback (hf : ETH_FAILOVER_FORCE.of v = 0) (hb : ETH_FAILOVER_FAILBACK.of v = 1) :
    d.failoverWr cred v = ((d.failoverTaken v).flag ETH_FAILOVER_FAILBACK true, stOk) := by
  rw [Dev.failoverWr_owner ho]
  simp [hf, hb]

end FailoverWr

/-- The value that forces port n to V. -/
def Dev.forceValue : Nat := boolBit (d.is ETH_FAILOVER_AUTO) + n * 256 + 2

theorem boolBit_le (b : Bool) : boolBit b ≤ 1 := by cases b <;> decide

variable {n} in
theorem Dev.forceValue_fields (hn : n < 32) : ETH_FAILOVER_FORCE.of (d.forceValue n) = 1 ∧ ETH_FAILOVER_FAILBACK.of (d.forceValue n) = 0 ∧
    ETH_FAILOVER_TARGET.of (d.forceValue n) = n := by
  have hb := boolBit_le (d.is ETH_FAILOVER_AUTO)
  simp only [RF.of, bits, ETH_FAILOVER_FORCE, ETH_FAILOVER_FAILBACK, ETH_FAILOVER_TARGET, Dev.forceValue]
  omega

theorem Dev.failbackValue_fields : ETH_FAILOVER_FORCE.of (d.failoverNow + 4) = 0 ∧ ETH_FAILOVER_FAILBACK.of (d.failoverNow + 4) = 1 := by
  have hb := boolBit_le (d.is ETH_FAILOVER_AUTO)
  simp only [RF.of, bits, ETH_FAILOVER_FORCE, ETH_FAILOVER_FAILBACK, Dev.failoverNow]
  omega

/-- The next span frame starts, as its length gives it (R419). -/
def Dev.nextFrame (len : Nat) : Dev := (d.toTime ((d.now / len + 1) * len)).frameStart

section FailoverCommands
variable (hl : s.dev.live = true)
include hl

/-- FAILOVER_FORCE is the write of the register. -/
theorem exec_failoverForce {e : Dev} {st : Byte} (hw : s.dev.failoverWr cred (s.dev.forceValue port.val) = (e, st)) :
    exec (.failoverForce cred port) s = .next (s.metered (e.completed st 0)) := exec_nextM rfl hl (congrArg ended hw)

/-- FAILBACK is the owner's (R438). -/
theorem exec_failback_denied (ho : isOwner cred = false) : exec (.failback cred) s = .next (s.metered (s.dev.completed stDenied 0)) := by
  have hw : s.dev.failoverWr cred (s.dev.failoverNow + 4) = (s.dev, stDenied) := ownerWr_of_not_isOwner _ _ ho
  refine exec_nextM rfl hl ?_
  simp only [hw]
  rfl

/-- It takes effect as the next span frame starts. -/
theorem exec_failback_owner (ho : isOwner cred = true) : exec (.failback cred) s = .next (s.metered
    ((((s.dev.failoverTaken (s.dev.failoverNow + 4)).flag ETH_FAILOVER_FAILBACK true).nextFrame s.dev.frameLen).completed stOk 0)) := by
  obtain ⟨hf, hb⟩ := s.dev.failbackValue_fields
  refine exec_nextM rfl hl ?_
  simp only [Dev.failoverWr_failback ho hf hb]
  rfl

/-- SPAN_FRAME_BOUNDARY. -/
theorem exec_spanFrameBoundary : exec .spanFrameBoundary s = .next (s.metered (s.dev.nextFrame s.dev.frameLen)) := exec_nextM rfl hl rfl

end FailoverCommands

end Sys2Proof.Machine

open Sys2Proof Sys2Proof.Machine

/-- Settles O47: each command by the state of its port, of V and of the duty map. -/
theorem portTraffic : Obligations.PortTraffic := by
  intro s cred port hl n d now nowM frame
  refine ⟨fun f h0 h1 => ?frames, fun h f => exec_frameReceive_down hl h,
    fun h => ⟨exec_lldpTx_down hl h, exec_lldpdu_down hl h⟩,
    fun h => ⟨exec_lldpTx_off hl, fun hk h0 => (exec_lldpTx_sends hl h hk).trans ?first, fun hk h0 => (exec_lldpTx_sends hl h hk).trans ?next,
      exec_lldpdu_kept hl h⟩,
    ⟨fun hn => ?sends, fun hn => ?sendsH⟩, exec_portFailover_none hl, fun hp => ?lost,
    fun ho => ⟨exec_failoverForce hl (ownerWr_of_not_isOwner _ _ ho), exec_failback_denied hl ho⟩,
    fun ho hn => ?forceOther, fun ho h1 h16 => ?force, exec_failback_owner hl, exec_spanFrameBoundary hl⟩
  case frames =>
    refine ⟨exec_frameReceive_badIcv hl h0 h1, fun hm hi hs => exec_frameReceive_macsec hl h0 h1 hm hi (Dev.macsecRx_noSa hs),
      fun a hm hi hs => ⟨fun hp => exec_frameReceive_macsec hl h0 h1 hm hi (Dev.macsecRx_replayed hi hs hp),
        fun hp => exec_frameReceive_macsec hl h0 h1 hm hi (Dev.macsecRx_good hi hs hp)⟩,
      fun hm hs ho => ?kept, fun hm hx => ?dropped⟩
    all_goals refine (exec_frameReceive_bare hl h0 h1 hm).trans (congrArg (fun e : Dev => now (e.frameEnds n)) ?_)
    case kept => exact if_neg (by rw [show d.frameOther n f = false from ho, show (d.frameCounted n f).frameShut n f = false from hs]; decide)
    case dropped =>
      refine if_pos ?_
      rw [Bool.or_eq_true]
      exact hx.symm
  case first => rw [if_pos h0]; rfl
  case next => rw [if_neg h0]; rfl
  case sends => exact (exec_portTransmit hl).trans (congrArg (fun e : Dev => now (e.transmit n)) (if_neg hn))
  case sendsH =>
    exact (exec_portTransmit hl).trans ((congrArg (fun e : Dev => now (e.transmit n)) (if_pos hn)).trans
      (congrArg (fun k => now ((d.toTick (d.port n).busyUntil).pumpPush.transmit k)) hn))
  case lost =>
    have hlost := exec_portFailover_lost hl hp
    exact ⟨fun hv => hlost.trans (congrArg nowM (Dev.failoverOf_taken hv)),
      fun hv hw => hlost.trans (congrArg nowM (Dev.failoverOf_waits hv hw)),
      fun hv h4 ha hd hu => hlost.trans (congrArg nowM (Dev.failoverOf_moves hv h4 ha hd hu)),
      fun hv h4 hx => hlost.trans (congrArg nowM (Dev.failoverOf_kept hv h4 hx))⟩
  case forceOther =>
    obtain ⟨-, hb, ht⟩ := d.forceValue_fields (n := n) (by omega)
    refine exec_failoverForce hl (Dev.failoverWr_kept ho hb fun hx => ?_)
    rw [ht] at hx
    omega
  case force =>
    obtain ⟨hf, hb, ht⟩ := d.forceValue_fields (n := n) (by omega)
    refine ⟨fun hu hv => exec_failoverForce hl ?_, fun hx => exec_failoverForce hl (Dev.failoverWr_kept ho hb fun hc => ?_)⟩
    · have hw := Dev.failoverWr_forces ho hf hb ⟨hu, hv⟩ (h1.trans_eq ht.symm) (ht.trans_le h16)
      rwa [ht] at hw
    · exact hx.elim (absurd hc.1.1) (absurd hc.1.2)

end

section
/-! PROOF. What a step does whatever its command: the queue, an idle cycle (R43, R47, R102), a held device (R524, R542), what the meter
sees of a command (R475) and what becomes of its records (R479, R482 to R484), and the statements about them. -/

namespace Sys2Proof.Machine

variable (s : State) (d : Dev) {m : Meter}

/-! ### The meter's own commands keep its chain -/

/-- Soundness speaks of the records, the next SEQ and the cumulative energy alone. -/
theorem Meter.sound_congr {u : Meter} (h : m.sound) (hr : u.records = m.records) (hs : u.nextSeq = m.nextSeq) (hc : u.cum = m.cum) :
    u.sound := by
  unfold Meter.sound at h ⊢
  rwa [hr, hs, hc]

/-- A chain without records is sound. -/
theorem Meter.sound_of_records_nil (h : m.records = []) : m.sound := fun _ hr => absurd (h ▸ hr) List.not_mem_nil

/-- The close at a multiple of INTERVAL. -/
theorem Meter.closeDue_sound (h : m.sound) : (m.closeDue d).sound := by
  unfold Meter.closeDue
  split
  · exact m.close_sound d d false false h
  · exact h

/-- Meter time that goes on touches no record. -/
theorem Meter.goTo_sound (h : m.sound) (n : Nat) : (m.goTo n).sound := by
  unfold Meter.goTo
  split
  · exact h
  · exact Meter.sound_congr h rfl rfl rfl

/-- Nor does a sample. -/
theorem Meter.sample_sound (h : m.sound) (rails : List (Nat × Nat)) : (m.sample rails).sound := Meter.sound_congr h rfl rfl rfl

/-- A command of the meter answers a state with the same queue, and keeps the chain sound. -/
theorem exec_ofMeter {c : Instr} (h : ofMeter c) : ∃ e u, exec c s = .next ⟨e, u, s.pending⟩ ∧ (s.mtr.sound → u.sound) := by
  have hfresh (chain : List Byte) (romOk calOk : Bool) : (meterFresh s.dev chain romOk calOk).sound := Meter.sound_of_records_nil rfl
  cases c with
  | meterReset chain romOk calOk => exact ⟨_, _, rfl, fun _ => hfresh chain romOk calOk⟩
  | meterWatchdog chain romOk calOk =>
    cases hp : s.mtr.powered with
    | false => exact ⟨s.dev, s.mtr, congrArg Host.Outcome.next (if_neg (ne_true_of_eq_false hp)), id⟩
    | true => exact ⟨_, _, congrArg Host.Outcome.next (if_pos hp), fun _ => hfresh chain romOk calOk⟩
  | vddMtrFall => exact ⟨_, _, rfl, fun _ => Meter.sound_of_records_nil rfl⟩
  | meterSample rails =>
    refine ⟨_, _, rfl, fun hs => ?_⟩
    dsimp only
    split
    · exact Meter.sample_sound (Meter.closeDue_sound s.dev hs) rails
    · exact hs
  | meterSealCheck failed =>
    refine ⟨_, _, rfl, fun hs => ?_⟩
    dsimp only
    split
    · exact Meter.sound_congr hs rfl rfl rfl
    · exact hs
  | meterIntervalClose =>
    refine ⟨_, _, rfl, fun hs => ?_⟩
    dsimp only
    split
    · exact Meter.closeDue_sound s.dev (Meter.goTo_sound hs _)
    · exact hs
  | _ => exact h.elim

/-- Every command answers a state with the same queue, and keeps the chain sound. -/
theorem exec_answers (c : Instr) : ∃ t, exec c s = .next t ∧ t.pending = s.pending ∧ (s.mtr.sound → t.mtr.sound) := by
  by_cases h : ofMeter c
  · obtain ⟨e, u, hx, hs⟩ := exec_ofMeter s h
    exact ⟨_, hx, rfl, hs⟩
  · obtain ⟨e, hx | hx | ⟨-, hx⟩⟩ := exec_form c s h
    · exact ⟨_, hx, rfl, id⟩
    · exact ⟨_, hx, rfl, Meter.observe_sound _ _ _⟩
    · exact ⟨_, hx, rfl, Meter.observe_sound _ _ _⟩

/-! ### One array cycle without a command (R43, R47, R102) -/

/-- With no command waiting a step is one cycle. -/
theorem step_idle (hp : s.pending = []) : step s = idle s := by rw [step, hp]

/-- A device held in reset or stopped lets no cycle pass. -/
theorem step_idle_held (hp : s.pending = []) (hl : s.dev.live = false) : step s = .next s := by
  rw [step_idle s hp]
  exact congrArg (fun e => Host.Outcome.next { s with dev := e }) (if_neg (ne_true_of_eq_false hl))

/-- A device that runs lets one pass. -/
theorem step_idle_live (hp : s.pending = []) (hl : s.dev.live = true) : step s = .next { s with dev := s.dev.passCycles 1 } := by
  rw [step_idle s hp]
  exact congrArg (fun e => Host.Outcome.next { s with dev := e }) (if_pos hl)

section Cycle
variable {d} (hf : d.spare.fenceNext = [])
include hf

/-- Where device time is exhausted, the tile cycle count goes on alone. -/
theorem Dev.passCycles_one_exhausted (he : d.time.exhausted = true) : d.passCycles 1 = { d with tick := d.tick + 1 } := by
  simp [Dev.passCycles, hf, he]

variable (he : d.time.exhausted = false) (hsec : d.now % secLen + 1 < secLen)
include he hsec

/-- Within a second both counts advance by one, and device time stops as it comes to its last value. -/
theorem Dev.passCycles_one : d.passCycles 1 =
    if d.now + 1 = lastTime then ({ d with tick := d.tick + 1, now := d.now + 1 } : Dev).exhaust
    else { d with tick := d.tick + 1, now := d.now + 1 } := by
  have hnow : d.now / secLen * secLen + (d.now % secLen + 1) = d.now + 1 := by
    rw [← Nat.add_assoc, Nat.div_add_mod']
  simp [Dev.passCycles, hf, he, Nat.div_eq_of_lt hsec, Nat.mod_eq_of_lt hsec, Dev.seconds, hnow]

end Cycle

/-- A message queued or discarded leaves every field but the counters of its context. -/
theorem Dev.queueMsg_get {c : Nat} {f : RF} (hf : f.key ≠ (NOP_CTX_COUNT_V c 2).key) (x : TxMsg) : (d.queueMsg c x).get f = d.get f := by
  unfold Dev.queueMsg
  split
  · rfl
  · exact Dev.get_set_ne _ _ _ _ hf

/-- And the tile cycle count. -/
theorem Dev.queueMsg_tick (c : Nat) (x : TxMsg) : (d.queueMsg c x).tick = d.tick := by
  unfold Dev.queueMsg
  split <;> rfl

/-- A strand's registers read 0 at reset (R81). -/
theorem Strand.init_reg (r : Nat) : Strand.init.reg r = 0 := by
  unfold Strand.reg
  split
  · rfl
  · rw [Strand.init, List.getD_eq_getElem?_getD, List.getElem?_getD_replicate_default_eq]

/-- CAPS on every open PEER context leaves QUALITY and the tile cycle count. -/
theorem Dev.capsAll_quality : d.capsAll.get TIME_STATUS_QUALITY = d.get TIME_STATUS_QUALITY ∧ d.capsAll.tick = d.tick := by
  refine List.foldlRecOn (motive := fun e : Dev => e.get TIME_STATUS_QUALITY = d.get TIME_STATUS_QUALITY ∧ e.tick = d.tick) _ _
    ⟨rfl, rfl⟩ fun e he c _ => ⟨(e.queueMsg_get ?_ _).trans he.1, (e.queueMsg_tick _ _).trans he.2⟩
  simp only [RF.key, TIME_STATUS_QUALITY, TIME_STATUS, NOP_CTX_COUNT_V, NOP_CTX_COUNT]
  omega

/-- Once the count has stopped QUALITY reads 6. -/
theorem Dev.exhaust_quality : d.exhaust.get TIME_STATUS_QUALITY = 6 ∧ d.exhaust.tick = d.tick := by
  have hq (e : Dev) (h : e.time.exhausted = true) : e.quality = 6 := if_pos h
  unfold Dev.exhaust Dev.requality
  split
  · next h => exact ⟨h.trans (hq _ rfl), rfl⟩
  · rw [(Dev.capsAll_quality _).1, (Dev.capsAll_quality _).2, hq _ rfl]
    exact ⟨Dev.get_set_same _ _ _, rfl⟩

end Sys2Proof.Machine

open Sys2Proof Sys2Proof.Machine

/-- Settles O1: the step's own case of a queue that is not empty. -/
theorem stepFront : Obligations.StepFront := by
  intro c rest s h
  rw [step, h]

/-- Settles O3: the meter's commands one by one, every other by its form. -/
theorem everyCommandAnswers : Obligations.EveryCommandAnswers := by
  intro c s
  obtain ⟨t, hx, hp, -⟩ := exec_answers s c
  exact ⟨t, hx, hp⟩

/-- Settles O5: each of the forms leaves a held device, and the meter sees nothing in it. -/
theorem heldDevice : Obligations.HeldDevice := by
  intro c s hl hm hp
  obtain ⟨e, hx | hx | ⟨hpins, -⟩⟩ := exec_form c s hm
  · simpa [hl] using hx
  · have hsame : s.mtr.observe s.dev s.dev = s.mtr := Meter.observe_same _ _ _ (sameMap_refl s.dev) (by simp) (by simp)
    simpa [hl, hsame] using hx
  · exact absurd hpins hp

/-- Settles O6: a command either leaves the meter, or the meter observes it. -/
theorem meterInputs : Obligations.MeterInputs := by
  intro c s t hm hx
  obtain ⟨e, h | h | ⟨-, h⟩⟩ := exec_form c s hm
  all_goals cases h.symm.trans hx
  · exact ⟨rfl, fun _ _ _ => rfl⟩
  · exact ⟨Meter.observe_measured _ _ _, Meter.observe_same _ _ _⟩
  · exact ⟨Meter.observe_measured _ _ _, Meter.observe_same _ _ _⟩

/-- Settles O7: there is no record yet. -/
theorem meterSoundAtReset : Obligations.MeterSoundAtReset := Meter.sound_of_records_nil rfl

/-- Settles O8: an idle cycle leaves the meter, and every command keeps its chain. -/
theorem meterSoundKept : Obligations.MeterSoundKept := by
  intro s t hs hx
  cases hp : s.pending with
  | nil =>
    rw [step, hp] at hx
    cases hx
    exact hs
  | cons c rest =>
    obtain ⟨u, hu, -, hk⟩ := exec_answers { s with pending := rest } c
    rw [step, hp] at hx
    cases hu.symm.trans hx
    exact hk hs

/-- Settles O2: the cycle by what it finds of device time. -/
theorem stepIdle : Obligations.StepIdle := by
  intro s hp
  refine ⟨step_idle_held s hp, fun hl hf => ⟨fun he => ?_, fun he hsec => ?_⟩⟩
  · rw [step_idle_live s hp hl, Dev.passCycles_one_exhausted hf he]
  · have hone := Dev.passCycles_one hf he hsec
    refine ⟨fun hn => ?_, fun hn => ⟨_, step_idle_live s hp hl, ?_⟩⟩
    · rw [step_idle_live s hp hl, hone.trans (if_neg hn)]
    · rw [hone.trans (if_pos hn)]
      refine ⟨?_, ?_, (Dev.exhaust_quality _).2, (Dev.exhaust_quality _).1⟩
      · exact congrArg TimeUnit.exhausted (Dev.requality_time _)
      · exact (Dev.requality_now _).trans hn.symm

/-- Settles O4: nothing is listed at reset, and what no list names stands at its reset value. -/
theorem resetState : Obligations.ResetState := by
  refine ⟨rfl, rfl, fun r => Dev.get_of_regs_nil _ r rfl, fun p => ⟨?_, ?_⟩, fun n f k => ?_, rfl, rfl, rfl, rfl, rfl, rfl, rfl, rfl, rfl⟩
  · exact Dev.get_of_regs_nil _ _ rfl
  · exact Dev.get_of_regs_nil _ _ rfl
  · exact ⟨rfl, rfl, rfl, Strand.init_reg, rfl, rfl⟩

end

section
/-! PROOF. What the I3C target answers (R546, R547) and what the TAP does (R571), and the statement about them. -/

namespace Sys2Proof.Machine

variable (s : State) (d : Dev)

/-! ### The I3C target (R546, R547) -/

/-- Two bytes as a number, the lower one first. -/
theorem leNat_pair {bytes : List Byte} (h : bytes.length = 2) : leNat bytes = (bytes.getD 0 0).toNat + 256 * (bytes.getD 1 0).toNat := by
  obtain ⟨a, b, rfl⟩ := List.length_eq_two.1 h
  simp [leNat]

/-- The bytes that a read of `n` bytes by the board returns. -/
def Dev.i3cBytes (d : Dev) (n : Nat) : List Byte := (List.range n).map fun i => d.i3cByte ((d.i3c.index + i) % 2 ^ 16)

/-- Each from its place in the target's space. -/
theorem Dev.i3cBytes_getD {n i : Nat} (h : i < n) : (d.i3cBytes n).getD i 0 = d.i3cByte ((d.i3c.index + i) % 2 ^ 16) := by
  rw [List.getD_eq_getElem _ _ (by simpa [Dev.i3cBytes] using h)]
  simp [Dev.i3cBytes]

/-- A restart of the controller shows in the flags of set 1 once there is a set (R547). -/
def Dev.i3cPlain (d : Dev) : Prop := d.is DMC_STATUS_RESTARTING = false ∨ d.i3c.set1 = []

section Bytes
variable {d} {k : Nat}

/-- Set 1 as composed. -/
theorem Dev.i3cByte_set1 (hk : k < 0x40) (h : k ≠ 35 ∨ d.i3cPlain) : d.i3cByte k = d.i3c.set1.getD k 0 := by
  have hflag : (k = 35 && !d.i3c.set1.isEmpty && d.is DMC_STATUS_RESTARTING) = false := by
    rcases h with h | h | h <;> simp [h]
  simp [Dev.i3cByte, hk, hflag]

/-- Its flags during a restart. -/
theorem Dev.i3cByte_flags (hk : k = 35) (h : ¬ d.i3cPlain) : d.i3cByte k = d.i3c.set1.getD k 0 ||| 2 := by
  subst hk
  obtain ⟨hr, hset⟩ := not_or.1 h
  simp [Dev.i3cByte, hr, hset]

/-- Set 2. -/
theorem Dev.i3cByte_set2 (h1 : 0x100 ≤ k) (h2 : k < 0x230) : d.i3cByte k = d.i3c.set2.getD (k - 0x100) 0 := by
  have h0 : ¬ k < 0x40 := by omega
  simp [Dev.i3cByte, h0, h1, h2]

/-- Elsewhere 0x00. -/
theorem Dev.i3cByte_elsewhere (h0 : 0x40 ≤ k) (h : k < 0x100 ∨ 0x230 ≤ k) : d.i3cByte k = 0 := by
  have h1 : ¬ (0x100 ≤ k ∧ k < 0x230) := by omega
  simp [Dev.i3cByte, Nat.not_lt.2 h0, h1]

end Bytes

/-- A target without a dynamic address takes one. -/
theorem Dev.i3cAddr_none (a : Nat) (h : d.i3c.dyn = none) : d.i3cAddr a = { d with i3c := { d.i3c with dyn := some a } } := by
  simp [Dev.i3cAddr, h]

/-- One that has an address keeps it. -/
theorem Dev.i3cAddr_some (a : Nat) {b : Nat} (h : d.i3c.dyn = some b) : d.i3cAddr a = d := by
  have hb : some (d.i3c.dyn.getD a) = d.i3c.dyn := by rw [h]; rfl
  rw [Dev.i3cAddr, hb]

/-! ### The TAP (R571) -/

section Tap
variable {d} {ir : BitVec 4} (f : Jtag → Jtag)

/-- BYPASS in place of an instruction that RESET_N high forbids. -/
def Dev.tapBypass (d : Dev) : Dev := { d with jtag := { d.jtag with ir := 0xF, driving := false } }

/-- BYPASS and IDCODE load in any state. -/
theorem Dev.tapLoad_always (h : ir = 0xF ∨ ir = 1) : d.tapLoad ir f = { d with jtag := f { d.jtag with ir := ir, driving := false } } := by
  rcases h with rfl | rfl <;> simp [Dev.tapLoad]

/-- SAMPLE/PRELOAD and EXTEST load BYPASS with RESET_N high. -/
theorem Dev.tapLoad_high (hr : d.pins.resetN = true) (h : ir = 0 ∨ ir = 2) : d.tapLoad ir f = d.tapBypass := by
  rcases h with rfl | rfl <;> simp [Dev.tapLoad, hr, Dev.tapBypass]

/-- With RESET_N low they load. -/
theorem Dev.tapLoad_low (hr : d.pins.resetN = false) (h : ir = 0 ∨ ir = 2) :
    d.tapLoad ir f = { d with jtag := f { d.jtag with ir := ir, driving := false } } := by
  rcases h with rfl | rfl <;> simp [Dev.tapLoad, hr]

end Tap

/-- Where only the TAP and the counter of free values move, the meter sees nothing. -/
theorem exec_tap {c : Instr} {e : Dev} (hx : exec c s = .next (s.metered e)) {j : Jtag} {k : Nat}
    (he : e = { s.dev with jtag := j, free := k }) : exec c s = .next { s with dev := { s.dev with jtag := j, free := k } } := by
  subst he
  exact hx.trans (congrArg _ (s.metered_of_sameMap _ (sameMap_refl s.dev) rfl))

/-- BYPASS. -/
theorem exec_jtagBypass : exec .jtagBypass s = .next (s.metered (s.dev.tapLoad 0xF fun j => j)) := rfl
/-- IDCODE. -/
theorem exec_jtagIdcode : exec .jtagIdcode s = .next (s.metered (s.dev.tapLoad 1 fun j =>
    { j with idcode := BitVec.ofNat 32 (s.dev.fuses.stepping % 16 * 2 ^ 28 + 0x2560C3D) })) := rfl
/-- SAMPLE/PRELOAD. -/
theorem exec_jtagSamplePreload (chain : List Bool) {e : Dev}
    (he : (s.dev.tapLoad 2 fun j => { j with sample := s.dev.scanSample, chain := scanBits chain }) = e) :
    exec (.jtagSamplePreload chain) s = .next (s.metered (if s.dev.pins.resetN then e else e.draw)) := by
  subst he
  rfl
/-- EXTEST. -/
theorem exec_jtagExtest : exec .jtagExtest s = .next (s.metered (s.dev.tapLoad 0 fun j => { j with driving := true })) := rfl

/-- The chain has a bit for each land. -/
theorem Dev.scanSample_length (chain : List Bool) : d.scanSample.length = (scanBits chain).length := by
  simp [Dev.scanSample, scanBits]

end Sys2Proof.Machine

open Sys2Proof Sys2Proof.Machine

/-- Settles O60: the target's commands by its state, the TAP's by the level of RESET_N. -/
theorem sidebands : Obligations.Sidebands := by
  refine ⟨fun s bytes n a hl => ?i3c, fun s chain => ?tap⟩
  case i3c =>
    intro z now
    refine ⟨fun h => exec_next rfl hl ((if_pos h).trans ?_), fun h => exec_next rfl hl (if_neg h),
      ⟨s.dev.i3cBytes n, exec_next rfl hl rfl, by simp [Dev.i3cBytes], fun i hi => ?_⟩,
      fun h => ⟨exec_next rfl hl (s.dev.i3cAddr_none _ h), exec_next rfl hl (s.dev.i3cAddr_none _ h)⟩,
      fun b h => ⟨exec_next rfl hl (s.dev.i3cAddr_some _ h), exec_next rfl hl (s.dev.i3cAddr_some _ h)⟩,
      exec_next rfl hl rfl, ⟨_, exec_next rfl hl rfl, by simp⟩, ⟨_, exec_next rfl hl rfl⟩, ⟨_, exec_next rfl hl rfl⟩,
      exec_next rfl hl rfl, exec_next rfl hl rfl⟩
    · rw [leNat_pair h]
    · rw [Dev.i3cBytes_getD _ hi]
      intro k plain
      exact ⟨Dev.i3cByte_set1, Dev.i3cByte_flags, Dev.i3cByte_set2, Dev.i3cByte_elsewhere⟩
  case tap =>
    intro j now
    refine ⟨exec_tap s (exec_jtagBypass s) (Dev.tapLoad_always _ (.inl rfl)), exec_tap s (exec_jtagIdcode s) (Dev.tapLoad_always _ (.inr rfl)),
      fun hr => ⟨exec_tap s (exec_jtagSamplePreload s chain (Dev.tapLoad_high _ hr (.inr rfl))) (if_pos hr),
        exec_tap s (exec_jtagExtest s) (Dev.tapLoad_high _ hr (.inl rfl))⟩,
      fun hr => ⟨exec_tap s (exec_jtagSamplePreload s chain (Dev.tapLoad_low _ hr (.inr rfl))) (if_neg (ne_true_of_eq_false hr)),
        s.dev.scanSample_length chain, exec_tap s (exec_jtagExtest s) (Dev.tapLoad_low _ hr (.inl rfl))⟩⟩

end

section
/-! PROOF. What the meter's own commands do (R474, R476, R477, R479), how its records are delivered (R434, R486), and the statement about them. -/

namespace Sys2Proof.Machine

variable (s : State) (d : Dev) (m : Meter)

/-- An element of a list made from a range. -/
theorem getD_map_range {α : Type} (f : Nat → α) (z : α) {n i : Nat} (h : i < n) : ((List.range n).map f).getD i z = f i := by
  rw [List.getD_eq_getElem _ _ (by simpa using h)]
  simp

/-! ### The close at a multiple of INTERVAL (R479) -/

section Close
variable {d m}

/-- The open record closes. -/
theorem Meter.closeDue_due (ha : m.atInterval d = true) (hs : m.start ≠ m.ticks) : m.closeDue d = m.close d d false false :=
  if_pos (by simpa using ⟨ha, hs⟩)

/-- Elsewhere, or where one closed there already, nothing does. -/
theorem Meter.closeDue_other (h : m.atInterval d = false ∨ m.start = m.ticks) : m.closeDue d = m := by
  refine if_neg fun hx => ?_
  rw [Bool.and_eq_true, bne_iff_ne] at hx
  exact h.elim (fun ha => absurd hx.1 (ne_true_of_eq_false ha)) hx.2

variable (d m) in
/-- Either way the measured energies stay. -/
theorem Meter.closeDue_measured : (m.closeDue d).measured = m.measured := by
  unfold Meter.closeDue
  split
  · exact m.close_measured d d false false
  · rfl

/-- A closed record has taken its SEQ, and the next one starts at the present meter time. -/
theorem Meter.close_starts (early reset : Bool) :
    (m.close d d early reset).nextSeq = m.nextSeq + 1 ∧ (m.close d d early reset).start = m.ticks := by
  obtain ⟨-, hseq, -, hmeasured⟩ := m.snapshot_records d
  exact ⟨congrArg (· + 1) hseq, congrArg (fun x => x.1 * 625 / 4) hmeasured⟩

end Close

/-! ### A sample (R477, R488) -/

/-- Picojoules of rail i that a sample brings to those left over. -/
def Meter.railPj (m : Meter) (rails : List (Nat × Nat)) (i : Nat) : Nat := m.frac.getD i 0 + (rails.getD i (0, 0)).1 * (rails.getD i (0, 0)).2

section Sample
variable {m} (rails : List (Nat × Nat)) {i : Nat} (hi : i < 10)
include hi

/-- Whole microjoules go to the accumulators, the rest waits. -/
theorem Meter.sample_rail : (m.sample rails).frac.getD i 0 = m.railPj rails i % 1000000 ∧
    (m.sample rails).total.getD i 0 = m.total.getD i 0 + m.railPj rails i / 1000000 ∧
    (m.sample rails).acc.getD i 0 = m.acc.getD i 0 + m.railPj rails i / 1000000 :=
  ⟨getD_map_range _ _ hi, getD_map_range _ _ hi, getD_map_range _ _ hi⟩

/-- The millionth sample of a second makes the power registers. -/
theorem Meter.sample_whole (h : (m.samples + 1) % 1000000 = 0) : (m.sample rails).second.getD i 0 = 0 ∧
    (m.sample rails).power.getD i 0 = (m.second.getD i 0 + m.railPj rails i / 1000000) / 1000 := by
  have hw : ((m.samples + 1) % 1000000 == 0) = true := by simpa using h
  simp only [Meter.sample, hw, if_true, List.map_map]
  exact ⟨by rw [List.getD_eq_getElem?_getD, List.getElem?_getD_replicate_default_eq], getD_map_range _ _ hi⟩

/-- Any other leaves them. -/
theorem Meter.sample_part (h : (m.samples + 1) % 1000000 ≠ 0) : (m.sample rails).power = m.power ∧
    (m.sample rails).second.getD i 0 = m.second.getD i 0 + m.railPj rails i / 1000000 := by
  have hw : ((m.samples + 1) % 1000000 == 0) = false := by simpa using h
  simp only [Meter.sample, hw, Bool.false_eq_true, if_false]
  exact ⟨trivial, getD_map_range _ _ hi⟩

end Sample

/-! ### Meter time goes on to the next multiple of INTERVAL -/

/-- A count is below its next multiple. -/
theorem lt_next_multiple (k : Nat) {n : Nat} (hn : 0 < n) : k < (k / n + 1) * n := by
  rw [Nat.mul_comm]
  exact Nat.lt_mul_div_succ k hn

section GoTo
variable {d m} {n : Nat}

/-- The present multiple, while its record is still open. -/
theorem Meter.nextDue_open (ha : m.atInterval d = true) (hs : m.start ≠ m.ticks) : m.nextDue d = m.samples :=
  if_pos (by simpa using ⟨ha, hs⟩)

/-- Else the one that comes next. -/
theorem Meter.nextDue_closed (h : m.atInterval d = false ∨ m.start = m.ticks) (hn : d.fuses.interval * 1000000 = n) :
    m.nextDue d = (m.samples / n + 1) * n := by
  subst hn
  refine if_neg fun hx => ?_
  rw [Bool.and_eq_true, bne_iff_ne] at hx
  exact h.elim (fun ha => absurd hx.1 (ne_true_of_eq_false ha)) hx.2

/-- Samples that are there already. -/
theorem Meter.goTo_here : m.goTo m.samples = m := if_pos (Nat.le_refl _)

/-- Samples to come. -/
theorem Meter.goTo_later (h : m.samples < n) : (m.goTo n).samples = n ∧ (m.goTo n).second = List.replicate 10 0 ∧
    (m.goTo n).start = m.start := by
  rw [Meter.goTo, if_neg (Nat.not_le.2 h)]
  exact ⟨rfl, rfl, rfl⟩

/-- Meter time that is a positive multiple of INTERVAL stands at one. -/
theorem Meter.atInterval_of_multiple {k : Nat} (hn : d.fuses.interval * 1000000 = n) (hpos : 0 < n) (h : m.samples = (k + 1) * n) :
    m.atInterval d = true := by
  have h0 : m.samples ≠ 0 := h ▸ (Nat.mul_pos k.succ_pos hpos).ne'
  have hm : m.samples % n = 0 := by rw [h, Nat.mul_mod_left]
  simp [Meter.atInterval, hn, hm, h0]

end GoTo

/-! ### The seal (R476) -/

/-- A strip that failed breaks the seal for good, and none leaves it as it is. -/
theorem Meter.sealOk_strips (failed : BitVec 10) : ({ m with strips := m.strips ||| failed } : Meter).sealOk = (m.sealOk && failed == 0) := by
  have hor : (m.strips ||| failed == 0) = (m.strips == 0 && failed == 0) := by
    rw [Bool.eq_iff_iff]
    simp [BitVec.or_eq_zero_iff]
  simp only [Meter.sealOk, hor, Bool.and_assoc]

/-! ### The commands -/

section Commands
variable {s}

/-- A meter without supply does nothing. -/
theorem exec_meter_unpowered (hp : s.mtr.powered = false) {c : Instr} {t : State} (h : exec c s = .next (if s.mtr.powered then t else s)) :
    exec c s = .next s := h.trans (congrArg _ (if_neg (ne_true_of_eq_false hp)))

variable (hp : s.mtr.powered = true)
include hp

/-- A powered meter carries a command of its own out. -/
theorem exec_meter_powered {c : Instr} {u : Meter} (h : exec c s = .next { s with mtr := if s.mtr.powered then u else s.mtr }) :
    exec c s = .next { s with mtr := u } := h.trans (congrArg (fun x => Host.Outcome.next { s with mtr := x }) (if_pos hp))

/-- METER_SAMPLE. -/
theorem exec_meterSample (rails : List (Nat × Nat)) :
    exec (.meterSample rails) s = .next { s with mtr := (s.mtr.closeDue s.dev).sample rails } := exec_meter_powered hp rfl
/-- METER_SEAL_CHECK. -/
theorem exec_meterSealCheck (failed : BitVec 10) :
    exec (.meterSealCheck failed) s = .next { s with mtr := { s.mtr with strips := s.mtr.strips ||| failed } } := exec_meter_powered hp rfl
/-- METER_INTERVAL_CLOSE. -/
theorem exec_meterIntervalClose :
    exec .meterIntervalClose s = .next { s with mtr := (s.mtr.goTo (s.mtr.nextDue s.dev)).closeDue s.dev } := exec_meter_powered hp rfl

/-- METER_INTERVAL_CLOSE where the record that ends at the present multiple is still open. -/
theorem exec_meterIntervalClose_now (ha : s.mtr.atInterval s.dev = true) (hs : s.mtr.start ≠ s.mtr.ticks) :
    exec .meterIntervalClose s = .next { s with mtr := s.mtr.close s.dev s.dev false false } := by
  rw [exec_meterIntervalClose hp, Meter.nextDue_open ha hs, Meter.goTo_here, Meter.closeDue_due ha hs]

/-- METER_INTERVAL_CLOSE where meter time goes on to the next multiple. -/
theorem exec_meterIntervalClose_next (h : s.mtr.atInterval s.dev = false ∨ s.mtr.start = s.mtr.ticks) {n : Nat}
    (hn : s.dev.fuses.interval * 1000000 = n) (hpos : 0 < n) :
    let t := s.mtr.goTo ((s.mtr.samples / n + 1) * n)
    t.samples = (s.mtr.samples / n + 1) * n ∧ t.second = List.replicate 10 0 ∧
      (s.mtr.start ≠ t.ticks → exec .meterIntervalClose s = .next { s with mtr := t.close s.dev s.dev false false }) ∧
      (s.mtr.start = t.ticks → exec .meterIntervalClose s = .next { s with mtr := t }) := by
  intro t
  obtain ⟨hsamples, hsecond, hstart⟩ := Meter.goTo_later (lt_next_multiple s.mtr.samples hpos)
  have ht : t.atInterval s.dev = true := Meter.atInterval_of_multiple hn hpos hsamples
  have hdone : exec .meterIntervalClose s = .next { s with mtr := t.closeDue s.dev } := by
    rw [exec_meterIntervalClose hp, Meter.nextDue_closed h hn]
  refine ⟨hsamples, hsecond, fun hs => ?_, fun hs => ?_⟩
  · rw [hdone, Meter.closeDue_due ht (hstart.trans_ne hs)]
  · rw [hdone, Meter.closeDue_other (.inr (hstart.trans hs))]

end Commands

/-! ### Delivery (R434, R486) -/

section Deliver
variable {s} (hl : s.dev.live = true)
include hl

/-- One record at a time. -/
theorem exec_meterRecordDeliver_sent (h : s.dev.nop.meterSent ≠ []) : exec .meterRecordDeliver s = .next (s.metered s.dev) :=
  exec_nextM rfl hl (if_pos (by simpa using h))

variable (h : s.dev.nop.meterSent = [])
include h

/-- None where the host reads them, no context of the owner takes them, or none is left. -/
theorem exec_meterRecordDeliver_none {e : Dev} (he : s.dev.applyPend 11 = e)
    (hx : e.duty 11 = true ∨ e.pushReady = false ∨ (e.ctx (e.get NOP_PUSH_CTX)).cred ≠ .owner ∨ s.mtr.undelivered e.nop.meterNext = none) :
    exec .meterRecordDeliver s = .next (s.metered e) := by
  subst he
  refine exec_nextM rfl hl ((if_neg (by simp [h])).trans ?_)
  dsimp only
  split
  · rfl
  · next hopen =>
    simp only [Bool.or_eq_true, Bool.not_eq_true', bne_iff_ne, ne_eq, not_or, Bool.not_eq_true, not_not] at hopen
    obtain ⟨⟨hd, hr⟩, hc⟩ := hopen
    rcases hx with hx | hx | hx | hx
    · exact absurd hx (ne_true_of_eq_false hd)
    · exact absurd hx hr
    · exact absurd hc hx
    · rw [hx]

/-- The oldest that is not delivered goes. -/
theorem exec_meterRecordDeliver_next {e : Dev} (he : s.dev.applyPend 11 = e) (hd : e.duty 11 = false) (hr : e.pushReady = true)
    (hc : (e.ctx (e.get NOP_PUSH_CTX)).cred = .owner) {x : MRec} (hx : s.mtr.undelivered e.nop.meterNext = some x) :
    exec .meterRecordDeliver s = .next (s.metered
      (({ e with nop := { e.nop with meterNext := x.seq + 1, meterSent := [x.seq] } } : Dev).queueMsg (e.get NOP_PUSH_CTX)
        { mkMsg 0x50 0 (e.get NOP_PUSH_CTX) true (beBytes 2 3 ++ beBytes 2 1 ++ zeros 4 ++ meterBytes x) with record := some x.seq })) := by
  subst he
  refine exec_nextM rfl hl ((if_neg (by simp [h])).trans ((if_neg (by simp [hd, hr, hc])).trans ?_))
  rw [hx]

end Deliver

end Sys2Proof.Machine

open Sys2Proof Sys2Proof.Machine

/-- Settles O53: each command by the supply and by where meter time stands, a delivery by the context that takes records. -/
theorem meterCommands : Obligations.MeterCommands := by
  intro s chain romOk calOk rails failed m d fresh
  have hfresh : fresh (s.meterReset chain romOk calOk) := by
    refine ⟨rfl, rfl, rfl, rfl, rfl, rfl, rfl, rfl, rfl, rfl, rfl, rfl, ?_⟩
    simp [State.meterReset, meterFresh, Meter.sealOk, Meter.init]
  refine ⟨⟨_, rfl, hfresh⟩, fun hp => ⟨_, congrArg Host.Outcome.next (if_pos hp), hfresh⟩, fun hp => ?unpowered, rfl, fun hp => ⟨?sample, ?strips, ?close⟩,
    fun hl => ⟨exec_meterRecordDeliver_sent hl, fun h => exec_meterRecordDeliver_none hl h rfl,
      fun x h hd hr hc hx => exec_meterRecordDeliver_next hl h rfl hd hr hc hx⟩⟩
  case unpowered =>
    have hsame (u : Meter) : ({ s with mtr := if s.mtr.powered then u else s.mtr } : State) = s :=
      congrArg (fun x => { s with mtr := x }) (if_neg (ne_true_of_eq_false hp))
    exact ⟨exec_meter_unpowered hp rfl, congrArg Host.Outcome.next (hsame _), congrArg Host.Outcome.next (hsame _), congrArg Host.Outcome.next (hsame _)⟩
  case sample =>
    obtain ⟨hsamples, hfrac, htotal, hsecond, hpower⟩ : (m.closeDue d).samples = m.samples ∧ (m.closeDue d).frac = m.frac ∧
        (m.closeDue d).total = m.total ∧ (m.closeDue d).second = m.second ∧ (m.closeDue d).power = m.power := by
      simpa [Meter.measured] using m.closeDue_measured d
    refine ⟨_, exec_meterSample hp rails, rfl, rfl, congrArg (· + 1) hsamples, fun ha hs => ?_, fun h => ?_, fun i => ?_⟩
    · have hclose := congrArg (fun x : Meter => x.nextSeq = m.nextSeq + 1 ∧ x.start = m.ticks) (Meter.closeDue_due ha hs)
      exact hclose.mpr (Meter.close_starts _ _)
    · have hopen := Meter.closeDue_other h
      exact ⟨congrArg (fun x : Meter => (x.sample rails).nextSeq) hopen, congrArg (fun x : Meter => (x.sample rails).start) hopen,
        congrArg (fun x : Meter => (x.sample rails).records) hopen⟩
    · obtain ⟨h1, h2, h3⟩ := (m.closeDue d).sample_rail rails i.isLt
      have hpj : (m.closeDue d).railPj rails i.val = m.railPj rails i.val := by rw [Meter.railPj, hfrac, Meter.railPj]
      rw [hpj] at h1 h2 h3
      refine ⟨h1, htotal ▸ h2, fun h => h3.trans (by rw [Meter.closeDue_other h]; rfl), fun hw => ?_, fun hw => ?_⟩
      · rw [← hsamples] at hw
        have hsum := Meter.sample_whole rails i.isLt hw
        rwa [hpj, hsecond] at hsum
      · rw [← hsamples] at hw
        have hsum := Meter.sample_part rails i.isLt hw
        rwa [hpj, hsecond, hpower] at hsum
  case strips =>
    refine ⟨_, exec_meterSealCheck hp failed, rfl, fun h => (m.sealOk_strips failed).trans ?_, fun h => (m.sealOk_strips failed).trans ?_⟩
    · rcases h with h | h
      · rw [h, Bool.false_and]
      · rw [beq_false_of_ne h, Bool.and_false]
    · rw [h, beq_self_eq_true, Bool.and_true]
  case close =>
    intro n
    exact ⟨fun ha hs => exec_meterIntervalClose_now hp ha hs, fun h hn => exec_meterIntervalClose_next hp h rfl hn⟩

end

section
/-! PROOF. CREATE, SEAL and TEARDOWN of a partition and the clearing of its tiles (R77, R441, R442, R444, R446), and the statement about
them. -/

namespace Sys2Proof.Machine

variable {s : State} {d : Dev} {cred : Cred} {p : Nat}

/-! ### The command register (R441) -/

/-- A write of PART_Pp_CMD by the owner gives each command alone. -/
theorem Dev.partCmdWr_owner (ho : isOwner cred = true) (hp : p ≠ 0) :
    d.partCmdWr cred p 1 = (d.createPart p, stOk) ∧ d.partCmdWr cred p 2 = (d.sealPart p, stOk) ∧
      d.partCmdWr cred p 4 = (d.teardownPart p, stOk) := by
  cases cred with
  | none => cases ho
  | tenant q => cases ho
  | owner => exact ⟨if_neg hp, if_neg hp, if_neg hp⟩
  | dmc => exact ⟨if_neg hp, if_neg hp, if_neg hp⟩

section Commands
variable {part : PartId} {u : Dev} (hl : s.dev.live = true) (ho : isOwner cred = true) (hp : part.val ≠ 0)
include hl ho hp

/-- CREATE. -/
theorem exec_create (h : s.dev.createPart part.val = u) : exec (.create cred part) s = .next (s.metered (u.completed stOk 0)) :=
  exec_nextM rfl hl (congrArg ended ((Dev.partCmdWr_owner ho hp).1.trans (congrArg (·, stOk) h)))

/-- SEAL. -/
theorem exec_seal (h : s.dev.sealPart part.val = u) : exec (.seal cred part) s = .next (s.metered (u.completed stOk 0)) :=
  exec_nextM rfl hl (congrArg ended ((Dev.partCmdWr_owner ho hp).2.1.trans (congrArg (·, stOk) h)))

/-- TEARDOWN. -/
theorem exec_teardown (h : s.dev.teardownPart part.val = u) : exec (.teardown cred part) s = .next (s.metered (u.completed stOk 0)) :=
  exec_nextM rfl hl (congrArg ended ((Dev.partCmdWr_owner ho hp).2.2.trans (congrArg (·, stOk) h)))

end Commands

/-! ### CREATE (R442, R528) -/

/-- The rectangle of PART_Pp_CFG is empty. -/
def Dev.rectEmpty (d : Dev) (p : Nat) : Prop := (d.rectOf p).2.2.1 < (d.rectOf p).1 ∨ (d.rectOf p).2.2.2 < (d.rectOf p).2.1

/-- The tile is a partition's, fenced, or still being cleared. -/
def Dev.tileBusy (d : Dev) (n : Nat) : Bool := (d.tile n).part != 0 || (d.tile n).fenced || (d.tile n).clearing

/-- The partition with its tiles, its first memory key and its first key pair. -/
def Dev.created (d : Dev) (p : Nat) : Dev :=
  let given := (d.rectList p).foldl (fun d n => d.modTile n fun t => { t with part := p }) d
  let keyed := given.modPart p fun x =>
    { Part.init with pinst := x.pinst + 1, curKey := ⟨given.mem.nextKey⟩, ekSerial := 1, ek := given.sec.nonces + 1 }
  let drawn : Dev := { keyed with mem := { keyed.mem with nextKey := keyed.mem.nextKey + 1 },
                                  sec := { keyed.sec with nonces := keyed.sec.nonces + 1 } }
  (drawn.set (PART_P_STATE_EXPOSURES p) 0).set (PART_P_STATE_STATE p) 1

/-- CREATE, check by check. -/
theorem Dev.createPart_eq : d.createPart p =
    if d.partState p ≠ 0 || d.get DMC_STATUS_STAGE ≠ 4 then d.partRefuse p reState
    else if (d.rectOf p).2.2.1 < (d.rectOf p).1 || decide ((d.rectOf p).2.2.2 < (d.rectOf p).2.1) then d.partRefuse p reRect
    else if (d.rectList p).any d.tileBusy then d.partRefuse p reTile
    else d.created p := rfl

/-- Refused before READY or outside FREE. -/
theorem Dev.createPart_state (h : d.partState p ≠ 0 ∨ d.get DMC_STATUS_STAGE ≠ 4) : d.createPart p = d.partRefuse p 3 :=
  Dev.createPart_eq.trans (if_pos (by simpa using h))

section Create
variable (h0 : d.partState p = 0) (h4 : d.get DMC_STATUS_STAGE = 4)
include h0 h4

/-- Refused for an empty rectangle. -/
theorem Dev.createPart_empty (h : d.rectEmpty p) : d.createPart p = d.partRefuse p 1 :=
  Dev.createPart_eq.trans ((if_neg (by simp [h0, h4])).trans (if_pos (by simpa [Dev.rectEmpty] using h)))

variable (he : ¬ d.rectEmpty p)
include he

/-- Refused over a tile that is not free. -/
theorem Dev.createPart_busy (h : (d.rectList p).any d.tileBusy = true) : d.createPart p = d.partRefuse p 2 :=
  Dev.createPart_eq.trans ((if_neg (by simp [h0, h4])).trans ((if_neg (by simpa [Dev.rectEmpty] using he)).trans (if_pos h)))

/-- Else the partition is OPEN. -/
theorem Dev.createPart_opens (h : (d.rectList p).any d.tileBusy = false) : d.createPart p = d.created p :=
  Dev.createPart_eq.trans ((if_neg (by simp [h0, h4])).trans ((if_neg (by simpa [Dev.rectEmpty] using he)).trans
    (if_neg (ne_true_of_eq_false h))))

end Create

/-! ### SEAL and TEARDOWN (R77, R444, R446) -/

/-- SEAL outside OPEN. -/
theorem Dev.sealPart_state (h : d.partState p ≠ 1) : d.sealPart p = d.partRefuse p 3 := if_pos h

/-- SEAL of a configuration that cannot be sealed. -/
theorem Dev.sealPart_config (h1 : d.partState p = 1) (h : d.sealBad p = true) : d.sealPart p = d.partRefuse p 5 :=
  (if_neg (not_not.2 h1)).trans (if_pos h)

/-- CONFIG_DIGEST and the state that a SEAL leaves. -/
def Dev.sealedWith (d : Dev) (p : Nat) : Dev :=
  (d.setDigest (PART_P_CDIGEST_V p) (sha3 (d.configBytes p))).set (PART_P_STATE_STATE p) 2

/-- SEAL of any other. -/
theorem Dev.sealPart_seals (h1 : d.partState p = 1) (h : d.sealBad p = false) : d.sealPart p =
    if (d.sealedWith p).duty 1 = true then (d.sealedWith p).flag (ADM_P_STATUS_HOST_SCHEDULE p) true else d.sealedWith p :=
  (if_neg (not_not.2 h1)).trans (if_neg (ne_true_of_eq_false h))

/-- TEARDOWN outside OPEN and SEALED. -/
theorem Dev.teardownPart_state (h1 : d.partState p ≠ 1) (h2 : d.partState p ≠ 2) : d.teardownPart p = d.partRefuse p 3 :=
  if_pos (by simp [h1, h2])

/-! ### The clearing of a tile (R261, R263, R446) -/

/-- A tile that its clear has left. -/
def Tile.cleared (t : Tile) : Tile :=
  { t.wiped with
    part := 0, clearing := false, held := false, active := none, ceLines := [], repairDue := [], scrubDue := [], twice := [], hashed := false
    foldSt := .run, foldReq := none, foldWait := [], overrunLogged := false, foldStep := 0, overruns := 0 }

/-- Where no word of the tile was uncorrectable no line goes to a spare. -/
theorem Dev.clearedLines_tile_ne {n k : Nat} (hbad : (d.tile n).bad = []) (hk : k ≠ n) : (d.clearedLines n).tile k = d.tile k := by
  have hdue : ((d.tile n).bad.filter fun w => decide (w < 0x1800000)).map (· / 256) = [] := by rw [hbad]; rfl
  unfold Dev.clearedLines Dev.dueRepairs
  rw [Dev.tile_modTile_same]
  simp [hdue, Dev.tile_modTile_ne _ _ _ _ hk]

section Clear
variable {tile : TileId} (hl : s.dev.live = true)
include hl

/-- A tile that is not being cleared. -/
theorem exec_tileClearDone_none (ok : Bool) (h : (s.dev.tile tile.val).clearing = false ∨ (s.dev.tile tile.val).part = 0) :
    exec (.tileClearDone tile ok) s = .next (s.metered s.dev) := exec_nextM rfl hl (if_pos (by simpa using h))

variable (hc : (s.dev.tile tile.val).clearing = true) (hp : (s.dev.tile tile.val).part ≠ 0)
include hc hp

/-- Its clear has ended. -/
theorem exec_tileClearDone_ok : exec (.tileClearDone tile true) s =
    .next (s.metered ((s.dev.clearedLines tile.val).modTile tile.val Tile.cleared)) :=
  exec_nextM rfl hl ((if_neg (by simp [hc, hp])).trans (if_pos rfl))

/-- It cannot be cleared. -/
theorem exec_tileClearDone_failed : exec (.tileClearDone tile false) s =
    .next (s.metered ((s.dev.modTile tile.val fun t => { t with part := 0 }).fence tile.val 4)) :=
  exec_nextM rfl hl ((if_neg (by simp [hc, hp])).trans (if_neg (by decide)))

end Clear

end Sys2Proof.Machine

open Sys2Proof Sys2Proof.Machine

/-- Settles O34: each command by the state of its partition, the clear of a tile by its end. -/
theorem partitionLife : Obligations.PartitionLife := by
  intro s part cred hl hp ho p d now tiles busy empty
  refine ⟨fun h => exec_create hl ho hp (Dev.createPart_state h), fun h0 h4 => ⟨fun he => exec_create hl ho hp (Dev.createPart_empty h0 h4 he),
      fun he hb => exec_create hl ho hp (Dev.createPart_busy h0 h4 he hb), fun he hb => exec_create hl ho hp (Dev.createPart_opens h0 h4 he hb)⟩,
    fun h => exec_seal hl ho hp (Dev.sealPart_state h), fun h1 h => exec_seal hl ho hp (Dev.sealPart_config h1 h),
    fun h1 h => exec_seal hl ho hp (Dev.sealPart_seals h1 h), fun h1 h2 => exec_teardown hl ho hp (Dev.teardownPart_state h1 h2),
    fun _ => exec_teardown hl ho hp rfl, fun tile ok => exec_tileClearDone_none hl ok,
    fun tile hc hm => ⟨⟨_, exec_tileClearDone_ok hl hc hm, fun hbad k hk => ?_, ?_⟩, exec_tileClearDone_failed hl hc hm⟩,
    fun h3 ht => exec_nextM rfl hl (if_neg (by simp [hp, show s.dev.partState part.val = 3 from h3, show s.dev.tilesOf part.val = [] from ht]))⟩
  · exact (Dev.tile_modTile_ne _ _ _ _ hk).trans (Dev.clearedLines_tile_ne hbad hk)
  · have htile : ((s.metered ((d.clearedLines tile.val).modTile tile.val Tile.cleared)).dev.tile tile.val) =
        ((d.clearedLines tile.val).tile tile.val).cleared := Dev.tile_modTile_same _ _ _
    rw [htile]
    exact ⟨rfl, rfl, rfl, rfl, rfl, rfl, rfl, rfl, rfl, rfl⟩

end

section
/-! PROOF. The states of the boot (R450, R461 to R468, R472, R527), and the statement about them. -/

namespace Sys2Proof.Machine

variable {s : State} {d : Dev}

/-! ### What a change of the duty map leaves (R32) -/

/-- A pending change of a field other than ADMISSION and SPARING leaves every register but DMC_DUTY_STATE, and the security engine. -/
theorem Dev.applyPend_frame {k : Nat} (h1 : k ≠ 1) (h4 : k ≠ 4) : (d.applyPend k).sec = d.sec ∧
    ∀ f : RF, f.addr ≠ DMC_DUTY_STATE → f.lo < 64 → (d.applyPend k).get f = d.get f := by
  unfold Dev.applyPend
  split
  · exact ⟨rfl, fun _ _ _ => rfl⟩
  · simp only [if_neg h1, if_neg h4]
    refine ⟨rfl, fun f ha hlo => (Dev.get_set_ne _ _ _ _ ?_).trans (Dev.get_set_ne _ _ _ _ ?_)⟩
    · exact RF.key_ne_of_addr_ne ha hlo (by decide)
    · exact RF.key_ne_of_addr_ne ha hlo (by decide)

section Live
variable (hl : s.dev.live = true)
include hl

/-! ### The ROM stage and the fetch (R450, R461, R465, R527) -/

omit hl in
/-- The device identity is known, and the source of the image is named. -/
def Dev.identified (d : Dev) : Dev :=
  let x := (d.set DMC_STATUS_STAGE 1).setDigest SEC_DEVICE_ID_V d.deviceId
  x.flag SEC_BOOT_STATUS_SOURCE x.fetchesHost

section Rom
variable (ok : Bool)

/-- The ROM stage ends once. -/
theorem exec_romStageDone_past (h : s.dev.get DMC_STATUS_STAGE ≠ 0) : exec (.romStageDone ok) s = s.nextDev s.dev :=
  exec_next rfl hl (if_pos h)

variable (h : s.dev.get DMC_STATUS_STAGE = 0)
include h

/-- The host is waited for. -/
theorem exec_romStageDone_host (hf : s.dev.identified.fetchesHost = true) :
    exec (.romStageDone ok) s = s.nextDev s.dev.identified.waitHost :=
  exec_next rfl hl ((if_neg (not_not.2 h)).trans (if_pos hf))

variable (hf : s.dev.identified.fetchesHost = false)
include hf

/-- The flash is read. -/
theorem exec_romStageDone_flash (hok : ok = true) (hs : s.dev.identified.fuses.flashSize ≠ 0) :
    exec (.romStageDone ok) s = s.nextDev (s.dev.identified.set SEC_BOOT_STATUS_STATE 1) :=
  exec_next rfl hl ((if_neg (not_not.2 h)).trans ((if_neg (ne_true_of_eq_false hf)).trans (if_pos
    (Bool.and_eq_true_iff.2 ⟨hok, bne_iff_ne.2 hs⟩))))

/-- A flash that is missing or failed leaves the host. -/
theorem exec_romStageDone_noFlash (hx : ok = false ∨ s.dev.identified.fuses.flashSize = 0) :
    exec (.romStageDone ok) s = s.nextDev (s.dev.identified.set SEC_BOOT_STATUS_RESULT 0xB).waitHost := by
  refine exec_next rfl hl ((if_neg (not_not.2 h)).trans ((if_neg (ne_true_of_eq_false hf)).trans (if_neg fun hc => ?_)))
  obtain ⟨hok, hs⟩ := Bool.and_eq_true_iff.1 hc
  exact hx.elim (fun h0 => absurd hok (ne_true_of_eq_false h0)) (bne_iff_ne.1 hs)

end Rom

/-- Outside FETCHING the flash is not read. -/
theorem exec_bootImageRead_elsewhere (h : s.dev.get SEC_BOOT_STATUS_STATE ≠ 1) : exec .bootImageRead s = s.nextDev s.dev :=
  exec_next rfl hl (if_pos h)

section Fetch
variable (h : s.dev.get SEC_BOOT_STATUS_STATE = 1)
include h

/-- No flash. -/
theorem exec_bootImageRead_noFlash (hz : s.dev.fuses.flashSize = 0) :
    exec .bootImageRead s = s.nextDev (s.dev.set SEC_BOOT_STATUS_RESULT 0xB).waitHost :=
  exec_next rfl hl ((if_neg (not_not.2 h)).trans (if_pos hz))

variable (hz : s.dev.fuses.flashSize ≠ 0)
include hz

/-- A header that a check of R466 refuses. -/
theorem exec_bootImageRead_header (he : s.dev.bootHeader (s.dev.flashRead bootBase 128) ≠ 0) :
    exec .bootImageRead s = s.nextDev (s.dev.bootRefuse (s.dev.bootHeader (s.dev.flashRead bootBase 128))) :=
  exec_next rfl hl ((if_neg (not_not.2 h)).trans ((if_neg hz).trans (if_pos he)))

variable (he : s.dev.bootHeader (s.dev.flashRead bootBase 128) = 0)
include he

/-- An image that lies in the flash is verified. -/
theorem exec_bootImageRead_fits (h1 : bootBase + bootLength (s.dev.flashRead bootBase 128) ≤ s.dev.fuses.flashSize)
    (h2 : bootLength (s.dev.flashRead bootBase 128) ≤ 2 ^ 26) : exec .bootImageRead s = s.nextDev
      (({ s.dev with sec := { s.dev.sec with bootImg := s.dev.flashRead bootBase (bootLength (s.dev.flashRead bootBase 128)), bootDone := true } } :
        Dev).set SEC_BOOT_STATUS_STATE 4) :=
  exec_next rfl hl ((if_neg (not_not.2 h)).trans ((if_neg hz).trans ((if_neg (not_not.2 he)).trans (if_pos (by simpa using ⟨h1, h2⟩)))))

/-- One that does not is truncated. -/
theorem exec_bootImageRead_truncated (hx : s.dev.fuses.flashSize < bootBase + bootLength (s.dev.flashRead bootBase 128) ∨
    2 ^ 26 < bootLength (s.dev.flashRead bootBase 128)) : exec .bootImageRead s = s.nextDev (s.dev.bootRefuse 1) :=
  exec_next rfl hl ((if_neg (not_not.2 h)).trans ((if_neg hz).trans ((if_neg (not_not.2 he)).trans (if_neg (by
    rw [Bool.and_eq_true_iff, decide_eq_true_iff, decide_eq_true_iff, not_and_or, Nat.not_le, Nat.not_le]
    exact hx)))))

end Fetch

/-! ### The host's stream (R433, R465, R466, R468) -/

/-- A pause of 105,000,000 cycles truncates the stream. -/
theorem exec_bootStreamTimeout_streaming (h : s.dev.get SEC_BOOT_STATUS_STATE = 3) :
    exec .bootStreamTimeout s = s.nextDev ((s.dev.toTick (s.dev.sec.bootLast + 105000000)).bootRefuse 1) := exec_next rfl hl (if_pos h)

/-- No stream pauses elsewhere. -/
theorem exec_bootStreamTimeout_elsewhere (h : s.dev.get SEC_BOOT_STATUS_STATE ≠ 3) : exec .bootStreamTimeout s = s.nextDev s.dev :=
  exec_next rfl hl (if_neg h)

/-- LOAD_DATA with PART 0 is the boot's. -/
theorem exec_loadData_boot {h : NHdr} {part : PartId} {off : Nat} {bs : List Byte} (hp : part.val = 0)
    (a : Served s.dev h true true (hasLen h (16 + bs.length))) {e : Dev} (he : (s.dev.inTurn h true).bootData h.dctx.val off bs = e) :
    exec (.loadData h part off bs) s = .next (s.metered e) :=
  exec_nextM rfl hl ((Dev.nopraRx_served _ _ a).trans ((if_pos hp).trans he))

/-- So is LOAD_END. -/
theorem exec_loadEnd_boot {h : NHdr} {part : PartId} (hp : part.val = 0) (a : Served s.dev h true true (hasLen h 8)) {e : Dev}
    (he : (s.dev.inTurn h true).bootEnd h.dctx.val = e) : exec (.loadEnd h part) s = .next (s.metered e) :=
  exec_nextM rfl hl ((Dev.nopraRx_served _ _ a).trans ((if_pos hp).trans he))

omit hl
section Stream
variable {c off : Nat} {bs : List Byte}

/-- A stream begins with its first byte. -/
theorem Dev.bootData_begins (h : d.get SEC_BOOT_STATUS_STATE = 2) (h0 : off = 0) : d.bootData c off bs =
    (((({ d with sec := { d.sec with bootImg := [], bootCtx := some c } } : Dev).set SEC_BOOT_STATUS_SOURCE 1).set
      SEC_BOOT_STATUS_STATE 3).bootBytes bs) :=
  if_pos (Bool.and_eq_true_iff.2 ⟨decide_eq_true h, beq_iff_eq.2 h0⟩)

/-- Nothing begins elsewhere. -/
theorem Dev.bootData_not_begin (h : d.get SEC_BOOT_STATUS_STATE ≠ 2 ∨ off ≠ 0) : d.bootData c off bs =
    if d.bootState = bsReceive && d.sec.bootCtx == some c then
      if off = d.sec.bootImg.length then d.bootBytes bs else d.bootRefuse 1
    else if d.bootState = bsReceive then d.loadBusy c off
    else d.ctxDrop c 1 := by
  refine if_neg fun hc => ?_
  obtain ⟨h2, h0⟩ := Bool.and_eq_true_iff.1 hc
  exact h.elim (absurd (of_decide_eq_true h2)) (absurd (beq_iff_eq.1 h0))

section Receiving
variable (h : d.get SEC_BOOT_STATUS_STATE = 3)
include h

/-- A stream under way is no place to begin another. -/
theorem Dev.bootState_ne_wait : d.get SEC_BOOT_STATUS_STATE ≠ 2 ∨ off ≠ 0 := .inl (by omega)

/-- Its own context's message. -/
theorem Dev.bootMine_iff : (d.bootState = bsReceive && d.sec.bootCtx == some c) = true ↔ d.sec.bootCtx = some c := by
  simp [Dev.bootState, h, bsReceive]

/-- The bytes that stand next. -/
theorem Dev.bootData_next (hc : d.sec.bootCtx = some c) (ho : off = d.sec.bootImg.length) : d.bootData c off bs = d.bootBytes bs :=
  (Dev.bootData_not_begin (Dev.bootState_ne_wait h)).trans ((if_pos ((Dev.bootMine_iff h).2 hc)).trans (if_pos ho))

/-- Bytes that skip. -/
theorem Dev.bootData_skips (hc : d.sec.bootCtx = some c) (ho : off ≠ d.sec.bootImg.length) : d.bootData c off bs = d.bootRefuse 1 :=
  (Dev.bootData_not_begin (Dev.bootState_ne_wait h)).trans ((if_pos ((Dev.bootMine_iff h).2 hc)).trans (if_neg ho))

/-- Another context's. -/
theorem Dev.bootData_busy (hc : d.sec.bootCtx ≠ some c) : d.bootData c off bs = d.loadBusy c off :=
  (Dev.bootData_not_begin (Dev.bootState_ne_wait h)).trans ((if_neg (mt (Dev.bootMine_iff h).1 hc)).trans (if_pos h))

end Receiving

/-- Bytes that no stream takes. -/
theorem Dev.bootData_drops (h3 : d.get SEC_BOOT_STATUS_STATE ≠ 3) (h : d.get SEC_BOOT_STATUS_STATE ≠ 2 ∨ off ≠ 0) :
    d.bootData c off bs = d.ctxDrop c 1 :=
  (Dev.bootData_not_begin h).trans ((if_neg (by simp [Dev.bootState, h3, bsReceive])).trans (if_neg h3))

/-- An early end truncates the stream. -/
theorem Dev.bootEnd_truncates (h : d.get SEC_BOOT_STATUS_STATE = 3) (hc : d.sec.bootCtx = some c) : d.bootEnd c = d.bootRefuse 1 :=
  if_pos ((Dev.bootMine_iff h).2 hc)

/-- An end of no stream of this context is discarded. -/
theorem Dev.bootEnd_drops (h : d.get SEC_BOOT_STATUS_STATE ≠ 3 ∨ d.sec.bootCtx ≠ some c) : d.bootEnd c = d.ctxDrop c 1 := by
  refine if_neg fun hx => ?_
  obtain ⟨h3, hc⟩ := Bool.and_eq_true_iff.1 hx
  exact h.elim (absurd (of_decide_eq_true h3)) (absurd (beq_iff_eq.1 hc))

end Stream
include hl

/-! ### Verification and application (R451, R463 to R466, R472, R527) -/

section Verify
variable (sigOk : Bool)

/-- Outside VERIFYING nothing is verified. -/
theorem exec_bootVerify_elsewhere (h : s.dev.get SEC_BOOT_STATUS_STATE ≠ 4) : exec (.bootVerify sigOk) s = s.nextDev s.dev :=
  exec_next rfl hl (if_pos h)

variable (h : s.dev.get SEC_BOOT_STATUS_STATE = 4)
include h

/-- A check of the body, the signer or the signature refuses the image. -/
theorem exec_bootVerify_refuses (he : s.dev.bootChecks s.dev.sec.bootImg sigOk ≠ 0) :
    exec (.bootVerify sigOk) s = s.nextDev (s.dev.bootRefuse (s.dev.bootChecks s.dev.sec.bootImg sigOk)) :=
  exec_next rfl hl ((if_neg (not_not.2 h)).trans (if_pos he))

omit hl h in
/-- The image is to be applied, and the device's attestation key comes from it. -/
def Dev.bootPassed (d : Dev) : Dev :=
  let x := (d.flag SEC_BOOT_STATUS_SIGNER (d.ownerSigned d.sec.bootImg)).set SEC_BOOT_STATUS_STATE 5
  { x with sec := { x.sec with aliasDigest := bootDigest d.sec.bootImg, aliasSvn := fieldAt d.sec.bootImg 24 4 } }

/-- An image that passes. -/
theorem exec_bootVerify_passes (he : s.dev.bootChecks s.dev.sec.bootImg sigOk = 0) :
    exec (.bootVerify sigOk) s = s.nextDev s.dev.bootPassed :=
  exec_next rfl hl ((if_neg (not_not.2 h)).trans (if_neg (not_not.2 he)))

end Verify

/-- Outside APPLYING nothing is applied. -/
theorem exec_bootApply_elsewhere (r : Option (Fin 64)) (h : s.dev.get SEC_BOOT_STATUS_STATE ≠ 5) :
    exec (.bootApply r) s = .next (s.metered s.dev) := exec_nextM rfl hl (if_pos h)

/-- A frame that its consumer refuses. -/
theorem exec_bootApply_refused (k : Fin 64) (h : s.dev.get SEC_BOOT_STATUS_STATE = 5) : exec (.bootApply (some k)) s = .next (s.metered
    ((({ s.dev with sec := { s.dev.sec with aliasDigest := [], aliasSvn := 0 } } : Dev).set SEC_BOOT_STATUS_FRAME k.val).bootRefuse 0xC)) :=
  exec_nextM rfl hl (if_neg (not_not.2 h))

/-- Every frame is accepted. -/
theorem exec_bootApply_all (h : s.dev.get SEC_BOOT_STATUS_STATE = 5) :
    exec (.bootApply none) s = .next (s.metered ((s.dev.bootDefaults s.dev.sec.bootImg).bootRun s.dev.sec.bootImg)) :=
  exec_nextM rfl hl (if_neg (not_not.2 h))

end Live

/-- The image's digests and SVN stand in the registers, and its frames with their consumers. -/
def Dev.bootHeld (d : Dev) (b : List Byte) : Dev :=
  let d := d.set SEC_SVN_IMAGE_SVN (fieldAt b 24 4)
  let d := (d.setDigest SEC_IMAGE_DIGEST_V (bootDigest b)).setDigest SEC_DMC_DIGEST_V (sha3 (bootFrame b 1))
  { d with sec := { d.sec with dmcFrame := bootFrame b 1, tileFrame := bootFrame b 2, powerFrame := bootFrame b 5, bootImg := [], bootCtx := none } }

/-- The device as the image runs, before the needs of sparing are served. -/
def Dev.bootBegun (d : Dev) (b : List Byte) : Dev :=
  ((((d.bootHeld b).set SEC_BOOT_STATUS_STATE 6).set SEC_BOOT_STATUS_RESULT 0).set DMC_STATUS_STAGE 2).applyPend 5

/-- The image runs. -/
theorem Dev.bootRun_eq (b : List Byte) : d.bootRun b = (d.bootBegun b).resumeSparing := rfl

/-- What the registers and the security engine then hold. -/
theorem Dev.bootBegun_holds (b : List Byte) : (d.bootBegun b).get SEC_BOOT_STATUS_STATE = 6 ∧ (d.bootBegun b).get SEC_BOOT_STATUS_RESULT = 0 ∧
    (d.bootBegun b).get DMC_STATUS_STAGE = 2 ∧ (d.bootBegun b).sec.dmcFrame = bootFrame b 1 ∧
    (d.bootBegun b).sec.tileFrame = bootFrame b 2 := by
  obtain ⟨hsec, hget⟩ := Dev.applyPend_frame
    (d := (((d.bootHeld b).set SEC_BOOT_STATUS_STATE 6).set SEC_BOOT_STATUS_RESULT 0).set DMC_STATUS_STAGE 2) (k := 5) (by decide) (by decide)
  refine ⟨(hget _ (by decide) (by decide)).trans ?_, (hget _ (by decide) (by decide)).trans ?_, (hget _ (by decide) (by decide)).trans ?_,
    congrArg Sec.dmcFrame hsec, congrArg Sec.tileFrame hsec⟩
  · rw [Dev.get_set_ne _ _ _ _ (by decide), Dev.get_set_ne _ _ _ _ (by decide), Dev.get_set_same]
    rfl
  · rw [Dev.get_set_ne _ _ _ _ (by decide), Dev.get_set_same]
    rfl
  · rw [Dev.get_set_same]
    rfl

end Sys2Proof.Machine

open Sys2Proof Sys2Proof.Machine

/-- Settles O51: each command by the state that the boot is in, the stream's messages by their context too. -/
theorem bootStates : Obligations.BootStates := by
  intro s part h hl d st now
  refine ⟨fun ok h0 => ⟨exec_romStageDone_host hl ok h0, exec_romStageDone_flash hl ok h0, exec_romStageDone_noFlash hl ok h0⟩,
    exec_romStageDone_past hl, exec_bootImageRead_noFlash hl, fun h1 hz => ⟨exec_bootImageRead_header hl h1 hz,
      exec_bootImageRead_fits hl h1 hz, exec_bootImageRead_truncated hl h1 hz⟩, exec_bootImageRead_elsewhere hl,
    exec_bootStreamTimeout_streaming hl, exec_bootStreamTimeout_elsewhere hl, fun hp => ?stream,
    fun sigOk h4 => ⟨exec_bootVerify_refuses hl sigOk h4, exec_bootVerify_passes hl sigOk h4⟩, exec_bootVerify_elsewhere hl,
    fun k h5 => exec_bootApply_refused hl k h5, fun h5 => ⟨(d.bootDefaults d.sec.bootImg).bootBegun d.sec.bootImg, ?_⟩,
    exec_bootApply_elsewhere hl⟩
  case stream =>
    intro served now c e st
    exact ⟨fun off bs a h2 h0 => exec_loadData_boot hl hp a (Dev.bootData_begins h2 h0),
      fun off bs a h3 hc ho => exec_loadData_boot hl hp a (Dev.bootData_next h3 hc ho),
      fun off bs a h3 hc ho => exec_loadData_boot hl hp a (Dev.bootData_skips h3 hc ho),
      fun off bs a h3 hc => exec_loadData_boot hl hp a (Dev.bootData_busy h3 hc),
      fun off bs a h3 hx => exec_loadData_boot hl hp a (Dev.bootData_drops h3 hx),
      fun a h3 hc => exec_loadEnd_boot hl hp a (Dev.bootEnd_truncates h3 hc),
      fun a hx => exec_loadEnd_boot hl hp a (Dev.bootEnd_drops hx)⟩
  · exact ⟨exec_bootApply_all hl h5, Dev.bootRun_eq _, Dev.bootBegun_holds _⟩

end

section
/-! PROOF. The calls of the security engine (R451 to R461, R467, R468, R498), and the statement about them. -/

namespace Sys2Proof.Machine

variable {s : State} {d : Dev} {c : Nat}

/-! ### A call is served in its turn (R453, R468, R498) -/

/-- A call that has been taken in turn: it waits, is refused, meets a failure of SEC's memory, or is carried out. -/
def Dev.callTaken (d : Dev) (c tag : Nat) (op : SecOp) (ue : Bool) : Dev :=
  if d.sec.restarting then
    if d.sec.calls.length < 64 then { d with sec := { d.sec with calls := d.sec.calls ++ [⟨c, tag, op⟩] } }
    else d.secReply c tag (secOpCode op) stNopBusy 0 []
  else if ue then d.secFault c tag op
  else d.secServe c tag op

/-- The eleven commands that carry a call. -/
theorem exec_of_callOf {i : Instr} {h : NHdr} {tag : Nat} {o : SecOp} {ue : Bool} (hc : callOf i = some (h, tag, o, ue)) :
    exec i s = run (fun d => d.secCall h tag o ue) s := by
  unfold callOf at hc
  split at hc
  case h_12 => cases hc
  all_goals
    cases hc
    rfl

/-- The device of a call that is served. -/
theorem Dev.secCall_served {h : NHdr} {tag : Nat} {o : SecOp} {ue : Bool}
    (a : Served d h true (earlyCall (callOp h o)) (callLen h (callOp h o))) :
    d.secCall h tag o ue = (d.inTurn h true).callTaken h.dctx.val tag (callOp h o) ue := by
  unfold Dev.secCall
  extract_lets c op
  exact Dev.nopraRx_served _ _ a

/-- A call that is served. -/
theorem exec_call {i : Instr} {h : NHdr} {tag : Nat} {o : SecOp} {ue : Bool} (hl : s.dev.live = true) (hc : callOf i = some (h, tag, o, ue))
    (a : Served s.dev h true (earlyCall (callOp h o)) (callLen h (callOp h o))) {e : Dev}
    (he : (s.dev.inTurn h true).callTaken h.dctx.val tag (callOp h o) ue = e) : exec i s = s.nextDev e := by
  rw [exec_of_callOf hc, run_live _ _ hl, Dev.secCall_served a, he]
  rfl

section Taken
variable {tag : Nat} {op : SecOp} {ue : Bool}

/-- While SEC restarts, up to 64 wait. -/
theorem Dev.callTaken_waits (hr : d.sec.restarting = true) (hn : d.sec.calls.length < 64) :
    d.callTaken c tag op ue = { d with sec := { d.sec with calls := d.sec.calls ++ [⟨c, tag, op⟩] } } := (if_pos hr).trans (if_pos hn)

/-- More are BUSY. -/
theorem Dev.callTaken_busy (hr : d.sec.restarting = true) (hn : 64 ≤ d.sec.calls.length) :
    d.callTaken c tag op ue = d.secReply c tag (secOpCode op) 0x43 0 [] := (if_pos hr).trans (if_neg (Nat.not_lt.2 hn))

variable (hr : d.sec.restarting = false)
include hr

/-- SEC's memory fails under the call. -/
theorem Dev.callTaken_fault (hu : ue = true) : d.callTaken c tag op ue = d.secFault c tag op :=
  (if_neg (ne_true_of_eq_false hr)).trans (if_pos hu)

/-- The call is carried out and answered. -/
theorem Dev.callTaken_serves (hu : ue = false) {o : SecOp} {x : SecOut} (ho : op = o) (hx : d.secDo c o = x) :
    d.callTaken c tag op ue = x.dev.secReply c tag (secOpCode o) x.st x.detail x.result := by
  subst ho hx
  exact (if_neg (ne_true_of_eq_false hr)).trans (if_neg (ne_true_of_eq_false hu))

end Taken

/-- An operation that R454 does not name. -/
theorem Dev.secDo_other {n : Nat} : d.secDo c (.other n) = secBad d := rfl

/-! ### Challenges and credentials (R454, R455) -/

/-- A HOST context gets 64 fresh bytes. -/
theorem Dev.secChallenge_host (hk : d.ctxKind c = 2) : d.secChallenge c =
    secOk ((({ d with sec := { d.sec with nonces := d.sec.nonces + 1 } } : Dev).modCtx c fun x =>
      { x with challenge := some (randomBytes (d.sec.nonces + 1) 64) })) (randomBytes (d.sec.nonces + 1) 64) := if_neg (not_not.2 hk)

/-- The context's challenge is taken up. -/
def Dev.challengeUsed (d : Dev) (c : Nat) : Dev := d.modCtx c fun x => { x with challenge := none }

section Bind
variable {role p : Nat} {part : PartId} {pk : List Byte} {sigOk : Bool}

/-- BIND on a HOST context, once its challenge is taken up. -/
theorem Dev.secBind_host (hk : d.ctxKind c = 2) (hrole : role = 1 ∨ role = 2) : d.secBind c role p part pk sigOk =
    if !(d.ctx c).challenge.isSome || !sigOk then secFail (d.challengeUsed c) dtSignature
    else if role = 1 then
      if d.fuses.ownerDigest = some (sha3 pk) then
        secOk (((d.challengeUsed c).modCtx c fun x => { x with cred := .owner, tkey := [] }).set (NOP_CTX_CFG_PART c) 0) []
      else secFail (d.challengeUsed c) dtDigest
    else if p = 0 || (d.challengeUsed c).tkeyBytes p != sha3 pk || sha3 pk == zeros 64 then secFail (d.challengeUsed c) dtDigest
    else if d.partState p ≠ 1 && d.partState p ≠ 2 then secFail (d.challengeUsed c) dtState
    else secOk (((d.challengeUsed c).modCtx c fun x => { x with cred := .tenant part, tkey := sha3 pk }).set (NOP_CTX_CFG_PART c) p) [] :=
  (if_neg (not_not.2 hk)).trans (if_neg (by omega))

variable (hk : d.ctxKind c = 2)
include hk

/-- No challenge, or a signature that does not verify. -/
theorem Dev.secBind_unsigned (hrole : role = 1 ∨ role = 2) (h : (d.ctx c).challenge = none ∨ sigOk = false) :
    d.secBind c role p part pk sigOk = secFail (d.challengeUsed c) 1 :=
  (Dev.secBind_host hk hrole).trans (if_pos (by rcases h with h | h <;> simp [h]))

variable (hch : (d.ctx c).challenge ≠ none) (hsig : sigOk = true)
include hch hsig

omit hk in
/-- A signed answer to a challenge. -/
theorem Dev.bindSigned : ¬ (!(d.ctx c).challenge.isSome || !sigOk) = true := by
  simp [hsig, Option.isSome_iff_ne_none.2 hch]

/-- The owner's key gives the owner's credential. -/
theorem Dev.secBind_owner (hrole : role = 1) (hd : d.fuses.ownerDigest = some (sha3 pk)) : d.secBind c role p part pk sigOk =
    secOk (((d.challengeUsed c).modCtx c fun x => { x with cred := .owner, tkey := [] }).set (NOP_CTX_CFG_PART c) 0) [] :=
  (Dev.secBind_host hk (.inl hrole)).trans ((if_neg (Dev.bindSigned hch hsig)).trans ((if_pos hrole).trans (if_pos hd)))

/-- Another key does not. -/
theorem Dev.secBind_notOwner (hrole : role = 1) (hd : d.fuses.ownerDigest ≠ some (sha3 pk)) : d.secBind c role p part pk sigOk =
    secFail (d.challengeUsed c) 2 :=
  (Dev.secBind_host hk (.inl hrole)).trans ((if_neg (Dev.bindSigned hch hsig)).trans ((if_pos hrole).trans (if_neg hd)))

variable (hrole : role = 2)
include hrole

omit hk hch hsig in
/-- The tenant's role is not the owner's. -/
theorem ne_one_of_eq_two : ¬ role = 1 := by omega

/-- A key that is not the partition's TKEY. -/
theorem Dev.secBind_notTenant (h : p = 0 ∨ d.tkeyBytes p ≠ sha3 pk ∨ sha3 pk = zeros 64) : d.secBind c role p part pk sigOk =
    secFail (d.challengeUsed c) 2 := by
  refine (Dev.secBind_host hk (.inr hrole)).trans ((if_neg (Dev.bindSigned hch hsig)).trans ((if_neg (ne_one_of_eq_two hrole)).trans (if_pos ?_)))
  have ht : (d.challengeUsed c).tkeyBytes p = d.tkeyBytes p := rfl
  simpa [or_assoc, ht] using h

variable (hp : p ≠ 0) (ht : d.tkeyBytes p = sha3 pk) (hz : sha3 pk ≠ zeros 64)
include hp ht hz

omit hk hch hsig hrole in
/-- The partition's TKEY. -/
theorem Dev.bindTenant : ¬ (p = 0 || (d.challengeUsed c).tkeyBytes p != sha3 pk || sha3 pk == zeros 64) = true := by
  simp [hp, show (d.challengeUsed c).tkeyBytes p = sha3 pk from ht, hz]

/-- The TKEY of a partition that is OPEN or SEALED gives its tenant's credential. -/
theorem Dev.secBind_tenant (h : d.partState p = 1 ∨ d.partState p = 2) : d.secBind c role p part pk sigOk =
    secOk (((d.challengeUsed c).modCtx c fun x => { x with cred := .tenant part, tkey := sha3 pk }).set (NOP_CTX_CFG_PART c) p) [] := by
  refine (Dev.secBind_host hk (.inr hrole)).trans ((if_neg (Dev.bindSigned hch hsig)).trans ((if_neg (ne_one_of_eq_two hrole)).trans
    ((if_neg (Dev.bindTenant hp ht hz)).trans (if_neg ?_))))
  rcases h with h | h <;> simp [h]

/-- That of any other does not. -/
theorem Dev.secBind_tenantState (h1 : d.partState p ≠ 1) (h2 : d.partState p ≠ 2) : d.secBind c role p part pk sigOk =
    secFail (d.challengeUsed c) 5 :=
  (Dev.secBind_host hk (.inr hrole)).trans ((if_neg (Dev.bindSigned hch hsig)).trans ((if_neg (ne_one_of_eq_two hrole)).trans
    ((if_neg (Dev.bindTenant hp ht hz)).trans (if_pos (by simp [h1, h2])))))

end Bind

/-! ### Fuses and flash (R454, R456, R461, R467) -/

/-- COMMIT_SVN is the owner's. -/
theorem Dev.secCommit_denied (ho : d.secOwner c = false) : d.secCommit c = secFail d 7 := if_pos (by simp [ho])

/-- It raises the fused minimum to the image's, up to 64. -/
theorem Dev.secCommit_owner (ho : d.secOwner c = true) : d.secCommit c =
    let v := d.get SEC_SVN_IMAGE_SVN
    let n := if d.fuses.svn < v ∧ v ≤ 64 then v else d.fuses.svn
    secOk { d with fuses := { d.fuses with svn := n } } (leBytes 4 n) := by
  refine (if_neg (by simp [ho])).trans ?_
  simp only [Bool.and_eq_true, decide_eq_true_eq]

section Flash
variable (ho : d.secOwner c = true) {off : Nat}
include ho

/-- The flash below the boot base is not erased. -/
theorem Dev.secErase_low {n : Nat} (h : off < bootBase) : d.secErase c off n = ⟨d, stDenied, 0, []⟩ :=
  (if_neg (by simp [ho])).trans (if_pos h)

/-- Whole sectors within it are. -/
theorem Dev.secErase_wipes {n : Nat} (h : bootBase ≤ off) (hs : off + n * Config.flashSector ≤ d.fuses.flashSize)
    (ha : off % max 1 Config.flashSector = 0) : d.secErase c off n =
      secOk { d with fuses := { d.fuses with flash := cclear d.fuses.flash off (off + n * Config.flashSector) } } [] := by
  refine (if_neg (by simp [ho])).trans ((if_neg (Nat.not_lt.2 h)).trans (if_neg ?_))
  simpa using ⟨hs, ha⟩

variable {data : List Byte} (hd : data ≠ []) (hn : data.length ≤ 8000)
include hd hn

omit ho in
/-- The data of a write that is not malformed. -/
theorem flashData_fits : ¬ (data.isEmpty || decide (8000 < data.length)) = true := by simp [hd, hn]

/-- Nor is it written there. -/
theorem Dev.secFlash_low (h : off < bootBase) : d.secFlash c off data = ⟨d, stDenied, 0, []⟩ :=
  (if_neg (by simp [ho])).trans ((if_neg (flashData_fits hd hn)).trans (if_pos h))

/-- The byte that the flash holds once `e.1` is written at place `e.2` from `off`. -/
def Dev.flashPut (d : Dev) (off : Nat) (e : Byte × Nat) : Byte :=
  (if d.flashByte (off + e.2) = 0xFF then e.1 else Config.flashMix (d.flashByte (off + e.2)) e.1) ^^^ 0xFF

/-- An erased byte takes its value, another one that the flash gives. -/
theorem Dev.secFlash_writes (h : bootBase ≤ off) (hs : off + data.length ≤ d.fuses.flashSize) : d.secFlash c off data =
    secOk { d with fuses := { d.fuses with flash := cwrite d.fuses.flash off (data.zipIdx.map (d.flashPut off)) } } [] :=
  (if_neg (by simp [ho])).trans ((if_neg (flashData_fits hd hn)).trans ((if_neg (Nat.not_lt.2 h)).trans (if_neg (Nat.not_lt.2 hs))))

end Flash

section Enroll
variable {kind auth : Nat} {digest pk : List Byte} {sigOk : Bool}

/-- Slots of a kind that are programmed. -/
def Dev.enrolled (d : Dev) (kind : Nat) : List (List Byte) := if kind = 1 then d.fuses.owners else d.fuses.imgKeys

/-- The key is the one that may enroll: the ROM's before the first owner, then the owner's. -/
def Dev.enrollKnown (d : Dev) (auth : Nat) (pk : List Byte) : Prop :=
  (auth = 0 → sha3 pk = romDigest 1 ∧ d.fuses.owners = []) ∧ (auth = 1 → d.fuses.ownerDigest = some (sha3 pk))

/-- An owner is not enrolled while a partition is in use. -/
def Dev.enrollHeld (d : Dev) (kind : Nat) : Prop := kind = 1 ∧ ∃ p ∈ allParts, d.partState p ≠ 0

/-- A context whose owner's credential a new owner ends. -/
def Ctx.unbound (x : Ctx) : Ctx := if x.cred = .owner then { x with cred := .none } else x

/-- The next slot of the kind is programmed. -/
def Dev.enrollDone (d : Dev) (kind : Nat) (digest : List Byte) : Dev :=
  let d' : Dev := { d with fuses :=
    if kind = 1 then { d.fuses with owners := d.enrolled kind ++ [slice digest 0 64] }
    else { d.fuses with imgKeys := d.enrolled kind ++ [slice digest 0 64] } }
  if kind = 1 then { d' with ctxs := d'.ctxs.map fun e => (e.1, e.2.unbound) } else d'

variable (hk : kind = 1 ∨ kind = 2) (ha : auth ≤ 1)
include hk ha

/-- ENROLL, check by check. -/
theorem Dev.secEnroll_eq : d.secEnroll kind auth digest pk sigOk =
    if !(if auth = 0 then sha3 pk == romDigest 1 && d.fuses.owners.isEmpty else d.fuses.ownerDigest == some (sha3 pk)) then secFail d dtDigest
    else if !sigOk then secFail d dtSignature
    else if kind = 1 && allParts.any (fun p => d.partState p != 0) then secFail d dtState
    else if 4 ≤ (d.enrolled kind).length then secFail d dtSlots
    else secOk (d.enrollDone kind digest) (leBytes 1 (d.enrolled kind).length) :=
  (if_neg (by omega)).trans (if_neg (Nat.not_lt.2 ha))

omit hk in
/-- Whether the key is known, as the check computes it. -/
theorem Dev.enrollKnown_iff : (if auth = 0 then sha3 pk == romDigest 1 && d.fuses.owners.isEmpty else d.fuses.ownerDigest == some (sha3 pk)) = true ↔
    d.enrollKnown auth pk := by
  obtain rfl | rfl : auth = 0 ∨ auth = 1 := by omega
  · simp [Dev.enrollKnown]
  · simp [Dev.enrollKnown]

omit hk ha in
/-- Whether a partition is in use, as the check computes it. -/
theorem Dev.enrollHeld_iff : (kind = 1 && allParts.any (fun p => d.partState p != 0)) = true ↔ d.enrollHeld kind := by
  simp [Dev.enrollHeld]

/-- Another key. -/
theorem Dev.secEnroll_unknown (h : ¬ d.enrollKnown auth pk) : d.secEnroll kind auth digest pk sigOk = secFail d 2 :=
  (Dev.secEnroll_eq hk ha).trans (if_pos (by rw [Bool.not_eq_true', Bool.eq_false_iff]; exact mt (Dev.enrollKnown_iff ha).1 h))

variable (h : d.enrollKnown auth pk)
include h

omit hk in
/-- A known key passes the first check. -/
theorem Dev.enrollKnown_passes : ¬ (!(if auth = 0 then sha3 pk == romDigest 1 && d.fuses.owners.isEmpty
    else d.fuses.ownerDigest == some (sha3 pk))) = true := by
  rw [(Dev.enrollKnown_iff ha).2 h]
  decide

/-- A signature that does not verify. -/
theorem Dev.secEnroll_unsigned (hs : sigOk = false) : d.secEnroll kind auth digest pk sigOk = secFail d 1 :=
  (Dev.secEnroll_eq hk ha).trans ((if_neg (Dev.enrollKnown_passes ha h)).trans (if_pos (by simp [hs])))

variable (hs : sigOk = true)
include hs

/-- A partition in use. -/
theorem Dev.secEnroll_held (hh : d.enrollHeld kind) : d.secEnroll kind auth digest pk sigOk = secFail d 5 :=
  (Dev.secEnroll_eq hk ha).trans ((if_neg (Dev.enrollKnown_passes ha h)).trans ((if_neg (by simp [hs])).trans
    (if_pos (Dev.enrollHeld_iff.2 hh))))

variable (hh : ¬ d.enrollHeld kind)
include hh

/-- No slot left. -/
theorem Dev.secEnroll_full (hn : 4 ≤ (d.enrolled kind).length) : d.secEnroll kind auth digest pk sigOk = secFail d 4 :=
  (Dev.secEnroll_eq hk ha).trans ((if_neg (Dev.enrollKnown_passes ha h)).trans ((if_neg (by simp [hs])).trans
    ((if_neg (mt Dev.enrollHeld_iff.1 hh)).trans (if_pos hn))))

/-- The next of four. -/
theorem Dev.secEnroll_takes (hn : (d.enrolled kind).length < 4) : d.secEnroll kind auth digest pk sigOk =
    secOk (d.enrollDone kind digest) (leBytes 1 (d.enrolled kind).length) :=
  (Dev.secEnroll_eq hk ha).trans ((if_neg (Dev.enrollKnown_passes ha h)).trans ((if_neg (by simp [hs])).trans
    ((if_neg (mt Dev.enrollHeld_iff.1 hh)).trans (if_neg (Nat.not_le.2 hn)))))

end Enroll

/-! ### Secrets and keys (R457, R458) -/

/-- A partition that is OPEN or SEALED passes. -/
theorem Dev.partUp_passes {p : Nat} (hup : d.partState p = 1 ∨ d.partState p = 2) :
    ¬ (p ≠ 0 && d.partState p != 1 && d.partState p != 2) = true := by
  rcases hup with hup | hup <;> simp [hup]

section Secret
variable {m : SecretMsg} (h1 : 1 ≤ m.kind) (h2 : m.kind ≤ 2) (hp : m.part.val ≠ 0) (hc : d.secCovers c m.part.val = true)
include h1 h2 hp hc

/-- SECRET_PUT of a memory or context key by one who may. -/
theorem Dev.secSecret_may : d.secSecret c m =
    if m.part.val ≠ 0 && d.partState m.part.val != 1 && d.partState m.part.val != 2 then secFail d dtState
    else if m.ekSerial ≠ (d.part m.part.val).ekSerial then secFail d dtSerial
    else
      match m.secret with
      | none => secFail (d.newKem m.part.val) dtDecrypt
      | some b => if (d.newKem m.part.val).secretFits m then secOk ((d.newKem m.part.val).takeSecret c m b) [] else
        secFail (d.newKem m.part.val) dtState := by
  have h3 : m.kind ≠ 3 := by omega
  have hkind : ¬ (decide (m.kind < 1) || decide (3 < m.kind)) = true := by
    simp only [Bool.or_eq_true, decide_eq_true_eq]
    omega
  exact (if_neg hkind).trans (if_neg (by simp [h3, hp, hc]))

/-- The partition is neither OPEN nor SEALED. -/
theorem Dev.secSecret_state (hx : ¬ (d.partState m.part.val = 1 ∨ d.partState m.part.val = 2)) : d.secSecret c m = secFail d 5 := by
  obtain ⟨hx1, hx2⟩ := not_or.1 hx
  exact (Dev.secSecret_may h1 h2 hp hc).trans (if_pos (by simp [hp, hx1, hx2]))

variable (hup : d.partState m.part.val = 1 ∨ d.partState m.part.val = 2)
include hup

/-- The wrong serial. -/
theorem Dev.secSecret_serial (he : m.ekSerial ≠ (d.part m.part.val).ekSerial) : d.secSecret c m = secFail d 3 :=
  (Dev.secSecret_may h1 h2 hp hc).trans ((if_neg (Dev.partUp_passes hup)).trans (if_pos he))

variable (he : m.ekSerial = (d.part m.part.val).ekSerial)
include he

/-- A secret that does not decrypt. -/
theorem Dev.secSecret_garbled (hm : m.secret = none) : d.secSecret c m = secFail (d.newKem m.part.val) 6 :=
  (Dev.secSecret_may h1 h2 hp hc).trans ((if_neg (Dev.partUp_passes hup)).trans ((if_neg (not_not.2 he)).trans (by rw [hm]; rfl)))

variable {b : List Byte} (hm : m.secret = some b)
include hm

/-- A secret that fits takes effect. -/
theorem Dev.secSecret_fits (hf : (d.newKem m.part.val).secretFits m = true) :
    d.secSecret c m = secOk ((d.newKem m.part.val).takeSecret c m b) [] :=
  (Dev.secSecret_may h1 h2 hp hc).trans ((if_neg (Dev.partUp_passes hup)).trans ((if_neg (not_not.2 he)).trans (by rw [hm]; exact if_pos hf)))

/-- One that does not is refused. -/
theorem Dev.secSecret_unfit (hf : (d.newKem m.part.val).secretFits m = false) : d.secSecret c m = secFail (d.newKem m.part.val) 5 :=
  (Dev.secSecret_may h1 h2 hp hc).trans ((if_neg (Dev.partUp_passes hup)).trans ((if_neg (not_not.2 he)).trans
    (by rw [hm]; exact if_neg (ne_true_of_eq_false hf))))

end Secret

section Kem
variable {p : Nat}

/-- Who may have the encapsulation key of partition p, or of the device. -/
def Dev.kemMay (d : Dev) (c p : Nat) : Bool := if p = 0 then d.secOwner c else d.secCovers c p

/-- What a KEM_GET returns, but for its signature. -/
def Dev.kemBody (d : Dev) (p : Nat) : List Byte := leBytes 1 p ++ zeros 3 ++ leBytes 4 (d.part p).ekSerial ++ ekBytes (d.part p).ek

/-- Nobody else may. -/
theorem Dev.secKem_denied (h : d.kemMay c p = false) : d.secKem c p = secFail d 7 := if_pos (by rw [← Dev.kemMay, h]; rfl)

variable (h : d.kemMay c p = true)
include h

/-- KEM_GET for one who may. -/
theorem Dev.secKem_may : d.secKem c p = if p ≠ 0 && d.partState p != 1 && d.partState p != 2 then secFail d dtState
    else secOk d (d.kemBody p ++ d.aliasSig (d.kemBody p)) := if_neg (by rw [← Dev.kemMay, h]; decide)

/-- A partition that is neither OPEN nor SEALED has none. -/
theorem Dev.secKem_state (hp : p ≠ 0) (h1 : d.partState p ≠ 1) (h2 : d.partState p ≠ 2) : d.secKem c p = secFail d 5 :=
  (Dev.secKem_may h).trans (if_pos (by simp [hp, h1, h2]))

/-- The key, signed. -/
theorem Dev.secKem_gives (hx : p = 0 ∨ d.partState p = 1 ∨ d.partState p = 2) :
    d.secKem c p = secOk d (d.kemBody p ++ d.aliasSig (d.kemBody p)) :=
  (Dev.secKem_may h).trans (if_neg (by rcases hx with hx | hx | hx <;> simp [hx]))

end Kem

/-! ### Certificates and attestation (R452, R459, R460) -/

section Attest
variable {p : Nat} {nonce : List Byte} (hp : p ≠ 0)
include hp

/-- A report for the owner or the partition's tenant. -/
theorem Dev.secAttest_gives (h : d.secCovers c p = true) : d.secAttest c p nonce = secOk d (d.report p nonce) :=
  if_neg (by simp [hp, h])

/-- None for another. -/
theorem Dev.secAttest_denied (h : d.secCovers c p = false) : d.secAttest c p nonce = secFail d 7 := if_pos (by simp [hp, h])

end Attest

section Certificate
variable {role : Nat}

/-- No role of R452. -/
theorem Dev.secCert_malformed (h : 4 < role) : d.secCert role = secBad d := if_pos h

/-- The one of role 3, before an image has passed. -/
theorem Dev.secCert_early (hr : role = 3) (h : d.sec.aliasDigest = []) : d.secCert role = secFail d 5 :=
  (if_neg (by omega)).trans (if_pos (by simp [hr, h]))

/-- Any other. -/
theorem Dev.secCert_gives (h4 : role ≤ 4) (h : role = 3 → d.sec.aliasDigest ≠ []) : d.secCert role = secOk d (d.certificate role) :=
  (if_neg (Nat.not_lt.2 h4)).trans (if_neg (by simpa using h))

end Certificate

section Digests
variable {p first : Nat}

/-- The section digests, from `first` on, at most 119. -/
theorem Dev.secDigests_gives (h : d.secCovers c p = true) : d.secDigests c p first =
    secOk d (leBytes 4 (((d.region p).digests.drop first).take 119).length ++ leBytes 4 (d.region p).digests.length ++
      (((d.region p).digests.drop first).take 119).flatten) := by
  refine (if_neg (by simp [h])).trans ?_
  rw [List.flatten_eq_flatMap]
  rfl

/-- None for another. -/
theorem Dev.secDigests_denied (h : d.secCovers c p = false) : d.secDigests c p first = secFail d 7 := if_pos (by simp [h])

end Digests

end Sys2Proof.Machine

open Sys2Proof Sys2Proof.Machine

/-- Settles O49: a call by the state of SEC, and each operation by the checks that it makes. -/
theorem securityCalls : Obligations.SecurityCalls := by
  intro s i h tag o ue hl hcall a op c d now
  have hexec {e : Dev} (he : d.callTaken c tag op ue = e) : exec i s = now e := exec_call hl hcall a he
  refine ⟨fun hr hn => hexec (Dev.callTaken_waits hr hn), fun hr hn => hexec (Dev.callTaken_busy hr hn),
    fun hr hu => hexec (Dev.callTaken_fault hr hu), fun hr hu => ?ops, fun hr => exec_next rfl hl (if_pos hr),
    fun hr => exec_next rfl hl (if_neg (ne_true_of_eq_false hr))⟩
  have hdo {o : SecOp} {n : Nat} {e : Dev} {st : Byte} {detail : Nat} {bs : List Byte} (hn : secOpCode o = n) (ho : op = o)
      (hx : d.secDo c o = ⟨e, st, detail, bs⟩) : exec i s = now (e.secReply c tag n st detail bs) :=
    hn ▸ hexec (Dev.callTaken_serves hr hu ho hx)
  refine ⟨fun x hx => hexec (Dev.callTaken_serves hr hu rfl hx), fun n ho => hdo rfl ho Dev.secDo_other, fun ho hk => hdo rfl ho (Dev.secChallenge_host hk), fun role part pk sigOk ho hk hrole => ?bind,
    fun ho hc => hdo rfl ho (Dev.secCommit_owner hc), fun ho hc => hdo rfl ho (Dev.secCommit_denied hc),
    fun off n ho hc => ⟨fun h => hdo rfl ho (Dev.secErase_low hc h), fun h hs ha => hdo rfl ho (Dev.secErase_wipes hc h hs ha)⟩,
    fun off data ho hc hd hn h => hdo rfl ho (Dev.secFlash_low hc hd hn h),
    fun off data ho hc hd hn h hs => hdo rfl ho (Dev.secFlash_writes hc hd hn h hs),
    fun part nonce ho hp => ⟨fun h => hdo rfl ho (Dev.secAttest_gives hp h), fun h => hdo rfl ho (Dev.secAttest_denied hp h)⟩,
    fun m b ho h1 h2 hp hc => ?secret,
    fun role ho => ⟨fun h => hdo rfl ho (Dev.secCert_malformed h), fun hr h => hdo rfl ho (Dev.secCert_early hr h),
      fun h4 h => hdo rfl ho (Dev.secCert_gives h4 h)⟩,
    fun part first ho => ⟨fun h => hdo rfl ho (Dev.secDigests_gives h), fun h => hdo rfl ho (Dev.secDigests_denied h)⟩,
    fun part ho => ⟨fun h => hdo rfl ho (Dev.secKem_denied h), fun h hp h1 h2 => hdo rfl ho (Dev.secKem_state h hp h1 h2),
      fun h hx => hdo rfl ho (Dev.secKem_gives h hx)⟩,
    fun kind auth digest pk sigOk ho hk ha => ?enroll⟩
  case bind =>
    exact ⟨fun h => hdo rfl ho (Dev.secBind_unsigned hk hrole h), fun hch hs => ⟨fun h1 hd => hdo rfl ho (Dev.secBind_owner hk hch hs h1 hd),
      fun h1 hd => hdo rfl ho (Dev.secBind_notOwner hk hch hs h1 hd), fun h2 h => hdo rfl ho (Dev.secBind_notTenant hk hch hs h2 h),
      fun h2 hp ht hz => ⟨fun h => hdo rfl ho (Dev.secBind_tenant hk hch hs h2 hp ht hz h),
        fun hs1 hs2 => hdo rfl ho (Dev.secBind_tenantState hk hch hs h2 hp ht hz hs1 hs2)⟩⟩⟩
  case secret =>
    exact ⟨fun hx => hdo rfl ho (Dev.secSecret_state h1 h2 hp hc hx), fun hup he => hdo rfl ho (Dev.secSecret_serial h1 h2 hp hc hup he),
      fun hup he => ⟨fun hm => hdo rfl ho (Dev.secSecret_garbled h1 h2 hp hc hup he hm),
        fun hm hf => hdo rfl ho (Dev.secSecret_fits h1 h2 hp hc hup he hm hf), fun hm hf => hdo rfl ho (Dev.secSecret_unfit h1 h2 hp hc hup he hm hf)⟩⟩
  case enroll =>
    refine ⟨fun h => hdo rfl ho (Dev.secEnroll_unknown hk ha h), fun h hs => hdo rfl ho (Dev.secEnroll_unsigned hk ha h hs),
      fun h hs hh => hdo rfl ho (Dev.secEnroll_held hk ha h hs hh), fun h hs hh hn => hdo rfl ho (Dev.secEnroll_full hk ha h hs hh hn),
      fun h hs hh hn h1 => ?_, fun h hs hh hn h2 => ?_⟩
    · subst h1
      exact hdo rfl ho (Dev.secEnroll_takes hk ha h hs hh hn)
    · subst h2
      exact hdo rfl ho (Dev.secEnroll_takes hk ha h hs hh hn)

end

section
/-! PROOF. The commands of SPR_CMD (R500, R506, R507, R511, R512), and the statement about them. -/

namespace Sys2Proof.Machine

variable {s : State} {d : Dev} {cred : Cred} {kind target line : Nat}

/-! ### A write of SPR_CMD (R506) -/

/-- SPR_CMD once a command has been written. -/
def Dev.sprTaken (d : Dev) (kind target line : Nat) : Dev :=
  (((d.set SPR_CMD_TARGET target).set SPR_CMD_LINE line).set SPR_CMD_KIND kind).w1c SPR_CMD_REFUSED (sprCmd kind target line)

/-- An instruction that writes SPR_CMD. -/
def WritesSprCmd (i : Instr) (s : State) (cred : Cred) (kind target line : Nat) : Prop :=
  exec i s = runM (fun d => ended (d.sprCmdWr cred (sprCmd kind target line))) s

/-- Without the owner's credential each is DENIED. -/
theorem WritesSprCmd.denied {i : Instr} (h : WritesSprCmd i s cred kind target line) (hl : s.dev.live = true) (ho : isOwner cred = false) :
    exec i s = .next (s.metered (s.dev.completed 7 0)) :=
  exec_nextM h hl (congrArg ended (ownerWr_of_not_isOwner _ _ ho))

section Fields
variable (hk : kind < 2 ^ 4) (ht : target < 2 ^ 16) (hn : line < 2 ^ 16)
include hk ht hn

/-- The fields of the word that a command writes. -/
theorem sprCmd_fields : SPR_CMD_TARGET.of (sprCmd kind target line) = target ∧ SPR_CMD_LINE.of (sprCmd kind target line) = line ∧
    SPR_CMD_KIND.of (sprCmd kind target line) = kind ∧ SPR_CMD_GO.of (sprCmd kind target line) = 1 := by
  simp only [RF.of, bits, sprCmd, SPR_CMD_TARGET, SPR_CMD_LINE, SPR_CMD_KIND, SPR_CMD_GO]
  omega

/-- The write takes those fields. -/
theorem Dev.take_sprCmd :
    (((d.take SPR_CMD_TARGET (sprCmd kind target line)).take SPR_CMD_LINE (sprCmd kind target line)).take SPR_CMD_KIND
      (sprCmd kind target line)).w1c SPR_CMD_REFUSED (sprCmd kind target line) = d.sprTaken kind target line := by
  obtain ⟨htarget, hline, hkind, -⟩ := sprCmd_fields hk ht hn
  simp only [Dev.take, htarget, hline, hkind, Dev.sprTaken]

/-- What SPR_CMD then holds. -/
theorem Dev.sprTaken_get : (d.sprTaken kind target line).get SPR_CMD_KIND = kind ∧ (d.sprTaken kind target line).get SPR_CMD_TARGET = target ∧
    (d.sprTaken kind target line).get SPR_CMD_LINE = line := by
  have hkind : kind % 2 ^ SPR_CMD_KIND.width = kind := Nat.mod_eq_of_lt hk
  have htarget : target % 2 ^ SPR_CMD_TARGET.width = target := Nat.mod_eq_of_lt ht
  have hline : line % 2 ^ SPR_CMD_LINE.width = line := Nat.mod_eq_of_lt hn
  have hkeys : SPR_CMD_KIND.key ≠ SPR_CMD_REFUSED.key ∧ SPR_CMD_TARGET.key ≠ SPR_CMD_REFUSED.key ∧ SPR_CMD_LINE.key ≠ SPR_CMD_REFUSED.key ∧
    SPR_CMD_TARGET.key ≠ SPR_CMD_KIND.key ∧ SPR_CMD_LINE.key ≠ SPR_CMD_KIND.key ∧ SPR_CMD_TARGET.key ≠ SPR_CMD_LINE.key := by decide
  simp only [Dev.sprTaken, Dev.w1c, Dev.get_set, hkeys, hkind, htarget, hline, if_true, if_false, and_self]

variable (ho : isOwner cred = true)
include ho

/-- A write of a command whose action starts. -/
theorem Dev.sprCmdWr_done {x : Dev} (hx : (d.sprTaken kind target line).sprAction kind target line = some x) :
    d.sprCmdWr cred (sprCmd kind target line) = (x.flag SPR_CMD_REFUSED false, stOk) := by
  obtain ⟨-, -, -, hgo⟩ := sprCmd_fields hk ht hn
  obtain ⟨hkind, htarget, hline⟩ := Dev.sprTaken_get (d := d) hk ht hn
  refine (ownerWr_of_isOwner _ _ ho).trans ?_
  simp only [Dev.take_sprCmd hk ht hn, hgo, hkind, htarget, hline, Nat.one_ne_zero, if_false, hx]

/-- A write of one that is refused. -/
theorem Dev.sprCmdWr_refused (hx : (d.sprTaken kind target line).sprAction kind target line = none) :
    d.sprCmdWr cred (sprCmd kind target line) = ((d.sprTaken kind target line).flag SPR_CMD_REFUSED true, stOk) := by
  obtain ⟨-, -, -, hgo⟩ := sprCmd_fields hk ht hn
  obtain ⟨hkind, htarget, hline⟩ := Dev.sprTaken_get (d := d) hk ht hn
  refine (ownerWr_of_isOwner _ _ ho).trans ?_
  simp only [Dev.take_sprCmd hk ht hn, hgo, hkind, htarget, hline, Nat.one_ne_zero, if_false, hx]

variable {i : Instr} (h : WritesSprCmd i s cred kind target line) (hl : s.dev.live = true)
include h hl

/-- The action starts. -/
theorem WritesSprCmd.done {x : Dev} (hx : (s.dev.sprTaken kind target line).sprAction kind target line = some x) :
    exec i s = .next (s.metered ((x.flag SPR_CMD_REFUSED false).completed 0 0)) :=
  exec_nextM h hl (congrArg ended (Dev.sprCmdWr_done hk ht hn ho hx))

/-- It is refused. -/
theorem WritesSprCmd.refused (hx : (s.dev.sprTaken kind target line).sprAction kind target line = none) :
    exec i s = .next (s.metered (((s.dev.sprTaken kind target line).flag SPR_CMD_REFUSED true).completed 0 0)) :=
  exec_nextM h hl (congrArg ended (Dev.sprCmdWr_refused hk ht hn ho hx))

end Fields

/-! ### The actions, by kind -/

/-- An action behind a guard is none where the guard fails. -/
theorem guarded_eq {α : Type} {p q : Prop} [Decidable p] [Decidable q] (x : α) (h : p ↔ ¬ q) :
    (if p then some x else none) = if q then none else some x := by simp only [h, ite_not]

/-- Kind 15 orders the fence of a tile that is not fenced. -/
theorem Dev.sprAction_fence (ht : target < 256) : d.sprAction 15 target line =
    if (d.tile target).fenced = true then none
    else some { d with spare := { d.spare with fenceNext := d.spare.fenceNext.filter (· != target) ++ [target] } } :=
  guarded_eq _ (by simp [ht])

/-- Kind 1 starts a shift where none runs and the spare is free. -/
theorem Dev.sprAction_tile (ht : target < 256) : d.sprAction 1 target line =
    if d.spare.shift.isSome = true ∨ d.spareFree (spareFor target) = false then none
    else some ((d.dropNeed 1 target 0).startShift target) :=
  guarded_eq _ (by simp [ht])

/-- The faults that have been found in a tile's array. -/
def Dev.arrayFaultsOf (d : Dev) (n : Nat) : List (Nat × Bool × Nat) := d.spare.arrayFaults.filter fun e => e.1 == n

/-- They wait to be mapped out. -/
def Dev.arrayRepaired (d : Dev) (n : Nat) : Dev :=
  (d.arrayFaultsOf n).foldl (fun d e => (d.dropNeed 2 n e.2.2).modTile n fun t => { t with repairWait := t.repairWait ++ [e.2] }) d

/-- Kind 2 maps out the faults found. -/
theorem Dev.sprAction_array : d.sprAction 2 target line =
    if d.arrayFaultsOf target = [] then none
    else some { d.arrayRepaired target with
      spare := { (d.arrayRepaired target).spare with arrayFaults := (d.arrayRepaired target).spare.arrayFaults.filter fun e => e.1 != target } } := by
  simp only [← List.isEmpty_iff]
  rfl

/-- Kind 3 moves a line that can be moved where its bank has a spare. -/
theorem Dev.sprAction_line (ht : target < 256) : d.sprAction 3 target line =
    if 98304 ≤ line ∨ ((d.tile target).lineRepairs.any fun e => e.1 == line) = true ∨ (d.tile target).lineBad line = true ∨
        32 ≤ ((d.tile target).lineRepairs.filter fun e => e.2 == bankOf (d.tile target).hashed line).length then none
    else some ((d.dropNeed 3 target line).lineRepair target line) :=
  guarded_eq _ (by simp only [ht, decide_true, Bool.true_and, Bool.and_eq_true, decide_eq_true_eq, Bool.not_eq_true', not_or, Nat.not_le,
    Bool.not_eq_true, and_assoc])

/-- Kind 4 replaces a lane whose group has its spare. -/
theorem Dev.sprAction_lane (ht : target < 32) : d.sprAction 4 target line =
    if (d.dropNeed 4 target (d.laneTarget target % 2048)).groupTaken (laneGroup (d.laneTarget target)) = true then none
    else some { d.dropNeed 4 target (d.laneTarget target % 2048) with
      spare := { (d.dropNeed 4 target (d.laneTarget target % 2048)).spare with
        laneWait := (d.dropNeed 4 target (d.laneTarget target % 2048)).spare.laneWait ++ [d.laneTarget target] } } :=
  guarded_eq _ (by simp [ht])

/-- Kind 5 replaces a lane of a stack that has a spare left. -/
theorem Dev.sprAction_hbmLane (ht : target < 12) : d.sprAction 5 target line =
    if Config.hbmSpares target ≤ d.get (HBM_S_STATUS_LANES target) + mget d.mem.replaced 0 target then none
    else some { d.dropNeed 5 target 0 with
      mem := { (d.dropNeed 5 target 0).mem with
        replaced := mset (d.dropNeed 5 target 0).mem.replaced target (mget (d.dropNeed 5 target 0).mem.replaced 0 target + 1) } } :=
  guarded_eq _ (by simp [ht])

/-- Kind 6 moves a row that can be moved where its unit has a buffer. -/
theorem Dev.sprAction_row (ht : target < 20) : d.sprAction 6 target line =
    if rowRoom target ≤ (d.mem.rowBufs.filter (·.1 == target)).length + (d.mem.rowCopy.filter (·.1 == target)).length ∨
        (target, line) ∈ d.mem.rowBufs ∨ (target, line) ∈ d.mem.rowCopy ∨ d.rowBad target line = true then none
    else some ((d.dropNeed 6 target line).startRow target line) :=
  guarded_eq _ (by simp [ht, and_assoc])

/-- Kind 7 moves a port that is not UP to V. -/
theorem Dev.sprAction_port : d.sprAction 7 target line =
    if ¬ (1 ≤ target ∧ target ≤ 16 ∧ d.ethState target ≠ ethUp ∧ d.vReady = true) then none else some (d.sparePort target) :=
  guarded_eq _ (by simp [and_assoc])

end Sys2Proof.Machine

open Sys2Proof Sys2Proof.Machine

/-- Settles O54: a write of SPR_CMD starts its action or is refused, and each kind's action by its guard. -/
theorem spareCommands : Obligations.SpareCommands := by
  intro s cred tile link stack unit port line hl d y done refused n l
  have hn : n < 256 := tile.isLt
  have hl16 : l < 2 ^ 16 := Nat.mod_lt _ (by decide)
  refine ⟨fun ho => ?owner, fun ho e he => ?denied⟩
  case denied =>
    simp only [List.mem_cons, List.not_mem_nil, or_false] at he
    obtain rfl | rfl | rfl | rfl | rfl | rfl | rfl | rfl := he
    all_goals exact WritesSprCmd.denied rfl hl ho
  case owner =>
    have hdone {kind target line : Nat} {e : Instr} {x : Dev} (h : WritesSprCmd e s cred kind target line) (hk : kind < 2 ^ 4)
      (ht : target < 2 ^ 16) (hn : line < 2 ^ 16) (hx : (y kind target line).sprAction kind target line = some x) : done e x :=
      h.done hk ht hn ho hl hx
    have hrefused {kind target line : Nat} {e : Instr} (h : WritesSprCmd e s cred kind target line) (hk : kind < 2 ^ 4)
      (ht : target < 2 ^ 16) (hn : line < 2 ^ 16) (hx : (y kind target line).sprAction kind target line = none) :
      refused e (y kind target line) := h.refused hk ht hn ho hl hx
    refine ⟨⟨fun h => ?_, fun h => ?_⟩, ⟨fun h => ?_, fun hs hf => ?_⟩, ⟨fun h => ?_, fun h => ?_⟩, ⟨fun h => ?_, fun h1 h2 h3 h4 => ?_⟩,
      ⟨fun h => ?_, fun h => ?_⟩, ⟨fun h => ?_, fun h => ?_⟩, ⟨fun h => ?_, fun h1 h2 h3 h4 => ?_⟩, ⟨fun h => ?_, fun h => ?_⟩⟩
    · exact hrefused rfl (by decide) (by omega) (by decide) ((Dev.sprAction_fence hn).trans (if_pos h))
    · exact hdone rfl (by decide) (by omega) (by decide) ((Dev.sprAction_fence hn).trans (if_neg (ne_true_of_eq_false h)))
    · exact hrefused rfl (by decide) (by omega) (by decide) ((Dev.sprAction_tile hn).trans (if_pos h))
    · exact hdone rfl (by decide) (by omega) (by decide) ((Dev.sprAction_tile hn).trans (if_neg (not_or.2 ⟨Option.not_isSome_iff_eq_none.2 hs, ne_false_of_eq_true hf⟩)))
    · exact hrefused rfl (by decide) (by omega) (by decide) (Dev.sprAction_array.trans (if_pos h))
    · exact hdone rfl (by decide) (by omega) (by decide) (Dev.sprAction_array.trans (if_neg h))
    · exact hrefused rfl (by decide) (by omega) hl16 ((Dev.sprAction_line hn).trans (if_pos h))
    · exact hdone rfl (by decide) (by omega) hl16 ((Dev.sprAction_line hn).trans (if_neg (by
        simp only [not_or, Nat.not_le, Bool.not_eq_true]
        exact ⟨h1, h2, h3, h4⟩)))
    · exact hrefused rfl (by decide) (by omega) (by decide) ((Dev.sprAction_lane link.isLt).trans (if_pos h))
    · exact hdone rfl (by decide) (by omega) (by decide) ((Dev.sprAction_lane link.isLt).trans (if_neg (ne_true_of_eq_false h)))
    · exact hrefused rfl (by decide) (by omega) (by decide) ((Dev.sprAction_hbmLane stack.isLt).trans (if_pos h))
    · exact hdone rfl (by decide) (by omega) (by decide) ((Dev.sprAction_hbmLane stack.isLt).trans (if_neg (Nat.not_le.2 h)))
    · exact hrefused rfl (by decide) (by omega) hl16 ((Dev.sprAction_row unit.isLt).trans (if_pos h))
    · exact hdone rfl (by decide) (by omega) hl16 ((Dev.sprAction_row unit.isLt).trans (if_neg (by
        simp only [not_or, Nat.not_le, Bool.not_eq_true]
        exact ⟨h1, h2, h3, h4⟩)))
    · exact hrefused rfl (by decide) (by omega) (by decide) (Dev.sprAction_port.trans (if_pos h))
    · exact hdone rfl (by decide) (by omega) (by decide) (Dev.sprAction_port.trans (if_neg (not_not.2 h)))

end

section
/-! PROOF. Walkers, host scrubs, ageing and FAULT_N (R493, R494, R496, R506, R514, R516, R517), and the statement about them. -/

namespace Sys2Proof.Machine

variable {s : State} {d : Dev} {cred : Cred}

/-! ### Walkers (R493, R494) -/

section Walker
variable {die : Fin 4} {b : Bool} (hl : s.dev.live = true) {w : Nat} (hw : 2 * die.val + (if b then 1 else 0) = w)

/-- A heartbeat of walker w, 1,024 cycles after its last, and the votes that come with it. -/
def Dev.walkerBeat (d : Dev) (w : Nat) (ok : Bool) : Dev :=
  let t := d.toTick ((mget d.scrub.walkers Walker.init w).beatAt + 1024)
  (t.modWalker w fun x => { x with beatAt := t.tick }).walkerVoted w ok

include hl hw

/-- A walker that has stopped gives none. -/
theorem exec_walkerHeartbeat_stopped (ok : Bool) (h : s.dev.is (FLT_WALKER_STOPPED w) = true) :
    exec (.walkerHeartbeat die b ok) s = .next (s.metered s.dev) := by
  subst hw
  exact exec_nextM rfl hl (if_pos h)

variable (h : s.dev.is (FLT_WALKER_STOPPED w) = false)
include h

/-- A heartbeat after which nobody resets the walker. -/
theorem exec_walkerHeartbeat_stays {ok : Bool} (hok : ok = true ∨ (s.dev.walkerBeat w ok).walkersUp w = false) :
    exec (.walkerHeartbeat die b ok) s = .next (s.metered (s.dev.walkerBeat w ok)) := by
  have hstays : (ok || !(s.dev.walkerBeat w ok).walkersUp w) = true := by simpa using hok
  subst hw
  exact exec_nextM rfl hl ((if_neg (ne_true_of_eq_false h)).trans (if_pos hstays))

/-- One with a configuration that differs, by which its partner resets it. -/
theorem exec_walkerHeartbeat_differs (hup : (s.dev.walkerBeat w false).walkersUp w = true) :
    exec (.walkerHeartbeat die b false) s = .next (s.metered ((s.dev.walkerBeat w false).walkerReset w 1)) := by
  have hreset : ¬ (false || !(s.dev.walkerBeat w false).walkersUp w) = true := by simpa using hup
  subst hw
  exact exec_nextM rfl hl ((if_neg (ne_true_of_eq_false h)).trans (if_neg hreset))

end Walker

section Timeout
variable {die : Fin 4} {b : Bool} (hl : s.dev.live = true) {w : Nat} (hw : 2 * die.val + (if b then 1 else 0) = w)
include hl hw

/-- The timeout while either walker has stopped. -/
theorem exec_walkerHeartbeatTimeout_stopped (h : s.dev.walkersUp w = false) (stuck : Bool) :
    exec (.walkerHeartbeatTimeout die b stuck) s = .next (s.metered s.dev) := by
  subst hw
  exact exec_nextM rfl hl (if_pos (by simp [h]))

variable (h : s.dev.walkersUp w = true)
include h

omit hl hw in
/-- Walkers that run pass the first check. -/
theorem Dev.walkersUp_passes : ¬ (!s.dev.walkersUp w) = true := by simp [h]

/-- 4,096 cycles without a heartbeat. -/
theorem exec_walkerHeartbeatTimeout_silent : exec (.walkerHeartbeatTimeout die b false) s =
    .next (s.metered ((s.dev.toTick ((mget s.dev.scrub.walkers Walker.init w).beatAt + 4096)).walkerReset w 0)) := by
  subst hw
  exact exec_nextM rfl hl ((if_neg (Dev.walkersUp_passes h)).trans (if_neg Bool.false_ne_true))

/-- A walker that has moved is not stuck. -/
theorem exec_walkerHeartbeatTimeout_moved (hm : (mget s.dev.scrub.walkers Walker.init w).moved = true) :
    exec (.walkerHeartbeatTimeout die b true) s = .next (s.metered (s.dev.modWalker w fun y => { y with moved := false })) := by
  subst hw
  exact exec_nextM rfl hl ((if_neg (Dev.walkersUp_passes h)).trans ((if_pos rfl).trans (if_pos hm)))

/-- A walker that has not is. -/
theorem exec_walkerHeartbeatTimeout_stuck (hm : (mget s.dev.scrub.walkers Walker.init w).moved = false) :
    exec (.walkerHeartbeatTimeout die b true) s = .next (s.metered (s.dev.walkerReset w 2)) := by
  subst hw
  exact exec_nextM rfl hl ((if_neg (Dev.walkersUp_passes h)).trans ((if_pos rfl).trans (if_neg (ne_true_of_eq_false hm))))

end Timeout

/-! ### Host scrubs (R496) -/

/-- FLT_SCRUB_CMD as SCRUB_COMMAND writes it commands GO. -/
theorem scrubGo_of_setBits (v : Nat) : FLT_SCRUB_CMD_GO.of (setBits v 62 62 1) ≠ 0 := by
  simp only [RF.of, FLT_SCRUB_CMD_GO, bits, setBits]
  omega

/-- The RW fields of FLT_SCRUB_CMD as written. -/
def Dev.scrubTaken (d : Dev) (v : Nat) : Dev :=
  (((d.take FLT_SCRUB_CMD_TIER v).take FLT_SCRUB_CMD_TILE v).take FLT_SCRUB_CMD_FIRST v).take FLT_SCRUB_CMD_COUNT v

/-- What FLT_SCRUB_CMD names: where it starts, and how much. -/
def Dev.scrubNamed (d : Dev) : Nat × Nat := d.scrubRange (d.get FLT_SCRUB_CMD_TIER) (d.get FLT_SCRUB_CMD_FIRST) (d.get FLT_SCRUB_CMD_COUNT)

/-- The scrub that FLT_SCRUB_CMD names is under way. -/
def Dev.scrubBegun (d : Dev) : Dev :=
  { d with scrub := { d.scrub with cmd := some (d.get FLT_SCRUB_CMD_TIER, d.get FLT_SCRUB_CMD_TILE, d.scrubNamed.1, d.scrubNamed.2) } }

section Scrub
variable (hl : s.dev.live = true) (ho : isOwner cred = true) {v : Word} {y : Dev} (hy : s.dev.scrubTaken (setBits v.toNat 62 62 1) = y)
include hl ho hy

/-- One runs, or scrubbing is not effective as 1, or the tier names nothing. -/
theorem exec_scrubCommand_stays (h : y.duty 3 = false ∨ y.scrub.cmd.isSome = true ∨ y.get FLT_SCRUB_CMD_TIER = 3) :
    exec (.scrubCommand cred v) s = .next { s with dev := y.completed 0 0 } := by
  have hstays : (decide (FLT_SCRUB_CMD_GO.of (setBits v.toNat 62 62 1) = 0) || !y.duty 3 || y.scrub.cmd.isSome ||
      y.get FLT_SCRUB_CMD_TIER == 3) = true := by
    simpa only [Bool.or_eq_true, decide_eq_true_eq, Bool.not_eq_true', beq_iff_eq, scrubGo_of_setBits, false_or, or_assoc] using h
  subst hy
  exact exec_ownerWr hl ho rfl (if_pos hstays)

variable (h1 : y.duty 3 = true) (h2 : y.scrub.cmd = none) (h3 : y.get FLT_SCRUB_CMD_TIER ≠ 3)
include h1 h2 h3

omit hl ho hy in
/-- A command that may start. -/
theorem scrubCommand_passes : ¬ (decide (FLT_SCRUB_CMD_GO.of (setBits v.toNat 62 62 1) = 0) || !y.duty 3 || y.scrub.cmd.isSome ||
    y.get FLT_SCRUB_CMD_TIER == 3) = true := by
  simp [h1, h2, h3, scrubGo_of_setBits]

/-- One that names nothing is done at once. -/
theorem exec_scrubCommand_empty (h : y.scrubNamed.2 = 0) :
    exec (.scrubCommand cred v) s = .next { s with dev := (y.flag FLT_SCRUB_CMD_DONE true).completed 0 0 } := by
  subst hy
  exact exec_ownerWr hl ho rfl ((if_neg (scrubCommand_passes h1 h2 h3)).trans (if_pos h))

/-- Any other starts. -/
theorem exec_scrubCommand_starts (h : y.scrubNamed.2 ≠ 0) :
    exec (.scrubCommand cred v) s = .next { s with dev := (y.scrubBegun.flag FLT_SCRUB_CMD_DONE false).completed 0 0 } := by
  subst hy
  exact exec_ownerWr hl ho rfl ((if_neg (scrubCommand_passes h1 h2 h3)).trans (if_neg h))

end Scrub

/-! ### Ageing (R506, R514, R516) -/

/-- The margin of a position as measured. -/
def Dev.marginTaken (d : Dev) (ph m : Nat) : Dev := { d with power := { d.power with margins := mset d.power.margins ph m } }

/-- A spare that hosts no tile and is below ADVISE_PS. -/
theorem Dev.agedSpare_low {ph m : Nat} (hp : isSpare ph = true) (hm : m < d.get SPR_CFG_ADVISE_PS) :
    d.agedSpare ph m = (d.ageRecord ph m none (if d.rises 1 then 16 else 0)).raiseLevel 1 0 := if_pos (by simp [hp, hm])

/-- Any other position that hosts none. -/
theorem Dev.agedSpare_fine {ph m : Nat} (h : isSpare ph = false ∨ d.get SPR_CFG_ADVISE_PS ≤ m) : d.agedSpare ph m = d :=
  if_neg (by rcases h with h | h <;> simp [h])

section Ageing
variable (hl : s.dev.live = true) {phys : Fin 512} {margin : Nat}
include hl

/-- A number that is no position. -/
theorem exec_ageingMeasure_none (h : 68 ≤ phys.val % 128) : exec (.ageingMeasure phys margin) s = .next (s.metered s.dev) :=
  exec_nextM rfl hl (if_pos h)

variable (h : phys.val % 128 < 68) {e : Dev} (he : s.dev.marginTaken phys.val (min margin 65535) = e)
include h he

/-- A position that hosts a tile. -/
theorem exec_ageingMeasure_tile {n : Nat} (hn : e.hosted phys.val = some n) : exec (.ageingMeasure phys margin) s =
    .next (s.metered ((e.set (SPR_T_HEALTH_MARGIN n) (min margin 65535)).aged n (min margin 65535)).nextShift) := by
  subst he
  refine exec_nextM rfl hl ((if_neg (Nat.not_le.2 h)).trans ?_)
  rw [← Dev.marginTaken]
  simp only [hn]

/-- One that hosts none. -/
theorem exec_ageingMeasure_spare (hn : e.hosted phys.val = none) {x : Dev} (hx : e.agedSpare phys.val (min margin 65535) = x) :
    exec (.ageingMeasure phys margin) s = .next (s.metered x.nextShift) := by
  subst he hx
  refine exec_nextM rfl hl ((if_neg (Nat.not_le.2 h)).trans ?_)
  rw [← Dev.marginTaken]
  simp only [hn]

end Ageing

/-! ### FAULT_N (R517) -/

/-- What asserts FAULT_N. -/
def Dev.faultAsserted (d : Dev) : Prop :=
  d.get SPR_CFG_FAULT_LEVEL ≤ d.get SPR_STATUS_LEVEL ∨ d.get PWR_STATUS_STATE = 3 ∨ d.tick < d.power.faultUntil

/-- FAULT_N is low where something asserts it. -/
theorem Dev.faultLine_low (h : d.faultAsserted) : d.faultLine = { d with pins := { d.pins with faultN := false } } := by
  have hon : (decide (d.get SPR_CFG_FAULT_LEVEL ≤ d.get SPR_STATUS_LEVEL) || d.get PWR_STATUS_STATE == 3 ||
      decide (d.tick < d.power.faultUntil)) = true := by simpa [Dev.faultAsserted, or_assoc] using h
  simp only [Dev.faultLine, hon, Bool.not_true]

/-- It is high where nothing does. -/
theorem Dev.faultLine_high (h : ¬ d.faultAsserted) : d.faultLine = { d with pins := { d.pins with faultN := true } } := by
  have hon : (decide (d.get SPR_CFG_FAULT_LEVEL ≤ d.get SPR_STATUS_LEVEL) || d.get PWR_STATUS_STATE == 3 ||
      decide (d.tick < d.power.faultUntil)) = false := by simpa [Dev.faultAsserted, and_assoc] using h
  simp only [Dev.faultLine, hon, Bool.not_false]

end Sys2Proof.Machine

open Sys2Proof Sys2Proof.Machine

/-- Settles O57: each command by the guards of its body. -/
theorem upkeep : Obligations.Upkeep := by
  intro s cred v die b phys margin hl d now w x
  refine ⟨fun h ok => exec_walkerHeartbeat_stopped hl rfl ok h, fun h => ⟨fun ok hok => exec_walkerHeartbeat_stays hl rfl h hok,
      fun hup => exec_walkerHeartbeat_differs hl rfl h hup⟩,
    fun h stuck => exec_walkerHeartbeatTimeout_stopped hl rfl h stuck,
    fun h => ⟨exec_walkerHeartbeatTimeout_silent hl rfl h, fun hm => exec_walkerHeartbeatTimeout_moved hl rfl h hm,
      fun hm => exec_walkerHeartbeatTimeout_stuck hl rfl h hm⟩,
    fun ho => ⟨fun h => exec_scrubCommand_stays hl ho rfl h, fun h1 h2 h3 h => exec_scrubCommand_empty hl ho rfl h1 h2 h3 h,
      fun h1 h2 h3 h => exec_scrubCommand_starts hl ho rfl h1 h2 h3 h⟩,
    fun h => exec_ageingMeasure_none hl h, fun h => ⟨fun n hn => exec_ageingMeasure_tile hl h rfl hn,
      fun hn hp hm => exec_ageingMeasure_spare hl h rfl hn (Dev.agedSpare_low hp hm),
      fun hn hp => exec_ageingMeasure_spare hl h rfl hn (Dev.agedSpare_fine hp)⟩,
    fun ho => exec_ownerWr_denied hl ho rfl, fun h => exec_nextM rfl hl (Dev.faultLine_low h),
    fun h => exec_nextM rfl hl (Dev.faultLine_high h)⟩

end

section
/-! PROOF. Envelope modes, adaptive voltage and PMBus (R536 to R539, R549), and the statement about them. -/

namespace Sys2Proof.Machine

variable {s : State} {d : Dev} {cred : Cred}

/-! ### Envelope modes (R536, R537, R549) -/

section Envelope
variable (hl : s.dev.live = true) (ho : isOwner cred = true) {v : Word}
include hl ho

/-- The owner requests a mode. -/
theorem exec_envelopeReq_mode (h : PWR_ENVELOPE_REQ.of v.toNat < 3) : exec (.envelopeReq cred v) s =
    .next { s with dev := (((s.dev.set PWR_ENVELOPE_REQ (PWR_ENVELOPE_REQ.of v.toNat)).take PWR_ENVELOPE_AUTO v.toNat).remode).completed 0 0 } := by
  have htake : s.dev.takeIf PWR_ENVELOPE_REQ v.toNat (fun x => decide (x < 3)) = s.dev.set PWR_ENVELOPE_REQ (PWR_ENVELOPE_REQ.of v.toNat) :=
    if_pos (decide_eq_true h)
  exact exec_ownerWr hl ho rfl (congrArg (fun x : Dev => ((x.take PWR_ENVELOPE_AUTO v.toNat).remode, stOk)) htake)

/-- A code that is no mode is not taken. -/
theorem exec_envelopeReq_reserved (h : 3 ≤ PWR_ENVELOPE_REQ.of v.toNat) : exec (.envelopeReq cred v) s =
    .next { s with dev := ((s.dev.take PWR_ENVELOPE_AUTO v.toNat).remode).completed 0 0 } := by
  have htake : s.dev.takeIf PWR_ENVELOPE_REQ v.toNat (fun x => decide (x < 3)) = s.dev :=
    if_neg (by simpa using h)
  exact exec_ownerWr hl ho rfl (congrArg (fun x : Dev => ((x.take PWR_ENVELOPE_AUTO v.toNat).remode, stOk)) htake)

end Envelope

/-- A change of ADMIT and ARRAY leaves CAP. -/
theorem Dev.remode_cap : d.remode.get PWR_ENVELOPE_CAP = d.get PWR_ENVELOPE_CAP := by
  have hkeys : PWR_ENVELOPE_CAP.key ≠ PWR_ENVELOPE_PENDING.key ∧ PWR_ENVELOPE_CAP.key ≠ PWR_ENVELOPE_ARRAY.key ∧
    PWR_ENVELOPE_CAP.key ≠ PWR_ENVELOPE_ADMIT.key := by decide
  simp only [Dev.remode, Dev.flag, Dev.get_set, hkeys, if_false]

/-- Another mode for CAP. -/
theorem Dev.setCap_get {m : Nat} (hm : m < 2 ^ 2) : (d.setCap m).get PWR_ENVELOPE_CAP = m := by
  unfold Dev.setCap
  split
  case isTrue h => exact h
  case isFalse =>
    exact Dev.remode_cap.trans ((Dev.get_set_same _ _ _).trans (Nat.mod_eq_of_lt hm))

/-- CAP falls by one mode, down to the lowest. -/
theorem Dev.capDown_get (h : d.get PWR_ENVELOPE_CAP < 2) : d.capDown.get PWR_ENVELOPE_CAP = d.get PWR_ENVELOPE_CAP + 1 := by
  have hmin : min 2 (d.get PWR_ENVELOPE_CAP + 1) = d.get PWR_ENVELOPE_CAP + 1 := Nat.min_eq_right h
  unfold Dev.capDown
  rw [hmin]
  exact Dev.setCap_get (by omega)

/-- The average that POWER_AVERAGE takes: the meter's, where the rails do not answer. -/
def Dev.averageTaken (d : Dev) (m : Meter) (mw : Nat) : Nat := if d.power.railTold.contains 0 then m.power.sum else d.meanPower mw

/-- The average of the power is noted. -/
def Dev.averageNoted (d : Dev) (avg : Nat) : Dev :=
  ({ d with power := { d.power with avg := avg } } : Dev).set PWR_STATUS_PKG_W (min (avg / 1000) 65535)

/-- The record of too much power. -/
def Dev.powerTold (d : Dev) : Dev := ((d.thermalRecord 4 d.noSource).draw).capWatch

/-- The average is above the limit of ARRAY's mode. -/
def Dev.powerAbove (d : Dev) (avg : Nat) : Prop := d.is PWR_ENVELOPE_AUTO = true ∧ modeLimit (d.get PWR_ENVELOPE_ARRAY) < avg

/-- CAP may fall, and its last step has reached ARRAY. -/
def Dev.capFalls (d : Dev) : Prop := d.get PWR_ENVELOPE_CAP < 2 ∧ d.power.capStep ≤ d.get PWR_ENVELOPE_ARRAY

/-- What a live device answers to POWER_AVERAGE. -/
def Dev.powerAveraged (d : Dev) (avg : Nat) : Dev :=
  let e :=
    if d.is PWR_ENVELOPE_AUTO && decide (modeLimit (d.get PWR_ENVELOPE_ARRAY) < avg) then
      let x := if d.get PWR_ENVELOPE_CAP < 2 && decide (d.power.capStep ≤ d.get PWR_ENVELOPE_ARRAY) then d.capDown else d
      (x.thermalRecord 4 x.noSource).draw
    else d
  e.capWatch

section Average
variable {avg : Nat}

/-- Within the limit nothing falls. -/
theorem Dev.powerAveraged_within (h : ¬ d.powerAbove avg) : d.powerAveraged avg = d.capWatch :=
  congrArg Dev.capWatch (if_neg (by simpa [Dev.powerAbove] using h))

/-- Above it the excess is recorded. -/
theorem Dev.powerAveraged_above (h : d.powerAbove avg) {x : Dev}
    (hx : (if d.get PWR_ENVELOPE_CAP < 2 && decide (d.power.capStep ≤ d.get PWR_ENVELOPE_ARRAY) then d.capDown else d) = x) :
    d.powerAveraged avg = x.powerTold := by
  subst hx
  exact congrArg Dev.capWatch (if_pos (by simpa [Dev.powerAbove] using h))

/-- CAP stays where it may not fall. -/
theorem Dev.powerAveraged_stays (h : d.powerAbove avg) (hf : ¬ d.capFalls) : d.powerAveraged avg = d.powerTold :=
  Dev.powerAveraged_above h (if_neg (by simpa [Dev.capFalls] using hf))

/-- Else it falls by one. -/
theorem Dev.powerAveraged_falls (h : d.powerAbove avg) (hf : d.capFalls) : d.powerAveraged avg = d.capDown.powerTold :=
  Dev.powerAveraged_above h (if_pos (by simpa [Dev.capFalls] using hf))

/-- POWER_AVERAGE. -/
theorem exec_powerAverage (hl : s.dev.live = true) {mw : Nat} {x : Dev}
    (hx : (s.dev.averageNoted (s.dev.averageTaken s.mtr mw)).powerAveraged (s.dev.averageTaken s.mtr mw) = x) :
    exec (.powerAverage mw) s = .next (s.metered x) := by
  have hrun : exec (.powerAverage mw) s =
      runRead (fun m d => (d.averageNoted (d.averageTaken m mw)).powerAveraged (d.averageTaken m mw)) s := rfl
  rw [hrun, runRead_live _ _ hl, hx]
  rfl

end Average

section Rise
variable (hl : s.dev.live = true)
include hl

/-- CAP does not rise where it has not been cool. -/
theorem exec_capRise_none (h : s.dev.power.coolSince = none) : exec .capRise s = .next { s with dev := s.dev } :=
  exec_next rfl hl (by simp only [h])

/-- After 10 s of room it rises, if there is room still. -/
theorem exec_capRise_some {t : Nat} (h : s.dev.power.coolSince = some t) {x : Dev}
    (hx : (if (s.dev.toTick (t + tenSeconds)).capCool = true then
      (s.dev.toTick (t + tenSeconds)).setCap ((s.dev.toTick (t + tenSeconds)).get PWR_ENVELOPE_CAP - 1)
      else (s.dev.toTick (t + tenSeconds)).capWatch) = x) : exec .capRise s = .next { s with dev := x } :=
  exec_next rfl hl (by simp only [h]; exact hx)

end Rise

/-! ### Adaptive voltage (R538) -/

section Avs
variable (hl : s.dev.live = true)
include hl

/-- Before the boot stage has ended nothing is adjusted. -/
theorem exec_avsAdjust_early (h : s.dev.pastBoot = false) : exec .avsAdjust s = .next { s with dev := s.dev } :=
  exec_next rfl hl (if_pos (by simp [h]))

variable (h : s.dev.pastBoot = true)
include h

omit hl in
/-- Past the boot stage the first check passes. -/
theorem Dev.pastBoot_passes : ¬ (!s.dev.pastBoot) = true := by simp [h]

/-- With EN 0 the voltage is FIXED. -/
theorem exec_avsAdjust_fixed (he : s.dev.is PWR_AVS_EN = false) :
    exec .avsAdjust s = .next { s with dev := s.dev.setAvs (s.dev.get PWR_AVS_FIXED) } :=
  exec_next rfl hl ((if_neg (Dev.pastBoot_passes h)).trans (if_pos (by simp [he])))

variable (he : s.dev.is PWR_AVS_EN = true)
include he

/-- Without a margin it stays. -/
theorem exec_avsAdjust_unmeasured (hm : s.dev.marginM = none) : exec .avsAdjust s = .next { s with dev := s.dev } :=
  exec_next rfl hl ((if_neg (Dev.pastBoot_passes h)).trans ((if_neg (by simp [he])).trans (by rw [hm])))

section Margin
variable {m : Nat} (hm : s.dev.marginM = some m)
include hm

/-- With one, it follows the margin. -/
theorem exec_avsAdjust_margin {x : Dev}
    (hx : (if m < s.dev.get PWR_AVS_TARGET_PS then s.dev.setAvs (min 7500 (s.dev.get PWR_AVS_SET + 50))
      else if s.dev.get PWR_AVS_TARGET_PS + 10 ≤ m && decide (s.dev.power.avsAt + 100 * msLen ≤ s.dev.tick) then
        s.dev.setAvs (max 6000 (s.dev.get PWR_AVS_SET - 25))
      else s.dev) = x) : exec .avsAdjust s = .next { s with dev := x } :=
  exec_next rfl hl ((if_neg (Dev.pastBoot_passes h)).trans ((if_neg (by simp [he])).trans (by rw [hm]; exact hx)))

/-- It falls where the margin is 10 ps above target, at most every 100 ms. -/
theorem exec_avsAdjust_falls (h10 : s.dev.get PWR_AVS_TARGET_PS + 10 ≤ m) (hat : s.dev.power.avsAt + 100 * msLen ≤ s.dev.tick) :
    exec .avsAdjust s = .next { s with dev := s.dev.setAvs (max 6000 (s.dev.get PWR_AVS_SET - 25)) } :=
  exec_avsAdjust_margin hl h he hm ((if_neg (by omega)).trans (if_pos (by simp [h10, hat])))

/-- Between the two it stays. -/
theorem exec_avsAdjust_stays (h0 : s.dev.get PWR_AVS_TARGET_PS ≤ m)
    (hx : m < s.dev.get PWR_AVS_TARGET_PS + 10 ∨ s.dev.tick < s.dev.power.avsAt + 100 * msLen) :
    exec .avsAdjust s = .next { s with dev := s.dev } := by
  have hfalls : ¬ (decide (s.dev.get PWR_AVS_TARGET_PS + 10 ≤ m) && decide (s.dev.power.avsAt + 100 * msLen ≤ s.dev.tick)) = true := by
    simp only [Bool.and_eq_true, decide_eq_true_eq]
    omega
  exact exec_avsAdjust_margin hl h he hm ((if_neg (Nat.not_lt.2 h0)).trans (if_neg hfalls))

end Margin

end Avs

/-! ### PMBus (R539) -/

/-- The record of a rail whose STATUS_WORD has news, or which is silent. -/
def Dev.railRecord (d : Dev) (k temp : Nat) : Dev :=
  (d.thermalRecord 5 (leBytes 1 3 ++ leBytes 2 k ++ leBytes 1 temp ++ [Config.recordByte d.free 4])).draw

/-- A reading of rail k is taken. -/
def Dev.railTaken (d : Dev) (k : Nat) (r : RailRx) : Dev :=
  let x := (((d.set (PWR_RAIL_IOUT k) r.iout).set (PWR_RAIL_VOUT k) r.vout).set (PWR_RAIL_TEMP k) r.temp).set (PWR_RAIL_STATUS_WORD k) r.status
  ({ x with power := { x.power with
    rails := mset d.power.rails k r, railAt := mset d.power.railAt k d.tick, railTold := d.power.railTold.filter (· != k) } } : Dev).samplePower

/-- A bit of STATUS_WORD is newly set. -/
def railNews (r : RailRx) (old : Nat) : Bool := (List.range 16).any fun i => bit r.status i == 1 && bit old i == 0

/-- What the news are, bit by bit. -/
theorem railNews_iff {r : RailRx} {old : Nat} : railNews r old = true ↔ ∃ i : Fin 16, bit r.status i.val = 1 ∧ bit old i.val = 0 := by
  simp only [railNews, any_range_iff, Bool.and_eq_true, beq_iff_eq]

section Rail
variable {rail : Fin 10} {r : RailRx} (hl : s.dev.live = true)
include hl

/-- Rails are not polled before the boot stage has ended, nor one without an address. -/
theorem exec_pmbusPoll_none (h : s.dev.pastBoot = false ∨ s.dev.railAddr rail.val = 0) : exec (.pmbusPoll rail r) s = .next { s with dev := s.dev } :=
  exec_next rfl hl (if_pos (by simpa using h))

/-- Nor are they silent then; and silence is told once. -/
theorem exec_regulatorTimeout_none (h : s.dev.pastBoot = false ∨ s.dev.railAddr rail.val = 0 ∨ rail.val ∈ s.dev.power.railTold) :
    exec (.regulatorTimeout rail) s = .next { s with dev := s.dev } :=
  exec_next rfl hl (if_pos (by simpa [or_assoc] using h))

variable (ha : s.dev.railAddr rail.val ≠ 0) (hp : s.dev.pastBoot = true)
include ha hp

omit hl in
/-- A rail that is polled. -/
theorem Dev.rail_passes : ¬ (!s.dev.pastBoot || s.dev.railAddr rail.val == 0) = true := by simp [ha, hp]

/-- A reading without news. -/
theorem exec_pmbusPoll_quiet (h : ¬ railNews r (s.dev.get (PWR_RAIL_STATUS_WORD rail.val)) = true) :
    exec (.pmbusPoll rail r) s = .next { s with dev := s.dev.railTaken rail.val r } :=
  exec_next rfl hl ((if_neg (Dev.rail_passes ha hp)).trans (if_neg h))

/-- One with news. -/
theorem exec_pmbusPoll_news (h : railNews r (s.dev.get (PWR_RAIL_STATUS_WORD rail.val)) = true) :
    exec (.pmbusPoll rail r) s = .next { s with dev := (s.dev.railTaken rail.val r).railRecord rail.val r.temp } :=
  exec_next rfl hl ((if_neg (Dev.rail_passes ha hp)).trans (if_pos h))

/-- 100 ms of silence. -/
theorem exec_regulatorTimeout_silent (h : rail.val ∉ s.dev.power.railTold) {e : Dev}
    (he : s.dev.toTick (mget s.dev.power.railAt 0 rail.val + 100 * msLen) = e) {x : Dev}
    (hx : { e with power := { e.power with railTold := e.power.railTold ++ [rail.val] } } = x) :
    exec (.regulatorTimeout rail) s = .next { s with dev := x.railRecord rail.val (x.get (PWR_RAIL_TEMP rail.val)) } := by
  subst he hx
  exact exec_next rfl hl (if_neg (by simp [ha, hp, h]))

end Rail

end Sys2Proof.Machine

open Sys2Proof Sys2Proof.Machine

/-- Settles O58: each command by the guards of its body. -/
theorem powerControl : Obligations.PowerControl := by
  intro s cred v mw rail r hl d now
  refine ⟨fun ho => ⟨exec_envelopeReq_mode hl ho, exec_envelopeReq_reserved hl ho⟩, fun ho => exec_ownerWr_denied hl ho rfl,
    ⟨fun h => exec_powerAverage hl (Dev.powerAveraged_within h), fun h hf => exec_powerAverage hl (Dev.powerAveraged_stays h hf),
      fun h hf => ⟨Dev.capDown_get hf.1, exec_powerAverage hl (Dev.powerAveraged_falls h hf)⟩⟩,
    exec_capRise_none hl, fun t ht => ⟨fun h => exec_capRise_some hl ht (if_pos h), fun h => exec_capRise_some hl ht (if_neg (ne_true_of_eq_false h))⟩,
    fun h => ⟨exec_avsAdjust_early hl h, exec_pmbusPoll_none hl (.inl h), exec_regulatorTimeout_none hl (.inl h)⟩,
    fun h => ⟨exec_avsAdjust_fixed hl h, exec_avsAdjust_unmeasured hl h, fun m he hm => ⟨fun hx => exec_avsAdjust_margin hl h he hm (if_pos hx),
      exec_avsAdjust_falls hl h he hm, exec_avsAdjust_stays hl h he hm⟩⟩, ?rails⟩
  case rails =>
    exact ⟨fun h => ⟨exec_pmbusPoll_none hl (.inr h), exec_regulatorTimeout_none hl (.inr (.inl h))⟩, fun ha hp =>
      ⟨fun h => exec_pmbusPoll_quiet hl ha hp (mt railNews_iff.1 h), fun h => exec_pmbusPoll_news hl ha hp (railNews_iff.2 h),
        fun h => exec_regulatorTimeout_none hl (.inr (.inr h)), fun h => exec_regulatorTimeout_silent hl ha hp h rfl rfl⟩⟩

end

section
/-! PROOF. Thermal states and telemetry (R540 to R545, R547), and the statement about them. -/

namespace Sys2Proof.Machine

variable {s : State} {d : Dev}

/-! ### Thermal states (R540 to R542) -/

/-- A sensor has read 105 °C or more twice running. -/
def Dev.thermalTrips (d : Dev) : Prop := ∃ q ∈ d.power.trip, 2 ≤ q.2

/-- The highest state above the present one that some sensor has held at. -/
def Dev.hotState (d : Dev) : Option Nat := ([3, 2, 1].filter fun k => decide (d.get PWR_STATUS_STATE < k)).find? fun k => (d.hotFor k).isSome

/-- Nothing lies above a state that some sensor holds at and above which none holds. -/
theorem Dev.hotState_some {k i : Nat} (h1 : 1 ≤ k) (h3 : k ≤ 3) (hk : d.get PWR_STATUS_STATE < k) (hi : d.hotFor k = some i)
    (hj : ∀ j, k < j → j ≤ 3 → d.hotFor j = none) : d.hotState = some k := by
  have hnone {j : Nat} (h : k < j) (h' : j ≤ 3) : (d.hotFor j).isSome = false := by simp [hj j h h']
  have hsome : (d.hotFor k).isSome = true := by simp [hi]
  obtain rfl | rfl | rfl : k = 1 ∨ k = 2 ∨ k = 3 := by omega
  · simp [Dev.hotState, hk, hnone, hsome, show d.get PWR_STATUS_STATE < 2 by omega, show d.get PWR_STATUS_STATE < 3 by omega]
  · simp [Dev.hotState, hk, hnone, hsome, show d.get PWR_STATUS_STATE < 3 by omega]
  · simp [Dev.hotState, hk, hsome]

/-- No sensor holds at a higher state. -/
theorem Dev.hotState_none (hj : ∀ k, d.get PWR_STATUS_STATE < k → k ≤ 3 → d.hotFor k = none) : d.hotState = none := by
  refine List.find?_eq_none.2 fun k hk => ?_
  obtain ⟨hmem, hlt⟩ := List.mem_filter.1 hk
  have hle : k ≤ 3 := by
    simp only [List.mem_cons, List.not_mem_nil, or_false] at hmem
    omega
  simp [hj k (of_decide_eq_true hlt) hle]

section Sample
variable (hl : s.dev.live = true) {temps : List (Nat × Int)} {e : Dev} (he : (s.dev.readSensors temps).showTemps = e)
include hl he

/-- The device trips. -/
theorem exec_thermalSample_trips (h : e.thermalTrips) : exec (.thermalSample temps) s =
    .next { s with dev := { e with stopped := true, pins := { e.pins with thermtripN := false } } } := by
  have hany : (e.power.trip.any fun q => decide (2 ≤ q.2)) = true := by simpa [Dev.thermalTrips] using h
  subst he
  exact exec_next rfl hl (if_pos hany)

variable (h : ¬ e.thermalTrips)
include h

omit hl he in
/-- No sensor trips it. -/
theorem Dev.thermalTrips_passes : ¬ (e.power.trip.any fun q => decide (2 ≤ q.2)) = true := by simpa [Dev.thermalTrips] using h

/-- It enters a higher state. -/
theorem exec_thermalSample_up {k i : Nat} (hk : e.hotState = some k) (hi : e.hotFor k = some i) :
    exec (.thermalSample temps) s = .next { s with dev := e.thermalUp k i } := by
  subst he
  unfold Dev.hotState at hk
  refine exec_next rfl hl ((if_neg (Dev.thermalTrips_passes h)).trans ?_)
  simp only [hk, hi, Option.getD_some]

/-- No higher one is due: it may leave its state. -/
theorem exec_thermalSample_level (hk : e.hotState = none) {x : Dev}
    (hx : (if e.get PWR_STATUS_STATE ≠ 0 && decide (1000 ≤ e.power.below) then e.thermalDown else e) = x) :
    exec (.thermalSample temps) s = .next { s with dev := x } := by
  subst he
  unfold Dev.hotState at hk
  refine exec_next rfl hl ((if_neg (Dev.thermalTrips_passes h)).trans ?_)
  simp only [hk]
  exact hx

variable (hk : e.hotState = none)
include hk

/-- After a thousand cool readings it leaves its state. -/
theorem exec_thermalSample_down (hc : e.get PWR_STATUS_STATE ≠ 0) (hb : 1000 ≤ e.power.below) :
    exec (.thermalSample temps) s = .next { s with dev := e.thermalDown } :=
  exec_thermalSample_level hl he h hk (if_pos (by simp [hc, hb]))

/-- Else it stays. -/
theorem exec_thermalSample_stays (hx : e.get PWR_STATUS_STATE = 0 ∨ e.power.below < 1000) :
    exec (.thermalSample temps) s = .next { s with dev := e } :=
  exec_thermalSample_level hl he h hk (if_neg (by rcases hx with hx | hx <;> simp [hx]))

end Sample

section Warn
variable (hl : s.dev.live = true)
include hl

/-- Outside WARN no second counts. -/
theorem exec_warnStep_elsewhere (h : s.dev.get PWR_STATUS_STATE ≠ 1) : exec .warnStep s = .next { s with dev := s.dev } :=
  exec_next rfl hl (if_pos h)

/-- One more second in WARN. -/
def Dev.warned (d : Dev) : Dev :=
  let t := d.toTick (d.power.stateSince + secLen)
  { t with power := { t.power with stateSince := t.tick } }

/-- In WARN, CAP falls under AUTO. -/
theorem exec_warnStep_warn (h : s.dev.get PWR_STATUS_STATE = 1) {x : Dev}
    (hx : (if s.dev.warned.is PWR_ENVELOPE_AUTO = true then s.dev.warned.capDown else s.dev.warned) = x) :
    exec .warnStep s = .next { s with dev := x } :=
  exec_next rfl hl ((if_neg (not_not.2 h)).trans hx)

end Warn

/-! ### Telemetry (R545, R547) -/

/-- The end of a period. -/
def Dev.telemDue (d : Dev) : Dev :=
  let e := (d.toTick (d.power.telemAt + d.get PWR_TELEM_PERIOD * msLen)).applyPend 10
  { e with power := { e.power with telemAt := e.tick } }

/-- The sets are composed. -/
def Dev.telemComposed (d : Dev) (sealOk : Bool) : Dev :=
  { d with i3c := { d.i3c with set1 := d.telemSet1 sealOk, set2 := d.telemSet2, seq1 := d.i3c.seq1 + 1 } }

/-- What the I3C target holds does not show in the duty map. -/
theorem Dev.duty_i3c (d : Dev) (x : I3c) (k : Nat) : ({ d with i3c := x } : Dev).duty k = d.duty k := rfl

/-- A composition leaves the duty map. -/
theorem Dev.telemComposed_duty {ok : Bool} {k : Nat} : (d.telemComposed ok).duty k = d.duty k := Dev.duty_i3c d _ k

/-- The sets are pushed. -/
def Dev.telemPushed (d : Dev) : Dev := (d.push (pushTelem 1) d.i3c.set1).push (pushTelem 2) d.i3c.set2

/-- TELEMETRY_COMPOSE on a live device. -/
def Dev.telemStep (d : Dev) (sealOk : Bool) : Dev :=
  if d.is DMC_STATUS_RESTARTING then d
  else if d.telemDue.is DMC_STATUS_STOPPED && !d.telemDue.duty 10 then d.telemDue
  else if (d.telemDue.telemComposed sealOk).duty 10 then d.telemDue.telemComposed sealOk
  else (d.telemDue.telemComposed sealOk).telemPushed

/-- TELEMETRY_COMPOSE. -/
theorem exec_telemetryCompose (hl : s.dev.live = true) {x : Dev} (hx : s.dev.telemStep s.mtr.sealOk = x) :
    exec .telemetryCompose s = .next (s.metered x) := by
  have hrun : exec .telemetryCompose s = runRead (fun m d => d.telemStep m.sealOk) s := rfl
  rw [hrun, runRead_live _ _ hl, hx]
  rfl

section Telemetry
variable {ok : Bool}

/-- During a restart of the controller the last composition stands. -/
theorem Dev.telemStep_restarting (h : d.is DMC_STATUS_RESTARTING = true) : d.telemStep ok = d := if_pos h

variable (h : d.is DMC_STATUS_RESTARTING = false)
include h

/-- A controller that has stopped in hardware mode composes nothing. -/
theorem Dev.telemStep_stopped (hs : d.telemDue.is DMC_STATUS_STOPPED = true ∧ d.telemDue.duty 10 = false) : d.telemStep ok = d.telemDue := by
  obtain ⟨hstop, hduty⟩ := hs
  simp only [Dev.telemStep, h, hstop, hduty, Bool.false_eq_true, Bool.not_false, Bool.and_self, if_true, if_false]

/-- In host-assisted mode the sets stay in service, unpushed. -/
theorem Dev.telemStep_kept (hd : (d.telemDue.telemComposed ok).duty 10 = true) : d.telemStep ok = d.telemDue.telemComposed ok := by
  have hduty : d.telemDue.duty 10 = true := Dev.telemComposed_duty.symm.trans hd
  exact (if_neg (ne_true_of_eq_false h)).trans ((if_neg (by simp [hduty])).trans (if_pos hd))

/-- Else they are pushed. -/
theorem Dev.telemStep_pushed (hs : ¬ (d.telemDue.is DMC_STATUS_STOPPED = true ∧ d.telemDue.duty 10 = false))
    (hd : (d.telemDue.telemComposed ok).duty 10 = false) : d.telemStep ok = (d.telemDue.telemComposed ok).telemPushed :=
  (if_neg (ne_true_of_eq_false h)).trans ((if_neg (by simpa using hs)).trans (if_neg (ne_true_of_eq_false hd)))

end Telemetry

end Sys2Proof.Machine

open Sys2Proof Sys2Proof.Machine

/-- Settles O59: each command by the guards of its body. -/
theorem thermalControl : Obligations.ThermalControl := by
  intro s temps hl d now
  exact ⟨⟨exec_thermalSample_trips hl rfl, fun h =>
      ⟨fun k i h1 h3 hk hi hj => exec_thermalSample_up hl rfl h (Dev.hotState_some h1 h3 hk hi hj) hi,
        fun hj => ⟨exec_thermalSample_down hl rfl h (Dev.hotState_none hj), exec_thermalSample_stays hl rfl h (Dev.hotState_none hj)⟩⟩⟩,
    exec_warnStep_elsewhere hl, fun h => ⟨fun ha => exec_warnStep_warn hl h (if_pos ha),
      fun ha => exec_warnStep_warn hl h (if_neg (ne_true_of_eq_false ha))⟩,
    fun h => exec_telemetryCompose hl (Dev.telemStep_restarting h),
    fun h => ⟨fun hs => exec_telemetryCompose hl (Dev.telemStep_stopped h hs), fun hd => exec_telemetryCompose hl (Dev.telemStep_kept h hd),
      fun hs hd => exec_telemetryCompose hl (Dev.telemStep_pushed h hs hd)⟩⟩

end
